-- ==== Sys2Proof/Word.lean ====
section
/-!
DEFINITION. The word types of the part (00_scope.md R8 to R10, R14) and their plainest arithmetic.
Multi-byte data is little-endian everywhere (R10).
-/

namespace Sys2Proof

/-- One byte. -/
abbrev Byte := BitVec 8
/-- A 16-bit field. -/
abbrev U16 := BitVec 16
/-- A 32-bit word. -/
abbrev U32 := BitVec 32
/-- A 48-bit beat or step number (R49, R51). -/
abbrev U48 := BitVec 48
/-- A 64-bit field. -/
abbrev U64 := BitVec 64

/-- A string of bytes, lowest address first. -/
abbrev Bytes := List Byte

end Sys2Proof
end

