-- ==== Sys2Proof/Syntax.lean ====
section
/-!
DEFINITION. The commands of the block, one constructor of `Instr` per row of spec/opcode_table.json, in the table's order,
and the types of their operands. A row's operand is what the outside world or the physical event brings with it; what the
part already holds is read from State.
-/

namespace Sys2Proof

/-- A physical tile (01 R17): px in 6 bits and py in 5 bits, as DPHYS and PCOORD carry them (R211, R359). -/
structure TileId where
  px : BitVec 6
  py : BitVec 5
  deriving DecidableEq, Repr

/-- A partition number, 0 to 15 (R413). -/
abbrev PartId := Fin 16
/-- A link port, 0 to 15 (R31). -/
abbrev PortId := Fin 16
/-- A lane of a link port: 0 to 7 active, 8 spare (R294). -/
abbrev LaneId := Fin 9
/-- A host function index h (R402). -/
abbrev FnId := Fin 8
/-- A mailbox of a function (R407). -/
abbrev MboxId := Fin 64
/-- A half-die number hd (R18). -/
abbrev HdId := Fin 16
/-- A scratchpad bank (R149). -/
abbrev BankId := Fin 32
/-- An Ethernet session of a port, or `none` for the native port itself (R303). -/
abbrev Session := Option (Fin 64)

/-- The four engines that take descriptors (R98). -/
inductive Eng where
  | mxe | vxe | dma | msg
  deriving DecidableEq, Repr

/-- What the check code of one seam word shows (R61). -/
inductive SeamWord where
  | clean | corrected | uncorrectable
  deriving DecidableEq, Repr

/-- A word read with an error that its code corrects: of scratchpad (R153), of IMEM or the accumulator store (R94), or of a stack, with
the DPA and the pin in error (R168). -/
inductive Corrected where
  | scratchpad
  | imem
  | accum
  | dram (dpa : BitVec 42) (pin : Fin 18)
  deriving DecidableEq, Repr

/-- What the ECC of the memory words an operation reads shows (R94, R153, R168, R169). The addresses are of the first bad
word; the syndrome or symbol map is the decoder's, which the manual does not publish (R362). -/
inductive Ecc where
  | clean
  | corrected (word : Corrected)
  | scratchpad (addr : BitVec 22) (syndrome : U16)
  | imem (addr : BitVec 22) (syndrome : U16)
  | accum (addr : BitVec 22) (syndrome : U16)
  | dram (dpa : BitVec 42) (symbols : BitVec 18)
  deriving DecidableEq, Repr

/-- A word in error that the boundary slot of a beat meets (R362, R376): of a tile's entry buffer as it is reloaded, of a carry half as it is
saved, or of DRAM as the partition unit reads it; or one that is corrected there (R168). -/
inductive BoundaryEcc where
  | entryBuffer (t : TileId) (addr : BitVec 22) (syndrome : U16)
  | carrySave (t : TileId) (addr : BitVec 22) (syndrome : U16)
  | memory (dpa : BitVec 42) (symbols : BitVec 18)
  | corrected (t : TileId) (word : Corrected)
  deriving DecidableEq, Repr

/-- A partition whose latch is sampled, and what the ECC of the facet records that the sample reads shows (R259, R277). -/
structure FacetRead where
  part : PartId
  ecc : Ecc
  deriving DecidableEq, Repr

/-- A bank whose drain is over, and what the ECC of the words that its last partial writes merge into shows (R153, R180). [DEDUCED, log entry 47] -/
structure BankDrain where
  bank : BankId
  ecc : Ecc
  deriving DecidableEq, Repr

/-- A sample of the 54 V input in mV, and whether both input blades carry it (R445, R481). -/
structure InputReading where
  mv : U32
  both : Bool
  deriving DecidableEq, Repr

/-- A packet of the request or reply network (R211, R212): the header's fields and the payload. `len` is LEN[8:0]. -/
structure Packet where
  type : Byte
  vc : BitVec 2
  dl : Bool
  mcast : Bool
  refwd : Bool
  fence : Bool
  ue : Bool
  len : BitVec 9
  gen : BitVec 7
  dst : U32
  src : U32
  dphys : U16
  dstu : BitVec 4
  srcu : BitVec 4
  part : Byte
  addr : U64
  step : U48
  tag : U16
  payload : Bytes
  deriving DecidableEq, Repr

/-- A 32-byte latch frame (R261). -/
structure LatchFrame where
  kind : Byte
  stage : Byte
  ttl : Byte
  clean : Bool
  agreeValid : Bool
  closed : Bool
  hold : Byte
  cause : Byte
  origin : U16
  step : U48
  attempt : Byte
  agree : U64
  job : U64
  deriving DecidableEq, Repr

/-- A HELLO control message (R307). -/
structure Hello where
  gen : Byte
  port : Byte
  coord : U16
  role : Byte
  boot : U64
  device : U64
  job : U64
  deriving DecidableEq, Repr

/-- A HEARTBEAT control message (R319). -/
structure Heartbeat where
  tTx : U64
  tEcho : U64
  tArr : U64
  beat : U48
  deriving DecidableEq, Repr

/-- The calibrated transmit and receive datapath delays of both ends, in ps, that ALIGN reports with the timing markers (R297). -/
structure AlignDelays where
  localTx : U32
  localRx : U32
  partnerTx : U32
  partnerRx : U32
  deriving DecidableEq, Repr

/-- A NAK control message (R315). -/
structure NakMsg where
  reason : Byte
  channel : Byte
  tag : U16
  src : U32
  dst : U32
  step : U48
  deriving DecidableEq, Repr

/-- A unit that votes on a staged change (R429). -/
inductive UnitName where
  | router (t : TileId)
  | seam (id : U16)
  | halfDie (hd : HdId)
  | memory (stack : Fin 32)
  | port (p : PortId)
  | ioDie (east : Bool)
  | bank (t : TileId)
  | partitionUnit
  deriving DecidableEq, Repr

/-- Where a packet waits to be injected (R221, R230). -/
inductive InjectAt where
  | tile (t : TileId)
  | pintle
  | port (p : PortId)
  | host (f : FnId)
  deriving DecidableEq, Repr

/-- An end of a message channel: the message unit of a tile, or the I/O die of a link port (R233). -/
inductive EndAt where
  | tile (t : TileId)
  | port (p : PortId)
  deriving DecidableEq, Repr

/-- A BIST result record (R393). -/
structure BistRecord where
  block : Byte
  result : Byte
  test : Byte
  source : Byte
  wher : U32
  addr : U64
  bits : U32
  expect : U32
  observed : U32
  timeUs : U32
  deriving DecidableEq, Repr

/-- One calibrated seam (R58, R59): the worst one-way delays measured over all pairings, in ps, and the least margin. -/
structure SeamMeasure where
  id : U16
  worstP : U32
  worstR : U32
  marginPs : U16
  calibrated : Bool
  deriving DecidableEq, Repr

/-- What a start-up stage found, beyond what the state already decides (R378, R384, R387). [DEDUCED, log entry 57] -/
structure StageReport where
  elapsedMs : U32
  seams : List SeamMeasure
  bist : List BistRecord
  standbyBooted : Bool
  pllLocked : Bool
  failedStacks : BitVec 32
  retrainedStacks : BitVec 32
  unrepairable : List U64
  deriving DecidableEq, Repr

/-- The transport of a management message (R468, R475). -/
inductive Transport where
  | host (f : FnId)
  | i3c
  deriving DecidableEq, Repr

/-- A Pintle command as the mailbox hands it over (R416, R418): who asks, through which mailbox, the request's FLAGS and TAG
and its body. -/
structure Req where
  fn : FnId
  mbox : MboxId
  flags : U16
  tag : U16
  body : Bytes
  deriving DecidableEq, Repr

/-- A junction sensor (R455): one of 16 in a half-die, or one of 4 in an I/O die. -/
inductive Sensor where
  | halfDie (hd : HdId) (i : Fin 16)
  | ioDie (east : Bool) (i : Fin 4)
  deriving DecidableEq, Repr

/-- The commands of the block: one constructor per row of spec/opcode_table.json. -/
inductive Instr where
  -- the beat and the time base (02)
  | tbRefLoss
  | tsyncOutPulse
  | tsyncInEdge
  | beatBoundary (p : PartId) (bad : List BoundaryEcc)
  | beatDeadline (p : PartId)
  | stageVote (p : PartId) (u : UnitName) (ready : Bool) (marginPs : U16)
  | voteDeadline (p : PartId)
  | seamTransfer (seam : U16) (reverse : Bool) (word : SeamWord)
  | seamCorrectedLimit (seam : U16)
  -- the tile sequencer and its engines (04, 05)
  | seqInstruction (t : TileId) (ecc : Ecc)
  | zqEnq (t : TileId) (e : Eng) (rd rs1 : BitVec 5) (ecc : Ecc)
  | zqWait (t : TileId) (e : Eng) (rs1 : BitVec 5)
  | zqWaitRetire (t : TileId)
  | zqPoll (t : TileId) (e : Eng) (rd : BitVec 5)
  | zqBwait (t : TileId)
  | zqBwaitRetire (t : TileId)
  | zqBsync (t : TileId)
  | zqBsyncRetire (t : TileId)
  | mxePassStart (t : TileId)
  | mxeAttemptEnd (t : TileId) (ecc : Ecc)
  | mxePassComplete (t : TileId)
  | vxeElementwise (t : TileId) (ecc : Ecc)
  | vxeReduce (t : TileId) (ecc : Ecc)
  | vxeCombine (t : TileId) (ecc : Ecc)
  | vxeFacet (t : TileId) (ecc : Ecc)
  | vxeTopk (t : TileId) (ecc : Ecc)
  | vxeComplete (t : TileId)
  -- the DMA engine and the message unit (06, 09)
  | dmaCopy (t : TileId) (ecc : Ecc)
  | dmaConvert (t : TileId) (ecc : Ecc)
  | dmaWopen (t : TileId) (ecc : Ecc)
  | dmaWclose (t : TileId)
  | dmaComplete (t : TileId)
  | msgListen (t : TileId)
  | msgOpen (t : TileId)
  | msgSend (t : TileId)
  | msgSendAllot (t : TileId) (chan : BitVec 20) (ecc : Ecc)
  | msgRelease (t : TileId)
  | msgClose (t : TileId)
  | msgUnitComplete (t : TileId)
  -- scratchpad, rings, stacked DRAM (06)
  | ringStallTimeout (t : TileId) (index : Nat)
  | ringHeldWriteAccept (t : TileId) (index : Nat) (ecc : Ecc)
  | carrySaveOverdue (p : PartId)
  | patrolScrub (dpa : BitVec 42) (loc : U64) (ecc : Ecc)
  | dramRowRepair (stack : Fin 32)
  | regionZeroingDone (region : BitVec 9)
  | bankDrainDone (t : TileId) (d : BankDrain)
  | bankDrainTimeout (t : TileId) (bank : BankId)
  | bankClearDone (t : TileId) (bank : BankId)
  -- the stream plane (07)
  | streamSlot (t : TileId) (ecc : Ecc) (badFlit : Option (Fin 5))
  | steerToken (t : TileId) (su : Fin 8)
  -- the request and reply networks (08)
  | packetInject (src : InjectAt)
  | packetRoute (index : Nat) (word : SeamWord)
  | fencedRequestRelease (t : TileId) (index : Nat)
  | replyTimeout (t : TileId) (tag : U16)
  | mcastCreditTimeout (index : Nat)
  | writeRequest (t : TileId) (pkt : Packet) (ecc : Ecc)
  | readRequest (t : TileId) (pkt : Packet) (ecc : Ecc)
  | msgArrival (dest : EndAt) (pkt : Packet)
  | msgctlOpen (dest : EndAt) (pkt : Packet)
  | msgctlOpenAck (dest : EndAt) (pkt : Packet)
  | msgctlCredit (dest : EndAt) (pkt : Packet)
  | msgctlClose (dest : EndAt) (pkt : Packet)
  | mgmtWr (t : TileId) (pkt : Packet)
  | mgmtRd (t : TileId) (pkt : Packet)
  | image (t : TileId) (pkt : Packet)
  | notice (t : TileId)
  | cmpl (t : TileId) (pkt : Packet)
  | cmplD (t : TileId) (pkt : Packet) (ecc : Ecc)
  | resend (t : TileId)
  -- the step latch (10)
  | latchSample (r : FacetRead)
  | partitionBitFormed (p : PartId)
  | gatherFrame (p : PartId) (port : PortId) (f : LatchFrame)
  | gatherDeadline (p : PartId)
  | breakFrame (p : PartId) (port : PortId) (f : LatchFrame)
  | breakCutoff (p : PartId)
  | haltFrame (p : PartId) (port : PortId) (f : LatchFrame)
  | outcomeFrame (p : PartId) (f : LatchFrame)
  | shadowFrame (p : PartId) (f : LatchFrame)
  -- links (11)
  | haspFrameReceive (port : PortId) (sess : Session) (frame : Bytes) (fecOk : Bool)
  | replayTimeout (port : PortId) (sess : Session)
  | linkReset (port : PortId) (sess : Session)
  | controlReset (port : PortId)
  | replay (port : PortId) (sess : Session) (seq : U16)
  | nak (port : PortId) (msg : NakMsg)
  | heartbeatSend (port : PortId) (sess : Session)
  | heartbeat (port : PortId) (sess : Session) (hb : Heartbeat)
  | heartbeatMiss (port : PortId) (sess : Session)
  | lane (port : PortId) (failed : LaneId) (atSeq : U16) (ack : Bool)
  | laneSwap (port : PortId)
  | hello (port : PortId) (sess : Session) (h : Hello)
  | admitFragment (port : PortId) (sess : Session) (kind : Byte) (index : Byte) (last : Bool) (data : Bytes)
  | credits (port : PortId) (sess : Session) (returns : List (Byte × U16))
  | laneTrainingDone (port : PortId) (l : LaneId) (aligned : Bool) (delays : AlignDelays) (device : U64)
  | laneQualifyWindow (port : PortId) (passed : BitVec 9) (noUncorrectable : Bool)
  | laneMonitorWindow (port : PortId) (overLimit : BitVec 9)
  | laneLockLoss (port : PortId) (l : LaneId)
  | linkDown (port : PortId)
  | syncExchange (port : PortId) (sess : Session) (t1 t2 t3 t4 : U64)
  | admissionStageTimeout (port : PortId) (sess : Session)
  | admissionRevoke (port : PortId) (sess : Session)
  | serviceRequest (port : PortId) (ipv6 : Bool) (addr : Bytes) (binding : U16) (request : U32) (client : U16) (payload : Bytes)
  -- faults, repair, resets (12, 13)
  | faultInboxDrain
  | partitionRelease (p : PartId)
  | fastPathAbandon (p : PartId)
  | inFieldTestDone (t : TileId) (results : List BistRecord)
  | defectLogAppend
  | hangWindowExpiry (t : TileId)
  | quiescenceCheck (p : PartId) (notIdle stillBusy : List (TileId × BitVec 3))
  | tileReset (t : TileId) (wardAnswers : Bool)
  | clusterReset (t : TileId) (wardAnswers : Bool)
  | partitionReset (p : PartId) (inTime : Bool)
  | deviceReset
  | powerCycleRequest
  | watchdogExpiry
  -- start-up (14)
  | startAttempt
  | startStageComplete (r : StageReport)
  | startStageTimeout
  | linkStagePortTimeout (port : PortId)
  | broadcastDeadline (t : TileId)
  | resendRoundTimeout (t : TileId)
  | imageDigestCheck (t : TileId)
  | loadStatusCheck
  | knownAnswerDone (failed : List (TileId × U64 × U32))
  | ready
  | attemptFailed (reason : Byte) (detail : U32)
  -- host functions (15)
  | perst (portB : Bool)
  | flr (f : FnId)
  | pcieLinkDown (f : FnId)
  | bar2Read (f : FnId) (offset : BitVec 36) (len : BitVec 13) (ecc : Ecc)
  | bar2Write (f : FnId) (offset : BitVec 36) (data : Bytes)
  | a2CtlWrite (f : FnId) (v : U32)
  | evCtlWrite (f : FnId) (v : U32)
  | evTailWrite (f : FnId) (v : U32)
  | countLoRead (f : FnId)
  | registerWrite (f : FnId) (offset : BitVec 22) (v : U32)
  | mailboxPoll (f : FnId) (m : MboxId)
  | msixModerationExpiry (f : FnId)
  | telemetryRewrite
  -- Pintle commands (16)
  | identify (r : Req)
  | setBifurcation (r : Req)
  | partCreate (r : Req)
  | partDestroy (r : Req)
  | partQuery (r : Req)
  | partParams (r : Req)
  | regionState (r : Req)
  | bankPower (r : Req)
  | rowRepair (r : Req)
  | channelRange (r : Req)
  | flatSet (r : Req)
  | windowRead (r : Req)
  | progLoad (r : Req)
  | progUnload (r : Req)
  | jobStart (r : Req)
  | jobDrain (r : Req)
  | jobAbandon (r : Req)
  | jobResume (r : Req)
  | dlistSet (r : Req)
  | scan (r : Req)
  | apply (r : Req)
  | stageCancel (r : Req)
  | stageRead (r : Req)
  | seamReset (r : Req)
  | timeOffset (r : Req)
  | tsync (r : Req)
  | manifestLoad (r : Req)
  | shadowSet (r : Req)
  | shadowStop (r : Req)
  | shadowRead (r : Req)
  | promote (r : Req)
  | insert (r : Req)
  | portMode (r : Req)
  | portAssign (r : Req)
  | exitTable (r : Req)
  | ethConfig (r : Req)
  | ethPeer (r : Req)
  | admitPort (r : Req)
  | remove (r : Req)
  | portCaps (r : Req)
  | portRead (r : Req)
  | faultLog (r : Req)
  | stepLog (r : Req)
  | facetLog (r : Req)
  | mapRead (r : Req)
  | seamRead (r : Req)
  | counters (r : Req)
  | recordRead (r : Req)
  | test (r : Req)
  | fence (r : Req)
  | clearDefect (r : Req)
  | reset (r : Req)
  | coldStart (r : Req)
  | startClear (r : Req)
  | powerState (r : Req)
  | capSet (r : Req)
  | energyRead (r : Req)
  | fwWrite (r : Req)
  | fwCommit (r : Req)
  | fwStatus (r : Req)
  | spdm (r : Req)
  | adminSet (r : Req)
  | telemetry (r : Req)
  | svcBind (r : Req)
  | svcUnbind (r : Req)
  | svcClients (r : Req)
  | svcStats (r : Req)
  -- power, cooling, security, module (17, 18, 19)
  | inputSample (r : InputReading)
  | inputTransientExpiry
  | converterStart
  | droopLevel1 (t : TileId) (mv : U16)
  | droopLevel2 (t : TileId) (mv vnom : U16)
  | marginMeasure (t : TileId) (marginPs : U32)
  | capWindow (watts : List Nat) (inputW : Nat)
  | headroomExhausted (p : PartId)
  | thermalSample (s : Sensor) (deciC : U32)
  | coolantCheck (flow inlet outlet : U16)
  | idleExitDone (hd : HdId)
  | debugUnlock (token : Bytes)
  | attestationSignDone
  | spdmMctp (tr : Transport) (msg : Bytes)
  | mctpControl (tr : Transport) (msg : Bytes)
  | i3cSetdasa (static dynamic : BitVec 7)
  | i3cEntdaa (dynamic : BitVec 7)
  | pldmType0 (tr : Transport) (msg : Bytes)
  | getSensorReading (tr : Transport) (sensor : U16)
  | getStateSensorReadings (tr : Transport) (sensor : U16)
  | getPdr (tr : Transport) (handle : U32)
  | cblPrsntChange (port : PortId) (present : Bool)
  | cblSupplyOvercurrent (port : PortId)
  -- the rows the table appends
  | haspFrameSend (port : PortId) (sess : Session) (ecc : Ecc)
  | laneSignalDetect (port : PortId) (l : LaneId)
  | pcieLinkUp (f : FnId) (gen : Byte)
  | droopStretchEnd (t : TileId)
  | hostReadCompletion (f : FnId) (tag : U16) (initiator : U32) (data : Bytes)
  deriving DecidableEq, Repr

end Sys2Proof
end

