-- ==== Sys2Proof/Decode.lean ====
section
/-!
DEFINITION. The decoder of table words. No row of spec/opcode_table.json gives bits: the block's commands are events and
operations, not words, so no word spells a command.
-/

namespace Sys2Proof

/-- The command that a word spells by the bits the table gives its rows: none, since no row gives bits. [DESIGN CHOICE, log entry 81] -/
def decodeTableWord (_nbits _w : Nat) : Option Instr := none

end Sys2Proof
end

