-- ==== Sys2Proof/Config.lean ====
section
/-!
DEFINITION. What the manual leaves open: constants without a body, so that no proof can see a value of them. A claim that names
one holds for every value it may have.
-/

namespace Sys2Proof

/-- A scratchpad or IMEM byte whose contents are undefined (R154, R366): tile key, how often the contents became undefined, byte
address. [DESIGN CHOICE, log entry 8] -/
opaque Config.undefByte : Nat → Nat → Nat → Byte

/-- What a word with an uncorrectable error reads as (R6, R94, R153, R169): draw, byte. [DESIGN CHOICE, log entry 86] -/
opaque Config.upsetByte : Nat → Nat → Byte

/-- ADDR of the record of an uncorrectable word in an egress stage, for which R362 has no code: draw. [DESIGN CHOICE, log entry 87] -/
opaque Config.stageAddr : Nat → U64

/-- Where the DRAM word at a DPA lies in its stack: CHANNEL, BANK, PIN-free and ROW bits [58:0] of the location word (R328). The
manual gives no such map. [DESIGN CHOICE, log entry 10] -/
opaque Config.dramLoc : Nat → BitVec 59

/-- Bytes of a scanned-out image whose layout the manual does not give (R203): offset, and the state that the section must hold (STEERQ, DMA,
MSG, SPORTQ), or none for the mask over the binding state in ENGCTL. [DESIGN CHOICE, log entry 25] -/
opaque Config.imageByte : Nat → Bytes → Byte

/-- The windows that Pintle opens on a tile when it loads its program (R176): the manual does not say which, and a program set names none: draw,
tile key, window; the 32 bytes of R175. [DESIGN CHOICE, log entry 90] -/
opaque Config.loadWindow : Nat → Nat → Nat → Bytes

/-- The channel ends that Pintle opens at program load (R236), which the manual does not name either: draw; channel number and the 64 bytes of
R234. [DESIGN CHOICE, log entry 90] -/
opaque Config.loadEnds : Nat → List (Nat × Bytes)

/-- A byte that a descriptor reads from a 64-byte word it also writes, outside the in-place forms: before or after the write, which is
undefined (R119, R146): draw, address. [DESIGN CHOICE, log entry 24] -/
opaque Config.raceByte : Nat → Nat → Byte

/-- Fields A and B of a merge of records whose KIND differ or are not defined (R131, R134): the two words merged. [DESIGN CHOICE, log entry 16] -/
opaque Config.mergeWord : Nat → Nat → U32

/-- Ring number and slot address that an initiator reports for a write that a remote ring discarded (R160): the packet's ADDR. [DESIGN CHOICE, log entry 22] -/
opaque Config.remoteRingAddr : Nat → BitVec 28

/-- K of a merge of two top-k lists whose K differ (R145). [DESIGN CHOICE, log entry 16] -/
opaque Config.mergedK : Nat → Nat → Nat

/-- Whether a signature verifies over a content digest under a key whose digest the fuses hold (R463): slot contents digest. [DEDUCED, log entry 71] -/
opaque Config.signatureOk : Bytes → Bool

/-- The random words of the security blocks (R470): nonces, draws. [DESIGN CHOICE, log entry 9; DESIGN CHOICE, log entry 73] -/
opaque Config.random : Nat → Nat → Byte

/-- Bytes of an SPDM, PLDM or MCTP answer that other standards define and the manual does not (R468, R475, R476): message, draw. [PRESUMED, log entry 72] -/
opaque Config.standardAnswer : Bytes → Nat → Bytes

/-- Whether a partner's evidence verifies at admission (R308): evidence bytes. [DESIGN CHOICE, log entry 73] -/
opaque Config.evidenceOk : Bytes → Bool

/-- What the ECC of partition memory shows Pintle as it reads a set or a manifest (R168, R169), by draw: nothing, or, at a byte offset of the read, a
pin in error that is corrected, or an uncorrectable word with its symbols. [DESIGN CHOICE, log entry 46] -/
opaque Config.pintleEcc : Nat → Option (Nat × Fin 18 × Bool × BitVec 18)

/-- Where Pintle places the entry save areas of a partition (R206), in pages of 4 KiB, by draw. [DESIGN CHOICE, log entry 25] -/
opaque Config.savePage : Nat → Nat

/-- EXPECT and OBSERVED of a tile that fails the known-answer run, by tile and TID (R393). [DESIGN CHOICE, log entry 57] -/
opaque Config.facetWords : Nat → Nat → U32 × U32

/-- The serial number of a stack, to which its saved training settings are bound (R381), by stack. [DESIGN CHOICE, log entry 57] -/
opaque Config.stackSerial : Nat → U64

/-- The two stacks, of different C-dies, on which Pintle keeps the copies of what it doubles (R385). [DESIGN CHOICE, log entry 57] -/
opaque Config.pintleStacks : Nat × Nat

/-- The port whose egress stage a failing I/O-die memory record names, by its ADDR; none for the inbox, the journal SRAM and the
flat-identifier tables (R393, R394). [DESIGN CHOICE, log entry 57] -/
opaque Config.ioDiePort : U64 → Option (Fin 16)

/-- CODE of the DEVICE event of a stack that was trained in full after a device reset (R385, R422). [DESIGN CHOICE, log entry 57] -/
opaque Config.retrainedCode : Nat → U16

/-- DEVICE of HELLO: from the device identity certificate, which the manual does not give (R307, R467). [DESIGN CHOICE, log entry 65] -/
opaque Config.identity : U64

/-- FW that a partner's evidence reports (R306, R469): evidence bytes. [DESIGN CHOICE, log entry 73] -/
opaque Config.evidenceFw : Bytes → Bytes

/-- The image of manufacture in slot A (R462): FW, SVN, DIGEST; and digests that the manual does not give (R469): the boot ROM's. [DESIGN CHOICE, log entry 65] -/
opaque Config.factoryFw : BitVec 128
opaque Config.factorySvn : BitVec 6
opaque Config.factoryDigest : BitVec 512
opaque Config.romDigest : BitVec 512

/-- An SPDM request that an end makes of a partner, beyond its code (R308), as the SPDM standard lays it out: its version and its other bytes,
by the number of the request and the responses so far. [PRESUMED, log entry 72] -/
opaque Config.spdmVersion : Nat → Bytes → Byte
opaque Config.spdmFields : Nat → Bytes → Bytes

/-- The 144 bytes of equaliser coefficients that training has found (R296): draw, byte. [DESIGN CHOICE, log entry 41] -/
opaque Config.laneCoefficient : Nat → Nat → Byte
/-- The symbols in error of a DRAM row that a stack's BIST reports, by ADDR and BIT of the record (R330, R393). [DESIGN CHOICE, log entry 57] -/
opaque Config.bistSymbols : BitVec 64 → BitVec 32 → BitVec 18

/-- A byte of an IP or UDP header for which the manual gives no value (identification, hop limit, checksums, flow label; R303): draw,
offset. [DESIGN CHOICE, log entry 89] -/
opaque Config.ipByte : Nat → Nat → Byte

/-- The syndrome of an uncorrectable seam word; the check matrices are not published (R61, R362): draw. [DESIGN CHOICE, log entry 44] -/
opaque Config.syndrome : Nat → U16

/-- Garnet16 blocks marked in the chunks of an attempt (R271, R275): job, step slot. The manual does not say how they are counted. [DESIGN CHOICE, log entry 36] -/
opaque Config.markedBlocks : Nat → Nat → U16

/-- The class of the HALT that an overdue carry save sends: the manual names no class for it (R268). [DEDUCED, log entry 23] -/
opaque Config.carryClass : Nat → Byte

/-- Which of the 2 × 2 blocks that hold a tile is its cluster, by the tile's key: whether it is the block's right column and its lower row; the manual
does not say (R366). [DEDUCED, log entry 55] -/
opaque Config.cluster : Nat → BitVec 2

/-- The tile firmware image that an image of Pintle carries; the manual gives its place in no slot (R389, R462): the booted image's DIGEST. [DESIGN CHOICE, log entry 58] -/
opaque Config.tileImage : Bytes → Bytes

/-- The ranges of device memory that Pintle holds for its own use, as DPA and size: the manual gives their contents, not their places (R171,
R230, R233, R361, R410). -/
opaque Config.pintleRanges : List (Nat × Nat)

/-- Input energy, in µJ, of a partition in a 1 µs window (R459): its load and the module's input, in W. The conversion efficiency is
measured, and the manual gives no formula for it. [DEDUCED, log entry 76] -/
opaque Config.inputEnergy : Nat → Nat → Nat

/-- Whether an unlock token carries SERIAL and the nonce given and verifies under a Henic key that is not revoked (R471): token, nonce,
revoked keys. [DESIGN CHOICE, log entry 73] -/
opaque Config.tokenOk : Bytes → Bytes → Nat → Bool

/-- What a seam reset measures (R58, R60): the worst one-way delay of a direction in ps, and the least margin: seam, draw, reverse. [DESIGN CHOICE, log entry 44] -/
opaque Config.seamDelay : Nat → Nat → Bool → U32
opaque Config.seamMargin : Nat → Nat → U16

/-- SPDM 1.3 as its own standard has it (R468): whether a request asks for a signature, the response (request, connection state, measurement
blocks, draw), and the connection state after it (state, request). [PRESUMED, log entry 72] -/
opaque Config.spdmSigned : Bytes → Bool
opaque Config.spdmAnswer : Bytes → Nat → List Bytes → Nat → Bytes
opaque Config.spdmNext : Nat → Bytes → Nat

/-- The number of the sensor of R476 that a PLDM sensor number names, in the order of that table; the manual numbers none. [PRESUMED, log entry 72] -/
opaque Config.sensorIndex : Nat → Nat

/-- The core-clock edges suppressed in a droop event (R449): tile key, draw. [DEDUCED, log entry 75] -/
opaque Config.droopEdges : Nat → Nat → BitVec 7

/-- Identity values that the part carries and the manual does not give (R408, R434): vendor, device, revision, serial. [DESIGN CHOICE, log entry 65] -/
opaque Config.vendor : U16
opaque Config.device : U16
opaque Config.hwRev : Byte
opaque Config.serial : BitVec 128

end Sys2Proof
end

