-- ==== Sys2Proof/Machine/Digest.lean ====
section
/-!
DEFINITION. Byte strings and the digests the part computes over them: little-endian fields (00_scope.md R10), CRC-32C
(R204, R287), CRC-64 ECMA-182 (R348), SHA-512 (R310, R389, R440) and the Philox generator (R89).
-/

namespace Sys2Proof.Machine

/-- The little-endian number a byte string spells (R10). -/
def leNat : Bytes → Nat
  | [] => 0
  | b :: bs => b.toNat + 256 * leNat bs

/-- The `k` little-endian bytes of a number (R10). -/
def leBytes : Nat → Nat → Bytes
  | 0, _ => []
  | k + 1, v => BitVec.ofNat 8 v :: leBytes k (v / 256)

/-- Byte `i` of a string, zero beyond its end. -/
def byteAt (bs : Bytes) (i : Nat) : Byte := bs.getD i 0

/-- The `k`-byte little-endian field at offset `off` of a structure (R13). -/
def fieldAt (bs : Bytes) (off k : Nat) : Nat := leNat ((bs.drop off).take k)

/-- A byte string of length `k`: cut, or padded with zero bytes (R211). -/
def padTo (k : Nat) (bs : Bytes) : Bytes := bs.take k ++ List.replicate (k - bs.length) 0

/-- Whether every byte of `[off, off + k)` is zero (a Reserved field, R12). -/
def zeroAt (bs : Bytes) (off k : Nat) : Bool := ((bs.drop off).take k).all (· == 0)

/-- Bit `i` of a number. -/
def bitAt (v i : Nat) : Bool := v.testBit i

/-- Bits `[hi:lo]` of a number (R10). -/
def bitsOf (v hi lo : Nat) : Nat := (v >>> lo) % 2 ^ (hi + 1 - lo)

/-- The two's complement reading of a `w`-bit number. -/
def signedOf (w v : Nat) : Int := if v < 2 ^ (w - 1) then (v : Int) else (v : Int) - (2 ^ w : Nat)

/-- The `w`-bit two's complement code of an integer. -/
def unsignedOf (w : Nat) (i : Int) : Nat := (i % ((2 ^ w : Nat) : Int)).toNat

/-! CRC-32C, reflected, polynomial 0x1EDC6F41 (its reflection is 0x82F63B78). -/

/-- Eight bit steps of the reflected CRC register. -/
def crc32cBits : Nat → Nat → Nat
  | 0, c => c
  | k + 1, c => crc32cBits k (if c % 2 = 1 then (c / 2) ^^^ 0x82F63B78 else c / 2)

/-- The CRC-32C of a byte string (Castagnoli; R204, R287, R327, R329). [PRESUMED, log entry 84] -/
def crc32c (bs : Bytes) : Nat :=
  (bs.foldl (fun c b => crc32cBits 8 (c ^^^ b.toNat)) 0xFFFFFFFF) ^^^ 0xFFFFFFFF

/-! CRC-64 with the ECMA-182 polynomial, initial value zero, no reflection (R348). -/

/-- Eight bit steps of the CRC-64 register, most significant bit first. -/
def crc64Bits : Nat → Nat → Nat
  | 0, c => c
  | k + 1, c =>
    crc64Bits k (if c ≥ 2 ^ 63 then ((c * 2) % 2 ^ 64) ^^^ 0x42F0E1EBA9EA3693 else c * 2)

/-- One byte into the CRC-64 register. -/
def crc64Byte (c : Nat) (b : Byte) : Nat := crc64Bits 8 (c ^^^ (b.toNat * 2 ^ 56))

/-- The CRC-64 of a byte string continued from register `c` (R348). [PRESUMED, log entry 84] -/
def crc64 (c : Nat) (bs : Bytes) : Nat := bs.foldl crc64Byte c

/-! SHA-512. Its constants are the leading fractional bits of square and cube roots of the first primes. -/

/-- The integer `k`-th root of `v`, found bit by bit from bit `fuel - 1` down. -/
def rootBits (k v : Nat) : Nat → Nat → Nat
  | 0, acc => acc
  | fuel + 1, acc =>
    let c := acc + 2 ^ fuel
    rootBits k v fuel (if c ^ k ≤ v then c else acc)

/-- The first 80 primes. -/
def sha512Primes : List Nat :=
  [2, 3, 5, 7, 11, 13, 17, 19, 23, 29, 31, 37, 41, 43, 47, 53, 59, 61, 67, 71, 73, 79, 83, 89, 97, 101, 103, 107, 109, 113,
   127, 131, 137, 139, 149, 151, 157, 163, 167, 173, 179, 181, 191, 193, 197, 199, 211, 223, 227, 229] ++
  [233, 239, 241, 251, 257, 263, 269, 271, 277, 281, 283, 293, 307, 311, 313, 317, 331, 337, 347, 349, 353, 359, 367, 373,
   379, 383, 389, 397, 401, 409]

/-- The 80 round constants of SHA-512. [PRESUMED, log entry 84] -/
def sha512K : List Nat := sha512Primes.map fun p => rootBits 3 (p * 2 ^ 192) 68 0 % 2 ^ 64

/-- The eight initial words of SHA-512. -/
def sha512H : List Nat := (sha512Primes.take 8).map fun p => rootBits 2 (p * 2 ^ 128) 69 0 % 2 ^ 64

/-- A 64-bit rotation to the right. -/
def rotr64 (x k : Nat) : Nat := (x >>> k) ||| ((x <<< (64 - k)) % 2 ^ 64)

/-- The message schedule of SHA-512, newest word first, from the sixteen words of a block. -/
def sha512Sched : Nat → List Nat → List Nat
  | 0, w => w
  | k + 1, w =>
    let a := w.getD 1 0
    let b := w.getD 14 0
    let s1 := rotr64 a 19 ^^^ rotr64 a 61 ^^^ (a >>> 6)
    let s0 := rotr64 b 1 ^^^ rotr64 b 8 ^^^ (b >>> 7)
    sha512Sched k (((s1 + w.getD 6 0 + s0 + w.getD 15 0) % 2 ^ 64) :: w)

/-- One round of SHA-512 over the eight working words. -/
def sha512Round (h : List Nat) (kw : Nat × Nat) : List Nat :=
  let g (i : Nat) : Nat := h.getD i 0
  let e := g 4
  let a := g 0
  let s1 := rotr64 e 14 ^^^ rotr64 e 18 ^^^ rotr64 e 41
  let ch := (e &&& g 5) ^^^ ((e ^^^ (2 ^ 64 - 1)) &&& g 6)
  let t1 := g 7 + s1 + ch + kw.1 + kw.2
  let s0 := rotr64 a 28 ^^^ rotr64 a 34 ^^^ rotr64 a 39
  let mj := (a &&& g 1) ^^^ (a &&& g 2) ^^^ (g 1 &&& g 2)
  [(t1 + s0 + mj) % 2 ^ 64, a, g 1, g 2, (g 3 + t1) % 2 ^ 64, e, g 5, g 6]

/-- The big-endian number a byte string spells, as SHA-512 reads its words. -/
def beNat (bs : Bytes) : Nat := bs.foldl (fun a b => a * 256 + b.toNat) 0

/-- The `k` big-endian bytes of a number. -/
def beBytes (k v : Nat) : Bytes := (leBytes k v).reverse

/-- One 128-byte block of SHA-512. -/
def sha512Block (h : List Nat) (blk : Bytes) : List Nat :=
  let ws := (List.range 16).map fun i => beNat ((blk.drop (8 * i)).take 8)
  let sched := (sha512Sched 64 ws.reverse).reverse
  let out := (sha512K.zip sched).foldl sha512Round h
  (h.zip out).map fun p => (p.1 + p.2) % 2 ^ 64

/-- The blocks of a padded message, `n` of them. -/
def sha512Blocks : Nat → Bytes → List Nat → List Nat
  | 0, _, h => h
  | n + 1, bs, h => sha512Blocks n (bs.drop 128) (sha512Block h (bs.take 128))

/-- The SHA-512 digest of a byte string, 64 bytes. [PRESUMED, log entry 84] -/
def sha512 (bs : Bytes) : Bytes :=
  let len := bs.length
  let z := (239 - len % 128) % 128
  let msg := bs ++ [0x80#8] ++ List.replicate z 0#8 ++ beBytes 16 (8 * len)
  (sha512Blocks (msg.length / 128) msg sha512H).flatMap (beBytes 8)

/-! The Philox4x32-10 generator (R90). -/

/-- The four words of a Philox counter or output. -/
structure Quad where
  c0 : Nat
  c1 : Nat
  c2 : Nat
  c3 : Nat
  deriving DecidableEq, Repr

/-- One round of Philox (R90). -/
def philoxRound (q : Quad) (k0 k1 : Nat) : Quad :=
  let p0 := 0xd2511f53 * q.c0
  let p1 := 0xcd9e8d57 * q.c2
  { c0 := (p1 / 2 ^ 32) ^^^ q.c1 ^^^ k0, c1 := p1 % 2 ^ 32, c2 := (p0 / 2 ^ 32) ^^^ q.c3 ^^^ k1, c3 := p0 % 2 ^ 32 }

/-- `n` rounds of Philox, the key bumped between them (R90). -/
def philoxRounds : Nat → Quad → Nat → Nat → Quad
  | 0, q, _, _ => q
  | n + 1, q, k0, k1 =>
    philoxRounds n (philoxRound q k0 k1) ((k0 + 0x9e3779b9) % 2 ^ 32) ((k1 + 0xbb67ae85) % 2 ^ 32)

/-- Philox4x32-10 (R90). [PRESUMED, log entry 84] -/
def philox (q : Quad) (k0 k1 : Nat) : Quad := philoxRounds 10 q k0 k1

/-- Where a random word comes from: the job seed, the step number and the logical tile number (R89). -/
structure Draw where
  seed : Nat
  step : Nat
  n : Nat
  deriving DecidableEq, Repr

/-- The random word of an element position at a rounding site (R89): output word `pos mod 4`. -/
def drawWord (d : Draw) (site pos : Nat) : Nat :=
  let q := philox { c0 := (pos / 4) % 2 ^ 32, c1 := (site % 2 ^ 16) * 2 ^ 16 + d.n % 2 ^ 16,
                    c2 := d.step % 2 ^ 32, c3 := (d.step / 2 ^ 32) % 2 ^ 16 }
    (d.seed % 2 ^ 32) ((d.seed / 2 ^ 32) % 2 ^ 32)
  match pos % 4 with
  | 0 => q.c0
  | 1 => q.c1
  | 2 => q.c2
  | _ => q.c3

/-- The facet prime p = 2^64 − 59 (R139). -/
def facetPrime : Nat := 2 ^ 64 - 59

/-- The facet key of a tensor (R139). -/
def facetKey (seed tid : Nat) : Nat :=
  let q := philox { c0 := 0, c1 := 0xffffffff, c2 := tid % 2 ^ 32, c3 := 0x80000000 } (seed % 2 ^ 32) ((seed / 2 ^ 32) % 2 ^ 32)
  let x := (q.c1 * 2 ^ 32 + q.c0) % facetPrime
  if x < 2 then 2 else x

/-- `x ^ g mod p` over `fuel` bits of `g`, squaring and multiplying. -/
def powMod (x : Nat) : Nat → Nat → Nat
  | 0, _ => 1
  | fuel + 1, g =>
    let h := powMod x fuel (g / 2)
    let sq := h * h % facetPrime
    if g % 2 = 1 then sq * x % facetPrime else sq

/-- The facet of units at positions from `base` on (R140): Σ (u + 1) × x^g mod p. -/
def facetOf (x : Nat) : Nat → List Nat → Nat
  | _, [] => 0
  | pw, u :: us => ((u + 1) * pw + facetOf x (pw * x % facetPrime) us) % facetPrime

end Sys2Proof.Machine
end

