-- ==== Sys2Proof/Machine/TileState.lean ====
section
/-!
DEFINITION. The state of one physical tile: sequencer, engine queues, scratchpad with its rings, carry entries, windows and
banks, stream router and port, request table, ward, counters, entry buffer and start-up load. Plain data; a tile that the state
does not list is a reset tile.
-/

namespace Sys2Proof.Machine

/-- Byte-addressed storage: cells strictly rising by address. `epoch` counts how often its contents became undefined; at epoch
0 an unlisted byte is the zero that BIST leaves (R387), later it is a free value (R154). [DESIGN CHOICE, log entry 8] -/
structure Store where
  cells : List Host.Cell := []
  epoch : Nat := 0
  deriving DecidableEq, Repr

/-- A fault record (R359), field by field. -/
structure FaultRec where
  cls : Byte := 0
  severity : Byte := 0
  action : Byte := 0
  level : Byte := 0
  unit : Byte := 0
  flags : Byte := 0
  pcoord : U16 := 0xFFFF
  stamp : U64 := 0
  beat : U48 := 0
  attempt : Byte := 0
  context : U64 := 0
  addr : U64 := 0
  bit : U32 := 0
  count : U32 := 1
  step : U48 := 0
  resets : U16 := 0
  job : U64 := 0
  deriving DecidableEq, Repr

/-- What a stalled sequencer waits in (R99 to R101). -/
inductive SeqWait where
  | enq (e : Eng) (rd rs1 : BitVec 5)
  | wait (e : Eng) (ticket : U32)
  | bwait
  | bsync
  deriving DecidableEq, Repr

/-- Whether the sequencer runs: held before Pintle releases it, running, stalled in a ZQ instruction, or halted after an
uncorrectable fetch (R94). -/
inductive SeqRun where
  | held
  | running
  | stalled (w : SeqWait)
  | halted
  deriving DecidableEq, Repr

/-- The sequencer's registers (R92, R95). `regs` holds x1 to x31 at indices 0 to 30; x0 has no storage. [DESIGN CHOICE, log entry 7] -/
structure Seq where
  pc : U32 := 0
  regs : Vector U32 31 := Vector.replicate 31 0
  mstatus : U32 := 0x00001800
  mtvec : U32 := 0
  mepc : U32 := 0
  mcause : U32 := 0
  mtval : U32 := 0
  mscratch : U32 := 0
  run : SeqRun := .held
  deriving DecidableEq, Repr

/-- A ring stall of a descriptor (R160): reading or writing, the ring, the slot's address and the beat it began in. -/
structure Stall where
  write : Bool
  ring : Fin 16
  slotAddr : BitVec 22
  began : Nat
  deriving DecidableEq, Repr

/-- The beat binding of a descriptor (R101): unscheduled, bound to the beat that runs, or held for the next beat that scheduled work
runs in. -/
inductive Binding where
  | unscheduled
  | bound
  | held
  deriving DecidableEq, Repr

/-- An occupied context slot of an engine queue (R99): the copied descriptor, its ticket, the address of the ZQ.ENQ, the beat a
scheduled descriptor is bound to, and how far its work has come. [DESIGN CHOICE, log entry 15] -/
structure Slot where
  num : Fin 8
  desc : Bytes
  ticket : U32
  pc : BitVec 17
  binding : Binding
  /-- Started by its engine. -/
  started : Bool := false
  /-- All of its work is done; it completes in queue order. -/
  finished : Bool := false
  /-- Progress through its bytes (DMA copies, writes into rings). -/
  pos : Nat := 0
  /-- Packets made so far, the next TAG sequence (R211). -/
  seq : Nat := 0
  /-- Packets not yet answered. -/
  outstanding : Nat := 0
  /-- Completion status so far (R174): the failing packet first in packet order. -/
  status : U16 := 0
  failAt : Option Nat := none
  failAddr : U64 := 0
  refused : U32 := 0
  lost : U32 := 0
  /-- Ring slots read by the ring's consumer: (ring, slot index). -/
  reads : List (Fin 16 × Nat) := []
  stall : Option Stall := none
  /-- Bytes held while the descriptor runs: the planes a CONVERT writes, the window entry a WOPEN read. -/
  out : Option Bytes := none
  /-- Abandoned at a deadline (R160): it completes with the status it has. -/
  abandoned : Bool := false
  /-- Channel allotment of a SEND: its position and sequence number once allotted (R243); and its reply deadline. -/
  allot : Option (U32 × U32) := none
  deadline : Int := 0
  deriving DecidableEq, Repr

/-- An engine's queue: 8 slots, oldest first, and the two counts (R99). -/
structure EngQ where
  enq : U32 := 0
  done : U32 := 0
  slots : List Slot := []
  deriving DecidableEq, Repr

/-- The attempt of the MXE pass in progress (R114 to R116): retry number, and whether this is the final saturating attempt. [DESIGN CHOICE, log entry 15] -/
structure MxePass where
  r : Nat := 0
  final : Bool := false
  /-- What the flush writes, in order: the data rows, then the header; none until an attempt stands. -/
  flush : Option (List (Nat × Bytes)) := none
  deriving DecidableEq, Repr

/-- A checked ring entry (R156) with its fill counts and drain marks for 8 slots (R157, R158). [DESIGN CHOICE, log entry 7] -/
structure Ring where
  base : U32 := 0
  slotWords : U16 := 0
  slots : U16 := 0
  prodEp : Byte := 0
  consEp : Byte := 0
  tmo : Byte := 0
  enabled : Bool := false
  p : U32 := 0
  c : U32 := 0
  fills : List Nat := [0, 0, 0, 0, 0, 0, 0, 0]
  drains : List Bool := [false, false, false, false, false, false, false, false]
  deriving DecidableEq, Repr

/-- A carry entry (R162). -/
structure Carry where
  base : U32
  size : U32
  save : U64
  deriving DecidableEq, Repr

/-- A window entry (R175), the refusals counted against it (R177), and whether a drain closed it to new arrivals (R209). [DESIGN CHOICE, log entry 7] -/
structure Window where
  isOpen : Bool := false
  kind : Byte := 0
  flags : U16 := 0
  srcMatch : U16 := 0
  srcMask : U16 := 0
  base : U64 := 0
  size64 : U32 := 0
  epochFirst : U48 := 0
  epochLast : U48 := 0
  refused : U32 := 0
  shut : Bool := false
  deriving DecidableEq, Repr

/-- A bank's power state (R179 to R182): on, draining since an apply stamp, off, or clearing. -/
inductive BankPower where
  | on
  | draining (since : Int)
  | off
  | clearing
  deriving DecidableEq, Repr

/-- A remote write a bank has accepted and not yet written (R180), and the request it answers. -/
structure BankWrite where
  addr : BitVec 22
  data : Bytes
  pkt : Packet
  deriving DecidableEq, Repr

/-- A remote write held in the ring ingress buffer (R161), with the beat in which its stall began. -/
structure HeldWrite where
  pkt : Packet
  ring : Fin 16
  addr : BitVec 22
  began : Nat
  deriving DecidableEq, Repr

/-- A stream flit (R183). -/
abbrev Flit := BitVec 256

/-- A stream port context (R189) and its progress in the current beat (R190): flits moved, and the flits in the ingress buffer
that wait to be written. [DESIGN CHOICE, log entry 7] -/
structure Context where
  enabled : Bool := false
  ring : Fin 16 := 0
  flits : U32 := 0
  actMod : U16 := 0
  actRem : U16 := 0
  count : Nat := 0
  /-- Egress: the second half of the word being sent. Ingress: flits that have arrived and are not yet written. -/
  buffer : List Flit := []
  /-- The ring slot and word the context stands at. -/
  slotIdx : Nat := 0
  wordIdx : Nat := 0
  stalled : Bool := false
  deriving DecidableEq, Repr

/-- A steering unit (R191 to R193): its entry, its inputs, the token in hand and its output queues of 4 flits. [DESIGN CHOICE, log entry 7] -/
structure Steer where
  kind : Byte := 0
  in0 : Byte := 0
  in1 : Byte := 0
  tok : Byte := 0
  /-- The token in hand: SEL and the data flits still governed. -/
  held : Option (Bool × Nat) := none
  qa : List Flit := []
  qb : List Flit := []
  deriving DecidableEq, Repr

/-- The stream router of a tile (R184, R185): input queues by 8 port + queue, the receive buffers of seam hops by the same key, and the
two slot tables. An unlisted queue is empty. Credit counts are what the downstream queues leave free. [DESIGN CHOICE, log entry 7] -/
structure StreamRouter where
  queues : List (Nat × List Flit) := []
  seamBuf : List (Nat × List Flit) := []
  active : Vector U64 32 := Vector.replicate 32 0
  pendingTable : Vector U64 32 := Vector.replicate 32 0
  /-- The slot the router counts next (R183). -/
  slot : Fin 32 := 0
  deriving DecidableEq, Repr

/-- The choice an output of a packet router makes (R218), for one network: the window of 144 core cycles it last sent in, the flit cycles of
that window that went to other channels than scheduled bulk, and by channel the input port served last. [DESIGN CHOICE, log entry 7; DESIGN CHOICE, log entry 32] -/
structure Arb where
  window : Nat := 0
  used : Nat := 0
  last : Vector Nat 4 := Vector.replicate 4 4
  deriving DecidableEq, Repr

/-- A request the tile has injected and that has not been answered (R227). -/
structure Outstanding where
  pkt : Packet
  deadline : Int
  injected : Nat
  /-- Its place in the descriptor's packet order (R174) and, for a read, where its data go. -/
  order : Nat
  /-- The ticket of the descriptor it belongs to; none for a packet that a message unit sends for a channel end. -/
  ticket : Option U32
  deriving DecidableEq, Repr

/-- A request made by an engine that waits at the router: its packet and place in packet order. -/
structure Waiting where
  pkt : Packet
  order : Nat
  /-- As in `Outstanding`. -/
  ticket : Option U32
  /-- How many requests the tile made before this one: the order the fence looks at (R225). -/
  stamp : Nat
  deriving DecidableEq, Repr

/-- The counter block of the ward (R120). [DESIGN CHOICE, log entry 7] -/
structure Counters where
  mxePasses : U32 := 0
  mxeRetries : U32 := 0
  mxeLimits : U32 := 0
  mxeSatlanes : U32 := 0
  vxeSat : U32 := 0
  vxeNonnum : U32 := 0
  dmaSat : U32 := 0
  dmaNonnum : U32 := 0
  invalidCode : U32 := 0
  eccCorrected : U32 := 0
  spadCorrected : U32 := 0
  deriving DecidableEq, Repr

/-- A ward (R324, R325): the fence, diagnostic, test and twin marks, the records counted, and the queue of records with the one
that is outstanding at its head. [DESIGN CHOICE, log entry 7] -/
structure Ward where
  rfence : Bool := false
  tfence : Bool := false
  diag : Bool := false
  test : Bool := false
  twin : Bool := false
  nfault : Byte := 0
  last : Byte := 0
  queue : List FaultRec := []
  /-- The NOTICE of the record at the head is on its way, and the number of NOTICEs sent. -/
  urgent : Bool := false
  sent : Byte := 0
  lost : Bool := false
  deriving DecidableEq, Repr

/-- The first fault that cleared a clean bit in the attempt (R259, R260): its class and the job time it was cleared at. -/
structure Unclean where
  cls : Byte
  at_ : Int
  deriving DecidableEq, Repr

/-- The entry section of a tile (R203): everything a repeat reloads. [DEDUCED, log entry 23] -/
structure Entry where
  step : U48
  /-- FLAGS[2], and what names the unit that was busy: its endpoint code, slot and PC (R205). -/
  unclean : Bool
  busy : Nat := 0
  busySlot : Nat := 0
  busyPc : Nat := 0
  /-- Beats over which that unit had made no progress (R362). -/
  busyStill : Nat := 0
  seq : Seq
  mxe : EngQ
  vxe : EngQ
  dma : EngQ
  msg : EngQ
  rings : Vector Ring 16
  windows : Vector Window 16
  carries : List Carry
  sport : Vector Context 16
  steer : Vector Steer 8
  deriving DecidableEq, Repr

/-- The progress counters of a tile's engines (R363) and the counted beats since each last moved (R364). -/
structure Progress where
  seq : U32 := 0
  mxe : U32 := 0
  vxe : U32 := 0
  dma : U32 := 0
  msg : U32 := 0
  sport : U32 := 0
  deriving DecidableEq, Repr

/-- The load order of a tile (R389) and what has arrived of it (R391). -/
structure Load where
  image : U16 := 0
  frags : U32 := 0
  length : U32 := 0
  deadline : U64 := 0
  digest : Bytes := []
  armed : Bool := false
  got : List Nat := []
  rounds : Nat := 0
  roundDeadline : U64 := 0
  status : U32 := 0
  /-- When the tile set its status DONE (R391). -/
  doneAt : Option Nat := none
  deriving DecidableEq, Repr

/-- The droop detector and margin monitor of a tile (R449 to R451). [DESIGN CHOICE, log entry 7] -/
structure Droop where
  stretching : Bool := false
  edges : Nat := 0
  lowest : U16 := 0
  lowReadings : Nat := 0
  lastEvent : Option Nat := none
  deriving DecidableEq, Repr

/-- What a reset of levels 2 to 5 writes into the records of the faults that led to it (R357 to R359): ACTION, SEVERITY, LEVEL, and the device count
of the reset. [DEDUCED, log entry 51] -/
structure Ladder where
  action : Byte
  severity : Byte
  level : Byte
  at_ : Nat
  deriving DecidableEq, Repr

/-- A physical tile. [DESIGN CHOICE, log entry 7; DESIGN CHOICE, log entry 15] -/
structure Tile where
  seq : Seq := {}
  imem : Store := {}
  spad : Store := {}
  banks : Vector BankPower 32 := Vector.replicate 32 .on
  bankWrites : List BankWrite := []
  /-- Writes that wait for a bank to clear itself (R182): physical address and bytes of one word. -/
  clearWrites : List (BitVec 22 × Bytes) := []
  mxe : EngQ := {}
  vxe : EngQ := {}
  dma : EngQ := {}
  msg : EngQ := {}
  pass : MxePass := {}
  /-- What the VXE descriptor in progress writes, in order, once it is computed (R146). -/
  vout : Option (List (Nat × Bytes)) := none
  /-- The MXE accumulator store (R94) and weight buffers (R103) as the last attempt left them. -/
  accum : List U32 := []
  wbuf : Bytes := []
  rings : Vector Ring 16 := Vector.replicate 16 {}
  carries : List Carry := []
  ingress : List HeldWrite := []
  windows : Vector Window 16 := Vector.replicate 16 {}
  sport : Vector Context 16 := Vector.replicate 16 {}
  steer : Vector Steer 8 := Vector.replicate 8 {}
  router : StreamRouter := {}
  /-- The packet router's outputs by 8 × network + output (R218): 0 N, 1 E, 2 S, 3 W, 4 L; network 1 the reply network. -/
  arb : List (Nat × Arb) := []
  /-- Beat-wait has retired in this beat (R101), and the completion stamp it gave (R53). -/
  bwaited : Bool := false
  stamp : Option Int := none
  /-- Cycle 64 of the beat that a ZQ.BSYNC waits for has come (R101). -/
  bsyncGo : Bool := false
  /-- Recorded an overrun: issues no further scheduled work in the step slot (R56). -/
  overrun : Bool := false
  /-- A fault of the deadline evaluation of this beat is recorded (R160, R200, R365). -/
  deadlineFault : Bool := false
  unclean : Option Unclean := none
  /-- Issued since its program was loaded (R205). -/
  issued : Bool := false
  /-- Sequencer and engines gated: no position is placed on the tile (R20), or it is frozen. -/
  frozen : Bool := true
  entry : Option Entry := none
  progress : Progress := {}
  /-- Counter values at the last counted beat and how many counted beats each has stood still, by endpoint code 0 to 5. -/
  still : List (U32 × Nat) := [(0, 0), (0, 0), (0, 0), (0, 0), (0, 0), (0, 0)]
  counters : Counters := {}
  ward : Ward := {}
  /-- Packets waiting to be injected, fenced requests held (R225), requests outstanding, requests made so far. -/
  inject : List Waiting := []
  held : List Waiting := []
  outstanding : List Outstanding := []
  made : Nat := 0
  bucket : Nat := 4096
  bucketAt : U64 := 0
  genArmed : Bool := false
  strayReplies : U32 := 0
  mcastDrops : U32 := 0
  reservedTypes : U32 := 0
  /-- Packets delivered to the tile's endpoints and not yet processed. -/
  arrivals : List Packet := []
  /-- Entries of the router's pending placement map written since the last switch (R25). -/
  mapNext : List (Nat × U16) := []
  /-- Entries of the router's active placement map that differ from those of `State.placement` (R25). -/
  mapOwn : List (Nat × U16) := []
  /-- The latest reset that the tile has been through, for the records raised before it (R357 to R359). -/
  ladder : Option Ladder := none
  load : Load := {}
  droop : Droop := {}
  /-- Program digest of the loaded tile program, 64 bytes (R204), empty if none. -/
  program : Bytes := []
  /-- CAP_HEADROOM_NS of the loaded program (R54). -/
  capHeadroom : Nat := 0
  bubbles : Nat := 0
  /-- Paired mode: the digest words of the beat by stream (R348). -/
  pairDigest : List (Nat × U64) := []
  /-- On a twin: the places that its primary's SENDs were given and its own have yet to take, by ticket (R243, R348). -/
  allots : List (Nat × (U32 × U32)) := []
  /-- The tile needed a level 3 reset and holds no position until a test passes (R368). -/
  needsTest : Bool := false
  /-- A reset the tile waits for: 1 of the tile, 2 of its cluster (R368). -/
  resetDue : Nat := 0
  deriving DecidableEq, Repr

end Sys2Proof.Machine
end

