-- ==== Sys2Proof/Machine/PartState.lean ====
section
/-!
DEFINITION. The state of one partition: shape and owner, beat and step, job, latch, program set, staged changes, descriptor lists,
shadow mode, repair in progress, caps and ledgers.
-/

namespace Sys2Proof.Machine

/-- Why a partition is frozen. -/
inductive Freeze where
  /-- Loaded, before its first issue (R440). -/
  | loaded
  | drained
  | abandoned
  /-- HALT (R266). -/
  | halted
  /-- The third attempt broke (R270). -/
  | escalated
  | slowPath
  /-- The shadow diverged or was stopped (R281). -/
  | diverged
  /-- A promoted reference has left the job (R282). -/
  | promoted
  /-- A reset of R366 from which no repeat can begin (R369). -/
  | reset
  deriving DecidableEq, Repr

/-- A gather value (R261, R262). -/
structure GatherVal where
  clean : Bool := true
  hold : Byte := 0
  cause : Byte := 0
  origin : U16 := 0xFFFF
  deriving DecidableEq, Repr

/-- The step latch of the attempt in progress (R259 to R266). -/
structure Latch where
  /-- The partition bit and class as sampled at T(K); none before the sample. -/
  sampled : Option (Bool × Byte) := none
  formed : Bool := false
  value : GatherVal := {}
  agree : U64 := 0
  agreeValid : Bool := false
  shadowValue : U64 := 0
  /-- RECORD tensors and their facets, as read at T(K) (R277, R278). -/
  facets : List (U32 × U64) := []
  /-- The stage that runs, 0 to 2; 3 when every stage is complete. -/
  stage : Nat := 0
  /-- Frames combined, by (stage, port, TTL). -/
  got : List (Nat × Nat × Nat) := []
  /-- Frames of a later stage that have arrived. -/
  early : List (Nat × LatchFrame) := []
  breakSeen : Bool := false
  /-- A BREAK received has been forwarded (R264). -/
  forwarded : Bool := false
  /-- HOLD that this module's Pintle asks for; a BREAK that waits for the partition bit. -/
  askHold : Byte := 0
  breakHeld : Bool := false
  /-- Largest HOLD of the BREAKs seen. -/
  breakHold : Byte := 0
  /-- HALT sent or received: its class and origin. -/
  halt : Option (Byte × U16) := none
  gatherJudged : Bool := false
  tentative : Option Bool := none
  /-- The outcome once fixed: closed or broken (R264). -/
  fixed : Option Bool := none
  commitFault : Bool := false
  /-- Class of a clean bit cleared after the sample, before the outcome was fixed. -/
  lateClear : Option Byte := none
  /-- The shadow's report for the attempt (R281), and the outcome R sent (R280). -/
  shadowReport : Option (Bool × U64) := none
  outcome : Option (Bool × Byte) := none
  deriving DecidableEq, Repr

/-- A descriptor-list entry read from DRAM (R425). -/
structure DEntry where
  index : U32
  step : U48
  beat : U16
  n : U16
  ring : Byte
  payload : Bytes
  readBeat : Nat
  deriving DecidableEq, Repr

/-- A descriptor list (R425): CONS is the part's own word, `next` the next entry to read. [DEDUCED, log entry 50] -/
structure DList where
  base : U64
  log2 : Nat
  prod : U32 := 0
  cons : U32 := 0
  skipped : U32 := 0
  /-- The next entry to deliver in this attempt, and the entries skipped since CONS (R426, R427). -/
  next : U32 := 0
  skipPend : Nat := 0
  entries : List DEntry := []
  deriving DecidableEq, Repr

/-- A recorded change of a pending set (R428): its opcode and request. -/
structure Change where
  opcode : U16
  req : Req
  deriving DecidableEq, Repr

/-- An apply that awaits its beat (R429): the changes, the beat, whose request to answer, the units that must vote and those that
have, and whether it holds for a commit (R430). `direct` marks a change sent without STAGE (R435). -/
structure Apply where
  changes : List Change
  beat : Nat
  req : Req
  opcode : U16
  direct : Bool
  hold : Bool
  committed : Bool
  held : Bool := false
  /-- The requester's port was reset: the response is discarded (R432). -/
  quiet : Bool := false
  units : List UnitName
  votes : List UnitName := []
  refused : Option UnitName := none
  /-- Outcome once fixed at the vote deadline. -/
  outcome : Option Bool := none
  deriving DecidableEq, Repr

/-- The beat budget of the loaded program set (R54): the least MIN_CLOCK, SPAN, HEADROOM and CAP_HEADROOM over its tiles. -/
structure Budget where
  minClock : Byte := 0
  spanNs : Nat := 0
  headroomNs : Nat := 0
  capHeadroomNs : Nat := 0
  deriving DecidableEq, Repr

/-- A circuit (R195): slots, source tile, source field, hop words. -/
structure Circuit where
  slots : U32
  srcN : Nat
  src : Byte
  hops : List U32
  deriving DecidableEq, Repr

/-- A join (R199), with the tile that holds it. -/
structure Join where
  n : Nat
  steerUnit : Byte
  slack0 : U16
  slack1 : U16
  c0a : U16
  c0b : U16
  c1a : U16
  c1b : U16
  deriving DecidableEq, Repr

/-- A declared tensor of the facet block (R277). -/
structure FacetDecl where
  tid : U32
  mode : Byte
  addr : U64
  deriving DecidableEq, Repr

/-- The loaded program set (R440): where it lies, its digest, and what the loader took from it. -/
structure ProgramSet where
  addr : U64
  length : U64
  digest : Bytes
  budget : Budget
  bankMask : U32
  circuits : List Circuit
  joins : List Join
  facets : List FacetDecl
  /-- The code of each logical position (R440). -/
  images : List (Nat × Bytes)
  deriving DecidableEq, Repr

/-- A loaded manifest (R254, R309): its fields as the part uses them, its bytes and digest. -/
structure Manifest where
  bytes : Bytes
  digest : Bytes
  job : U64
  seed : U64
  formats : U16
  eth : Bool
  root : U32
  nx : Nat
  ny : Nat
  nz : Nat
  coord : U16
  pUs : Nat
  s : Nat
  t0 : Int
  k : Nat
  ringDims : Byte
  latchDue : Nat
  breakNs : Nat
  linkLat : Nat
  bucketMib : Nat
  ranges : List (Nat × Nat)
  members : List (U32 × U16)
  deriving DecidableEq, Repr

/-- The reference or shadow side of shadow mode (R279 to R282). [DEDUCED, log entry 35] -/
structure Shadow where
  /-- 1 reference, 2 shadow. -/
  role : Byte
  port : PortId
  target : Nat
  step : U48
  coord : U16
  cleanRun : Nat := 0
  /-- 1 running, 2 ready, 3 diverged. -/
  state : Byte := 1
  discarded : Nat := 0
  deriving DecidableEq, Repr

/-- A re-placement in progress (R337, R345): the tile that leaves its position, the half-die row and shift column, the hold, the beat in
which it was planned, the beat at which the maps switch, and the class of the fault it answers. -/
structure Repair where
  tile : TileId
  hd : HdId
  row : Nat
  shift : Nat
  hold : Nat
  began : Nat
  switchBeat : Nat
  /-- 0 a fault's repair, 1 an insertion's test, 2 a restored row (R345, R346). -/
  kind : Nat := 0
  fenced : Bool := false
  switched : Bool := false
  cls : Byte := 0
  /-- The record that the repair answers. -/
  orig : Option FaultRec := none
  deriving DecidableEq, Repr

/-- A record of the step log (R271). -/
structure StepRec where
  step : U48
  attempt : Byte
  outcome : Byte
  slot : U48
  cause : Byte
  hold : Byte
  origin : U16
  escal : U16
  faults : U32
  agree : U64
  deriving DecidableEq, Repr

/-- An entry of the facet log (R278). -/
structure FacetEntry where
  step : U48
  attempt : Byte
  slot : U64
  facets : List (U32 × U64)
  deriving DecidableEq, Repr

/-- A record of the energy ledger (R458). -/
structure EnergyRec where
  beat : U48
  attempt : Byte
  flags : Byte
  job : U64
  energyUj : U32
  peakW : U16
  bubbleNs : U32
  capW : U32
  deriving DecidableEq, Repr

/-- Where the job of a partition stands. -/
inductive JobState where
  | none
  | running
  deriving DecidableEq, Repr

/-- One partition (R413). `present` is false for a number that names no partition. -/
structure Part where
  present : Bool := false
  owner : FnId := 0
  paired : Bool := false
  hds : BitVec 16 := 0
  /-- A program set is accepted and not unloaded (R413). -/
  active : Bool := false
  offset : Int := 0
  pUs : Nat := 100
  s : Nat := 1
  t0 : Int := 0
  beat : Nat := 0
  step : U48 := 0
  attempt : Nat := 0
  job : JobState := .none
  freeze : Option Freeze := none
  /-- Freeze asked for at the next boundary or slot end: drain, abandon. -/
  draining : Bool := false
  abandoning : Bool := false
  /-- The attempt the resumed step runs as (R209, R210). -/
  resumeAttempt : Nat := 1
  /-- The attempt that ran last broke, and the slot at which the repeat begins (R269). -/
  repeatSlot : Option Nat := none
  /-- A hold has been named for the repeat that is awaited: it is never moved to a later slot (R340). -/
  holdNamed : Bool := false
  manifest : Option Manifest := none
  program : Option ProgramSet := none
  /-- IMEM of the program set must be reloaded before a start (R341). -/
  reload : Bool := false
  latch : Latch := {}
  unclean : Option Unclean := none
  /-- Fault records of the attempt (R271). -/
  faults : Nat := 0
  stepLog : List StepRec := []
  stepHead : Nat := 0
  facetLog : List FacetEntry := []
  facetHead : Nat := 0
  hangW : Nat := 8
  rate : Nat := 12
  replyUs : Nat := 2000
  exits : Vector (Option PortId) 6 := Vector.replicate 6 none
  chanFirst : Nat := 0
  chanCount : Nat := 0
  dlists : Vector (Option DList) 8 := Vector.replicate 8 none
  pending : List Change := []
  apply : Option Apply := none
  direct : List Apply := []
  shadow : Option Shadow := none
  repairs : List Repair := []
  /-- Banks of the rows repaired in the freeze in progress: at most 8 rows, no two of one bank (R170). -/
  frozenBanks : List Nat := []
  /-- The beat of a switch for which a router has not taken its pending copy (R26, R340). -/
  mapRefused : Option Nat := none
  /-- Pending maps are switched and receiving tiles scanned in; the partition waits for its release (R337). -/
  placing : Bool := false
  /-- Half-die row whose shift a passed test would undo (R346). -/
  restoreRows : List (HdId × Nat) := []
  /-- Cap in watts, the duty as a fraction of 2^32, held, headroom consumed, bubbles of the beat (R452 to R454). -/
  capW : Nat := 0
  capSet : Bool := false
  duty : Nat := 0
  dutyHeld : Bool := false
  powerW : Nat := 0
  energyUj : Nat := 0
  bubbles : Nat := 0
  energy : List EnergyRec := []
  peakW : Nat := 0
  hardHit : Bool := false
  headroomHit : Bool := false
  headroomAt : Option Nat := none
  /-- Energy of the partition since power-on (R441). -/
  energyTotal : Nat := 0
  excursions : Nat := 0
  /-- The error stayed at or below 2 ns since the step began; when the servo last acted (R46, R47). -/
  syncGood : Bool := true
  servoAt : Nat := 0
  /-- Where Pintle holds the entry save areas in the partition's memory (R206): a free value. [DESIGN CHOICE, log entry 25] -/
  saveBase : Nat := 0
  /-- Tiles of a pair that mismatched: key, step, attempt (R349). -/
  pairMiss : List (Nat × U48 × Nat) := []
  /-- The clean bit held clear by a time offset until one whole step is within 2 ns (R47); the last error, in ps. -/
  syncHold : Bool := false
  syncErrPs : Int := 0
  /-- Carry saves that have not finished (R163). -/
  carrySaving : Bool := false
  /-- Tests waiting for an insertion (R344). -/
  tests : List (Nat × Nat) := []
  insertQ : Option (Nat × Nat) := none
  /-- Counted beats of the hang window in this attempt (R364). -/
  hangBeats : Nat := 0
  /-- Since the first repeat, inbound job packets are screened by their slot tag (R269). -/
  slotScreen : Bool := false
  /-- The deadline evaluation of the current beat has been made (R52). -/
  judged : Bool := false
  /-- The wait for `repeatSlot` is an insertion's: the attempt count stays (R345). -/
  inserted : Bool := false
  /-- Attempt 3 broke; the freeze comes at the start of the next slot (R270). -/
  escalating : Bool := false
  /-- Fences that take effect at the next beat boundary: tile, and 0 lift TFENCE, 1 TFENCE, 2 RFENCE, 3 TFENCE and shift its row,
  4 freeze it for a test in place, 5 shift its row (R325, R344, R346, R368, FENCE). -/
  fenceNext : List (TileId × Nat) := []
  /-- A slow-path map is applied at the next beat boundary (R341). -/
  slowDue : Bool := false
  /-- A level-4 reset is due (R368, R371). -/
  resetDue : Bool := false
  /-- The latest reset of level 4 or 5 that faults of the partition have led to (R357 to R359). -/
  ladder : Option Ladder := none
  released : Bool := false
  /-- First fault-log number of this partition's time: older records under its number stay the administrator's (R473). -/
  faultFrom : Nat := 0
  deriving DecidableEq, Repr

end Sys2Proof.Machine
end

