-- ==== Sys2Proof/Machine/DeviceState.lean ====
section
/-!
DEFINITION. The state of the link ports, of start-up and firmware, of repair, of power and cooling, of security and of the resident service.
Plain data.
-/

namespace Sys2Proof.Machine

/-! Link ports (11). -/

/-- Lane states (R294). -/
inductive LaneState where
  | down
  | train
  | align
  | qualify
  | up
  | spare
  | fenced
  deriving DecidableEq, Repr

/-- A lane pair: whether it trains from the saved settings, and consecutive windows above the error limit (R295, R299). -/
structure LanePair where
  state : LaneState := .down
  fine : Bool := false
  bad : Nat := 0
  deriving DecidableEq, Repr

/-- STATE of PORT_READ. -/
inductive LinkState where
  | down
  | up
  | refused
  | admitted
  | silent
  deriving DecidableEq, Repr

/-- Admission stages (R306). -/
inductive AdmStage where
  | hello
  | auth
  | agree
  | sync
  deriving DecidableEq, Repr

/-- An admission in progress: its stage and deadlines in device count, what has arrived of the partner's SPDM messages and digest, the
exchanges of SYNC, the last 100 offset estimates, newest first, and the largest one-way latency, in ps (R311). -/
structure Admission where
  stage : AdmStage := .hello
  stageBy : Nat := 0
  by_ : Nat := 0
  /-- AUTH (R308): the SPDM message that arrives, the partner's responses so far and their number, the state of the connection in which this
  end responds, whether it has given its measurements, and whether the partner's evidence verified. -/
  spdm : Bytes := []
  evidence : Bytes := []
  asked : Nat := 0
  conn : Nat := 0
  shown : Bool := false
  trusted : Bool := false
  digest : Bytes := []
  n : Nat := 0
  last : List Int := []
  worst : Int := 0
  deriving DecidableEq, Repr

/-- A Hasp link: a native port, or an Ethernet session with the partner's device identifier and address (R303). -/
structure Link where
  state : LinkState := .down
  standby : Bool := false
  adm : Option Admission := none
  reason : Byte := 0
  partner : Option Hello := none
  /-- SEQ the next new frame takes, SEQ expected, and the frames not yet acknowledged, oldest first: SEQ, times sent, bytes (R290). -/
  txSeq : U16 := 0
  rxSeq : U16 := 0
  replay : List (U16 × Nat × Bytes) := []
  resend : Option U16 := none
  ackAt : Nat := 0
  replays : U32 := 0
  resets : U32 := 0
  resetAt : List Nat := []
  /-- A link reset has been made and the partner's HELLO has not come yet (R290, R317). -/
  helloDue : Bool := false
  /-- Bytes of a packet that continues in the next frame, received and sent (R288). -/
  rxPart : Bytes := []
  txPart : Bytes := []
  /-- By link channel, request network 0 to 7 and reply network 8 to 15: segments that may be sent; room the partner still has here;
  segments freed and not yet returned; the count from which a cap lets the next return go (R289, R316). -/
  credit : List Nat := List.replicate 16 0
  room : List Nat := List.replicate 16 0
  due : List Nat := List.replicate 16 0
  capAt : List Nat := List.replicate 16 0
  caps : List U32 := List.replicate 8 0
  /-- Control messages waiting for a slot: kind and 32 bytes (R291). -/
  ctl : List (Byte × Bytes) := []
  /-- READs of the partner that this module has not answered yet, by SRC and TAG (R314). -/
  reads : List (U32 × U16) := []
  refusals : U32 := 0
  discards : U32 := 0
  protocol : U32 := 0
  protoAt : List Nat := []
  /-- The last heartbeat: its beat, its T_TX and its local arrival stamp (R319); misses (R320). -/
  hbBeat : Option Nat := none
  hbTx : U64 := 0
  hbArr : U64 := 0
  missed : Nat := 0
  missJudged : Option Nat := none
  silentFrom : Nat := 0
  lateHb : U32 := 0
  offsetNs : Int := 0
  latchNs : Nat := 0
  /-- Taken out of service by REMOVE, until it is admitted again (R322). -/
  removed : Bool := false
  /-- The digest of the manifest it was admitted against (R306). -/
  under : Bytes := []
  devId : U32 := 0
  ip : Bytes := []
  deriving DecidableEq, Repr

/-- The Ethernet configuration of a port (ETH_CONFIG). -/
structure EthConfig where
  ipv6 : Bool := false
  udp : U16 := 50000
  dscp : Bytes := List.replicate 8 0
  mac : Bytes := List.replicate 6 0
  ip : Bytes := List.replicate 16 0
  nextHop : Bytes := List.replicate 6 0
  deriving DecidableEq, Repr

/-- A saved settings record (R296). [DESIGN CHOICE, log entry 41] -/
structure Settings where
  mode : Byte
  map : Byte
  asymPs : Int
  partner : U64
  lanes : Bytes := []
  deriving DecidableEq, Repr

/-- A link port. `half` is the half a narrowed port keeps (false: lanes 0 to 3), `swapped` the active lane the spare stands in for,
`swap` a swap agreed for a SEQ (R300, R301). [DESIGN CHOICE, log entry 6] -/
structure Port where
  mode : Byte := 0
  width : Byte := 0
  half : Option Bool := none
  lanes : Vector LanePair 9 := Vector.replicate 9 {}
  swapped : Option LaneId := none
  swap : List (LaneId × U16) := []
  asymPs : Int := 0
  /-- The partner's DEVICE that lane training found (R332). -/
  device : U64 := 0
  part : Option PartId := none
  native : Link := {}
  sessions : List (Nat × Link) := []
  eth : EthConfig := {}
  /-- Egress stage and spill area, in arrival order (R230). -/
  egress : List (Session × Packet) := []
  spill : List (Session × Packet) := []
  unclean : Option Unclean := none
  resetSeen : Bool := false
  fullTrained : Bool := false
  settings : Option Settings := none
  stored : Byte × Byte := (0, 0)
  cable : Bool := false
  supplyTripped : Bool := false
  /-- The frame sent last. -/
  wire : Bytes := []
  deriving DecidableEq, Repr

/-! Repair (12). -/

/-- Row states (R334). -/
inductive RowKind where
  | whole
  | shifted
  | noSpare
  | testing
  | degraded
  deriving DecidableEq, Repr
/-- A physical row of a half-die: its state and shift column. -/
structure Row where
  kind : RowKind := .whole
  col : Nat := 0
  deriving DecidableEq, Repr
/-- A record of the field defect log (R329, R330). -/
structure Defect where
  kind : Byte
  source : Byte
  cls : Byte := 0
  flags : Byte := 0
  seq : U32 := 0
  boot : U32 := 0
  seconds : U32 := 0
  wher : U64
  detail : U32 := 0
  deriving DecidableEq, Repr
/-- The fuse map (R327): bad tiles and routers by key 64 py + px, bad lanes by port and lane, bad rows by location word. [DESIGN CHOICE, log entry 6] -/
structure Fuses where
  checkOk : Bool := true
  tiles : List Nat := []
  routers : List Nat := []
  lanes : List (Nat × Nat) := []
  rows : List U64 := []
  deriving DecidableEq, Repr

/-! Start-up and firmware (14, 18). -/

/-- A start-log record (R397). -/
structure StartRec where
  boot : U32
  strike : Byte
  outcome : Byte
  stage : Byte
  reason : Byte
  detail : U32 := 0
  elapsedMs : U32 := 0
  slot : Byte
  mode : Byte
  retired : U16 := 0
  deriving DecidableEq, Repr
/-- A firmware slot (R462 to R465). `factory` marks the image of manufacture, whose fields are constants of Config. [DESIGN CHOICE, log entry 6] -/
structure FwSlot where
  factory : Bool
  valid : Bool
  data : List Host.Cell := []
  deriving DecidableEq, Repr
/-- Where the part stands in its start-up (R378 to R400). [DESIGN CHOICE, log entry 6] -/
structure Boot where
  /-- PHASE of STATE (R408). -/
  phase : Nat := 0
  stage : Nat := 0
  /-- The counts at which the stage reported last, and at which it began. -/
  stageAt : Nat := 0
  began : Nat := 0
  warm : Bool := false
  /-- The attempt is a device reset, or an exit from RETAIN (3) or DORMANT (4) with the state commanded. -/
  deviceReset : Bool := false
  leaving : Option (Nat × Nat) := none
  powerOns : U32 := 1
  strikes : Nat := 0
  strikesBefore : Nat := 0
  log : List StartRec := []
  cold : Bool := false
  saved : Bool := false
  slot : Nat := 0
  active : Nat := 0
  slots : Vector FwSlot 2 := #v[{ factory := true, valid := true }, { factory := false, valid := false }]
  standby : Bool := false
  standbyRuns : Bool := false
  stageMs : List U32 := []
  results : List BistRecord := []
  report : Bytes := []
  resetSince : Option Nat := none
  kaRounds : Nat := 0
  /-- A device reset is decided and waits for its answers (R366, R437). -/
  resetDue : Bool := false
  /-- Tile BIST of stage 5 is resolved (R387). -/
  tilesTested : Bool := false
  /-- What has retired half-dies in this attempt: [0] seam, [1] router, [2] stack, [3] rows (R398). -/
  retireWhy : Nat := 0
  /-- Time since power-on before the device count last restarted (R329, R41). -/
  upNs : Nat := 0
  /-- Defects that a full log could not take, enforced until the next power-off (R331). -/
  unlogged : List Defect := []
  /-- The record of the fault that led to a device reset of Pintle's own (R370). -/
  cause : Option FaultRec := none
  /-- The administrator that flash gives, while minimal mode puts another in its place (R400, R412). -/
  adminBack : Option FnId := none
  /-- Stacks with saved training settings, by the serial number that they are bound to (R381). -/
  stackSaved : List (Nat × U64) := []
  /-- Stacks that were trained in full in this attempt (R381). -/
  stackFull : BitVec 32 := 0
  /-- Pintle has configured the host functions (R382). -/
  fnsUp : Bool := false
  deriving DecidableEq, Repr

/-! Power, cooling, security, module (17 to 19). -/

/-- Power and cooling. Half-die states are the codes of POWER_STATE: 0 ACTIVE, 1 TRIMMED, 2 IDLE; `modState` is 3 in RETAIN, 4 in DORMANT, 0
otherwise. [DESIGN CHOICE, log entry 6] -/
structure Power where
  converters : Bool := true
  inputMv : Nat := 54000
  /-- Both input blades carry the input (R481). -/
  bothBlades : Bool := true
  inputMa : Nat := 0
  inputW : Nat := 0
  /-- Input energy and highest 1 µs power since the device's last ledger record, and the energy since power-on (R441, R458). -/
  energyUj : Nat := 0
  peakW : Nat := 0
  energyTotal : Nat := 0
  bandSince : Option Nat := none
  modState : Nat := 0
  hd : Vector Nat 16 := Vector.replicate 16 2
  waking : BitVec 16 := 0
  thermTrip : Bool := false
  diesOff : Bool := false
  packageOff : Bool := false
  cycleReq : Bool := false
  /-- A power cycle is decided; PWR_CYCLE_REQ# is not yet asserted (R370). -/
  cycleDue : Bool := false
  temps : List (Nat × Int) := []
  hotAt : List (Nat × Nat) := []
  tripReg : Option (Nat × Int) := none
  /-- Fault records kept in flash for the next start (R370, R456). -/
  flashRecords : List FaultRec := []
  flow : U16 := 0
  inlet : U16 := 0
  outlet : U16 := 0
  coolSince : Option Nat := none
  coolPosted : Bool := false
  /-- What PLDM sensors read, as the last rewrite of the telemetry mirror left it (R476). -/
  sensors : List Int := []
  hardAt : Option Nat := none
  hardNow : Bool := false
  deriving DecidableEq, Repr

/-- A signature the attestation engine owes (R470): for an admission of a link, or for a host or monitor; `req` the mailbox that asked. -/
structure Attest where
  link : Option (PortId × Session) := none
  transport : Transport
  req : Option Req := none
  msg : Bytes
  deriving DecidableEq, Repr
/-- Security state. SPDM connection state by transport: 0 to 7 the functions, 8 the I3C endpoint (R468). [DESIGN CHOICE, log entry 6; DEDUCED, log entry 74] -/
structure Security where
  debug : Bool := false
  nonces : Nat := 0
  /-- The attestation engine: the signature it makes, those that wait in arrival order, and the admission signatures that have gone ahead of
  the first host request that waits (R470). -/
  current : Option Attest := none
  queue : List Attest := []
  ahead : Nat := 0
  fusedSvn : Nat := 0
  revoked : BitVec 4 := 0
  spdm : List (Nat × Nat) := []
  eids : List (Nat × Byte) := []
  i3cAddr : BitVec 7 := 0x52
  i3cAssigned : Bool := false
  /-- Messages sent on MCTP (R475). -/
  out : List (Transport × Bytes) := []
  deriving DecidableEq, Repr

/-! The resident service (R305, R442). -/

/-- A client entry: the second in which its requests are counted and how many it made. -/
structure Client where
  ipv6 : Bool
  rate : U32
  addr : Bytes
  second : Nat := 0
  made : Nat := 0
  deriving DecidableEq, Repr
/-- A binding. [DEDUCED, log entry 78] -/
structure SvcBinding where
  part : PartId
  port : PortId
  udp : U16
  inChan : Nat
  outChan : Nat
  body : Bytes
  isOpen : Bool := false
  /-- Ended by SVC_UNBIND or PROG_UNLOAD: kept so that its clients are refused, until its number is taken again. -/
  ended : Bool := false
  clients : List (Nat × Client) := []
  requests : U64 := 0
  replies : U64 := 0
  refuse : List U32 := [0, 0, 0, 0]
  spillPeak : U32 := 0
  /-- Requests held for credit (R251), and the body slot used next. -/
  waiting : List Bytes := []
  bodyNext : Nat := 0
  sent : Nat := 0
  deriving DecidableEq, Repr

end Sys2Proof.Machine
end

