-- ==== Sys2Proof/Machine/State.lean ====
section
/-!
DEFINITION. The state of the block, the reasons a step can stop, and the state after reset.
-/

namespace Sys2Proof.Machine

/-- The members of the family (R1). -/
inductive Member where
  | zh8
  | zh4
  | zh2
  deriving DecidableEq, Repr

/-- Why a step stops with a fault. -/
inductive Fault where
  /-- The command names a unit that this member does not carry: a tile, stack, region or half-die outside its grid (R1, R165).
  Raised by the meanings through `State.hasTile` and its like. Safe: no such command can reach a part of this member. -/
  | noSuchUnit
  deriving DecidableEq, Repr

/-- Why a step is refused. -/
inductive Refusal where
  /-- The command has no meaning yet. Raised by `exec` alone. Safe: nothing is claimed of it. -/
  | notModelled (mnemonic : String)
  deriving DecidableEq, Repr

/-- Where a packet of the request or reply network stands (R222, R230): at a router, in the buffer of an input port (0 N, 1 E,
2 S, 3 W, 4 local), or inside an I/O die. [DESIGN CHOICE, log entry 32] -/
inductive Loc where
  | router (t : TileId) (inPort : Fin 5)
  | ioDie (east : Bool) (row : BitVec 5)
  deriving DecidableEq, Repr

/-- A packet on its way (R211, R217): `copies` a fork of a multicast that runs south (R228), `ready` the count since which the head of a
channel has had credit without being sent (R218), `via` the direction by which a packet in transit came (R232). -/
structure NetPkt where
  pkt : Packet
  loc : Loc
  copies : Bool := false
  ready : Option Nat := none
  via : Option (Fin 6) := none
  deriving DecidableEq, Repr

/-- The state of a DRAM region (R171). -/
inductive RegionState where
  | on
  | selfRefresh
  | off
  /-- Being zeroed after OFF: accesses still complete REGION_OFF. -/
  | zeroing
  deriving DecidableEq, Repr

/-- An end of a message channel (R234). -/
structure Chan where
  role : Byte := 0
  state : Byte := 0
  flags : Byte := 0
  ringLog2 : Byte := 0
  epoch : U16 := 0
  owner : U16 := 0
  peer : U32 := 0
  peerChan : U32 := 0
  ringBase : U64 := 0
  statusAddr : U32 := 0
  bytes : U32 := 0
  msgs : U32 := 0
  released : U32 := 0
  arrMap : Byte := 0
  cBytes : U32 := 0
  cMsgs : U32 := 0
  pend : U32 := 0
  refused : U32 := 0
  /-- Parts of the two status words that the entry does not hold (R241, R242): PEER_CLOSED or CLOSED, LAST, DONE; and the size of
  each arrived message that is not yet placed in order. -/
  closedBit : Bool := false
  last : U16 := 0
  doneCount : U32 := 0
  sizes : List (U32 × U32) := []
  deriving DecidableEq, Repr

/-- A seam: its record (R59) and its counts and clean bit in the step slot (R61). -/
structure Seam where
  halfRate : Bool := false
  above : Bool := false
  verifyFailed : Bool := false
  latP : Nat := 0
  latR : Nat := 0
  worstP : U32 := 0
  worstR : U32 := 0
  marginPs : U16 := 0
  corrP : Nat := 0
  corrR : Nat := 0
  limitRecorded : Bool := false
  /-- Faults of the seam in the current step (R333). -/
  faults : Nat := 0
  /-- Its clean bit for each partition it borders: the first fault of that partition's attempt (R259). -/
  unclean : List (Nat × Unclean) := []
  /-- The count up to which it accepts nothing while it re-aligns its release phases to a new clock (R63). -/
  pausedTill : Nat := 0
  deriving DecidableEq, Repr

/-- What a function sends on its PCIe link: a write, a read request, or an MSI-X message (R404, R423). -/
inductive HostOut where
  | write (addr : U64) (data : Bytes)
  | read (addr : U64) (len : Nat) (tag : U16) (initiator : U32)
  | msix
  | completion (data : Bytes) (ok : Bool)
  deriving DecidableEq, Repr

/-- A mailbox (R416): the three sequence words, the request area as the host has written it (offsets 16 to 2,047; unlisted bytes are
zero) and the response. [DESIGN CHOICE, log entry 6] -/
structure Mbox where
  reqSeq : U32 := 0
  acceptSeq : U32 := 0
  rspSeq : U32 := 0
  request : List Host.Cell := []
  status : U16 := 0
  rspTag : U16 := 0
  detail : U16 := 0
  response : Bytes := []
  deriving DecidableEq, Repr

/-- A host function (R402, R407 to R409, R421). [DESIGN CHOICE, log entry 6] -/
structure HostFn where
  /-- PCIe generation of its link, 0 while the function is absent. -/
  gen : Byte := 0
  mboxEn : U64 := 0
  a2En : Bool := false
  a2Part : PartId := 0
  /-- BASE in GiB as written, and as the last write of A2_CTL latched it (R409). -/
  a2Base : BitVec 12 := 0
  a2Latched : BitVec 12 := 0
  evBase : U64 := 0
  evEn : Bool := false
  evMsix : Bool := false
  evLog2 : BitVec 5 := 0
  evMod : U16 := 0
  evHead : U32 := 0
  evTail : U32 := 0
  evLost : U32 := 0
  msixTable : Bytes := List.replicate 12 0 ++ [1, 0, 0, 0]
  msixPending : Bool := false
  lastMsix : Option Nat := none
  msixOwed : Bool := false
  countHi : U32 := 0
  mboxes : List (Nat × Mbox) := []
  bar2Refused : U32 := 0
  aer : Nat := 0
  /-- Read requests of the grid that the host has not answered (R211). -/
  reads : List Packet := []
  /-- GEN of the telemetry mirror and the mirror's records (R424). -/
  mirrorGen : U32 := 0
  mirrorCount : U64 := 0
  mirror : Bytes := []
  out : List HostOut := []
  deriving DecidableEq, Repr

/-- A command whose answer waits for its outcome (R429, R435 and the bounds of R436): `since` its acceptance; `queued` while it waits for
another command of its partition (R419); `quiet` once its function's mailboxes were reset, so that no response is written (R406). [DEDUCED, log entry 60; DESIGN CHOICE, log entry 80] -/
structure Waiter where
  opcode : U16
  req : Req
  part : PartId
  key : Nat := 0
  since : Nat := 0
  queued : Bool := false
  quiet : Bool := false
  deriving DecidableEq, Repr

/-- The state of the block. -/
structure State where
  member : Member := .zh8
  /-- The time base (R41): the count of nanoseconds, whether the PLL is locked, and whether it holds over (R42). -/
  count : U64 := 0
  pllLocked : Bool := false
  holdover : Bool := false
  tsyncEn : Bool := false
  tsyncCapture : U64 := 0
  tsyncCaptures : U32 := 0
  tsyncPulses : Nat := 0
  /-- Physical tiles by key 64 py + px; an unlisted tile is a reset tile. -/
  tiles : List (Nat × Tile) := []
  parts : Vector Part 16 := Vector.replicate 16 {}
  /-- The active placement map by logical tile number (R23, R25), one for all routers (R26); an unlisted entry is 0. -/
  placement : List (Nat × U16) := []
  /-- Entries of the pending copies that Pintle has written in every router and that have not been switched (R25, R26). -/
  mapPend : List (Nat × U16) := []
  /-- Entries that the routers still hold for a half-die of no partition or of a new one: index, the count at which they switch, entry (R26, R388). -/
  mapOld : List (Nat × Nat × U16) := []
  seams : List (Nat × Seam) := []
  /-- Packets in the two packet networks (R211). -/
  net : List NetPkt := []
  /-- Packets that Pintle, a link port or a host function has for the grid, waiting to be injected (R221, R223). -/
  ioQueue : List (InjectAt × Packet) := []
  /-- Pintle's management requests that have no reply yet, by TAG, with their reply deadlines (R227). -/
  mgmtOut : List (U16 × Nat) := []
  /-- Device DRAM by DPA (R165); an unlisted byte is zero. -/
  dram : List Host.Cell := []
  regions : List (Nat × RegionState) := []
  /-- Rows marked for repair, oldest first, by location word (R170); rows recorded as unrepairable; spare rows used by bank key (the
  location word without ROW); corrected errors by row with their pins and stamps (R168, R170); pins recorded as failed. -/
  rowsMarked : List U64 := []
  /-- By row: symbols found in error, and the class of the record that marked it (R329, R330). -/
  rowSyms : List (Nat × BitVec 18 × Byte) := []
  rowsBad : List U64 := []
  sparesUsed : List (Nat × Nat) := []
  corrections : List (U64 × Nat × Nat) := []
  pinsFailed : List U64 := []
  /-- Rows in which each pin has shown a corrected error, by the pin's location word (R170). -/
  pinRows : List (U64 × U64) := []
  channels : List (Nat × Chan) := []
  fns : Vector HostFn 8 := Vector.replicate 8 {}
  inbox : List FaultRec := []
  inboxLost : List (Nat × Nat) := []
  faultLog : List (Nat × FaultRec) := []
  faultHead : Nat := 0
  /-- Records held until the outcome of their slot is fixed (R360). -/
  faultHeld : List FaultRec := []
  resets : U16 := 0
  /-- Latch frames waiting for a control slot of their port (R291). -/
  latchOut : List (PortId × Session × LatchFrame) := []
  /-- Administrator function in force and from the next power-on (R412). -/
  adminFn : FnId := 0
  adminNext : FnId := 0
  waiters : List Waiter := []
  /-- Bifurcation of ports A and B in force, and from the next power cycle (R403). -/
  bifur : Byte × Byte := (0, 0)
  bifurNext : Byte × Byte := (0, 0)
  ports : Vector Port 16 := Vector.replicate 16 {}
  /-- Control messages that have arrived and wait to be acted on: port, session, kind, 32 bytes (R291). -/
  ctlIn : List (PortId × Session × Byte × Bytes) := []
  /-- The flat-identifier tables of IO-W and IO-E (R32, R34); an unlisted entry is 0. -/
  flatW : List (Nat × U32) := []
  flatE : List (Nat × U32) := []
  bindings : List (Nat × SvcBinding) := []
  /-- Service datagrams sent: port and bytes (R305). -/
  serviceOut : List (PortId × Bytes) := []
  /-- Row states by 8 hd + r (R334); retired half-dies (R343); the slow-path plan (R342). -/
  rows : List (Nat × Row) := []
  retired : BitVec 16 := 0
  slowPlan : List (Nat × U16) := []
  fuses : Fuses := {}
  /-- The field defect log (R329) and what waits to be appended to it (R331). -/
  defects : List Defect := []
  defectSeq : U32 := 0
  defectGen : U32 := 0
  /-- The copy of the log not in use: its records, NEXT_SEQ and GENERATION (R329, R331). -/
  defectOther : List Defect × U32 × U32 := ([], 0, 0)
  defectQueue : List Defect := []
  testResults : List BistRecord := []
  boot : Boot := {}
  power : Power := {}
  sec : Security := {}
  deviceEnergy : List EnergyRec := []
  /-- Debug scan nonce and the like are drawn from the DRBG; how many words it has given (R470). -/
  drbg : Nat := 0
  /-- The model's own counter of free values drawn; not the part's. -/
  draws : Nat := 0
  /-- Commands waiting, first in first out. -/
  pending : List Instr := []
  deriving DecidableEq, Repr

/-- The block right after reset. [DESIGN CHOICE, log entry 6] -/
def State.reset : State := {}

end Sys2Proof.Machine
end

