-- ==== Sys2Proof/Machine/Ops.lean ====
section
/-!
DEFINITION. The named operations over the state: sorted maps and byte storage, the geometry of the member, time, tiles and
partitions, device DRAM, clean bits, fault records, HALT, and events. The state is written through these.
-/

namespace Sys2Proof.Machine

/-! Sorted maps. -/

/-- The entry of a key. -/
def kget {α : Type} (k : Nat) : List (Nat × α) → Option α
  | [] => none
  | (j, a) :: m => if j = k then some a else kget k m

/-- A map with an entry set, kept sorted. -/
def kput {α : Type} (k : Nat) (a : α) : List (Nat × α) → List (Nat × α)
  | [] => [(k, a)]
  | (j, b) :: m => if k < j then (k, a) :: (j, b) :: m else if k = j then (k, a) :: m else (j, b) :: kput k a m

/-- A map without an entry. -/
def kdel {α : Type} (k : Nat) : List (Nat × α) → List (Nat × α)
  | [] => []
  | (j, b) :: m => if j = k then m else (j, b) :: kdel k m

/-- Keys strictly rising: the one form of a map. -/
def kwf {α : Type} (m : List (Nat × α)) : Bool := (m.map Prod.fst).Pairwise (· < ·)

/-- Cells with a byte written; a byte equal to what an unlisted cell reads as is not listed. -/
def cellPut (blank : Option Byte) (m : List Host.Cell) (a : Nat) (v : Byte) : List Host.Cell :=
  if blank = some v then kdel a m else kput a v m

/-- The canonical form of cells: addresses strictly rising, no entry equal to the blank. -/
def Memory.wf (blank : Option Byte) (m : List Host.Cell) : Bool := kwf m && m.all fun c => blank ≠ some c.2

/-- Consecutive bytes written. -/
def cellsPut (blank : Option Byte) (m : List Host.Cell) : Nat → Bytes → List Host.Cell
  | _, [] => m
  | a, b :: bs => cellsPut blank (cellPut blank m a b) (a + 1) bs

/-- What an unlisted byte of a store reads as, where it has one value: zero at epoch 0 (R387). -/
def Store.blank (st : Store) : Option Byte := if st.epoch = 0 then some 0 else none

/-- A byte of a store; an unlisted byte of undefined contents is a free value (R154). [DESIGN CHOICE, log entry 8] -/
def Store.get (key : Nat) (st : Store) (a : Nat) : Byte :=
  match kget a st.cells with
  | some b => b
  | none => if st.epoch = 0 then 0 else Config.undefByte key st.epoch a

/-- Consecutive bytes written to a store. [DESIGN CHOICE, log entry 8] -/
def Store.put (st : Store) (a : Nat) (bs : Bytes) : Store := { st with cells := cellsPut st.blank st.cells a bs }

/-- The contents become undefined but for the addresses `keep` holds on to. [DESIGN CHOICE, log entry 8] -/
def Store.forget (st : Store) (key : Nat) (keep : List Nat) : Store :=
  { cells := keep.foldl (fun m a => kput a (st.get key a) m) [], epoch := st.epoch + 1 }

/-! The member's geometry (01). -/

/-- C-dies across (R16). -/
def Member.w : Member → Nat
  | .zh8 => 4
  | .zh4 => 2
  | .zh2 => 2
/-- C-dies down (R16). -/
def Member.h : Member → Nat
  | .zh8 => 2
  | .zh4 => 2
  | .zh2 => 1
/-- The number the member reports (R408): 8, 4 or 2. -/
def Member.code : Member → Nat
  | .zh8 => 8
  | .zh4 => 4
  | .zh2 => 2
/-- Half-dies (R18). -/
def Member.halfDies (m : Member) : Nat := 2 * m.w * m.h
/-- Logical grid width GX (R22). -/
def Member.gx (m : Member) : Nat := 8 * m.w
/-- Logical grid height. -/
def Member.gy (m : Member) : Nat := 16 * m.h
/-- Regions of DRAM (R171). -/
def Member.regions (m : Member) : Nat := 64 * m.w * m.h
/-- Scratchpad banks are split-port on the ZH4 and ZH2 (R149). -/
def Member.split (m : Member) : Bool := m ≠ .zh8

/-- The key of a physical tile in the state. -/
def tileKey (t : TileId) : Nat := 64 * t.py.toNat + t.px.toNat
/-- The tile of a key. -/
def keyTile (k : Nat) : TileId := ⟨BitVec.ofNat 6 (k % 64), BitVec.ofNat 5 (k / 64)⟩
/-- Whether the member carries the tile (R17). [DESIGN CHOICE, log entry 3] -/
def State.hasTile (s : State) (t : TileId) : Bool := t.px.toNat < 9 * s.member.w && t.py.toNat < 16 * s.member.h
/-- The half-die of a physical tile (R17, R18). -/
def Member.hdOf (m : Member) (t : TileId) : Nat :=
  2 * (m.w * (t.py.toNat / 16) + t.px.toNat / 9) + t.py.toNat / 8 % 2
/-- The physical tile at column c, row r of half-die hd (R17, R18). -/
def Member.tileAt (m : Member) (hd c r : Nat) : TileId :=
  let d := hd / 2
  ⟨BitVec.ofNat 6 (9 * (d % m.w) + c), BitVec.ofNat 5 (16 * (d / m.w) + 8 * (hd % 2) + r)⟩
/-- Physical column within the half-die. -/
def colOf (t : TileId) : Nat := t.px.toNat % 9
/-- Physical row within the half-die. -/
def rowOf (t : TileId) : Nat := t.py.toNat % 8
/-- lx of a logical tile number (R22). -/
def Member.lx (m : Member) (n : Nat) : Nat := n % m.gx
/-- ly of a logical tile number (R22). -/
def Member.ly (m : Member) (n : Nat) : Nat := n / m.gx
/-- The half-die of a logical position (R21). -/
def Member.hdOfN (m : Member) (n : Nat) : Nat :=
  2 * (m.w * (m.ly n / 16) + m.lx n / 8) + m.ly n / 8 % 2
/-- The logical number at column lc, row lr of a half-die (R21, R22). -/
def Member.nAt (m : Member) (hd lc lr : Nat) : Nat :=
  let d := hd / 2
  (16 * (d / m.w) + 8 * (hd % 2) + lr) * m.gx + 8 * (d % m.w) + lc
/-- Half-die grid column and row (R18). -/
def Member.hdGrid (m : Member) (hd : Nat) : Nat × Nat := (hd / 2 % m.w, 2 * (hd / 2 / m.w) + hd % 2)
/-- Logical numbers of a half-die, in increasing row and column. -/
def Member.nsOf (m : Member) (hd : Nat) : List Nat :=
  (List.range 8).flatMap fun lr => (List.range 8).map fun lc => m.nAt hd lc lr
/-- The physical tiles of a half-die. -/
def Member.tilesOf (m : Member) (hd : Nat) : List TileId :=
  (List.range 8).flatMap fun r => (List.range 9).map fun c => m.tileAt hd c r

/-- The active placement entry of a logical number (R23). -/
def State.mapEntry (s : State) (n : Nat) : Nat := ((kget n s.placement).getD 0).toNat
/-- The entry that the routers hold for an index: the old one until a switch that is still to come (R26). -/
def State.activeEntry (s : State) (k : Nat) : Nat := match kget k s.mapOld with
  | some (due, e) => if s.count.toNat < due then e.toNat else s.mapEntry k
  | none => s.mapEntry k
/-- The tile a placement entry names (R23): V, PCOL and PROW within the position's own half-die. -/
def Member.entryTile (m : Member) (n e : Nat) : Option TileId :=
  if bitAt e 15 then some (m.tileAt (m.hdOfN n) (bitsOf e 7 4) (bitsOf e 2 0)) else none
/-- The tile that the map entry at an index names (R25). -/
def State.tileOfKey (s : State) (k : Nat) : Option TileId := s.member.entryTile k (s.mapEntry k)
/-- The map index of a position of a paired half-die (R347): its primary lies on row 2 lr'. [DEDUCED, log entry 29] -/
def Member.pairKey (m : Member) (n : Nat) : Nat :=
  m.nAt (2 * (m.w * (m.ly n / 8) + m.lx n / 8) + m.ly n / 4 % 2) (m.lx n % 8) (2 * (m.ly n % 4))
/-- The paired position at a map index (R347). [DEDUCED, log entry 29] -/
def Member.pairN (m : Member) (k : Nat) : Nat :=
  let hd := m.hdOfN k
  (4 * (2 * (hd / 2 / m.w) + hd % 2) + m.ly k % 8 / 2) * m.gx + m.lx k
/-- The tile south of a tile: the twin of a paired primary (R347). [DEDUCED, log entry 29] -/
def twinOf (t : TileId) : TileId := { t with py := t.py + 1 }

/-! Tiles and partitions. -/

/-- A physical tile. -/
def State.tile (s : State) (t : TileId) : Tile := (kget (tileKey t) s.tiles).getD {}
/-- A tile written. -/
def State.setTile (s : State) (t : TileId) (v : Tile) : State := { s with tiles := kput (tileKey t) v s.tiles }
/-- A tile changed. -/
def State.modTile (s : State) (t : TileId) (f : Tile → Tile) : State := s.setTile t (f (s.tile t))
/-- A partition. -/
def State.part (s : State) (p : PartId) : Part := s.parts[p]
/-- A partition written. -/
def State.setPart (s : State) (p : PartId) (v : Part) : State := { s with parts := s.parts.set p v }
/-- A partition changed. -/
def State.modPart (s : State) (p : PartId) (f : Part → Part) : State := s.setPart p (f (s.part p))
/-- A host function. -/
def State.fn (s : State) (f : FnId) : HostFn := s.fns[f]
/-- A host function changed. -/
def State.modFn (s : State) (f : FnId) (g : HostFn → HostFn) : State := { s with fns := s.fns.set f (g (s.fn f)) }

/-- All partition numbers. -/
def allParts : List PartId := List.finRange 16
/-- Whether a half-die lies in the partition. -/
def Part.hasHd (p : Part) (hd : Nat) : Bool := p.present && p.hds.getLsbD hd
/-- The partition that holds a half-die (R413 allows at most one). -/
def State.partOfHd (s : State) (hd : Nat) : Option PartId := allParts.find? fun p => (s.part p).hasHd hd
/-- The partition of a tile's half-die. -/
def State.partOf (s : State) (t : TileId) : Option PartId := s.partOfHd (s.member.hdOf t)
/-- Half-dies of a partition in increasing order (R166). -/
def Part.hdList (p : Part) : List Nat := (List.range 16).filter fun i => p.hasHd i
/-- The map index of a logical number of a partition (R21, R347). [DEDUCED, log entry 29] -/
def State.keyOfN (s : State) (p : PartId) (n : Nat) : Nat := if (s.part p).paired then s.member.pairKey n else n
/-- A logical number names a position of the partition: inside the grid (half of its rows in paired mode), and in one of its half-dies (R30,
R347). -/
def State.ownsN (s : State) (p : PartId) (n : Nat) : Bool :=
  decide (n < s.member.gx * s.member.gy / (if (s.part p).paired then 2 else 1)) && (s.part p).hasHd (s.member.hdOfN (s.keyOfN p n))
/-- The tile that holds a logical position of a partition; the primary in paired mode (R25, R347). A number that is no position of the partition
names none: nothing is delivered outside it (R30, R36). -/
def State.tileOfN (s : State) (p : PartId) (n : Nat) : Option TileId := if s.ownsN p n then s.tileOfKey (s.keyOfN p n) else none
/-- The entry that a router holds for an index, or that the routers hold where none is named (R25). -/
def State.copyEntry (s : State) (router : Option TileId) (k : Nat) : Nat := match router.bind fun t => kget k (s.tile t).mapOwn with
  | some e => e.toNat
  | none => s.activeEntry k
/-- The entry of the pending copy of a router (R25): as a management write or Pintle's stage 4 has left it, else the active one. -/
def State.pendEntry (s : State) (t : TileId) (k : Nat) : Nat := match (kget k (s.tile t).mapNext).or (kget k s.mapPend) with
  | some e => e.toNat
  | none => s.copyEntry (some t) k
/-- A position translated at the router where a packet is injected, by the copy that the router holds (R25); none outside the partition (R30). -/
def State.translate (s : State) (p : PartId) (router : Option TileId) (n : Nat) : Option TileId :=
  if s.ownsN p n then s.member.entryTile (s.keyOfN p n) (s.copyEntry router (s.keyOfN p n)) else none
/-- The map index whose position a tile holds (R24 allows at most one). -/
def State.heldKey (s : State) (t : TileId) : Option Nat :=
  (s.member.nsOf (s.member.hdOf t)).find? fun k => s.tileOfKey k == some t
/-- The logical position a tile holds; a twin works at its primary's (R347). -/
def State.nOf (s : State) (t : TileId) : Option Nat :=
  let k := if (s.tile t).ward.twin then s.heldKey { t with py := t.py - 1 } else s.heldKey t
  match s.partOf t with
  | some p => k.map fun k => if (s.part p).paired then s.member.pairN k else k
  | none => k
/-- Logical numbers of a partition in increasing n. -/
def State.nsOfPart (s : State) (p : PartId) : List Nat :=
  (List.range (s.member.gx * s.member.gy / (if (s.part p).paired then 2 else 1))).filter fun n =>
    (s.part p).hasHd (s.member.hdOfN (s.keyOfN p n))
/-- The tiles that hold a logical position of the partition (R259, R347), in increasing n. -/
def State.holders (s : State) (p : PartId) : List TileId :=
  ((s.nsOfPart p).filterMap (s.tileOfN p)).flatMap fun t => if (s.part p).paired then [t, twinOf t] else [t]
/-- Every physical tile of the partition, spares included. -/
def State.tilesOfPart (s : State) (p : PartId) : List TileId := (s.part p).hdList.flatMap s.member.tilesOf
/-- The routers of a partition that have left their reset state, those of spare and fenced tiles among them (R183, R201). -/
def State.routersOf (s : State) (p : PartId) : List TileId := (s.tiles.map fun x => keyTile x.1).filter fun t => decide (s.partOf t = some p)
/-- A change made to each of a list of tiles. -/
def State.forTiles (s : State) (ts : List TileId) (f : State → TileId → State) : State := ts.foldl f s

/-! Time (02). -/

/-- One cycle of the time base: the count advances while the PLL is locked (R41). [DESIGN CHOICE, log entry 1; DESIGN CHOICE, log entry 4] -/
def State.tick (s : State) : State := if s.pllLocked then { s with count := s.count + 1 } else s
/-- The device count as a number. -/
def State.now (s : State) : Nat := s.count.toNat
/-- The count carried forward to an instant that an event stands for; never backward (R41). [DESIGN CHOICE, log entry 4; DESIGN CHOICE, log entry 82] -/
def State.reach (s : State) (t : Int) : State :=
  if (s.now : Int) < t then { s with count := BitVec.ofNat 64 t.toNat } else s
/-- A partition's job time (R45). -/
def State.jobTime (s : State) (p : PartId) : Int := s.now + (s.part p).offset
/-- T(b) in job time (R49). -/
def Part.t (p : Part) (b : Nat) : Int := p.t0 + (b * p.pUs * 1000 : Nat)
/-- The count carried to a job-time instant of a partition. [DESIGN CHOICE, log entry 4] -/
def State.reachJob (s : State) (p : PartId) (t : Int) : State := s.reach (t - (s.part p).offset)
/-- Step slot number of the current beat (R51). -/
def Part.slot (p : Part) : Nat := p.beat / p.s
/-- Beat within the step slot (R256). -/
def Part.beatInStep (p : Part) : Nat := p.beat % p.s
/-- A job is running (R435). -/
def Part.running (p : Part) : Bool := p.job = .running && p.freeze.isNone
/-- The partition issues: released and not frozen. -/
def Part.live (p : Part) : Bool := p.active && p.freeze.isNone
/-- COMPUTE_BEATS of the job's manifest (R254); with no job every beat is a compute beat. -/
def Part.k (p : Part) : Nat := match p.manifest with
  | some m => m.k
  | none => p.s
/-- The job tag, zero outside a job (R354). -/
def Part.jobTag (p : Part) : U64 := if p.job = .running then (p.manifest.map (·.job)).getD 0 else 0
/-- The job seed, zero with no job (R89). -/
def Part.seed (p : Part) : Nat := if p.job = .running then ((p.manifest.map Manifest.seed).getD 0).toNat else 0
/-- This module's torus coordinate for the partition's job, in the layout of SRC_MATCH (R175). -/
def Part.coord (p : Part) : U16 := (p.manifest.map (·.coord)).getD 0

/-! Device DRAM (06). -/

/-- The DPA of a partition address, none outside the partition (R166). -/
def Part.dpa (p : Part) (a : Nat) : Option Nat :=
  match p.hdList[a / 2 ^ 38]? with
  | some hd => some ((hd / 2) * 2 ^ 39 + (hd % 2) * 2 ^ 38 + a % 2 ^ 38)
  | none => none
/-- Whether die d interleaves in FOUR mode (R165). -/
def State.fourMode (s : State) (d : Nat) : Bool := s.partOfHd (2 * d) == s.partOfHd (2 * d + 1)
/-- The stack of a DPA (R165). -/
def State.stackOf (s : State) (dpa : Nat) : Nat :=
  let d := dpa / 2 ^ 39
  if s.fourMode d then 4 * d + dpa / 2 ^ 12 % 4 else 4 * d + 2 * (dpa / 2 ^ 38 % 2) + dpa / 2 ^ 12 % 2
/-- The address within the stack (R165). -/
def State.stackAddr (s : State) (dpa : Nat) : Nat :=
  if s.fourMode (dpa / 2 ^ 39) then (dpa % 2 ^ 39 / 2 ^ 14) * 2 ^ 12 + dpa % 2 ^ 12
  else (dpa % 2 ^ 38 / 2 ^ 13) * 2 ^ 12 + dpa % 2 ^ 12
/-- The state of a region (R171). -/
def State.region (s : State) (r : Nat) : RegionState := (kget r s.regions).getD .on
/-- The region of a DPA is ON (R171), and its stack not that of a retired half-die, which belongs to no partition (R343). [DESIGN CHOICE, log entry 57] -/
def State.regionOn (s : State) (dpa : Nat) : Bool :=
  let stack := s.stackOf dpa
  s.region (dpa / 2 ^ 33) = .on && !s.retired.getLsbD (2 * (stack / 4) + stack / 2 % 2)
/-- A DRAM byte. [DESIGN CHOICE, log entry 10] -/
def State.dramByte (s : State) (dpa : Nat) : Byte := (kget dpa s.dram).getD 0
/-- DRAM bytes written. [DESIGN CHOICE, log entry 10] -/
def State.dramPut (s : State) (dpa : Nat) (bs : Bytes) : State := { s with dram := cellsPut (some 0) s.dram dpa bs }
/-- Bytes of a partition's memory; a byte outside the partition does not exist and reads as zero here, its callers check the range. -/
def State.partRead (s : State) (p : PartId) (a k : Nat) : Bytes :=
  (List.range k).map fun i => match (s.part p).dpa (a + i) with
    | some d => s.dramByte d
    | none => 0
/-- Bytes written to a partition's memory. -/
def State.partWrite (s : State) (p : PartId) : Nat → Bytes → State
  | _, [] => s
  | a, b :: bs =>
    let s' := match (s.part p).dpa a with
      | some d => s.dramPut d [b]
      | none => s
    State.partWrite s' p (a + 1) bs
/-- Whether a range lies in the partition's memory (R166). -/
def Part.inRange (p : Part) (a k : Nat) : Bool := a + k ≤ 2 ^ 38 * p.hdList.length
/-- Whether every byte of a range lies in an ON region. -/
def State.rangeOn (s : State) (p : PartId) (a k : Nat) : Bool :=
  let ok := fun x => match (s.part p).dpa x with
    | some d => s.regionOn d
    | none => false
  ok a && (k = 0 || ok (a + k - 1))
/-- The DRAM location word of a DPA (R328); the place within the stack is the part's own. [DESIGN CHOICE, log entry 10] -/
def State.dramLoc (s : State) (dpa : Nat) : U64 :=
  BitVec.ofNat 64 (s.stackOf dpa * 2 ^ 59) ||| ((Config.dramLoc dpa).zeroExtend 64 &&& 0x07FC00000003FFFF#64)

/-! Events (R420 to R423). -/

/-- Entries of a function's event ring. -/
def HostFn.evSize (f : HostFn) : Nat := 2 ^ f.evLog2.toNat
/-- The MSI-X vector is masked: vector control bit 0 of the table entry. -/
def HostFn.masked (f : HostFn) : Bool := bitAt (fieldAt f.msixTable 12 4) 0
/-- A message sent, or pended while the vector is masked (R423). -/
def HostFn.signal (now : Nat) (f : HostFn) : HostFn :=
  if f.masked then { f with msixPending := true }
  else { f with out := f.out ++ [.msix], lastMsix := some now, msixOwed := false }
/-- MIN_US has not passed since the last message (R423). -/
def HostFn.moderated (now : Nat) (f : HostFn) : Bool := match f.lastMsix with
  | some t => now < t + f.evMod.toNat * 1000
  | none => false
/-- The 128 bytes of an event, SEQ apart (R422). -/
def eventBytes (kind code : Nat) (stamp : U64) (part : Nat) (body : Bytes) : Bytes :=
  leBytes 1 kind ++ [0] ++ leBytes 2 code ++ leBytes 8 stamp.toNat ++ leBytes 1 part ++ List.replicate 7 0 ++ padTo 104 body
/-- An event written to a function's ring, or dropped and counted when the ring is full (R423): the body first, SEQ last. -/
def State.postEvent (s : State) (fid : FnId) (kind code part : Nat) (body : Bytes) : State :=
  let f := s.fn fid
  if f.evEn = false then s
  else if (f.evHead - f.evTail).toNat < f.evSize then
    let at_ := f.evBase + BitVec.ofNat 64 (128 * (f.evHead.toNat % f.evSize))
    let f1 := { f with
      evHead := f.evHead + 1
      out := f.out ++ [HostOut.write (at_ + 4) (eventBytes kind code s.count part body),
        HostOut.write at_ (leBytes 4 (f.evHead.toNat + 1))] }
    let f2 := if f1.evMsix then (if f1.moderated s.now then { f1 with msixOwed := true } else f1.signal s.now) else f1
    s.modFn fid fun _ => f2
  else s.modFn fid fun f => { f with evLost := f.evLost + 1 }
/-- An event that names a partition goes to its owner (R420). -/
def State.postPart (s : State) (p : PartId) (kind code : Nat) (body : Bytes) : State :=
  s.postEvent (s.part p).owner kind code p.val body
/-- An event that names no partition goes to the administrator, and is not posted while the administrator's link is down
(R412, R420). -/
def State.postAdmin (s : State) (kind code : Nat) (body : Bytes) : State :=
  if (s.fn s.adminFn).gen = 0 then s else s.postEvent s.adminFn kind code 0xFF body

/-! Fault records (13). -/

/-- The 64 bytes of a fault record (R359). -/
def FaultRec.bytes (f : FaultRec) : Bytes :=
  [f.cls, f.severity, f.action, f.level, f.unit, f.flags] ++ leBytes 2 f.pcoord.toNat ++ leBytes 8 f.stamp.toNat ++
    leBytes 6 f.beat.toNat ++ [f.attempt, 0] ++ leBytes 8 f.context.toNat ++ leBytes 8 f.addr.toNat ++ leBytes 4 f.bit.toNat ++
    leBytes 4 f.count.toNat ++ leBytes 6 f.step.toNat ++ leBytes 2 f.resets.toNat ++ leBytes 8 f.job.toNat
/-- The fault record that 64 bytes spell (R359). -/
def parseRecord (bs : Bytes) : FaultRec :=
  let f := fieldAt bs
  { cls := byteAt bs 0, severity := byteAt bs 1, action := byteAt bs 2, level := byteAt bs 3, unit := byteAt bs 4, flags := byteAt bs 5
    pcoord := BitVec.ofNat 16 (f 6 2), stamp := BitVec.ofNat 64 (f 8 8), beat := BitVec.ofNat 48 (f 16 6), attempt := byteAt bs 22
    context := BitVec.ofNat 64 (f 24 8), addr := BitVec.ofNat 64 (f 32 8), bit := BitVec.ofNat 32 (f 40 4), count := BitVec.ofNat 32 (f 44 4)
    step := BitVec.ofNat 48 (f 48 6), resets := BitVec.ofNat 16 (f 54 2), job := BitVec.ofNat 64 (f 56 8) }
/-- The context identifier (R354). -/
def contextId (part jobtag lx ly eng slot pc : Nat) : U64 :=
  BitVec.ofNat 64 (part * 2 ^ 60 + jobtag % 2 ^ 16 * 2 ^ 44 + lx % 32 * 2 ^ 39 + ly % 32 * 2 ^ 34 + eng % 8 * 2 ^ 31 +
    slot % 32 * 2 ^ 26 + pc % 2 ^ 17)

/-- What a detecting unit says of a fault. -/
structure FaultArgs where
  cls : Nat
  eng : Nat := 6
  slot : Nat := 0
  pc : Nat := 0
  addr : Nat := 0
  bit : Nat := 0
  clears : Bool := true
  /-- The context of another tile, from a packet's SRC, TAG and PART (R355). -/
  remote : Option (U32 × U16 × Byte) := none
  unit : Nat := 0
  deriving DecidableEq, Repr

/-- A record of a fault charged to a partition, or to none (R354, R355, R359, R360). -/
def State.mkRecord (s : State) (pid : Option PartId) (n : Option Nat) (pcoord : U16) (a : FaultArgs) : FaultRec :=
  let base : FaultRec := {
    cls := BitVec.ofNat 8 a.cls, action := (if a.clears then 1 else 0), unit := BitVec.ofNat 8 a.unit,
    pcoord := pcoord, stamp := s.count, addr := BitVec.ofNat 64 a.addr, bit := BitVec.ofNat 32 a.bit, resets := s.resets }
  let (lx, ly, eng, slot) := match a.remote with
    | some (src, tag, _) => (bitsOf src.toNat 12 8, bitsOf src.toNat 7 3, bitsOf tag.toNat 15 13, bitsOf tag.toNat 12 8)
    | none => match n with
      | some n => (s.member.lx n, s.member.ly n, a.eng, a.slot)
      | none => (0, 0, if pcoord = 0xFFFF then 0 else a.eng, a.slot)
  match pid with
  | none => { base with
      flags := if a.clears then 1 else 0
      context := if pcoord = 0xFFFF then 0 else contextId 0 0 lx ly eng slot a.pc }
  | some p =>
    let q := s.part p
    let run := q.job = .running
    { base with
      flags := BitVec.ofNat 8 ((if a.clears then 1 else 0) + 2 + (if a.remote.isSome then 8 else 0))
      beat := BitVec.ofNat 48 q.beat
      attempt := if run then BitVec.ofNat 8 q.attempt else 0
      context := contextId ((a.remote.map fun x => x.2.2.toNat % 16).getD p.val) q.jobTag.toNat lx ly eng slot (if a.remote.isSome then 0 else a.pc)
      step := if run then q.step else 0
      job := q.jobTag }

/-- A record taken into the fault inbox, or dropped when its 4,096 places are full (R361). [DESIGN CHOICE, log entry 28] -/
def State.toInbox (s : State) (r : FaultRec) : State :=
  if s.inbox.length < 4096 then
    { s with
      inbox := s.inbox ++ [if (kget r.unit.toNat s.inboxLost).isSome then { r with flags := r.flags ||| 16 } else r]
      inboxLost := kdel r.unit.toNat s.inboxLost }
  else { s with inboxLost := kput r.unit.toNat ((kget r.unit.toNat s.inboxLost).getD 0 + 1) s.inboxLost }

/-! Clean bits, HALT and latch frames (10). -/

/-- Native address coordinates packed as SRC_MATCH (R175): TX [13:9], TY [8:4], TZ [3:0]. -/
def coordOf (addr : Nat) : Nat := bitsOf addr 26 13
/-- A link port. -/
def State.port (s : State) (p : PortId) : Port := s.ports[p]
/-- A link port changed. -/
def State.modPort (s : State) (p : PortId) (f : Port → Port) : State := { s with ports := s.ports.set p (f (s.port p)) }
/-- A link: the native port, or an Ethernet session. -/
def Port.link (q : Port) (x : Session) : Link :=
  match x with
  | none => q.native
  | some i => (kget i.val q.sessions).getD {}
/-- A link changed; a session that is not defined stays undefined. -/
def Port.modLink (q : Port) (x : Session) (f : Link → Link) : Port :=
  match x with
  | none => { q with native := f q.native }
  | some i => match kget i.val q.sessions with
    | some l => { q with sessions := kput i.val (f l) q.sessions }
    | none => q
/-- A link of a port. -/
def State.link (s : State) (p : PortId) (x : Session) : Link := (s.port p).link x
/-- A link of a port changed. -/
def State.modLink (s : State) (p : PortId) (x : Session) (f : Link → Link) : State := s.modPort p fun q => q.modLink x f
/-- The host port of a function serves: in minimal mode only the administrator's does (R400). [DEDUCED, log entry 64] -/
def State.serves (s : State) (f : FnId) : Bool := s.boot.phase ≠ 3 || (4 ≤ f.val) = (4 ≤ s.adminFn.val)
/-- An Ethernet mode (R283). -/
def Port.isEth (q : Port) : Bool := 4 ≤ q.mode.toNat
/-- The port is up (R294, R298): one of its links is, or, on an Ethernet port, whose sessions may be none, its lanes are. -/
def Port.isUp (q : Port) : Bool :=
  if q.isEth then q.lanes.toList.any fun l => l.state = .up
  else q.native.state ≠ .down
/-- A Hasp 1 or Hasp 2 mode (R283). -/
def Port.isFlat (q : Port) : Bool := q.mode = 1 || q.mode = 2
/-- The links of a port: one in a Hasp mode, its sessions in an Ethernet mode (R303). -/
def Port.links (q : Port) : List Session :=
  if q.isEth then (List.finRange 64).filterMap fun i => if (kget i.val q.sessions).isSome then some (some i) else none else [none]
/-- The coordinate one hop along a direction of the torus: 0 +x, 1 −x, 2 +y, 3 −y, 4 +z, 5 −z (R231). -/
def Manifest.hop (m : Manifest) (d : Fin 6) : Nat :=
  let c := m.coord.toNat
  let move := fun (n v : Nat) => if d.val % 2 = 0 then (v + 1) % n else (v + n - 1) % n
  let x := bitsOf c 13 9
  let y := bitsOf c 8 4
  let z := bitsOf c 3 0
  match d.val / 2 with
  | 0 => move m.nx x * 512 + y * 16 + z
  | 1 => x * 512 + move m.ny y * 16 + z
  | _ => x * 512 + y * 16 + move m.nz z
/-- The device identifier of a coordinate (R304, R310). -/
def Manifest.deviceOf (m : Manifest) (coord : Nat) : Option U32 := (m.members.find? fun x => x.2.toNat = coord).map (·.1)
/-- The session of a port with a device. -/
def Port.sessionTo (q : Port) (dev : U32) : Option (Fin 64) :=
  (List.finRange 64).find? fun i => match kget i.val q.sessions with
    | some l => l.devId = dev
    | none => false
/-- The link that leads one hop along a direction (R231, R304). -/
def State.exitLink (s : State) (p : PartId) (d : Fin 6) : Option (PortId × Session) :=
  match (s.part p).exits[d], (s.part p).manifest with
  | some port, some m =>
    if (s.port port).isEth then ((m.deviceOf (m.hop d)).bind (s.port port).sessionTo).map fun i => (port, some i)
    else some (port, none)
  | _, _ => none
/-- The job links of a partition, each once (R231, R304). -/
def State.jobLinks (s : State) (p : PartId) : List (PortId × Session) := ((List.finRange 6).filterMap (s.exitLink p)).eraseDups
/-- The ports of a partition's exit table, each once (R259). -/
def Part.jobPorts (p : Part) : List PortId := (p.exits.toList.filterMap id).eraseDups
/-- A latch frame of the partition's attempt, FLAGS and value filled by the caller. -/
def Part.frame (p : Part) (kind : Nat) (v : GatherVal) : LatchFrame :=
  { kind := BitVec.ofNat 8 kind, stage := 0, ttl := 0, clean := v.clean, agreeValid := p.latch.agreeValid, closed := false,
    hold := v.hold, cause := v.cause, origin := v.origin, step := p.step, attempt := BitVec.ofNat 8 p.attempt,
    agree := p.latch.agree, job := p.jobTag }
/-- A latch frame handed to a link for its next control slot (R291). -/
def State.sendLatch (s : State) (l : PortId × Session) (f : LatchFrame) : State := { s with latchOut := s.latchOut ++ [(l.1, l.2, f)] }
/-- A shadow's partition (R279): its I/O dies discard what it addresses to another module (R280). -/
def Part.isShadow (p : Part) : Bool := match p.shadow with
  | some h => h.role = 2
  | none => false
/-- A latch frame sent on every job link but one; a shadow takes no part in the job's latch (R279). -/
def State.floodLatch (s : State) (p : PartId) (except : Option (PortId × Session)) (f : LatchFrame) : State :=
  if (s.part p).isShadow then s else ((s.jobLinks p).filter fun q => some q ≠ except).foldl (fun s q => s.sendLatch q f) s
/-- HALT: the first of a job goes out on every job link and is remembered (R266); acted on at the next beat boundary. -/
def State.sendHalt (s : State) (p : PartId) (cls : Byte) (origin : U16) (except : Option (PortId × Session)) : State :=
  let q := s.part p
  if q.job = .running && q.latch.halt.isNone then
    let s1 := s.modPart p fun q => { q with latch := { q.latch with halt := some (cls, origin) } }
    s1.floodLatch p except (q.frame 3 { clean := false, cause := cls, origin := origin })
  else s
/-- A clean bit of the partition was cleared: after the sample at T(K) it is a commit fault if the latch closed (R264, R268). -/
def State.noteClear (s : State) (p : PartId) (cls : Byte) : State :=
  let q := s.part p
  if q.latch.sampled.isNone then s
  else match q.latch.fixed with
    | some true =>
      (s.modPart p fun q => { q with latch := { q.latch with commitFault := true } }).sendHalt p cls q.coord none
    | some false => s
    | none => s.modPart p fun q => { q with latch := { q.latch with lateClear := q.latch.lateClear.or (some cls) } }
/-- The mark a first clearing fault leaves. -/
def markUnclean (u : Option Unclean) (cls : Byte) (t : Int) : Option Unclean := u.or (some ⟨cls, t⟩)
/-- A tile's clean bit cleared (R259). -/
def State.clearTile (s : State) (t : TileId) (cls : Byte) : State :=
  match s.partOf t with
  | some p =>
    let s1 := s.modTile t fun v => { v with unclean := markUnclean v.unclean cls (s.jobTime p) }
    if (s.nOf t).isSome then s1.noteClear p cls else s1
  | none => s.modTile t fun v => { v with unclean := markUnclean v.unclean cls s.now }
/-- The partition unit's clean bit cleared (R259). -/
def State.clearPart (s : State) (p : PartId) (cls : Byte) : State :=
  (s.modPart p fun q => { q with unclean := markUnclean q.unclean cls (s.jobTime p) }).noteClear p cls

/-- One more fault record of the partition's attempt (R271). -/
def State.countFault (s : State) (pid : Option PartId) : State := match pid with
  | some p => s.modPart p fun q => { q with faults := q.faults + 1 }
  | none => s

/-- A Boolean as a bit. -/
def b2n (b : Bool) : Nat := if b then 1 else 0
/-- A native address (R28) from a coordinate in the layout of SRC_MATCH. -/
def nativeAddr (coord lx ly ep : Nat) : U32 := BitVec.ofNat 32 (coord % 2 ^ 14 * 2 ^ 13 + lx % 32 * 2 ^ 8 + ly % 32 * 8 + ep % 8)
/-- The I/O die and row at which a packet leaves the grid. -/
def ioDphys (east : Bool) (port row : Nat) : U16 :=
  BitVec.ofNat 16 (2 ^ 15 + b2n east * 2 ^ 14 + port % 16 * 2 ^ 8 + row % 32)
/-- A record joins a ward's queue: merged into an equal one that is still waiting (R360), else queued, at most 8 behind the one whose
NOTICE is on its way (R325); beyond that it is counted and lost. [DESIGN CHOICE, log entry 28] -/
def Ward.push (w : Ward) (r : FaultRec) : Ward :=
  let sent := if w.urgent then 1 else 0
  let same := fun (x : FaultRec) => x.cls = r.cls && x.context = r.context && x.addr = r.addr && x.beat = r.beat
  if (w.queue.drop sent).any same then
    { w with queue := w.queue.take sent ++ (w.queue.drop sent).map fun x =>
        if same x && x.count ≠ 0xFFFFFFFF then { x with count := x.count + 1 } else x }
  else
    let w1 := { w with nfault := if w.nfault = 255 then 255 else w.nfault + 1, last := r.cls }
    if w.queue.length < 9 then
      { w1 with queue := w.queue ++ [if w.lost then { r with flags := r.flags ||| 16 } else r], lost := false }
    else { w1 with lost := true }

/-- TAG of the NOTICE a ward sent last: endpoint code 6. [DESIGN CHOICE, log entry 28] -/
def Ward.tag (w : Ward) : U16 := BitVec.ofNat 16 (6 * 2 ^ 13 + w.sent.toNat)
/-- The NOTICE of a record (R213, R216, R325): an urgent request to Pintle in IO-W. [DESIGN CHOICE, log entry 28] -/
def State.noticePacket (s : State) (t : TileId) (tag : U16) (r : FaultRec) : Packet :=
  let n := (s.nOf t).getD 0
  let own := s.partOf t
  let of := fun (f : Part → Nat) (d : Nat) => (own.map fun p => f (s.part p)).getD d
  { type := 8, vc := 3, dl := false, mcast := false, refwd := false, fence := false, ue := false, len := 64
    gen := BitVec.ofNat 7 (of (·.slot) 0), dst := 0, src := nativeAddr (of (·.coord.toNat) 0) (s.member.lx n) (s.member.ly n) 6
    dphys := ioDphys false 0 t.py.toNat, dstu := 1, srcu := 0, part := BitVec.ofNat 8 ((own.map (·.val)).getD 0xFF), addr := 0
    step := BitVec.ofNat 48 (of (·.step.toNat) 0), tag := tag, payload := r.bytes }
/-- A packet enters a network at the local input of a router; its age at an output counts from here while it is ready (R218). -/
def State.enter (s : State) (q : Packet) (t : TileId) : State :=
  { s with net := s.net ++ [{ pkt := q, loc := .router t 4, ready := some s.now }] }
/-- A ward sends the record at the head of its queue unless one is on its way (R221, R325). [DESIGN CHOICE, log entry 28] -/
def State.sendNotice (s : State) (t : TileId) : State :=
  let w := (s.tile t).ward
  match w.queue with
  | r :: _ =>
    if w.urgent then s
    else
      let w1 := { w with urgent := true, sent := w.sent + 1 }
      let s1 := s.modTile t fun v => { v with ward := w1 }
      s1.enter (s.noticePacket t w1.tag r) t
  | [] => s
/-- A fault record that the ward of a tile writes (R325, R355). -/
def State.tileRecord (s : State) (t : TileId) (a : FaultArgs) : State :=
  let pid := s.partOf t
  let pcoord := BitVec.ofNat 16 (t.px.toNat * 256 + t.py.toNat)
  let r := s.mkRecord pid (s.nOf t) pcoord a
  ((s.modTile t fun v => { v with ward := v.ward.push r }).sendNotice t).countFault pid
/-- A fault of a tile: the ward writes the record and clears the tile's clean bit where the rule says so (R325). -/
def State.tileFault (s : State) (t : TileId) (a : FaultArgs) : State :=
  let s1 := s.tileRecord t a
  if a.clears then s1.clearTile t (BitVec.ofNat 8 a.cls) else s1
/-- A fault of a unit outside the tiles, charged to a partition or to none (R355, R361); the caller clears clean bits. -/
def State.unitFault (s : State) (pid : Option PartId) (a : FaultArgs) : State :=
  (s.toInbox (s.mkRecord pid none 0xFFFF a)).countFault pid
/-- A fault of the partition unit that clears its clean bit. -/
def State.partFault (s : State) (p : PartId) (a : FaultArgs) : State :=
  let s1 := s.unitFault (some p) a
  if a.clears then s1.clearPart p (BitVec.ofNat 8 a.cls) else s1

/-! Seams (R37, R59). -/

/-- The seam IDs of the member, increasing (R59). -/
def Member.seamIds (m : Member) : List Nat :=
  (List.range (m.w * m.h)) ++ ((List.range ((m.w - 1) * m.h)).map (256 + ·)) ++
    (if m.h = 2 then (List.range m.w).map (512 + ·) else []) ++ ((List.range (2 * m.h)).map (768 + ·))
/-- The half-dies a seam borders (R37, R59): none on the side of an I/O die. -/
def Member.seamHds (m : Member) (id : Nat) : List Nat :=
  let i := id % 256
  match id / 256 with
  | 0 => [2 * i, 2 * i + 1]
  | 1 => let cy := i / (m.w - 1); let cx := i % (m.w - 1); let d := m.w * cy + cx
         [2 * d, 2 * d + 1, 2 * d + 2, 2 * d + 3]
  | 2 => [2 * i + 1, 2 * (m.w + i)]
  | _ => let cy := i % m.h; let d := if i < m.h then m.w * cy else m.w * cy + m.w - 1
         [2 * d, 2 * d + 1]
/-- A seam. -/
def State.seam (s : State) (id : Nat) : Seam := (kget id s.seams).getD {}
/-- A seam changed. -/
def State.modSeam (s : State) (id : Nat) (f : Seam → Seam) : State := { s with seams := kput id (f (s.seam id)) s.seams }
/-- The seam a crossing between two half-dies uses (R59). -/
def State.seamBetween (s : State) (a b : Nat) : Option Nat :=
  s.member.seamIds.find? fun id => id / 256 ≠ 3 && (s.member.seamHds id).contains a && (s.member.seamHds id).contains b
/-- The crossing between two half-dies accepts nothing while its seam re-aligns its release phases (R63). -/
def State.seamPaused (s : State) (a b : Nat) : Bool := match s.seamBetween a b with
  | some id => a ≠ b && decide (s.now < (s.seam id).pausedTill)
  | none => false
/-- The partitions that border a seam. -/
def State.seamParts (s : State) (id : Nat) : List PartId :=
  allParts.filter fun p => (s.member.seamHds id).any (s.part p).hasHd
/-- The seams that border a partition, increasing. -/
def State.seamsOfPart (s : State) (p : PartId) : List Nat :=
  s.member.seamIds.filter fun id => (s.member.seamHds id).any (s.part p).hasHd
/-- A seam's clean bit cleared, for every partition that it borders (R61, R259). -/
def State.clearSeam (s : State) (id : Nat) (cls : Byte) : State :=
  let mark := fun (p : PartId) (t : Int) (v : Seam) =>
    { v with unclean := match kget p.val v.unclean with
      | some _ => v.unclean
      | none => kput p.val ⟨cls, t⟩ v.unclean }
  (s.seamParts id).foldl (fun s p => (s.modSeam id (mark p (s.jobTime p))).noteClear p cls) s

/-- The saturating increment of a 32-bit counter (R121). -/
def satAdd (c : U32) (k : Nat) : U32 := BitVec.ofNat 32 (min (c.toNat + k) 0xFFFFFFFF)

end Sys2Proof.Machine
end

