-- ==== Sys2Proof/Machine/Operands.lean ====
section
/-!
DEFINITION. Operand access of the tile's engines: banks and their power (R149, R150, R179 to R181), carry views (R162), checked rings
(R156 to R159), descriptor queues (R99 to R101), ECC of what is read (R94, R153, R169), and the packets engines make (R211).
-/

namespace Sys2Proof.Machine

/-! Engines and their codes. -/

/-- The endpoint code of an engine (R29, R98). -/
def engCode : Eng → Nat
  | .mxe => 1
  | .vxe => 2
  | .dma => 3
  | .msg => 4
/-- The engine of an ENG code (R98). -/
def engOf (c : Nat) : Option Eng :=
  match c with
  | 1 => some .mxe
  | 2 => some .vxe
  | 3 => some .dma
  | 4 => some .msg
  | _ => none
/-- An engine's queue. -/
def Tile.q (v : Tile) : Eng → EngQ
  | .mxe => v.mxe
  | .vxe => v.vxe
  | .dma => v.dma
  | .msg => v.msg
/-- An engine's queue written. -/
def Tile.setQ (v : Tile) (e : Eng) (q : EngQ) : Tile :=
  match e with
  | .mxe => { v with mxe := q }
  | .vxe => { v with vxe := q }
  | .dma => { v with dma := q }
  | .msg => { v with msg := q }
/-- An engine's progress counter advances by one (R102, R148, R252, R363). -/
def Progress.bump (p : Progress) : Eng → Progress
  | .mxe => { p with mxe := p.mxe + 1 }
  | .vxe => { p with vxe := p.vxe + 1 }
  | .dma => { p with dma := p.dma + 1 }
  | .msg => { p with msg := p.msg + 1 }

/-! Banks and views. -/

/-- The bank of a scratchpad address (R149). -/
def Member.bankOf (m : Member) (a : Nat) : Nat :=
  if m.split then
    if a < 0x200000 then a / 64 % 16 else if a < 0x300000 then 16 + a / 64 % 8 else 24 + a / 64 % 8
  else a / 64 % 32
/-- The bank group of an address in split-port mode (R149): 0 MXE, 1 VXE, 2 DMA. -/
def groupOf (a : Nat) : Nat := if a < 0x200000 then 0 else if a < 0x300000 then 1 else 2
/-- Whether an endpoint reaches a range of scratchpad (R150); in unified mode every requester reaches every bank. -/
def Member.reaches (m : Member) (ep a k : Nat) : Bool :=
  let ok := fun g => match ep with
    | 1 => g = 0
    | 2 => g ≤ 1
    | 4 => g ≥ 1
    | _ => true
  !m.split || k = 0 ||
    (ok (groupOf a) && ok (groupOf (a + k - 1)) && ok ((groupOf a + groupOf (a + k - 1)) / 2))
/-- Whether a range lies within the scratchpad (R149). -/
def inSpad (a k : Nat) : Bool := a + k ≤ 0x400000
/-- Where the word at a program's address lies: carry views map to halves by the parity of the step number (R162). -/
def physAddr (cs : List Carry) (step a : Nat) : Nat :=
  match cs with
  | [] => a
  | c :: cs =>
    let b := c.base.toNat
    let z := c.size.toNat
    if b ≤ a && a < b + 2 * z && 0 < z then b + ((step + (a - b) / z) % 2) * z + (a - b) % z else physAddr cs step a

/-- The step number a tile works in; 0 with no partition. -/
def State.stepAt (s : State) (t : TileId) : Nat := match s.partOf t with
  | some p => (s.part p).step.toNat
  | none => 0

/-- A byte as a requester of the tile reads it: zero from a bank that is off (R181). -/
def Tile.byte (v : Tile) (m : Member) (key step a : Nat) : Byte :=
  let x := physAddr v.carries step a
  match v.banks[m.bankOf x % 32]'(Nat.mod_lt _ (by decide)) with
  | .off => 0
  | _ => v.spad.get key x
/-- Bytes as a requester of the tile reads them. -/
def State.spadRead (s : State) (t : TileId) (a k : Nat) : Bytes :=
  let v := s.tile t
  let st := s.stepAt t
  (List.range k).map fun i => v.byte s.member (tileKey t) st (a + i)
/-- The power state of the bank that holds an address. -/
def Tile.bankAt (v : Tile) (m : Member) (x : Nat) : BankPower := v.banks[m.bankOf x % 32]'(Nat.mod_lt _ (by decide))
/-- Whether the bank takes writes: not while it drains or is off (R180, R181). -/
def BankPower.takesWrites : BankPower → Bool
  | .on => true
  | .clearing => true
  | _ => false
/-- The addresses at which a range enters a new 64-byte word. -/
def wordStarts (a k : Nat) : List Nat :=
  if k = 0 then [] else (List.range ((a + k - 1) / 64 + 1 - a / 64)).map fun i => if i = 0 then a else (a / 64 + i) * 64
/-- The first address of a range that lies in a bank for which `bad` holds, as its physical address. -/
def Tile.bankHit (v : Tile) (m : Member) (step : Nat) (bad : BankPower → Bool) (a k : Nat) : Option Nat :=
  ((wordStarts a k).map fun x => physAddr v.carries step x).find? fun x => bad (v.bankAt m x)
/-- Some bank of the range is still clearing itself: the access waits (R182). -/
def Tile.clearing (v : Tile) (m : Member) (step a k : Nat) : Bool := (v.bankHit m step (· = .clearing) a k).isSome

/-! Checked rings. -/

/-- Bytes a ring spans (R156). -/
def Ring.span (r : Ring) : Nat := 64 * r.slotWords.toNat * r.slots.toNat
/-- Bytes of a slot. -/
def Ring.slotBytes (r : Ring) : Nat := 64 * r.slotWords.toNat
/-- Whether an address lies in the ring. -/
def Ring.has (r : Ring) (a : Nat) : Bool := r.enabled && r.base.toNat ≤ a && a < r.base.toNat + r.span
/-- The slot of an address. -/
def Ring.slotOf (r : Ring) (a : Nat) : Nat := (a - r.base.toNat) / r.slotBytes
/-- How far slot i lies ahead of slot x mod n. -/
def Ring.ahead (r : Ring) (i x : Nat) : Nat :=
  let n := r.slots.toNat
  (i + n - x % n) % n
/-- Slots filled and not drained past (R156). -/
def Ring.level (r : Ring) : Nat := (r.p - r.c).toNat
/-- Whether a consumer may read slot i: filled and within 8 of C (R158, R159). -/
def Ring.readable (r : Ring) (i : Nat) : Bool :=
  let a := r.ahead i r.c.toNat
  a < 8 && (a < r.level || (a - r.level < 8 && r.fills.getD (a - r.level) 0 = r.slotWords.toNat))
/-- Whether a producer may write slot i: drained and within 8 of P (R157, R159). -/
def Ring.writable (r : Ring) (i : Nat) : Bool :=
  let a := r.ahead i r.c.toNat
  r.level ≤ a && a - r.level < 8
/-- P advances over consecutive filled slots (R157); `fuel` bounds it by the 8 slots tracked. -/
def Ring.advanceP (r : Ring) : Nat → Ring
  | 0 => r
  | fuel + 1 =>
    if r.fills.headD 0 = r.slotWords.toNat && 0 < r.slotWords.toNat && r.level < r.slots.toNat then
      Ring.advanceP { r with p := r.p + 1, fills := r.fills.drop 1 ++ [0] } fuel
    else r
/-- A producer's write of one word of slot i counts (R157). -/
def Ring.fill (r : Ring) (i : Nat) : Ring :=
  let j := r.ahead i r.p.toNat
  Ring.advanceP { r with fills := r.fills.modify j (· + 1) } 8
/-- C advances over consecutive drained slots (R158). -/
def Ring.advanceC (r : Ring) : Nat → Ring
  | 0 => r
  | fuel + 1 =>
    if r.drains.headD false && 0 < r.level then
      Ring.advanceC { r with c := r.c + 1, drains := r.drains.drop 1 ++ [false] } fuel
    else r
/-- A completed consumer drains slot i (R158). -/
def Ring.drain (r : Ring) (i : Nat) : Ring :=
  Ring.advanceC { r with drains := r.drains.set (r.ahead i r.c.toNat) true } 8
/-- A ring at the start of a step slot: P, C and their marks zero (R156). -/
def Ring.restart (r : Ring) : Ring :=
  { r with p := 0, c := 0, fills := List.replicate 8 0, drains := List.replicate 8 false }

/-- The rings of a tile with their numbers. -/
def Tile.ringList (v : Tile) : List (Fin 16 × Ring) := (List.finRange 16).map fun i => (i, v.rings[i])
/-- A ring changed. -/
def Tile.modRing (v : Tile) (i : Fin 16) (f : Ring → Ring) : Tile := { v with rings := v.rings.set i (f v.rings[i]) }
/-- The ring slots that a range touches. -/
def Ring.slotsIn (r : Ring) (a k : Nat) : List Nat :=
  let lo := max a r.base.toNat
  let hi := min (a + k) (r.base.toNat + r.span)
  if r.enabled && lo < hi && 0 < r.slotBytes then
    (List.range (r.slotOf (hi - 1) + 1 - r.slotOf lo)).map (r.slotOf lo + ·)
  else []
/-- The slots of the consumer's rings that a read touches (R158). -/
def Tile.readsOf (v : Tile) (ep a k : Nat) : List (Fin 16 × Nat) :=
  v.ringList.flatMap fun (i, r) => if r.consEp.toNat = ep then (r.slotsIn a k).map fun j => (i, j) else []
/-- The first slot of a read that is not there to be read (R159): its ring and slot address. -/
def Tile.readBlock (v : Tile) (ep a k : Nat) : Option (Fin 16 × Nat) :=
  ((v.readsOf ep a k).find? fun (i, j) => !(v.rings[i]).readable j).map fun (i, j) =>
    (i, (v.rings[i]).base.toNat + j * (v.rings[i]).slotBytes)
/-- The ring that checks a write of the endpoint at an address. -/
def Tile.prodRing (v : Tile) (ep a : Nat) : Option (Fin 16) :=
  (v.ringList.find? fun (_, r) => r.prodEp.toNat = ep && r.has a).map Prod.fst

/-- What a run of writes came to: bytes placed, the tile, the ring slot that blocks the rest, and the first write a bank refused. -/
structure Wrote where
  count : Nat
  tile : Tile
  block : Option (Fin 16 × Nat) := none
  refused : Option Nat := none
  deriving DecidableEq, Repr

/-- Bytes of one 64-byte word written at a physical address: at once, or after the bank has cleared itself (R182). -/
def Tile.putSpad (v : Tile) (m : Member) (x : Nat) (bs : Bytes) : Tile :=
  if v.bankAt m x = .clearing then { v with clearWrites := v.clearWrites ++ [(BitVec.ofNat 22 x, bs)] } else { v with spad := v.spad.put x bs }
/-- Bytes cut where 64-byte words begin. -/
def cutWords : Nat → Nat → Bytes → List (Nat × Bytes)
  | 0, _, _ => []
  | fuel + 1, a, bs =>
    if bs.isEmpty then []
    else
      let k := 64 - a % 64
      (a, bs.take k) :: cutWords fuel (a + k) (bs.drop k)
/-- The ring slot that a write of the endpoint at an address meets and may not write yet (R159): its ring and its address. -/
def Tile.slotBlock (v : Tile) (ep a : Nat) : Option (Fin 16 × Nat) :=
  match v.prodRing ep a with
  | some i =>
    let r := v.rings[i]
    if r.writable (r.slotOf a) then none else some (i, r.base.toNat + r.slotOf a * r.slotBytes)
  | none => none
/-- The first ring slot that blocks a write of the endpoint to a range (R159). -/
def Tile.writeBlock (v : Tile) (ep a k : Nat) : Option (Fin 16 × Nat) := (wordStarts a k).findSome? (v.slotBlock ep)
/-- Bytes of one word written by an endpoint that no ring blocks: refused by a bank that takes no writes (the address then), and counted
toward its slot when they include byte 63 (R157, R181). -/
def Tile.placeWord (v : Tile) (m : Member) (step ep : Nat) (w : Nat × Bytes) : Tile × Option Nat :=
  let x := physAddr v.carries step w.1
  if (v.bankAt m x).takesWrites then
    let v1 := v.putSpad m x w.2
    (match v.prodRing ep w.1 with
      | some i =>
        if w.1 % 64 + w.2.length = 64 && (v.slotBlock ep w.1).isNone then v1.modRing i fun r => r.fill (r.slotOf w.1) else v1
      | none => v1, none)
  else (v, some x)
/-- Words written in order by an endpoint: each checked by its ring, refused by a bank that takes no writes, and counted toward its
slot when it includes byte 63 (R157, R181). -/
def Tile.writeWords (m : Member) (step ep : Nat) : Tile → List (Nat × Bytes) → Wrote
  | v, [] => { count := 0, tile := v }
  | v, (a, bs) :: rest =>
    match v.slotBlock ep a with
    | some b => { count := 0, tile := v, block := some b }
    | none =>
      let (v1, bad) := v.placeWord m step ep (a, bs)
      let w := Tile.writeWords m step ep v1 rest
      { w with count := w.count + bs.length, refused := bad.or w.refused }
/-- Bytes written by an endpoint from an address on. -/
def Tile.writeRun (v : Tile) (m : Member) (step ep a : Nat) (bs : Bytes) : Wrote :=
  Tile.writeWords m step ep v (cutWords bs.length a bs)
/-- Bytes written by an endpoint from an address on, whatever a ring says: the first address that a bank refused. -/
def Tile.placeRun (v : Tile) (m : Member) (step ep a : Nat) (bs : Bytes) : Tile × Option Nat :=
  (cutWords bs.length a bs).foldl (fun (r : Tile × Option Nat) w =>
    let (v1, bad) := r.1.placeWord m step ep w
    (v1, r.2.or bad)) (v, none)

/-! Descriptors and queues. -/

/-- A field of a slot's descriptor. -/
def Slot.f (x : Slot) (off k : Nat) : Nat := fieldAt x.desc off k
/-- CTRL bits of a descriptor. -/
def Slot.ctrl (x : Slot) (hi lo : Nat) : Nat := bitsOf (x.f 0 4) hi lo
/-- DEP_ENG's completion count has reached DEP_TICKET, by the comparison of R100. -/
def Tile.reached (v : Tile) (code ticket : Nat) : Bool :=
  match engOf code with
  | some e => 0 ≤ ((v.q e).done - BitVec.ofNat 32 ticket).toInt
  | none => true
/-- The lowest free context slot of a queue (R99). -/
def EngQ.freeSlot (q : EngQ) : Option (Fin 8) := (List.finRange 8).find? fun i => q.slots.all fun x => x.num ≠ i
/-- A slot of a queue changed. -/
def EngQ.modSlot (q : EngQ) (num : Fin 8) (f : Slot → Slot) : EngQ :=
  { q with slots := q.slots.map fun x => if x.num = num then f x else x }
/-- A slot of a tile's queue changed. -/
def Tile.modSlot (v : Tile) (e : Eng) (num : Fin 8) (f : Slot → Slot) : Tile := v.setQ e ((v.q e).modSlot num f)
/-- The slots a completed descriptor of a consumer has read are drained (R158). -/
def Tile.drainReads (v : Tile) (rs : List (Fin 16 × Nat)) : Tile :=
  rs.eraseDups.foldl (fun v (i, j) => v.modRing i fun r => r.drain j) v
/-- A descriptor completes wherever it stands in its queue: its reads drain, the count increments, the slot frees (R160). [DESIGN CHOICE, log entry 21] -/
def Tile.completeSlot (v : Tile) (e : Eng) (num : Fin 8) : Tile :=
  match (v.q e).slots.find? fun x => x.num = num with
  | none => v
  | some x =>
    let v1 := v.setQ e { v.q e with done := (v.q e).done + 1, slots := (v.q e).slots.filter fun y => y.num ≠ num }
    { (v1.drainReads x.reads) with progress := v1.progress.bump e }
/-- The head of an engine's queue completes: its reads drain, the count increments, the slot frees, progress advances (R119, R146,
R158, R174). -/
def Tile.completeHead (v : Tile) (e : Eng) : Tile :=
  match (v.q e).slots with
  | [] => v
  | x :: rest =>
    let v1 := v.setQ e { v.q e with done := (v.q e).done + 1, slots := rest }
    { (v1.drainReads x.reads) with progress := v1.progress.bump e }

/-- Scheduled work may issue in the partition's current beat (R101, R256): a released partition, a compute beat, or a commit beat of a
slot whose latch closed; with no job every beat. Nothing issues while a repeat is awaited (R269, R337, R345), or while a re-placement freezes
the partition (R337). -/
def Part.mayIssue (p : Part) : Bool :=
  p.live && p.repeatSlot.isNone && !p.placing && (p.job = .none || p.beatInStep < p.k || (p.k < p.beatInStep && p.latch.fixed = some true))
/-- The engines of a tile run: it is in a released partition, not frozen, not fenced, and its half-die is not leaving IDLE (R20, R324,
R447). [DESIGN CHOICE, log entry 2; DEDUCED, log entry 70] -/
def State.tileLive (s : State) (t : TileId) : Bool :=
  let v := s.tile t
  !v.frozen && !v.ward.tfence && !s.power.waking.getLsbD (s.member.hdOf t) && match s.partOf t with
    | some p => (s.part p).live && s.power.hd.toList.getD (s.member.hdOf t) 0 ≠ 2
    | none => v.ward.diag
/-- A queued descriptor may start (R101, R117, R146): its beat binding and its dependency allow it. -/
def State.mayStart (s : State) (t : TileId) (x : Slot) (depEng depTicket : Nat) : Bool :=
  let v := s.tile t
  s.tileLive t && v.reached depEng depTicket && match x.binding with
    | .unscheduled => match s.partOf t with
      | some p => (s.part p).repeatSlot.isNone && !(s.part p).placing
      | none => true
    | .held => false
    | .bound => !v.overrun && match s.partOf t with
      | some p => (s.part p).mayIssue
      | none => true

/-- The instant at which a descriptor starts: scheduled issue begins at cycle 64 of its beat (R52, step 6). [DESIGN CHOICE, log entry 4] -/
def State.atWork (s : State) (t : TileId) (x : Slot) : State :=
  match x.binding, s.partOf t with
  | .bound, some p => s.reachJob p ((s.part p).t (s.part p).beat + 64)
  | _, _ => s

/-- The current beat of a tile's partition. -/
def State.beatAt (s : State) (t : TileId) : Nat := match s.partOf t with
  | some p => (s.part p).beat
  | none => 0
/-- A stall noted on a slot; the same stall keeps the beat it began in (R160). -/
def Slot.stallAt (x : Slot) (write : Bool) (beat : Nat) (b : Fin 16 × Nat) : Slot :=
  let sa := BitVec.ofNat 22 b.2
  match x.stall with
  | some st => if st.write = write && st.ring = b.1 && st.slotAddr = sa then x
    else { x with stall := some ⟨write, b.1, sa, beat⟩ }
  | none => { x with stall := some ⟨write, b.1, sa, beat⟩ }

/-! Faults of engines and of the words they read. -/

/-- A fault that names an engine and its context slot (R355). -/
def State.engFault (s : State) (t : TileId) (e : Eng) (x : Slot) (cls addr bit : Nat) (clears : Bool) : State :=
  s.tileFault t { cls := cls, eng := engCode e, slot := x.num.val, pc := x.pc.toNat, addr := addr, bit := bit, clears := clears }
/-- FC_BANK_OFF_WRITE for a local access that met a bank that is off (R181). -/
def State.bankFault (s : State) (t : TileId) (e : Eng) (x : Slot) (hit : Option Nat) : State :=
  match hit with
  | some a => s.engFault t e x 0x10 a 0 true
  | none => s

/-- Symbols found in error in a row, and the class of the record that called for its repair (R329, R330). -/
def State.noteSyms (s : State) (loc : U64) (sym : BitVec 18) (cls : Byte) : State :=
  let old := (kget loc.toNat s.rowSyms).getD (0, 0)
  { s with rowSyms := kput loc.toNat (old.1 ||| sym, if old.2 = 0 then cls else old.2) s.rowSyms }
/-- A row marked for repair, once (R170), and the symbols found in error in it. [DESIGN CHOICE, log entry 46] -/
def State.markRow (s : State) (loc : U64) (sym : BitVec 18) (cls : Byte := 0) : State :=
  let s1 := s.noteSyms loc sym cls
  if s.rowsMarked.contains loc || s.rowsBad.contains loc then s1 else { s1 with rowsMarked := s1.rowsMarked ++ [loc] }
/-- The channel that a location word names is retired: two of its pins have failed (R351). -/
def State.channelRetired (s : State) (loc : U64) : Bool :=
  2 ≤ (s.pinsFailed.filter fun l => l.toNat / 2 ^ 54 = loc.toNat / 2 ^ 54).length
/-- The symbols that are erased in the channel of a location word: those of its failed pins (R351). -/
def State.erasedSyms (s : State) (loc : U64) : BitVec 18 :=
  (s.pinsFailed.filter fun l => l.toNat / 2 ^ 54 = loc.toNat / 2 ^ 54).foldl (fun m l => m ||| BitVec.ofNat 18 (2 ^ bitsOf l.toNat 49 45)) 0
/-- What a controller that decodes with a failed pin's symbol erased shows for a word it could else correct (R351): an error of that symbol
always comes back right, one of any other is detected and not corrected, and the erased pin is flagged with it (R362). [DESIGN CHOICE, log entry 46] -/
def State.erasedEcc (s : State) (ecc : Ecc) : Ecc :=
  match ecc with
  | .corrected (.dram dpa pin) =>
    let erased := s.erasedSyms (s.dramLoc dpa.toNat)
    if erased = 0 then ecc
    else if erased.getLsbD pin.val then .clean
    else .dram dpa (BitVec.ofNat 18 (2 ^ pin.val) ||| erased)
  | .dram dpa sym => .dram dpa (sym ||| s.erasedSyms (s.dramLoc dpa.toNat))
  | e => e
/-- What the ECC of partition memory shows: a read that touches a retired channel is uncorrectable, its erased pins flagged (R351, R362). [DESIGN CHOICE, log entry 46] -/
def State.retiredEcc (s : State) (p : PartId) (a k : Nat) (ecc : Ecc) : Ecc :=
  let dpas := (List.range k).filterMap fun i => (s.part p).dpa (a + i)
  match dpas.find? fun d => s.channelRetired (s.dramLoc d) with
  | some d => .dram (BitVec.ofNat 42 d) (s.erasedSyms (s.dramLoc d))
  | none => s.erasedEcc ecc
/-- A record that Pintle will append (R331), stamped with the power-on count and seconds. -/
def State.logDefect (s : State) (d : Defect) : State :=
  { s with defectQueue := s.defectQueue ++ [{ d with
      boot := s.boot.powerOns, seconds := BitVec.ofNat 32 ((s.boot.upNs + s.now) / 1000000000) }] }
/-- The location word of a pin (R328). [DESIGN CHOICE, log entry 46] -/
def pinLoc (row : U64) (pin : Nat) : U64 := (row &&& 0xFFC0000000000000#64) ||| BitVec.ofNat 64 (pin % 32 * 2 ^ 45)
/-- The partition that a stack belongs to (R19, R165); the stacks of a retired half-die belong to none (R343). -/
def State.stackPart (s : State) (stack : Nat) : Option PartId :=
  let hd := 2 * (stack / 4) + stack / 2 % 2
  if s.retired.getLsbD hd then none else s.partOfHd hd
/-- A device event about a place in DRAM (R422): to the owner of the partition it lies in. -/
def State.dramEvent (s : State) (code : Nat) (stack : Nat) (loc : U64) : State :=
  match s.stackPart stack with
  | some p => s.postPart p 6 code (leBytes 8 loc.toNat)
  | none => s.postAdmin 6 code (leBytes 8 loc.toNat)
/-- A pin with corrected errors in 16 rows is recorded as failed; a second of its channel retires the channel (R170, R351). [DESIGN CHOICE, log entry 46] -/
def State.pinFail (s : State) (row : U64) (pin : Nat) : State :=
  let loc := pinLoc row pin
  let rows := (s.pinRows.filter fun c => c.1 = loc).map (·.2)
  if rows.length < 16 || s.pinsFailed.contains loc then s
  else
    let second := s.pinsFailed.any fun l => l.toNat / 2 ^ 54 = loc.toNat / 2 ^ 54
    let s1 := ({ s with pinsFailed := s.pinsFailed ++ [loc] } : State).logDefect {
      kind := 5, source := 3, wher := loc, detail := BitVec.ofNat 32 rows.length }
    if second then s1.dramEvent 5 (loc.toNat / 2 ^ 59) loc else s1
/-- A corrected word counted against its row and pin (R168, R170): two in a row at least 1 s apart within 24 h mark it. [DESIGN CHOICE, log entry 46] -/
def State.corrected (s : State) (row : U64) (pin : Nat) : State :=
  let apart := s.corrections.any fun c => c.1 = row && c.2.2 + 1000000000 ≤ s.now && s.now ≤ c.2.2 + 86400000000000
  let seen := (pinLoc row pin, row)
  let s1 : State := { s with
    corrections := s.corrections ++ [(row, pin, s.now)]
    pinRows := if s.pinRows.contains seen then s.pinRows else s.pinRows ++ [seen] }
  let sym : BitVec 18 := BitVec.ofNat 18 (2 ^ pin)
  let s2 := if apart then s1.markRow row sym else s1.noteSyms row sym 0
  s2.pinFail row pin
/-- A corrected word counted where it is kept (R120, R153, R168): in the tile's counter block, or against the row and pin of the stack. -/
def State.correct (s : State) (t : TileId) (w : Corrected) : State :=
  match w with
  | .scratchpad => s.modTile t fun v => { v with counters := { v.counters with spadCorrected := satAdd v.counters.spadCorrected 1 } }
  | .dram dpa pin => s.corrected (s.dramLoc dpa.toNat) pin.val
  | _ => s.modTile t fun v => { v with counters := { v.counters with eccCorrected := satAdd v.counters.eccCorrected 1 } }
/-- A corrected word of a stack, read by a unit outside the tiles (R168). -/
def State.correctDram (s : State) (ecc : Ecc) : State :=
  match ecc with
  | .corrected (.dram dpa pin) => s.corrected (s.dramLoc dpa.toNat) pin.val
  | _ => s
/-- Bytes of a word as an uncorrectable read gives them (R6). -/
def upsetBytes (d k : Nat) : Bytes := (List.range k).map (Config.upsetByte d)
/-- The 8-byte DRAM word at a DPA as an uncorrectable read finds it (R168, R169). -/
def State.upsetDram (s : State) (dpa : Nat) : State :=
  if dpa / 2 ^ 33 < s.member.regions then
    { (s.dramPut (dpa / 8 * 8) (upsetBytes s.draws 8)) with draws := s.draws + 1 }
  else s
/-- What an uncorrectable word holds from now on, until it is written: the value that the read finds, which is free (R6, R94, R153, R169).
An accumulator word is read once, by its pass. [DESIGN CHOICE, log entry 86] -/
def State.upset (s : State) (t : TileId) (ecc : Ecc) : State :=
  match s.erasedEcc ecc with
  | .clean => s
  | .corrected _ => s
  | .scratchpad a _ =>
    { (s.modTile t fun v => { v with spad := v.spad.put (physAddr v.carries (s.stepAt t) a.toNat / 8 * 8) (upsetBytes s.draws 8) }) with
      draws := s.draws + 1 }
  | .imem a _ =>
    if a.toNat < 0x20000 then
      { (s.modTile t fun v => { v with imem := v.imem.put (a.toNat / 4 * 4) (upsetBytes s.draws 4) }) with draws := s.draws + 1 }
    else s
  | .accum _ _ => { s with draws := s.draws + 1 }
  | .dram dpa _ => s.upsetDram dpa.toNat
/-- What the ECC of the words read shows, charged to a unit of the tile (R94, R153, R168, R169): corrections are counted, an
uncorrectable word is recorded and clears the tile's clean bit; the data stand as read (R6). -/
def State.eccRead (s : State) (t : TileId) (eng slot pc : Nat) (ecc : Ecc) : State :=
  let sram := fun (kind a : Nat) (syn : U16) =>
    s.tileFault t { cls := 2, eng := eng, slot := slot, pc := pc, addr := kind * 2 ^ 60 + a, bit := 0xFFFF0000 + syn.toNat }
  match s.erasedEcc ecc with
  | .clean => s
  | .corrected w => s.correct t w
  | .scratchpad a syn => sram 0 (physAddr (s.tile t).carries (s.stepAt t) a.toNat) syn
  | .imem a syn => sram 1 a.toNat syn
  | .accum a syn => sram 2 a.toNat syn
  | .dram dpa sym =>
    let s1 := s.unitFault (s.partOf t) { cls := 1, unit := 4, addr := dpa.toNat, bit := sym.toNat }
    (s1.clearTile t 1).markRow (s.dramLoc dpa.toNat) sym 1

/-! Packets of a tile's engines. -/

/-- The native address of a logical tile's endpoint in the partition's module. -/
def State.addrOf (s : State) (p : PartId) (n ep : Nat) : U32 :=
  nativeAddr (s.part p).coord.toNat (s.member.lx n) (s.member.ly n) ep
/-- The logical tile number a native address names in this member's grid; one outside the grid names a number past its end (R30). -/
def Member.nOfAddr (m : Member) (a : Nat) : Nat :=
  if bitsOf a 12 8 < m.gx && bitsOf a 7 3 < m.gy then bitsOf a 7 3 * m.gx + bitsOf a 12 8 else m.gx * m.gy
/-- A request of an engine's context slot (R211): GEN, PART, STEP and SRC are the initiator's, TAG its engine, slot and sequence. -/
def State.request (s : State) (t : TileId) (p : PartId) (e : Eng) (x : Slot) (type vc : Nat) (fence : Bool) (dst : U32)
    (dstu len addr : Nat) (payload : Bytes) : Packet :=
  let q := s.part p
  { type := BitVec.ofNat 8 type, vc := BitVec.ofNat 2 vc, dl := false, mcast := false, refwd := false, fence := fence,
    ue := false, len := BitVec.ofNat 9 len, gen := BitVec.ofNat 7 q.slot, dst := dst,
    src := s.addrOf p ((s.nOf t).getD 0) (engCode e), dphys := 0, dstu := BitVec.ofNat 4 dstu, srcu := 0,
    part := BitVec.ofNat 8 p.val, addr := BitVec.ofNat 64 addr, step := q.step,
    tag := BitVec.ofNat 16 (engCode e * 2 ^ 13 + x.num.val * 2 ^ 8 + x.seq % 256), payload := payload }
/-- A request handed to the tile's router, with its place in packet order. -/
def Tile.ask (v : Tile) (e : Eng) (x : Slot) (pkt : Packet) (order : Nat) : Tile :=
  let v1 := { v with inject := v.inject ++ [Waiting.mk pkt order (some x.ticket) v.made], made := v.made + 1 }
  v1.modSlot e x.num fun y => { y with seq := y.seq + 1, outstanding := y.outstanding + 1 }

end Sys2Proof.Machine
end

