-- ==== Sys2Proof/Machine/Flags.lean ====
section
/-!
DEFINITION. Every flag and status word the manual lays out: packet FLAGS, UNITS and LEN (R211, R212), completion status of a descriptor
(R174), status words of channel ends (R241, R242), the ward word (R324), latch-frame FLAGS (R261), seam FLAGS (R59), partition FLAGS
(PART_QUERY), and the byte forms that carry them.
-/

namespace Sys2Proof.Machine

/-! Packets. -/

/-- The FLAGS byte of a packet (R212). -/
def pktFlags (p : Packet) : Nat :=
  p.vc.toNat * 64 + b2n p.dl * 32 + b2n p.mcast * 16 + b2n p.refwd * 8 + b2n p.fence * 4 + b2n p.ue
/-- A packet is a reply: its TYPE has bit 7 set (R213). -/
def pktIsReply (p : Packet) : Bool := bitAt p.type.toNat 7
/-- The 32 header bytes of a packet (R211). -/
def pktHeader (p : Packet) : Bytes :=
  [p.type, BitVec.ofNat 8 (pktFlags p)] ++ leBytes 2 (p.gen.toNat * 512 + p.len.toNat) ++ leBytes 4 p.dst.toNat ++
    leBytes 4 p.src.toNat ++ leBytes 2 p.dphys.toNat ++ [BitVec.ofNat 8 (p.dstu.toNat * 16 + p.srcu.toNat), p.part] ++
    leBytes 8 p.addr.toNat ++ leBytes 6 p.step.toNat ++ leBytes 2 p.tag.toNat
/-- The bytes of a packet: header and payload padded to whole 16-byte flits (R211). -/
def pktBytes (p : Packet) : Bytes :=
  pktHeader p ++ p.payload ++ List.replicate ((16 - p.payload.length % 16) % 16) 0
/-- Flits of a packet (R211): two of header and the payload's. -/
def pktFlits (p : Packet) : Nat := 2 + (p.payload.length + 15) / 16
/-- Payload bytes a header announces (R213): none for READ and MGMT_RD, whose LEN is the count asked for. -/
def payloadLen (type len : Nat) : Nat := if type = 2 || type = 6 || type = 0x81 then 0 else len
/-- A packet read from its bytes (R211, R212). -/
def parsePacket (bs : Bytes) : Packet :=
  let fl := fieldAt bs 1 1
  let lw := fieldAt bs 2 2
  { type := byteAt bs 0, vc := BitVec.ofNat 2 (fl / 64), dl := bitAt fl 5, mcast := bitAt fl 4, refwd := bitAt fl 3,
    fence := bitAt fl 2, ue := bitAt fl 0, len := BitVec.ofNat 9 lw, gen := BitVec.ofNat 7 (lw / 512),
    dst := BitVec.ofNat 32 (fieldAt bs 4 4), src := BitVec.ofNat 32 (fieldAt bs 8 4), dphys := BitVec.ofNat 16 (fieldAt bs 12 2),
    dstu := BitVec.ofNat 4 (fieldAt bs 14 1 / 16), srcu := BitVec.ofNat 4 (fieldAt bs 14 1), part := byteAt bs 15,
    addr := BitVec.ofNat 64 (fieldAt bs 16 8), step := BitVec.ofNat 48 (fieldAt bs 24 6), tag := BitVec.ofNat 16 (fieldAt bs 30 2),
    payload := padTo (payloadLen (fieldAt bs 0 1) (lw % 512)) (bs.drop 32) }

/-! Completion status (R174, R215). -/

/-- The status codes of R215. -/
def stOk : Nat := 0
def stUnreachable : Nat := 1
def stWindow : Nat := 2
def stBankOff : Nat := 3
def stRegionOff : Nat := 4
def stRingTimeout : Nat := 5
def stChannelClosed : Nat := 6
def stPortRefused : Nat := 7
def stNoReply : Nat := 8

/-- A packet of a descriptor completed with a status: STATUS keeps the failing packet first in packet order, REFUSED and LOST count
(R174). -/
def Slot.note (x : Slot) (order status addr : Nat) : Slot :=
  if status = stOk then x
  else
    let x1 := if status = stNoReply then { x with lost := x.lost + 1 } else { x with refused := x.refused + 1 }
    let first : Bool := match x.failAt with
      | some j => order < j
      | none => true
    if first then { x1 with failAt := some order, status := BitVec.ofNat 16 status, failAddr := BitVec.ofNat 64 addr } else x1
/-- The 16-byte status record of a descriptor (R174). -/
def Slot.statusBytes (x : Slot) : Bytes :=
  leBytes 2 x.status.toNat ++ [0, 0] ++ leBytes 4 x.ticket.toNat ++ leBytes 4 x.refused.toNat ++ leBytes 4 x.lost.toNat
/-- The fault class a finished descriptor's STATUS calls for at the initiator (R160, R174): none for OK, UNREACHABLE and the others. -/
def statusFault (status : Nat) : Option Nat :=
  if status = stWindow then some 0x0F
  else if status = stBankOff || status = stRegionOff then some 0x10
  else if status = stRingTimeout then some 0x08
  else none

/-! Status words of channel ends. -/

/-- The receive end's status word (R241). -/
def Chan.recvWord (c : Chan) (arrived head : Nat) : Bytes :=
  leBytes 8 (arrived % 2 ^ 32 * 2 ^ 32 + b2n c.closedBit * 2 ^ 31 + head % 2 ^ c.ringLog2.toNat % 2 ^ 21)
/-- The send end's status word (R242). -/
def Chan.sendWord (c : Chan) : Bytes :=
  leBytes 8 (c.doneCount.toNat * 2 ^ 32 + c.last.toNat * 2 ^ 16 + b2n c.closedBit)

/-! The ward word (R324). -/

/-- The control word of a tile's ward. -/
def wardWord (w : Ward) (holds : Bool) : Nat :=
  b2n w.rfence * 2 ^ 31 + b2n (w.tfence || w.rfence) * 2 ^ 30 + b2n w.diag * 2 ^ 29 + b2n w.test * 2 ^ 28 + b2n holds * 2 ^ 27 +
    b2n w.twin * 2 ^ 26 + w.nfault.toNat * 2 ^ 16 + w.last.toNat * 2 ^ 8
/-- A write of the control word (R324): the RW bits are taken, RO and Reserved bits ignored; RFENCE sets TFENCE. -/
def Ward.setWord (w : Ward) (v : Nat) : Ward :=
  { w with rfence := bitAt v 31, tfence := bitAt v 30 || bitAt v 31, diag := bitAt v 29, test := bitAt v 28, twin := bitAt v 26 }

/-! Latch frames (R261). -/

/-- FLAGS of a latch frame. -/
def latchFlags (f : LatchFrame) : Nat := b2n f.clean + 2 * b2n f.agreeValid + 4 * b2n f.closed
/-- The 32 bytes of a latch frame. -/
def latchBytes (f : LatchFrame) : Bytes :=
  [f.kind, f.stage, f.ttl, BitVec.ofNat 8 (latchFlags f), f.hold, f.cause] ++ leBytes 2 f.origin.toNat ++ leBytes 6 f.step.toNat ++
    [f.attempt, 0] ++ leBytes 8 f.agree.toNat ++ leBytes 8 f.job.toNat
/-- A latch frame read from its bytes. -/
def parseLatch (bs : Bytes) : LatchFrame :=
  let fl := fieldAt bs 3 1
  { kind := byteAt bs 0, stage := byteAt bs 1, ttl := byteAt bs 2, clean := bitAt fl 0, agreeValid := bitAt fl 1,
    closed := bitAt fl 2, hold := byteAt bs 4, cause := byteAt bs 5, origin := BitVec.ofNat 16 (fieldAt bs 6 2),
    step := BitVec.ofNat 48 (fieldAt bs 8 6), attempt := byteAt bs 14, agree := BitVec.ofNat 64 (fieldAt bs 16 8),
    job := BitVec.ofNat 64 (fieldAt bs 24 8) }

/-! Seams and partitions. -/

/-- The 16-byte record of a seam (R59). -/
def Seam.bytes (x : Seam) (id : Nat) : Bytes :=
  leBytes 2 id ++ [BitVec.ofNat 8 (b2n x.halfRate + 2 * b2n x.above + 4 * b2n x.verifyFailed), 0,
    BitVec.ofNat 8 x.latP, BitVec.ofNat 8 x.latR] ++ leBytes 4 x.worstP.toNat ++ leBytes 4 x.worstR.toNat ++
    leBytes 2 x.marginPs.toNat
/-- FLAGS of PART_QUERY (R439's table): paired, active, job running, frozen, shadow. -/
def Part.flagsByte (p : Part) : Nat :=
  b2n p.paired + 2 * b2n p.active + 4 * b2n p.running + 8 * b2n p.freeze.isSome +
    16 * b2n ((p.shadow.map fun h => decide (h.role = 2)).getD false)
/-- The 64 bytes of a tile's counter block (R120). -/
def Counters.bytes (c : Counters) : Bytes :=
  [c.mxePasses, c.mxeRetries, c.mxeLimits, c.mxeSatlanes, c.vxeSat, c.vxeNonnum, c.dmaSat, c.dmaNonnum, c.invalidCode,
    c.eccCorrected, c.spadCorrected].flatMap (fun w => leBytes 4 w.toNat) ++ List.replicate 20 0
/-- A window entry's 32 bytes (R175). -/
def Window.bytes (w : Window) : Bytes :=
  [BitVec.ofNat 8 (b2n w.isOpen), w.kind] ++ leBytes 2 w.flags.toNat ++ leBytes 2 w.srcMatch.toNat ++ leBytes 2 w.srcMask.toNat ++
    leBytes 8 w.base.toNat ++ leBytes 4 w.size64.toNat ++ leBytes 6 w.epochFirst.toNat ++ leBytes 6 w.epochLast.toNat
/-- A window entry read from 32 bytes. -/
def parseWindow (bs : Bytes) : Window :=
  { isOpen := fieldAt bs 0 1 = 1, kind := byteAt bs 1, flags := BitVec.ofNat 16 (fieldAt bs 2 2),
    srcMatch := BitVec.ofNat 16 (fieldAt bs 4 2), srcMask := BitVec.ofNat 16 (fieldAt bs 6 2),
    base := BitVec.ofNat 64 (fieldAt bs 8 8), size64 := BitVec.ofNat 32 (fieldAt bs 16 4),
    epochFirst := BitVec.ofNat 48 (fieldAt bs 20 6), epochLast := BitVec.ofNat 48 (fieldAt bs 26 6) }

end Sys2Proof.Machine
end

