-- ==== Sys2Proof/Machine/Numbers.lean ====
section
/-!
DEFINITION. The number formats of the part (03_number_formats.md R64 to R91): exact values, rounding, the element and block
encodings, and FP32 arithmetic with one rounding. Every value is an exact dyadic number; nothing here is approximate.
-/

namespace Sys2Proof.Machine

/-- A value of a floating format: a NaN (payloads are never carried, R68), a signed infinity, or ±m × 2^e with the sign of
zero kept (R67). -/
inductive Val where
  | nan
  | inf (neg : Bool)
  | fin (neg : Bool) (m : Nat) (e : Int)
  deriving DecidableEq, Repr

/-- The rounding modes (R83). -/
inductive Rnd where
  | rne | rtz | sr
  deriving DecidableEq, Repr

/-- The rounding mode of a 2-bit code; code 3 is never valid and is refused with the descriptor (R83), so it is read as RNE
only where no descriptor can hold it. -/
def Rnd.ofCode (c : Nat) : Rnd := if c = 1 then .rtz else if c = 2 then .sr else .rne

/-- Positive zero. -/
def Val.zero : Val := .fin false 0 0

/-- The number of bits of a mantissa, zero for zero. -/
def bitLen (m : Nat) : Nat := if m = 0 then 0 else Nat.log2 m + 1

/-- The 32 most significant of `sh` discarded bits, as R84 reads them. -/
def srFraction (rem sh : Nat) : Nat := if sh ≥ 32 then rem >>> (sh - 32) else rem <<< (32 - sh)

/-- Round the magnitude m × 2^e to `prec` bits with least step 2^qmin, as if the exponent had no upper limit (R84, R86):
the kept mantissa and its exponent. `r` is the random word of SR. -/
def roundMag (prec : Nat) (qmin : Int) (mode : Rnd) (r : Nat) (m : Nat) (e : Int) : Nat × Int :=
  let q := max (e + (bitLen m : Int) - (prec : Int)) qmin
  if q ≤ e then (m <<< (e - q).toNat, q)
  else
    let sh := (q - e).toNat
    let t := m >>> sh
    let rem := m % 2 ^ sh
    match mode with
    | .rtz => (t, q)
    | .rne =>
      if 2 * rem > 2 ^ sh ∨ (2 * rem = 2 ^ sh ∧ t % 2 = 1) then (t + 1, q) else (t, q)
    | .sr => if srFraction rem sh + r ≥ 2 ^ 32 then (t + 1, q) else (t, q)

/-- Whether m1 × 2^e1 ≤ m2 × 2^e2. -/
def magLe (m1 : Nat) (e1 : Int) (m2 : Nat) (e2 : Int) : Bool :=
  let b := min e1 e2
  decide (m1 <<< (e1 - b).toNat ≤ m2 <<< (e2 - b).toNat)

/-- Whether |a| ≤ |b| for finite values. -/
def Val.absLe : Val → Val → Bool
  | .fin _ m1 e1, .fin _ m2 e2 => magLe m1 e1 m2 e2
  | .fin _ _ _, .inf _ => true
  | .inf _, .inf _ => true
  | _, _ => false

/-- The integer a finite value is at scale 2^b, for b at most its exponent. -/
def scaledInt (neg : Bool) (m : Nat) (e b : Int) : Int :=
  let a : Int := ((m <<< (e - b).toNat : Nat) : Int)
  if neg then -a else a

/-- A finite value from a signed integer at scale 2^b; zero is +0. -/
def ofScaledInt (i b : Int) : Val :=
  if i = 0 then Val.zero else .fin (decide (i < 0)) i.natAbs b

/-- Whether a value is a zero of either sign. -/
def Val.isZero : Val → Bool
  | .fin _ 0 _ => true
  | _ => false

/-- Whether a value is NaN. -/
def Val.isNan : Val → Bool
  | .nan => true
  | _ => false

/-- Whether a value is infinite. -/
def Val.isInf : Val → Bool
  | .inf _ => true
  | _ => false

/-- Whether a value is finite. -/
def Val.isFin : Val → Bool
  | .fin _ _ _ => true
  | _ => false

/-- The sign of a value; NaN has sign 0 (R68). -/
def Val.sign : Val → Bool
  | .nan => false
  | .inf s => s
  | .fin s _ _ => s

/-- The exact sum. x − x is +0 under every rounding mode, and −0 + −0 is −0 (R67). -/
def Val.add : Val → Val → Val
  | .nan, _ => .nan
  | _, .nan => .nan
  | .inf a, .inf b => if a = b then .inf a else .nan
  | .inf a, _ => .inf a
  | _, .inf b => .inf b
  | .fin s1 m1 e1, .fin s2 m2 e2 =>
    if m1 = 0 ∧ m2 = 0 then .fin (s1 && s2) 0 0
    else
      let b := min e1 e2
      ofScaledInt (scaledInt s1 m1 e1 b + scaledInt s2 m2 e2 b) b

/-- The value with its sign inverted; a NaN stays the canonical NaN (R127). -/
def Val.neg : Val → Val
  | .nan => .nan
  | .inf s => .inf (!s)
  | .fin s m e => .fin (!s) m e

/-- The value with sign 0 (R126). -/
def Val.abs : Val → Val
  | .nan => .nan
  | .inf _ => .inf false
  | .fin _ m e => .fin false m e

/-- The exact difference. -/
def Val.sub (a b : Val) : Val := a.add b.neg

/-- The exact product. -/
def Val.mul : Val → Val → Val
  | .nan, _ => .nan
  | _, .nan => .nan
  | .inf a, .inf b => .inf (a != b)
  | .inf a, .fin s m _ => if m = 0 then .nan else .inf (a != s)
  | .fin s m _, .inf b => if m = 0 then .nan else .inf (s != b)
  | .fin s1 m1 e1, .fin s2 m2 e2 => .fin (s1 != s2) (m1 * m2) (if m1 * m2 = 0 then 0 else e1 + e2)

/-- The value times 2^k, exactly, with no range limit (R105). -/
def Val.scale (k : Int) : Val → Val
  | .nan => .nan
  | .inf s => .inf s
  | .fin s m e => .fin s m (if m = 0 then 0 else e + k)

/-! ### Float formats -/

/-- A floating format: mantissa bits M, exponent bits, and its least step 2^qmin; `maxM × 2^maxE` is its largest finite value
(R66, R70). -/
structure FloatFmt where
  mant : Nat
  expo : Nat
  qmin : Int
  maxM : Nat
  maxE : Int
  deriving DecidableEq, Repr

/-- FP32 (R66). -/
def fp32 : FloatFmt := { mant := 23, expo := 8, qmin := -149, maxM := 2 ^ 24 - 1, maxE := 104 }
/-- FP16 (R66). -/
def fp16 : FloatFmt := { mant := 10, expo := 5, qmin := -24, maxM := 2 ^ 11 - 1, maxE := 5 }
/-- BF16 (R66). -/
def bf16 : FloatFmt := { mant := 7, expo := 8, qmin := -133, maxM := 2 ^ 8 - 1, maxE := 120 }
/-- E4M3 (R70): the largest finite value is 448. -/
def e4m3 : FloatFmt := { mant := 3, expo := 4, qmin := -9, maxM := 14, maxE := 5 }
/-- E5M2 (R70): the largest finite value is 57,344. -/
def e5m2 : FloatFmt := { mant := 2, expo := 5, qmin := -16, maxM := 7, maxE := 13 }
/-- E3M2 (R70): the largest finite value is 28. -/
def e3m2 : FloatFmt := { mant := 2, expo := 3, qmin := -4, maxM := 7, maxE := 2 }
/-- E2M3 (R70): the largest finite value is 7.5. -/
def e2m3 : FloatFmt := { mant := 3, expo := 2, qmin := -3, maxM := 15, maxE := -1 }
/-- E2M1 (R70): the largest finite value is 6. -/
def e2m1 : FloatFmt := { mant := 1, expo := 2, qmin := -1, maxM := 3, maxE := 1 }

/-- The code of ±t × 2^q in a float format, t × 2^q at its precision and in range; without the sign bit. -/
def encodeMag (f : FloatFmt) (t : Nat) (q : Int) : Nat :=
  if t = 0 then 0
  else if t < 2 ^ f.mant then t
  else
    let carry := t ≥ 2 ^ (f.mant + 1)
    let t' := if carry then t / 2 else t
    let q' := if carry then q + 1 else q
    ((q' - f.qmin).toNat + 1) * 2 ^ f.mant + (t' - 2 ^ f.mant)

/-- The sign bit of a format, placed. -/
def signBit (f : FloatFmt) (s : Bool) : Nat := if s then 2 ^ (f.mant + f.expo) else 0

/-- The value of a finite code of a float format (R66, R70). -/
def decodeFin (f : FloatFmt) (code : Nat) : Val :=
  let s := code.testBit (f.mant + f.expo)
  let mag := code % 2 ^ (f.mant + f.expo)
  let ex := mag / 2 ^ f.mant
  let mn := mag % 2 ^ f.mant
  if ex = 0 then (if mn = 0 then .fin s 0 0 else .fin s mn f.qmin)
  else .fin s (2 ^ f.mant + mn) (f.qmin + (ex : Int) - 1)

/-- The value of an IEEE code (FP32, FP16, BF16, and E5M2 by R70): an all-ones exponent is infinity or NaN. -/
def decodeIeee (f : FloatFmt) (code : Nat) : Val :=
  let mag := code % 2 ^ (f.mant + f.expo)
  if mag / 2 ^ f.mant = 2 ^ f.expo - 1 then
    (if mag % 2 ^ f.mant = 0 then .inf (code.testBit (f.mant + f.expo)) else .nan)
  else decodeFin f code

/-- The canonical NaN of an IEEE format (R66). -/
def canonNan (f : FloatFmt) : Nat := (2 ^ f.expo - 1) * 2 ^ f.mant + 2 ^ (f.mant - 1)

/-- The infinity of an IEEE format. -/
def infCode (f : FloatFmt) (s : Bool) : Nat := signBit f s + (2 ^ f.expo - 1) * 2 ^ f.mant

/-- Round an exact finite value into an IEEE format (R86): beyond the range, RNE and SR give infinity and RTZ the largest
finite value. -/
def roundIeee (f : FloatFmt) (mode : Rnd) (r : Nat) : Val → Val
  | .nan => .nan
  | .inf s => .inf s
  | .fin s m e =>
    if m = 0 then .fin s 0 0
    else
      let (t, q) := roundMag (f.mant + 1) f.qmin mode r m e
      if magLe t q f.maxM f.maxE then .fin s t (if t = 0 then 0 else q)
      else if mode = .rtz then .fin s f.maxM f.maxE else .inf s

/-- The code of a value already in an IEEE format. -/
def encodeIeee (f : FloatFmt) : Val → Nat
  | .nan => canonNan f
  | .inf s => infCode f s
  | .fin s m e =>
    let (t, q) := roundMag (f.mant + 1) f.qmin .rtz 0 m e
    signBit f s + encodeMag f t q

/-- The value of FP32 bits. -/
def ofF32 (w : Nat) : Val := decodeIeee fp32 w

/-- The FP32 bits of a value that FP32 holds. -/
def toF32 (v : Val) : Nat := encodeIeee fp32 v

/-- One FP32 rounding under RNE. -/
def rne (v : Val) : Val := roundIeee fp32 .rne 0 v

/-- FP32 addition under RNE. -/
def fadd (a b : Val) : Val := rne (a.add b)
/-- FP32 subtraction under RNE. -/
def fsub (a b : Val) : Val := rne (a.sub b)
/-- FP32 multiplication under RNE. -/
def fmul (a b : Val) : Val := rne (a.mul b)
/-- FP32 fused multiply-add under RNE: one rounding. -/
def ffma (a b c : Val) : Val := rne ((a.mul b).add c)

/-- The exact quotient of two finite values cut after 96 quotient bits, a trailing sticky bit standing for the rest: enough
for one correct rounding to FP32. -/
def quotSticky (m1 : Nat) (e1 : Int) (m2 : Nat) (e2 : Int) : Nat × Int :=
  let k := 96 + bitLen m2
  let n := m1 <<< k
  let q := n / m2
  (2 * q + (if n % m2 = 0 then 0 else 1), e1 - e2 - (k : Int) - 1)

/-- FP32 division under RNE, with the IEEE rules for zero and infinity. -/
def fdiv : Val → Val → Val
  | .nan, _ => .nan
  | _, .nan => .nan
  | .inf _, .inf _ => .nan
  | .inf a, .fin s _ _ => .inf (a != s)
  | .fin a _ _, .inf b => .fin (a != b) 0 0
  | .fin a m1 e1, .fin b m2 e2 =>
    if m2 = 0 then (if m1 = 0 then .nan else .inf (a != b))
    else if m1 = 0 then .fin (a != b) 0 0
    else
      let (q, e) := quotSticky m1 e1 m2 e2
      rne (.fin (a != b) q e)

/-- Multiplication by a power of two in FP32: exact, or ±infinity, or a subnormal rounded to nearest even (R124). -/
def scaleF32 (k : Int) (v : Val) : Val := rne (v.scale k)

/-- The decode of a value beyond the FP32 range is ±infinity (R85). -/
def clampDecode : Val → Val
  | .fin s m e => if magLe m e fp32.maxM fp32.maxE then .fin s m e else .inf s
  | v => v

/-- Whether a < b, −0 below +0 (R127); false if either is NaN. -/
def Val.lt : Val → Val → Bool
  | .nan, _ => false
  | _, .nan => false
  | .inf a, .inf b => a && !b
  | .inf a, _ => a
  | _, .inf b => !b
  | .fin s1 m1 e1, .fin s2 m2 e2 =>
    if m1 = 0 ∧ m2 = 0 then s1 && !s2
    else
      let b := min e1 e2
      decide (scaledInt s1 m1 e1 b < scaledInt s2 m2 e2 b)

/-- MAX of R127: NaN if either is NaN, −0 below +0. -/
def Val.max (a b : Val) : Val := if a.isNan || b.isNan then .nan else if a.lt b then b else a

/-- MIN of R127. -/
def Val.min (a b : Val) : Val := if a.isNan || b.isNan then .nan else if b.lt a then b else a

/-- floor(log2 x) of a nonzero finite magnitude m × 2^e. -/
def floorLog2 (m : Nat) (e : Int) : Int := e + (bitLen m : Int) - 1

/-- The FP32 value of an integer, rounded. -/
def ofInt (mode : Rnd) (r : Nat) (i : Int) : Val := roundIeee fp32 mode r (ofScaledInt i 0)

/-! ### Format codes (R64, R74) -/

/-- Block size, element bits and scale bytes of a format code (R74); block size 1 and no scale for the plain formats. -/
structure FmtInfo where
  block : Nat
  bits : Nat
  scale : Nat
  deriving DecidableEq, Repr

/-- The storage of each format code (R74). Code 0xF is never valid (R65) and is refused before it is looked up. -/
def fmtInfo (c : Nat) : FmtInfo :=
  match c with
  | 0x0 => ⟨1, 32, 0⟩
  | 0x1 => ⟨1, 16, 0⟩
  | 0x2 => ⟨1, 16, 0⟩
  | 0x3 => ⟨1, 8, 0⟩
  | 0x4 => ⟨1, 8, 0⟩
  | 0x5 => ⟨32, 8, 1⟩
  | 0x6 => ⟨32, 8, 1⟩
  | 0x7 => ⟨32, 6, 1⟩
  | 0x8 => ⟨32, 6, 1⟩
  | 0x9 => ⟨32, 4, 1⟩
  | 0xA => ⟨32, 8, 1⟩
  | 0xB => ⟨64, 4, 2⟩
  | 0xC => ⟨64, 2, 1⟩
  | 0xD => ⟨32, 16, 1⟩
  | _ => ⟨1, 32, 0⟩

/-- The value of an element code before its block scale: OFP8 and MX elements (R70), Agate codes (R75, R78), Garnet16
mantissas (R81). -/
def decodeElem (fmt code : Nat) : Val :=
  match fmt with
  | 0x0 => decodeIeee fp32 code
  | 0x1 => decodeIeee fp16 code
  | 0x2 => decodeIeee bf16 code
  | 0x3 => if code % 128 = 127 then .nan else decodeFin e4m3 code
  | 0x4 => decodeIeee e5m2 code
  | 0x5 => if code % 128 = 127 then .nan else decodeFin e4m3 code
  | 0x6 => decodeIeee e5m2 code
  | 0x7 => decodeFin e3m2 code
  | 0x8 => decodeFin e2m3 code
  | 0x9 => decodeFin e2m1 code
  | 0xA => ofScaledInt (signedOf 8 code) (-6)
  | 0xB => decodeFin e2m1 code
  | 0xC => if code = 1 then .fin false 1 0 else if code = 3 then .fin true 1 0 else Val.zero
  | _ => ofScaledInt (signedOf 16 code) 0

/-- The exponent or scale a block's scale field stands for, for element `i` of the block; `none` is a NaN block. Agate2's
scale is a value, not a power of two, and is handled by `agate2Scale`. -/
def blockExp (fmt scale i : Nat) : Option Int :=
  let e := scale % 256
  if e = 255 then none
  else if fmt = 0xB then some ((e : Int) - 127 - (bitsOf scale (9 + 2 * (i / 16)) (8 + 2 * (i / 16)) : Nat))
  else if fmt = 0xD then some ((e : Int) - 142)
  else some ((e : Int) - 127)

/-- The value of an E5M3 scale byte (R79); 0xFF is NaN. -/
def agate2Scale (b : Nat) : Val :=
  if b = 255 then .nan
  else
    let ex := b / 8
    let mn := b % 8
    if ex = 0 then (if mn = 0 then Val.zero else .fin false mn (-17))
    else .fin false (8 + mn) ((ex : Int) - 18)

/-- The exact decode of element `i` of a block with scale field `scale` (R71, R75, R79, R81), ±infinity beyond the FP32 range
(R85). -/
def decodeBlockElem (fmt scale i code : Nat) : Val :=
  if (fmtInfo fmt).scale = 0 then decodeElem fmt code
  else if fmt = 0xC then
    match agate2Scale scale with
    | .nan => .nan
    | sv => (decodeElem fmt code).mul sv
  else
    match blockExp fmt scale i with
    | none => .nan
    | some k => clampDecode ((decodeElem fmt code).scale k)

/-! ### Encoding (R72, R77, R80, R82, R86 to R88) -/

/-- What an encode produced: the element codes, the scale field, and how often it saturated or made a NaN that counts (R88). -/
structure Encoded where
  codes : List Nat
  scale : Nat
  sat : Nat
  nonnum : Nat
  deriving DecidableEq, Repr

/-- Encode a finite value into a saturating float element (R86): the code and whether it saturated. -/
def encodeSat (f : FloatFmt) (mode : Rnd) (r : Nat) : Val → Nat × Bool
  | .fin s m e =>
    if m = 0 then (signBit f s, false)
    else
      let (t, q) := roundMag (f.mant + 1) f.qmin mode r m e
      if magLe t q f.maxM f.maxE then (signBit f s + encodeMag f t q, false)
      else (signBit f s + encodeMag f f.maxM f.maxE, true)
  | _ => (0, false)

/-- Encode a finite value into an MXINT8 element (R70, R72): the quantum is 2^-6 and −128 is never written. -/
def encodeInt8 (mode : Rnd) (r : Nat) : Val → Nat × Bool
  | .fin s m e =>
    if m = 0 then (0, false)
    else
      let (t, q) := roundMag (bitLen m + 64) (-6) mode r m e
      let i := t <<< (q - (-6)).toNat
      let (k, sat) := if i > 127 then (127, true) else (i, false)
      (unsignedOf 8 (if s then -(k : Int) else (k : Int)), sat)
  | _ => (0, false)

/-- Encode one value into a format without blocks (R86, R87): its code, saturations and counted NaNs. -/
def encodePlain (fmt : Nat) (mode : Rnd) (r : Nat) (v : Val) : Nat × Nat × Nat :=
  match fmt with
  | 0x1 => (encodeIeee fp16 (roundIeee fp16 mode r v), 0, 0)
  | 0x2 => (encodeIeee bf16 (roundIeee bf16 mode r v), 0, 0)
  | 0x3 =>
    match v with
    | .nan => (0x7F, 0, 0)
    | .inf _ => (0x7F, 0, 1)
    | v => let (c, s) := encodeSat e4m3 mode r v; (c, if s then 1 else 0, 0)
  | 0x4 =>
    match v with
    | .nan => (0x7E, 0, 0)
    | .inf s => (signBit e5m2 s + 0x7C, 0, 0)
    | v => let (c, s) := encodeSat e5m2 mode r v; (c, if s then 1 else 0, 0)
  | _ => (encodeIeee fp32 (roundIeee fp32 mode r v), 0, 0)

/-- The largest magnitude of a list of finite values. -/
def maxAbs (xs : List Val) : Val :=
  xs.foldl (fun a x => if a.absLe x then x.abs else a) Val.zero

/-- The float element format and emax of an MX format (R72). -/
def mxElem (fmt : Nat) : FloatFmt × Int :=
  match fmt with
  | 0x5 => (e4m3, 8)
  | 0x6 => (e5m2, 15)
  | 0x7 => (e3m2, 4)
  | 0x8 => (e2m3, 2)
  | _ => (e2m1, 2)

/-- Encode values with a shared power-of-two scale: values, an element encoder, draws from position `pos` on. -/
def encodeElems (enc : Nat → Val → Nat × Bool) (draw : Nat → Nat) : Nat → List (Val × Int) → List Nat × Nat
  | _, [] => ([], 0)
  | pos, (v, k) :: xs =>
    let (c, s) := enc (draw pos) (v.scale (-k))
    let (cs, n) := encodeElems enc draw (pos + 1) xs
    (c :: cs, n + (if s then 1 else 0))

/-- The sign bit a signed zero element keeps (R72, R77). -/
def zeroCode (bits : Nat) (v : Val) : Nat := if v.sign then 2 ^ (bits - 1) else 0

/-- Encode one block into an MX format (R72). -/
def encodeMx (fmt : Nat) (mode : Rnd) (draw : Nat → Nat) (pos : Nat) (xs : List Val) : Encoded :=
  if xs.any (fun x => !x.isFin) then ⟨xs.map (fun _ => 0), 255, 0, 1⟩
  else if xs.all Val.isZero then
    ⟨xs.map (fun x => if fmt = 0xA then 0 else zeroCode (fmtInfo fmt).bits x), 0, 0, 0⟩
  else
    match maxAbs xs with
    | .fin _ m e =>
      let emax : Int := if fmt = 0xA then 0 else (mxElem fmt).2
      let x := max (-127) (min 127 (floorLog2 m e - emax))
      let enc (r : Nat) (v : Val) := if fmt = 0xA then encodeInt8 mode r v else encodeSat (mxElem fmt).1 mode r v
      let (cs, n) := encodeElems enc draw pos (xs.map fun v => (v, x))
      ⟨cs, (x + 127).toNat, n, 0⟩
    | _ => ⟨xs.map (fun _ => 0), 255, 0, 1⟩

/-- ceil(log2(x / 6)) of a nonzero magnitude (R77): 6 × 2^X is the first that covers it. -/
def agateExp (m : Nat) (e : Int) : Int :=
  let l := floorLog2 m e
  if magLe m e 6 (l - 2) then l - 2 else l - 1

/-- The largest micro-exponent j, 0 to 3, with mk × 2^j ≤ 6 × 2^X (R77). -/
def agateMicro (mk : Val) (x : Int) : Nat :=
  match mk with
  | .fin _ m e =>
    if magLe m (e + 3) 6 x then 3 else if magLe m (e + 2) 6 x then 2 else if magLe m (e + 1) 6 x then 1 else 0
  | _ => 0

/-- Encode 64 values into Agate4 (R77). -/
def encodeAgate4 (mode : Rnd) (draw : Nat → Nat) (pos : Nat) (xs : List Val) : Encoded :=
  if xs.any (fun x => !x.isFin) then ⟨xs.map (fun _ => 0), 255, 0, 1⟩
  else if xs.all Val.isZero then ⟨xs.map (zeroCode 4), 0, 0, 0⟩
  else
    match maxAbs xs with
    | .fin _ m e =>
      let x := max (-127) (min 127 (agateExp m e))
      let micro (k : Nat) : Nat := agateMicro (maxAbs ((xs.drop (16 * k)).take 16)) x
      let tagged := xs.zipIdx.map fun p => (p.1, x - (micro (p.2 / 16) : Int))
      let (cs, n) := encodeElems (encodeSat e2m1 mode) draw pos tagged
      ⟨cs, (x + 127).toNat + 256 * micro 0 + 1024 * micro 1 + 4096 * micro 2 + 16384 * micro 3, n, 0⟩
    | _ => ⟨xs.map (fun _ => 0), 255, 0, 1⟩

/-- Round a finite nonnegative value to the E5M3 scale of R79 under RNE: the byte, saturating to 0xFE, and whether it
saturated (R80). -/
def encodeE5m3 : Val → Nat × Bool
  | .fin _ m e =>
    if m = 0 then (0, false)
    else
      let (t, q) := roundMag 4 (-17) .rne 0 m e
      if magLe t q 14 13 then
        ((if t < 8 then t else
            let (t', q') := if t ≥ 16 then (t / 2, q + 1) else (t, q)
            ((q' - (-17)).toNat + 1) * 8 + (t' - 8)), false)
      else (0xFE, true)
  | _ => (0xFE, true)

/-- Encode 64 values into Agate2 (R80); the descriptor's rounding mode does not apply. -/
def encodeAgate2 (xs : List Val) : Encoded :=
  if xs.any (fun x => !x.isFin) then ⟨xs.map (fun _ => 0), 255, 0, 1⟩
  else
    let sum := xs.foldl (fun a x => fadd a x.abs) Val.zero
    let (b, sat) := encodeE5m3 (sum.scale (-6))
    let sv := agate2Scale b
    let half := sv.scale (-1)
    let code (x : Val) : Nat :=
      if sv.isZero then 0
      else if half.lt x then 1
      else if x.lt half.neg then 3
      else 0
    ⟨xs.map code, b, if sat then 1 else 0, 0⟩

/-- Garnet16 mantissas of a block at exponent field e, rounded to nearest even (R82). -/
def garnetMantissas (xs : List Val) (e : Nat) : List Int :=
  xs.map fun v =>
    match v with
    | .fin s m k =>
      if m = 0 then 0
      else
        let k' := k - ((e : Int) - 142)
        let (t, q) := roundMag (bitLen m + 64) 0 .rne 0 m k'
        let i : Int := ((t <<< q.toNat : Nat) : Int)
        if s then -i else i
    | _ => 0

/-- Encode 32 values into Garnet16 (R82), always rounding to nearest even. -/
def encodeGarnet (xs : List Val) : Encoded :=
  if xs.any (fun x => !x.isFin) then ⟨xs.map (fun _ => 0), 255, 0, 1⟩
  else if xs.all Val.isZero then ⟨xs.map (fun _ => 0), 0, 0, 0⟩
  else
    match maxAbs xs with
    | .fin _ m e =>
      let e0 := (max 0 (min 254 (floorLog2 m e + 128))).toNat
      let ms0 := garnetMantissas xs e0
      let again : Bool := ms0.any (fun i => decide (i.natAbs > 32767)) && decide (e0 < 254)
      let e1 := if again then e0 + 1 else e0
      let ms := if again then garnetMantissas xs e1 else ms0
      let sat := (ms.filter fun i => decide (i.natAbs > 32767)).length
      ⟨ms.map (fun i => unsignedOf 16 (max (-32767) (min 32767 i))), e1, sat, 0⟩
    | _ => ⟨xs.map (fun _ => 0), 255, 0, 1⟩

/-- Encode one block of FP32 values into a block format (R72, R77, R80, R82); `pos` is the element position of its first
element (R90). -/
def encodeBlock (fmt : Nat) (mode : Rnd) (draw : Nat → Nat) (pos : Nat) (xs : List Val) : Encoded :=
  match fmt with
  | 0xB => encodeAgate4 mode draw pos xs
  | 0xC => encodeAgate2 xs
  | 0xD => encodeGarnet xs
  | _ => encodeMx fmt mode draw pos xs

/-- Pack element codes of `bits` bits as one little-endian bit string (R73), eight codes at a time. -/
def packCodes (bits : Nat) : Nat → List Nat → Bytes
  | 0, _ => []
  | fuel + 1, cs =>
    if cs.isEmpty then []
    else
      let v := (cs.take 8).foldr (fun c a => a * 2 ^ bits + c % 2 ^ bits) 0
      leBytes bits v ++ packCodes bits fuel (cs.drop 8)

/-- The element plane of a list of codes: the whole bytes they fill (R73). -/
def elementPlane (bits : Nat) (cs : List Nat) : Bytes :=
  (packCodes bits (cs.length / 8 + 1) cs).take ((cs.length * bits + 7) / 8)

/-- What an encode of a whole result produced: element plane, scale plane, counts. -/
structure Planes where
  elems : Bytes
  scales : Bytes
  sat : Nat
  nonnum : Nat
  deriving DecidableEq, Repr

/-- Encode whole blocks in index order, block `j` from position `B × j` on; `n` blocks. -/
def encodeBlocks (fmt : Nat) (mode : Rnd) (draw : Nat → Nat) : Nat → Nat → List Val → List Encoded
  | 0, _, _ => []
  | n + 1, pos, xs =>
    let b := (fmtInfo fmt).block
    encodeBlock fmt mode draw pos (xs.take b) :: encodeBlocks fmt mode draw n (pos + b) (xs.drop b)

/-- Encode a list of plain values, element by element. -/
def encodePlains (fmt : Nat) (mode : Rnd) (draw : Nat → Nat) : Nat → List Val → List Nat × Nat × Nat
  | _, [] => ([], 0, 0)
  | pos, v :: vs =>
    let (c, s, k) := encodePlain fmt mode (draw pos) v
    let (cs, s', k') := encodePlains fmt mode draw (pos + 1) vs
    (c :: cs, s + s', k + k')

/-- Encode a result into a format (R125): a short last block is completed with +0 elements, which take part like any other. -/
def encodeAll (fmt : Nat) (mode : Rnd) (draw : Nat → Nat) (xs : List Val) : Planes :=
  let i := fmtInfo fmt
  if i.scale = 0 then
    let (cs, s, k) := encodePlains fmt mode draw 0 xs
    ⟨elementPlane i.bits cs, [], s, k⟩
  else
    let n := (xs.length + i.block - 1) / i.block
    let full := xs ++ List.replicate (n * i.block - xs.length) Val.zero
    let es := encodeBlocks fmt mode draw n 0 full
    ⟨elementPlane i.bits (es.flatMap (·.codes)), es.flatMap (fun e => leBytes i.scale e.scale),
     (es.map (·.sat)).sum, (es.map (·.nonnum)).sum⟩

/-- The code of element `i` in an element plane read byte by byte (R73). -/
def elemCode (rd : Nat → Byte) (bits i : Nat) : Nat :=
  let start := bits * i
  let k := (start % 8 + bits + 7) / 8
  let v := leNat ((List.range k).map fun j => rd (start / 8 + j))
  (v >>> (start % 8)) % 2 ^ bits

/-- The value of element `i` of a plain source in format `fmt`, from its element and scale planes (R73, R85), INT32 excepted. -/
def readElem (fmt : Nat) (rdE rdS : Nat → Byte) (i : Nat) : Val :=
  let f := fmtInfo fmt
  let sc := if f.scale = 0 then 0
    else leNat ((List.range f.scale).map fun j => rdS (f.scale * (i / f.block) + j))
  decodeBlockElem fmt sc (i % f.block) (elemCode rdE f.bits i)

/-- Whether element `i` is an Agate2 reserved code, which counts whatever the block's scale (R78). -/
def isReservedAgate2 (fmt : Nat) (rdE : Nat → Byte) (i : Nat) : Bool := fmt = 0xC && elemCode rdE 2 i = 2

end Sys2Proof.Machine
end

