-- ==== Sys2Proof/Machine/Descriptors.lean ====
section
/-!
DEFINITION. What ZQ.ENQ checks of a descriptor, by engine: the MXE (R104, R107), the VXE (R123, R127, R144), the DMA engine (R173) and the
message unit (R238). A descriptor is its 64 bytes.
-/

namespace Sys2Proof.Machine

/-- CTRL bits of a descriptor. -/
def ctrlBits (d : Bytes) (hi lo : Nat) : Nat := bitsOf (fieldAt d 0 4) hi lo
/-- A byte range an engine touches lies in the scratchpad and in the engine's bank group (R107, R123, R150). -/
def spanOk (m : Member) (ep a k : Nat) : Bool := inSpad a k && m.reaches ep a k

/-! The MXE. -/

/-- The FP8 set of R104. -/
def fp8Set : List Nat := [0x3, 0x4, 0x5, 0x6, 0x7, 0x8, 0x9, 0xB]
/-- The class of a format pair (R104): 1 FP4, 2 FP8, 3 MXINT8, 4 Agate2, 5 BF16; none for a pair the MXE does not take. -/
def mxeClass (a w : Nat) : Option Nat :=
  if (a = 0x9 || a = 0xB) && (w = 0x9 || w = 0xB) then some 1
  else if fp8Set.contains a && fp8Set.contains w then some 2
  else if a = 0xA && w = 0xA then some 3
  else if a = 0xA && w = 0xC then some 4
  else if (a = 1 || a = 2) && (w = 1 || w = 2) then some 5
  else none
/-- Depth of weights per lane (R104). -/
def mxeKp (cls : Nat) : Nat :=
  match cls with
  | 1 => 128
  | 4 => 256
  | 5 => 16
  | _ => 64
/-- Products per chunk (R104). -/
def mxeChunk (cls : Nat) : Nat := if cls = 5 then 16 else 32
/-- An integer class (R104). -/
def mxeInt (cls : Nat) : Bool := cls = 3 || cls = 4
/-- Bytes of K elements of a format, and of their scales (R105, R107). -/
def elemBytes (fmt k : Nat) : Nat := (k * (fmtInfo fmt).bits + 7) / 8
def scaleBytes (fmt k : Nat) : Nat := if (fmtInfo fmt).scale = 0 then 0 else (k + (fmtInfo fmt).block - 1) / (fmtInfo fmt).block * (fmtInfo fmt).scale
/-- Bytes of a row of an accumulator tile (R108). -/
def accRow (kind : Nat) : Nat := if kind = 2 then 512 else 256
/-- Bytes of a lane of an accumulator tile (R108). -/
def mxeLaneBytes (kind : Nat) : Nat := if kind = 2 then 8 else 4
/-- Bytes of an accumulator tile. -/
def accBytes (kind rows : Nat) : Nat := 64 + rows * accRow kind
/-- KIND of the tile a pass writes (R108). -/
def passKind (cls acc : Nat) : Nat := if mxeInt cls then 3 else if acc ≥ 2 then 2 else 1

/-- A plane of rows: `rows` rows of `len` bytes at a stride. -/
def planeOk (m : Member) (ep base stride rows len : Nat) : Bool :=
  len = 0 || (List.range rows).all fun i => spanOk m ep (base + i * stride) len

/-- Whether ZQ.ENQ takes an MXE descriptor (R107). -/
def mxeOk (m : Member) (d : Bytes) : Bool :=
  let fa := ctrlBits d 27 24
  let fw := ctrlBits d 23 20
  let acc := ctrlBits d 17 16
  let rows := fieldAt d 6 1
  let cols := fieldAt d 7 1
  let k := 64 * fieldAt d 8 2
  let side := fun (fmt el sc es ss n : Nat) =>
    let eb := elemBytes fmt k
    let sb := scaleBytes fmt k
    el % 64 = 0 && sc % 4 = 0 && (if sb = 0 then sc = 0 else sc ≠ 0) && eb ≤ 64 * es && sb ≤ 4 * ss &&
      planeOk m 1 el (64 * es) n eb && planeOk m 1 sc (4 * ss) n sb
  match mxeClass fa fw with
  | none => false
  | some cls =>
    ctrlBits d 31 28 = 1 && ctrlBits d 19 18 ≠ 3 && ctrlBits d 14 12 ≤ 4 && ctrlBits d 11 0 = 0 && !(mxeInt cls && acc ≥ 2) &&
      1 ≤ rows && rows ≤ 128 && 1 ≤ cols && cols ≤ 64 && 64 ≤ k && k ≤ 65536 && (mxeInt cls || fieldAt d 12 1 = 0) &&
      zeroAt d 13 3 && zeroAt d 48 16 && fieldAt d 32 4 % 64 = 0 &&
      side fa (fieldAt d 16 4) (fieldAt d 20 4) (fieldAt d 36 2) (fieldAt d 38 2) rows &&
      side fw (fieldAt d 24 4) (fieldAt d 28 4) (fieldAt d 40 2) (fieldAt d 42 2) cols &&
      spanOk m 1 (fieldAt d 32 4) 64 &&
      planeOk m 1 (fieldAt d 32 4 + 64) (accRow (passKind cls acc)) rows (cols * mxeLaneBytes (passKind cls acc))

/-! The VXE. -/

/-- The functions that read B (R126, R127), and those that read s. A combine reads its right record at SRC_B (R130, R131). -/
def readsB (op func : Nat) : Bool :=
  (op = 2 && [0x01, 0x02, 0x03, 0x04, 0x07, 0x08, 0x09, 0x0C, 0x0D].contains func) || (op = 6 && func = 2)
def readsS (op func : Nat) : Bool := op = 2 && [0x05, 0x06, 0x07, 0x19].contains func
/-- A plain operand of the format has a scale plane (R73, R74). -/
def hasScale (fmt : Nat) : Bool := (fmtInfo fmt).scale ≠ 0
/-- FUNC is defined for OP (R126, R135, R140, R143, R145). -/
def funcOk (op func : Nat) : Bool :=
  match op with
  | 2 => func ≤ 0x0D || (0x10 ≤ func && func ≤ 0x19)
  | 3 => 1 ≤ func && func ≤ 6
  | 4 => 1 ≤ func && func ≤ 8
  | 5 => func = 0
  | 6 => func ≤ 2
  | _ => false
/-- Bytes of a plain operand's planes, of a pair vector. -/
def vxeSrcBytes (sk fmt n : Nat) : Nat := if sk = 1 then 8 * n else elemBytes fmt n
/-- Size of the record OP 0x3 to 0x6 read and write (R130, R140, R145). -/
def recordBytes (op func : Nat) : Nat :=
  if op = 6 || (op = 4 && func = 8) then 544 else if op = 5 || (op = 4 && func = 7) then 16 else 32

/-- Whether ZQ.ENQ takes a VXE descriptor (R123, R127, R144). [DEDUCED, log entry 17; DEDUCED, log entry 88] -/
def vxeOk (m : Member) (diag : Bool) (d : Bytes) : Bool :=
  let op := ctrlBits d 31 28
  let func := ctrlBits d 7 2
  let fi := ctrlBits d 27 24
  let fo := ctrlBits d 23 20
  let ska := ctrlBits d 15 14
  let skb := ctrlBits d 13 13
  let dk := ctrlBits d 12 12
  let len := fieldAt d 8 4
  let imm := fieldAt d 12 4
  let ima := ctrlBits d 11 11
  let a := fieldAt d 16 4
  let as := fieldAt d 20 4
  let b := fieldAt d 24 4
  let bs := fieldAt d 28 4
  let dst := fieldAt d 32 4
  let ds := fieldAt d 36 4
  let aux := fieldAt d 40 4
  let hasB := readsB op func
  let blockI := (fmtInfo fi).block
  let blockO := (fmtInfo fo).block
  let codes := funcOk op func && fi ≠ 0xF && fo ≠ 0xF && fo ≠ 0xE && ska ≠ 3 && ctrlBits d 19 18 ≠ 3 &&
    (op = 2 || ctrlBits d 19 18 = 0) && ctrlBits d 10 8 ≤ 4
  let kinds :=
    if op = 2 then
      if func = 0x0C then ska = 1 && skb = 1 && dk = 1
      else if func = 0x0D then ska = 1 && dk = 1 && skb = 0 && fi = 0xD
      else if func = 0 then (dk = 0 || ska = 0) && skb = 0
      else dk = 0 && (hasB || skb = 0)
    else dk = 0 && (hasB || skb = 0) && (op = 3 || op = 6 || ska = 0)
  let unread := (hasB || op = 4 || b = 0) && (hasB && skb = 0 && hasScale fi || bs = 0) &&
    (op ≠ 4 && op ≠ 5 && ska = 0 && hasScale fi || as = 0) && (op = 2 && dk = 0 && hasScale fo || ds = 0) &&
    (readsS op func || op = 6 || imm = 0) && (readsS op func || ima = 0) && (op = 5 || fieldAt d 56 4 = 0) &&
    (op = 2 && func = 4 || aux = 0) && (dk = 0 || fo = 0)
  let sizes := (if op = 4 || ska = 2 then len = 0 else 1 ≤ len && len ≤ 1048576 && len % blockI = 0 && len % blockO = 0) &&
    (op ≠ 6 || (1 ≤ imm && imm ≤ 16))
  let size := recordBytes op func
  let unit := if op = 4 then (if func = 7 then 1 else 32) else if op = 5 then 1 else if op = 2 then 64 else 32
  let align :=
    (if op = 4 then a % unit = 0 && b % unit = 0
      else if op = 5 then a % 4 = 0
      else (a % 64 = 0 || (op = 2 && ska = 0 && fi = 0 && len = 1 && a % 4 = 0)) && as % 4 = 0 &&
        (!hasB || (b % 64 = 0 && bs % 4 = 0))) &&
    dst % unit = 0 && (op ≠ 2 || (ds % 4 = 0 && aux % 4 = 0)) && (ima = 0 || imm % 4 = 0)
  let srcOk := fun (sk x xs : Nat) =>
    spanOk m 2 x (vxeSrcBytes sk fi len) && (sk = 1 || spanOk m 2 xs (scaleBytes fi len))
  let range :=
    if op = 4 then spanOk m 2 a size && spanOk m 2 b size && spanOk m 2 dst size
    else
      (if ska = 2 then spanOk m 2 a 64 else if op = 5 then spanOk m 2 a (4 * len) else srcOk ska a as) &&
      (!hasB || ska = 2 || srcOk skb b bs) &&
      (if op = 2 then ska = 2 || (if dk = 1 then spanOk m 2 dst (8 * len)
          else spanOk m 2 dst (elemBytes fo len) && spanOk m 2 ds (scaleBytes fo len))
        else spanOk m 2 dst size) &&
      (!(op = 2 && func = 4) || ska = 2 || spanOk m 2 aux (4 * len)) && (ima = 0 || spanOk m 2 imm 4)
  let diagOk := diag || !(op = 6 || (op = 4 && func = 8))
  let reserved := fieldAt d 7 1 = 0 && fieldAt d 54 2 = 0 && zeroAt d 60 4 && ctrlBits d 1 0 = 0 && (op = 2 || fieldAt d 6 1 = 0)
  codes && kinds && unread && sizes && align && range && diagOk && reserved

/-! The DMA engine. -/

/-- Whether ZQ.ENQ takes a DMA descriptor of a tile of partition `p` (R173). -/
def dmaOk (p : Part) (d : Bytes) : Bool :=
  let op := ctrlBits d 31 28
  let fi := ctrlBits d 27 24
  let fo := ctrlBits d 23 20
  let ssp := ctrlBits d 12 10
  let dsp := ctrlBits d 9 7
  let src := fieldAt d 8 8
  let dst := fieldAt d 16 8
  let len := fieldAt d 28 4
  let remote := fieldAt d 32 4
  let win := fieldAt d 6 1
  let status := fieldAt d 40 4
  let winop := op = 3 || op = 4
  let srcLen := if op = 2 then elemBytes fi len else len
  let dstLen := if op = 2 then elemBytes fo len + scaleBytes fo len else len
  let space := fun (sp a k : Nat) => if sp = 0 then inSpad a k else if sp = 2 then p.inRange a k else true
  let codes := 1 ≤ op && op ≤ 4 && fi ≠ 0xF && fo ≠ 0xF && ssp ≤ 3 && dsp ≤ 4 && ctrlBits d 15 13 ≤ 4
  let copy := op ≠ 1 || (fi = 0 && fo = 0 && ctrlBits d 19 18 = 0 && fieldAt d 4 2 = 0 && len % 4 = 0 && 4 ≤ len && len ≤ 2 ^ 24 &&
    src % 4 = 0 && dst % 4 = 0)
  let conv := op ≠ 2 || (ssp = 0 && fi ≠ 0xE && fo ≠ 0xE && ctrlBits d 19 18 ≠ 3 &&
    len % (fmtInfo fi).block = 0 && len % (fmtInfo fo).block = 0 && src % 64 = 0 && dst % 64 = 0 && fieldAt d 24 4 % 4 = 0 &&
    ((fmtInfo fi).scale ≠ 0 || fieldAt d 24 4 = 0) && inSpad (fieldAt d 24 4) (scaleBytes fi len))
  let wins := !winop || (ssp = 0 && dsp = 0 && len = 0 && remote = 0 && win ≤ 15 && (op ≠ 3 || (src % 32 = 0 && inSpad src 32)))
  let range := winop || (space ssp src srcLen && space dsp dst dstLen)
  let far := (win = 0 || ssp = 1 || dsp = 1 || winop) && (remote = 0 || ssp = 1 || dsp = 1 || dsp = 4) &&
    !(ssp = 1 && (dsp = 1 || dsp = 4)) && (!(ssp = 1 || dsp = 1) || (remote / 2 ^ 27 = 0 && remote % 8 = 3)) &&
    (dsp ≠ 4 || (remote / 2 ^ 31 = 1 && remote / 2 ^ 19 % 2 ^ 8 = 0)) && (op = 2 || fieldAt d 24 4 = 0) && status % 16 = 0 && inSpad status 16
  codes && copy && conv && wins && range && far && ctrlBits d 6 0 = 0 && fieldAt d 7 1 = 0 && zeroAt d 44 20

/-! The message unit. -/

/-- Whether two ranges share a byte. -/
def rangesMeet (a k b l : Nat) : Bool := a < b + l && b < a + k

/-- Whether ZQ.ENQ takes a message unit descriptor of a tile (R238). -/
def msgOk (m : Member) (v : Tile) (step : Nat) (p : Part) (d : Bytes) : Bool :=
  let op := ctrlBits d 31 28
  let chan := fieldAt d 4 4
  let addr := fieldAt d 8 8
  let saddr := fieldAt d 16 4
  let rlog := fieldAt d 20 1
  let words := fieldAt d 21 1
  let status := fieldAt d 36 4
  let ringSize := 2 ^ rlog
  let ringClear := (v.ringList.all fun (_, r) => !r.enabled || !rangesMeet addr ringSize r.base.toNat r.span) &&
    (v.carries.all fun c => !rangesMeet addr ringSize c.base.toNat (2 * c.size.toNat)) &&
    (v.windows.toList.all fun w => !(w.isOpen && w.kind = 0) || !rangesMeet addr ringSize w.base.toNat (64 * w.size64.toNat)) &&
    (v.bankHit m step (fun b => !b.takesWrites) addr ringSize).isNone
  let ok := match op with
    | 1 => 9 ≤ rlog && rlog ≤ 20 && addr % 64 = 0 && spanOk m 4 addr ringSize && saddr % 8 = 0 && spanOk m 4 saddr 8 &&
        words = 0 && fieldAt d 28 4 = 0 && ringClear
    | 2 => addr = 0 && saddr % 8 = 0 && spanOk m 4 saddr 8 && rlog = 0 && words = 0
    | 3 => 1 ≤ words && words ≤ 8 && addr % 8 = 0 && spanOk m 4 addr (8 * words) && saddr = 0 && rlog = 0 && fieldAt d 24 8 = 0
    | 4 => addr < 2 ^ 32 && saddr = 0 && rlog = 0 && words = 0 && fieldAt d 24 8 = 0
    | 5 => addr = 0 && saddr = 0 && rlog = 0 && words = 0 && fieldAt d 24 8 = 0
    | _ => false
  ok && ctrlBits d 26 24 ≤ 4 && ctrlBits d 23 0 = 0 && chan < 2 ^ 20 && p.chanFirst ≤ chan && chan < p.chanFirst + p.chanCount &&
    status % 16 = 0 && spanOk m 4 status (if status = 0 then 0 else 16) && zeroAt d 22 2 && zeroAt d 40 24

/-- DEP_ENG of a descriptor (R106, R122, R172, R237). -/
def depEngOf (e : Eng) (d : Bytes) : Nat :=
  match e with
  | .mxe => ctrlBits d 14 12
  | .vxe => ctrlBits d 10 8
  | .dma => ctrlBits d 15 13
  | .msg => ctrlBits d 26 24
/-- DEP_TICKET of a descriptor. -/
def depTicketOf (e : Eng) (d : Bytes) : Nat :=
  match e with
  | .mxe => fieldAt d 44 4
  | .vxe => fieldAt d 44 4
  | .dma => fieldAt d 36 4
  | .msg => fieldAt d 32 4
/-- Whether a descriptor is scheduled work (R101). -/
def isScheduled (e : Eng) (d : Bytes) : Bool :=
  match e with
  | .mxe => true
  | .vxe => true
  | .dma => ctrlBits d 17 17 = 1
  | .msg => ctrlBits d 27 27 = 1

end Sys2Proof.Machine
end

