-- ==== Sys2Proof/Machine/Sequencer.lean ====
section
/-!
DEFINITION. The tile sequencer (R92 to R102): RV32IMC in machine mode, its CSRs and traps, and the engine-issue instructions.
-/

namespace Sys2Proof.Machine

/-! Registers, traps and memory. -/

/-- A register; x0 reads zero. -/
def Seq.x (v : Seq) (r : Nat) : U32 := if r = 0 then 0 else v.regs.toList.getD (r - 1) 0
/-- A register written; a write of x0 is discarded. -/
def Seq.setX (v : Seq) (r : Nat) (w : U32) : Seq :=
  if h : 0 < r ∧ r ≤ 31 then { v with regs := v.regs.set (r - 1) w (by omega) } else v
/-- A trap to mtvec in direct mode (R97): mepc, mcause and mtval are saved, MPIE takes MIE, MIE clears, MPP is machine mode. [PRESUMED, log entry 11] -/
def Seq.trap (v : Seq) (cause tval : Nat) : Seq :=
  { v with
    mepc := v.pc
    mcause := BitVec.ofNat 32 cause
    mtval := BitVec.ofNat 32 tval
    mstatus := BitVec.ofNat 32 (0x1800 + b2n (v.mstatus.getLsbD 3) * 128)
    pc := v.mtvec }
/-- Return from a trap: MIE takes MPIE, MPIE sets, and the sequencer goes on at mepc. [PRESUMED, log entry 11] -/
def Seq.mret (v : Seq) : Seq :=
  { v with
    mstatus := BitVec.ofNat 32 (0x1880 + b2n (v.mstatus.getLsbD 7) * 8)
    pc := v.mepc }
/-- The sequencer of a tile changed. -/
def State.modSeq (s : State) (t : TileId) (f : Seq → Seq) : State := s.modTile t fun v => { v with seq := f v.seq }
/-- A trap of a tile's sequencer. -/
def State.seqTrap (s : State) (t : TileId) (cause tval : Nat) : State := s.modSeq t fun v => v.trap cause tval
/-- The sequencer moves on with a result. -/
def State.seqNext (s : State) (t : TileId) (len rd : Nat) (w : U32) : State :=
  s.modSeq t fun v => { (v.setX rd w) with pc := v.pc + BitVec.ofNat 32 len }

/-- An address range in IMEM (R93). -/
def inImem (a k : Nat) : Bool := a + k ≤ 0x20000
/-- An address range in the scratchpad window (R93). -/
def inSeqSpad (a k : Nat) : Bool := 0x10000000 ≤ a && a + k ≤ 0x10400000
/-- IMEM bytes. -/
def State.imemRead (s : State) (t : TileId) (a k : Nat) : Bytes :=
  let st := (s.tile t).imem
  (List.range k).map fun i => st.get (tileKey t + 2 ^ 12) (a + i)
/-- FC_BANK_OFF_WRITE for a sequencer access that met a bank that is off (R181). -/
def State.seqBankFault (s : State) (t : TileId) (pc : Nat) (hit : Option Nat) : State :=
  match hit with
  | some a => s.tileFault t { cls := 0x10, eng := 0, slot := 0, pc := pc, addr := a }
  | none => s

/-! CSRs (R92, R95). -/

/-- The counters that read zero and ignore writes, and mstatush (R92). -/
def csrZero (c : Nat) : Bool :=
  (0xC00 ≤ c && c ≤ 0xC1F) || (0xC80 ≤ c && c ≤ 0xC9F) || (0xB00 ≤ c && c ≤ 0xB1F && c ≠ 0xB01) ||
    (0xB80 ≤ c && c ≤ 0xB9F && c ≠ 0xB81) || (0x323 ≤ c && c ≤ 0x33F) || c = 0x320 || c = 0x310
/-- The CSRs a write of which is illegal (R92): the identification registers and the custom ones. -/
def csrReadOnly (c : Nat) : Bool := (0xF11 ≤ c && c ≤ 0xF14) || (0xFC0 ≤ c && c ≤ 0xFC6)
/-- What a CSR reads as; none for a number that is not implemented. [DESIGN CHOICE, log entry 9; PRESUMED, log entry 11] -/
def State.csrRead (s : State) (t : TileId) (c : Nat) : Option U32 :=
  let v := (s.tile t).seq
  let q : Part := match s.partOf t with
    | some p => s.part p
    | none => {}
  let n := (s.nOf t).getD 0
  if csrZero c then some 0
  else match c with
    | 0x300 => some v.mstatus
    | 0x301 => some 0x40001104
    | 0x304 => some 0
    | 0x305 => some v.mtvec
    | 0x340 => some v.mscratch
    | 0x341 => some v.mepc
    | 0x342 => some v.mcause
    | 0x343 => some v.mtval
    | 0x344 => some 0
    | 0xF11 => some 0
    | 0xF12 => some 0
    | 0xF13 => some 0
    | 0xF14 => some 0
    | 0xFC0 => some (BitVec.ofNat 32 (n * 2 ^ 16 + s.member.ly n * 256 + s.member.lx n))
    | 0xFC1 => some (BitVec.ofNat 32 q.beatInStep)
    | 0xFC2 => some (BitVec.ofNat 32 q.step.toNat)
    | 0xFC3 => some (BitVec.ofNat 32 (q.step.toNat / 2 ^ 32))
    | 0xFC4 => some (BitVec.ofNat 32 q.s)
    | 0xFC5 => some (BitVec.ofNat 32 q.seed)
    | 0xFC6 => some (BitVec.ofNat 32 (q.seed / 2 ^ 32))
    | _ => none
/-- A CSR written: WARL fields keep their legal values, the fixed registers ignore the write. [PRESUMED, log entry 11] -/
def Seq.csrWrite (v : Seq) (c : Nat) (w : U32) : Seq :=
  match c with
  | 0x300 => { v with mstatus := BitVec.ofNat 32 (0x1800 + b2n (w.getLsbD 3) * 8 + b2n (w.getLsbD 7) * 128) }
  | 0x305 => { v with mtvec := w &&& 0xFFFFFFFC }
  | 0x340 => { v with mscratch := w }
  | 0x341 => { v with mepc := w &&& 0xFFFFFFFE }
  | 0x342 => { v with mcause := w }
  | 0x343 => { v with mtval := w }
  | _ => v

/-! Arithmetic. -/

/-- The M extension's operations by funct3, with the standard corners: division by zero and the signed overflow. [PRESUMED, log entry 11] -/
def mulDiv (f3 : Nat) (a b : U32) : U32 :=
  match f3 with
  | 0 => a * b
  | 1 => BitVec.ofInt 32 (a.toInt * b.toInt / 2 ^ 32)
  | 2 => BitVec.ofInt 32 (a.toInt * b.toNat / 2 ^ 32)
  | 3 => BitVec.ofNat 32 (a.toNat * b.toNat / 2 ^ 32)
  | 4 => if b = 0 then 0xFFFFFFFF else BitVec.ofInt 32 (a.toInt.tdiv b.toInt)
  | 5 => if b = 0 then 0xFFFFFFFF else BitVec.ofNat 32 (a.toNat / b.toNat)
  | 6 => if b = 0 then a else BitVec.ofInt 32 (a.toInt.tmod b.toInt)
  | _ => if b = 0 then a else BitVec.ofNat 32 (a.toNat % b.toNat)
/-- The base integer operations by funct3; `alt` is SUB and SRA. [PRESUMED, log entry 11] -/
def aluOp (f3 : Nat) (alt : Bool) (a b : U32) : U32 :=
  let sh := b.toNat % 32
  match f3 with
  | 0 => if alt then a - b else a + b
  | 1 => a <<< sh
  | 2 => if a.toInt < b.toInt then 1 else 0
  | 3 => if a.toNat < b.toNat then 1 else 0
  | 4 => a ^^^ b
  | 5 => if alt then a.sshiftRight sh else a >>> sh
  | 6 => a ||| b
  | _ => a &&& b
/-- The branch conditions by funct3; none for the two codes that name no branch. -/
def branchTaken (f3 : Nat) (a b : U32) : Option Bool :=
  match f3 with
  | 0 => some (a = b)
  | 1 => some (a ≠ b)
  | 4 => some (a.toInt < b.toInt)
  | 5 => some (b.toInt ≤ a.toInt)
  | 6 => some (a.toNat < b.toNat)
  | 7 => some (b.toNat ≤ a.toNat)
  | _ => none

/-! Immediates of the 32-bit formats. -/

/-- I-type. -/
def immI (w : Nat) : Int := signedOf 12 (bitsOf w 31 20)
/-- S-type. -/
def immS (w : Nat) : Int := signedOf 12 (bitsOf w 31 25 * 32 + bitsOf w 11 7)
/-- B-type. -/
def immB (w : Nat) : Int :=
  signedOf 13 (bitsOf w 31 31 * 4096 + bitsOf w 7 7 * 2048 + bitsOf w 30 25 * 32 + bitsOf w 11 8 * 2)
/-- J-type. -/
def immJ (w : Nat) : Int :=
  signedOf 21 (bitsOf w 31 31 * 2 ^ 20 + bitsOf w 19 12 * 4096 + bitsOf w 20 20 * 2048 + bitsOf w 30 21 * 2)

/-! The compressed instructions as the 32-bit ones they stand for. -/

/-- An R-type word. -/
def encR (f7 rs2 rs1 f3 rd op : Nat) : Nat := f7 * 2 ^ 25 + rs2 * 2 ^ 20 + rs1 * 2 ^ 15 + f3 * 2 ^ 12 + rd * 2 ^ 7 + op
/-- An I-type word. -/
def encI (imm : Int) (rs1 f3 rd op : Nat) : Nat := unsignedOf 12 imm * 2 ^ 20 + rs1 * 2 ^ 15 + f3 * 2 ^ 12 + rd * 2 ^ 7 + op
/-- An S-type word. -/
def encS (imm : Int) (rs2 rs1 f3 op : Nat) : Nat :=
  let u := unsignedOf 12 imm
  u / 32 * 2 ^ 25 + rs2 * 2 ^ 20 + rs1 * 2 ^ 15 + f3 * 2 ^ 12 + u % 32 * 2 ^ 7 + op
/-- A B-type word. -/
def encB (imm : Int) (rs2 rs1 f3 : Nat) : Nat :=
  let u := unsignedOf 13 imm
  bitsOf u 12 12 * 2 ^ 31 + bitsOf u 10 5 * 2 ^ 25 + rs2 * 2 ^ 20 + rs1 * 2 ^ 15 + f3 * 2 ^ 12 + bitsOf u 4 1 * 2 ^ 8 +
    bitsOf u 11 11 * 2 ^ 7 + 0x63
/-- A J-type word. -/
def encJ (imm : Int) (rd : Nat) : Nat :=
  let u := unsignedOf 21 imm
  bitsOf u 20 20 * 2 ^ 31 + bitsOf u 10 1 * 2 ^ 21 + bitsOf u 11 11 * 2 ^ 20 + bitsOf u 19 12 * 2 ^ 12 + rd * 2 ^ 7 + 0x6F

/-- The 32-bit form of a 16-bit instruction of the C extension for RV32 without floating point; none for an encoding it does not
define. [PRESUMED, log entry 11] -/
def expandC (h : Nat) : Option Nat :=
  let f3 := bitsOf h 15 13
  let rd := bitsOf h 11 7
  let rs2 := bitsOf h 6 2
  let r1 := 8 + bitsOf h 9 7
  let r2 := 8 + bitsOf h 4 2
  let i6 := signedOf 6 (bitsOf h 12 12 * 32 + bitsOf h 6 2)
  let lwOff := bitsOf h 5 5 * 64 + bitsOf h 12 10 * 8 + bitsOf h 6 6 * 4
  let jOff := signedOf 12 (bitsOf h 12 12 * 2048 + bitsOf h 8 8 * 1024 + bitsOf h 10 9 * 256 + bitsOf h 6 6 * 128 +
    bitsOf h 7 7 * 64 + bitsOf h 2 2 * 32 + bitsOf h 11 11 * 16 + bitsOf h 5 3 * 2)
  let bOff := signedOf 9 (bitsOf h 12 12 * 256 + bitsOf h 6 5 * 64 + bitsOf h 2 2 * 32 + bitsOf h 11 10 * 8 + bitsOf h 4 3 * 2)
  let sh := bitsOf h 6 2
  match bitsOf h 1 0, f3 with
  | 0, 0 =>
    let imm := bitsOf h 10 7 * 64 + bitsOf h 12 11 * 16 + bitsOf h 5 5 * 8 + bitsOf h 6 6 * 4
    if imm = 0 then none else some (encI imm 2 0 r2 0x13)
  | 0, 2 => some (encI lwOff r1 2 r2 0x03)
  | 0, 6 => some (encS lwOff r2 r1 2 0x23)
  | 1, 0 => some (encI i6 rd 0 rd 0x13)
  | 1, 1 => some (encJ jOff 1)
  | 1, 2 => some (encI i6 0 0 rd 0x13)
  | 1, 3 =>
    if rd = 2 then
      let imm := signedOf 10 (bitsOf h 12 12 * 512 + bitsOf h 4 3 * 128 + bitsOf h 5 5 * 64 + bitsOf h 2 2 * 32 + bitsOf h 6 6 * 16)
      if imm = 0 then none else some (encI imm 2 0 2 0x13)
    else if i6 = 0 then none
    else some (unsignedOf 20 i6 * 4096 + rd * 128 + 0x37)
  | 1, 4 =>
    match bitsOf h 11 10 with
    | 0 => if bitAt h 12 then none else some (encI sh r1 5 r1 0x13)
    | 1 => if bitAt h 12 then none else some (encI (sh + 0x400 : Nat) r1 5 r1 0x13)
    | 2 => some (encI i6 r1 7 r1 0x13)
    | _ =>
      if bitAt h 12 then none
      else match bitsOf h 6 5 with
        | 0 => some (encR 0x20 r2 r1 0 r1 0x33)
        | 1 => some (encR 0 r2 r1 4 r1 0x33)
        | 2 => some (encR 0 r2 r1 6 r1 0x33)
        | _ => some (encR 0 r2 r1 7 r1 0x33)
  | 1, 5 => some (encJ jOff 0)
  | 1, 6 => some (encB bOff 0 r1 0)
  | 1, 7 => some (encB bOff 0 r1 1)
  | 2, 0 => if bitAt h 12 then none else some (encI sh rd 1 rd 0x13)
  | 2, 2 =>
    let off := bitsOf h 3 2 * 64 + bitsOf h 12 12 * 32 + bitsOf h 6 4 * 4
    if rd = 0 then none else some (encI off 2 2 rd 0x03)
  | 2, 4 =>
    if bitAt h 12 then
      if rs2 = 0 then (if rd = 0 then some 0x00100073 else some (encI 0 rd 0 1 0x67)) else some (encR 0 rs2 rd 0 rd 0x33)
    else if rs2 = 0 then (if rd = 0 then none else some (encI 0 rd 0 0 0x67))
    else some (encR 0 rs2 0 0 rd 0x33)
  | 2, 6 =>
    let off := bitsOf h 8 7 * 64 + bitsOf h 12 9 * 4
    some (encS off rs2 2 2 0x23)
  | _, _ => none

/-! The engine-issue instructions (R98 to R102). -/

/-- The sequencer of a tile executes: its tile is live, and it runs or retries a stalled ZQ.ENQ. [DESIGN CHOICE, log entry 2] -/
def State.seqReady (s : State) (t : TileId) : Bool :=
  s.tileLive t && match (s.tile t).seq.run with
    | .running => true
    | .stalled (.enq _ _ _) => true
    | _ => false
/-- A ZQ instruction retires: the sequencer moves on and its progress counter advances (R102). -/
def State.zqRetire (s : State) (t : TileId) (rd : Nat) (w : U32) : State :=
  (s.modSeq t fun v => { (v.setX rd w) with pc := v.pc + 4, run := .running }).modTile t fun v =>
    { v with progress := { v.progress with seq := v.progress.seq + 1 }, issued := true }
/-- The sequencer stalls in a ZQ instruction. -/
def State.zqStall (s : State) (t : TileId) (w : SeqWait) : State := s.modSeq t fun v => { v with run := .stalled w }
/-- What ZQ.ENQ's check of the engine finds (R99, R107, R123, R173, R238). -/
def State.descOk (s : State) (t : TileId) (e : Eng) (d : Bytes) : Bool :=
  let v := s.tile t
  let q : Part := match s.partOf t with
    | some p => s.part p
    | none => {}
  match e with
  | .mxe => mxeOk s.member d
  | .vxe => vxeOk s.member v.ward.diag d
  | .dma => dmaOk q d
  | .msg => msgOk s.member v (s.stepAt t) q d
/-- ZQ.ENQ (R99): alignment, copy, check, then a free slot; a full queue stalls it. The copy reads the scratchpad as any sequencer read does
(R181, R182). The address-misaligned exception is the load's, cause 4:
the manual names none of the two. [DESIGN CHOICE, log entry 88] -/
def State.zqEnq (s : State) (t : TileId) (e : Eng) (rd rs1 : Nat) : State :=
  let v := s.tile t
  let a := (v.seq.x rs1).toNat
  if a % 64 ≠ 0 || !inSeqSpad a 64 then s.seqTrap t 4 a
  else if v.clearing s.member (s.stepAt t) (a - 0x10000000) 64 then s
  else
    let d := s.spadRead t (a - 0x10000000) 64
    let s := s.seqBankFault t v.seq.pc.toNat (v.bankHit s.member (s.stepAt t) (· = .off) (a - 0x10000000) 64)
    if !s.descOk t e d then s.seqTrap t 24 a
    else match (v.q e).freeSlot with
      | none => s.zqStall t (.enq e (BitVec.ofNat 5 rd) (BitVec.ofNat 5 rs1))
      | some i =>
        let ticket := (v.q e).enq + 1
        let binding : Binding := if isScheduled e d then (if v.bwaited then .held else .bound) else .unscheduled
        let slot : Slot := { num := i, desc := d, ticket := ticket, pc := v.seq.pc.setWidth 17, binding := binding }
        (s.modTile t fun v => v.setQ e { (v.q e) with enq := ticket, slots := (v.q e).slots ++ [slot] }).zqRetire t rd ticket
/-- ZQ.WAIT (R100). -/
def State.zqWait (s : State) (t : TileId) (e : Eng) (rs1 : Nat) : State :=
  let v := s.tile t
  if v.reached (engCode e) (v.seq.x rs1).toNat then s.zqRetire t 0 0 else s.zqStall t (.wait e (v.seq.x rs1))
/-- ZQ.POLL: never stalls. -/
def State.zqPoll (s : State) (t : TileId) (e : Eng) (rd : Nat) : State := s.zqRetire t rd ((s.tile t).q e).done

/-- A context of a tile is active in the partition's current beat (R190). -/
def Context.active (c : Context) (beatInStep : Nat) : Bool :=
  c.enabled && 0 < c.actMod.toNat && beatInStep % c.actMod.toNat = c.actRem.toNat
/-- A context has moved its flits of the beat (R190). -/
def Context.complete (c : Context) : Bool := c.flits.toNat ≤ c.count
/-- Beat within the step of a tile's partition. -/
def State.zbis (s : State) (t : TileId) : Nat := match s.partOf t with
  | some p => (s.part p).beatInStep
  | none => 0
/-- All scheduled work of the beat has completed (R101): no bound descriptor is queued and every active context has moved its total. -/
def State.beatDone (s : State) (t : TileId) : Bool :=
  let v := s.tile t
  let none := fun (q : EngQ) => q.slots.all fun x => x.binding ≠ .bound
  none v.mxe && none v.vxe && none v.dma && none v.msg &&
    v.sport.toList.all fun c => !c.active (s.zbis t) || c.complete
/-- The completion stamp: the job time now (R53). -/
def State.stampNow (s : State) (t : TileId) : Int := match s.partOf t with
  | some p => s.jobTime p
  | none => s.now
/-- Beat-wait retires in the beat with its stamp (R53, R101). -/
def State.beatWaited (s : State) (t : TileId) : State :=
  s.modTile t fun v => { v with bwaited := true, stamp := some (s.stampNow t) }
/-- ZQ.BWAIT (R101): at once when one has retired in the beat or the work is done, else a stall. -/
def State.zqBwait (s : State) (t : TileId) : State :=
  if (s.tile t).bwaited then s.zqRetire t 0 0
  else if s.beatDone t then (s.beatWaited t).zqRetire t 0 0
  else s.zqStall t .bwait
/-- ZQ.BSYNC (R101): performs ZQ.BWAIT if none has retired, and stalls. -/
def State.zqBsync (s : State) (t : TileId) : State :=
  let s1 := if !(s.tile t).bwaited && s.beatDone t then s.beatWaited t else s
  s1.zqStall t .bsync

/-- A custom-0 word (R98): the operation, or an illegal instruction. [DEDUCED, log entry 12] -/
def State.zqWord (s : State) (t : TileId) (w : Nat) : State :=
  let eng := bitsOf w 27 25
  let rs1 := bitsOf w 19 15
  let rd := bitsOf w 11 7
  let ill := s.seqTrap t 2 w
  if bitsOf w 31 28 ≠ 0 || bitsOf w 24 20 ≠ 0 then ill
  else match bitsOf w 14 12, engOf eng with
    | 0, some e => s.zqEnq t e rd rs1
    | 1, some e => if rd = 0 then s.zqWait t e rs1 else ill
    | 2, some e => if rs1 = 0 then s.zqPoll t e rd else ill
    | 3, none => if eng = 0 && rs1 = 0 && rd = 0 then s.zqBwait t else ill
    | 4, none => if eng = 0 && rs1 = 0 && rd = 0 then s.zqBsync t else ill
    | _, _ => ill

/-! Instructions. -/

/-- The width in bytes and sign of a load's funct3. -/
def loadKind (f3 : Nat) : Option (Nat × Bool) :=
  match f3 with
  | 0 => some (1, true)
  | 1 => some (2, true)
  | 2 => some (4, false)
  | 4 => some (1, false)
  | 5 => some (2, false)
  | _ => none
/-- A load (R93): IMEM or scratchpad, misaligned and outside accesses trap; one from a bank that clears itself waits (R182). An access that is both raises the access fault: the manual gives
no order. [DESIGN CHOICE, log entry 88] -/
def State.seqLoad (s : State) (t : TileId) (len rd a k : Nat) (sign : Bool) : State :=
  let pc := (s.tile t).seq.pc.toNat
  if !inImem a k && !inSeqSpad a k then s.seqTrap t 5 a
  else if a % k ≠ 0 then s.seqTrap t 4 a
  else if !inImem a k && (s.tile t).clearing s.member (s.stepAt t) (a - 0x10000000) k then s
  else
    let bs := if inImem a k then s.imemRead t a k else s.spadRead t (a - 0x10000000) k
    let v := leNat bs
    let w := if sign then BitVec.ofInt 32 (signedOf (8 * k) v) else BitVec.ofNat 32 v
    let hit := if inImem a k then none
      else (s.tile t).bankHit s.member (s.stepAt t) (· = .off) (a - 0x10000000) k
    (s.seqBankFault t pc hit).seqNext t len rd w
/-- A store (R93): scratchpad only; IMEM and outside accesses trap; the access fault goes before misalignment, as in a load. [DESIGN CHOICE, log entry 88] -/
def State.seqStore (s : State) (t : TileId) (len a k : Nat) (w : U32) : State :=
  let pc := (s.tile t).seq.pc.toNat
  if !inSeqSpad a k then s.seqTrap t 7 a
  else if a % k ≠ 0 then s.seqTrap t 6 a
  else
    let r := (s.tile t).writeRun s.member (s.stepAt t) 0 (a - 0x10000000) (leBytes k w.toNat)
    ((s.setTile t r.tile).seqBankFault t pc r.refused).seqNext t len 0 0
/-- A CSR instruction: the old value to rd, and the write if there is one. -/
def State.seqCsr (s : State) (t : TileId) (w len : Nat) : State :=
  let c := bitsOf w 31 20
  let f3 := bitsOf w 14 12
  let rs1 := bitsOf w 19 15
  let rd := bitsOf w 11 7
  let src : U32 := if f3 ≥ 4 then BitVec.ofNat 32 rs1 else (s.tile t).seq.x rs1
  let writes := f3 % 4 = 1 || rs1 ≠ 0
  match s.csrRead t c with
  | none => s.seqTrap t 2 w
  | some old =>
    if writes && csrReadOnly c then s.seqTrap t 2 w
    else
      let new := match f3 % 4 with
        | 1 => src
        | 2 => old ||| src
        | _ => old &&& ~~~src
      (if writes then s.modSeq t fun v => v.csrWrite c new else s).seqNext t len rd old

/-- One 32-bit instruction, or the 32-bit form of a 16-bit one; `len` is its length in memory, `raw` its own bits. [PRESUMED, log entry 11] -/
def State.seqExec (s : State) (t : TileId) (w len raw : Nat) : State :=
  let v := (s.tile t).seq
  let rd := bitsOf w 11 7
  let f3 := bitsOf w 14 12
  let rs1 := bitsOf w 19 15
  let rs2 := bitsOf w 24 20
  let f7 := bitsOf w 31 25
  let a := v.x rs1
  let b := v.x rs2
  let ill := s.seqTrap t 2 raw
  let jump := fun (target : U32) => s.modSeq t fun v => { (v.setX rd (v.pc + BitVec.ofNat 32 len)) with pc := target &&& 0xFFFFFFFE }
  match bitsOf w 6 0 with
  | 0x37 => s.seqNext t len rd (BitVec.ofNat 32 (bitsOf w 31 12 * 4096))
  | 0x17 => s.seqNext t len rd (v.pc + BitVec.ofNat 32 (bitsOf w 31 12 * 4096))
  | 0x6F => jump (v.pc + BitVec.ofInt 32 (immJ w))
  | 0x67 => if f3 = 0 then jump (a + BitVec.ofInt 32 (immI w)) else ill
  | 0x63 =>
    match branchTaken f3 a b with
    | none => ill
    | some true => s.modSeq t fun v => { v with pc := v.pc + BitVec.ofInt 32 (immB w) }
    | some false => s.seqNext t len 0 0
  | 0x03 =>
    match loadKind f3 with
    | none => ill
    | some (k, sign) => s.seqLoad t len rd (a + BitVec.ofInt 32 (immI w)).toNat k sign
  | 0x23 => if f3 ≤ 2 then s.seqStore t len (a + BitVec.ofInt 32 (immS w)).toNat (2 ^ f3) b else ill
  | 0x13 =>
    if (f3 = 1 && f7 ≠ 0) || (f3 = 5 && f7 ≠ 0 && f7 ≠ 0x20) then ill
    else s.seqNext t len rd (aluOp f3 (f3 = 5 && f7 = 0x20) a (BitVec.ofInt 32 (immI w)))
  | 0x33 =>
    if f7 = 1 then s.seqNext t len rd (mulDiv f3 a b)
    else if f7 = 0 then s.seqNext t len rd (aluOp f3 false a b)
    else if f7 = 0x20 && (f3 = 0 || f3 = 5) then s.seqNext t len rd (aluOp f3 true a b)
    else ill
  | 0x0F => if f3 = 0 then s.seqNext t len 0 0 else ill
  | 0x73 =>
    if f3 = 0 then
      if w = 0x00000073 then s.seqTrap t 11 0
      else if w = 0x00100073 then s.seqTrap t 3 v.pc.toNat
      else if w = 0x30200073 then s.modSeq t Seq.mret
      else if w = 0x10500073 then s.seqNext t len 0 0
      else ill
    else if f3 = 4 then ill
    else s.seqCsr t w len
  | 0x0B => s.zqWord t w
  | _ => ill

/-- Whether the ECC report of a step is of the word the fetch reads (R94). -/
def fetchHit (pc : Nat) (ecc : Ecc) : Bool :=
  match ecc with
  | .imem a _ => a.toNat / 4 = pc / 4 || a.toNat / 4 = (pc + 2) / 4
  | _ => false
/-- ECC of what the sequencer reads (R94, R153). -/
def State.seqEcc (s : State) (t : TileId) (ecc : Ecc) (pc : Nat) : State := (s.upset t ecc).eccRead t 0 0 pc ecc
/-- Fetch and execute one instruction (R92, R93, R97). -/
def State.seqStep (s : State) (t : TileId) (ecc : Ecc) : State :=
  let pc := (s.tile t).seq.pc.toNat
  let s0 := s.seqEcc t ecc pc
  if fetchHit pc ecc then s0.modSeq t fun v => { v with run := .halted }
  else if !inImem pc 2 then s0.seqTrap t 1 pc
  else
    let h := leNat (s0.imemRead t pc 2)
    if h % 4 = 3 then
      if !inImem pc 4 then s0.seqTrap t 1 (pc + 2)
      else
        let w := leNat (s0.imemRead t pc 4)
        s0.seqExec t w 4 w
    else match expandC h with
      | some w => s0.seqExec t w 2 h
      | none => s0.seqTrap t 2 h

/-! The meanings. -/

/-- A tile command on a tile that the member carries. [DESIGN CHOICE, log entry 2] -/
def State.onTile (s : State) (t : TileId) (f : State → State) : Host.Outcome State Fault Refusal :=
  if s.hasTile t then .next (f s) else .fault .noSuchUnit

/-- SEQ_INSTRUCTION (R92 to R97): one instruction, while the sequencer executes. [DEDUCED, log entry 12] -/
def execSeqInstruction (t : TileId) (ecc : Ecc) (s : State) : Host.Outcome State Fault Refusal :=
  s.onTile t fun s => if s.seqReady t then s.seqStep t ecc else s
/-- ZQ.ENQ rd, rs1 (R99). [DEDUCED, log entry 12] -/
def execZqEnq (t : TileId) (e : Eng) (rd rs1 : BitVec 5) (ecc : Ecc) (s : State) : Host.Outcome State Fault Refusal :=
  s.onTile t fun s =>
    if s.seqReady t then (s.seqEcc t ecc (s.tile t).seq.pc.toNat).zqEnq t e rd.toNat rs1.toNat else s
/-- ZQ.WAIT rs1 (R100). [DEDUCED, log entry 12] -/
def execZqWait (t : TileId) (e : Eng) (rs1 : BitVec 5) (s : State) : Host.Outcome State Fault Refusal :=
  s.onTile t fun s => if s.seqReady t then s.zqWait t e rs1.toNat else s
/-- A stalled ZQ.WAIT retires once its ticket is reached (R100). -/
def execZqWaitRetire (t : TileId) (s : State) : Host.Outcome State Fault Refusal :=
  s.onTile t fun s => match (s.tile t).seq.run with
    | .stalled (.wait e k) => if s.tileLive t && (s.tile t).reached (engCode e) k.toNat then s.zqRetire t 0 0 else s
    | _ => s
/-- ZQ.POLL rd (R98). [DEDUCED, log entry 12] -/
def execZqPoll (t : TileId) (e : Eng) (rd : BitVec 5) (s : State) : Host.Outcome State Fault Refusal :=
  s.onTile t fun s => if s.seqReady t then s.zqPoll t e rd.toNat else s
/-- ZQ.BWAIT (R101). [DEDUCED, log entry 12] -/
def execZqBwait (t : TileId) (s : State) : Host.Outcome State Fault Refusal :=
  s.onTile t fun s => if s.seqReady t then s.zqBwait t else s
/-- Beat-wait of a stalled ZQ.BWAIT or ZQ.BSYNC retires once the work of the beat is done (R53, R101). -/
def execZqBwaitRetire (t : TileId) (s : State) : Host.Outcome State Fault Refusal :=
  s.onTile t fun s =>
    if !s.tileLive t || (s.tile t).bwaited || !s.beatDone t then s
    else match (s.tile t).seq.run with
      | .stalled .bwait => (s.beatWaited t).zqRetire t 0 0
      | .stalled .bsync => s.beatWaited t
      | _ => s
/-- ZQ.BSYNC (R101). [DEDUCED, log entry 12] -/
def execZqBsync (t : TileId) (s : State) : Host.Outcome State Fault Refusal :=
  s.onTile t fun s => if s.seqReady t then s.zqBsync t else s
/-- A stalled ZQ.BSYNC retires at cycle 64 of the beat it waits for (R101, R256). -/
def execZqBsyncRetire (t : TileId) (s : State) : Host.Outcome State Fault Refusal :=
  s.onTile t fun s => match (s.tile t).seq.run with
    | .stalled .bsync =>
      if s.tileLive t && (s.tile t).bsyncGo && !(s.tile t).overrun then
        let s1 := match s.partOf t with
          | some p => s.reachJob p ((s.part p).t (s.part p).beat + 64)
          | none => s
        (s1.modTile t fun v => { v with bsyncGo := false }).zqRetire t 0 0
      else s
    | _ => s

end Sys2Proof.Machine
end

