-- ==== Sys2Proof/Machine/Mxe.lean ====
section
/-!
DEFINITION. The matrix engine (R103 to R121): the arithmetic of a pass, rescale retries, the final saturating attempt, and the flush.
-/

namespace Sys2Proof.Machine

/-- The largest finite FP32 value of a sign (R116). -/
def fp32Max (neg : Bool) : Val := .fin neg fp32.maxM fp32.maxE

/-- One FP32 rounding of an exact value (R110): the result, and whether it overflowed, that is gave infinity from finite operands
(R114). In the final attempt an overflow gives the largest finite value (R116). -/
def roundPass (final : Bool) (mode : Rnd) (r : Nat) (v : Val) : Val × Bool :=
  let w := roundIeee fp32 mode r v
  if v.isFin && w.isInf then ((if final then fp32Max w.sign else w), true) else (w, false)

/-- The sum of the chunk values of a float lane from chunk `j` on (R110). -/
def floatChunks (final : Bool) (mode : Rnd) (draw : Nat → Nat) : Nat → Val × Bool → List Val → Val × Bool
  | _, p, [] => p
  | j, (p, o), x :: xs =>
    let (p', o') := roundPass final mode (draw j) (p.add x)
    floatChunks final mode draw (j + 1) (p', o || o') xs

/-- The pass value of a float lane (R110): round(X0), then round(p + Xj). [DEDUCED, log entry 14] -/
def floatLane (final : Bool) (mode : Rnd) (draw : Nat → Nat) : List Val → Val × Bool
  | [] => (Val.zero, false)
  | x :: xs => floatChunks final mode draw 1 (roundPass final mode (draw 0) x) xs

/-- An exact value rounded to an integer (R111). -/
def roundInt (mode : Rnd) (r : Nat) (v : Val) : Int :=
  match v with
  | .fin s m e =>
    let (t, q) := roundMag (m.log2 + 4096) 0 mode r m e
    let w : Int := (t <<< q.toNat : Nat)
    if s then -w else w
  | _ => 0

/-- The bound of an integer lane: ±(2^31 − 1) (R111). -/
def intMax : Int := 2 ^ 31 - 1
/-- An integer sum clamped in the final attempt, and whether it left the range (R114, R116). -/
def intStep (final : Bool) (i : Int) : Int × Bool :=
  if i > intMax then ((if final then intMax else i), true)
  else if i < -intMax then ((if final then -intMax else i), true)
  else (i, false)

/-- The sum of an integer lane (R111): each chunk rounded at its site, summed exactly; none once a chunk makes the lane NaN. -/
def intLane (final : Bool) (mode : Rnd) (draw : Nat → Nat) : Nat → Option Int × Bool → List Val → Option Int × Bool
  | _, acc, [] => acc
  | j, (none, o), _ :: xs => intLane final mode draw (j + 1) (none, o) xs
  | j, (some p, o), x :: xs =>
    if x.isFin then
      let (p', o') := intStep final (p + roundInt mode (draw j) x)
      intLane final mode draw (j + 1) (some p', o || o') xs
    else intLane final mode draw (j + 1) (none, o) xs

/-- What a lane of a pass comes to: the words written, whether it overflowed, and the value `p` the accumulator store holds. -/
structure Lane where
  words : List Nat
  ovf : Bool
  acc : Nat
  nan : Bool
  inf : Bool
  deriving DecidableEq, Repr

/-- The flush of a float lane (R112): fresh, accumulate, compensated-accumulate, compensated-fresh. `d` and `e` are the prior words,
`r` the retry number; `special` marks a lane with an infinite or NaN input, which never overflows. [DEDUCED, log entry 14] -/
def flushFloat (acc : Nat) (final : Bool) (mode : Rnd) (rw : Nat) (r : Nat) (special : Bool) (p : Val) (ovf : Bool)
    (d e : Nat) : Lane :=
  let k : Int := -8 * (r : Int)
  let d' := scaleF32 k (ofF32 d)
  let e' := scaleF32 k (ofF32 e)
  let mk := fun (ws : List Val) (o : Bool) =>
    { words := ws.map toF32, ovf := o, acc := toF32 p, nan := ws.any Val.isNan, inf := ws.any Val.isInf : Lane }
  match acc with
  | 0 => mk [p] (ovf && !special)
  | 1 =>
    let (v, o) := roundPass final mode rw (d'.add p)
    mk [v] ((ovf || o) && !(special || !d'.isFin))
  | 2 =>
    let (t, o) := roundPass final .rne 0 (d'.add p)
    let f := fun (a b : Val) => (roundPass final .rne 0 (a.add b)).1
    let c := if p.absLe d' then f (f d' t.neg) p else f (f p t.neg) d'
    mk [t, if final && o then e' else f e' c] ((ovf || o) && !(special || !d'.isFin || !e'.isFin))
  | _ => mk [p, Val.zero] (ovf && !special)

/-- The flush of an integer lane (R111, R112): the prior value times 2^(−8r), rounded to nearest even, added exactly. -/
def flushInt (acc : Nat) (final : Bool) (r : Nat) (p : Option Int) (ovf : Bool) (d : Nat) : Lane :=
  let nanLane : Lane := { words := [0x80000000], ovf := false, acc := 0x80000000, nan := true, inf := false }
  match p with
  | none => nanLane
  | some p =>
    let mk := fun (i : Int) (o : Bool) =>
      { words := [unsignedOf 32 i], ovf := o, acc := unsignedOf 32 p, nan := false, inf := false : Lane }
    if acc = 0 then mk p ovf
    else if d = 0x80000000 then nanLane
    else
      let d' := roundInt .rne 0 ((ofScaledInt (signedOf 32 d) 0).scale (-8 * (r : Int)))
      let (v, o) := intStep final (d' + p)
      mk v (ovf || o)

/-- The operands of a pass as its descriptor names them (R105, R106). -/
structure PassArgs where
  cls : Nat
  fa : Nat
  fw : Nat
  mode : Rnd
  acc : Nat
  rnr : Bool
  site : Nat
  rows : Nat
  cols : Nat
  k : Nat
  sxa : Int
  sxw : Int
  qexp : Int
  aElem : Nat
  aScale : Nat
  wElem : Nat
  wScale : Nat
  dst : Nat
  aEs : Nat
  aSs : Nat
  wEs : Nat
  wSs : Nat
  deriving DecidableEq, Repr

/-- The pass a descriptor names (R106). -/
def passArgs (d : Bytes) : PassArgs :=
  let fa := ctrlBits d 27 24
  let fw := ctrlBits d 23 20
  { cls := (mxeClass fa fw).getD 0, fa := fa, fw := fw, mode := Rnd.ofCode (ctrlBits d 19 18), acc := ctrlBits d 17 16,
    rnr := ctrlBits d 15 15 = 1, site := fieldAt d 4 2, rows := fieldAt d 6 1, cols := fieldAt d 7 1, k := 64 * fieldAt d 8 2,
    sxa := signedOf 8 (fieldAt d 10 1), sxw := signedOf 8 (fieldAt d 11 1), qexp := signedOf 8 (fieldAt d 12 1),
    aElem := fieldAt d 16 4, aScale := fieldAt d 20 4, wElem := fieldAt d 24 4, wScale := fieldAt d 28 4, dst := fieldAt d 32 4,
    aEs := 64 * fieldAt d 36 2, aSs := 4 * fieldAt d 38 2, wEs := 64 * fieldAt d 40 2, wSs := 4 * fieldAt d 42 2 }

/-- Element k of a row or lane (R105): its block decode times 2^SX, exactly. -/
def operandElem (rd : Nat → Byte) (fmt el sc : Nat) (sx : Int) (i : Nat) : Val :=
  (readElem fmt (fun j => rd (el + j)) (fun j => rd (sc + j)) i).scale sx
/-- The operands of a lane: A[m][k] and W[n][k]. -/
def PassArgs.a (g : PassArgs) (rd : Nat → Byte) (m k : Nat) : Val :=
  operandElem rd g.fa (g.aElem + m * g.aEs) (g.aScale + m * g.aSs) g.sxa k
def PassArgs.wt (g : PassArgs) (rd : Nat → Byte) (n k : Nat) : Val :=
  operandElem rd g.fw (g.wElem + n * g.wEs) (g.wScale + n * g.wSs) g.sxw k
/-- The products of a chunk summed exactly, times 2^(−8 Ra) (R110); in the integer classes also over 2^QEXP (R111). -/
def PassArgs.chunk (g : PassArgs) (rd : Nat → Byte) (ra m n j : Nat) : Val :=
  let c := mxeChunk g.cls
  let ps := (List.range c).map fun i => (g.a rd m (c * j + i)).mul (g.wt rd n (c * j + i))
  let x := match ps with
    | [] => Val.zero
    | y :: ys => ys.foldl Val.add y
  x.scale (-8 * (ra : Int) - (if mxeInt g.cls then g.qexp else 0))
/-- Whether a lane has an infinite or NaN input (R112). -/
def PassArgs.special (g : PassArgs) (rd : Nat → Byte) (m n : Nat) : Bool :=
  (List.range g.k).any fun i => !(g.a rd m i).isFin || !(g.wt rd n i).isFin
/-- An integer chunk that holds a NaN scale or an infinite decode makes its lane NaN (R111). -/
def PassArgs.intChunk (g : PassArgs) (rd : Nat → Byte) (ra m n j : Nat) : Val :=
  let c := mxeChunk g.cls
  if (List.range c).any fun i => !(g.a rd m (c * j + i)).isFin || !(g.wt rd n (c * j + i)).isFin then .nan
  else g.chunk rd ra m n j
/-- Chunks of K (R110). -/
def PassArgs.nch (g : PassArgs) : Nat := g.k / mxeChunk g.cls
/-- The word of a prior tile at lane (m, n): the value, or the error term of a pair (R108). -/
def PassArgs.prior (g : PassArgs) (rd : Nat → Byte) (m n off : Nat) : Nat :=
  let base := g.dst + 64 + m * accRow (passKind g.cls g.acc) + n * (if g.acc ≥ 2 then 8 else 4) + off
  leNat ((List.range 4).map fun i => rd (base + i))
/-- Lane (m, n) of an attempt (R110 to R116). -/
def PassArgs.lane (g : PassArgs) (rd : Nat → Byte) (dw : Draw) (rsx r : Nat) (final : Bool) (m n : Nat) : Lane :=
  let draw := fun j => drawWord dw (g.site + j) (64 * m + n)
  let d := if g.acc = 1 || g.acc = 2 then g.prior rd m n 0 else 0
  if mxeInt g.cls then
    let xs := (List.range g.nch).map (g.intChunk rd (rsx + r) m n)
    let (p, o) := intLane final g.mode draw 0 (some 0, false) xs
    flushInt g.acc final r p (o && p.isSome) d
  else
    let xs := (List.range g.nch).map (g.chunk rd (rsx + r) m n)
    let (p, o) := floatLane final g.mode draw xs
    flushFloat g.acc final g.mode (draw g.nch) r (g.special rd m n) p o d (if g.acc = 2 then g.prior rd m n 4 else 0)
/-- Every lane of an attempt, row by row. [DEDUCED, log entry 14] -/
def PassArgs.lanes (g : PassArgs) (rd : Nat → Byte) (dw : Draw) (rsx r : Nat) (final : Bool) : List (List Lane) :=
  (List.range g.rows).map fun m => (List.range g.cols).map fun n => g.lane rd dw rsx r final m n
/-- Agate2 reserved codes that an attempt reads (R78, R120). -/
def PassArgs.invalid (g : PassArgs) (rd : Nat → Byte) : Nat :=
  ((List.range g.cols).map fun n =>
    ((List.range g.k).filter fun i => isReservedAgate2 g.fw (fun j => rd (g.wElem + n * g.wEs + j)) i).length).sum

/-- The header a pass writes (R108, R109): RSX, the sticky flags and the two counts carry on from the prior header unless the pass is
fresh. [DEDUCED, log entry 14] -/
def PassArgs.header (g : PassArgs) (prior : Bytes) (rsx r sat ticket : Nat) (final nan inf : Bool) : Bytes :=
  let fresh := g.acc = 0 || g.acc = 3
  let flags := (if fresh then 0 else fieldAt prior 6 2 % 16) ||| (b2n final + 2 * b2n (0 < r) + 4 * b2n nan + 8 * b2n inf)
  let passes := if fresh then 1 else fieldAt prior 8 4 + 1
  let sats := (if fresh then 0 else fieldAt prior 12 4) + sat
  leBytes 1 (passKind g.cls g.acc) ++ leBytes 1 (rsx + r) ++ leBytes 1 (unsignedOf 8 g.qexp) ++ leBytes 1 r ++ leBytes 1 g.rows ++
    leBytes 1 g.cols ++ leBytes 2 flags ++ leBytes 4 passes ++ leBytes 4 sats ++ leBytes 2 g.site ++ [0, 0] ++ leBytes 4 ticket ++
    List.replicate 40 0
/-- The ranges an attempt reads: rows and lanes of both planes, and the prior tile of an accumulating pass. -/
def PassArgs.reads (g : PassArgs) : List (Nat × Nat) :=
  ((List.range g.rows).flatMap fun m =>
      [(g.aElem + m * g.aEs, elemBytes g.fa g.k), (g.aScale + m * g.aSs, scaleBytes g.fa g.k)]) ++
    ((List.range g.cols).flatMap fun n =>
      [(g.wElem + n * g.wEs, elemBytes g.fw g.k), (g.wScale + n * g.wSs, scaleBytes g.fw g.k)]) ++
    (if g.acc = 1 || g.acc = 2 then
      let kind := passKind g.cls g.acc
      (g.dst, 64) :: (List.range g.rows).map fun m => (g.dst + 64 + m * accRow kind, g.cols * mxeLaneBytes kind)
    else [])
/-- What the flush writes (R119): each row's lanes, then the header. -/
def PassArgs.flushOf (g : PassArgs) (ls : List (List Lane)) (header : Bytes) : List (Nat × Bytes) :=
  (ls.mapIdx fun m row => (g.dst + 64 + m * accRow (passKind g.cls g.acc),
      row.flatMap fun l => l.words.flatMap fun w => leBytes 4 w)) ++ [(g.dst, header)]

/-- The last two weight blocks as the weight buffers hold them (R103). [DESIGN CHOICE, log entry 15] -/
def PassArgs.buffers (g : PassArgs) (rd : Nat → Byte) : Bytes :=
  let kp := mxeKp g.cls
  let bw := kp * (fmtInfo g.fw).bits / 8
  let kb := (g.k + kp - 1) / kp
  ((List.range (min kb 2)).map fun i => kb - min kb 2 + i).flatMap fun j => (List.range g.cols).flatMap fun n =>
    (List.range (min bw (elemBytes g.fw g.k - j * bw))).map fun b => rd (g.wElem + n * g.wEs + j * bw + b)

/-- The random-word source of a tile (R89): seed and step of its partition's job, and its logical number; 0 on a tile that holds no logical
position, which R89 leaves open. [DESIGN CHOICE, log entry 9] -/
def State.drawAt (s : State) (t : TileId) : Draw :=
  match s.partOf t with
  | some p => { seed := (s.part p).seed, step := (s.part p).step.toNat, n := (s.nOf t).getD 0 }
  | none => { seed := 0, step := 0, n := (s.nOf t).getD 0 }

/-- Ranges read by an engine: what blocks them, waits for them, and is refused in them. -/
structure ReadCheck where
  block : Option (Fin 16 × Nat)
  waits : Bool
  off : Option Nat
  slots : List (Fin 16 × Nat)
  deriving DecidableEq, Repr
/-- The read check of an endpoint over ranges (R158, R159, R181, R182). -/
def State.readCheck (s : State) (t : TileId) (ep : Nat) (rs : List (Nat × Nat)) : ReadCheck :=
  let v := s.tile t
  let st := s.stepAt t
  { block := rs.findSome? fun (a, k) => v.readBlock ep a k
    waits := rs.any fun (a, k) => v.clearing s.member st a k
    off := rs.findSome? fun (a, k) => v.bankHit s.member st (· = .off) a k
    slots := rs.flatMap fun (a, k) => v.readsOf ep a k }

/-- Pieces of a flush written from byte `pos` on, in order: bytes placed so far, and what stopped it. -/
def Tile.writePieces (m : Member) (step ep : Nat) : Tile → List (Nat × Bytes) → Nat → Wrote
  | v, [], _ => { count := 0, tile := v }
  | v, (a, bs) :: rest, pos =>
    if bs.length ≤ pos then
      let w := Tile.writePieces m step ep v rest (pos - bs.length)
      { w with count := w.count + bs.length }
    else
      let w := v.writeRun m step ep (a + pos) (bs.drop pos)
      if w.block.isSome then { w with count := pos + w.count }
      else
        let w' := Tile.writePieces m step ep w.tile rest 0
        { w' with count := bs.length + w'.count, refused := w.refused.or w'.refused }

/-- An engine's writes go on from where they stopped; the slot is finished when all are placed, and notes the ring that blocks it
otherwise (R157, R159, R181). [DESIGN CHOICE, log entry 15] -/
def State.writeOut (s : State) (t : TileId) (e : Eng) (x : Slot) (ps : List (Nat × Bytes)) : State :=
  let v := s.tile t
  if ps.any fun (a, bs) => v.clearing s.member (s.stepAt t) a bs.length then s
  else
    let w := v.writePieces s.member (s.stepAt t) (engCode e) ps x.pos
    let beat := s.beatAt t
    let s1 := s.setTile t (w.tile.modSlot e x.num fun y => match w.block with
      | some b => { (y.stallAt true beat b) with pos := w.count }
      | none => { y with pos := w.count, stall := none, finished := true })
    s1.bankFault t e x w.refused

/-- Writes that a ring or a bank has held go on, with what the ECC of the words they merge into shows (R153). -/
def State.resumeOut (s : State) (t : TileId) (e : Eng) (x : Slot) (ps : List (Nat × Bytes)) (ecc : Ecc) : State :=
  if ps.any fun (a, bs) => (s.tile t).clearing s.member (s.stepAt t) a bs.length then s
  else ((s.upset t ecc).eccRead t (engCode e) x.num.val x.pc.toNat ecc).writeOut t e x ps

/-- A lane whose accumulator word was uncorrectable, completed with the word as read (R94): its value is free, and what is computed from it
follows. -/
def Lane.upset (int : Bool) (d : Nat) (l : Lane) : Lane :=
  let w := fun i => leNat ((List.range 4).map fun j => Config.upsetByte d (4 * i + j))
  let ws := (List.range l.words.length).map w
  { l with words := ws, acc := w 2, nan := ws.any (fun x => if int then x = 0x80000000 else (ofF32 x).isNan)
           inf := !int && ws.any fun x => (ofF32 x).isInf }
/-- The lanes of an attempt after the ECC of the accumulator store: a store of 128 rows of 64 words. [DESIGN CHOICE, log entry 86] -/
def PassArgs.eccLanes (g : PassArgs) (ecc : Ecc) (d : Nat) (ls : List (List Lane)) : List (List Lane) :=
  match ecc with
  | .accum a _ => ls.mapIdx fun m row => row.mapIdx fun n l =>
      if 64 * m + n = a.toNat / 4 then l.upset (mxeInt g.cls) d else l
  | _ => ls
/-- An attempt of the pass ends (R114 to R116): a retry starts, the final attempt starts, or the results stand and the flush begins. [DEDUCED, log entry 14] -/
def State.mxeAttempt (s : State) (t : TileId) (x : Slot) (ecc : Ecc) : State :=
  let g := passArgs x.desc
  let rc := s.readCheck t 1 g.reads
  if rc.waits then s
  else match rc.block with
  | some b => s.modTile t fun v => v.modSlot .mxe x.num fun y => y.stallAt false (s.beatAt t) b
  | none =>
    let u := s.upset t ecc
    let v := u.tile t
    let rd := fun a => v.byte s.member (tileKey t) (s.stepAt t) a
    let prior := u.spadRead t g.dst 64
    let rsx := if g.acc = 1 || g.acc = 2 then fieldAt prior 1 1 else 0
    let p := v.pass
    let ls := g.eccLanes ecc s.draws (g.lanes rd (s.drawAt t) rsx p.r p.final)
    let ovf := (ls.flatten.filter (·.ovf)).length
    let s1 := (u.eccRead t 1 x.num.val x.pc.toNat ecc).bankFault t .mxe x rc.off
    let s2 := s1.modTile t fun v => { (v.modSlot .mxe x.num fun y => { y with reads := rc.slots, stall := none }) with
      accum := ls.flatten.map fun l => BitVec.ofNat 32 l.acc
      wbuf := g.buffers rd
      counters := { v.counters with invalidCode := satAdd v.counters.invalidCode (g.invalid rd) } }
    if 0 < ovf && !p.final then
      if p.r < 3 && !g.rnr && rsx + p.r + 1 ≤ 15 then
        s2.modTile t fun v => { v with
          pass := { p with r := p.r + 1 }
          progress := v.progress.bump .mxe
          counters := { v.counters with mxeRetries := satAdd v.counters.mxeRetries 1 } }
      else s2.modTile t fun v => { v with pass := { p with final := true }, progress := v.progress.bump .mxe }
    else
      let hdr := g.header prior rsx p.r ovf x.ticket.toNat p.final (ls.flatten.any (·.nan)) (ls.flatten.any (·.inf))
      let ps := g.flushOf ls hdr
      let s3 := s2.modTile t fun v => { v with pass := { p with flush := some ps } }
      let s4 := if p.final then
          (s3.engFault t .mxe x 0x0D (physAddr (s.tile t).carries (s.stepAt t) g.dst) ovf false).modTile t fun v => { v with
            counters := { v.counters with
              mxeLimits := satAdd v.counters.mxeLimits 1
              mxeSatlanes := satAdd v.counters.mxeSatlanes ovf } }
        else s3
      s4.writeOut t .mxe x ps

/-- The head of an engine's queue. -/
def State.headOf (s : State) (t : TileId) (e : Eng) : Option Slot := ((s.tile t).q e).slots.head?

/-- MXE_PASS_START (R117): the head of the queue starts when its binding and dependency allow it. -/
def execMxePassStart (t : TileId) (s : State) : Host.Outcome State Fault Refusal :=
  s.onTile t fun s => match s.headOf t .mxe with
    | some x =>
      if !x.started && s.mayStart t x (depEngOf .mxe x.desc) (depTicketOf .mxe x.desc) then
        (s.atWork t x).modTile t fun v => { (v.modSlot .mxe x.num fun y => { y with started := true }) with pass := {} }
      else s
    | none => s
/-- MXE_ATTEMPT_END (R110 to R116); a flush that a ring has blocked goes on. [DEDUCED, log entry 14] -/
def execMxeAttemptEnd (t : TileId) (ecc : Ecc) (s : State) : Host.Outcome State Fault Refusal :=
  s.onTile t fun s => match s.headOf t .mxe with
    | some x =>
      if x.started && !x.finished && s.tileLive t then
        match (s.tile t).pass.flush with
        | some ps => s.resumeOut t .mxe x ps ecc
        | none => s.mxeAttempt t x ecc
      else s
    | none => s
/-- MXE_PASS_COMPLETE (R119, R120): the header has been accepted; the count increments, the slot frees, the pass counts. -/
def execMxePassComplete (t : TileId) (s : State) : Host.Outcome State Fault Refusal :=
  s.onTile t fun s => match s.headOf t .mxe with
    | some x =>
      if x.finished then
        s.modTile t fun v => { (v.completeHead .mxe) with
          pass := {}
          counters := { v.counters with mxePasses := satAdd v.counters.mxePasses 1 } }
      else s
    | none => s

end Sys2Proof.Machine
end

