-- ==== Sys2Proof/Machine/Special.lean ====
section
/-!
DEFINITION. The special functions of the VXE (05 R128, R129): correctly rounded FP32 results. Each is computed from integers
alone: fixed-point values with 320 fractional bits and a sticky bit, far finer than any FP32 argument can need, or exactly
where the result is a dyadic number.
-/

namespace Sys2Proof.Machine

/-- Fractional bits of the fixed-point work. -/
def fxBits : Nat := 320

/-- One, in fixed point. -/
def fxOne : Nat := 2 ^ fxBits

/-- A nonzero fixed-point result that is not exactly representable, with the sticky bit that says so. -/
def ofFx (neg : Bool) (v : Nat) (k : Int) : Val := .fin neg (2 * v + 1) (k - (fxBits : Int) - 1)

/-- The terms of Σ z^(2i+1) / (2i+1), `zz` being z² and `p` the running power. -/
def atanhSum (zz : Nat) : Nat → Nat → Nat → Nat
  | 0, _, _ => 0
  | fuel + 1, i, p => p / (2 * i + 1) + atanhSum zz fuel (i + 1) (p * zz / fxOne)

/-- 2 atanh(n / d) in fixed point, for n / d at most 1/3. -/
def fxLnRatio (n d : Nat) : Nat :=
  let z := n * fxOne / d
  2 * atanhSum (z * z / fxOne) 110 0 z

/-- ln 2 in fixed point. -/
def fxLn2 : Nat := fxLnRatio 1 3

/-- The Taylor terms of e^r from term `i` on, `t` being r^i / i!. -/
def expSum (r : Nat) : Nat → Nat → Nat → Nat
  | 0, _, _ => 0
  | fuel + 1, i, t => t + expSum r fuel (i + 1) (t * r / fxOne / (i + 1))

/-- e^x for x given as a signed fixed-point number: the mantissa in fixed point and the power of two it is multiplied by. -/
def fxExp (x : Int) : Nat × Int :=
  let k := x / (fxLn2 : Int)
  let r := (x - k * (fxLn2 : Int)).toNat
  (expSum r 100 0 fxOne, k)

/-- A finite value as a signed fixed-point number, cut toward minus infinity. -/
def toFx : Val → Int
  | .fin s m e =>
    let sh := e + (fxBits : Int)
    let a : Int := if sh ≥ 0 then ((m <<< sh.toNat : Nat) : Int) else ((m >>> (-sh).toNat : Nat) : Int)
    if s then -a else a
  | _ => 0

/-- The integer a finite value is, if it is one. -/
def asInteger : Val → Option Int
  | .fin s m e =>
    if m = 0 then some 0
    else if e ≥ 0 then some (if s then -((m <<< e.toNat : Nat) : Int) else ((m <<< e.toNat : Nat) : Int))
    else if m % 2 ^ (-e).toNat = 0 then
      some (if s then -((m >>> (-e).toNat : Nat) : Int) else ((m >>> (-e).toNat : Nat) : Int))
    else none
  | _ => none

/-- Whether a finite magnitude is at least 2^k. -/
def absGe (v : Val) (k : Int) : Bool := (Val.fin false 1 k).absLe v

/-- EXP (R128). [UNVERIFIED, log entry 79] -/
def fexp : Val → Val
  | .nan => .nan
  | .inf s => if s then Val.zero else .inf false
  | .fin s m e =>
    if m = 0 then .fin false 1 0
    else if absGe (.fin s m e) 8 then (if s then Val.zero else .inf false)
    else let (v, k) := fxExp (toFx (.fin s m e)); rne (ofFx false v k)

/-- EXP2 (R128): an integer argument gives an exact power of two. [UNVERIFIED, log entry 79] -/
def fexp2 : Val → Val
  | .nan => .nan
  | .inf s => if s then Val.zero else .inf false
  | .fin s m e =>
    if absGe (.fin s m e) 9 then (if s then Val.zero else .inf false)
    else
      match asInteger (.fin s m e) with
      | some i => rne (.fin false 1 i)
      | none =>
        let (v, k) := fxExp (toFx (.fin s m e) * (fxLn2 : Int) / (fxOne : Int))
        rne (ofFx false v k)

/-- ln of a positive finite value m × 2^e, signed fixed point. -/
def fxLn (m : Nat) (e : Int) : Int :=
  let l := bitLen m - 1
  let one := 2 ^ l
  (e + (l : Int)) * (fxLn2 : Int) + (fxLnRatio (m - one) (m + one) : Int)

/-- A signed fixed-point result that is not a dyadic number, rounded. [UNVERIFIED, log entry 79] -/
def roundFx (x : Int) : Val := rne (ofFx (decide (x < 0)) x.natAbs 0)

/-- Whether m × 2^e is a power of two, and which. -/
def asPow2 (m : Nat) (e : Int) : Option Int :=
  if m = 2 ^ (bitLen m - 1) then some (e + (bitLen m : Int) - 1) else none

/-- LOG (R128). [UNVERIFIED, log entry 79] -/
def flog : Val → Val
  | .nan => .nan
  | .inf s => if s then .nan else .inf false
  | .fin s m e =>
    if m = 0 then .inf true
    else if s then .nan
    else if asPow2 m e = some 0 then Val.zero
    else roundFx (fxLn m e)

/-- LOG2 (R128): a power of two gives its exponent exactly. [UNVERIFIED, log entry 79] -/
def flog2 : Val → Val
  | .nan => .nan
  | .inf s => if s then .nan else .inf false
  | .fin s m e =>
    if m = 0 then .inf true
    else if s then .nan
    else
      match asPow2 m e with
      | some k => rne (ofScaledInt k 0)
      | none => roundFx (fxLn m e * (fxOne : Int) / (fxLn2 : Int))

/-- TANH (R128). Below 2^-40 the argument itself is the nearest FP32 value. [UNVERIFIED, log entry 79] -/
def ftanh : Val → Val
  | .nan => .nan
  | .inf s => .fin s 1 0
  | .fin s m e =>
    let v := Val.fin s m e
    if m = 0 then v
    else if !absGe v (-40) then rne v
    else if absGe v 5 then .fin s 1 0
    else
      let (a, k) := fxExp (2 * toFx v.abs)
      let big := a <<< k.toNat
      rne (ofFx s ((big - fxOne) * fxOne / (big + fxOne)) 0)

/-- The integer square root of `v`, below 2^fuel. -/
def isqrt (v fuel : Nat) : Nat := rootBits 2 v fuel 0

/-- SQRT (R128). [UNVERIFIED, log entry 79] -/
def fsqrt : Val → Val
  | .nan => .nan
  | .inf s => if s then .nan else .inf false
  | .fin s m e =>
    if m = 0 then .fin s 0 0
    else if s then .nan
    else
      let odd := decide (e % 2 = 1)
      let m' := (if odd then 2 * m else m) <<< 96
      let e' := (if odd then e - 1 else e) - 96
      let q := isqrt m' (bitLen m' / 2 + 1)
      rne (.fin false (2 * q + (if q * q = m' then 0 else 1)) (e' / 2 - 1))

/-- RSQRT (R128). [UNVERIFIED, log entry 79] -/
def frsqrt : Val → Val
  | .nan => .nan
  | .inf s => if s then .nan else Val.zero
  | .fin s m e =>
    if m = 0 then .inf s
    else if s then .nan
    else
      let odd := decide (e % 2 = 1)
      let m' := if odd then 2 * m else m
      let e' := if odd then e - 1 else e
      let k := bitLen m' + 64
      let q := isqrt (2 ^ (2 * k) / m') (k + 1)
      rne (.fin false (2 * q + (if q * q * m' = 2 ^ (2 * k) then 0 else 1)) (-(e' / 2) - (k : Int) - 1))

/-- RECIP (R128). [UNVERIFIED, log entry 79] -/
def frecip (v : Val) : Val := fdiv (.fin false 1 0) v

/-- GELU, in exactly the order of R129. The sequence itself gives NaN for a NaN or −infinity, and +infinity for +infinity. [UNVERIFIED, log entry 79] -/
def fgelu (x : Val) : Val :=
  let u := fmul x x
  let g1 := ffma (ofF32 0x3d372713) u (.fin false 1 0)
  let g2 := fmul x g1
  let g3 := fmul (ofF32 0x3f4c422a) g2
  let g4 := ftanh g3
  let g5 := fadd (.fin false 1 0) g4
  fmul (fmul (.fin false 1 (-1)) x) g5

/-- SMEXP (R128): EXP of rne(a − s). [UNVERIFIED, log entry 79] -/
def fsmexp (a s : Val) : Val := fexp (fsub a s)

end Sys2Proof.Machine
end

