-- ==== Sys2Proof/Machine/Vxe.lean ====
section
/-!
DEFINITION. The vector engine (R122 to R148, R495): element-wise functions, reduction records and their one tree, combines, facets and
top-k lists.
-/

namespace Sys2Proof.Machine

/-! Pairs and records. -/

/-- One step of the pair combine of R131, left pair first: s, then e. -/
def pairAdd (l r : Val × Val) : Val × Val :=
  let t := fadd l.1 r.1
  if !t.isFin then (t, l.2)
  else
    let c := if r.1.absLe l.1 then fadd (fsub l.1 t) r.1 else fadd (fsub r.1 t) l.1
    (t, fadd (fadd l.2 r.2) c)
/-- The Neumaier step of R112 and R133: p enters (s, e); a t that is not finite leaves e. -/
def neumaier (s e p : Val) : Val × Val :=
  let t := fadd s p
  if !t.isFin then (t, e)
  else (t, fadd e (if p.absLe s then fadd (fsub s t) p else fadd (fsub p t) s))

/-- A reduction record (R130); A, B, FA and FB as FP32 words. -/
structure Rec where
  kind : Nat
  flags : Nat
  count : Nat
  a : Nat
  b : Nat
  fa : Nat
  fb : Nat
  deriving DecidableEq, Repr

/-- The empty record of a kind. [DESIGN CHOICE, log entry 16] -/
def Rec.empty (kind : Nat) : Rec := { kind := kind, flags := 0, count := 0, a := 0, b := 0, fa := 0, fb := 0 }
/-- A record read from its 32 bytes. -/
def parseRec (bs : Bytes) : Rec :=
  { kind := fieldAt bs 0 1, flags := fieldAt bs 1 1, count := fieldAt bs 8 8, a := fieldAt bs 16 4, b := fieldAt bs 20 4,
    fa := fieldAt bs 24 4, fb := fieldAt bs 28 4 }
/-- The 32 bytes of a record. -/
def Rec.bytes (r : Rec) : Bytes :=
  leBytes 1 r.kind ++ leBytes 1 r.flags ++ List.replicate 6 0 ++ leBytes 8 r.count ++ leBytes 4 r.a ++ leBytes 4 r.b ++
    leBytes 4 r.fa ++ leBytes 4 r.fb
/-- FLAGS[1:0] that a value calls for (R133). -/
def valFlags (v : Val) : Nat := b2n v.isNan + 2 * b2n v.isInf
/-- A record with the flags its A and B call for (R133). -/
def Rec.marked (r : Rec) (more : Nat) : Rec :=
  { r with flags := r.flags ||| more ||| valFlags (ofF32 r.a) ||| valFlags (ofF32 r.b) }
/-- An FP32 count (R132). -/
def fp32Count (k : Nat) : Val := ofInt .rne 0 k
/-- The canonical FP32 NaN. -/
def nanWord : Nat := 0x7FC00000
/-- An FP32 word as a result carries it: a NaN becomes the canonical one (R68). -/
def canonF32 (w : Nat) : Nat := if (ofF32 w).isNan then nanWord else w

/-- Left and right records combined (R131, R132, R134). [DESIGN CHOICE, log entry 16] -/
def Rec.combine (l r : Rec) : Rec :=
  if l.count = 0 then r
  else if r.count = 0 then l
  else
    let count := (l.count + r.count) % 2 ^ 64
    let flags := l.flags ||| r.flags
    let mk := fun (a b : Val) => (Rec.mk l.kind flags count (toF32 a) (toF32 b) 0 0).marked 0
    let la := ofF32 l.a
    let lb := ofF32 l.b
    let ra := ofF32 r.a
    let rb := ofF32 r.b
    if l.kind ≠ r.kind then
      (Rec.mk 0 (flags ||| 4) count (Config.mergeWord l.a r.a).toNat (Config.mergeWord l.b r.b).toNat nanWord nanWord).marked 0
    else match l.kind with
      | 1 => let (s, e) := pairAdd (la, lb) (ra, rb); mk s e
      | 2 => let (s, e) := pairAdd (la, lb) (ra, rb); mk s e
      | 3 =>
        let fl := fp32Count l.count
        let d := fsub ra la
        let w := fdiv (fp32Count r.count) (fp32Count (l.count + r.count))
        mk (ffma d w la) (fadd (fadd lb rb) (fmul (fmul d d) (fmul fl w)))
      | 4 => mk (la.max ra) Val.zero
      | 5 => mk (la.min ra) Val.zero
      | k => (Rec.mk k flags count (Config.mergeWord l.a r.a).toNat (Config.mergeWord l.b r.b).toNat 0 0).marked 0

/-- One element enters an accumulator (R133). -/
def Rec.enter (acc : Rec) (x : Val) : Rec :=
  let sum := fun (p : Val) =>
    let (s, e) := neumaier (ofF32 acc.a) (ofF32 acc.b) p
    ({ acc with count := acc.count + 1, a := toF32 s, b := toF32 e } : Rec).marked (valFlags x)
  match acc.kind with
  | 1 => sum x
  | 2 => sum (fmul x x)
  | k => acc.combine ((Rec.mk k 0 1 (toF32 x) 0 0 0).marked 0)

/-- One level of the tree of R136 with stride 2^l: neighbours that far apart merge, lower rank on the left. -/
def treeLevel {α : Type} (f : α → α → α) : List α → List α
  | a :: b :: rest => f a b :: treeLevel f rest
  | rest => rest
/-- The tree of R136 over P ranks: after each level the records that stand are the ones of the next. -/
def treeMerge {α : Type} (f : α → α → α) : Nat → List α → Option α
  | _, [] => none
  | _, [a] => some a
  | 0, a :: _ => some a
  | fuel + 1, as => treeMerge f fuel (treeLevel f as)

/-- KIND of a reduction FUNC (R135). -/
def kindOf (func : Nat) : Nat :=
  match func with
  | 1 => 1
  | 2 => 2
  | 3 => 3
  | 4 => 3
  | 5 => 4
  | _ => 5
/-- Elements `j`, `j + 512`, … of a list enter accumulator `j` in increasing index (R135). -/
def lane512 (kind : Nat) (xs : List Val) (j : Nat) : Rec :=
  ((List.range ((xs.length + 511 - j) / 512)).foldl (fun acc q => acc.enter (xs.getD (512 * q + j) Val.zero)) (Rec.empty kind))
/-- The 512 accumulators of a list, merged (R135, R136). -/
def reduceList (kind : Nat) (xs : List Val) : Rec :=
  (treeMerge Rec.combine 9 ((List.range 512).map (lane512 kind xs))).getD (Rec.empty kind)
/-- The finished fields written last (R134). -/
def Rec.finish (r : Rec) (func : Nat) : Rec :=
  match r.kind with
  | 1 => { r with fa := if r.count = 0 then 0 else toF32 (fadd (ofF32 r.a) (ofF32 r.b)), fb := 0 }
  | 2 => { r with fa := if r.count = 0 then 0 else toF32 (fadd (ofF32 r.a) (ofF32 r.b)), fb := 0 }
  | 3 => { r with
      fa := if r.count = 0 then nanWord else canonF32 r.a
      fb := if func = 4 then (if r.count ≤ 1 then nanWord else toF32 (fdiv (ofF32 r.b) (fp32Count (r.count - 1))))
        else toF32 (fdiv (ofF32 r.b) (fp32Count r.count)) }
  | 4 => { r with fa := if r.count = 0 then nanWord else canonF32 r.a, fb := 0 }
  | 5 => { r with fa := if r.count = 0 then nanWord else canonF32 r.a, fb := 0 }
  | 0 => { r with fa := nanWord, fb := nanWord }
  | _ => { r with fa := (Config.mergeWord r.a r.b).toNat, fb := (Config.mergeWord r.b r.a).toNat }

/-! Top-k lists. -/

/-- An entry of a top-k list (R145); KEY, A and B as FP32 words. -/
structure TopEntry where
  key : Nat
  a : Nat
  b : Nat
  pos : Nat
  tile : Nat
  deriving DecidableEq, Repr

/-- The ranking of R143: the first entry stands before the second. -/
def TopEntry.before (x y : TopEntry) : Bool :=
  let vx := ofF32 x.key
  let vy := ofF32 y.key
  let tie := x.pos < y.pos || (x.pos = y.pos && x.tile ≤ y.tile)
  if vx.isNan then (if vy.isNan then tie else true)
  else if vy.isNan then false
  else if vx.isZero && vy.isZero then tie
  else if vy.lt vx then true
  else if vx.lt vy then false
  else tie
/-- An entry put at its rank. -/
def topInsert (x : TopEntry) : List TopEntry → List TopEntry
  | [] => [x]
  | y :: ys => if x.before y then x :: y :: ys else y :: topInsert x ys
/-- The k best of some entries, best first. [DESIGN CHOICE, log entry 16] -/
def topBest (k : Nat) (xs : List TopEntry) : List TopEntry :=
  xs.foldl (fun acc x => (topInsert x acc).take k) []
/-- K and the entries of a list's 544 bytes (R145). -/
def parseTop (bs : Bytes) : Nat × List TopEntry :=
  (fieldAt bs 0 1, (List.range (min (fieldAt bs 1 1) 16)).map fun i =>
    let o := 32 + 32 * i
    { key := fieldAt bs o 4, a := fieldAt bs (o + 4) 4, b := fieldAt bs (o + 8) 4, pos := fieldAt bs (o + 16) 8,
      tile := fieldAt bs (o + 24) 2 })
/-- The entries of a list as bytes, zero beyond VALID. -/
def topBody (xs : List TopEntry) : Bytes :=
  padTo 512 (xs.flatMap fun e => leBytes 4 (canonF32 e.key) ++ leBytes 4 (canonF32 e.a) ++ leBytes 4 (canonF32 e.b) ++ leBytes 4 0 ++ leBytes 8 e.pos ++
    leBytes 2 e.tile ++ List.replicate 6 0)
/-- The 544 bytes of a list. -/
def topBytes (k : Nat) (xs : List TopEntry) : Bytes :=
  leBytes 1 k ++ leBytes 1 xs.length ++ List.replicate 30 0 ++ topBody xs

/-! Operands. -/

/-- A VXE descriptor's operands (R122), the random words of its sites, and the bytes it reads by operand. -/
structure VxeArgs where
  op : Nat
  func : Nat
  fi : Nat
  fo : Nat
  mode : Rnd
  acc : Bool
  fin : Bool
  ska : Nat
  skb : Nat
  dk : Nat
  ima : Bool
  site : Nat
  sxo : Int
  len : Nat
  imm : Nat
  a : Nat
  aS : Nat
  b : Nat
  bS : Nat
  dst : Nat
  dstS : Nat
  aux : Nat
  base : Nat
  tid : Nat
  deriving DecidableEq, Repr

/-- The operands a descriptor names. -/
def vxeArgs (d : Bytes) : VxeArgs :=
  { op := ctrlBits d 31 28, func := ctrlBits d 7 2, fi := ctrlBits d 27 24, fo := ctrlBits d 23 20,
    mode := Rnd.ofCode (ctrlBits d 19 18), acc := ctrlBits d 17 17 = 1, fin := ctrlBits d 16 16 = 1, ska := ctrlBits d 15 14,
    skb := ctrlBits d 13 13, dk := ctrlBits d 12 12, ima := ctrlBits d 11 11 = 1, site := fieldAt d 4 2,
    sxo := signedOf 8 (fieldAt d 6 1), len := fieldAt d 8 4, imm := fieldAt d 12 4, a := fieldAt d 16 4, aS := fieldAt d 20 4,
    b := fieldAt d 24 4, bS := fieldAt d 28 4, dst := fieldAt d 32 4, dstS := fieldAt d 36 4, aux := fieldAt d 40 4,
    base := fieldAt d 48 8, tid := fieldAt d 56 4 }

/-- An accumulator tile's header as the VXE reads it (R108). -/
structure AccHeader where
  kind : Nat
  rsx : Nat
  qexp : Int
  rows : Nat
  cols : Nat
  deriving DecidableEq, Repr
/-- A header read from its 64 bytes. -/
def parseHeader (bs : Bytes) : AccHeader :=
  { kind := fieldAt bs 0 1, rsx := fieldAt bs 1 1, qexp := signedOf 8 (fieldAt bs 2 1), rows := fieldAt bs 4 1, cols := fieldAt bs 5 1 }

/-- Elements a descriptor covers: LEN, or the accumulator tile's (R124). -/
def VxeArgs.n (g : VxeArgs) (h : AccHeader) : Nat := if g.ska = 2 then h.rows * h.cols else g.len
/-- Elements an encode of n covers: whole blocks (R125). -/
def padLen (fmt n : Nat) : Nat := (n + (fmtInfo fmt).block - 1) / (fmtInfo fmt).block * (fmtInfo fmt).block
/-- The ranges a descriptor writes. -/
def VxeArgs.writes (g : VxeArgs) (n : Nat) : List (Nat × Nat) :=
  if g.op = 2 then
    if g.dk = 1 then [(g.dst, 8 * n)] else [(g.dst, elemBytes g.fo (padLen g.fo n)), (g.dstS, scaleBytes g.fo n)]
  else [(g.dst, recordBytes g.op g.func)]
/-- The ranges of a plain or pair source. -/
def srcRanges (sk fmt x xs n : Nat) : List (Nat × Nat) :=
  if sk = 1 then [(x, 8 * n)] else [(x, elemBytes fmt n), (xs, scaleBytes fmt n)]
/-- The ranges a descriptor reads. -/
def VxeArgs.reads (g : VxeArgs) (h : AccHeader) : List (Nat × Nat) :=
  let n := g.n h
  let size := recordBytes g.op g.func
  if g.op = 4 then [(g.a, size), (g.b, size)]
  else
    (if g.op = 5 then [(g.a, 4 * n)]
      else if g.ska = 2 then [(g.a, accBytes h.kind h.rows)] else srcRanges g.ska g.fi g.a g.aS n) ++
    (if readsB g.op g.func then srcRanges g.skb g.fi g.b g.bS n else []) ++
    (if g.op = 2 && g.func = 4 then [(g.aux, 4 * n)] else []) ++
    (if g.ima then [(g.imm, 4)] else []) ++
    (if g.acc && g.op ≠ 2 then [(g.dst, size)] else [])

/-- What R495 finds wrong with an accumulator tile source: 1 the header, 2 an extent. SRC_B and AUX of N elements, and lanes of NCOLS above
64, are in no check of R495 and are read as they lie. [DEDUCED, log entry 17; DESIGN CHOICE, log entry 88] -/
def VxeArgs.badSource (g : VxeArgs) (m : Member) (h : AccHeader) : Option Nat :=
  if g.ska ≠ 2 || g.op = 4 then none
  else if h.kind = 0 || 3 < h.kind || h.rows = 0 || h.cols = 0 then some 1
  else if !spanOk m 2 g.a (accBytes h.kind h.rows) || (g.writes (g.n h)).any (fun (a, k) => !spanOk m 2 a k) then some 2
  else none

/-- A little-endian word at an address. -/
def wordAt (rd : Nat → Byte) (a : Nat) : Nat := leNat ((List.range 4).map fun i => rd (a + i))
/-- Element i of a source and, for pairs, its error term; pairs read as their rounded sum by functions that are not pair-aware (R124). -/
def readPair (rd : Nat → Byte) (x i : Nat) : Val × Val := (ofF32 (wordAt rd (x + 8 * i)), ofF32 (wordAt rd (x + 8 * i + 4)))
/-- Element i of a plain source (R124): INT32 converts under RND at SITE. -/
def readPlain (rd : Nat → Byte) (fmt x xs : Nat) (mode : Rnd) (draw : Nat → Nat) (i : Nat) : Val :=
  if fmt = 0xE then ofInt mode (draw i) (signedOf 32 (wordAt rd (x + 4 * i)))
  else readElem fmt (fun j => rd (x + j)) (fun j => rd (xs + j)) i
/-- Element i of an accumulator tile (R124). -/
def readAcc (rd : Nat → Byte) (h : AccHeader) (x : Nat) (mode : Rnd) (draw : Nat → Nat) (i : Nat) : Val :=
  let at_ := x + 64 + i / h.cols * accRow h.kind + i % h.cols * (if h.kind = 2 then 8 else 4)
  let w := wordAt rd at_
  let v := match h.kind with
    | 1 => ofF32 w
    | 2 => fadd (ofF32 w) (ofF32 (wordAt rd (at_ + 4)))
    | _ => if w = 0x80000000 then .nan else scaleF32 h.qexp (ofInt mode (draw i) (signedOf 32 w))
  scaleF32 (8 * (h.rsx : Int)) v
/-- Element i of source A, and of source B. -/
def VxeArgs.va (g : VxeArgs) (rd : Nat → Byte) (dw : Draw) (h : AccHeader) (i : Nat) : Val :=
  match g.ska with
  | 1 => let (s, e) := readPair rd g.a i; fadd s e
  | 2 => readAcc rd h g.a g.mode (drawWord dw g.site) i
  | _ => readPlain rd g.fi g.a g.aS g.mode (drawWord dw g.site) i
def VxeArgs.vb (g : VxeArgs) (rd : Nat → Byte) (dw : Draw) (i : Nat) : Val :=
  if g.skb = 1 then let (s, e) := readPair rd g.b i; fadd s e
  else readPlain rd g.fi g.b g.bS g.mode (drawWord dw g.site) i

/-! The work of each operation: the pieces written, saturations and NaNs counted (R88, R120). -/

/-- What a descriptor came to. -/
structure VxeOut where
  pieces : List (Nat × Bytes)
  sat : Nat := 0
  nonnum : Nat := 0
  deriving DecidableEq, Repr

/-- An element-wise function of a, b, d and s at element i (R126 to R129), before the encode. -/
def elemFunc (func : Nat) (rnd : Val → Val) (a b d s : Val) : Val :=
  match func with
  | 0x01 => rnd (a.add b)
  | 0x02 => rnd (a.sub b)
  | 0x03 => rnd (a.mul b)
  | 0x04 => rnd ((a.mul b).add d)
  | 0x05 => rnd (a.add s)
  | 0x06 => rnd (a.mul s)
  | 0x07 => rnd ((s.mul a).add b)
  | 0x08 => a.max b
  | 0x09 => a.min b
  | 0x0A => a.abs
  | 0x0B => a.neg
  | 0x10 => frecip a
  | 0x11 => fsqrt a
  | 0x12 => frsqrt a
  | 0x13 => fexp a
  | 0x14 => fexp2 a
  | 0x15 => flog a
  | 0x16 => flog2 a
  | 0x17 => ftanh a
  | 0x18 => fgelu a
  | 0x19 => fsmexp a s
  | _ => a

/-- OP 0x2 (R125 to R129). `ra`, `rb` and `rx` read the bytes of A, of B, and of AUX and the scalar. -/
def VxeArgs.elementwise (g : VxeArgs) (ra rb rx : Nat → Byte) (dw : Draw) (h : AccHeader) : VxeOut :=
  let n := g.n h
  let s := ofF32 (if g.ima then wordAt rx g.imm else g.imm)
  if g.dk = 1 then
    let pair := fun (i : Nat) =>
      if g.func = 0x0C then pairAdd (readPair ra g.a i) (readPair rb g.b i)
      else if g.func = 0x0D then pairAdd (readPair ra g.a i) (g.vb rb dw i, Val.zero)
      else (g.va ra dw h i, Val.zero)
    { pieces := [(g.dst, (List.range n).flatMap fun i =>
        let (x, e) := pair i
        leBytes 4 (toF32 (scaleF32 g.sxo x)) ++ leBytes 4 (toF32 (scaleF32 g.sxo e)))] }
  else
    let c := fun (i : Nat) =>
      let b := if readsB 2 g.func then g.vb rb dw i else Val.zero
      let d := if g.func = 4 then ofF32 (wordAt rx (g.aux + 4 * i)) else Val.zero
      scaleF32 g.sxo (elemFunc g.func (roundIeee fp32 g.mode (drawWord dw (g.site + 1) i)) (g.va ra dw h i) b d s)
    let p := encodeAll g.fo g.mode (drawWord dw (g.site + 2)) ((List.range n).map c)
    { pieces := [(g.dst, p.elems)] ++ (if p.scales = [] then [] else [(g.dstS, p.scales)]), sat := p.sat, nonnum := p.nonnum }

/-- OP 0x3 (R135). [DEDUCED, log entry 17] -/
def VxeArgs.reduce (g : VxeArgs) (ra rd : Nat → Byte) (dw : Draw) (h : AccHeader) : VxeOut :=
  let r := reduceList (kindOf g.func) ((List.range (g.n h)).map (g.va ra dw h))
  let r1 := if g.acc then (parseRec ((List.range 32).map fun i => rd (g.dst + i))).combine r else r
  let r2 := if g.func = 4 then { r1 with flags := r1.flags ||| 8 } else r1
  { pieces := [(g.dst, (if g.fin then r2.finish g.func else r2).bytes)] }

/-- OP 0x4 (R131, R141, R143, R145). -/
def VxeArgs.combine (g : VxeArgs) (ra rb : Nat → Byte) : VxeOut :=
  let bs := fun (rd : Nat → Byte) (x : Nat) => (List.range (recordBytes 4 g.func)).map fun i => rd (x + i)
  let l := bs ra g.a
  let r := bs rb g.b
  let out := match g.func with
    | 7 => leBytes 8 ((fieldAt l 0 8 + fieldAt r 0 8) % facetPrime) ++ leBytes 8 (fieldAt l 8 8 + fieldAt r 8 8)
    | 8 =>
      let (kl, xs) := parseTop l
      let (kr, ys) := parseTop r
      let k := if kl = kr then kl else Config.mergedK kl kr
      let best := topBest (min k 16) (xs ++ ys)
      topBytes k best
    | f =>
      let c := (parseRec l).combine (parseRec r)
      (if g.fin then c.finish f else c).bytes
  { pieces := [(g.dst, out)] }

/-- OP 0x5 (R138 to R140). -/
def VxeArgs.facet (g : VxeArgs) (ra rd : Nat → Byte) (seed : Nat) : VxeOut :=
  let x := facetKey seed g.tid
  let f := facetOf x (powMod x 48 g.base) ((List.range g.len).map fun i => wordAt ra (g.a + 4 * i))
  let old := fun (o : Nat) => leNat ((List.range 8).map fun i => rd (g.dst + o + i))
  { pieces := [(g.dst, if g.acc then leBytes 8 ((old 0 + f) % facetPrime) ++ leBytes 8 (old 8 + g.len)
      else leBytes 8 f ++ leBytes 8 g.len)] }

/-- OP 0x6 (R143, R145); the entries are written before the header. With ACC = 1 the list written has K = IMM, whatever K the prior list
held. [DESIGN CHOICE, log entry 16] -/
def VxeArgs.topk (g : VxeArgs) (ra rb rd : Nat → Byte) (dw : Draw) (h : AccHeader) : VxeOut :=
  let entry := fun (i : Nat) =>
    let a := g.va ra dw h i
    let b := if g.func = 2 then g.vb rb dw i else Val.zero
    let key := match g.func with
      | 0 => a
      | 1 => a.abs
      | _ => (fsub a b).abs
    { key := toF32 key, a := toF32 a, b := if g.func = 2 then toF32 b else 0, pos := g.base + i, tile := dw.n : TopEntry }
  let old := if g.acc then (parseTop ((List.range 544).map fun i => rd (g.dst + i))).2 else []
  let best := topBest g.imm (old ++ (List.range (g.n h)).map entry)
  let bs := topBytes g.imm best
  { pieces := [(g.dst + 32, bs.drop 32), (g.dst, bs.take 32)] }

/-! Issue and completion. -/

/-- An in-place form whose reads of A and B stand (R130, R146): DST is the operand, of the same kind and format. [DESIGN CHOICE, log entry 24] -/
def VxeArgs.inPlaceA (g : VxeArgs) : Bool :=
  g.a = g.dst && (g.op = 4 || (g.op = 2 && g.ska = g.dk && (g.dk = 1 || g.fi = g.fo)))
/-- The same of B: the merge of OP 4 onto its second list or record (R130). [DESIGN CHOICE, log entry 24] -/
def VxeArgs.inPlaceB (g : VxeArgs) : Bool := g.b = g.dst && g.op = 4
/-- Bytes as a descriptor reads them: a byte that it also writes races with the write (R119, R146). [DESIGN CHOICE, log entry 24] -/
def racing (draw : Nat) (ws : List (Nat × Nat)) (rd : Nat → Byte) (a : Nat) : Byte :=
  if ws.any fun (b, k) => b ≤ a && a < b + k then Config.raceByte draw a else rd a

/-- The work of a descriptor over the state it reads. -/
def State.vxeOut (s : State) (t : TileId) (g : VxeArgs) (h : AccHeader) : VxeOut :=
  let v := s.tile t
  let rd := fun a => v.byte s.member (tileKey t) (s.stepAt t) a
  let race := racing s.draws (g.writes (g.n h)) rd
  let ra := if g.inPlaceA then rd else race
  let rb := if g.inPlaceB then rd else race
  let dw := s.drawAt t
  match g.op with
  | 2 => g.elementwise ra rb race dw h
  | 3 => g.reduce ra rd dw h
  | 4 => g.combine ra rb
  | 5 => g.facet ra rd dw.seed
  | _ => g.topk ra rb rd dw h
/-- Agate2 reserved codes a descriptor decodes (R78, R120). [DEDUCED, log entry 17] -/
def State.vxeInvalid (s : State) (t : TileId) (g : VxeArgs) (h : AccHeader) : Nat :=
  let v := s.tile t
  let count := fun (sk x : Nat) =>
    if g.op = 4 || g.op = 5 || sk ≠ 0 then 0
    else ((List.range (g.n h)).filter fun i =>
      isReservedAgate2 g.fi (fun j => v.byte s.member (tileKey t) (s.stepAt t) (x + j)) i).length
  count g.ska g.a + (if readsB g.op g.func then count g.skb g.b else 0)

/-- The descriptor at the head of the VXE's queue reads its operands and computes; its writes then begin (R146, R495). [DESIGN CHOICE, log entry 15] -/
def State.vxeRun (s : State) (t : TileId) (x : Slot) (ecc : Ecc) : State :=
  let g := vxeArgs x.desc
  let acc := g.ska = 2 && g.op ≠ 4
  let wait := fun (b : Fin 16 × Nat) =>
    s.modTile t fun v => v.modSlot .vxe x.num fun y => { (y.stallAt false (s.beatAt t) b) with started := true }
  let hc := s.readCheck t 2 (if acc then [(g.a, 64)] else [])
  if hc.waits then s
  else match hc.block with
  | some b => wait b
  | none =>
    let u := s.upset t ecc
    let h := parseHeader (u.spadRead t g.a 64)
    match g.badSource s.member h with
    | some k =>
      (((u.eccRead t 2 x.num.val x.pc.toNat ecc).bankFault t .vxe x hc.off).engFault t .vxe x 0x1A
          (physAddr (s.tile t).carries (s.stepAt t) g.a) k true).modTile t fun v =>
        v.modSlot .vxe x.num fun y => { y with started := true, finished := true, stall := none, reads := hc.slots }
    | none =>
      let rc := s.readCheck t 2 (g.reads h)
      if rc.waits then s
      else match rc.block with
      | some b => wait b
      | none =>
        let out := u.vxeOut t g h
        let s1 := (u.eccRead t 2 x.num.val x.pc.toNat ecc).bankFault t .vxe x rc.off
        let s2 := s1.modTile t fun v => { (v.modSlot .vxe x.num fun y =>
            { y with started := true, stall := none, reads := rc.slots }) with
          vout := some out.pieces
          counters := { v.counters with
            vxeSat := satAdd v.counters.vxeSat out.sat
            vxeNonnum := satAdd v.counters.vxeNonnum out.nonnum
            invalidCode := satAdd v.counters.invalidCode (u.vxeInvalid t g h) } }
        ({ s2 with draws := s2.draws + 1 } : State).writeOut t .vxe x out.pieces

/-- A VXE command: the descriptor at the head starts, goes on, or, blocked by a ring, waits (R146). [DEDUCED, log entry 17] -/
def State.vxeCommand (s : State) (t : TileId) (op : Nat) (ecc : Ecc) : State :=
  match s.headOf t .vxe with
  | some x =>
    if ctrlBits x.desc 31 28 ≠ op || x.finished then s
    else if x.started then
      if s.tileLive t then
        match (s.tile t).vout with
        | some ps => s.resumeOut t .vxe x ps ecc
        | none => s.vxeRun t x ecc
      else s
    else if s.mayStart t x (depEngOf .vxe x.desc) (depTicketOf .vxe x.desc) then (s.atWork t x).vxeRun t x ecc
    else s
  | none => s

/-- VXE_ELEMENTWISE (R126). -/
def execVxeElementwise (t : TileId) (ecc : Ecc) (s : State) : Host.Outcome State Fault Refusal :=
  s.onTile t fun s => s.vxeCommand t 2 ecc
/-- VXE_REDUCE (R135). -/
def execVxeReduce (t : TileId) (ecc : Ecc) (s : State) : Host.Outcome State Fault Refusal :=
  s.onTile t fun s => s.vxeCommand t 3 ecc
/-- VXE_COMBINE (R131). -/
def execVxeCombine (t : TileId) (ecc : Ecc) (s : State) : Host.Outcome State Fault Refusal :=
  s.onTile t fun s => s.vxeCommand t 4 ecc
/-- VXE_FACET (R140). -/
def execVxeFacet (t : TileId) (ecc : Ecc) (s : State) : Host.Outcome State Fault Refusal :=
  s.onTile t fun s => s.vxeCommand t 5 ecc
/-- VXE_TOPK (R143). -/
def execVxeTopk (t : TileId) (ecc : Ecc) (s : State) : Host.Outcome State Fault Refusal :=
  s.onTile t fun s => s.vxeCommand t 6 ecc
/-- VXE_COMPLETE (R146): after the final write the count increments and the slot frees. -/
def execVxeComplete (t : TileId) (s : State) : Host.Outcome State Fault Refusal :=
  s.onTile t fun s => match s.headOf t .vxe with
    | some x => if x.finished then s.modTile t fun v => { (v.completeHead .vxe) with vout := none } else s
    | none => s

end Sys2Proof.Machine
end

