-- ==== Sys2Proof/Machine/Dma.lean ====
section
/-!
DEFINITION. The DMA engine and windows (R172 to R178, R257), ring stalls and held writes (R160, R161), and bank power (R179 to R182).
-/

namespace Sys2Proof.Machine

/-! Stacks and ranges. -/

/-- The stack above a tile (R19). -/
def Member.stackAbove (m : Member) (t : TileId) : Nat := 4 * (m.hdOf t / 2) + t.py.toNat % 16 / 4
/-- The row of a stack that lies nearest a row, the lower row on a tie (R223). -/
def Member.stackRow (m : Member) (stack py : Nat) : Nat :=
  let r0 := 16 * (stack / 4 / m.w) + 4 * (stack % 4)
  max r0 (min py (r0 + 3))
/-- Committed ranges refuse tile writes from the start of the slot to the end of the latch beat (R257). -/
def Part.commitBlocked (p : Part) (a k : Nat) : Bool :=
  p.job = .running && p.beatInStep ≤ p.k && match p.manifest with
    | some m => m.ranges.any fun (b, l) => rangesMeet a k b l
    | none => false
/-- The host port code of a function (R211, R402): 2 for port A, 3 for port B. [DESIGN CHOICE, log entry 18] -/
def hostUnit (f : FnId) : Nat := if f.val < 4 then 2 else 3

/-! The descriptor. -/

/-- A DMA descriptor's fields (R172). -/
structure DmaArgs where
  op : Nat
  fi : Nat
  fo : Nat
  mode : Rnd
  sched : Bool
  fence : Bool
  ssp : Nat
  dsp : Nat
  site : Nat
  win : Nat
  src : Nat
  dst : Nat
  srcScale : Nat
  len : Nat
  remote : U32
  status : Nat
  deriving DecidableEq, Repr
/-- The fields of a descriptor's bytes. -/
def dmaArgs (d : Bytes) : DmaArgs :=
  { op := ctrlBits d 31 28, fi := ctrlBits d 27 24, fo := ctrlBits d 23 20, mode := Rnd.ofCode (ctrlBits d 19 18),
    sched := ctrlBits d 17 17 = 1, fence := ctrlBits d 16 16 = 1, ssp := ctrlBits d 12 10, dsp := ctrlBits d 9 7,
    site := fieldAt d 4 2, win := fieldAt d 6 1, src := fieldAt d 8 8, dst := fieldAt d 16 8, srcScale := fieldAt d 24 4,
    len := fieldAt d 28 4, remote := BitVec.ofNat 32 (fieldAt d 32 4), status := fieldAt d 40 4 }
/-- Bytes the descriptor moves. -/
def DmaArgs.total (g : DmaArgs) : Nat :=
  if g.op = 2 then elemBytes g.fo g.len + scaleBytes g.fo g.len else if g.op = 1 then g.len else 0
/-- Bytes of the piece at an offset: at most a packet (R211), and within one 4 KiB granule at either end. [DESIGN CHOICE, log entry 18] -/
def DmaArgs.piece (g : DmaArgs) (pos : Nat) : Nat :=
  min (min (g.total - pos) 256)
    (min (4096 - (g.dst + pos) % 4096) (if g.op = 2 then 4096 else 4096 - (g.src + pos) % 4096))

/-- A slot of an engine's queue by its number. -/
def State.slotOf (s : State) (t : TileId) (e : Eng) (num : Fin 8) : Option Slot :=
  ((s.tile t).q e).slots.find? fun x => x.num = num
/-- A slot of a tile's queue changed. -/
def State.modSlot (s : State) (t : TileId) (e : Eng) (num : Fin 8) (f : Slot → Slot) : State :=
  s.modTile t fun v => v.modSlot e num f
/-- The next TAG of a slot is free: no request of its sequence number waits or is outstanding (R221, R227). -/
def Tile.tagFree (v : Tile) (e : Eng) (x : Slot) : Bool :=
  let tag := BitVec.ofNat 16 (engCode e * 2 ^ 13 + x.num.val * 2 ^ 8 + x.seq % 256)
  (v.inject.all fun w => w.pkt.tag ≠ tag) && (v.held.all fun w => w.pkt.tag ≠ tag) && v.outstanding.all fun o => o.pkt.tag ≠ tag
/-- A DRAM piece lies in the stack above the tile (R223). -/
def State.nearDram (s : State) (t : TileId) (p : PartId) (a : Nat) : Bool :=
  match (s.part p).dpa a with
  | some d => s.stackOf d = s.member.stackAbove t
  | none => false

/-- A request of a DMA descriptor for `k` bytes at an address of a space other than LOCAL: a READ, or a WRITE of a payload. [DESIGN CHOICE, log entry 18] -/
def State.dmaRequest (s : State) (t : TileId) (p : PartId) (x : Slot) (g : DmaArgs) (write : Bool) (space a k : Nat) (last : Bool)
    (data : Bytes) : Packet :=
  let owner := (s.part p).owner
  let dst : U32 := match space with
    | 2 => s.addrOf p ((s.nOf t).getD 0) 6
    | 3 => BitVec.ofNat 32 owner.val
    | _ => g.remote
  s.request t p .dma x (if write then 1 else 2) (if g.sched then 0 else 1) last dst
    (if space = 3 then hostUnit owner else 0) k (if space = 1 then g.win * 2 ^ 60 + a % 2 ^ 60 else a) data
/-- A request handed to the router, when its TAG is free. [DESIGN CHOICE, log entry 18] -/
def State.dmaAsk (s : State) (t : TileId) (x : Slot) (pkt : Packet) (order : Nat) : State :=
  s.modTile t fun v => v.ask .dma x pkt order

/-- The piece at an offset goes to its destination as a packet (R172, R223). -/
def State.writeAsks (s : State) (t : TileId) (p : PartId) (g : DmaArgs) (pos : Nat) : Bool :=
  match g.dsp with
  | 0 => false
  | 2 => !(s.part p).commitBlocked (g.dst + pos) (g.piece pos) && !s.nearDram t p (g.dst + pos)
  | _ => true
/-- The piece at an offset comes from its source by a packet. -/
def State.readAsks (s : State) (t : TileId) (p : PartId) (g : DmaArgs) (pos : Nat) : Bool :=
  match g.ssp with
  | 0 => false
  | 2 => !s.nearDram t p (g.src + pos)
  | _ => true
/-- Some piece from an offset on makes a packet: the fence flag is then not on an earlier one (R172). -/
def State.asksFrom (s : State) (t : TileId) (p : PartId) (g : DmaArgs) : Nat → Nat → Bool
  | 0, _ => false
  | fuel + 1, pos => decide (pos < g.total) &&
      (s.writeAsks t p g pos || s.readAsks t p g pos || State.asksFrom s t p g fuel (pos + max 1 (g.piece pos)))
/-- A packet of the piece that ends at an offset is the last of its descriptor (R172). -/
def State.lastPacket (s : State) (t : TileId) (p : PartId) (g : DmaArgs) (stop : Nat) : Bool :=
  g.fence && !s.asksFrom t p g g.total stop

/-- A write to partition DRAM by a tile; a twin makes none (R348). -/
def State.tileDramPut (s : State) (t : TileId) (p : PartId) (a : Nat) (bs : Bytes) : State :=
  if (s.tile t).ward.twin then s else s.partWrite p a bs

/-- Bytes stored by the DMA engine at an address of the destination space, from a piece that the part holds: what went wrong is noted
on the slot under the piece's place in packet order; a ring that blocks is answered with the bytes placed before it. -/
def State.dmaStore (s : State) (t : TileId) (p : PartId) (x : Slot) (g : DmaArgs) (pos : Nat) (bs : Bytes) :
    State × Nat × Bool :=
  let a := g.dst + pos
  let last := s.lastPacket t p g (pos + bs.length)
  match g.dsp with
  | 0 =>
    let v := s.tile t
    if v.clearing s.member (s.stepAt t) a bs.length then (s, 0, false)
    else
      let w := v.writeRun s.member (s.stepAt t) 3 a bs
      let s1 := (s.setTile t w.tile).bankFault t .dma x w.refused
      match w.block with
      | some b => (s1.modSlot t .dma x.num fun y => y.stallAt true (s.beatAt t) b, w.count, false)
      | none => (s1, w.count, true)
  | 2 =>
    if (s.part p).commitBlocked a bs.length then
      (s.modSlot t .dma x.num fun y => y.note pos stWindow a, bs.length, true)
    else if s.nearDram t p a then
      if s.rangeOn p a bs.length then (s.tileDramPut t p a bs, bs.length, true)
      else (s.modSlot t .dma x.num fun y => y.note pos stRegionOff a, bs.length, true)
    else (s.dmaAsk t x (s.dmaRequest t p x g true 2 a bs.length last bs) pos, bs.length, true)
  | sp => (s.dmaAsk t x (s.dmaRequest t p x g true sp a bs.length last bs) pos, bs.length, true)

/-- What a piece of the source comes to: bytes in hand, a request on its way, or a stop. -/
inductive Fetched where
  | bytes (bs : Bytes)
  | asked
  | skipped
  | stopped
  deriving DecidableEq, Repr

/-- A piece of the source read (R159, R169, R181, R223). The last packet carries the fence flag (R172): the READ of the last piece where no
WRITE follows it. -/
def State.dmaFetch (s : State) (t : TileId) (p : PartId) (x : Slot) (g : DmaArgs) (pos k : Nat) : State × Fetched :=
  let a := g.src + pos
  let last := !s.writeAsks t p g pos && s.lastPacket t p g (pos + k)
  let race := g.ssp = g.dsp && g.src ≠ g.dst && rangesMeet g.src g.len g.dst g.len
  let rd := fun (f : Nat → Byte) => (List.range k).map fun i =>
    if race then racing s.draws [(g.dst, g.len)] f (a + i) else f (a + i)
  match g.ssp with
  | 0 =>
    let rc := s.readCheck t 3 [(a, k)]
    if rc.waits then (s, .stopped)
    else match rc.block with
      | some b => (s.modSlot t .dma x.num fun y => y.stallAt false (s.beatAt t) b, .stopped)
      | none =>
        let v := s.tile t
        ((s.modSlot t .dma x.num fun y => { y with reads := (y.reads ++ rc.slots).eraseDups }).bankFault t .dma x rc.off,
          .bytes (rd fun b => v.byte s.member (tileKey t) (s.stepAt t) b))
  | 2 =>
    if s.nearDram t p a then
      if s.rangeOn p a k then
        let e := s.retiredEcc p a k .clean
        let u := s.upset t e
        (u.eccRead t 3 x.num.val x.pc.toNat e, .bytes (rd fun b => (u.partRead p b 1).headD 0))
      else (s.modSlot t .dma x.num fun y => y.note pos stRegionOff a, .skipped)
    else (s.dmaAsk t x (s.dmaRequest t p x g false 2 a k last []) pos, .asked)
  | sp => (s.dmaAsk t x (s.dmaRequest t p x g false sp a k last []) pos, .asked)

/-- The planes of a CONVERT (R173), with the reserved codes it decoded; none while a ring or a clearing bank holds a source byte. -/
def State.dmaConvert (s : State) (t : TileId) (x : Slot) (g : DmaArgs) : State × Option Bytes :=
  let rs := [(g.src, elemBytes g.fi g.len), (g.srcScale, scaleBytes g.fi g.len)]
  let rc := s.readCheck t 3 rs
  if rc.waits then (s, none)
  else match rc.block with
    | some b => (s.modSlot t .dma x.num fun y => y.stallAt false (s.beatAt t) b, none)
    | none =>
      let v := s.tile t
      let rd := fun a => v.byte s.member (tileKey t) (s.stepAt t) a
      let el := fun j => rd (g.src + j)
      let xs := (List.range g.len).map fun i => readElem g.fi el (fun j => rd (g.srcScale + j)) i
      let out := encodeAll g.fo g.mode (drawWord (s.drawAt t) g.site) xs
      let bad := ((List.range g.len).filter fun i => isReservedAgate2 g.fi el i).length
      let bs := out.elems ++ out.scales
      let s1 := s.modTile t fun v => { (v.modSlot .dma x.num fun y =>
          { y with out := some bs, stall := none, reads := (y.reads ++ rc.slots).eraseDups }) with
        counters := { v.counters with
          dmaSat := satAdd v.counters.dmaSat out.sat
          dmaNonnum := satAdd v.counters.dmaNonnum out.nonnum
          invalidCode := satAdd v.counters.invalidCode bad } }
      (s1.bankFault t .dma x rc.off, some bs)

/-- One piece of a descriptor moves; the flag says whether the next may follow at once. [DESIGN CHOICE, log entry 18] -/
def State.dmaPiece (s : State) (t : TileId) (p : PartId) (num : Fin 8) : State × Bool :=
  match s.slotOf t .dma num with
  | none => (s, false)
  | some x =>
    let g := dmaArgs x.desc
    let pos := x.pos
    if pos = g.total then (s.modSlot t .dma num fun y => { y with finished := true, stall := none }, false)
    else if !(s.tile t).tagFree .dma x then (s, false)
    else
      let k := g.piece pos
      let (s1, f) := if g.op = 2 then (s, Fetched.bytes (((x.out.getD []).drop pos).take k)) else s.dmaFetch t p x g pos k
      let step := fun (s : State) (moved : Nat) =>
        s.modSlot t .dma num fun y => { y with pos := y.pos + moved, stall := none }
      match f with
      | .stopped => (s1, false)
      | .asked => (step s1 k, true)
      | .skipped => (step s1 k, true)
      | .bytes bs =>
        let (s2, moved, more) := s1.dmaStore t p x g pos bs
        if more then (step s2 k, true)
        else (s2.modSlot t .dma num fun y => { y with pos := y.pos + moved }, false)
/-- Pieces move until one must wait. -/
def State.dmaPieces (t : TileId) (p : PartId) (num : Fin 8) : Nat → State → State
  | 0, s => s
  | fuel + 1, s =>
    let (s1, more) := s.dmaPiece t p num
    if more then State.dmaPieces t p num fuel s1 else s1

/-- A descriptor is held out of its work: finished, or of another operation. -/
def Slot.idle (x : Slot) (op : Nat) : Bool := x.finished || ctrlBits x.desc 31 28 ≠ op
/-- A scheduled descriptor of a tile that has overrun issues nothing more in that step slot (R56). [DEDUCED, log entry 13] -/
def Tile.heldBack (v : Tile) (x : Slot) : Bool := v.overrun && x.binding ≠ .unscheduled
/-- A DMA descriptor starts or goes on (R56, R101, R172, R174). -/
def State.dmaSlot (s : State) (t : TileId) (op : Nat) (num : Fin 8) : State :=
  match s.slotOf t .dma num, s.partOf t with
  | some x, some p =>
    if x.idle op then s
    else if !(if x.started then s.tileLive t && !(s.tile t).heldBack x
        else s.mayStart t x (depEngOf .dma x.desc) (depTicketOf .dma x.desc)) then s
    else
      let s1 := (if x.started then s else s.atWork t x).modSlot t .dma num fun y => { y with started := true }
      let g := dmaArgs x.desc
      if op = 2 && x.out.isNone then
        match s1.dmaConvert t x g with
        | (s2, some _) => State.dmaPieces t p num (g.total + 1) s2
        | (s2, none) => s2
      else State.dmaPieces t p num (g.total + 1) s1
  | _, _ => s
/-- The descriptors the engine runs at once: the first four of its queue (R174). [DESIGN CHOICE, log entry 18] -/
def State.dmaFront (s : State) (t : TileId) : List (Fin 8) := ((s.tile t).dma.slots.take 4).map (·.num)
/-- What the ECC of the words a command reads shows, charged to the first descriptor of the operation that runs. -/
def State.dmaEcc (s : State) (t : TileId) (op : Nat) (ecc : Ecc) : State :=
  match ((s.tile t).dma.slots.take 4).find? fun x => !x.idle op with
  | some x => (s.upset t ecc).eccRead t 3 x.num.val x.pc.toNat ecc
  | none => s
/-- The engine's descriptors of an operation move as far as they can. [DESIGN CHOICE, log entry 18] -/
def State.dmaCommand (s : State) (t : TileId) (op : Nat) (ecc : Ecc) : State :=
  let s1 := (s.dmaFront t).foldl (fun s num => s.dmaSlot t op num) (s.dmaEcc t op ecc)
  { s1 with draws := s1.draws + 1 }

/-! Windows. -/

/-- An access the window has accepted and not yet written (R178). -/
def Tile.winBusy (v : Tile) (w : Nat) : Bool :=
  (v.ingress.any fun h => bitsOf h.pkt.addr.toNat 63 60 = w) || v.bankWrites.any fun h => bitsOf h.pkt.addr.toNat 63 60 = w
/-- A window entry changed. -/
def Tile.modWindow (v : Tile) (w : Nat) (f : Window → Window) : Tile :=
  { v with windows := v.windows.set (w % 16) (f (v.windows[w % 16]'(Nat.mod_lt _ (by decide)))) (Nat.mod_lt _ (by decide)) }
/-- A window entry. [DEDUCED, log entry 19] -/
def Tile.window (v : Tile) (w : Nat) : Window := v.windows[w % 16]'(Nat.mod_lt _ (by decide))
/-- Whether a window specification is valid for a tile of a partition (R176). [DEDUCED, log entry 19] -/
def State.windowOk (s : State) (p : PartId) (bs : Bytes) : Bool :=
  let w := parseWindow bs
  let size := 64 * w.size64.toNat
  let range := if w.kind = 0 then w.base.toNat < 0x400000 && spanOk s.member 3 w.base.toNat size
    else (s.part p).inRange w.base.toNat size
  fieldAt bs 0 1 = 1 && w.kind.toNat ≤ 1 && w.flags.toNat < 4 && w.srcMatch.toNat < 2 ^ 14 && w.srcMask.toNat < 2 ^ 14 &&
    w.base.toNat % 64 = 0 && 1 ≤ w.size64.toNat && range && w.epochFirst.toNat ≤ w.epochLast.toNat
/-- WOPEN starts (R176): the specification is read, an open window closes to new arrivals, and an invalid one leaves it closed. [DEDUCED, log entry 19] -/
def State.wopenSlot (s : State) (t : TileId) (p : PartId) (x : Slot) (ecc : Ecc) : State :=
  let g := dmaArgs x.desc
  let rc := s.readCheck t 3 [(g.src, 32)]
  if rc.waits then s
  else match rc.block with
    | some b => s.modSlot t .dma x.num fun y => { (y.stallAt false (s.beatAt t) b) with started := true }
    | none =>
      let u := s.upset t ecc
      let bs := u.spadRead t g.src 32
      let ok := s.windowOk p bs
      let s1 := (u.eccRead t 3 x.num.val x.pc.toNat ecc).modTile t fun v => (v.modWindow g.win fun w => { w with isOpen := false }).modSlot .dma x.num fun y =>
        { y with
          started := true
          finished := true
          stall := none
          reads := rc.slots
          out := if ok then some bs else none
          status := if ok then y.status else BitVec.ofNat 16 stWindow
          failAddr := if ok then y.failAddr else BitVec.ofNat 64 (g.win * 2 ^ 60) }
      s1.bankFault t .dma x rc.off
/-- WCLOSE starts (R178): the window closes to new arrivals. [DEDUCED, log entry 19] -/
def State.wcloseSlot (s : State) (t : TileId) (x : Slot) : State :=
  s.modTile t fun v => (v.modWindow (dmaArgs x.desc).win fun w => { w with isOpen := false }).modSlot .dma x.num fun y =>
    { y with started := true, finished := true }
/-- The first of the four descriptors of an operation that may start. -/
def State.dmaNext (s : State) (t : TileId) (op : Nat) : Option Slot :=
  ((s.tile t).dma.slots.take 4).find? fun x => !x.idle op &&
    (if x.started then s.tileLive t else s.mayStart t x (depEngOf .dma x.desc) (depTicketOf .dma x.desc))

/-! Completion. -/

/-- A status record written to scratchpad by its engine, and counted in the ring it lies in; a bank that takes no writes discards it (R157,
R174, R181). [DESIGN CHOICE, log entry 21] -/
def State.putStatus (s : State) (t : TileId) (e : Eng) (x : Slot) (a : Nat) : State :=
  if a = 0 then s
  else
    let w := (s.tile t).placeRun s.member (s.stepAt t) (engCode e) a x.statusBytes
    (s.setTile t w.1).bankFault t e x w.2
/-- The ring slot that holds back a descriptor's status record (R159). -/
def Tile.statusBlock (v : Tile) (e : Eng) (a : Nat) : Option (Fin 16 × Nat) := if a = 0 then none else v.writeBlock (engCode e) a 16
/-- The fault a descriptor's STATUS calls for, once per descriptor (R160, R174, R176). -/
def State.statusRecord (s : State) (t : TileId) (e : Eng) (x : Slot) (bit : Nat) : State :=
  if x.abandoned then s
  else match statusFault x.status.toNat with
    | some c => s.engFault t e x c (if c = 8 then (Config.remoteRingAddr x.failAddr.toNat).toNat else x.failAddr.toNat) bit true
    | none => s
/-- The oldest DMA descriptor completes (R174, R176, R178), unless a ring still holds its status record back (R159). -/
def State.dmaFinish (s : State) (t : TileId) (x : Slot) : State :=
  let g := dmaArgs x.desc
  match (s.tile t).statusBlock .dma g.status with
  | some b => s.modSlot t .dma x.num fun y => y.stallAt true (s.beatAt t) b
  | none =>
  let s1 := match g.op, x.out with
    | 3, some bs => s.modTile t fun v => v.modWindow g.win fun w => { parseWindow bs with refused := w.refused }
    | _, _ => s
  let s2 := (s1.putStatus t .dma x g.status).statusRecord t .dma x (if g.op = 3 then physAddr (s.tile t).carries (s.stepAt t) g.src else 0)
  s2.modTile t fun v => v.completeHead .dma
/-- Whether the descriptor at the head of the DMA queue may complete. -/
def Tile.dmaDone (v : Tile) (x : Slot) : Bool :=
  x.finished && x.outstanding = 0 && (ctrlBits x.desc 31 28 < 3 || !v.winBusy (fieldAt x.desc 6 1))

/-- DMA_COPY (R172). -/
def execDmaCopy (t : TileId) (ecc : Ecc) (s : State) : Host.Outcome State Fault Refusal :=
  s.onTile t fun s => s.dmaCommand t 1 ecc
/-- DMA_CONVERT (R173). -/
def execDmaConvert (t : TileId) (ecc : Ecc) (s : State) : Host.Outcome State Fault Refusal :=
  s.onTile t fun s => s.dmaCommand t 2 ecc
/-- DMA_WOPEN (R176). [DEDUCED, log entry 19] -/
def execDmaWopen (t : TileId) (ecc : Ecc) (s : State) : Host.Outcome State Fault Refusal :=
  s.onTile t fun s => match s.dmaNext t 3, s.partOf t with
    | some x, some p => (if x.started then s else s.atWork t x).wopenSlot t p x ecc
    | _, _ => s
/-- DMA_WCLOSE (R178). [DEDUCED, log entry 19] -/
def execDmaWclose (t : TileId) (s : State) : Host.Outcome State Fault Refusal :=
  s.onTile t fun s => match s.dmaNext t 4 with
    | some x => (s.atWork t x).wcloseSlot t x
    | none => s
/-- DMA_COMPLETE (R174): status record, then the completion count, in queue order. -/
def execDmaComplete (t : TileId) (s : State) : Host.Outcome State Fault Refusal :=
  s.onTile t fun s => match s.headOf t .dma with
    | some x => if (s.tile t).dmaDone x then s.dmaFinish t x else s
    | none => s

/-! Ring stalls and held writes. -/

/-- Every request of a context slot leaves the router's lists: nothing further is written, and a late reply is stray (R160, R227). [DEDUCED, log entry 13; DESIGN CHOICE, log entry 21] -/
def Tile.forgetSlot (v : Tile) (e : Eng) (num : Fin 8) : Tile :=
  let mine := fun (p : Packet) => p.tag.toNat / 256 = engCode e * 32 + num.val
  { v with
    inject := v.inject.filter fun w => !mine w.pkt
    held := v.held.filter fun w => !mine w.pkt
    outstanding := v.outstanding.filter fun o => !mine o.pkt }
/-- Queues, held descriptors and requests of a tile's engines discarded; the counts stand (R326). [DEDUCED, log entry 13] -/
def Tile.discard (v : Tile) : Tile :=
  { v with
    mxe := { v.mxe with slots := [] }
    vxe := { v.vxe with slots := [] }
    dma := { v.dma with slots := [] }
    msg := { v.msg with slots := [] }
    pass := {}
    vout := none
    inject := []
    held := []
    outstanding := []
    allots := [] }
/-- Scheduled descriptors still queued are dropped; one already running completes (R101). [DEDUCED, log entry 13] -/
def Tile.dropBound (v : Tile) : Tile :=
  [Eng.mxe, Eng.vxe, Eng.dma, Eng.msg].foldl (fun v e => v.setQ e
    { v.q e with slots := (v.q e).slots.filter fun x => x.started || x.binding = .unscheduled }) v
/-- Where a descriptor's status record goes. -/
def statusAddr (e : Eng) (d : Bytes) : Nat :=
  match e with
  | .dma => fieldAt d 40 4
  | .msg => fieldAt d 36 4
  | _ => 0
/-- A stalled descriptor is abandoned with RING_TIMEOUT (R160): the fault, no further scheduled work where it was scheduled, and its
completion at once, wherever it stands in its queue. [DESIGN CHOICE, log entry 21] -/
def State.abandon (s : State) (t : TileId) (e : Eng) (x : Slot) (st : Stall) : State :=
  let s1 := s.engFault t e x (if st.write then 8 else 7) 
    (st.ring.val * 2 ^ 24 + physAddr (s.tile t).carries (s.stepAt t) st.slotAddr.toNat) 0 true
  let x' : Slot := { x with status := BitVec.ofNat 16 stRingTimeout, finished := true, abandoned := true, outstanding := 0, stall := none }
  let s2 := s1.modTile t fun v => (v.forgetSlot e x.num).modSlot e x.num fun _ => x'
  let sched := x.binding ≠ .unscheduled
  let s3 := if sched then s2.modTile t fun v => { v.dropBound with overrun := true, deadlineFault := true } else s2
  (s3.putStatus t e x' (statusAddr e x.desc)).modTile t fun v => match e with
    | .mxe => { (v.completeSlot e x.num) with pass := {} }
    | .vxe => { (v.completeSlot e x.num) with vout := none }
    | _ => v.completeSlot e x.num

/-- A stalled descriptor or a held write of a tile. -/
inductive Stalled where
  | desc (e : Eng) (x : Slot) (st : Stall)
  | write (h : HeldWrite)
  deriving DecidableEq, Repr
/-- Everything stalled at a ring of the tile: engines in code order, then the ingress buffer (R160). [DESIGN CHOICE, log entry 21] -/
def Tile.stalled (v : Tile) : List Stalled :=
  ([Eng.mxe, Eng.vxe, Eng.dma, Eng.msg].flatMap fun e => (v.q e).slots.filterMap fun x => x.stall.map fun st => Stalled.desc e x st) ++
    v.ingress.map Stalled.write
/-- The job time at which a stall is ended (R160), in beats: the beat after the bound beat, or TMO_BEATS after it began. -/
def Tile.stallBeat (v : Tile) (beat : Nat) : Stalled → Nat
  | .desc _ x st => if x.binding = .unscheduled then st.began + (v.rings[st.ring]).tmo.toNat else beat + 1
  | .write h => h.began + (v.rings[h.ring]).tmo.toNat

/-- A reply to a request (R214): TYPE, VC and TAG of the request, DST its SRC with EP 7, or the I/O-die unit that sent it. -/
def replyTo (q : Packet) (status : Nat) (data : Bytes) (ue : Bool) : Packet :=
  { type := if q.type = 2 || q.type = 6 then 0x82 else 0x81, vc := q.vc, dl := false, mcast := false, refwd := false, fence := false,
    ue := ue, len := BitVec.ofNat 9 data.length, gen := q.gen,
    dst := if q.srcu = 0 then (q.src &&& 0xFFFFFFF8#32) ||| 7#32 else q.src, src := q.dst, dphys := 0, dstu := q.srcu, srcu := 0,
    part := q.part, addr := BitVec.ofNat 64 status, step := q.step, tag := q.tag, payload := data }

/-- A reply that a unit of an I/O die makes (R211): the unit's code, and for a link port its number; zero SRC and STEP elsewhere. -/
def ioReply (unit : Nat) (port : Nat) (q : Packet) (status : Nat) (data : Bytes) : Packet :=
  { replyTo q status data false with
    srcu := BitVec.ofNat 4 unit, src := if unit = 4 then BitVec.ofNat 32 (port % 16) else 0, step := if unit = 4 then q.step else 0 }
/-- The code of a host function's unit in UNITS (R211): host port A for functions 0 to 3, B for 4 to 7. -/
def fnUnit (f : FnId) : Nat := if f.val < 4 then 2 else 3

/-- The ring direction of R231 from one coordinate to another on a ring of size n: +1 when the positive way is no longer. -/
def ringUp (n a b : Nat) : Bool := 2 * ((b + n - a) % n) ≤ n
/-- The exit table entry that a destination calls for (R231): 0 +x, 1 −x, 2 +y, 3 −y, 4 +z, 5 −z; none at home. -/
def exitDir (nx ny nz here there : Nat) : Option (Fin 6) :=
  let f := fun (hi lo : Nat) => (bitsOf here hi lo, bitsOf there hi lo)
  let (x0, x1) := f 13 9
  let (y0, y1) := f 8 4
  let (z0, z1) := f 3 0
  if x0 ≠ x1 then some (if ringUp nx x0 x1 then 0 else 1)
  else if y0 ≠ y1 then some (if ringUp ny y0 y1 then 2 else 3)
  else if z0 ≠ z1 then some (if ringUp nz z0 z1 then 4 else 5)
  else none
/-- The exit port of a partition's packet toward a coordinate (R231). -/
def Part.exitPort (p : Part) (there : Nat) : Option PortId :=
  match p.manifest with
  | some m => match exitDir m.nx m.ny m.nz m.coord.toNat there with
    | some d => p.exits[d]
    | none => none
  | none => none
/-- Where a packet goes once it leaves a router of row `row` (R223): DPHYS, or none when it cannot be reached. -/
def State.dphysOf (s : State) (p : PartId) (srcTile : TileId) (pkt : Packet) : Option U16 :=
  let row := srcTile.py.toNat
  let q := s.part p
  if pkt.dstu = 2 then some (ioDphys false 0 row)
  else if pkt.dstu = 3 then some (ioDphys true 0 row)
  else if pkt.dstu = 1 then some (ioDphys false 0 row)
  else if pkt.dstu = 4 then some (ioDphys (8 ≤ pkt.dst.toNat % 16) pkt.dst.toNat row)
  else if bitAt pkt.dst.toNat 31 then
    let port := bitsOf pkt.dst.toNat 30 27
    some (ioDphys (8 ≤ port) port row)
  else if coordOf pkt.dst.toNat ≠ q.coord.toNat % 2 ^ 14 then
    match q.exitPort (coordOf pkt.dst.toNat) with
    | some port => some (ioDphys (8 ≤ port.val) port.val row)
    | none => if q.isShadow then some (ioDphys false 0 row) else none
  else if pkt.dst.toNat % 8 = 6 && (pkt.type = 1 || pkt.type = 2) then
    (q.dpa pkt.addr.toNat).map fun d =>
      let st := s.stackOf d
      BitVec.ofNat 16 ((9 * (st / 4 % s.member.w) + colOf srcTile) * 256 + s.member.stackRow st row)
  else
    (s.translate p (some srcTile) (s.member.nOfAddr pkt.dst.toNat)).map fun t => BitVec.ofNat 16 (t.px.toNat * 256 + t.py.toNat)
/-- A request to partition DRAM at the stack it names (R223). -/
def isDramReq (q : Packet) : Bool := q.dst.toNat % 8 = 6 && (q.type = 1 || q.type = 2)
/-- A reply enters the reply network at a tile (R214); what a twin answers stays in it, but for its router's stack port (R348). -/
def State.reply (s : State) (t : TileId) (q : Packet) (status : Nat) (data : Bytes) (ue : Bool) : State :=
  let r := replyTo q status data ue
  if (s.tile t).ward.twin && !isDramReq q then s
  else match s.partOf t with
  | some p =>
    match s.dphysOf p t r with
    | some d => s.enter { r with dphys := d } t
    | none => s
  | none => if r.dstu = 0 then s else
      s.enter { r with dphys := ioDphys (r.dstu = 3 || (r.dstu = 4 && 8 ≤ r.dst.toNat % 16)) 0 t.py.toNat } t

/-- A held write discarded at its deadline (R160): the target records the initiator's context and keeps its clean bit; the initiator
gets RING_TIMEOUT. -/
def State.dropHeld (s : State) (t : TileId) (h : HeldWrite) : State :=
  let v := s.tile t
  let r := v.rings[h.ring]
  let s1 := s.tileFault t {
    cls := 8, addr := h.ring.val * 2 ^ 24 + physAddr v.carries (s.stepAt t) (r.base.toNat + r.slotOf h.addr.toNat * r.slotBytes), clears := false,
    remote := some (h.pkt.src, h.pkt.tag, h.pkt.part) }
  (s1.modTile t fun v => { v with ingress := v.ingress.erase h }).reply t h.pkt stRingTimeout [] false
/-- RING_STALL_TIMEOUT (R160): the index-th stalled access of the tile is still pending at its deadline. [DESIGN CHOICE, log entry 21] -/
def execRingStallTimeout (t : TileId) (index : Nat) (s : State) : Host.Outcome State Fault Refusal :=
  s.onTile t fun s => match (s.tile t).stalled[index]?, s.partOf t with
    | some x, some p =>
      let s1 := s.reachJob p ((s.part p).t ((s.tile t).stallBeat (s.part p).beat x) + 1)
      match x with
      | .desc e x st => s1.abandon t e x st
      | .write h => s1.dropHeld t h
    | _, _ => s
/-- A held write written once its slot is free, and answered (R161, R177); what still meets a slot that is not free stays held. -/
def State.acceptHeld (s0 : State) (t : TileId) (h : HeldWrite) (ecc : Ecc) : State :=
  let s := (s0.upset t ecc).eccRead t 6 0 0 ecc
  let v := s.tile t
  let w := v.writeRun s.member (s.stepAt t) 3 h.addr.toNat h.pkt.payload
  let rest := v.ingress.erase h
  match w.block with
  | some (i, _) =>
    if w.count = 0 then s0
    else s.setTile t { w.tile with ingress := rest ++ [{
      pkt := { h.pkt with payload := h.pkt.payload.drop w.count }, ring := i, addr := h.addr + BitVec.ofNat 22 w.count,
      began := s.beatAt t }] }
  | none =>
    (s.setTile t { w.tile with ingress := rest }).reply t h.pkt (if w.refused.isSome then stBankOff else stOk) [] false
/-- A held write's deadline has passed (R57, R160). -/
def State.heldLate (s : State) (t : TileId) (h : HeldWrite) : Bool := match s.partOf t with
  | some p => decide ((s.part p).t ((s.tile t).stallBeat (s.part p).beat (.write h)) < s.jobTime p)
  | none => false
/-- RING_HELD_WRITE_ACCEPT (R161): the index-th held write finds its slot free, by its deadline. -/
def execRingHeldWriteAccept (t : TileId) (index : Nat) (ecc : Ecc) (s : State) : Host.Outcome State Fault Refusal :=
  s.onTile t fun s => match (s.tile t).ingress[index]? with
    | some h => if s.heldLate t h then s.dropHeld t h else s.acceptHeld t h ecc
    | none => s

/-! Bank power. -/

/-- A bank's power state changed. -/
def Tile.setBank (v : Tile) (b : BankId) (x : BankPower) : Tile := { v with banks := v.banks.set b x }
/-- The writes that a bank has accepted, some word of which lies in it, and that are not yet written (R180). -/
def Tile.writesOf (v : Tile) (m : Member) (b : BankId) : List BankWrite :=
  v.bankWrites.filter fun w => (wordStarts w.addr.toNat w.data.length).any fun a => m.bankOf a = b.val
/-- BANK_DRAIN_DONE (R180): the writes the bank had accepted are written and answered, and the bank powers off. A partial one reads its word
first, and router ingress is charged with what the ECC shows (R153). [DEDUCED, log entry 47] -/
def State.bankDrained (s : State) (t : TileId) (b : BankId) (ecc : Ecc) : State :=
  let mine := (s.tile t).writesOf s.member b
  let s0 := if mine.isEmpty then s else (s.upset t ecc).eccRead t 6 0 0 ecc
  let s1 := mine.foldl (fun s w =>
    (s.modTile t fun v => { v with spad := v.spad.put w.addr.toNat w.data, bankWrites := v.bankWrites.erase w }).reply t w.pkt
      stOk [] false) s0
  s1.modTile t fun v => v.setBank b .off
/-- BANK_DRAIN_DONE (R180). [DEDUCED, log entry 47] -/
def execBankDrainDone (t : TileId) (d : BankDrain) (s : State) : Host.Outcome State Fault Refusal :=
  s.onTile t fun s => match (s.tile t).banks[d.bank] with
    | .draining _ => s.bankDrained t d.bank d.ecc
    | _ => s
/-- What is still outstanding at the end of a drain completes BANK_OFF, and the bank powers off (R180). [DEDUCED, log entry 47] -/
def State.bankDropped (s : State) (t : TileId) (b : BankId) : State :=
  let mine := (s.tile t).writesOf s.member b
  let s1 := mine.foldl (fun s w =>
    (s.modTile t fun v => { v with bankWrites := v.bankWrites.erase w }).reply t w.pkt stBankOff [] false) s
  s1.modTile t fun v => v.setBank b .off
/-- BANK_DRAIN_TIMEOUT (R57, R180): a drain that is not done in the cycle A + 2,000 ns ends after it. [DEDUCED, log entry 47] -/
def execBankDrainTimeout (t : TileId) (bank : BankId) (s : State) : Host.Outcome State Fault Refusal :=
  s.onTile t fun s => match (s.tile t).banks[bank], s.partOf t with
    | .draining since, some p => (s.reachJob p (since + 2001)).bankDropped t bank
    | _, _ => s
/-- The addresses of a bank's 64-byte words (R149). -/
def Member.bankWords (m : Member) (b : Nat) : List Nat :=
  (List.range 2048).map fun w =>
    if m.split then
      if b < 16 then (16 * w + b) * 64 else if b < 24 then 0x200000 + (8 * w + b - 16) * 64 else 0x300000 + (8 * w + b - 24) * 64
    else (32 * w + b) * 64
/-- The bank is zero and accepts accesses: the writes that waited go first (R182). -/
def State.bankCleared (s : State) (t : TileId) (b : BankId) : State :=
  s.modTile t fun v =>
    let zero := (s.member.bankWords b.val).foldl (fun st a => st.put a (List.replicate 64 0)) v.spad
    let here := fun (w : BitVec 22 × Bytes) => decide (s.member.bankOf w.1.toNat = b.val)
    { (v.setBank b .on) with
      spad := (v.clearWrites.filter here).foldl (fun st w => st.put w.1.toNat w.2) zero
      clearWrites := v.clearWrites.filter fun w => !here w }
/-- BANK_CLEAR_DONE (R182). -/
def execBankClearDone (t : TileId) (bank : BankId) (s : State) : Host.Outcome State Fault Refusal :=
  s.onTile t fun s => if (s.tile t).banks[bank] = .clearing then s.bankCleared t bank else s

end Sys2Proof.Machine
end

