-- ==== Sys2Proof/Machine/Msg.lean ====
section
/-!
DEFINITION. Message channels (R233 to R253): the message unit's descriptors, the ends of a channel, and what arrives at them.
-/

namespace Sys2Proof.Machine

/-! Ends. -/

/-- A channel end (R234). -/
def State.chan (s : State) (c : Nat) : Chan := (kget c s.channels).getD {}
/-- A channel end changed. -/
def State.modChan (s : State) (c : Nat) (f : Chan → Chan) : State := { s with channels := kput c (f (s.chan c)) s.channels }
/-- STATE codes (R234). -/
def chFree : Byte := 0
def chListen : Byte := 1
def chOpening : Byte := 2
def chOpen : Byte := 3
def chClosed : Byte := 4
/-- A job-class end (R236). -/
def Chan.job (c : Chan) : Bool := !bitAt c.flags.toNat 0
/-- Ring size R. -/
def Chan.ring (c : Chan) : Nat := 2 ^ c.ringLog2.toNat
/-- The counters of an end cleared. -/
def Chan.zeroed (c : Chan) : Chan :=
  { c with bytes := 0, msgs := 0, released := 0, arrMap := 0, cBytes := 0, cMsgs := 0, pend := 0, sizes := [] }
/-- Bytes a record of `words` takes at a count, with the skip marker if it does not fit (R243). -/
def Chan.need (c : Chan) (at_ : U32) (words : Nat) : Nat :=
  let r := 8 + 8 * words
  let off := at_.toNat % c.ring
  if off + r ≤ c.ring then r else c.ring - off + r
/-- Credit of a send end (R243). -/
def Chan.credit (c : Chan) : Int := (c.ring : Int) - ((c.bytes - c.released).toNat : Int)
/-- A channel end changed by a tile's unit: a twin makes no write to the table, which is DRAM (R233, R348). [DEDUCED, log entry 27] -/
def State.setChan (s : State) (t : TileId) (c : Nat) (f : Chan → Chan) : State :=
  if (s.tile t).ward.twin then s else s.modChan c f
/-- A word of an end's status written to the owner tile's scratchpad by its message unit, whole, and counted in the ring it lies in (R157, R241). -/
def State.putWord (s : State) (t : TileId) (a : Nat) (bs : Bytes) : State :=
  let w := (s.tile t).placeRun s.member (s.stepAt t) 4 a bs
  match w.2 with
  | some x => (s.setTile t w.1).tileFault t { cls := 0x10, eng := 4, addr := x }
  | none => s.setTile t w.1
/-- A tile with its twin, where it has one: what the unit of a primary places in scratchpad, its twin's unit places too (R348). -/
def State.withTwin (s : State) (t : TileId) : List TileId :=
  if (s.tile (twinOf t)).ward.twin then [t, twinOf t] else [t]
/-- The receive end's status word as its class shows it (R241, R246, R250). -/
def Chan.shown (c : Chan) : Bytes :=
  if c.job then c.recvWord c.msgs.toNat c.bytes.toNat else c.recvWord c.cMsgs.toNat c.cBytes.toNat
/-- The end closes for a breach (R245, R248). -/
def Chan.breached (c : Chan) : Chan := { c with epoch := c.epoch + 1, state := chClosed }
/-- CLOSE or a reset at the receive end (R248). -/
def Chan.freed (c : Chan) : Chan := { c.zeroed with epoch := c.epoch + 1, state := chFree }
/-- A receive end whose binding ends (R248, R442); one that is FREE already stays as it is. -/
def Chan.ended (c : Chan) : Chan := if c.state = chFree then c else c.freed
/-- An end after a reset of its tile, message unit, partition or device (R248). -/
def Chan.afterReset (c : Chan) : Chan := if c.role = 2 then { c with epoch := c.epoch + 1, state := chFree } else { c with state := chFree }

/-- The payload of a MSGCTL packet (R240). -/
def ctlPayload (op cls : Nat) (epoch : U16) (chan value : Nat) : Bytes :=
  leBytes 1 op ++ leBytes 1 cls ++ leBytes 2 epoch.toNat ++ leBytes 4 chan ++ leBytes 4 value ++ leBytes 4 0
/-- A record header (R244). -/
def recordHeader (seq : U32) (words kind : Nat) : Bytes := leBytes 8 (seq.toNat * 2 ^ 32 + words * 16 + kind)

/-- A TAG of slot 31 that no request of the tile holds (R227). [DEDUCED, log entry 27] -/
def Tile.unitTag (v : Tile) : U16 :=
  let tag := fun (k : Nat) => BitVec.ofNat 16 (4 * 2 ^ 13 + 31 * 2 ^ 8 + k % 256)
  let taken := fun (g : U16) => (v.inject.any fun w => w.pkt.tag = g) || (v.held.any fun w => w.pkt.tag = g) || v.outstanding.any fun o => o.pkt.tag = g
  ((List.range 256).find? fun k => !taken (tag (v.made + k))).elim (tag v.made) fun k => tag (v.made + k)
/-- A request of the message unit itself (OPEN_ACK, CREDIT of a commit): no context slot, TAG slot 31. [DEDUCED, log entry 27] -/
def State.unitRequest (s : State) (t : TileId) (p : PartId) (type : Nat) (dst : U32) (dstu addr : Nat) (payload : Bytes) : State :=
  let q := s.part p
  let v := s.tile t
  let pkt : Packet := {
    type := BitVec.ofNat 8 type, vc := 1, dl := false, mcast := false, refwd := false, fence := false, ue := false,
    len := BitVec.ofNat 9 payload.length, gen := BitVec.ofNat 7 q.slot, dst := dst, src := s.addrOf p ((s.nOf t).getD 0) 4,
    dphys := 0, dstu := BitVec.ofNat 4 dstu, srcu := 0, part := BitVec.ofNat 8 p.val, addr := BitVec.ofNat 64 addr, step := q.step,
    tag := v.unitTag, payload := payload }
  s.modTile t fun v => { v with inject := v.inject ++ [Waiting.mk pkt 0 none v.made], made := v.made + 1 }
/-- Where a channel's packets go: the peer's message unit, or the I/O die of the link port at the other end (R234, R236). [DEDUCED, log entry 27] -/
def State.chanDst (s : State) (c : Chan) : U32 × Nat :=
  if bitAt c.flags.toNat 1 then (BitVec.ofNat 32 ((s.chan (2 ^ 20 + c.peerChan.toNat % 2 ^ 20)).owner.toNat % 16), 4) else (c.peer, 0)

/-! Descriptors. -/

/-- The tile works at an end: it holds the position that OWNER names, since only the unit at that place writes the entry (R235). An end of
another owner is as one that is not open to it. [DEDUCED, log entry 27] -/
def State.ownsEnd (s : State) (t : TileId) (c : Nat) : Bool := (s.chan c).owner.toNat = (s.nOf t).getD 0
/-- A SEND finds its end closed: a send end shows LAST and CLOSED (R242, R248). [DEDUCED, log entry 27] -/
def State.sendClosed (s : State) (t : TileId) (c : Nat) : State :=
  if (s.chan c).role = 1 && s.ownsEnd t c then s.setChan t c fun e => { e with last := BitVec.ofNat 16 stChannelClosed, closedBit := true } else s
/-- The next descriptor the message unit may start: the first that has not started, if it is of the operation (R252). -/
def State.msgNext (s : State) (t : TileId) (op : Nat) : Option Slot :=
  match (s.tile t).msg.slots.find? fun x => !x.started with
  | some x => if ctrlBits x.desc 31 28 = op && s.mayStart t x (depEngOf .msg x.desc) (depTicketOf .msg x.desc) then some x else none
  | none => none
/-- A descriptor finished with a status, and ADDR of the packet that failed (R174); its channel where no packet was sent. [DEDUCED, log entry 27] -/
def State.msgFinishAt (s : State) (t : TileId) (x : Slot) (status addr : Nat) : State :=
  s.modSlot t .msg x.num fun y => { (y.note 0 status addr) with started := true, finished := true }
/-- A descriptor finished with a status before it sent a packet. -/
def State.msgFinish (s : State) (t : TileId) (x : Slot) (status : Nat) : State := s.msgFinishAt t x status (x.f 4 4)
/-- A descriptor started and not yet finished. -/
def State.msgStarted (s : State) (t : TileId) (x : Slot) : State := s.modSlot t .msg x.num fun y => { y with started := true }
/-- A request of a descriptor of the message unit. -/
def State.msgAsk (s : State) (t : TileId) (p : PartId) (x : Slot) (type : Nat) (dst : U32 × Nat) (addr : Nat) (payload : Bytes) : State :=
  s.modTile t fun v => v.ask .msg x (s.request t p .msg x type 1 false dst.1 dst.2 payload.length addr payload) 0

/-- LISTEN (R239). -/
def State.msgListen (s : State) (t : TileId) (x : Slot) : State :=
  let n := (s.nOf t).getD 0
  let c := x.f 4 4
  let e := s.chan c
  let set : Chan := { e with
    role := 2, state := chListen, flags := 0, ringLog2 := BitVec.ofNat 8 (x.f 20 1), owner := BitVec.ofNat 16 n,
    peer := BitVec.ofNat 32 (x.f 24 4), peerChan := 0, ringBase := BitVec.ofNat 64 (x.f 8 8), statusAddr := BitVec.ofNat 32 (x.f 16 4) }
  if e.state = chFree then (s.setChan t c fun _ => set).msgFinish t x stOk
  else if e.state = chListen && e.role = 2 && e = { set with epoch := e.epoch } then s.msgFinish t x stOk
  else s.msgFinish t x stChannelClosed
/-- OPEN (R239); a twin's waits for OPEN_ACK as its primary's does. [DEDUCED, log entry 27] -/
def State.msgOpen (s : State) (t : TileId) (p : PartId) (x : Slot) : State :=
  let n := (s.nOf t).getD 0
  let c := x.f 4 4
  let e := s.chan c
  let same := e.role = 1 && e.owner.toNat = n && e.peer.toNat = x.f 24 4 && e.peerChan.toNat = x.f 28 4 && e.statusAddr.toNat = x.f 16 4
  if e.state = chFree || ((s.tile t).ward.twin && e.state = chOpening && same) then
    let s1 := s.setChan t c fun e => { e with
      role := 1, state := chOpening, flags := 0, owner := BitVec.ofNat 16 n, peer := BitVec.ofNat 32 (x.f 24 4),
      peerChan := BitVec.ofNat 32 (x.f 28 4), statusAddr := BitVec.ofNat 32 (x.f 16 4) }
    (s1.msgStarted t x).msgAsk t p x 4 (BitVec.ofNat 32 (x.f 24 4), 0) (x.f 28 4 % 2 ^ 20) (ctlPayload 1 0 0 c 0)
  else if (e.state = chOpen || e.state = chOpening) && same then s.msgFinish t x stOk
  else s.msgFinish t x stChannelClosed
/-- SENDs of the message unit in flight, and on one channel (R243, R252). -/
def Tile.sending (v : Tile) : List Slot := v.msg.slots.filter fun x => x.started && !x.finished && ctrlBits x.desc 31 28 = 3
/-- SEND begins (R243, R248): at once CHANNEL_CLOSED on an end that is not open, otherwise it waits for credit. [DEDUCED, log entry 27] -/
def State.msgSend (s : State) (t : TileId) (p : PartId) (x : Slot) : State :=
  let c := x.f 4 4
  let e := s.chan c
  if e.role = 1 && s.ownsEnd t c && (e.state = chOpen || e.state = chOpening) then
    if ((s.tile t).sending.filter fun y => y.f 4 4 = c).length < 8 && (s.tile t).sending.length < 16 then
      s.modSlot t .msg x.num fun y => { y with started := true, deadline := s.jobTime p + (s.part p).replyUs * 1000 }
    else s
  else (s.sendClosed t c).msgFinish t x stChannelClosed
/-- The place and number that a SEND takes: those of the end, once it is OPEN with credit; a twin's SEND takes those that its primary's SEND of
the same ticket was given (R243, R348). [DEDUCED, log entry 27] -/
def State.allotFor (s : State) (t : TileId) (x : Slot) (need : Nat) : Option (U32 × U32) :=
  let e := s.chan (x.f 4 4)
  if (s.tile t).ward.twin then kget x.ticket.toNat (s.tile t).allots
  else if e.state = chOpen && (need : Int) ≤ e.credit then some (e.bytes, e.msgs) else none
/-- A place taken at an end: WRITTEN and SEQ advance, and the twin is told (R243, R348). -/
def State.takeAllot (s : State) (t : TileId) (x : Slot) (need : Nat) (a : U32 × U32) : State :=
  let s1 := s.setChan t (x.f 4 4) fun e => { e with bytes := e.bytes + BitVec.ofNat 32 need, msgs := e.msgs + 1 }
  let s2 := if (s.tile t).ward.twin then s1.modTile t fun v => { v with allots := v.allots.filter fun y => y.1 ≠ x.ticket.toNat }
    else if (s.tile (twinOf t)).ward.twin then s1.modTile (twinOf t) fun v => { v with allots := kput x.ticket.toNat a v.allots }
    else s1
  s2.modSlot t .msg x.num fun y => { y with allot := some a, stall := none }
/-- MSG_SEND_ALLOT (R243, R244): ring space allotted, WRITTEN and SEQ advanced, the MSG sent. The payload is read as an engine reads: a checked
ring holds it back, and its slots drain with the descriptor (R158, R159); a clearing bank makes it wait (R182), and one that is off reads
zero and is recorded (R181). -/
def State.msgAllot (s : State) (t : TileId) (p : PartId) (x : Slot) (ecc : Ecc) : State :=
  let c := x.f 4 4
  let e := s.chan c
  let words := x.f 21 1
  let need := e.need e.bytes words
  let rc := s.readCheck t 4 [(x.f 8 8, 8 * words)]
  match s.allotFor t x need with
  | none =>
    if e.role ≠ 1 || !s.ownsEnd t c || e.state = chClosed || e.state = chFree then (s.sendClosed t c).msgFinish t x stChannelClosed else s
  | some a =>
    if !(s.tile t).ward.twin && (e.role ≠ 1 || !s.ownsEnd t c) then (s.sendClosed t c).msgFinish t x stChannelClosed
    else if rc.waits || !(s.tile t).tagFree .msg x then s
    else match rc.block with
    | some b => s.modSlot t .msg x.num fun y => y.stallAt false (s.beatAt t) b
    | none =>
      let u := s.upset t ecc
      let data := u.spadRead t (x.f 8 8) (8 * words)
      let s1 := ((u.eccRead t 4 x.num.val x.pc.toNat ecc).bankFault t .msg x rc.off).takeAllot t x need a
      let s2 := s1.modSlot t .msg x.num fun y => { y with reads := rc.slots }
      s2.msgAsk t p x 3 (s.chanDst e) (e.epoch.toNat * 2 ^ 48 + e.peerChan.toNat % 2 ^ 20)
        (recordHeader a.2 words 1 ++ leBytes 4 a.1.toNat ++ leBytes 4 0 ++ data)
/-- The new RELEASED of a RELEASE (R247): no less than the old, no more than HEAD. -/
def Chan.clampRelease (c : Chan) (v : U32) : U32 :=
  let d := (v - c.released).toInt
  let top := (c.bytes - c.released).toInt
  if d < 0 then c.released else if top < d then c.bytes else v
/-- RELEASE (R247, R250). [DEDUCED, log entry 27] -/
def State.msgRelease (s : State) (t : TileId) (p : PartId) (x : Slot) : State :=
  let c := x.f 4 4
  let e := s.chan c
  if e.role = 2 && s.ownsEnd t c && (e.state = chOpen || e.state = chClosed) then
    let v := e.clampRelease (BitVec.ofNat 32 (x.f 8 8))
    if e.job then
      ((s.setChan t c fun e => { e with released := v }).msgAsk t p x 4 (s.chanDst e) (e.peerChan.toNat % 2 ^ 20)
        (ctlPayload 3 0 e.epoch c v.toNat)).msgFinish t x stOk
    else (s.setChan t c fun e => { e with pend := v }).msgFinish t x stOk
  else s.msgFinish t x stChannelClosed
/-- CLOSE (R248). [DEDUCED, log entry 27] -/
def State.msgClose (s : State) (t : TileId) (p : PartId) (x : Slot) : State :=
  let c := x.f 4 4
  let e := s.chan c
  if e.state = chFree then s.msgFinish t x stOk
  else if !s.ownsEnd t c then s.msgFinish t x stChannelClosed
  else if e.role = 2 then (s.setChan t c Chan.freed).msgFinish t x stOk
  else
    let s1 := s.setChan t c fun e => { e with state := chFree }
    (s1.msgAsk t p x 4 (s.chanDst e) (e.peerChan.toNat % 2 ^ 20) (ctlPayload 4 (if e.job then 0 else 1) 0 c 0)).msgFinish t x stOk

/-- A reply, or its absence, ends a request of the message unit (R239, R248, R252). -/
def State.msgReplied (s : State) (t : TileId) (x : Slot) (status addr : Nat) : State :=
  let c := x.f 4 4
  let e := s.chan c
  match ctrlBits x.desc 31 28 with
  | 2 =>
    if status = stOk || x.finished then s
    else (s.setChan t c fun e => { e with state := chFree }).msgFinishAt t x status addr
  | 3 =>
    let s1 := if e.role = 1 && s.ownsEnd t c then s.setChan t c fun e => { e with
        last := if status = stOk then e.last else BitVec.ofNat 16 status
        closedBit := e.closedBit || status = stChannelClosed
        state := if status = stChannelClosed then chClosed else e.state }
      else s
    let s2 := if status = stChannelClosed && e.job then s1.engFault t .msg x 0x0E c status true else s1
    s2.msgFinishAt t x status addr
  | _ => s
/-- The head of the message unit's queue may complete (R247, R252). -/
def Tile.msgDone (v : Tile) (x : Slot) : Bool :=
  x.finished && (if 4 ≤ ctrlBits x.desc 31 28 then
      (v.inject.all fun w => w.ticket ≠ some x.ticket || w.pkt.tag.toNat / 2 ^ 13 ≠ 4) &&
        v.held.all fun w => w.ticket ≠ some x.ticket || w.pkt.tag.toNat / 2 ^ 13 ≠ 4
    else x.outstanding = 0)
/-- A SEND that completes at its own end counts in DONE, and its status word goes to the owner's scratchpad (R235, R242); the twin's unit writes
it with its primary's (R348). -/
def State.showSend (s : State) (t : TileId) (x : Slot) : State :=
  let c := x.f 4 4
  if ctrlBits x.desc 31 28 = 3 && (s.chan c).role = 1 && s.ownsEnd t c && !(s.tile t).ward.twin then
    let s1 := s.modChan c fun e => { e with doneCount := e.doneCount + 1 }
    s1.forTiles (s1.withTwin t) fun s u => s.putWord u (s.chan c).statusAddr.toNat (s.chan c).sendWord
  else s
/-- The ring slot that holds a completion of the message unit back: of its status record, or of the send end's status word (R159). [DEDUCED, log entry 27] -/
def State.msgBlock (s : State) (t : TileId) (x : Slot) : Option (Fin 16 × Nat) :=
  let e := s.chan (x.f 4 4)
  ((s.tile t).statusBlock .msg (x.f 36 4)).or
    (if ctrlBits x.desc 31 28 = 3 && e.role = 1 && s.ownsEnd t (x.f 4 4) then (s.tile t).writeBlock 4 e.statusAddr.toNat 8 else none)
/-- MSG_UNIT_COMPLETE (R242, R252): status record and sender's status word, then the count; a ring may hold the writes back (R159). -/
def State.msgComplete (s : State) (t : TileId) (x : Slot) : State :=
  match s.msgBlock t x with
  | some b => s.modSlot t .msg x.num fun y => y.stallAt true (s.beatAt t) b
  | none =>
    let s1 := (s.putStatus t .msg x (x.f 36 4)).showSend t x
    let s2 := if x.status.toNat = stChannelClosed then s1 else s1.statusRecord t .msg x 0
    s2.modTile t fun v => v.completeHead .msg

/-! The deadline of a SEND (R252), and the hang records of reply deadlines (R227). -/

/-- Beat boundaries passed between two job times (R362, cause 6). -/
def Part.boundaries (p : Part) (a b : Int) : Nat := ((b - p.t0) / (p.pUs * 1000 : Nat) - (a - p.t0) / (p.pUs * 1000 : Nat)).toNat
/-- FC_HANG of a reply deadline (R227, R362): cause 6, beats passed, TAG. -/
def State.hangReply (s : State) (t : TileId) (p : PartId) (tag : U16) (pc : Nat) (from_ to_ : Int) : State :=
  let s1 := s.tileFault t {
    cls := 6, eng := tag.toNat / 2 ^ 13, slot := tag.toNat / 2 ^ 8 % 32, pc := pc,
    addr := 6 + min 255 ((s.part p).boundaries from_ to_) * 256 + tag.toNat * 2 ^ 16 }
  s1.modTile t fun v => { v with deadlineFault := true }
/-- A SEND that has waited for credit to its reply deadline completes NO_REPLY (R252). -/
def State.sendOverdue (s : State) (t : TileId) (p : PartId) (x : Slot) : State :=
  (s.hangReply t p (BitVec.ofNat 16 (4 * 2 ^ 13 + x.num.val * 2 ^ 8)) x.pc.toNat (x.deadline - (s.part p).replyUs * 1000)
    x.deadline).msgReplied t x stNoReply (x.f 4 4)

/-- A command on the next descriptor of a tile's message unit. -/
def State.onMsg (s : State) (t : TileId) (op : Nat) (f : State → PartId → Slot → State) : Host.Outcome State Fault Refusal :=
  s.onTile t fun s => match s.msgNext t op, s.partOf t with
    | some x, some p => f (s.atWork t x) p x
    | _, _ => s
/-- MSG_LISTEN (R239). -/
def execMsgListen (t : TileId) (s : State) : Host.Outcome State Fault Refusal := s.onMsg t 1 fun s _ x => s.msgListen t x
/-- MSG_OPEN (R239). -/
def execMsgOpen (t : TileId) (s : State) : Host.Outcome State Fault Refusal := s.onMsg t 2 fun s p x => s.msgOpen t p x
/-- MSG_SEND (R243). -/
def execMsgSend (t : TileId) (s : State) : Host.Outcome State Fault Refusal := s.onMsg t 3 fun s p x => s.msgSend t p x
/-- MSG_SEND_ALLOT (R243, R252): after its reply deadline the SEND completes NO_REPLY instead. -/
def execMsgSendAllot (t : TileId) (chan : BitVec 20) (ecc : Ecc) (s : State) : Host.Outcome State Fault Refusal :=
  s.onTile t fun s => match (s.tile t).sending.find? fun x => x.allot.isNone && x.f 4 4 = chan.toNat, s.partOf t with
    | some x, some p =>
      if x.deadline < s.jobTime p then s.sendOverdue t p x else if s.tileLive t then s.msgAllot t p x ecc else s
    | _, _ => s
/-- MSG_RELEASE (R247). -/
def execMsgRelease (t : TileId) (s : State) : Host.Outcome State Fault Refusal := s.onMsg t 4 fun s p x => s.msgRelease t p x
/-- MSG_CLOSE (R248). -/
def execMsgClose (t : TileId) (s : State) : Host.Outcome State Fault Refusal := s.onMsg t 5 fun s p x => s.msgClose t p x
/-- MSG_UNIT_COMPLETE (R252). -/
def execMsgUnitComplete (t : TileId) (s : State) : Host.Outcome State Fault Refusal :=
  s.onTile t fun s => match s.headOf t .msg with
    | some x => if (s.tile t).msgDone x then s.msgComplete t x else s
    | none => s

/-! Arrivals at an end. -/

/-- The end a packet arrives at exists: a tile of the member, or a link port. -/
def State.atEnd (s : State) (d : EndAt) (f : State → State) : Host.Outcome State Fault Refusal :=
  match d with
  | .tile t => s.onTile t f
  | .port _ => .next (f s)
/-- The I/O die of a link port, and the row on which the model puts a packet that starts or ends at it. -/
def portEast (p : PortId) : Bool := 8 ≤ p.val
/-- The partition a packet names. -/
def pktPart (q : Packet) : Option PartId := if h : q.part.toNat < 16 then some ⟨q.part.toNat, h⟩ else none
/-- A reply sent from an end (R214). -/
def State.endReply (s : State) (d : EndAt) (q : Packet) (status : Nat) : State :=
  match d with
  | .tile t => s.reply t q status [] false
  | .port p =>
    let r := ioReply 4 p.val q status []
    match (pktPart q).bind fun p => s.translate p none (s.member.nOfAddr r.dst.toNat) with
    | some t => { s with net := s.net ++ [{
        pkt := { r with dphys := BitVec.ofNat 16 (t.px.toNat * 256 + t.py.toNat) }, loc := .ioDie (portEast p) t.py }] }
    | none => s
/-- A packet waits at an end to be processed. -/
def State.waitsAt (s : State) (d : EndAt) (q : Packet) : Bool :=
  match d with
  | .tile t => (s.tile t).arrivals.contains q
  | .port p => s.net.any fun k => k.pkt = q && match k.loc with
    | .ioDie e _ => e = portEast p
    | _ => false
/-- The packet taken from where it waits. -/
def State.takeAt (s : State) (d : EndAt) (q : Packet) : State :=
  match d with
  | .tile t => s.modTile t fun v => { v with arrivals := v.arrivals.erase q }
  | .port p => { s with net := s.net.eraseP fun k => k.pkt = q && match k.loc with
      | .ioDie e _ => e = portEast p
      | _ => false }
/-- The key under which the end that a packet names is kept: the channel's own entry for a tile, beside it for the end of an I/O die. [DEDUCED, log entry 27] -/
def endKey (d : EndAt) (q : Packet) : Nat := match d with
  | .tile _ => q.addr.toNat % 2 ^ 20
  | .port _ => 2 ^ 20 + q.addr.toNat % 2 ^ 20
/-- The partition whose channel end it is: the tile's, or the one whose range holds the channel (R233). -/
def State.endPart (s : State) (d : EndAt) (c : Nat) : Option PartId :=
  match d with
  | .tile t => s.partOf t
  | .port _ => allParts.find? fun p => (s.part p).present && (s.part p).chanFirst ≤ c % 2 ^ 20 && c % 2 ^ 20 < (s.part p).chanFirst + (s.part p).chanCount
/-- The GEN check of a tile endpoint looks at a packet (R226, R249): at requests, but not at OPEN, OPEN_ACK and CLOSE, nor at what reaches a
persistent end. -/
def State.genChecked (s : State) (q : Packet) : Bool :=
  !pktIsReply q && (if q.type = 3 then (s.chan (q.addr.toNat % 2 ^ 20)).job
    else if q.type = 4 then byteAt q.payload 0 = 3 && (s.chan (q.addr.toNat % 2 ^ 20)).job else true)
/-- A request of a stale attempt, screened by an armed GEN check (R226). [DEDUCED, log entry 33] -/
def State.genStale (s : State) (d : EndAt) (q : Packet) : Bool :=
  match d with
  | .tile t => match s.partOf t with
    | some p => s.genChecked q && (s.tile t).genArmed && q.srcu = 0 && coordOf q.src.toNat = (s.part p).coord.toNat % 2 ^ 14 && q.part.toNat = p.val && q.gen.toNat ≠ (s.part p).slot % 128
    | none => false
  | .port _ => false
/-- The end works at the entry that a packet names (R235). [DEDUCED, log entry 27] -/
def State.endOwns (s : State) (d : EndAt) (c : Nat) : Bool := match d with
  | .tile t => s.ownsEnd t c
  | .port p => (s.chan c).owner.toNat = 0xFF00 + p.val
/-- GEN differs from the slot number of the end's partition (R245, R249). [DEDUCED, log entry 33] -/
def State.slotDiffers (s : State) (p : Option PartId) (q : Packet) : Bool :=
  match p with
  | some p => q.gen.toNat ≠ (s.part p).slot % 128
  | none => true
/-- FC_CHANNEL_CLOSED at an end (R245). -/
def State.chanFault (s : State) (d : EndAt) (p : Option PartId) (c : Nat) (clears : Bool) : State :=
  match d with
  | .tile t => s.tileFault t { cls := 0x0E, eng := 4, addr := c % 2 ^ 20, bit := stChannelClosed, clears := clears }
  | .port _ => s.unitFault p { cls := 0x0E, unit := 2, addr := c % 2 ^ 20, bit := stChannelClosed, clears := false }
/-- The receive end's status word written where the end is a tile's, and by its twin (R241, R348). -/
def State.showRecv (s : State) (d : EndAt) (c : Nat) : State :=
  match d with
  | .tile t => s.forTiles (s.withTwin t) fun s u => s.putWord u (s.chan c).statusAddr.toNat (s.chan c).shown
  | .port _ => s

/-- Messages in order from ARRIVED on become visible (R246). -/
def Chan.advance : Nat → Chan → Chan
  | 0, c => c
  | fuel + 1, c =>
    match c.sizes.find? fun (q, _) => q = c.msgs with
    | some (q, k) => Chan.advance fuel { c with
        msgs := c.msgs + 1
        bytes := c.bytes + k
        arrMap := c.arrMap >>> 1
        sizes := c.sizes.erase (q, k) }
    | none => c
/-- A message marked (R245): bit i of ARRMAP for message ARRIVED + 1 + i. -/
def Chan.mark (c : Chan) (seq : U32) (need : Nat) : Chan :=
  let i := (seq - c.msgs).toNat
  Chan.advance 9 { c with
    arrMap := if i = 0 then c.arrMap else c.arrMap ||| (1#8 <<< (i - 1))
    sizes := c.sizes ++ [(seq, BitVec.ofNat 32 need)] }
/-- Bytes placed in a channel's ring by the message unit, in scratchpad (its twin's too) for the job class and in partition DRAM for the persistent class (R234): refused by
a bank or region that is off. -/
def State.ringPut (s : State) (d : EndAt) (p : Option PartId) (e : Chan) (off : Nat) (bs : Bytes) : State × Nat :=
  match d, e.job with
  | .tile t, true =>
    let v := s.tile t
    let a := e.ringBase.toNat + off
    match v.bankHit s.member (s.stepAt t) (fun b => !b.takesWrites) a bs.length with
    | some _ => (s, stBankOff)
    | none =>
      (s.forTiles (s.withTwin t) fun s u => s.setTile u ((s.tile u).placeRun s.member (s.stepAt t) 4 a bs).1, stOk)
  | _, _ => match p with
    | some p =>
      let a := e.ringBase.toNat + off
      if s.rangeOn p a bs.length then (s.partWrite p a bs, stOk) else (s, stRegionOff)
    | none => (s, stUnreachable)
/-- A record written at its place (R243 to R245): the skip marker if one is needed, the words, the header last. -/
def State.placeRecord (s : State) (d : EndAt) (p : Option PartId) (e : Chan) (pos : U32) (q : Packet) : State × Nat :=
  let seq : U32 := BitVec.ofNat 32 (fieldAt q.payload 4 4)
  let words := bitsOf (fieldAt q.payload 0 4) 7 4
  let off := pos.toNat % e.ring
  let skip := e.ring < off + 8 + 8 * words
  let o := if skip then 0 else off
  let (s0, k0) := if skip then s.ringPut d p e off (recordHeader seq 0 2) else (s, stOk)
  if k0 ≠ stOk then (s, k0)
  else
    let (s1, k1) := s0.ringPut d p e (o + 8) ((q.payload.drop 16).take (8 * words))
    if k1 ≠ stOk then (s, k1)
    else
      let (s2, k2) := s1.ringPut d p e o (q.payload.take 8)
      if k2 ≠ stOk then (s, k2) else (s2, stOk)

/-- A MSG waits at its tile while a checked ring of the message unit holds back its record or the status word (R159). [DEDUCED, log entry 27] -/
def State.recordWaits (s : State) (d : EndAt) (q : Packet) : Bool :=
  match d with
  | .tile t =>
    let e := s.chan (endKey d q)
    let off := fieldAt q.payload 8 4 % e.ring
    let k := 8 + 8 * bitsOf (fieldAt q.payload 0 4) 7 4
    let ranges := (if e.ring < off + k then [(off, 8), (0, k)] else [(off, k)]).map fun r => (e.ringBase.toNat + r.1, r.2)
    e.job && e.role = 2 && e.state = chOpen && s.ownsEnd t (endKey d q) && e.epoch.toNat = q.addr.toNat / 2 ^ 48 &&
      (ranges ++ [(e.statusAddr.toNat, 8)]).any fun r => ((s.tile t).writeBlock 4 r.1 r.2).isSome
  | .port _ => false
/-- A MSGCTL packet whose status word a checked ring of the message unit holds back waits (R159). [DEDUCED, log entry 27] -/
def State.wordWaits (s : State) (d : EndAt) (q : Packet) (st : Byte) : Bool :=
  let e := s.chan (endKey d q)
  match d with
  | .tile t => e.role = 2 && e.state = st && s.ownsEnd t (endKey d q) && ((s.tile t).writeBlock 4 e.statusAddr.toNat 8).isSome
  | .port _ => false
/-- The end's checks of a MSG, in order (R245). -/
def State.msgArrives (s : State) (d : EndAt) (q : Packet) : State :=
  let c := endKey d q
  let e := s.chan c
  let p := s.endPart d c
  let seq : U32 := BitVec.ofNat 32 (fieldAt q.payload 4 4)
  let words := bitsOf (fieldAt q.payload 0 4) 7 4
  let pos : U32 := BitVec.ofNat 32 (fieldAt q.payload 8 4)
  let refuse := fun (s : State) =>
    (s.modChan c fun e => { e with refused := e.refused + 1 }).endReply d q stChannelClosed
  if !s.endOwns d c then s.endReply d q stChannelClosed
  else if e.role ≠ 2 || e.state ≠ chOpen || e.epoch.toNat ≠ q.addr.toNat / 2 ^ 48 then refuse s
  else if !bitAt e.flags.toNat 1 && q.src ≠ e.peer then refuse s
  else if e.job && s.slotDiffers p q then s
  else
    let i := (seq - e.msgs).toNat
    let need := e.need pos words
    let breach := 8 < i || e.sizes.any (fun x => x.1 = seq) || (e.released + BitVec.ofNat 32 e.ring - pos).toInt < (need : Int)
    if breach then ((s.modChan c Chan.breached).chanFault d p c e.job).endReply d q stChannelClosed
    else match s.placeRecord d p e pos q with
      | (s1, 0) =>
        let s2 := s1.modChan c fun e => e.mark seq need
        (if e.job then s2.showRecv d c else s2).endReply d q stOk
      | (_, k) => s.endReply d q k
/-- MSGCTL OPEN at a receive end (R239). -/
def State.openArrives (s : State) (d : EndAt) (q : Packet) : State :=
  let c := endKey d q
  let e := s.chan c
  if e.role = 2 && s.endOwns d c && e.state = chListen && (e.peer = 0xFFFFFFFF#32 || e.peer = q.src) then
    let s1 := s.modChan c fun e => { e.zeroed with
      state := chOpen, peer := q.src, peerChan := BitVec.ofNat 32 (fieldAt q.payload 4 4 % 2 ^ 20), closedBit := false }
    let s2 := (s1.showRecv d c).endReply d q stOk
    match d, s.endPart d c with
    | .tile t, some p => s2.forTiles (s2.withTwin t) fun s u =>
        s.unitRequest u p 4 q.src 0 (fieldAt q.payload 4 4 % 2 ^ 20) (ctlPayload 2 0 e.epoch c e.ringLog2.toNat)
    | _, _ => s2
  else s.endReply d q stChannelClosed
/-- MSGCTL OPEN_ACK at a send end (R239): the end opens and its OPEN descriptor finishes. -/
def State.openAckArrives (s : State) (d : EndAt) (q : Packet) : State :=
  let c := endKey d q
  let e := s.chan c
  if e.role = 1 && s.endOwns d c && e.state = chOpening && e.peer = q.src then
    let s1 := (s.modChan c fun e => { e.zeroed with
      state := chOpen, epoch := BitVec.ofNat 16 (fieldAt q.payload 2 2), ringLog2 := BitVec.ofNat 8 (fieldAt q.payload 8 1),
      closedBit := false, last := 0, doneCount := 0 }).endReply d q stOk
    match d with
    | .tile t => s1.forTiles (s1.withTwin t) fun s u =>
        match (s.tile u).msg.slots.find? fun x => ctrlBits x.desc 31 28 = 2 && x.started && !x.finished && x.f 4 4 = c with
        | some x => s.msgFinish u x stOk
        | none => s
    | .port _ => s1
  else s.endReply d q stChannelClosed
/-- MSGCTL CREDIT at a send end (R247, R249): taken only with its EPOCH and up to WRITTEN. -/
def State.creditArrives (s : State) (d : EndAt) (q : Packet) : State :=
  let c := endKey d q
  let e := s.chan c
  let v : U32 := BitVec.ofNat 32 (fieldAt q.payload 8 4)
  if e.job && s.slotDiffers (s.endPart d c) q then s
  else if !s.endOwns d c then s.endReply d q stOk
  else if e.role = 1 && e.state = chOpen && e.epoch.toNat = fieldAt q.payload 2 2 && 0 ≤ (e.bytes - v).toInt then
    (s.modChan c fun e => { e with released := v }).endReply d q stOk
  else (s.modChan c fun e => { e with refused := e.refused + 1 }).endReply d q stOk
/-- MSGCTL CLOSE at a receive end (R248). -/
def State.closeArrives (s : State) (d : EndAt) (q : Packet) : State :=
  let c := endKey d q
  let e := s.chan c
  if e.role = 2 && s.endOwns d c && e.state = chOpen && (bitAt e.flags.toNat 1 || e.peer = q.src) then
    ((s.modChan c fun e => { e with state := chClosed, closedBit := true }).showRecv d c).endReply d q stOk
  else s.endReply d q stChannelClosed

/-- A packet of the right kind taken from where it waits, unless it is stale (R226), and processed. [DESIGN CHOICE, log entry 2] -/
def State.atArrival (s : State) (d : EndAt) (q : Packet) (ok : Bool) (f : State → State) : Host.Outcome State Fault Refusal :=
  s.atEnd d fun s => if ok && s.waitsAt d q then (if s.genStale d q then s.takeAt d q else f (s.takeAt d q)) else s
/-- A MSGCTL packet of an operation (R240). -/
def isCtl (q : Packet) (op : Byte) : Bool := q.type = 4 && byteAt q.payload 0 = op
/-- MSG_ARRIVAL (R245). -/
def execMsgArrival (d : EndAt) (q : Packet) (s : State) : Host.Outcome State Fault Refusal :=
  s.atArrival d q (q.type = 3 && !s.recordWaits d q) fun s => s.msgArrives d q
/-- MSGCTL_OPEN (R239). -/
def execMsgctlOpen (d : EndAt) (q : Packet) (s : State) : Host.Outcome State Fault Refusal :=
  s.atArrival d q (isCtl q 1 && !s.wordWaits d q chListen) fun s => s.openArrives d q
/-- MSGCTL_OPEN_ACK (R239). -/
def execMsgctlOpenAck (d : EndAt) (q : Packet) (s : State) : Host.Outcome State Fault Refusal :=
  s.atArrival d q (isCtl q 2) fun s => s.openAckArrives d q
/-- MSGCTL_CREDIT (R247). -/
def execMsgctlCredit (d : EndAt) (q : Packet) (s : State) : Host.Outcome State Fault Refusal :=
  s.atArrival d q (isCtl q 3) fun s => s.creditArrives d q
/-- MSGCTL_CLOSE (R248). -/
def execMsgctlClose (d : EndAt) (q : Packet) (s : State) : Host.Outcome State Fault Refusal :=
  s.atArrival d q (isCtl q 4 && !s.wordWaits d q chOpen) fun s => s.closeArrives d q

end Sys2Proof.Machine
end

