-- ==== Sys2Proof/Machine/Stream.lean ====
section
/-!
DEFINITION. The stream plane (R183 to R194, R201): slot tables and queues of a router, the stream port's contexts, steering units, and the
digests of paired mode (R348).
-/

namespace Sys2Proof.Machine

/-! Queues. -/

/-- A queue of a map of queues; an unlisted one is empty. -/
def qGet (m : List (Nat × List Flit)) (k : Nat) : List Flit := (kget k m).getD []
/-- A queue set; an empty one is not listed. -/
def qSet (m : List (Nat × List Flit)) (k : Nat) (q : List Flit) : List (Nat × List Flit) := if q = [] then kdel k m else kput k q m
/-- The router beyond an output port: 0 N, 1 E, 2 S, 3 W. -/
def State.beyond (s : State) (t : TileId) (o : Nat) : Option TileId :=
  let x := t.px.toNat
  let y := t.py.toNat
  match o with
  | 0 => if y = 0 then none else some { t with py := t.py - 1 }
  | 1 => if x + 1 < 9 * s.member.w then some { t with px := t.px + 1 } else none
  | 2 => if y + 1 < 16 * s.member.h then some { t with py := t.py + 1 } else none
  | 3 => if x = 0 then none else some { t with px := t.px - 1 }
  | _ => none
/-- The port at which a flit sent on an output arrives. -/
def facing (o : Nat) : Nat := (o + 2) % 4
/-- A hop crosses a seam (R37): its routers lie in different half-dies. -/
def State.seamHop (s : State) (t u : TileId) : Bool := s.member.hdOf t ≠ s.member.hdOf u
/-- The flits waiting at an input of a router: an input queue, an egress queue at L, or a steering unit's output. -/
def Tile.inQueue (v : Tile) (port q : Nat) : List Flit :=
  match port with
  | 5 => (v.steer[q % 8]'(Nat.mod_lt _ (by decide))).qa
  | 6 => (v.steer[q % 8]'(Nat.mod_lt _ (by decide))).qb
  | _ => qGet v.router.queues (8 * port + q)
/-- A steering unit changed. -/
def Tile.modSteer (v : Tile) (u : Nat) (f : Steer → Steer) : Tile :=
  { v with steer := v.steer.set (u % 8) (f (v.steer[u % 8]'(Nat.mod_lt _ (by decide)))) (Nat.mod_lt _ (by decide)) }
/-- An input's queue written. -/
def Tile.setQueue (v : Tile) (port q : Nat) (fs : List Flit) : Tile :=
  match port with
  | 5 => v.modSteer q fun x => { x with qa := fs }
  | 6 => v.modSteer q fun x => { x with qb := fs }
  | _ => { v with router := { v.router with queues := qSet v.router.queues (8 * port + q) fs } }
/-- A context. -/
def Tile.ctx (v : Tile) (k : Nat) : Context := v.sport[k % 16]'(Nat.mod_lt _ (by decide))
/-- A context changed. -/
def Tile.modCtx (v : Tile) (k : Nat) (f : Context → Context) : Tile :=
  { v with sport := v.sport.set (k % 16) (f (v.ctx k)) (Nat.mod_lt _ (by decide)) }

/-- Credit an output holds for a downstream queue (R184): what the queue, seam buffer or ingress context leaves free. [DESIGN CHOICE, log entry 26] -/
def State.credit (s : State) (t : TileId) (o dq : Nat) : Nat :=
  if o = 4 then 16 - ((s.tile t).ctx (8 + dq)).buffer.length
  else match s.beyond t o with
    | some u =>
      let r := (s.tile u).router
      if (s.tile u).ward.rfence then 0
      else if s.seamHop t u then 64 - (qGet r.seamBuf (8 * facing o + dq)).length
      else 16 - (qGet r.queues (8 * facing o + dq)).length
    | none => 0
/-- An uncorrectable flit on a router link, recorded by the router that receives it (R333, R362): the plane and the port code; a crossing
between half-dies is a seam's (R61). [DESIGN CHOICE, log entry 86] -/
def State.linkFault (s : State) (t u : TileId) (plane o : Nat) : State :=
  if s.seamHop t u then s
  else ({ s with draws := s.draws + 1 } : State).tileFault u {
    cls := 2, addr := 5 * 2 ^ 60 + plane * 8 + facing o, bit := 0xFFFF0000 + (Config.syndrome s.draws).toNat }
/-- A flit sent on an output: to the next router, to the receive buffer of a seam, or to an ingress context; a twin gets what its primary's
local port gets (R348). -/
def State.sendFlit (s : State) (t : TileId) (o dq : Nat) (f : Flit) (bad : Option (Fin 5)) : State :=
  if o = 4 then
    let put := fun (v : Tile) => v.modCtx (8 + dq) fun c => { c with buffer := c.buffer ++ [f] }
    let s1 := s.modTile t put
    if (s1.tile (twinOf t)).ward.twin then s1.modTile (twinOf t) put else s1
  else match s.beyond t o with
    | some u =>
      let k := 8 * facing o + dq
      let push := fun (r : StreamRouter) =>
        if s.seamHop t u then { r with seamBuf := qSet r.seamBuf k (qGet r.seamBuf k ++ [f]) }
        else { r with queues := qSet r.queues k (qGet r.queues k ++ [f]) }
      if bad.any fun b => b.val = o then
        let f' : Flit := BitVec.ofNat 256 (leNat (upsetBytes s.draws 32))
        let push' := fun (r : StreamRouter) =>
          if s.seamHop t u then { r with seamBuf := qSet r.seamBuf k (qGet r.seamBuf k ++ [f']) }
          else { r with queues := qSet r.queues k (qGet r.queues k ++ [f']) }
        let s1 : State := { (s.modTile u fun v => { v with router := push' v.router }) with draws := s.draws + 1 }
        s1.linkFault t u 0 o
      else s.modTile u fun v => { v with router := push v.router }
    | none => s

/-! Slots. -/

/-- A route field of a slot-table entry (R185, R186), outputs in the order N, E, S, W, L. -/
structure RouteField where
  out : Nat
  inPort : Nat
  iq : Nat
  dq : Nat
  deriving DecidableEq, Repr
/-- The valid route fields of an entry. -/
def routeFields (e : Nat) : List RouteField :=
  (List.range 5).filterMap fun o =>
    let f := bitsOf e (10 * o + 9) (10 * o)
    if bitAt f 9 then some ⟨o, bitsOf f 8 6, bitsOf f 5 3, bitsOf f 2 0⟩ else none
/-- A group of route fields moves the head flit of its queue to every output, or nothing (R187). What a twin injects does not leave its tile
(R348). -/
def State.moveGroup (s : State) (t : TileId) (g : Nat × Nat) (fs : List RouteField) (bad : Option (Fin 5)) : State :=
  match (s.tile t).inQueue g.1 g.2 with
  | [] => s
  | f :: rest =>
    if fs.all (fun r => 0 < s.credit t r.out r.dq) then
      let own := (s.tile t).ward.twin && 4 ≤ g.1
      fs.foldl (fun s r => if own && r.out ≠ 4 then s else s.sendFlit t r.out r.dq f bad) (s.modTile t fun v => v.setQueue g.1 g.2 rest)
    else s
/-- The router's groups of a slot (R187). [DESIGN CHOICE, log entry 26] -/
def State.routeSlot (s : State) (t : TileId) (bad : Option (Fin 5)) : State :=
  let v := s.tile t
  let fs := routeFields (v.router.active[v.router.slot]).toNat
  let groups := (fs.map fun r => (r.inPort, r.iq)).eraseDups
  groups.foldl (fun s g => s.moveGroup t g (fs.filter fun r => (r.inPort, r.iq) = g) bad) s
/-- Each receive buffer of a seam passes a flit on to its input queue when that has room (R184). -/
def Tile.passSeams (v : Tile) : Tile :=
  v.router.seamBuf.foldl (fun v (k, fs) =>
    match fs with
    | [] => v
    | f :: rest =>
      if (qGet v.router.queues k).length < 16 then
        { v with router := { v.router with
          seamBuf := qSet v.router.seamBuf k rest
          queues := qSet v.router.queues k (qGet v.router.queues k ++ [f]) } }
      else v) v

/-! The stream port. -/

/-- One CRC-64 per injection stream of the beat (R348), continued with what the tile injects. [DEDUCED, log entry 29] -/
def Tile.digest (v : Tile) (stream : Nat) (bs : Bytes) : Tile :=
  let old := ((kget stream v.pairDigest).getD 0).toNat
  { v with pairDigest := kput stream (BitVec.ofNat 64 (crc64 old bs)) v.pairDigest }
/-- Two flits of a word, bytes 0 to 31 first (R190). -/
def wordFlits (bs : Bytes) : Flit × Flit := (BitVec.ofNat 256 (leNat (bs.take 32)), BitVec.ofNat 256 (leNat ((bs.drop 32).take 32)))
/-- A context's count of the beat advances; progress moves when it completes (R190). -/
def Tile.ctxCount (v : Tile) (k by_ : Nat) : Tile :=
  let c := v.ctx k
  let v1 := v.modCtx k fun c => { c with count := c.count + by_, stalled := false }
  if c.count < c.flits.toNat && c.flits.toNat ≤ c.count + by_ then
    { v1 with progress := { v1.progress with sport := v1.progress.sport + 1 } }
  else v1
/-- The next word of a context's ring: its slot within the ring and its address. -/
def Ring.wordAt (r : Ring) (slotIdx wordIdx : Nat) : Nat := r.base.toNat + slotIdx % max 1 r.slots.toNat * r.slotBytes + 64 * wordIdx
/-- The word after it. [DESIGN CHOICE, log entry 26] -/
def Context.next (c : Context) (r : Ring) : Context :=
  if c.wordIdx + 1 < r.slotWords.toNat then { c with wordIdx := c.wordIdx + 1 } else { c with wordIdx := 0, slotIdx := c.slotIdx + 1 }
/-- An egress context sends its next flit into its queue of input L (R190), unless it is done, stalled on its ring, or has no room; whether it
did. A twin's flits stay in it, one for each that its primary has sent (R348). [DEDUCED, log entry 29] -/
def State.egressFlit (s : State) (t : TileId) (k : Nat) (ecc : Ecc) : State × Bool :=
  let v := s.tile t
  let c := v.ctx k
  let r := v.rings[c.ring]
  let queue := qGet v.router.queues (32 + k)
  let full := if v.ward.twin then ((s.tile { t with py := t.py - 1 }).ctx k).count ≤ c.count else 16 ≤ queue.length
  if !c.active (s.zbis t) || c.flits.toNat ≤ c.count || full then (s, false)
  else
    let paired := match s.partOf t with
      | some p => (s.part p).paired
      | none => false
    let put := fun (v : Tile) (f : Flit) =>
      let v1 := if v.ward.twin then v else { v with router := { v.router with queues := qSet v.router.queues (32 + k) (queue ++ [f]) } }
      (if paired then v1.digest k (leBytes 32 f.toNat) else v1).ctxCount k 1
    match c.buffer with
    | f :: _ =>
      let v1 := (put v f).modCtx k fun c => ({ c with buffer := [] } : Context).next r
      let v2 := if c.wordIdx + 1 = r.slotWords.toNat then v1.modRing c.ring fun r => r.drain (c.slotIdx % max 1 r.slots.toNat) else v1
      (s.setTile t v2, true)
    | [] =>
      if r.readable (c.slotIdx % max 1 r.slots.toNat) then
        let a := r.wordAt c.slotIdx c.wordIdx
        let u := (s.upset t ecc).eccRead t 5 k 0 ecc
        let (f0, f1) := wordFlits (u.spadRead t a 64)
        let s1 := u.modTile t fun v => (put v f0).modCtx k fun c => { c with buffer := [f1] }
        match v.bankHit s.member (s.stepAt t) (· = .off) a 64 with
        | some x => (s1.tileFault t { cls := 0x10, eng := 5, slot := k, addr := x }, true)
        | none => (s1, true)
      else (s.modTile t fun v => v.modCtx k fun c => { c with stalled := true }, false)
/-- An ingress context writes the next pair of its flits into its ring (R190), unless there is nothing to write or its ring stalls it; whether
it did. -/
def State.ingressWord (s : State) (t : TileId) (k : Nat) : State × Bool :=
  let v := s.tile t
  let c := v.ctx k
  let r := v.rings[c.ring]
  match c.buffer with
  | f0 :: f1 :: rest =>
    if !c.active (s.zbis t) || c.flits.toNat ≤ c.count then (s, false)
    else
      let w := v.writeRun s.member (s.stepAt t) 5 (r.wordAt c.slotIdx c.wordIdx) (leBytes 32 f0.toNat ++ leBytes 32 f1.toNat)
      if w.block.isSome then (s.modTile t fun v => v.modCtx k fun c => { c with stalled := true }, false)
      else
        let s1 := s.setTile t ((w.tile.ctxCount k 2).modCtx k fun c => ({ c with buffer := rest } : Context).next r)
        match w.refused with
        | some x => (s1.tileFault t { cls := 0x10, eng := 5, slot := k, addr := x }, true)
        | none => (s1, true)
  | _ => (s, false)
/-- The first of a list of contexts that can move does; one that its ring stalls lets the next try. -/
def State.firstMove (f : State → Nat → State × Bool) : List Nat → State → State
  | [], s => s
  | k :: ks, s => if (f s k).2 then (f s k).1 else State.firstMove f ks (f s k).1
/-- The stream port of a tile works in its partition's beat. -/
def State.streamLive (s : State) (t : TileId) : Bool :=
  s.tileLive t && !(s.tile t).overrun && match s.partOf t with
    | some p => (s.part p).mayIssue
    | none => false
/-- One flit out and one word in at the stream port, lowest context first. [DESIGN CHOICE, log entry 26] -/
def State.portSlot (s : State) (t : TileId) (ecc : Ecc) : State :=
  if s.streamLive t then
    State.firstMove (fun s k => s.egressFlit t k ecc) (List.range 8)
      (State.firstMove (fun s k => s.ingressWord t (8 + k)) (List.range 8) s)
  else s
/-- STREAM_SLOT (R183, R187, R190): one slot of a router and its stream port, from cycle 64 of the beat to its deadline. [DESIGN CHOICE, log entry 26] -/
def State.streamSlot (s : State) (t : TileId) (ecc : Ecc) (bad : Option (Fin 5)) : State :=
  match s.partOf t with
  | some p =>
    if (s.tile t).ward.rfence || (s.part p).judged then s
    else
      let s0 := s.reachJob p ((s.part p).t (s.part p).beat + 64)
      let s1 := ((s0.portSlot t ecc).modTile t Tile.passSeams).routeSlot t bad
      s1.modTile t fun v => { v with router := { v.router with slot := v.router.slot + 1 } }
  | none => s
/-- STREAM_SLOT (R187). [DESIGN CHOICE, log entry 26] -/
def execStreamSlot (t : TileId) (ecc : Ecc) (bad : Option (Fin 5)) (s : State) : Host.Outcome State Fault Refusal := s.onTile t fun s => s.streamSlot t ecc bad

/-! Steering units. -/

/-- The port and queue of a steering input code (R191). -/
def steerIn (c : Byte) : Nat × Nat := (bitsOf c.toNat 6 4, bitsOf c.toNat 2 0)
/-- A unit's input queue. -/
def Tile.steerQueue (v : Tile) (c : Byte) : List Flit := v.inQueue (steerIn c).1 (steerIn c).2
/-- The head of an input dropped. -/
def Tile.steerPop (v : Tile) (c : Byte) : Tile := v.setQueue (steerIn c).1 (steerIn c).2 (v.steerQueue c).tail
/-- A data flit moved to an output queue of 4 flits, or discarded; none while it cannot move. -/
def Tile.steerFlit (v : Tile) (u : Nat) (c : Byte) (to_ : Option Bool) : Option Tile :=
  match v.steerQueue c with
  | [] => none
  | f :: _ =>
    let x := v.steer[u % 8]'(Nat.mod_lt _ (by decide))
    match to_ with
    | none => some (v.steerPop c)
    | some false => if x.qa.length < 4 then some ((v.steerPop c).modSteer u fun x => { x with qa := x.qa ++ [f] }) else none
    | some true => if x.qb.length < 4 then some ((v.steerPop c).modSteer u fun x => { x with qb := x.qb ++ [f] }) else none
/-- One data flit, or one SELECT pair, under the token in hand (R193). -/
def Tile.steerMove (v : Tile) (u : Nat) (sel : Bool) : Option Tile :=
  let x := v.steer[u % 8]'(Nat.mod_lt _ (by decide))
  match x.kind.toNat with
  | 1 => v.steerFlit u (if sel then x.in1 else x.in0) (some false)
  | 2 => v.steerFlit u x.in0 (some sel)
  | 3 =>
    let keep := if sel then x.in1 else x.in0
    let drop := if sel then x.in0 else x.in1
    if (v.steerQueue drop).isEmpty then none else (v.steerFlit u keep (some false)).bind fun v1 => v1.steerFlit u drop none
  | 4 => v.steerFlit u x.in0 (if sel then some false else none)
  | _ => none
/-- Flits move under the token in hand until it is used up or must wait. -/
def Tile.steerRun (u : Nat) : Nat → Tile → Tile
  | 0, v => v
  | fuel + 1, v =>
    match (v.steer[u % 8]'(Nat.mod_lt _ (by decide))).held with
    | some (sel, k + 1) =>
      match v.steerMove u sel with
      | some v1 => Tile.steerRun u fuel (v1.modSteer u fun x => { x with held := if k = 0 then none else some (sel, k) })
      | none => v
    | _ => v
/-- The next token taken, if none is in hand (R192): COUNT 0 moves nothing. -/
def Tile.takeToken (v : Tile) (u : Nat) : Tile :=
  let x := v.steer[u % 8]'(Nat.mod_lt _ (by decide))
  match x.held, v.steerQueue x.tok with
  | none, f :: _ =>
    let w := f.toNat % 2 ^ 32
    let count := bitsOf w 23 8
    (v.steerPop x.tok).modSteer u fun x => { x with held := if count = 0 then none else some (bitAt w 0, count) }
  | _, _ => v
/-- STEER_TOKEN (R183, R193): no sooner than cycle 64 of the beat, and not once its deadline has been judged. -/
def State.steerToken (s : State) (t : TileId) (su : Fin 8) : State :=
  match s.partOf t with
  | some p =>
    if (s.tile t).steer[su].kind = 0 || (s.tile t).ward.rfence || (s.part p).judged then s
    else (s.reachJob p ((s.part p).t (s.part p).beat + 64)).modTile t fun v => Tile.steerRun su.val 65535 (v.takeToken su.val)
  | none => s
/-- STEER_TOKEN (R193). [DESIGN CHOICE, log entry 26] -/
def execSteerToken (t : TileId) (su : Fin 8) (s : State) : Host.Outcome State Fault Refusal := s.onTile t fun s => s.steerToken t su

/-- The stream plane of a tile emptied: every flit discarded, every context count reset (R201). -/
def Tile.streamClear (v : Tile) : Tile :=
  { v with
    router := { v.router with queues := [], seamBuf := [] }
    steer := v.steer.map fun x => { x with held := none, qa := [], qb := [] }
    sport := v.sport.map fun c => { c with count := 0, buffer := [], slotIdx := 0, wordIdx := 0, stalled := false } }

end Sys2Proof.Machine
end

