-- ==== Sys2Proof/Machine/Net.lean ====
section
/-!
DEFINITION. The tile's side of the request and reply networks (R211 to R228): injection, fenced requests, reply deadlines, and the requests
and replies that reach a tile.
-/

namespace Sys2Proof.Machine

/-! Injection. -/

/-- The logical destination by which the fence orders requests (R225): native tile, partition DRAM, host memory, flat partner. -/
def destKey (q : Packet) : Nat × Nat :=
  if q.dstu ≠ 0 then (2, 0)
  else if bitAt q.dst.toNat 31 then (3, q.dst.toNat)
  else if q.dst.toNat % 8 = 6 && (q.type = 1 || q.type = 2) then (1, 0)
  else (0, q.dst.toNat / 8)
/-- A request made earlier to the same logical destination has no reply yet (R225). [DESIGN CHOICE, log entry 31] -/
def Tile.fenced (v : Tile) (w : Waiting) : Bool :=
  let same := fun (q : Packet) => destKey q = destKey w.pkt
  (v.inject.any fun y => y.stamp < w.stamp && same y.pkt) || (v.held.any fun y => y.stamp < w.stamp && same y.pkt) ||
    v.outstanding.any fun o => o.injected < w.stamp && same o.pkt
/-- The token bucket of a tile at an instant (R221): UNSCHED_RATE in units of 0.5 GB/s, burst 4 KiB. -/
def Tile.tokens (v : Tile) (now rate : Nat) : Nat := min 4096 (v.bucket + (now - v.bucketAt.toNat) * rate / 2)
/-- Bytes a packet takes from the bucket: header and payload. -/
def pktCost (q : Packet) : Nat := 32 + q.payload.length
/-- Buffer of a virtual channel at a router's input, in flits (R216): hops within a domain, and hops across a seam. -/
def vcBuffer (vc : Nat) (seam : Bool) : Nat :=
  match vc with
  | 0 => if seam then 80 else 24
  | 1 => if seam then 80 else 24
  | 2 => if seam then 24 else 18
  | _ => if seam then 8 else 6
/-- Flits a buffer holds: packets of one network and channel at an input. -/
def State.bufferUsed (s : State) (u : TileId) (inPort : Nat) (reply : Bool) (vc : Nat) : Nat :=
  ((s.net.filter fun k => (match k.loc with
      | .router t i => t = u && i.val = inPort
      | .ioDie _ _ => false) && pktIsReply k.pkt = reply && k.pkt.vc.toNat = vc).map fun k => pktFlits k.pkt).sum
/-- A waiting request that injection may take: the local input's buffer has credit for it (R216, R217), the bucket holds its bytes if it is unscheduled bulk, and the tile has fewer than 128
requests outstanding (R221). -/
def State.mayInject (s : State) (t : TileId) (p : PartId) (w : Waiting) : Bool :=
  let v := s.tile t
  v.outstanding.length < 128 &&
    (v.ward.twin || pktFlits w.pkt + s.bufferUsed t 4 false w.pkt.vc.toNat ≤ vcBuffer w.pkt.vc.toNat false) && (w.pkt.vc ≠ 1 || pktCost w.pkt ≤ v.tokens s.now (s.part p).rate)
/-- Whether R30 lets a tile of a partition reach the packet's destination. -/
def State.reachable (s : State) (p : PartId) (q : Packet) : Bool :=
  if q.dstu ≠ 0 || bitAt q.dst.toNat 31 || coordOf q.dst.toNat ≠ (s.part p).coord.toNat % 2 ^ 14 then true
  else
    let lx := bitsOf q.dst.toNat 12 8
    let ly := bitsOf q.dst.toNat 7 3
    lx < s.member.gx && ly < s.member.gy && (s.part p).hasHd (s.member.hdOfN (s.keyOfN p (ly * s.member.gx + lx))) && 3 ≤ q.dst.toNat % 8
/-- A request of a tile's engine ends with a status: its slot notes it, and the message unit acts on it (R174, R248). -/
def State.requestDone (s : State) (t : TileId) (q : Packet) (order : Nat) (ticket : Option U32) (status : Nat) : State :=
  let slots := fun (e : Eng) => ((s.tile t).q e).slots.find? fun x => some x.ticket = ticket
  if q.tag.toNat / 2 ^ 13 = 3 then
    match slots .dma with
    | some x => s.modSlot t .dma x.num fun y => { (y.note order status q.addr.toNat) with outstanding := y.outstanding - 1 }
    | none => s
  else match slots .msg with
    | some x => (s.modSlot t .msg x.num fun y => { y with outstanding := y.outstanding - 1 }).msgReplied t x status q.addr.toNat
    | none => s
/-- A waiting request leaves the tile: translated and put on the request network, or refused with UNREACHABLE (R30, R223, R227). -/
def State.injectNow (s : State) (t : TileId) (p : PartId) (w : Waiting) : State :=
  match (if s.reachable p w.pkt then s.dphysOf p t w.pkt else none) with
  | none => s.requestDone t w.pkt w.order w.ticket stUnreachable
  | some d =>
    let q := { w.pkt with dphys := d }
    let s1 := s.modTile t fun v => { v with
      outstanding := v.outstanding ++ [{
        pkt := q, deadline := s.jobTime p + (s.part p).replyUs * 1000, injected := w.stamp, order := w.order, ticket := w.ticket }]
      bucket := if q.vc = 1 then v.tokens s.now (s.part p).rate - pktCost q else v.bucket
      bucketAt := if q.vc = 1 then s.count else v.bucketAt }
    let s2 := if (s.part p).paired then s1.modTile t fun v => v.digest (16 + w.pkt.tag.toNat / 2 ^ 13) (pktBytes w.pkt) else s1
    if (s.tile t).ward.twin then s2 else s2.enter q t
/-- The router takes the first request that may go; a fenced one with earlier requests to its destination is held (R225). -/
def State.injectTile (s : State) (t : TileId) : State :=
  match s.partOf t with
  | none => s
  | some p =>
    match (s.tile t).inject.find? fun w => s.mayInject t p w with
    | none => s
    | some w =>
      let s1 := s.modTile t fun v => { v with inject := v.inject.erase w }
      if w.pkt.fence && (s1.tile t).fenced w then s1.modTile t fun v => { v with held := v.held ++ [w] } else s1.injectNow t p w

/-- The I/O die of a source outside the grid: Pintle sits at IO-W, functions 4 to 7 and ports 8 to 15 at IO-E. -/
def srcEast : InjectAt → Bool
  | .tile _ => false
  | .pintle => false
  | .port p => portEast p
  | .host f => 4 ≤ f.val
/-- DPHYS of a packet that an I/O die injects (R223): the tile, or the router of a stack in column 0 or 8 of its die. [DESIGN CHOICE, log entry 32] -/
def State.ioTarget (s : State) (east : Bool) (q : Packet) : Option (BitVec 16 × BitVec 5) :=
  let at_ := fun (px py : Nat) => (BitVec.ofNat 16 (px * 256 + py), BitVec.ofNat 5 py)
  if q.mcast then some (q.dphys, BitVec.ofNat 5 (bitsOf q.dst.toNat 12 8))
  else if q.dst.toNat % 8 = 6 && (q.type = 1 || q.type = 2) then
    let p : Part := if h : q.part.toNat < 16 then s.part ⟨q.part.toNat, h⟩ else {}
    (p.dpa q.addr.toNat).map fun d =>
      let st := s.stackOf d
      at_ (9 * (st / 4 % s.member.w) + (if east then 8 else 0)) (s.member.stackRow st 0)
  else if q.vc = 2 then some (q.dphys, BitVec.ofNat 5 (q.dphys.toNat % 32))
  else ((pktPart q).bind fun p => s.translate p none (s.member.nOfAddr q.dst.toNat)).map fun t => at_ t.px.toNat t.py.toNat
/-- Requests of Pintle whose reply deadline has passed (R227): each completes NO_REPLY with FC_HANG, cause 6, of UNIT 5; its deadline is the
default, 2 ms, or 20 default beats. [DEDUCED, log entry 58] -/
def State.unitOverdue (s : State) : State :=
  let late := s.mgmtOut.filter fun x => x.2 < s.now
  late.foldl (fun s x => s.unitFault none { cls := 6, unit := 5, addr := 6 + 256 * 20 + 65536 * x.1.toNat, clears := false })
    { s with mgmtOut := s.mgmtOut.filter fun x => s.now ≤ x.2 }
/-- The reply deadline of a request that Pintle injects (R227). [DESIGN CHOICE, log entry 58] -/
def State.unitAsked (s : State) (src : InjectAt) (q : Packet) : State :=
  if src = .pintle && !q.mcast then { s with mgmtOut := s.mgmtOut ++ [(q.tag, s.now + 2000000)] } else s
/-- A source outside the grid injects its oldest packet; one without a place in the grid goes no further (R30). -/
def State.injectIo (s : State) (src : InjectAt) : State :=
  match s.ioQueue.find? fun x => x.1 = src with
  | none => s
  | some x =>
    let s1 := ({ s.unitOverdue with ioQueue := s.ioQueue.erase x } : State).unitAsked src x.2
    match s.ioTarget (srcEast src) x.2 with
    | some (d, row) => { s1 with net := s1.net ++ [{ pkt := { x.2 with dphys := d }, loc := .ioDie (srcEast src) row }] }
    | none => s1
/-- PACKET_INJECT (R30, R223, R225). -/
def execPacketInject (src : InjectAt) (s : State) : Host.Outcome State Fault Refusal :=
  match src with
  | .tile t => s.onTile t fun s => s.injectTile t
  | _ => .next (s.injectIo src)
/-- FENCED_REQUEST_RELEASE (R225): the index-th held request goes once every earlier request to its destination has its reply. [DESIGN CHOICE, log entry 31] -/
def execFencedRequestRelease (t : TileId) (index : Nat) (s : State) : Host.Outcome State Fault Refusal :=
  s.onTile t fun s => match (s.tile t).held[index]?, s.partOf t with
    | some w, some p =>
      if !(s.tile t).fenced w && s.mayInject t p w then (s.modTile t fun v => { v with held := v.held.erase w }).injectNow t p w else s
    | _, _ => s

/-! Deadlines. -/

/-- The instruction that issued a descriptor, by its ticket. -/
def Tile.pcOf (v : Tile) (e : Eng) (ticket : Option U32) : Nat :=
  match (v.q e).slots.find? fun x => some x.ticket = ticket with
  | some x => x.pc.toNat
  | none => 0
/-- A request completes NO_REPLY at its deadline (R227). [DESIGN CHOICE, log entry 22] -/
def State.noReply (s : State) (t : TileId) (p : PartId) (o : Outstanding) : State :=
  let s1 := s.modTile t fun v => { v with outstanding := v.outstanding.erase o }
  let e := if o.pkt.tag.toNat / 2 ^ 13 = 3 then Eng.dma else Eng.msg
  (s1.hangReply t p o.pkt.tag ((s.tile t).pcOf e o.ticket) (o.deadline - (s.part p).replyUs * 1000) o.deadline).requestDone t o.pkt
    o.order o.ticket stNoReply
/-- REPLY_TIMEOUT (R227, R252): nothing has answered the request of a TAG by its deadline. -/
def execReplyTimeout (t : TileId) (tag : U16) (s : State) : Host.Outcome State Fault Refusal :=
  s.onTile t fun s => match s.partOf t with
    | none => s
    | some p => match (s.tile t).outstanding.find? fun o => o.pkt.tag = tag with
      | some o => (s.reachJob p (o.deadline + 1)).noReply t p o
      | none => match (s.tile t).sending.find? fun x => x.allot.isNone && 4 * 32 + x.num.val = tag.toNat / 256 with
        | some x => (s.reachJob p (x.deadline + 1)).sendOverdue t p x
        | none => s

/-! Requests at a tile. -/

/-- The first check of a window that an access fails (R177), and the address it falls on. [DEDUCED, log entry 19] -/
def Window.check (w : Window) (q : Packet) (write : Bool) (len : Nat) : Option Nat × Nat :=
  let off := q.addr.toNat % 2 ^ 60
  let coord := coordOf q.src.toNat
  let ok := w.isOpen && !w.shut && bitAt w.flags.toNat (if write then 0 else 1) &&
    ((coord ^^^ w.srcMatch.toNat) &&& w.srcMask.toNat) = 0 && w.epochFirst.toNat ≤ q.step.toNat && q.step.toNat ≤ w.epochLast.toNat &&
    off + len ≤ 64 * w.size64.toNat
  (if ok then none else some stWindow, w.base.toNat + off)
/-- A refusal counted against a window and answered (R177). [DEDUCED, log entry 19] -/
def State.windowRefuse (s : State) (t : TileId) (q : Packet) (status : Nat) : State :=
  (s.modTile t fun v => v.modWindow (bitsOf q.addr.toNat 63 60) fun w =>
    { w with refused := if status = stWindow then w.refused + 1 else w.refused }).reply t q status [] false
/-- An uncorrectable word met at a stack on behalf of a partition (R169): the record and the row; the requester is cleared by UE. [DEDUCED, log entry 30] -/
def State.stackEcc (s : State) (p : Option PartId) (ecc : Ecc) : State :=
  match s.erasedEcc ecc with
  | .dram dpa sym => (s.unitFault p { cls := 1, unit := 4, addr := dpa.toNat, bit := sym.toNat }).markRow (s.dramLoc dpa.toNat) sym 1
  | _ => s.correctDram ecc
/-- Whether words were read as uncorrectable. -/
def eccBad : Ecc → Bool
  | .clean => false
  | .corrected _ => false
  | _ => true

/-- A write into a window's scratchpad, ring by ring and bank by bank (R157, R161, R177, R180). -/
def State.writeSpad (s : State) (t : TileId) (q : Packet) (a : Nat) (ecc : Ecc) : State :=
  let v := s.tile t
  let step := s.stepAt t
  let k := q.payload.length
  let draining := v.bankHit s.member step (fun b => match b with
    | .draining since => since ≠ (match s.partOf t with
      | some p => s.jobTime p
      | none => s.now)
    | .off => true
    | _ => false) a k
  if draining.isSome then s.windowRefuse t q stBankOff
  else if (v.bankHit s.member step (fun b => !b.takesWrites) a k).isSome then
    s.modTile t fun v => { v with bankWrites := v.bankWrites ++ [⟨BitVec.ofNat 22 (physAddr v.carries step a), q.payload, q⟩] }
  else
    let s1 := (s.upset t ecc).eccRead t 6 0 0 ecc
    let v := s1.tile t
    let w := v.writeRun s.member step 3 a q.payload
    match w.block with
    | none => (s1.setTile t w.tile).reply t q stOk [] false
    | some (i, _) =>
      s1.setTile t { w.tile with ingress := w.tile.ingress ++ [{
        pkt := { q with payload := q.payload.drop w.count }, ring := i, addr := BitVec.ofNat 22 (a + w.count), began := s.beatAt t }] }
/-- Words in the ring ingress buffer (R161). -/
def Tile.ingressWords (v : Tile) : Nat := (v.ingress.map fun h => (h.pkt.payload.length + 63) / 64).sum
/-- A WRITE at a tile: the window's checks, then bank, region and ring (R177), or a stack's DRAM (R223). -/
def State.writeArrives (s : State) (t : TileId) (q : Packet) (ecc : Ecc) : State :=
  let k := q.payload.length
  if isDramReq q then
    match pktPart q with
    | some p =>
      if s.rangeOn p q.addr.toNat k then (s.partWrite p q.addr.toNat q.payload).reply t q stOk [] false
      else s.reply t q stRegionOff [] false
    | none => s.reply t q stUnreachable [] false
  else
    let w := (s.tile t).window (bitsOf q.addr.toNat 63 60)
    match w.check q true k with
    | (some st, _) => s.windowRefuse t q st
    | (none, a) =>
      if w.kind = 0 then s.writeSpad t q a ecc
      else match s.partOf t with
        | some p =>
          if (s.part p).commitBlocked a k then s.windowRefuse t q stWindow
          else if s.rangeOn p a k then (s.tileDramPut t p a q.payload).reply t q stOk [] false
          else s.windowRefuse t q stRegionOff
        | none => s.windowRefuse t q stWindow
/-- A WRITE meets a ring slot that is not free, and the ingress buffer of 16 words has no room for what would be held of it (R161). -/
def State.ringFull (s : State) (t : TileId) (q : Packet) : Bool :=
  let v := s.tile t
  let w := v.window (bitsOf q.addr.toNat 63 60)
  let r := v.writeRun s.member (s.stepAt t) 3 (w.base.toNat + q.addr.toNat % 2 ^ 60) q.payload
  !isDramReq q && w.kind = 0 && (w.check q true q.payload.length).1.isNone && r.block.isSome &&
    16 < v.ingressWords + (q.payload.length - r.count + 63) / 64
/-- A WRITE cannot be taken yet: its bank is clearing itself (R182), or it meets a ring slot that is not free and the ingress buffer has no
room for what would be held of it (R161). -/
def State.writeWaits (s : State) (t : TileId) (q : Packet) : Bool :=
  let v := s.tile t
  let w := v.window (bitsOf q.addr.toNat 63 60)
  s.ringFull t q || (!isDramReq q && w.kind = 0 && (w.check q true q.payload.length).1.isNone &&
    v.clearing s.member (s.stepAt t) (w.base.toNat + q.addr.toNat % 2 ^ 60) q.payload.length)
/-- A READ of a bank that is clearing itself waits (R182). -/
def State.readWaits (s : State) (t : TileId) (q : Packet) : Bool :=
  let v := s.tile t
  let w := v.window (bitsOf q.addr.toNat 63 60)
  !isDramReq q && w.kind = 0 && (w.check q false q.len.toNat).1.isNone &&
    v.clearing s.member (s.stepAt t) (w.base.toNat + q.addr.toNat % 2 ^ 60) q.len.toNat
/-- WRITE_REQUEST (R177). -/
def execWriteRequest (t : TileId) (q : Packet) (ecc : Ecc) (s : State) : Host.Outcome State Fault Refusal :=
  s.atArrival (.tile t) q (q.type = 1 && !s.writeWaits t q) fun s => s.writeArrives t q ecc
/-- A READ at a tile (R177, R153, R169). [DEDUCED, log entry 30] -/
def State.readArrives (s : State) (t : TileId) (q : Packet) (ecc : Ecc) : State :=
  let k := q.len.toNat
  let dram := fun (s : State) (p : PartId) (a : Nat) =>
    let e := s.retiredEcc p a k ecc
    let u := s.upset t e
    (u.stackEcc (some p) e).reply t q stOk (u.partRead p a k) (eccBad e)
  if isDramReq q then
    match pktPart q with
    | some p => if s.rangeOn p q.addr.toNat k then dram s p q.addr.toNat else s.reply t q stRegionOff [] false
    | none => s.reply t q stUnreachable [] false
  else
    let w := (s.tile t).window (bitsOf q.addr.toNat 63 60)
    match w.check q false k with
    | (some st, _) => s.windowRefuse t q st
    | (none, a) =>
      if w.kind = 0 then
        if ((s.tile t).bankHit s.member (s.stepAt t) (· = .off) a k).isSome then s.windowRefuse t q stBankOff
        else
          let u := s.upset t ecc
          (u.eccRead t 6 0 0 ecc).reply t q stOk (u.spadRead t a k) (eccBad ecc)
      else match s.partOf t with
        | some p => if s.rangeOn p a k then dram s p a else s.windowRefuse t q stRegionOff
        | none => s.windowRefuse t q stWindow
/-- READ_REQUEST (R177). -/
def execReadRequest (t : TileId) (q : Packet) (ecc : Ecc) (s : State) : Host.Outcome State Fault Refusal :=
  s.atArrival (.tile t) q (q.type = 2 && !s.readWaits t q) fun s => s.readArrives t q ecc

/-! Replies at a tile. -/

/-- The outstanding request a reply answers (R227). -/
def Tile.answered (v : Tile) (q : Packet) : Option Outstanding := v.outstanding.find? fun o => o.pkt.tag = q.tag
/-- A reply that matches nothing is discarded and counted (R227). -/
def State.stray (s : State) (t : TileId) : State := s.modTile t fun v => { v with strayReplies := v.strayReplies + 1 }
/-- A reply ends its request; an answer to the DMA engine moves its progress counter (R363). [DESIGN CHOICE, log entry 22] -/
def State.replyDone (s : State) (t : TileId) (o : Outstanding) (status : Nat) : State :=
  let s1 := s.modTile t fun v => { v with
    outstanding := v.outstanding.erase o
    progress := if o.pkt.tag.toNat / 2 ^ 13 = 3 then v.progress.bump .dma else v.progress }
  s1.requestDone t o.pkt o.order o.ticket status
/-- The request that a reply answers; one that is answered after its deadline has completed NO_REPLY (R57, R227), and its reply is stray. -/
def State.inTime (s : State) (t : TileId) (q : Packet) : State × Option Outstanding :=
  match (s.tile t).answered q, s.partOf t with
  | some o, some p => if o.deadline < s.jobTime p then (s.noReply t p o, none) else (s, some o)
  | o, _ => (s, o)
/-- The tile that DPHYS of a packet for the grid names (R211). -/
def tilePlace (t : TileId) : U16 := BitVec.ofNat 16 (t.px.toNat * 256 + t.py.toNat)
/-- The completion of a ward's NOTICE (R325): the ward sends the next record of its queue. -/
def State.noticeDone (s : State) (t : TileId) (q : Packet) : State :=
  let w := (s.tile t).ward
  if w.urgent && q.tag = w.tag && q.dphys = tilePlace t then
    (s.modTile t fun v => { v with ward := { v.ward with queue := v.ward.queue.tail, urgent := false } }).sendNotice t
  else s.stray t
/-- CMPL (R214). -/
def execCmpl (t : TileId) (q : Packet) (s : State) : Host.Outcome State Fault Refusal :=
  s.atArrival (.tile t) q (q.type = 0x81) fun s =>
    if q.vc = 3 then s.noticeDone t q
    else match s.inTime t q with
      | (s1, some o) => s1.replyDone t o (q.addr.toNat % 2 ^ 16)
      | (s1, none) => s1.stray t
/-- Read data reach the DMA engine: the bytes go on to the destination (R172); UE is recorded (R153, R212). None while a ring, a clearing
bank, the TAGs in use or an overrun (R56) hold them. [DEDUCED, log entry 30] -/
def State.dataArrives (s : State) (t : TileId) (p : PartId) (q : Packet) (o : Outstanding) : Option State :=
  match (s.tile t).dma.slots.find? fun x => some x.ticket = o.ticket with
  | none => some (s.replyDone t o stOk)
  | some x =>
    let g := dmaArgs x.desc
    if g.dsp ≠ 0 && (!(s.tile t).tagFree .dma x || ((s.tile t).heldBack x && s.writeAsks t p g o.order)) then none
    else
      let (s1, _, ok) := s.dmaStore t p x g o.order q.payload
      if !ok then none
      else
        let s2 := if q.ue && !isDramReq o.pkt then
            s1.engFault t .dma x 2 (6 * 2 ^ 60 + bitsOf o.pkt.addr.toNat 63 60 * 2 ^ 56 + o.pkt.addr.toNat % 2 ^ 42) 0xFFFF0000 true
          else if q.ue then s1.clearTile t 1 else s1
        some (s2.replyDone t o stOk)
/-- A ring that holds arriving read data stalls their descriptor (R159). -/
def State.dataStalls (s : State) (t : TileId) (p : PartId) (q : Packet) (o : Outstanding) : State :=
  match (s.tile t).dma.slots.find? fun x => some x.ticket = o.ticket with
  | some x =>
    let g := dmaArgs x.desc
    let w := (s.tile t).writeRun s.member (s.stepAt t) 3 (g.dst + o.order) q.payload
    match w.block with
    | some b => if g.dsp = 0 then s.modSlot t .dma x.num fun y => y.stallAt true (s.part p).beat b else s
    | none => s
  | none => s
/-- CMPL_D (R212, R214). -/
def execCmplD (t : TileId) (q : Packet) (ecc : Ecc) (s : State) : Host.Outcome State Fault Refusal :=
  s.onTile t fun s =>
    if q.type = 0x82 && s.waitsAt (.tile t) q then
      let (s1, answers) := (s.takeAt (.tile t) q).inTime t q
      match answers, s1.partOf t with
      | some o, some p =>
        if q.addr.toNat % 2 ^ 16 = stOk then
          match ((s1.upset t ecc).eccRead t 3 (bitsOf q.tag.toNat 12 8) ((s1.tile t).pcOf .dma o.ticket) ecc).dataArrives t p q o with
          | some s2 => s2
          | none => s.dataStalls t p q o
        else s1.replyDone t o (q.addr.toNat % 2 ^ 16)
      | _, _ => s1.stray t
    else s

/-! Management requests (R213). The manual names what they reach, not the addresses: IMEM and the sequencer at endpoint 0, the queues of
the MXE and VXE at 1 and 2, the ward's words, the pending placement map and the pending slot table at 6. -/

/-- The load order of a tile (R389) from its payload. [DESIGN CHOICE, log entry 20] -/
def loadOrder (bs : Bytes) : Load :=
  { image := BitVec.ofNat 16 (fieldAt bs 0 2), frags := BitVec.ofNat 32 (fieldAt bs 2 2), length := BitVec.ofNat 32 (fieldAt bs 4 4),
    deadline := BitVec.ofNat 64 (fieldAt bs 8 4), digest := (bs.drop 16).take 64, armed := true,
    status := BitVec.ofNat 32 (2 ^ 30 + fieldAt bs 0 2) }
/-- A descriptor put on an engine's queue by Pintle, unless it is malformed (R107, R123). [DESIGN CHOICE, log entry 20] -/
def State.mgmtEnq (s : State) (t : TileId) (e : Eng) (d : Bytes) : State :=
  if !s.descOk t e d then s
  else s.modTile t fun v =>
    let q := v.q e
    match q.freeSlot with
    | some i => v.setQ e { q with enq := q.enq + 1, slots := q.slots ++ [{
        num := i, desc := d, ticket := q.enq + 1, pc := 0, binding := .unscheduled }] }
    | none => v
/-- The ward's control word written (R324): a TFENCE discards queues and stops the tile. [DESIGN CHOICE, log entry 20] -/
def Tile.setWard (v : Tile) (w : Nat) : Tile :=
  let v1 := { v with ward := v.ward.setWord w }
  if v1.ward.tfence then v1.discard else v1
/-- A management write (R94, R185, R213, R324, R389). [DESIGN CHOICE, log entry 20] -/
def State.mgmtWrite (s : State) (t : TileId) (q : Packet) : State :=
  let a := q.addr.toNat
  let bs := q.payload
  match q.dst.toNat % 8 with
  | 0 =>
    if a < 0x20000 then s.modTile t fun v => { v with imem := v.imem.put a bs }
    else s.modTile t fun v => { v with seq := { v.seq with
      run := if fieldAt bs 0 1 = 1 then (if v.seq.run = .held then .running else v.seq.run) else .held } }
  | 1 => s.mgmtEnq t .mxe bs
  | 2 => s.mgmtEnq t .vxe bs
  | 6 =>
    if a = 0 then s.modTile t fun v => v.setWard (fieldAt bs 0 4)
    else if a = 0x100 then s.modTile t fun v => { v with load := loadOrder bs }
    else if 0x1000 ≤ a && a < 0x1100 then
      s.modTile t fun v => { v with router := { v.router with
        pendingTable := v.router.pendingTable.set ((a - 0x1000) / 8 % 32) (BitVec.ofNat 64 (fieldAt bs 0 8 % 2 ^ 50)) (Nat.mod_lt _ (by decide)) } }
    else if 0x2000 ≤ a && a < 0x3000 then
      s.modTile t fun v => { v with
        mapNext := kput ((a - 0x2000) / 2) (BitVec.ofNat 16 (fieldAt bs 0 2) &&& 0xC0F7) v.mapNext }
    else s
  | _ => s
/-- The data a management read answers (R213, R324, R390). [DESIGN CHOICE, log entry 20] -/
def State.mgmtRead (s : State) (t : TileId) (q : Packet) : Bytes :=
  let a := q.addr.toNat
  let k := q.len.toNat
  let v := s.tile t
  match q.dst.toNat % 8 with
  | 0 => (List.range k).map fun i => v.imem.get (tileKey t) (a + i)
  | 1 => padTo k (leBytes 4 v.mxe.enq.toNat ++ leBytes 4 v.mxe.done.toNat)
  | 2 => padTo k (leBytes 4 v.vxe.enq.toNat ++ leBytes 4 v.vxe.done.toNat)
  | _ =>
    if a = 0 then padTo k (leBytes 4 (wardWord v.ward (s.heldKey t).isSome))
    else if a = 8 then padTo k (leBytes 4 v.load.status.toNat)
    else if 0x1000 ≤ a && a < 0x1100 then
      padTo k (leBytes 8 (v.router.active[(a - 0x1000) / 8 % 32]'(Nat.mod_lt _ (by decide))).toNat)
    else if 0x2000 ≤ a && a < 0x3000 then padTo k (leBytes 2 (s.pendEntry t ((a - 0x2000) / 2)))
    else List.replicate k 0
/-- MGMT_WR (R213). -/
def execMgmtWr (t : TileId) (q : Packet) (s : State) : Host.Outcome State Fault Refusal :=
  s.atArrival (.tile t) q (q.type = 5) fun s => (s.mgmtWrite t q).reply t q stOk [] false
/-- MGMT_RD (R213). -/
def execMgmtRd (t : TileId) (q : Packet) (s : State) : Host.Outcome State Fault Refusal :=
  s.atArrival (.tile t) q (q.type = 6) fun s => s.reply t q stOk (s.mgmtRead t q) false
/-- The NOTICE of a tile's ward that has reached IO-W (R361). -/
def State.noticeAt (s : State) (t : TileId) : Option NetPkt :=
  s.net.find? fun k => k.pkt.type = 8 && k.pkt.dstu = 1 && fieldAt k.pkt.payload 6 2 = t.px.toNat * 256 + t.py.toNat && (match k.loc with
    | .ioDie east _ => !east
    | .router _ _ => false)
/-- The fault inbox takes the record of a NOTICE and completes it (R214, R361). [DESIGN CHOICE, log entry 28] -/
def State.noticeTaken (s : State) (t : TileId) (k : NetPkt) : State :=
  let s1 := ({ s with net := s.net.erase k } : State).toInbox (parseRecord k.pkt.payload)
  { s1 with net := s1.net ++ [{ pkt := { ioReply 1 0 k.pkt stOk [] with dphys := tilePlace t }, loc := .ioDie false t.py }] }
/-- NOTICE (R325, R361): a ward's record reaches the fault inbox; a full inbox withholds the completion. [DESIGN CHOICE, log entry 28] -/
def execNotice (t : TileId) (s : State) : Host.Outcome State Fault Refusal :=
  s.onTile t fun s => match s.noticeAt t with
    | some k => if s.inbox.length < 4096 then s.noticeTaken t k else s
    | none => s

end Sys2Proof.Machine
end

