-- ==== Sys2Proof/Machine/Ports.lean ====
section
/-!
DEFINITION. Link ports (R283 to R318): faults and events of a port, egress stage and spill area, the way a packet takes from an I/O die,
the check of inbound packets, Hasp frames out and in.
-/

namespace Sys2Proof.Machine

/-! Faults, events, messages. -/

/-- A port's clean bit cleared (R259). -/
def State.clearPort (s : State) (port : PortId) (cls : Byte) : State :=
  let s1 := s.modPort port fun q => { q with unclean := markUnclean q.unclean cls (match q.part with
    | some p => s.jobTime p
    | none => s.now) }
  match (s.port port).part with
  | some p => s1.noteClear p cls
  | none => s1
/-- A fault that a port records (R356). -/
def State.portFault (s : State) (port : PortId) (a : FaultArgs) : State :=
  let s1 := s.unitFault (s.port port).part { a with unit := 2 }
  if a.clears then s1.clearPort port (BitVec.ofNat 8 a.cls) else s1
/-- A LINK event of a port (R420, R422). -/
def State.linkEvent (s : State) (port : PortId) (code : Nat) (arg : Nat) : State :=
  let body := leBytes 1 port.val ++ leBytes 1 arg
  match (s.port port).part with
  | some p => s.postPart p 5 code body
  | none => s.postAdmin 5 code body
/-- A port of a job: named by its partition's exit table (R231). -/
def State.isJobPort (s : State) (port : PortId) : Bool := match (s.port port).part with
  | some p => (s.part p).job = .running && (s.part p).jobPorts.contains port
  | none => false
/-- FC_LINK_LOST with a cause (R321): recorded, the clean bit cleared, HALT on a job port. -/
def State.linkLost (s : State) (port : PortId) (cause : Nat) : State :=
  let s1 := s.portFault port { cls := 9, addr := port.val * 256 + cause }
  match (s.port port).part with
  | some p => if s.isJobPort port then s1.sendHalt p 9 (s.part p).coord none else s1
  | none => s1
/-- A control message queued on a link (R291); an equal one that waits is not queued twice. [DESIGN CHOICE, log entry 37] -/
def Link.say (l : Link) (kind : Byte) (bs : Bytes) : Link :=
  if l.ctl.contains (kind, padTo 32 bs) then l else { l with ctl := l.ctl ++ [(kind, padTo 32 bs)] }
/-- The precedence of a control message, highest first: its code (R291). [DESIGN CHOICE, log entry 37] -/
def State.sendCtl (s : State) (port : PortId) (x : Session) (kind : Byte) (bs : Bytes) : State :=
  s.modLink port x fun l => l.say kind bs
/-- A control message that has arrived, taken to be acted on. [DESIGN CHOICE, log entry 37] -/
def State.takeCtl (s : State) (port : PortId) (x : Session) (kind : Byte) (bs : Bytes) : Option State :=
  if s.ctlIn.contains (port, x, kind, padTo 32 bs) then some { s with ctlIn := s.ctlIn.erase (port, x, kind, padTo 32 bs) } else none
/-- A protocol error (R317). -/
def State.protocolError (s : State) (port : PortId) (x : Session) : State :=
  s.modLink port x fun l => { l with
    protocol := l.protocol + 1, protoAt := (l.protoAt ++ [s.now]).filter fun t => s.now < t + 1000000000 }
/-- The link carries traffic: admitted, or silent (R320). -/
def Link.live (l : Link) : Bool := (l.state = .admitted || l.state = .silent) && !l.standby

/-! Egress. -/

/-- The link channel of a packet (R232): request network 0 to 7, reply network 8 to 15. -/
def linkChan (q : Packet) : Nat := 8 * b2n (pktIsReply q) + 2 * q.vc.toNat + b2n q.dl
/-- Bytes of a packet in a stage. -/
def pktSize (q : Packet) : Nat := 16 * pktFlits q
/-- Bytes of a link channel in a port's egress stage. -/
def Port.stageBytes (q : Port) (ch : Nat) : Nat := ((q.egress.filter fun x => linkChan x.2 = ch).map fun x => pktSize x.2).sum
/-- Bytes in a port's spill area. -/
def Port.spillBytes (q : Port) : Nat := (q.spill.map fun x => pktSize x.2).sum
/-- Room in the stage of a packet's channel, behind nothing spilled (R230). -/
def Port.stageTakes (q : Port) (p : Packet) : Bool :=
  q.stageBytes (linkChan p) + pktSize p ≤ 32768 && q.spill.all fun x => linkChan x.2 ≠ linkChan p
/-- Bytes of inbound requests held for credit (R251). -/
def SvcBinding.heldBytes (b : SvcBinding) : Nat := (b.waiting.map (·.length)).sum
/-- Bytes of inbound requests that every binding of a port holds in its spill area (R251). -/
def State.heldAt (s : State) (port : PortId) : Nat := ((s.bindings.filter fun b => b.2.port = port).map fun b => b.2.heldBytes).sum
/-- A packet taken by the stage or spilled, in arrival order; none when both are full (R230): `held` bytes of the spill area hold inbound
requests (R251). -/
def Port.take (q : Port) (held : Nat) (x : Session) (p : Packet) : Option Port :=
  if q.stageTakes p then some { q with egress := q.egress ++ [(x, p)] }
  else if q.spillBytes + held + pktSize p ≤ 2 ^ 24 then some { q with spill := q.spill ++ [(x, p)] }
  else none
/-- Spilled packets return to the stage in arrival order as it drains. -/
def Port.refill : Nat → Port → Port
  | 0, q => q
  | fuel + 1, q =>
    match q.spill.find? fun x => q.stageBytes (linkChan x.2) + pktSize x.2 ≤ 32768 &&
        (q.spill.takeWhile fun y => y ≠ x).all fun y => linkChan y.2 ≠ linkChan x.2 with
    | some x => Port.refill fuel { q with spill := q.spill.erase x, egress := q.egress ++ [x] }
    | none => q
/-- DL as a packet takes a link (R232): cleared on a new ring dimension, set on the link between coordinates N − 1 and 0. -/
def dlAfter (m : Manifest) (d : Fin 6) (arrived : Option (Fin 6)) (dl : Bool) : Bool :=
  let c := m.coord.toNat
  let (n, v) := match d.val / 2 with
    | 0 => (m.nx, bitsOf c 13 9)
    | 1 => (m.ny, bitsOf c 8 4)
    | _ => (m.nz, bitsOf c 3 0)
  let kept := dl && match arrived with
    | some e => e.val / 2 = d.val / 2
    | none => false
  kept || (if d.val % 2 = 0 then v + 1 = n else v = 0)
/-- The session an egress packet takes: the destination's device in an Ethernet mode (R304). -/
def State.sessionOf (s : State) (port : PortId) (q : Packet) : Option Session :=
  if (s.port port).isEth then
    match (pktPart q).bind fun p => (s.part p).manifest with
    | some m => ((m.deviceOf (coordOf q.dst.toNat)).bind (s.port port).sessionTo).map some
    | none => none
  else some none
/-- Scheduled bulk meets a port that is SILENT from an earlier beat on (R318, R320). -/
def State.silentTo (s : State) (v : Port) (l : Link) (q : Packet) : Bool :=
  l.state = .silent && q.vc = 0 && match v.part with
    | some p => l.silentFrom ≤ (s.part p).beat
    | none => true
/-- A refusal at a link that REMOVE has taken out of service is counted (R322). -/
def State.countRemoved (s : State) (port : PortId) (x : Session) : State :=
  s.modLink port x fun l => if l.removed then { l with refusals := l.refusals + 1 } else l
/-- A READ of a partner that a link has outstanding is answered: by its initiator's address and TAG, whichever link the answer leaves by (R314). [DESIGN CHOICE, log entry 40] -/
def Link.answeredRead (q : Packet) (l : Link) : Link :=
  { l with reads := l.reads.filter fun r => !(r.1 / 8 = q.dst / 8 && r.2 = q.tag) }
/-- The READs outstanding at every link without the one that a reply answers (R314). -/
def State.readAnswered (s : State) (q : Packet) : State :=
  if q.type = 0x82 then { s with ports := s.ports.map fun v => { v with
      native := v.native.answeredRead q, sessions := v.sessions.map fun x => (x.1, x.2.answeredRead q) } }
  else s
/-- A packet reaches the I/O die of its exit port (R31, R230, R318): the status that refuses it, 0 when it is taken. `arrived` is the
direction it came by when it is in transit. A flat-form packet to a port that is not admitted is refused with UNREACHABLE, as R31 has it for
this form. [DEDUCED, log entry 40] -/
def State.toExit (s0 : State) (port : PortId) (arrived : Option (Fin 6)) (q : Packet) : State × Nat :=
  let s := s0.readAnswered q
  let v := s.port port
  let pid := pktPart q
  if bitAt q.dst.toNat 31 then
    if !(v.isFlat && v.native.live) then (s.countRemoved port none, stUnreachable)
    else if s.silentTo v v.native q then (s, stPortRefused)
    else match v.take (s.heldAt port) none q with
      | some v1 => (s.modPort port fun _ => v1, stOk)
      | none => (s, stPortRefused)
  else match pid.bind fun p => (s.part p).shadow.map fun h => (p, h) with
    | some (p, h) =>
      if h.role = 2 then (s.modPart p fun x => { x with shadow := some { h with discarded := h.discarded + 1 } }, stOk)
      else go s v
    | none => go s v
where
  /-- The port's own checks; a port in HASP1 or HASP2 carries flat-form packets only (R293). -/
  go (s : State) (v : Port) : State × Nat :=
    match s.sessionOf port q with
    | none => (s, stPortRefused)
    | some x =>
      let l := v.link x
      if !l.live || v.isFlat then (s.countRemoved port x, stPortRefused)
      else if s.silentTo v l q then (s, stPortRefused)
      else
        let q1 := match (pktPart q).bind fun p => ((s.part p).manifest.bind fun m =>
            ((List.finRange 6).find? fun d => (s.part p).exits[d] = some port &&
              exitDir m.nx m.ny m.nz m.coord.toNat (coordOf q.dst.toNat) = some d).map fun d => (m, d)) with
          | some (m, d) => { q with dl := dlAfter m d arrived q.dl }
          | none => q
        match v.take (s.heldAt port) x q1 with
        | some v1 => (s.modPort port fun _ => v1, stOk)
        | none => (s, stPortRefused)
/-- The I/O die of the unit that a reply goes to (R211): Pintle and host port A sit at IO-W, host port B at IO-E. -/
def unitEast (q : Packet) : Bool := q.dstu = 3 || (q.dstu = 4 && 8 ≤ q.dst.toNat % 16)
/-- A reply reaches the unit of an I/O die that asked: a request of Pintle is over (R227). -/
def State.unitReplied (s : State) (q : Packet) : State :=
  if q.dstu = 1 then { s.unitOverdue with mgmtOut := s.unitOverdue.mgmtOut.filter fun x => x.1 ≠ q.tag } else s
/-- A packet leaves an I/O die for its place (R223, R231): the unit that a reply answers, a tile or stack router of the grid, a port of this die, or across the mesh to a
port of the other. The status says why it goes nowhere. [DESIGN CHOICE, log entry 32] -/
def State.place (s : State) (east : Bool) (arrived : Option (Fin 6)) (q : Packet) : State × Nat :=
  match pktPart q with
  | none => (s, stUnreachable)
  | some p =>
    if pktIsReply q && q.dstu ≠ 0 then
      if unitEast q = east then (s.unitReplied q, stOk)
      else ({ s with net := s.net ++ [{ pkt := { q with dphys := ioDphys (unitEast q) 0 0 }, loc := .ioDie east 0 }] }, stOk)
    else if bitAt q.dst.toNat 31 then s.toExit ⟨bitsOf q.dst.toNat 30 27 % 16, Nat.mod_lt _ (by decide)⟩ arrived q
    else if coordOf q.dst.toNat ≠ (s.part p).coord.toNat % 2 ^ 14 then
      match (s.part p).exitPort (coordOf q.dst.toNat) with
      | none => if (s.part p).isShadow then s.toExit 0 arrived q else (s, stUnreachable)
      | some e =>
        if portEast e = east then s.toExit e arrived q
        else ({ s with net := s.net ++ [{ pkt := { q with dphys := ioDphys (portEast e) e.val 0 }, loc := .ioDie east 0, via := arrived }] }, stOk)
    else match s.ioTarget east q with
      | some (d, row) => ({ s with net := s.net ++ [{ pkt := { q with dphys := d }, loc := .ioDie east row }] }, stOk)
      | none => (s, stUnreachable)
/-- A request refused by a unit of an I/O die is answered; a reply is discarded (R227, R230). -/
def State.refuseAt (s : State) (unit port : Nat) (east : Bool) (q : Packet) (status : Nat) : State :=
  if pktIsReply q then s else (s.place east none (ioReply unit port q status [])).1
/-- A packet sent on from a port into the mesh, or refused there. -/
def State.fromDie (s : State) (port : PortId) (arrived : Option (Fin 6)) (q : Packet) : State :=
  match s.place (portEast port) arrived q with
  | (s1, 0) => s1
  | (s1, st) => s1.refuseAt 4 port.val (portEast port) q st
/-- What a port holds of a link is refused when the link leaves service (R318). -/
def State.flushEgress (s : State) (port : PortId) (x : Session) : State :=
  let mine := ((s.port port).egress ++ (s.port port).spill).filter fun y => y.1 = x
  let s1 := s.modPort port fun q => ({ q with egress := q.egress.filter fun y => y.1 ≠ x, spill := q.spill.filter fun y => y.1 ≠ x })
  mine.foldl (fun s y => s.refuseAt 4 port.val (portEast port) y.2 stPortRefused) s1

/-! Shadow copies. -/

/-- The session of a mirror port: the native link, or the session whose partner is the shadow's module (R279). [DEDUCED, log entry 35] -/
def Port.mirrorSession (q : Port) : Session :=
  if q.isEth then ((List.finRange 64).find? fun i => match kget i.val q.sessions with
    | some l => l.live
    | none => false)
  else none
/-- A copy of what reaches the reference partition, sent to its mirror port (R280); one that neither stage nor spill area can hold is lost, as a
reply would be (R230), and a port in HASP1 or HASP2 carries none (R293). [DEDUCED, log entry 35] -/
def State.mirror (s : State) (p : PartId) (q : Packet) : State :=
  match (s.part p).shadow with
  | some h =>
    if h.role = 1 && h.step.toNat ≤ (s.part p).step.toNat then
      if (s.port h.port).isFlat then s
      else match (s.port h.port).take (s.heldAt h.port) (s.port h.port).mirrorSession q with
      | some v => s.modPort h.port fun _ => v
      | none => s
    else s
  | none => s

/-! Inbound packets. -/

/-- A NAK (R315) queued to the partner and counted. -/
def State.sendNak (s : State) (port : PortId) (x : Session) (q : Packet) (reason : Nat) : State :=
  let chan := 16 * b2n (pktIsReply q) + 2 * q.vc.toNat + b2n q.dl
  (s.sendCtl port x 4 (leBytes 1 reason ++ leBytes 1 chan ++ leBytes 2 q.tag.toNat ++ leBytes 4 q.src.toNat ++
    leBytes 4 q.dst.toNat ++ leBytes 6 q.step.toNat)).modLink port x fun l => { l with refusals := l.refusals + 1 }
/-- The flat-identifier table entry of an I/O die (R32). -/
def State.flatEntry (s : State) (east : Bool) (f : Nat) : Nat := ((kget f (if east then s.flatE else s.flatW)).getD 0).toNat
/-- A flat destination translated (R32), none where R33 refuses it; an entry of another partition than the port's is refused too. -/
def State.flatTarget (s : State) (port : PortId) (p : PartId) (f : Nat) : Option U32 :=
  let e := s.flatEntry (portEast port) f
  let lx := bitsOf e 12 8
  let ly := bitsOf e 7 3
  if bitAt e 31 && bitsOf e 30 27 = p.val && 3 ≤ e % 8 && lx < s.member.gx && ly < s.member.gy &&
      (s.part p).hasHd (s.member.hdOfN (s.keyOfN p (ly * s.member.gx + lx))) then
    some (nativeAddr (s.part p).coord.toNat lx ly e)
  else none
/-- The direction whose exit-table entry names a port: the link by which a packet arrived came from there. -/
def Part.dirOf (p : Part) (port : PortId) : Option (Fin 6) := (List.finRange 6).find? fun d => p.exits[d] = some port
/-- An onward hop is allowed (R231, R314): in the inbound dimension or a later one, and not back. -/
def State.routeOk (s : State) (port : PortId) (p : PartId) (q : Packet) : Bool :=
  let c := coordOf q.dst.toNat
  if c = (s.part p).coord.toNat % 2 ^ 14 then true
  else if (s.port port).isEth then false
  else match (s.part p).exitPort c, (s.part p).dirOf port with
    | some e, some d => match (s.part p).dirOf e with
      | some o => d.val / 2 ≤ o.val / 2 && e ≠ port
      | none => false
    | _, _ => false
/-- The source rule of a job link, and of every Ethernet session (R314) but a shadow's, whose copies keep their sources (R280). -/
def State.sourceOk (s : State) (port : PortId) (x : Session) (p : PartId) (q : Packet) : Bool :=
  if !((s.part p).jobPorts.contains port || ((s.port port).isEth && !(s.part p).isShadow)) then true
  else match (s.part p).manifest with
    | none => true
    | some m =>
      let c := coordOf q.src.toNat
      let here := m.coord.toNat
      let inside := bitsOf c 13 9 < m.nx && bitsOf c 8 4 < m.ny && bitsOf c 3 0 < m.nz
      inside && (if (s.port port).isEth then m.deviceOf c = some ((s.link port x).devId)
        else match (s.part p).dirOf port with
          | some d => (match d.val / 2 with
            | 0 => bitsOf c 8 4 = bitsOf here 8 4 && bitsOf c 3 0 = bitsOf here 3 0
            | 1 => bitsOf c 3 0 = bitsOf here 3 0
            | _ => true)
          | none => true)
/-- A copy of a host write that a reference sends to its shadow (R280): a WRITE to partition memory on the shadow's mirror port. [DEDUCED, log entry 35] -/
def State.hostCopy (s : State) (port : PortId) (p : PartId) (q : Packet) : Bool :=
  q.type = 1 && q.dst.toNat % 8 = 6 && match (s.part p).shadow with
    | some h => h.role = 2 && h.port = port
    | none => false
/-- An inbound packet of an admitted partner, checked in the order of R314, then sent into the mesh with the port's partition. A packet
marked multicast, which only Pintle sends (R228), fails at its target. [DEDUCED, log entry 40] -/
def State.inbound (s : State) (port : PortId) (x : Session) (q : Packet) : State :=
  let ch := linkChan q
  let l := s.link port x
  let flat := (s.port port).isFlat
  if l.room.getD ch 0 < pktFlits q then s.protocolError port x
  else
    let s1 := s.modLink port x fun l => { l with
      room := l.room.set ch (l.room.getD ch 0 - pktFlits q), due := l.due.set ch (l.due.getD ch 0 + pktFlits q) }
    if !([1, 2, 3, 4, 0x81, 0x82].contains q.type.toNat) || 2 ≤ q.vc.toNat then s1.sendNak port x q 1
    else if flat ≠ bitAt q.dst.toNat 31 then s1.sendNak port x q 2
    else match (s.port port).part with
      | none => s1.sendNak port x q 3
      | some p =>
        match (if flat then s.flatTarget port p (q.dst.toNat % 2 ^ 19) else some q.dst) with
        | none => s1.sendNak port x q 5
        | some d =>
          let q1 := { q with dst := d, part := BitVec.ofNat 8 p.val }
          if !flat && !s.routeOk port p q1 then s1.sendNak port x q 3
          else if !flat && !s.sourceOk port x p q1 then s1.sendNak port x q 4
          else if q.dstu ≠ 0 || q.mcast || !([3, 4, 7].contains (d.toNat % 8) || s.hostCopy port p q1) ||
              ((q.type = 1 || q.type = 2) && d.toNat % 8 ≠ 3 && !s.hostCopy port p q1) then s1.sendNak port x q 5
          else if !flat && (s.part p).slotScreen && (s.part p).job = .running && q.gen.toNat ≠ (s.part p).slot % 128 then s1
          else if q.type = 2 && 256 ≤ l.reads.length then s1.sendNak port x q 6
          else
            let s2 := if q.type = 2 && coordOf d.toNat = (s.part p).coord.toNat % 2 ^ 14 then
                s1.modLink port x fun l => { l with reads := l.reads ++ [(q.src, q.tag)] } else s1
            let s3 := if coordOf d.toNat = (s.part p).coord.toNat % 2 ^ 14 then s2.mirror p q1 else s2
            s3.fromDie port ((s.part p).dirOf port) q1

/-! Frames. -/

/-- A Hasp frame (R286, R287) from its header fields, payload and control message. -/
def frameBytes (seq ack first fkind cch ctl credit : Nat) (payload msg : Bytes) : Bytes :=
  let h := leBytes 2 seq ++ leBytes 2 ack ++ leBytes 1 first ++ leBytes 1 fkind ++ leBytes 1 cch ++ leBytes 1 ctl ++
    leBytes 2 credit ++ [0, 0]
  let body := padTo 592 payload ++ padTo 32 msg
  h ++ leBytes 4 (crc32c (h ++ [0, 0, 0, 0] ++ body)) ++ body
/-- CRC-32C of a frame, its own field taken as zero. -/
def frameCrcOk (f : Bytes) : Bool := fieldAt f 12 4 = crc32c (f.take 12 ++ [0, 0, 0, 0] ++ f.drop 16)
/-- A frame sent again (R290): FKIND 2 and the ACK of the moment. -/
def frameAgain (f : Bytes) (ack : Nat) : Bytes :=
  frameBytes (fieldAt f 0 2) ack (fieldAt f 4 1) 2 (fieldAt f 6 1) (fieldAt f 7 1) (fieldAt f 8 2) ((f.drop 16).take 592) (f.drop 608)
/-- Payload rate of a port in MB/s (R285). -/
def Port.rateMb (q : Port) : Nat :=
  match q.mode.toNat with
  | 1 => 48800
  | 2 => 97500
  | 3 => if q.half.isSome then 97500 else 195000
  | 4 => if q.eth.ipv6 then 39900 else 41000
  | 5 => if q.eth.ipv6 then 79800 else 82000
  | 6 => if q.eth.ipv6 then 159600 else 164000
  | _ => 0
/-- Time of one frame in ps, rounded up (R286; the raw and MAC rates of R285 for the modes the rule does not list). -/
def Port.framePs (q : Port) : Nat :=
  match q.mode.toNat with
  | 1 => 12143
  | 2 => 6071
  | 3 => if q.half.isSome then 6071 else 3036
  | 4 => (if q.eth.ipv6 then 742 else 722) * 20
  | 5 => (if q.eth.ipv6 then 742 else 722) * 10
  | 6 => (if q.eth.ipv6 then 742 else 722) * 5
  | _ => 0
/-- The channel under which the cap of a virtual channel is kept: both link channels of a network and virtual channel share one (R316). [DESIGN CHOICE, log entry 40] -/
def capKey (ch : Nat) : Nat := ch / 2 * 2
/-- The inbound cap of a link channel in MB/s, 0 for none (R316). [DESIGN CHOICE, log entry 40] -/
def Port.capMb (q : Port) (l : Link) (ch : Nat) : Nat :=
  let vc := ch % 8 / 2
  let c := (l.caps.getD (ch / 8 * 4 + vc) 0).toNat
  if c ≠ 0 then c else match vc with
    | 0 => q.rateMb
    | 1 => 24000
    | _ => 0
/-- The layout of CREDIT_CH (R287). -/
def creditCh (ch : Nat) : Nat := 128 + ch / 8 * 16 + ch % 8
/-- The link channels that have a return due that no cap withholds (R316). [DESIGN CHOICE, log entry 40] -/
def Link.returnable (l : Link) (now : Nat) : List Nat :=
  (List.range 16).filter fun ch => 0 < l.due.getD ch 0 && l.capAt.getD (capKey ch) 0 ≤ now
/-- A return made on a channel. [DESIGN CHOICE, log entry 40] -/
def Link.returned (l : Link) (q : Port) (now ch : Nat) : Link :=
  let k := min (l.due.getD ch 0) 65535
  let cap := q.capMb l ch
  { l with
    due := l.due.set ch (l.due.getD ch 0 - k)
    room := l.room.set ch (l.room.getD ch 0 + k)
    capAt := if cap = 0 then l.capAt else l.capAt.set (capKey ch) (max now (l.capAt.getD (capKey ch) 0) + k * 16 * 1000 / cap) }
/-- The first packet of the stage that its channel's credit covers, no packet overtaking one of its channel (R288). -/
def Link.nextPacket (l : Link) (x : Session) (held : List Nat) : List (Session × Packet) → Option (Session × Packet)
  | [] => none
  | y :: ys =>
    if y.1 ≠ x || held.contains (linkChan y.2) then Link.nextPacket l x held ys
    else if pktFlits y.2 ≤ l.credit.getD (linkChan y.2) 0 then some y
    else Link.nextPacket l x (linkChan y.2 :: held) ys
/-- Packets join the payload until 592 bytes are reached or none may go: the port and the bytes. -/
def Port.fill (x : Session) : Nat → Port → Bytes → Port × Bytes
  | 0, q, bs => (q, bs)
  | fuel + 1, q, bs =>
    if 592 ≤ bs.length then (q, bs)
    else match (q.link x).nextPacket x [] q.egress with
      | none => (q, bs)
      | some y =>
        let ch := linkChan y.2
        let q1 := { q with egress := q.egress.erase y }.modLink x fun l => { l with
          credit := l.credit.set ch (l.credit.getD ch 0 - pktFlits y.2) }
        Port.fill x fuel (Port.refill 64 q1) (bs ++ pktBytes y.2)
/-- The control messages a link may send in its state (R312): before admission HELLO, ADMIT, REPLAY, CREDITS and RESET alone. -/
def Link.maySay (l : Link) (kind : Nat) : Bool := l.state = .admitted || l.state = .silent || [1, 3, 7, 8, 9].contains kind
/-- The bytes of a HEARTBEAT as the frame leaves (R319). -/
def heartbeatBytes (tTx : Nat) (l : Link) (beat : Nat) : Bytes :=
  leBytes 8 tTx ++ leBytes 8 l.hbTx.toNat ++ leBytes 8 l.hbArr.toNat ++ leBytes 6 beat ++ [0, 0]
/-- The job time at a port: device count where it serves no partition. -/
def State.portTime (s : State) (port : PortId) : Int := match (s.port port).part with
  | some p => s.jobTime p
  | none => s.now
/-- The control message for the next slot of a link, by precedence (R291), and the state without it; the first frame after a link reset carries
HELLO (R290). -/
def State.nextCtl (s : State) (port : PortId) (x : Session) : State × Nat × Bytes :=
  let l := s.link port x
  let pick := fun (lo hi : Nat) => (List.range (hi + 1)).findSome? fun k =>
    if k < lo || !l.maySay k then none else l.ctl.find? fun c => c.1.toNat = k
  let take := fun (c : Byte × Bytes) =>
    let s1 := s.modLink port x fun l => { l with ctl := l.ctl.erase c }
    (s1, c.1.toNat, if c.1 = 5 then heartbeatBytes (unsignedOf 64 (s.portTime port)) l (fieldAt c.2 0 6) else c.2)
  match (if l.helloDue && l.txSeq = 0 then pick 7 7 else none).or (pick 1 1) with
  | some c => take c
  | none =>
    match (if (s.port port).isFlat || !l.maySay 2 then none else s.latchOut.find? fun y => y.1 = port && y.2.1 = x) with
    | some y => ({ s with latchOut := s.latchOut.erase y }, 2, latchBytes y.2.2)
    | none => match pick 3 8 with
      | some c => take c
      | none =>
        let chs := (l.returnable s.now).drop 1 |>.take 7
        if chs = [] then (s, 0, [])
        else
          let bs := chs.flatMap fun ch => leBytes 1 (creditCh ch) ++ [0] ++ leBytes 2 (min (l.due.getD ch 0) 65535)
          (chs.foldl (fun s ch => s.modLink port x fun l => l.returned (s.port port) s.now ch) s, 9, padTo 32 bs)
/-- The device identifier of a partition's own module. -/
def State.ownDevice (s : State) (port : PortId) : Nat :=
  (((s.port port).part.bind fun p => (s.part p).manifest).bind fun m => m.deviceOf m.coord.toNat).getD 0 |>.toNat
/-- The job tag of the partition that a port serves. -/
def State.portJob (s : State) (port : PortId) : Nat := match (s.port port).part with
  | some p => (s.part p).jobTag.toNat
  | none => 0
/-- The session header of an Ethernet frame (R303). -/
def State.sessionHeader (s : State) (port : PortId) (x : Session) : Bytes :=
  leBytes 4 (s.ownDevice port) ++ leBytes 4 (s.link port x).devId.toNat ++ leBytes 8 (s.portJob port)
/-- The header of the first packet that begins in a frame (R287): FIRST names its segment. -/
def frameHead (f : Bytes) : Option Packet :=
  if fieldAt f 4 1 = 0 then none else some (parsePacket ((f.drop (16 * fieldAt f 4 1)).take 32))
/-- The DSCP of a frame (R303): that of the channel of the first packet that begins in it. [DESIGN CHOICE, log entry 89] -/
def EthConfig.dscpOf (e : EthConfig) (first : Option Packet) : Nat := match first with
  | some q => (byteAt e.dscp (4 * b2n (pktIsReply q) + q.vc.toNat)).toNat % 64
  | none => 0
/-- The Ethernet II, IP and UDP headers of a frame of a session (R303): the addresses and ports that the rule and ETH_CONFIG give, and free
bytes where neither gives one. [DESIGN CHOICE, log entry 89] -/
def State.etherHeaders (s : State) (port : PortId) (i : Fin 64) (dscp len : Nat) : Bytes :=
  let e := (s.port port).eth
  let l := s.link port (some i)
  let free := fun (o k : Nat) => (List.range k).map fun j => Config.ipByte s.draws (o + j)
  let ip := if e.ipv6 then
      beBytes 4 (6 * 2 ^ 28 + dscp * 2 ^ 22 + leNat (free 0 3) % 2 ^ 20) ++ beBytes 2 (8 + len) ++ [17] ++ free 3 1 ++ padTo 16 e.ip ++ padTo 16 l.ip
    else [0x45, BitVec.ofNat 8 (4 * dscp)] ++ beBytes 2 (28 + len) ++ free 0 5 ++ [17] ++ free 5 2 ++ padTo 4 e.ip ++ padTo 4 l.ip
  padTo 6 e.nextHop ++ padTo 6 e.mac ++ beBytes 2 (if e.ipv6 then 0x86DD else 0x0800) ++ ip ++
    beBytes 2 (49152 + i.val) ++ beBytes 2 e.udp.toNat ++ beBytes 2 (8 + len) ++ free 8 2
/-- A frame put on the wire; on an Ethernet port as a MAC frame, its preamble and check sequence apart (R302, R303). [DESIGN CHOICE, log entry 89] -/
def State.putFrame (s : State) (port : PortId) (x : Session) (f : Bytes) : State :=
  match x with
  | none => s.modPort port fun q => { q with wire := f }
  | some i =>
    let body := s.sessionHeader port x ++ f
    let head := s.etherHeaders port i ((s.port port).eth.dscpOf (frameHead f)) body.length
    { (s.modPort port fun q => { q with wire := head ++ body }) with draws := s.draws + 1 }
/-- Frames a link may have outstanding (R290, R303): 1,024 on a native port, an equal share of them for each of 64 sessions. [DESIGN CHOICE, log entry 89] -/
def replayRoom (x : Session) : Nat := if x.isSome then 16 else 1024
/-- A frame of the replay buffer sent again (R290); a frame that was sent 8 times waits for the link reset. -/
def State.sendAgain (s : State) (port : PortId) (x : Session) (seq : U16) : State :=
  let l := s.link port x
  match l.replay.find? fun e => e.1 = seq with
  | none => s.modLink port x fun l => { l with resend := none }
  | some (_, k, f) =>
    if 8 ≤ k then s
    else
      let f1 := frameAgain f (l.rxSeq - 1).toNat
      (s.modLink port x fun l => { l with
        replays := l.replays + 1
        replay := l.replay.map fun e => if e.1 = seq then (seq, k + 1, f1) else e
        resend := if l.replay.any (fun e => e.1 = seq + 1) then some (seq + 1) else none }).putFrame port x f1
/-- A new frame (R286 to R291), when the link's share of the replay buffer has room. -/
def State.sendNew (s : State) (port : PortId) (x : Session) : State :=
  if replayRoom x ≤ (s.link port x).replay.length then s
  else
    let (s1, ctl, msg) := s.nextCtl port x
    let l := s1.link port x
    let rest := l.txPart
    let (q, bs) := if l.live then Port.fill x 40 (s1.port port) rest else (s1.port port, rest)
    let first := if rest.length < 592 && rest.length < bs.length then 1 + rest.length / 16 else 0
    let (cch, cred) := match l.returnable s.now with
      | ch :: _ => (creditCh ch, min (l.due.getD ch 0) 65535)
      | [] => (0, 0)
    let f := frameBytes l.txSeq.toNat (l.rxSeq - 1).toNat first (if bs = [] then 1 else 0) cch ctl cred (bs.take 592) msg
    let q1 := q.modLink x fun l =>
      let l1 := match l.returnable s.now with
        | ch :: _ => l.returned q s.now ch
        | [] => l
      { l1 with
        txSeq := l.txSeq + 1
        txPart := bs.drop 592
        ackAt := if l.replay = [] then s.now else l.ackAt
        replay := l.replay ++ [(l.txSeq, 1, f)] }
    (s1.modPort port fun _ => q1).putFrame port x f
/-- A link that sends frames: its port is up. -/
def State.linkUp (s : State) (port : PortId) (x : Session) : Bool :=
  (s.port port).links.contains x && (s.link port x).state ≠ .down
/-- An uncorrectable word of the egress stage or the spill area (R376): the packet leaves as read, and the bit of the partition that the port
serves is cleared; DRAM errors are the spill area's, the others the stage's. [DESIGN CHOICE, log entry 87] -/
def State.egressEcc (s : State) (port : PortId) (x : Session) (word : Ecc) : State :=
  let l := s.link port x
  let pid := (s.port port).part
  let ecc := s.erasedEcc word
  if !eccBad ecc then s.correctDram ecc
  else if !l.live || replayRoom x ≤ l.replay.length || 592 ≤ l.txPart.length then s
  else match l.nextPacket x [] (s.port port).egress with
    | none => s
    | some y =>
      let bad := (y.1, { y.2 with payload := upsetBytes s.draws y.2.payload.length })
      let s1 : State := { (s.modPort port fun q => { q with egress := q.egress.map fun z => if z = y then bad else z }) with draws := s.draws + 1 }
      let (s2, cls) : State × Byte := match ecc with
        | .dram dpa sym => ((s1.unitFault pid { cls := 1, unit := 4, addr := dpa.toNat, bit := sym.toNat }).markRow (s.dramLoc dpa.toNat) sym 1, 1)
        | _ => (s1.unitFault pid { cls := 2, unit := 6, addr := (Config.stageAddr s.draws).toNat,
                                   bit := 0xFFFF0000 + (Config.syndrome s.draws).toNat }, 2)
      match pid with
      | some p => s2.clearPart p cls
      | none => s2
/-- HASP_FRAME_SEND (R288, R290, R291). -/
def execHaspFrameSend (port : PortId) (x : Session) (ecc : Ecc) (s : State) : Host.Outcome State Fault Refusal :=
  .next (if s.linkUp port x then match (s.link port x).resend with
    | some seq => s.sendAgain port x seq
    | none => (s.egressEcc port x ecc).sendNew port x
  else s)

/-- Packets cut from payload bytes (R288): the packets, and the bytes of one that continues. -/
def splitPackets : Nat → Bytes → List Packet × Bytes
  | 0, bs => ([], bs)
  | fuel + 1, bs =>
    if bs.length = 0 || byteAt bs 0 = 0 then ([], [])
    else if bs.length < 32 then ([], bs)
    else
      let total := 32 + (payloadLen (fieldAt bs 0 1) (fieldAt bs 2 2 % 512) + 15) / 16 * 16
      if bs.length < total then ([], bs)
      else
        let (ps, rest) := splitPackets fuel (bs.drop total)
        (parsePacket (bs.take total) :: ps, rest)
/-- FIRST as the payload calls for it. -/
def expectFirst (part payload : Bytes) : Nat :=
  let all := part ++ payload
  let rem := if part = [] then 0
    else (32 + (payloadLen (fieldAt all 0 1) (fieldAt all 2 2 % 512) + 15) / 16 * 16) - part.length
  if 592 ≤ rem || byteAt payload rem = 0 then 0 else 1 + rem / 16
/-- A frame that passes its CRC is well formed (R287, R317). -/
def frameFormOk (part f : Bytes) : Bool :=
  fieldAt f 5 1 ≤ 2 && fieldAt f 6 1 &&& 0x68 = 0 && fieldAt f 7 1 ≤ 9 && fieldAt f 10 2 = 0 && fieldAt f 4 1 ≤ 37 &&
    fieldAt f 4 1 = expectFirst part ((f.drop 16).take 592)
/-- Frames up to an acknowledged SEQ leave the replay buffer. -/
def Link.acked (l : Link) (ack : U16) (now : Nat) : Link :=
  if l.replay.any fun e => e.1 = ack then
    { l with
      replay := ((l.replay.dropWhile fun e => e.1 ≠ ack).drop 1)
      ackAt := now
      resend := match l.resend with
        | some r => if ((l.replay.dropWhile fun e => e.1 ≠ ack).drop 1).any fun e => e.1 = r then some r else none
        | none => none }
  else l
/-- A credit return taken (R287). -/
def Link.credited (l : Link) (cch k : Nat) : Link :=
  if bitAt cch 7 then let ch := 8 * bitsOf cch 4 4 + cch % 8; { l with credit := l.credit.set ch (l.credit.getD ch 0 + k) } else l
/-- The contents of an accepted frame: acknowledgement, credit, control message, packets. -/
def State.frameTaken (s : State) (port : PortId) (x : Session) (f : Bytes) : State :=
  let l0 := s.link port x
  let s1 := s.modLink port x fun l =>
    ({ l with rxSeq := l.rxSeq + 1 }.acked (BitVec.ofNat 16 (fieldAt f 2 2)) s.now).credited (fieldAt f 6 1) (fieldAt f 8 2)
  if !frameFormOk l0.rxPart f then s1.protocolError port x
  else
    let kind := fieldAt f 7 1
    let s2 := if kind = 0 then s1
      else if !l0.maySay kind || (kind = 2 && (s.port port).isFlat) then s1.protocolError port x
      else { s1 with ctlIn := s1.ctlIn ++ [(port, x, BitVec.ofNat 8 kind, f.drop 608)] }
    let (ps, rest) := splitPackets 40 (l0.rxPart ++ (f.drop 16).take 592)
    let s3 := s2.modLink port x fun l => { l with rxPart := rest }
    if l0.live then ps.foldl (fun s q => s.inbound port x q) s3
    else s3.modLink port x fun l =>
      if l.removed then { l with refusals := l.refusals + BitVec.ofNat 32 ps.length }
      else { l with discards := l.discards + BitVec.ofNat 32 ps.length }
/-- The UDP payload of a MAC frame that is meant for a session (R302, R303): its type, addresses and port; PAUSE and any other frame is not for
it. [DESIGN CHOICE, log entry 89] -/
def EthConfig.payload (e : EthConfig) (ip f : Bytes) : Option Bytes :=
  let v6 := fieldAt f 12 2 = 0xDD86
  let head := if v6 then 40 else 20
  let addr := fun (o : Nat) => (f.drop (14 + o)).take (if v6 then 16 else 4)
  let k := if v6 then 16 else 4
  if f.length ≤ 9216 && f.take 6 == padTo 6 e.mac && v6 = e.ipv6 && (v6 || fieldAt f 12 2 = 0x0008) &&
      fieldAt f (14 + (if v6 then 6 else 9)) 1 = 17 && addr (if v6 then 8 else 12) == padTo k ip && addr (if v6 then 24 else 16) == padTo k e.ip &&
      beBytes 2 e.udp.toNat == (f.drop (14 + head + 2)).take 2 then some (f.drop (14 + head + 8)) else none
/-- The Hasp frame within what arrives: in an Ethernet mode behind the headers and the session header of its MAC frame, which must name the
sender, this module and the job (R303). -/
def State.unwrap (s : State) (port : PortId) (x : Session) (f : Bytes) : Option Bytes :=
  if x.isSome then
    match (s.port port).eth.payload (s.link port x).ip f with
    | some b =>
      if fieldAt b 0 4 = (s.link port x).devId.toNat && fieldAt b 4 4 = s.ownDevice port && fieldAt b 8 8 = s.portJob port then
        some ((b.drop 16).take 640)
      else none
    | none => none
  else some f
/-- A link restarts (R290): lanes kept, replay buffers and partial packets discarded, SEQ from 0, HELLO exchanged again. -/
def Link.restarted (l : Link) (now : Nat) : Link :=
  { l with txSeq := 0, rxSeq := 0, replay := [], resend := none, rxPart := [], txPart := [], resets := l.resets + 1, helloDue := true,
           resetAt := (l.resetAt ++ [now]).filter fun t => now < t + 1000000000 }
/-- The partner has begun a link reset (R290): its first frame, SEQ 0 with HELLO, comes where another SEQ is expected. [DEDUCED, log entry 89] -/
def Link.resetSeenIn (l : Link) (f : Bytes) : Bool :=
  (l.state = .admitted || l.state = .silent) && !l.helloDue && fieldAt f 0 2 = 0 && l.rxSeq ≠ 0 && fieldAt f 7 1 = 7
/-- A random 64-bit value of this device reset (R307). -/
def State.bootValue (s : State) : U64 :=
  BitVec.ofNat 64 (leNat ((List.range 8).map fun i => Config.random (2 ^ 40 + s.resets.toNat) i))
/-- This part's HELLO on a port (R307). -/
def State.ownHello (s : State) (port : PortId) : Hello :=
  let q := s.port port
  let part := q.part.map s.part
  { gen := if q.isFlat then q.mode else 3, port := BitVec.ofNat 8 port.val,
    coord := ((part.bind (·.manifest)).map (·.coord)).getD 0xFFFF,
    role := if (part.bind (·.shadow)).any (fun h => decide (h.role = 2)) then 1 else 0
    boot := s.bootValue, device := Config.identity, job := (part.map Part.jobTag).getD 0 }
/-- The bytes of a HELLO (R307). -/
def helloBytes (h : Hello) : Bytes :=
  [h.gen, h.port] ++ leBytes 2 h.coord.toNat ++ [h.role, 0, 0, 0] ++ leBytes 8 h.boot.toNat ++ leBytes 8 h.device.toNat ++
    leBytes 8 h.job.toNat
/-- HELLO sent (R307). -/
def State.sendHello (s : State) (port : PortId) (x : Session) : State := s.sendCtl port x 7 (helloBytes (s.ownHello port))

end Sys2Proof.Machine
end

