-- ==== Sys2Proof/Machine/Mailbox.lean ====
section
/-!
DEFINITION. Answers of Pintle (R416 to R419, R438), answers that wait, the field defect log (R329 to R331), and small readings that several
families share.
-/

namespace Sys2Proof.Machine

/-! Status codes (R438). -/

def okStatus : Nat := 0x0000
def badOpcode : Nat := 0x0001
def badArg : Nat := 0x0002
def denied : Nat := 0x0003
def busy : Nat := 0x0004
def noResource : Nat := 0x0005
def timedOut : Nat := 0x0006
def stageAborted : Nat := 0x0007
def minimalMode : Nat := 0x0008
def authFail : Nat := 0x0009
def versionMismatch : Nat := 0x000A
def notReady : Nat := 0x000B
def admitRefused : Nat := 0x0010

/-- A mailbox of a function. -/
def State.mbox (s : State) (f : FnId) (m : MboxId) : Mbox := (kget m.val (s.fn f).mboxes).getD {}
/-- A mailbox changed. -/
def State.modMbox (s : State) (f : FnId) (m : MboxId) (g : Mbox → Mbox) : State :=
  s.modFn f fun v => { v with mboxes := kput m.val (g (s.mbox f m)) v.mboxes }
/-- A response written: header and body, then RSP_SEQ (R418). -/
def State.respond (s : State) (r : Req) (status detail : Nat) (body : Bytes) : State :=
  s.modMbox r.fn r.mbox fun m => { m with
    status := BitVec.ofNat 16 status, rspTag := r.tag, detail := BitVec.ofNat 16 detail, response := body, rspSeq := m.acceptSeq }
/-- Waiting answers of a kind written and forgotten. [DESIGN CHOICE, log entry 80] -/
def State.answer (s : State) (which : Waiter → Bool) (status detail : Nat) (body : Bytes) : State :=
  let s1 := (s.waiters.filter which).foldl (fun s w => if w.quiet then s else s.respond w.req status detail body) s
  { s1 with waiters := s1.waiters.filter fun w => !which w }
/-- An answer that waits for its outcome. [DESIGN CHOICE, log entry 80] -/
def State.await (s : State) (opcode : Nat) (r : Req) (p : PartId) (key : Nat) : State :=
  { s with waiters := s.waiters ++ [{ opcode := BitVec.ofNat 16 opcode, req := r, part := p, key := key, since := s.now }] }

/-! The field defect log. -/

/-- A record is active: of kinds 1 to 6, and no later CLEAR names it (R331). -/
def State.defectActive (s : State) (d : Defect) : Bool :=
  1 ≤ d.kind.toNat && d.kind.toNat ≤ 6 && !((s.defects ++ s.defectQueue).any fun c => c.kind = 7 && c.detail = d.seq)
/-- The active defects of a kind: those of the log, and those that a full log could not take. -/
def State.activeDefects (s : State) (kind : Byte) : List Defect :=
  s.defects.filter (fun d => d.kind = kind && s.defectActive d) ++ s.boot.unlogged.filter fun d => d.kind = kind
/-- The active defects of a kind and place. -/
def State.defectsAt (s : State) (kind : Byte) (wher : U64) : List Defect := (s.activeDefects kind).filter fun d => d.wher = wher
/-- WHERE of a tile or router (R330). -/
def tileWhere (m : Member) (t : TileId) : U64 := BitVec.ofNat 64 (m.hdOf t + 256 * colOf t + 65536 * rowOf t)
/-- WHERE of a lane behind a partner (R330). -/
def laneWhere (port : PortId) (l : Nat) (device : U64) : U64 := BitVec.ofNat 64 (port.val + 256 * l + 65536 * (device.toNat % 2 ^ 48))

/-! Readings. -/

/-- The digest of the partition's manifest (R310). -/
def Part.digest (p : Part) : Bytes := (p.manifest.map (·.digest)).getD []
/-! Firmware slots and measurements (R327, R462, R463, R467 to R472). -/

/-- A field of a slot's image; flash that nothing has written reads zero. [DEDUCED, log entry 71] -/
def FwSlot.byte (f : FwSlot) (a : Nat) : Byte := (kget a f.data).getD 0
/-- Bytes of a slot's image. -/
def FwSlot.bytes (f : FwSlot) (a k : Nat) : Bytes := (List.range k).map fun i => f.byte (a + i)
/-- FW of a slot's image. -/
def FwSlot.fw (f : FwSlot) : Bytes := if f.factory then leBytes 16 Config.factoryFw.toNat else f.bytes 16 16
/-- SVN of a slot's image. -/
def FwSlot.svn (f : FwSlot) : Nat := if f.factory then Config.factorySvn.toNat else (f.byte 8).toNat
/-- DIGEST of a slot's image. -/
def FwSlot.digest (f : FwSlot) : Bytes := if f.factory then leBytes 64 Config.factoryDigest.toNat else f.bytes 32 64
/-- A firmware slot. -/
def State.slot (s : State) (k : Nat) : FwSlot := if k = 0 then s.boot.slots[0] else s.boot.slots[1]
/-- The fuse map (R327). [DEDUCED, log entry 69] -/
def State.fuseBytes (s : State) : Bytes :=
  let f := s.fuses
  let bad := fun (keys : List Nat) => (List.range 16).flatMap fun hd => leBytes 9 (((List.range 72).filter fun i =>
    hd < s.member.halfDies && keys.contains (tileKey (s.member.tileAt hd (i % 9) (i / 9)))).foldl (fun m i => m + 2 ^ i) 0)
  let lanes := leBytes 18 (f.lanes.foldl (fun m l => m ||| 2 ^ (9 * l.1 + l.2)) 0)
  let body := bad f.tiles ++ bad f.routers ++ lanes ++ leBytes 6 0 ++ f.rows.flatMap fun w => leBytes 8 w.toNat
  let head := leBytes 2 1 ++ leBytes 1 s.member.code ++ leBytes 1 f.rows.length
  let check := crc32c (head ++ leBytes 4 0 ++ body)
  head ++ leBytes 4 (if f.checkOk then check else check ^^^ 0xFFFFFFFF) ++ body
/-- The measurement blocks, index 1 first (R469). -/
def State.measurements (s : State) : List Bytes :=
  let f := s.slot s.boot.slot
  [leBytes 64 Config.romDigest.toNat, f.digest, padTo 16 f.fw, [BitVec.ofNat 8 f.svn, BitVec.ofNat 8 s.sec.fusedSvn, BitVec.ofNat 8 s.sec.revoked.toNat],
    sha512 s.fuseBytes, [if s.sec.debug then 1 else 0]]
/-- ERROR with ErrorCode Unspecified (R472): SPDM 1.3, ERROR, the code, no data. [PRESUMED, log entry 72] -/
def spdmError : Bytes := [0x13, 0x7F, 0x05, 0x00]
/-- ADMIT fragments of a message (R306): kind, index, last, reserved, then 28 bytes. -/
def fragments (kind : Nat) (bs : Bytes) : List Bytes :=
  let n := (bs.length + 27) / 28
  (List.range n).map fun i => leBytes 1 kind ++ leBytes 1 i ++ leBytes 1 (b2n (i + 1 = n)) ++ [0] ++ padTo 28 (bs.drop (28 * i))

end Sys2Proof.Machine
end

