-- ==== Sys2Proof/Machine/Links.lean ====
section
/-!
DEFINITION. Links (R283 to R323): replay and link reset, control messages, lanes, admission, heartbeats and the time servo (R46 to R48),
service requests (R251, R305).
-/

namespace Sys2Proof.Machine

/-! Going down and coming back. -/

/-- A link out of service: what it held is gone, its counters and settings stay. -/
def Link.downed (l : Link) : Link :=
  { caps := l.caps, devId := l.devId, ip := l.ip, replays := l.replays, resets := l.resets, refusals := l.refusals, discards := l.discards,
    protocol := l.protocol, lateHb := l.lateHb, reason := l.reason, partner := l.partner, latchNs := l.latchNs, offsetNs := l.offsetNs }
/-- A link out of service; its egress is refused (R318), and its latch frames and control messages are gone. -/
def State.linkDown (s : State) (port : PortId) (x : Session) (st : LinkState) : State :=
  let s1 := (s.modLink port x fun l => { l.downed with state := st }).flushEgress port x
  { s1 with
    latchOut := s1.latchOut.filter fun y => !(y.1 = port && y.2.1 = x)
    ctlIn := s1.ctlIn.filter fun y => !(y.1 = port && y.2.1 = x) }
/-- Every link of a port out of service. -/
def State.linksDown (s : State) (port : PortId) (st : LinkState) : State :=
  let s1 := (s.port port).links.foldl (fun s x => s.linkDown port x st) s
  { s1 with
    latchOut := s1.latchOut.filter fun y => y.1 ≠ port
    ctlIn := s1.ctlIn.filter fun y => y.1 ≠ port }
/-- The code of a lane state (R294). -/
def laneCode : LaneState → Byte
  | .down => 0
  | .train => 1
  | .align => 2
  | .qualify => 3
  | .up => 4
  | .spare => 5
  | .fenced => 6
/-- The lane states of a port, lane 0 first, the spare last. -/
def Port.laneBytes (q : Port) : Bytes := q.lanes.toList.map fun l => laneCode l.state
/-- A PORT_MODE answered once its port has trained, or has not come up. [DEDUCED, log entry 68] -/
def State.portSettled (s : State) (port : PortId) : State :=
  s.answer (fun w => w.opcode = 0x0701 && w.key = port.val && !w.queued) okStatus 0 (s.port port).laneBytes
/-- A port goes down: lanes that are not fenced lose their state. -/
def State.portDown (s : State) (port : PortId) (arg : Nat) : State :=
  (((s.modPort port fun q => { q with
      lanes := q.lanes.map fun l => if l.state = .fenced then l else {}
      swapped := none
      swap := []
      half := none }).linksDown port .down).linkEvent port 4 arg).portSettled port

/-! Replay and link reset (R290). -/

/-- REPLAY (R290): frames from the SEQ named are sent again. -/
def execReplay (port : PortId) (x : Session) (seq : U16) (s : State) : Host.Outcome State Fault Refusal :=
  .next (match s.takeCtl port x 3 (leBytes 2 seq.toNat) with
    | some s1 => s1.modLink port x fun l => { l with resend := some seq }
    | none => s)
/-- REPLAY_TIMEOUT (R290): ACK has not advanced for 4,000 ns while frames are outstanding. -/
def execReplayTimeout (port : PortId) (x : Session) (s : State) : Host.Outcome State Fault Refusal :=
  .next (match (s.link port x).replay with
    | e :: _ =>
      let s1 := s.reach ((s.link port x).ackAt + 4000 : Nat)
      s1.modLink port x fun l => { l with resend := some e.1, ackAt := s1.now }
    | [] => s)
/-- The retries of a link are exhausted: its oldest frame was sent 8 times (R290). -/
def Link.exhausted (l : Link) : Bool := l.replay.any fun e => 8 ≤ e.2.1
/-- A link restarts on both ends (R290): HELLO is exchanged again, and the third reset within 1 s takes the port down with cause 1. [DESIGN CHOICE, log entry 89] -/
def State.linkRestart (s : State) (port : PortId) (x : Session) : State :=
  let s1 := s.modLink port x fun l => l.restarted s.now
  if 3 ≤ (s1.link port x).resetAt.length then (s1.linkLost port 1).portDown port 1
  else s1.sendHello port x
/-- LINK_RESET (R290): retries exhausted, the clean bit cleared, the link restarts. -/
def State.linkReset (s : State) (port : PortId) (x : Session) : State := (s.portFault port { cls := 0x0A, addr := port.val }).linkRestart port x
/-- LINK_RESET (R290). -/
def execLinkReset (port : PortId) (x : Session) (s : State) : Host.Outcome State Fault Refusal :=
  .next (if (s.link port x).exhausted then s.linkReset port x else s)
/-- HASP_FRAME_RECEIVE (R290): the next SEQ is accepted, anything else is discarded and a REPLAY names the SEQ expected; the first frame of a
link reset that the partner began restarts this end too. [DESIGN CHOICE, log entry 89] -/
def execHaspFrameReceive (port : PortId) (x : Session) (frame : Bytes) (fecOk : Bool) (s : State) :
    Host.Outcome State Fault Refusal :=
  .next (if s.linkUp port x then match s.unwrap port x frame with
    | some f =>
      let l := s.link port x
      let sound := fecOk && f.length = 640 && frameCrcOk f
      if sound && fieldAt f 0 2 = l.rxSeq.toNat then s.frameTaken port x f
      else if sound && l.resetSeenIn f then
        let s1 := s.linkRestart port x
        if s1.linkUp port x then s1.frameTaken port x f else s1
      else s.sendCtl port x 3 (leBytes 2 l.rxSeq.toNat)
    | none => s
  else s)
/-- CONTROL_RESET (R303, R321): a RESET of the partner of a session, cause 2; that partner must be admitted again. -/
def execControlReset (port : PortId) (s : State) : Host.Outcome State Fault Refusal :=
  .next (match s.ctlIn.find? fun y => y.1 = port && y.2.2.1 = 1 with
    | some y =>
      let s1 := ({ s with ctlIn := s.ctlIn.erase y }).linkLost port 2
      (s1.modPort port fun q => { q with resetSeen := true }).linkDown port y.2.1 .up
    | none => s)
/-- All active lanes of a port lose lock; without a RESET, cause 1 (R321). -/
def State.lanesLost (s : State) (port : PortId) : State :=
  if (s.port port).links.any (fun x => (s.link port x).state ≠ .down) then
    let lost := if (s.port port).resetSeen then s else s.linkLost port 1
    (lost.modPort port fun q => { q with resetSeen := false }).portDown port 1
  else s
/-- LINK_DOWN (R321). -/
def execLinkDown (port : PortId) (s : State) : Host.Outcome State Fault Refusal := .next (s.lanesLost port)

/-! NAK and credit. -/

/-- The partition of the initiator that a NAK names: the one of this module that holds the position of SRC, else the port's own. [DEDUCED, log entry 40] -/
def State.initiatorPart (s : State) (port : PortId) (src : U32) : Option PartId :=
  (allParts.find? fun p => (s.part p).present && coordOf src.toNat = (s.part p).coord.toNat % 2 ^ 14 &&
    (s.tileOfN p (s.member.nOfAddr src.toNat)).isSome).or (s.port port).part
/-- The request a NAK names, completed at its initiator with PORT_REFUSED by the port's I/O die; a refused reply is discarded (R315). -/
def State.nakTaken (s : State) (port : PortId) (m : NakMsg) : State :=
  match s.initiatorPart port m.src with
  | some p =>
    if bitAt m.channel.toNat 4 then s
    else
      let vc := BitVec.ofNat 2 (bitsOf m.channel.toNat 2 1)
      let q : Packet := {
        type := 0x81, vc := vc, dl := false, mcast := false, refwd := false, fence := false, ue := false, len := 0, gen := 0,
        dst := (m.src &&& 0xFFFFFFF8#32) ||| 7#32, src := BitVec.ofNat 32 port.val, dphys := 0, dstu := 0, srcu := 4, part := BitVec.ofNat 8 p.val,
        addr := BitVec.ofNat 64 stPortRefused, step := m.step, tag := m.tag, payload := [] }
      (s.place (portEast port) none q).1
  | none => s
/-- The bytes of a NAK (R315). [DESIGN CHOICE, log entry 37] -/
def nakBytes (m : NakMsg) : Bytes :=
  [m.reason, m.channel] ++ leBytes 2 m.tag.toNat ++ leBytes 4 m.src.toNat ++ leBytes 4 m.dst.toNat ++ leBytes 6 m.step.toNat
/-- The first session on which a control message has arrived at a port. -/
def State.ctlSession (s : State) (port : PortId) (kind : Byte) (bs : Bytes) : Option Session :=
  (s.ctlIn.find? fun y => y.1 = port && y.2.2.1 = kind && y.2.2.2 = padTo 32 bs).map (·.2.1)
/-- NAK (R315). -/
def execNak (port : PortId) (m : NakMsg) (s : State) : Host.Outcome State Fault Refusal :=
  .next (match s.ctlSession port 4 (nakBytes m) with
    | some x => match s.takeCtl port x 4 (nakBytes m) with
      | some s1 => s1.nakTaken port m
      | none => s
    | none => s)
/-- The bytes of a CREDITS message (R291). [DESIGN CHOICE, log entry 37] -/
def creditsBytes (rs : List (Byte × U16)) : Bytes := (rs.take 7).flatMap fun r => [r.1, 0] ++ leBytes 2 r.2.toNat
/-- CREDITS (R291). -/
def execCredits (port : PortId) (x : Session) (rs : List (Byte × U16)) (s : State) : Host.Outcome State Fault Refusal :=
  .next (match s.takeCtl port x 9 (creditsBytes rs) with
    | some s1 => (rs.take 7).foldl (fun s r => s.modLink port x fun l => l.credited r.1.toNat r.2.toNat) s1
    | none => s)

/-! Lanes (R294 to R301). -/

/-- A lane changed. -/
def Port.modLane (q : Port) (l : LaneId) (f : LanePair → LanePair) : Port := { q with lanes := q.lanes.set l (f q.lanes[l]) }
/-- The lanes that carry the port's symbols. -/
def Port.active (q : Port) : List LaneId :=
  (List.finRange 9).filter fun l =>
    (if q.mode = 4 then l.val < 4 else match q.half with
      | some false => l.val < 4
      | some true => 4 ≤ l.val && l.val < 8
      | none => l.val < 8) && q.swapped ≠ some l || (l = 8 && q.swapped.isSome)
/-- The spare can take over. -/
def Port.spareReady (q : Port) : Bool := !q.isEth && q.swapped.isNone && q.lanes[8].state = .spare
/-- A half of four lanes that holds no fenced lane, lanes 0 to 3 first (R301). -/
def Port.wholeHalf (q : Port) : Option Bool :=
  let ok := fun (lo : Nat) => (List.finRange 9).all fun l => !(lo ≤ l.val && l.val < lo + 4) || q.lanes[l].state ≠ .fenced
  if q.mode ≠ 3 || q.half.isSome then none else if ok 0 then some false else if ok 4 then some true else none
/-- A LANE message (R300). The manual gives its purpose, not its layout: lane, acknowledgement, SEQ. [DESIGN CHOICE, log entry 37] -/
def laneBytes (l : LaneId) (ack : Bool) (seq : U16) : Bytes := leBytes 1 l.val ++ leBytes 1 (b2n ack) ++ leBytes 2 seq.toNat
/-- The spare is free for a swap: it is ready, and no other fenced lane waits for it (R301). -/
def Port.spareFree (q : Port) : Bool := q.spareReady && (q.active.filter fun l => q.lanes[l].state = .fenced).length ≤ 1
/-- A fenced active lane is replaced, the port narrows, or it goes down (R300, R301). -/
def State.laneReplace (s : State) (port : PortId) (l : LaneId) : State :=
  let q := s.port port
  if q.isEth then (s.linkLost port 3).portDown port 3
  else if q.spareFree || q.wholeHalf.isSome then s.sendCtl port none 6 (laneBytes l false (q.native.txSeq + 64))
  else (s.linkLost port 3).portDown port 3
/-- A lane fenced for a cause: 1 flap, 2 degraded, 3 failed qualification; recorded for the defect log (R299, R330, R350). -/
def State.laneFence (s : State) (port : PortId) (l : LaneId) (cause : Nat) (source : Byte := 3) (cls : Byte := 0) : State :=
  let q := s.port port
  let device := (q.native.partner.map (·.device)).getD q.device
  let wasActive := q.active.contains l
  let s1 := (s.modPort port fun q => q.modLane l fun v => { v with state := .fenced, bad := 0 }).logDefect {
    kind := 3, source := source, cls := cls, wher := laneWhere port l.val device, detail := BitVec.ofNat 32 cause }
  if wasActive && q.links.any (fun x => (s.link port x).state ≠ .down) then s1.laneReplace port l else s1
/-- Stage 4 of a cold attempt runs, in which every port trains in full (R381). [DEDUCED, log entry 57] -/
def State.coldLinks (s : State) : Bool := s.boot.stage = 4 && !s.boot.warm
/-- LANE_SIGNAL_DETECT (R294, R295, R350, R381): a lane in DOWN, or one that was fenced when its port last ran, sees signal and trains, from the
saved settings where a record exists. -/
def execLaneSignalDetect (port : PortId) (l : LaneId) (s : State) : Host.Outcome State Fault Refusal :=
  let q := s.port port
  let idle := q.lanes[l].state = .fenced && !q.isUp
  .next (if q.mode ≠ 0 && (q.lanes[l].state = .down || idle) then s.modPort port fun q =>
      let fine := !q.fullTrained && q.settings.isSome && !s.coldLinks
      q.modLane l fun _ => { state := .train, fine := fine }
    else s)
/-- An active LANE record of this lane behind this partner (R332, R350). -/
def State.laneBad (s : State) (port : PortId) (l : LaneId) (device : U64) : Bool :=
  s.fuses.lanes.contains (port.val, l.val) || !(s.defectsAt 3 (laneWhere port l.val device)).isEmpty
/-- The half-asymmetry of R297, in ps: local transmit and partner receive delays less partner transmit and local receive delays, halved. -/
def halfAsymmetry (d : AlignDelays) : Int :=
  ((d.localTx.toNat + d.partnerRx.toNat : Int) - (d.partnerTx.toNat + d.localRx.toNat : Int)).tdiv 2
/-- LANE_TRAINING_DONE (R295, R297, R350): TRAIN and ALIGN end; a lane with an active record behind the same partner stays fenced, one that
fails to align stays in ALIGN. -/
def execLaneTrainingDone (port : PortId) (l : LaneId) (aligned : Bool) (d : AlignDelays) (device : U64) (s : State) :
    Host.Outcome State Fault Refusal :=
  let q := s.port port
  .next (if q.lanes[l].state = .train || q.lanes[l].state = .align then
      s.modPort port fun q => { (q.modLane l fun v => { v with
        state := if s.laneBad port l device then .fenced else if aligned then .qualify else .align }) with
        asymPs := if aligned then halfAsymmetry d else q.asymPs, device := device }
    else s)
/-- What a qualification window leaves (R298): the half to run on and the lane the spare stands in for; none when the port stays down. -/
def Port.qualified (q : Port) (ok : LaneId → Bool) : Option (Option Bool × Option LaneId) :=
  let failing := fun (lo n : Nat) => (List.finRange 9).filter fun l => lo ≤ l.val && l.val < lo + n && !ok l
  let tryHalf := fun (lo : Nat) (h : Bool) => match failing lo 4 with
    | [] => some (some h, none)
    | [l] => if ok 8 then some (some h, some l) else none
    | _ => none
  match q.mode.toNat with
  | 3 =>
    let full := if q.width = 1 then none else match failing 0 8 with
      | [] => some (none, none)
      | [l] => if ok 8 then some (none, some l) else none
      | _ => none
    full.or ((tryHalf 0 false).or (tryHalf 4 true))
  | 4 => if failing 0 4 = [] then some (none, none) else none
  | 0 => none
  | _ => if failing 0 8 = [] then some (none, none) else none
/-- Time limits of the stages in ns (R306). [DEDUCED, log entry 38] -/
def stageLimit : AdmStage → Nat
  | .hello => 1000000
  | .auth => 400000000
  | .agree => 1000000
  | .sync => 50000000
/-- Admission begins at HELLO (R306); a silent link stays silent meanwhile (R322). [DEDUCED, log entry 38] -/
def State.admBegin (s : State) (port : PortId) (x : Session) : State :=
  (s.modLink port x fun l => { l with
    adm := some { stageBy := s.now + stageLimit .hello, by_ := s.now + 2000000000 }
    state := if l.state = .silent then .silent else .up }).sendHello port x
/-- Admission runs on a port that has come up (R306), but not during start-up (R386): on a flat link, and on one whose partition has a manifest. [DEDUCED, log entry 38] -/
def State.admitAll (s : State) (port : PortId) : State :=
  if s.boot.phase = 2 && ((s.port port).isFlat || ((s.port port).part.bind fun p => (s.part p).manifest).isSome) then
    (s.port port).links.foldl (fun s x => s.admBegin port x) s
  else s
/-- The port comes up (R295, R298): lanes UP or SPARE, failing lanes fenced, a new settings record, an event if it is narrowed. [DESIGN CHOICE, log entry 41] -/
def State.portUp (s : State) (port : PortId) (ok : LaneId → Bool) (half : Option Bool) (sw : Option LaneId) : State :=
  let bad := (List.finRange 9).filter fun l => (s.port port).lanes[l].state = .qualify && !ok l
  let s0 := bad.foldl (fun s l => s.laneFence port l 3) s
  let s1 := s0.modPort port fun q =>
    let q1 := { q with half := half, swapped := sw, fullTrained := false, resetSeen := false }
    let lanes := (List.finRange 9).foldl (fun (q : Port) l =>
      if ok l && q.lanes[l].state = .qualify then q.modLane l fun v => { v with
        state := if q1.active.contains l then .up else if l = 8 && !q.isEth then .spare else .down, bad := 0 } else q) q1
    { lanes with settings := some {
        mode := q.mode, asymPs := q.asymPs, partner := (q.native.partner.map (·.device)).getD 0,
        map := (List.finRange 9).foldl (fun (m : Byte) l => if lanes.lanes[l].state = .up || lanes.lanes[l].state = .spare then
          m ||| (1#8 <<< l.val) else m) 0
        lanes := (List.range 144).map (Config.laneCoefficient s.draws) } }
  let s2 : State := { ((s1.port port).links.foldl (fun s x => s.modLink port x fun l => { l with state := .up }) s1) with draws := s.draws + 1 }
  ((if half.isSome then s2.linkEvent port 1 0 else s2).admitAll port).portSettled port
/-- LANE_QUALIFY_WINDOW (R298): up, up narrowed, full training once more, or down. -/
def execLaneQualifyWindow (port : PortId) (passed : BitVec 9) (clean : Bool) (s : State) : Host.Outcome State Fault Refusal :=
  let q := s.port port
  let ok := fun (l : LaneId) => clean && passed.getLsbD l.val && q.lanes[l].state = .qualify
  .next (if (List.finRange 9).any (fun l => q.lanes[l].state = .qualify) && !q.isUp then
      match q.qualified ok with
      | some (half, sw) => s.portUp port ok half sw
      | none =>
        if !q.fullTrained && (List.finRange 9).any (fun l => q.lanes[l].fine) then s.modPort port fun q => { q with
          fullTrained := true
          lanes := q.lanes.map fun l => if l.state = .qualify || l.state = .align || l.state = .train then { state := .train } else l }
        else s.portDown port 0
    else s)
/-- LANE_MONITOR_WINDOW (R299): a lane over the limit in 3 consecutive windows is fenced as degraded. -/
def execLaneMonitorWindow (port : PortId) (overLimit : BitVec 9) (s : State) : Host.Outcome State Fault Refusal :=
  let watched := fun (q : Port) (l : LaneId) => q.lanes[l].state = .up || q.lanes[l].state = .spare
  let s1 := s.modPort port fun q => (List.finRange 9).foldl (fun (q : Port) l =>
    if watched q l then q.modLane l fun v => { v with bad := if overLimit.getLsbD l.val then v.bad + 1 else 0 } else q) q
  .next ((List.finRange 9).foldl (fun (s : State) l =>
    if watched (s.port port) l && 3 ≤ (s.port port).lanes[l].bad then s.laneFence port l 2 else s) s1)
/-- LANE_LOCK_LOSS (R299): a flap. -/
def execLaneLockLoss (port : PortId) (l : LaneId) (s : State) : Host.Outcome State Fault Refusal :=
  let st := (s.port port).lanes[l].state
  .next (if st = .up || st = .spare then s.laneFence port l 1 else s)
/-- LANE (R300): a proposal is acknowledged and agreed to, an acknowledgement makes the proposal agreed. -/
def execLane (port : PortId) (failed : LaneId) (atSeq : U16) (ack : Bool) (s : State) : Host.Outcome State Fault Refusal :=
  .next (match s.takeCtl port none 6 (laneBytes failed ack atSeq) with
    | some s1 =>
      let s2 := s1.modPort port fun q => { q with swap := (q.swap.filter fun y => y.1 ≠ failed) ++ [(failed, atSeq)] }
      if ack then s2 else s2.sendCtl port none 6 (laneBytes failed true atSeq)
    | none => s)
/-- LANE_SWAP (R300, R301): at the agreed SEQ both ends fence the lane that LANE names; its symbols move onto the spare, or the port narrows, or
goes down. -/
def State.laneSwap (s0 : State) (port : PortId) (l : LaneId) : State :=
  let s := s0.modPort port fun q => { (q.modLane l fun v => { v with state := .fenced, bad := 0 }) with swap := q.swap.filter fun y => y.1 ≠ l }
  let q := s.port port
  if q.spareReady then s.modPort port fun q =>
    { (q.modLane 8 fun v => { v with state := .up }) with swapped := some l }
  else match q.wholeHalf with
    | some h =>
      (s.modPort port fun q => { q with
        half := some h
        swapped := none
        lanes := q.lanes.mapFinIdx fun i v _ =>
          if v.state = .up && !(if h then 4 ≤ i && i < 8 else i < 4) then { v with state := .down } else v }).linkEvent port 1 0
    | none => (s.linkLost port 3).portDown port 3
/-- LANE_SWAP (R300). -/
def execLaneSwap (port : PortId) (s : State) : Host.Outcome State Fault Refusal :=
  let q := s.port port
  .next (match q.swap with
    | (l, seq) :: _ => if 0 ≤ (q.native.txSeq - seq).toInt || 0 ≤ (q.native.rxSeq - seq).toInt then s.laneSwap port l else s
    | [] => s)

/-! Admission (R306 to R313). -/

/-- The answer key of an ADMIT on a link. -/
def linkKey (port : PortId) (x : Session) : Nat := 256 * port.val + (match x with
  | some i => i.val
  | none => 255)
/-- Admission fails (R306): the link stays up but REFUSED, with an event and the command's answer. -/
def State.admitFail (s : State) (port : PortId) (x : Session) (reason : Nat) : State :=
  (((s.modLink port x fun l => { l with state := .refused, adm := none, reason := BitVec.ofNat 8 reason }).flushEgress port x).linkEvent
    port 2 reason).answer (fun w => !w.queued && w.opcode = 0x0706 && w.key = linkKey port x) admitRefused reason []
/-- FC_MANIFEST_MISMATCH at admission (R362): the reason, the port, the namespace bit. -/
def State.admitMismatch (s : State) (port : PortId) (reason : Nat) : State :=
  s.portFault port { cls := 0x18, addr := 65536 + 256 * port.val + reason, clears := false }
/-- Admission moves to a stage. -/
def State.admStage (s : State) (port : PortId) (x : Session) (st : AdmStage) : State :=
  s.modLink port x fun l => { l with adm := l.adm.map fun a => { a with stage := st, stageBy := s.now + stageLimit st } }
/-- The shares of the receive pool in segments (R289); each of the 64 sessions of an Ethernet port has an equal part of them (R303). [DESIGN CHOICE, log entry 89] -/
def poolShares (x : Session) : List Nat := (List.range 16).map fun ch => (if ch % 8 < 2 then 26624 else 2048) / (if x.isSome then 64 else 1)
/-- A link is admitted (R306, R312). -/
def State.admitted (s : State) (port : PortId) (x : Session) : State :=
  ((s.modLink port x fun l => { l with
      state := .admitted
      standby := (l.partner.map fun h => decide (h.role = 1)).getD false
      adm := none
      reason := 0
      under := ((s.port port).part.map fun p => (s.part p).digest).getD []
      credit := poolShares x
      room := poolShares x
      removed := false
      due := List.replicate 16 0
      reads := []
      missed := 0
      hbBeat := none
      missJudged := none
      helloDue := false }).linkEvent port 3 0).answer (fun w => !w.queued && w.opcode = 0x0706 && w.key = linkKey port x) okStatus 0 []
/-- The coordinate the exit table expects behind a job port, and its dimension's neighbours for a standby (R307, R323). -/
def State.neighbourOk (s : State) (port : PortId) (x : Session) (h : Hello) : Bool :=
  match (s.port port).part with
  | none => true
  | some p => match (s.part p).manifest with
    | none => true
    | some m =>
      if (s.port port).isEth then m.deviceOf h.coord.toNat = some (s.link port x).devId
      else
        let ds := (List.finRange 6).filter fun d => (s.part p).exits[d] = some port
        if h.role = 1 then ((List.finRange 6).any fun d => m.hop d = h.coord.toNat)
        else ds = [] || ds.any fun d => m.hop d = h.coord.toNat
/-- The attestation engine is asked for a signature (R470). [DEDUCED, log entry 38; DEDUCED, log entry 74] -/
def State.sign (s : State) (a : Attest) : State :=
  let c := s.sec
  let firstHost := a.link.isNone && !c.queue.any fun x => x.link.isNone
  if c.current.isNone then { s with sec := { c with current := some a } }
  else { s with sec := { c with
    queue := c.queue ++ [a]
    ahead := if firstHost then b2n ((c.current.bind (·.link)).isSome) else c.ahead } }
/-- The codes of the requests an end makes of its partner, in order (R308): GET_VERSION, GET_CAPABILITIES, NEGOTIATE_ALGORITHMS, GET_DIGESTS,
GET_CERTIFICATE, CHALLENGE, GET_MEASUREMENTS. [PRESUMED, log entry 72] -/
def spdmCodes : List Byte := [0x84, 0xE1, 0xE3, 0x81, 0x82, 0x83, 0xE0]
/-- A request of R308 as its standard has it; a version older than 1.3 is what the partner's responses call for. [PRESUMED, log entry 72] -/
def spdmRequest (k : Nat) (responses : Bytes) : Bytes := [Config.spdmVersion k responses, spdmCodes.getD k 0] ++ Config.spdmFields k responses
/-- An SPDM message sent to the partner in ADMIT fragments (R306), of which an index byte numbers 256. [DEDUCED, log entry 38] -/
def State.sendSpdm (s : State) (port : PortId) (x : Session) (msg : Bytes) : State :=
  (fragments 1 (msg.take 7168)).foldl (fun s f => s.sendCtl port x 8 f) s
/-- A message of an admission comes after the limit of its stage or of the sequence (R57, R306): the admission fails TIMEOUT. -/
def State.admLate (s : State) (a : Admission) : Bool := decide (min a.stageBy a.by_ < s.now)
/-- HELLO (R306, R307, R317, R321): the HELLO stage, the exchange after a link reset, or a HELLO out of place. [DEDUCED, log entry 38] -/
def State.helloTaken (s : State) (port : PortId) (x : Session) (h : Hello) : State :=
  let l := s.link port x
  match l.adm with
  | some a =>
    if s.admLate a then s.admitFail port x 8
    else if a.stage ≠ .hello then s.protocolError port x
    else if h.gen ≠ (s.ownHello port).gen then s.admitFail port x 1
    else if !(s.port port).isFlat && !s.neighbourOk port x h then s.admitFail port x 2
    else
      ((s.modLink port x fun l => { l with partner := some h }).admStage port x .auth).sendSpdm port x (spdmRequest 0 [])
  | none =>
    match l.partner with
    | some k =>
      if l.helloDue then
        if h.boot ≠ k.boot then (s.linkLost port 2).linkDown port x .up
        else if h.device ≠ k.device then s.protocolError port x
        else s.modLink port x fun l => { l with helloDue := false }
      else if l.state = .admitted || l.state = .silent then
        (if h.boot ≠ k.boot || h.device ≠ k.device then s.protocolError port x else s)
      else s.modLink port x fun l => { l with partner := some h }
    | none => s.modLink port x fun l => { l with partner := some h }
/-- HELLO (R307). -/
def execHello (port : PortId) (x : Session) (h : Hello) (s : State) : Host.Outcome State Fault Refusal :=
  .next (match s.takeCtl port x 7 (helloBytes h) with
    | some s1 => s1.helloTaken port x h
    | none => s)
/-- A flat partner (R293, R307): one that says so on a port in HASP1 or HASP2. -/
def State.flatLink (s : State) (port : PortId) (x : Session) : Bool :=
  (s.port port).isFlat && ((s.link port x).partner.map fun h => decide (h.role = 2)).getD false
/-- AUTH passes when both ends are authenticated (R306): the partner's evidence has verified, and this end has given its own. [DEDUCED, log entry 38] -/
def State.authAdvance (s : State) (port : PortId) (x : Session) : State :=
  match (s.link port x).adm with
  | some a =>
    if !(a.stage = .auth && a.trusted && a.shown) then s
    else if s.flatLink port x then s.admStage port x .sync
    else
      let d := (((s.port port).part.bind fun p => (s.part p).manifest).map (·.digest)).getD []
      (fragments 2 (padTo 64 d)).foldl (fun s f => s.sendCtl port x 8 f) (s.admStage port x .agree)
  | none => s
/-- The partner's evidence judged (R306, R308, R472), and its FW against the manifest's. [DESIGN CHOICE, log entry 73] -/
def State.authDone (s : State) (port : PortId) (x : Session) (ev : Bytes) : State :=
  let m := (s.port port).part.bind fun p => (s.part p).manifest
  if s.sec.debug || !Config.evidenceOk ev then s.admitFail port x 3
  else if (match m with
      | some m => !s.flatLink port x && (Config.evidenceFw ev).take 12 ≠ (m.bytes.drop 48).take 12
      | none => false) then s.admitFail port x 4
  else (s.modLink port x fun l => { l with adm := l.adm.map fun a => { a with trusted := true } }).authAdvance port x
/-- This end has answered a request of the partner; its measurements are the last of its evidence (R308). -/
def State.spdmGiven (s : State) (port : PortId) (x : Session) (request answer : Bytes) : State :=
  ((s.sendSpdm port x answer).modLink port x fun l => { l with adm := l.adm.map fun a => { a with
    conn := Config.spdmNext a.conn request, shown := a.shown || byteAt request 1 = 0xE0 } }).authAdvance port x
/-- An SPDM message of the partner (R308): this end responds to a request, at once or once the attestation engine has signed (R470), and goes on
to its next request after a response. [DEDUCED, log entry 38; PRESUMED, log entry 72] -/
def State.spdmTaken (s : State) (port : PortId) (x : Session) (a : Admission) (msg : Bytes) : State :=
  if bitAt (byteAt msg 1).toNat 7 then
    let s1 := s.modLink port x fun l => { l with adm := some { a with spdm := [] } }
    if Config.spdmSigned msg && s.sec.debug then s1.sendSpdm port x spdmError
    else if Config.spdmSigned msg then s1.sign { link := some (port, x), transport := .i3c, msg := msg }
    else ({ s1 with drbg := s.drbg + 1 } : State).spdmGiven port x msg (Config.spdmAnswer msg a.conn s.measurements s.drbg)
  else
    let a1 := { a with spdm := [], evidence := a.evidence ++ msg, asked := a.asked + 1 }
    let s1 := s.modLink port x fun l => { l with adm := some a1 }
    if a1.asked < 7 then s1.sendSpdm port x (spdmRequest a1.asked a1.evidence) else s1.authDone port x a1.evidence
/-- An ADMIT fragment in its stage (R306): SPDM, the manifest digest; SYNC stamps act through SYNC_EXCHANGE. -/
def State.fragmentTaken (s : State) (port : PortId) (x : Session) (kind : Nat) (last : Bool) (data : Bytes) : State :=
  match (s.link port x).adm with
  | none => s.protocolError port x
  | some a =>
    if s.admLate a then s.admitFail port x 8
    else match kind, a.stage with
    | 1, .auth =>
      let m := a.spdm ++ data
      if last then s.spdmTaken port x a m
      else s.modLink port x fun l => { l with adm := some { a with spdm := m } }
    | 2, .agree =>
      let d := a.digest ++ data
      if last then
        (if d.take 64 = padTo 64 (((s.port port).part.map fun p => (s.part p).digest).getD []) then s.admStage port x .sync
        else (s.admitMismatch port 5).admitFail port x 5)
      else s.modLink port x fun l => { l with adm := some { a with digest := d } }
    | 3, .sync => s
    | _, _ => s.protocolError port x
/-- ADMIT_FRAGMENT (R306). -/
def execAdmitFragment (port : PortId) (x : Session) (kind index : Byte) (last : Bool) (data : Bytes) (s : State) :
    Host.Outcome State Fault Refusal :=
  .next (match s.takeCtl port x 8 ([kind, index] ++ leBytes 1 (b2n last) ++ [0] ++ padTo 28 data) with
    | some s1 => s1.fragmentTaken port x kind.toNat last (padTo 28 data)
    | none => s)
/-- The offset estimate of R46 in ps, less the half-asymmetry (R297, R311). [DESIGN CHOICE, log entry 39] -/
def offsetPs (t1 t2 t3 t4 : U64) (asym : Int) : Int := ((t2 - t1).toInt - (t4 - t3).toInt) * 500 - asym
/-- The one-way latency estimate of R311 in ps. -/
def latencyPs (t1 t2 t3 t4 : U64) (asym : Int) : Int := ((t4 - t1).toInt - (t3 - t2).toInt) * 500 + asym
/-- The latch latency in ns (R311): largest estimate plus two frame times, rounded up. -/
def latchNs (worst : Int) (frame : Nat) : Nat := ((worst + 2 * (frame : Int) + 999) / 1000).toNat
/-- Whether estimates span at most 2 ns. -/
def spanOk2 (xs : List Int) : Bool := xs.all fun a => xs.all fun b => a - b ≤ 2000
/-- One exchange of SYNC; after 1,000 the stage is judged (R311). -/
def State.syncTaken (s : State) (port : PortId) (x : Session) (a : Admission) (t1 t2 t3 t4 : U64) : State :=
  let asym := (s.port port).asymPs
  let off := offsetPs t1 t2 t3 t4 asym
  let a1 : Admission := { a with n := a.n + 1, last := (off :: a.last).take 100, worst := max a.worst (latencyPs t1 t2 t3 t4 asym) }
  let lat := latchNs a1.worst (s.port port).framePs
  let s1 := s.modLink port x fun l => { l with adm := some a1, offsetNs := off.tdiv 1000, latchNs := lat }
  if a1.n < 1000 then s1
  else if s1.flatLink port x then s1.admitted port x
  else if !spanOk2 a1.last then s1.admitFail port x 6
  else match (s.port port).part.bind fun p => (s.part p).manifest with
    | some m => if m.linkLat < lat then (s1.admitMismatch port 7).admitFail port x 7 else s1.admitted port x
    | none => s1.admitted port x
/-- SYNC_EXCHANGE (R311). -/
def execSyncExchange (port : PortId) (x : Session) (t1 t2 t3 t4 : U64) (s : State) : Host.Outcome State Fault Refusal :=
  .next (match (s.link port x).adm with
    | some a =>
      if a.stage ≠ .sync then s else if s.admLate a then s.admitFail port x 8 else s.syncTaken port x a t1 t2 t3 t4
    | none => s)
/-- ADMISSION_STAGE_TIMEOUT (R306): the stage's limit, or the limit of the sequence. -/
def execAdmissionStageTimeout (port : PortId) (x : Session) (s : State) : Host.Outcome State Fault Refusal :=
  .next (match (s.link port x).adm with
    | some a => (s.reach ((min a.stageBy a.by_ : Nat) + 1)).admitFail port x 8
    | none => s)
/-- ADMISSION_REVOKE (R317): sixteen protocol errors within 1 s. -/
def execAdmissionRevoke (port : PortId) (x : Session) (s : State) : Host.Outcome State Fault Refusal :=
  .next (if 16 ≤ (s.link port x).protoAt.length && (s.link port x).state ≠ .refused then
      (((s.linkLost port 4).modLink port x fun l => { l with state := .refused, adm := none, protoAt := [] }).flushEgress port x).linkEvent
        port 4 4
    else s)

/-! Heartbeats and the servo (R46 to R48, R319, R320). -/

/-- HEARTBEAT_SEND (R319): at T(b) + 100 ns, on every admitted link of a port that serves a partition; stamped as it leaves. -/
def execHeartbeatSend (port : PortId) (x : Session) (s : State) : Host.Outcome State Fault Refusal :=
  .next (match (s.port port).part with
    | some p =>
      if (s.link port x).state = .admitted then
        (s.reachJob p ((s.part p).t (s.part p).beat + 100)).sendCtl port x 5 (leBytes 6 (s.part p).beat)
      else s
    | none => s)
/-- The link toward the time root (R46); a Drasy-era partner takes no part in the time servo (R293). [DESIGN CHOICE, log entry 39] -/
def State.rootLink (s : State) (p : PartId) : Option (PortId × Session) :=
  match (s.part p).manifest with
  | some m => ((exitDir m.nx m.ny m.nz m.coord.toNat (m.root.toNat % 2 ^ 14)).bind (s.exitLink p)).filter fun l => !(s.port l.1).isFlat
  | none => none
/-- The servo (R45, R47) on the module's own error against its partner toward the root, in ns: it slews by at most 100 ppm of the time
since it last acted, and by at most 100 ns at once; above 50 ns it clears the clean bit and keeps it clear. [DESIGN CHOICE, log entry 39; DEDUCED, log entry 42] -/
def State.servo (s : State) (p : PartId) (port : PortId) (errPs : Int) : State :=
  let q := s.part p
  let err := errPs.tdiv 1000
  let room := min 100 ((s.now - q.servoAt) / 10000)
  let move : Int := min err.natAbs room
  let s1 := s.modPart p fun q => { q with
    syncErrPs := errPs
    offset := q.offset - (if err < 0 then -move else move)
    servoAt := s.now
    syncGood := q.syncGood && errPs.natAbs ≤ 2000
    excursions := if 2000 < errPs.natAbs && errPs.natAbs ≤ 50000 then q.excursions + 1 else q.excursions }
  if errPs.natAbs ≤ 50000 then s1
  else (s1.modPart p fun q => { q with syncHold := true }).portFault port {
    cls := 0x19, addr := port.val * 256 + 1, bit := unsignedOf 32 err }
/-- A heartbeat of an admitted partner (R46 to R48, R319): one that comes after T(b + 1) is late (R57) and ends no run of misses; T_ECHO zero
is taken as nothing echoed yet, and gives no estimate. [DESIGN CHOICE, log entry 39] -/
def State.heartbeatTaken (s : State) (port : PortId) (x : Session) (p : PartId) (hb : Heartbeat) : State :=
  let q := s.part p
  let arr : U64 := BitVec.ofInt 64 (s.jobTime p)
  let onTime := decide (s.jobTime p ≤ q.t (hb.beat.toNat + 1))
  let s1 := s.modLink port x fun l => { l with
    hbTx := hb.tTx, hbArr := arr, hbBeat := if onTime then some hb.beat.toNat else l.hbBeat, missed := if onTime then 0 else l.missed }
  let off := offsetPs hb.tEcho hb.tArr hb.tTx arr (s.port port).asymPs
  let s2 := if hb.tEcho = 0 then s1 else s1.modLink port x fun l => { l with offsetNs := off.tdiv 1000 }
  let s3 := if hb.tEcho ≠ 0 && q.job = .running && s.rootLink p = some (port, x) then s2.servo p port (-off) else s2
  if (hb.tTx.toInt - q.t0) / (q.pUs * 1000 : Nat) = hb.beat.toNat then s3
  else s3.portFault port { cls := 0x19, addr := port.val * 256 + 2 }
/-- The bytes of a HEARTBEAT (R319). -/
def hbBytes (hb : Heartbeat) : Bytes :=
  leBytes 8 hb.tTx.toNat ++ leBytes 8 hb.tEcho.toNat ++ leBytes 8 hb.tArr.toNat ++ leBytes 6 hb.beat.toNat
/-- HEARTBEAT (R46 to R48, R320): one that arrives on a silent link is counted and changes nothing else. -/
def execHeartbeat (port : PortId) (x : Session) (hb : Heartbeat) (s : State) : Host.Outcome State Fault Refusal :=
  .next (match s.takeCtl port x 5 (hbBytes hb), (s.port port).part with
    | some s1, some p =>
      if (s.link port x).state = .silent then s1.modLink port x fun l => { l with lateHb := l.lateHb + 1 }
      else s1.heartbeatTaken port x p hb
    | some s1, none => s1
    | none, _ => s)
/-- HEARTBEAT_MISS (R320): judged at T(b + 1); the eighth consecutive miss makes the partner SILENT. -/
def State.heartbeatMiss (s : State) (port : PortId) (x : Session) (p : PartId) : State :=
  let b := (s.part p).beat
  let l := s.link port x
  if l.state = .admitted && l.hbBeat ≠ some b && l.missJudged ≠ some b then
    let s0 := s.reachJob p ((s.part p).t (b + 1) + 1)
    let s1 := s0.modLink port x fun l => { l with missed := l.missed + 1, missJudged := some b }
    if l.missed + 1 < 8 then s1
    else
      let k := match x with
        | some i => i.val
        | none => 255
      (((s1.modLink port x fun l => { l with state := .silent, silentFrom := b + 1 }).portFault port {
        cls := 0x0B, addr := k * 65536 + port.val * 256 }).linkEvent port 5 0)
  else s
/-- HEARTBEAT_MISS (R320). -/
def execHeartbeatMiss (port : PortId) (x : Session) (s : State) : Host.Outcome State Fault Refusal :=
  .next (match (s.port port).part with
    | some p => s.heartbeatMiss port x p
    | none => s)

/-! The resident service (R251, R305). -/

/-- A field of a binding's request body (R442). -/
def SvcBinding.f (b : SvcBinding) (off k : Nat) : Nat := fieldAt b.body off k
/-- A binding changed. -/
def State.modBinding (s : State) (n : Nat) (f : SvcBinding → SvcBinding) : State :=
  match kget n s.bindings with
  | some b => { s with bindings := kput n (f b) s.bindings }
  | none => s
/-- The session word (R305). -/
def sessionWord (binding client request : Nat) : Bytes := leBytes 8 (binding % 65536 * 2 ^ 48 + client % 65536 * 2 ^ 32 + request % 2 ^ 32)
/-- A service datagram sent (R305). -/
def State.datagram (s : State) (b : SvcBinding) (n op reason : Nat) (session body : Bytes) : State :=
  { s with serviceOut := s.serviceOut ++ [(b.port, leBytes 2 n ++ leBytes 1 op ++ leBytes 1 reason ++ leBytes 4 body.length ++ session ++ body)] }
/-- A REFUSE, counted by its reason. [DEDUCED, log entry 78] -/
def State.svcRefuse (s : State) (n reason : Nat) (b : SvcBinding) (session : Bytes) : State :=
  (s.datagram b n 3 reason session []).modBinding n fun b => { b with
    refuse := b.refuse.set (reason - 1) (b.refuse.getD (reason - 1) 0 + 1) }
/-- The words of an inbound record (R251): the session word, then the body, or its place and length when it is longer than 56 bytes. -/
def SvcBinding.words (b : SvcBinding) (session body : Bytes) : Bytes × Option (Nat × Bytes) :=
  if body.length ≤ 56 then (session ++ padTo ((body.length + 7) / 8 * 8) body, none)
  else
    let a := b.f 40 8 + b.bodyNext % max 1 (b.f 36 4) * 8192
    (session ++ leBytes 8 a ++ leBytes 8 body.length, some (a, body))
/-- An inbound record placed by the I/O die in the ring of the tile's receive end (R250): HEAD and ARRIVED advance, the status word does
not; none while credit is short. -/
def State.svcPlace (s : State) (b : SvcBinding) (ws : Bytes) : Option State :=
  let e := s.chan b.inChan
  let n := ws.length / 8
  let need := e.need e.bytes n
  if e.ring < (e.bytes - e.released).toNat + need || e.state ≠ chOpen then none
  else
    let off := e.bytes.toNat % e.ring
    let skip := e.ring < off + 8 + 8 * n
    let o := if skip then 0 else off
    let base := e.ringBase.toNat
    let s0 := if skip then s.partWrite b.part (base + off) (recordHeader e.msgs 0 2) else s
    let s1 := s0.partWrite b.part (base + o) (recordHeader e.msgs n 1 ++ ws)
    some (s1.modChan b.inChan fun e => { e with bytes := e.bytes + BitVec.ofNat 32 need, msgs := e.msgs + 1 })
/-- Held requests placed as credit allows (R251). -/
def State.svcDrain (n : Nat) : Nat → State → State
  | 0, s => s
  | fuel + 1, s =>
    match kget n s.bindings with
    | some b => match b.waiting with
      | w :: rest => match s.svcPlace b w with
        | some s1 => State.svcDrain n fuel (s1.modBinding n fun b => { b with waiting := rest })
        | none => s
      | [] => s
    | none => s
/-- A request of a listed client within its rate (R251, R305). [DEDUCED, log entry 78] -/
def State.svcTake (s : State) (n : Nat) (b : SvcBinding) (session body : Bytes) : State :=
  let (ws, area) := b.words session body
  let full := 2 ^ 24 < (s.port b.port).spillBytes + s.heldAt b.port + ws.length
  let s1 := match area with
    | some (a, bs) => s.partWrite b.part a bs
    | none => s
  let s2 := s1.modBinding n fun b => { b with
    requests := b.requests + 1, bodyNext := if area.isSome then b.bodyNext + 1 else b.bodyNext }
  match (if b.waiting = [] then s2.svcPlace b ws else none) with
  | some s3 => s3
  | none =>
    if full then s.svcRefuse n 3 b session
    else s2.modBinding n fun b => { b with
      waiting := b.waiting ++ [ws], spillPeak := BitVec.ofNat 32 (max b.spillPeak.toNat (b.heldBytes + ws.length)) }
/-- SERVICE_REQUEST (R251, R305): a request from a listed client is written to the bound inbound channel, or refused. -/
def execServiceRequest (port : PortId) (ipv6 : Bool) (addr : Bytes) (binding : U16) (request : U32) (client : U16) (payload : Bytes)
    (s : State) : Host.Outcome State Fault Refusal :=
  .next (match kget binding.toNat s.bindings with
    | none => s
    | some b =>
      let n := binding.toNat
      let session := sessionWord n client.toNat request.toNat
      if b.port ≠ port then s
      else match (if b.isOpen then kget client.toNat b.clients else none) with
        | none => s.svcRefuse n 1 b session
        | some c =>
          if c.ipv6 ≠ ipv6 || c.addr ≠ addr then s.svcRefuse n 1 b session
          else
            let sec := s.now / 1000000000
            let made := if c.second = sec then c.made else 0
            if c.rate.toNat ≤ made then s.svcRefuse n 2 b session
            else if 8192 < payload.length then s.svcRefuse n 4 b session
            else (s.modBinding n fun b => { b with clients := kput client.toNat { c with second := sec, made := made + 1 } b.clients }).svcTake
              n b session payload)

end Sys2Proof.Machine
end

