-- ==== Sys2Proof/Machine/Route.lean ====
section
/-!
DEFINITION. Routing of packets (R27, R216, R217, R222 to R224, R228 to R230): one hop at a time, delivery at a tile or an I/O die, multicast.
-/

namespace Sys2Proof.Machine

/-! Buffers. -/

/-- Credit toward a neighbour for a packet's channel (R217). -/
def State.hopCredit (s : State) (u : TileId) (inPort : Nat) (seam : Bool) (q : Packet) : Nat :=
  vcBuffer q.vc.toNat seam - s.bufferUsed u inPort (pktIsReply q) q.vc.toNat
/-- A router is fenced (R324). -/
def State.routerFenced (s : State) (t : TileId) : Bool := (s.tile t).ward.rfence

/-! Turns (R222). Directions are output codes: 0 N, 1 E, 2 S, 3 W. -/

/-- The direction a packet travels in, from the input it came by; none when it starts here. -/
def travelling (inPort : Nat) : Option Nat := if inPort < 4 then some ((inPort + 2) % 4) else none
/-- The odd-even turn rules at a column. -/
def turnOk (px : Nat) (dir : Option Nat) (out : Nat) : Bool :=
  match dir with
  | some 1 => !(px % 2 = 0 && (out = 0 || out = 2))
  | some 0 => !(px % 2 = 1 && out = 3)
  | some 2 => !(px % 2 = 1 && out = 3)
  | _ => true
/-- The column and row a packet makes for: of its target router, or of the edge where it leaves the grid (R211). -/
def State.goal (s : State) (q : Packet) : Nat × Nat :=
  let d := q.dphys.toNat
  if bitAt d 15 then (if bitAt d 14 then 9 * s.member.w - 1 else 0, d % 32) else (bitsOf d 13 8, d % 32)
/-- The productive outputs that the turn rules allow (R222); a router does not look ahead (R224). [DEDUCED, log entry 32] -/
def State.outputs (s : State) (t : TileId) (inPort : Nat) (q : Packet) : List (Nat × TileId) :=
  let x := t.px.toNat
  let y := t.py.toNat
  let (tx, ty) := s.goal q
  let want := (if x < tx then [1] else if tx < x then [3] else []) ++ (if y < ty then [2] else if ty < y then [0] else [])
  want.filterMap fun o => match s.beyond t o with
    | some u => if turnOk x (travelling inPort) o then some (o, u) else none
    | none => none
/-- The output with the most free credit, east or west first on a tie (the list starts with them). [DESIGN CHOICE, log entry 32] -/
def bestOutput (f : Nat × TileId → Nat) : List (Nat × TileId) → Option (Nat × TileId)
  | [] => none
  | a :: rest => match bestOutput f rest with
    | some b => if f a < f b then some b else some a
    | none => some a

/-! Ends. -/

/-- A router answers a request it cannot forward (R27, R224); a reply is not answered. -/
def State.routerRefuse (s : State) (t : TileId) (q : Packet) : State :=
  if pktIsReply q then s
  else
    let r := replyTo q stUnreachable [] false
    match pktPart q with
    | some p => match s.dphysOf p t r with
      | some d => s.enter { r with dphys := d } t
      | none => s
    | none => s.enter { r with dphys := ioDphys false 0 t.py.toNat } t
/-- A packet at its tile, copied to a twin (R348). A channel packet is processed for both at the primary (State.withTwin), and a stack
port is the router's alone. -/
def State.atTile (s : State) (t : TileId) (q : Packet) : State :=
  let put := fun (v : Tile) => { v with arrivals := v.arrivals ++ [q] }
  let s1 := s.modTile t put
  if (s1.tile (twinOf t)).ward.twin && q.type ≠ 3 && q.type ≠ 4 && !isDramReq q then s1.modTile (twinOf t) put else s1
/-- A packet at the router its header names (R27): delivered, re-forwarded once, or discarded. -/
def State.deliver (s : State) (t : TileId) (q : Packet) : State :=
  if 2 ≤ q.vc.toNat || isDramReq q then s.atTile t q
  else match pktPart q with
    | none => s.atTile t q
    | some p =>
      match s.translate p (some t) (s.member.nOfAddr q.dst.toNat) with
      | none => s.routerRefuse t q
      | some u =>
        if u = t then s.atTile t q
        else if q.refwd then s.routerRefuse t q
        else s.enter { q with refwd := true, dphys := BitVec.ofNat 16 (u.px.toNat * 256 + u.py.toNat) } t
/-- A packet for a host function (R211, R230): a write goes out and is answered, a read waits for the host's completion; while the link is
down both complete with UNREACHABLE. -/
def State.toHost (s : State) (east : Bool) (q : Packet) : State :=
  let f : FnId := ⟨q.dst.toNat % 8, Nat.mod_lt _ (by decide)⟩
  if (s.fn f).gen = 0 then s.refuseAt (fnUnit f) 0 east q stUnreachable
  else if q.type = 1 then
    ((s.modFn f fun v => { v with out := v.out ++ [.write q.addr q.payload] }).place east none (ioReply (fnUnit f) 0 q stOk [])).1
  else if q.type = 2 then
    s.modFn f fun v => { v with out := v.out ++ [.read q.addr q.len.toNat q.tag q.src], reads := v.reads ++ [q] }
  else s.refuseAt (fnUnit f) 0 east q stUnreachable
/-- A packet inside the I/O die it was bound for: none when it stays there for its unit to take. -/
def State.atDie (s : State) (east : Bool) (k : NetPkt) : Option State :=
  let q := k.pkt
  match q.dstu.toNat with
  | 1 => if q.type = 0x84 || q.type = 8 then none else some (s.unitReplied q)
  | 2 => some (s.toHost east q)
  | 3 => some (s.toHost east q)
  | 4 => if pktIsReply q then some s else none
  | _ =>
    let port : PortId := ⟨bitsOf q.dphys.toNat 11 8 % 16, Nat.mod_lt _ (by decide)⟩
    match s.toExit port k.via q with
    | (s1, 0) => some s1
    | (s1, st) => some (s1.refuseAt 4 port.val east q st)

/-! One hop. -/

/-- The types of R213. -/
def knownType (t : Nat) : Bool := [1, 2, 3, 4, 5, 6, 7, 8, 0x81, 0x82, 0x84].contains t
/-- A packet of the network without its entry. -/
def State.lift (s : State) (k : NetPkt) : State := { s with net := s.net.erase k }
/-- A packet put at a place. -/
def State.drop (s : State) (k : NetPkt) (loc : Loc) : State := { s with net := s.net ++ [{ k with loc := loc }] }
/-- The outputs of a multicast packet at a router (R228): along the row away from its I/O die, which the input it came by shows, south, and the
local port (4). -/
def State.mcastOutputs (s : State) (t : TileId) (inPort : Nat) (k : NetPkt) : List (Nat × Option TileId) :=
  let d := k.pkt.dst.toNat
  let x := t.px.toNat
  let along := if k.copies then []
    else if inPort = 1 then (if bitsOf d 29 24 < x then [(3, s.beyond t 3)] else [])
    else if x < bitsOf d 21 16 then [(1, s.beyond t 1)] else []
  let fork := if bitsOf d 29 24 ≤ x && x ≤ bitsOf d 21 16 then (if t.py.toNat < bitsOf d 4 0 then [(2, s.beyond t 2)] else []) ++ [(4, some t)] else []
  along ++ fork
/-- An output of a multicast has credit for the whole packet; the local port always has. -/
def State.mcastReady (s : State) (t : TileId) (k : NetPkt) (o : Nat × Option TileId) : Bool :=
  o.1 = 4 || match o.2 with
    | some u => pktFlits k.pkt ≤ s.hopCredit u (facing o.1) (s.seamHop t u) k.pkt && !s.routerFenced u &&
      !s.seamPaused (s.member.hdOf t) (s.member.hdOf u)
    | none => false
/-- A multicast copy sent to one output. -/
def State.mcastTo (s : State) (t : TileId) (k : NetPkt) (o : Nat × Option TileId) : State :=
  if o.1 = 4 then s.modTile t fun v => { v with arrivals := v.arrivals ++ [k.pkt] }
  else match o.2 with
    | some u => s.drop { k with copies := k.copies || o.1 = 2 } (.router u ⟨facing o.1 % 5, Nat.mod_lt _ (by decide)⟩)
    | none => s
/-- A packet crosses to the next router (R217, R222); the payload of one with an uncorrectable flit passes as read (R6). [DESIGN CHOICE, log
entry 86] -/
def State.cross (s : State) (t : TileId) (k : NetPkt) (o : Nat) (u : TileId) (word : SeamWord) : State :=
  let loc := Loc.router u ⟨facing o % 5, Nat.mod_lt _ (by decide)⟩
  match word with
  | .uncorrectable =>
    let q := { k.pkt with payload := upsetBytes s.draws k.pkt.payload.length }
    ({ (s.drop { k with pkt := q } loc) with draws := s.draws + 1 } : State).linkFault t u (if pktIsReply q then 2 else 1) o
  | _ => s.drop k loc
/-- A multicast packet sent to every output at once (R229). -/
def State.mcastSend (s : State) (t : TileId) (inPort : Nat) (k : NetPkt) (word : SeamWord) : State :=
  match s.mcastOutputs t inPort k with
  | [] => s.lift k
  | o :: rest =>
    let s1 := match o.2 with
      | some u => if o.1 = 4 then (s.lift k).mcastTo t k o else (s.lift k).cross t { k with copies := k.copies || o.1 = 2 } o.1 u word
      | none => (s.lift k).mcastTo t k o
    rest.foldl (fun s o => s.mcastTo t k o) s1

/-! Arbitration (R218). -/

/-- Where a packet at a router goes next: discarded, or to outputs of which every one must have credit for it. -/
inductive Course where
  | discard
  | refuse
  | forward (outs : List Nat) (hop : Option (Nat × TileId)) (ready : Bool)
  deriving DecidableEq, Repr
/-- A write of this channel waits at the tile for room in the ring ingress buffer: the router withholds local-port credit from the channel
of the request network (R161); replies never wait on their consumer (R214). -/
def State.localHeld (s : State) (t : TileId) (vc : BitVec 2) : Bool :=
  (s.tile t).arrivals.any fun q => q.type = 1 && q.vc = vc && s.ringFull t q
/-- The course of a packet at a router (R213, R217, R222, R224, R228). -/
def State.course (s : State) (t : TileId) (inPort : Nat) (k : NetPkt) : Course :=
  let q := k.pkt
  if !knownType q.type.toNat then .discard
  else if q.mcast then
    let os := s.mcastOutputs t inPort k
    .forward (os.map (·.1)) none (os.all fun o => s.mcastReady t k o)
  else
    let (tx, ty) := s.goal q
    if tx = t.px.toNat && ty = t.py.toNat then
      if bitAt q.dphys.toNat 15 then .forward [if bitAt q.dphys.toNat 14 then 1 else 3] none true
      else .forward [4] none (pktIsReply q || !s.localHeld t q.vc)
    else
      let room := fun (o : Nat × TileId) =>
        if s.seamPaused (s.member.hdOf t) (s.member.hdOf o.2) then 0 else s.hopCredit o.2 (facing o.1) (s.seamHop t o.2) q
      match bestOutput room ((s.outputs t inPort q).filter fun o => !s.routerFenced o.2) with
      | none => .refuse
      | some o => .forward [o.1] (some o) (decide (pktFlits q ≤ room o))
/-- The input by which a packet came to a router, none when it stands elsewhere. -/
def NetPkt.inputAt (k : NetPkt) (t : TileId) : Option Nat := match k.loc with
  | .router u i => if u = t then some i.val else none
  | .ioDie _ _ => none
/-- The head of a channel's buffer at an input of a router, in one of the two networks. -/
def State.bufferHead (s : State) (t : TileId) (reply : Bool) (i vc : Nat) : Option NetPkt :=
  s.net.find? fun k => k.inputAt t = some i && pktIsReply k.pkt = reply && k.pkt.vc.toNat = vc
/-- The heads of a router's buffers that are ready with credit for an output, with their inputs. -/
def State.readyFor (s : State) (t : TileId) (reply : Bool) (o : Nat) : List (Nat × NetPkt) :=
  (List.range 20).filterMap fun j => match s.bufferHead t reply (j / 4) (j % 4) with
    | some k => match s.course t (j / 4) k with
      | .forward outs _ ready => if ready && outs.contains o then some (j / 4, k) else none
      | _ => none
    | none => none
/-- The choice at an output of a router. -/
def Tile.arbAt (v : Tile) (reply : Bool) (o : Nat) : Arb := (kget (8 * b2n reply + o) v.arb).getD {}
/-- 144 core cycles of a router in ns: 48 at the nominal 3.0 GHz, 60 at the 2.4 GHz of a TRIMMED half-die (R35, R218, R446). [DESIGN CHOICE, log entry 32] -/
def State.cycles144 (s : State) (t : TileId) : Nat := if s.power.hd.toList.getD (s.member.hdOf t) 0 = 1 then 60 else 48
/-- The window of 144 core cycles at a router's outputs (R218). [DESIGN CHOICE, log entry 32] -/
def State.arbWindow (s : State) (t : TileId) : Nat := s.now / s.cycles144 t
/-- Flit cycles of the current window that have gone to the other three channels. -/
def Arb.usedIn (a : Arb) (window : Nat) : Nat := if a.window = window then a.used else 0
/-- The order of preference at an output (R216, R218): urgent, aged unscheduled bulk, management, scheduled bulk, unscheduled bulk. [DESIGN CHOICE, log entry 32] -/
def State.preference (s : State) (t : TileId) (k : NetPkt) : Nat :=
  match k.pkt.vc.toNat with
  | 3 => 0
  | 2 => 2
  | 0 => 3
  | _ => if (k.ready.map fun r => decide (r + s.cycles144 t ≤ s.now)).getD false then 1 else 4
/-- The place of an input in the turn N, E, S, W, L after the one served last (R218). -/
def turnOf (last i : Nat) : Nat := (i + 4 - last % 5) % 5
/-- The least of a list by a measure, the earliest on a tie. -/
def leastBy {α : Type} (f : α → Nat) : List α → Option α
  | [] => none
  | a :: rest => match leastBy f rest with
    | some b => if f b < f a then some b else some a
    | none => some a
/-- The packet an output chooses at a packet boundary (R218). [DESIGN CHOICE, log entry 32] -/
def State.chosen (s : State) (t : TileId) (reply : Bool) (o : Nat) : Option (Nat × NetPkt) :=
  let a := (s.tile t).arbAt reply o
  let cands := s.readyFor t reply o
  let scheduled := cands.any fun x => x.2.pkt.vc = 0
  let allowed := cands.filter fun x => x.2.pkt.vc = 0 || !scheduled || a.usedIn (s.arbWindow t) < 18
  leastBy (fun x => 5 * s.preference t x.2 + turnOf (a.last[x.2.pkt.vc.toNat]) x.1) allowed
/-- An output has served a packet of an input. -/
def Arb.serve (a : Arb) (window i : Nat) (q : Packet) : Arb :=
  { window := window, used := a.usedIn window + (if q.vc = 0 then 0 else pktFlits q), last := a.last.set q.vc.toNat i }
/-- Outputs have served a packet. -/
def State.served (s : State) (t : TileId) (outs : List Nat) (i : Nat) (q : Packet) : State :=
  outs.foldl (fun s o => s.modTile t fun v => { v with
    arb := kput (8 * b2n (pktIsReply q) + o) ((v.arbAt (pktIsReply q) o).serve (s.arbWindow t) i q) v.arb }) s
/-- A packet is the head of its buffer at a router and ready with credit. [DESIGN CHOICE, log entry 32] -/
def State.headReady (s : State) (t : TileId) (i : Nat) (k : NetPkt) : Bool :=
  s.bufferHead t (pktIsReply k.pkt) i k.pkt.vc.toNat == some k && match s.course t i k with
    | .forward _ _ r => r
    | _ => false
/-- The heads of the routers' buffers note since when they have been ready with credit (R218). [DESIGN CHOICE, log entry 32] -/
def State.noteReady (s : State) : State :=
  { s with net := s.net.map fun k => match k.loc with
      | .router t i => { k with ready := if s.headReady t i.val k then k.ready.or (some s.now) else none }
      | .ioDie _ _ => k }
/-- A packet on its course. -/
def State.advance (s : State) (t : TileId) (inPort : Nat) (k : NetPkt) (outs : List Nat) (hop : Option (Nat × TileId)) (word : SeamWord) : State :=
  let q := k.pkt
  let s1 := s.served t outs inPort q
  match hop with
  | some o => (s1.lift k).cross t { k with ready := none } o.1 o.2 word
  | none =>
    if q.mcast then s1.mcastSend t inPort k word
    else if bitAt q.dphys.toNat 15 then (s1.lift k).drop { k with ready := none } (.ioDie (bitAt q.dphys.toNat 14) t.py)
    else (s1.lift k).deliver t q
/-- A packet at a router (R217, R218, R222, R224): the head of its channel goes when every output it needs chooses it. [DESIGN CHOICE, log entry 32] -/
def State.routerHop (s : State) (t : TileId) (inPort : Nat) (k : NetPkt) (word : SeamWord) : State :=
  if s.routerFenced t then s
  else match s.course t inPort k with
    | .discard => (s.lift k).modTile t fun v => { v with reservedTypes := v.reservedTypes + 1 }
    | .refuse => (s.lift k).routerRefuse t k.pkt
    | .forward outs hop ready =>
      if ready && outs.all (fun o => s.chosen t (pktIsReply k.pkt) o == some (inPort, k)) then s.advance t inPort k outs hop word else s
/-- The unit of an I/O die that answers a request which the die cannot pass on: the one that sent it, and the link port for what came from
another module, whose number is the die's first where the packet no longer shows it (R211). [DESIGN CHOICE, log entry 32] -/
def State.dieRefuse (s : State) (east : Bool) (q : Packet) : State :=
  let unit := if q.srcu = 0 then 4 else q.srcu.toNat
  s.refuseAt unit (if q.srcu = 4 then q.src.toNat else 8 * b2n east) east q stUnreachable
/-- A packet in an I/O die: bound for it, or about to enter the grid at the die's edge. [DESIGN CHOICE, log entry 32] -/
def State.dieHop (s : State) (east : Bool) (row : BitVec 5) (k : NetPkt) : State :=
  let q := k.pkt
  if !q.mcast && bitAt q.dphys.toNat 15 && bitAt q.dphys.toNat 14 = east then
    match (s.lift k).atDie east k with
    | some s1 => s1
    | none => s
  else
    let u : TileId := ⟨BitVec.ofNat 6 (if east then 9 * s.member.w - 1 else 0), row⟩
    let i := if east then 1 else 3
    if s.routerFenced u then
      (if q.mcast then s.lift k else (s.lift k).dieRefuse east q)
    else if pktFlits q ≤ s.hopCredit u i true q then (s.lift k).drop k (.router u ⟨i % 5, Nat.mod_lt _ (by decide)⟩) else s
/-- PACKET_ROUTE (R218, R222): the index-th packet of the networks moves one hop or is delivered when the outputs of its router choose it, and waits
otherwise. [DESIGN CHOICE, log entry 32] -/
def execPacketRoute (index : Nat) (word : SeamWord) (s : State) : Host.Outcome State Fault Refusal :=
  .next (match s.noteReady.net[index]? with
    | some k => match k.loc with
      | .router t i => (s.noteReady.routerHop t i.val k word).noteReady
      | .ioDie e row => (s.noteReady.dieHop e row k).noteReady
    | none => s)
/-- MCAST_CREDIT_TIMEOUT (R229): after 64 core cycles the copies that have credit go, the rest are dropped and counted. -/
def State.mcastDrop (s : State) (t : TileId) (inPort : Nat) (k : NetPkt) : State :=
  let os := s.mcastOutputs t inPort k
  let lost := os.filter fun o => !s.mcastReady t k o
  ((os.filter fun o => s.mcastReady t k o).foldl (fun s o => s.mcastTo t k o) (s.lift k)).modTile t fun v => { v with
    mcastDrops := v.mcastDrops + BitVec.ofNat 32 lost.length }
/-- MCAST_CREDIT_TIMEOUT (R229). -/
def execMcastCreditTimeout (index : Nat) (s : State) : Host.Outcome State Fault Refusal :=
  .next (match s.net[index]? with
    | some k => match k.loc with
      | .router t i =>
        if k.pkt.mcast && (s.mcastOutputs t i.val k).any (fun o => !s.mcastReady t k o) then s.mcastDrop t i.val k else s
      | .ioDie _ _ => s
    | none => s)

end Sys2Proof.Machine
end

