-- ==== Sys2Proof/Machine/Latch.lean ====
section
/-!
DEFINITION. The step latch (R259 to R266, R277, R280, R281): the sample at T(K), the gather across modules, BREAK, HALT, the outcome, and the
reports of shadow mode.
-/

namespace Sys2Proof.Machine

/-- A job runs: an attempt is in progress, or the repeat of a broken one is awaited (R254, R269). [DESIGN CHOICE, log entry 34] -/
def Part.watching (p : Part) : Bool := p.running && p.active && p.manifest.isSome
/-- An attempt is in progress (R254, R269): a job issues and no repeat is awaited. -/
def Part.attempting (p : Part) : Bool := p.running && p.active && p.repeatSlot.isNone && p.manifest.isSome
/-- The latch of a partition changed. -/
def State.modLatch (s : State) (p : PartId) (f : Latch → Latch) : State := s.modPart p fun q => { q with latch := f q.latch }
/-- T(K) of the current slot (R256). -/
def Part.tk (p : Part) : Int := p.t (p.slot * p.s + p.k)
/-- Ring sizes of the job's torus by dimension. -/
def Manifest.ring (m : Manifest) (d : Nat) : Nat := [m.nx, m.ny, m.nz].getD d 1
/-- The port over which a partition exchanges SHADOW and OUTCOME frames: its mirror port, from the first mirrored step on (R279, R280). -/
def Part.mirrorPort (p : Part) (role : Byte) : Option PortId := match p.shadow with
  | some h => if h.role = role && h.step.toNat ≤ p.step.toNat && !(role = 2 && h.state = 3) then some h.port else none
  | none => none

/-! The sample. -/

/-- Beats over which an engine of a tile has made no progress. -/
def Tile.stoodStill (v : Tile) (code : Nat) : Nat := min 255 (v.still.getD code (0, 0)).2
/-- The DMA engine or message unit has work in flight: a descriptor it has started, or a request not yet answered. [DESIGN CHOICE, log entry 34] -/
def Tile.inFlight (v : Tile) (e : Eng) : Bool :=
  (v.q e).slots.any (fun x => x.started) ||
    (v.outstanding.any fun o => o.pkt.tag.toNat / 2 ^ 13 = engCode e) || v.inject.any fun w => w.pkt.tag.toNat / 2 ^ 13 = engCode e
/-- Work in flight at T(K) is FC_HANG, cause 7, naming the unit (R256). [DESIGN CHOICE, log entry 34] -/
def State.lateWork (s : State) (t : TileId) : State :=
  [Eng.dma, Eng.msg].foldl (fun s e =>
    if (s.tile t).inFlight e then
      let x := ((s.tile t).q e).slots.head?
      s.tileFault t {
        cls := 6, eng := engCode e, slot := (x.map fun x => x.num.val).getD 0, pc := (x.map fun x => x.pc.toNat).getD 0,
        addr := 7 + 256 * (s.tile t).stoodStill (engCode e) }
    else s) s
/-- The contributors' classes, highest precedence first (R259, R260): the partition unit, seams, link ports, tiles by n. [DESIGN CHOICE, log entry 34] -/
def State.contributors (s : State) (p : PartId) : List (Option Byte) :=
  let q := s.part p
  let cls := fun (u : Option Unclean) => u.map (·.cls)
  let ports := (List.finRange 16).filter fun i => q.jobPorts.contains i || (q.shadow.map (·.port)) = some i
  [(cls q.unclean).or (if q.syncHold then some 0x19 else none)] ++ (s.seamsOfPart p).map (fun i => cls (kget p.val (s.seam i).unclean)) ++
    ports.map (fun i => cls (s.port i).unclean) ++ (s.holders p).map fun t => cls (s.tile t).unclean
/-- The sum of the facets of the tensors declared with a mode bit (R277), and whether there are any. -/
def State.facetSum (s : State) (p : PartId) (bit : Nat) : Bool × Nat :=
  let ds := ((s.part p).program.map (·.facets)).getD [] |>.filter fun d => bitAt d.mode.toNat bit
  (ds ≠ [], (ds.map fun d => leNat (s.partRead p d.addr.toNat 8)).foldl (fun a f => (a + f) % facetPrime) 0)
/-- A read that the partition unit makes of partition memory (R168, R169, R259): what its ECC shows clears the unit's bit. -/
def State.unitEcc (s : State) (p : PartId) (ecc : Ecc) : State :=
  match s.erasedEcc ecc with
  | .dram dpa sym =>
    (((s.upsetDram dpa.toNat).unitFault (some p) { cls := 1, unit := 4, addr := dpa.toNat, bit := sym.toNat }).clearPart p 1).markRow
      (s.dramLoc dpa.toNat) sym 1
  | e => s.correctDram e
/-- The unit's read of a range: one that a retired channel holds is uncorrectable (R351). [DESIGN CHOICE, log entry 46] -/
def State.unitRead (s : State) (p : PartId) (a k : Nat) : State := s.unitEcc p (s.retiredEcc p a k .clean)
/-- What the ECC shows of a range that Pintle reads. [DESIGN CHOICE, log entry 46] -/
def State.pintleEcc (s : State) (p : PartId) (a k : Nat) : Ecc :=
  match Config.pintleEcc s.draws with
  | some (off, pin, corrected, sym) => match if off < k then (s.part p).dpa (a + off) else none with
    | some d => if corrected then .corrected (.dram (BitVec.ofNat 42 d) pin) else .dram (BitVec.ofNat 42 d) sym
    | none => .clean
  | none => .clean
/-- Pintle's read of a program set or a manifest (R168, R169, R351): its requester is the partition. [DESIGN CHOICE, log entry 46] -/
def State.pintleRead (s : State) (p : PartId) (a k : Nat) : State :=
  ({ s with draws := s.draws + 1 } : State).unitEcc p (s.retiredEcc p a k (s.pintleEcc p a k))
/-- What the ECC shows of the facet records that are read (R277): a record in a retired channel is uncorrectable (R351). -/
def State.facetEcc (s : State) (p : PartId) (ecc : Ecc) : Ecc :=
  let ds := ((s.part p).program.map (·.facets)).getD []
  match ds.findSome? fun d => if eccBad (s.retiredEcc p d.addr.toNat 8 .clean) then some (s.retiredEcc p d.addr.toNat 8 .clean) else none with
  | some e => e
  | none => if ds = [] then .clean else ecc
/-- The sample at T(K), after the facet records are read. [DESIGN CHOICE, log entry 34; DESIGN CHOICE, log entry 87] -/
def State.latchSample (s : State) (p : PartId) (ecc : Ecc) : State :=
  let s1 := (s.reachJob p ((s.part p).t ((s.part p).beat + 1))).unitEcc p (s.facetEcc p ecc)
  let s2 := s1.forTiles (s1.holders p) State.lateWork
  let cause := (s2.contributors p).findSome? id
  let (av, a) := s2.facetSum p 1
  let (_, h) := s2.facetSum p 2
  let rec_ := ((s2.part p).program.map (·.facets)).getD [] |>.filter fun d => bitAt d.mode.toNat 0
  s2.modLatch p fun l => { l with
    facets := rec_.map fun d => (d.tid, BitVec.ofNat 64 (leNat (s2.partRead p d.addr.toNat 8)))
    sampled := some (cause.isNone, cause.getD 0), agreeValid := av, agree := BitVec.ofNat 64 a, shadowValue := BitVec.ofNat 64 h }
/-- LATCH_SAMPLE (R256, R259): after the deadline evaluation of beat K − 1. [DESIGN CHOICE, log entry 2; DESIGN CHOICE, log entry 4] -/
def execLatchSample (r : FacetRead) (s : State) : Host.Outcome State Fault Refusal :=
  let q := s.part r.part
  .next (if q.attempting && q.judged && q.beatInStep + 1 = q.k && q.latch.sampled.isNone then s.latchSample r.part r.ecc else s)

/-! The gather. -/

/-- The larger of two HOLD fields. -/
def holdMax (a b : Byte) : Byte := if a.toNat < b.toNat then b else a

/-- Two values combined (R262), AGREE apart: the pair of the lower ORIGIN stands, on a tie the lower class. -/
def GatherVal.combine (a b : GatherVal) : GatherVal :=
  let first := a.origin.toNat < b.origin.toNat || (a.origin = b.origin && a.cause.toNat ≤ b.cause.toNat)
  { clean := a.clean && b.clean, hold := holdMax a.hold b.hold,
    cause := if first then a.cause else b.cause, origin := if first then a.origin else b.origin }
/-- The value of a frame. -/
def frameVal (f : LatchFrame) : GatherVal := { clean := f.clean, hold := f.hold, cause := f.cause, origin := f.origin }
/-- A frame combined into the module's value; a differing AGREE clears it and adds FC_FACET_MISMATCH of the own coordinate (R262). [DESIGN CHOICE, log entry 34] -/
def State.combineFrame (s : State) (p : PartId) (f : LatchFrame) : State :=
  let q := s.part p
  let v := q.latch.value.combine (frameVal f)
  if f.agree = q.latch.agree && f.agreeValid = q.latch.agreeValid then s.modLatch p fun l => { l with value := v }
  else
    let s1 := if q.latch.value.cause = 4 && q.latch.value.origin = q.coord then s
      else s.partFault p { cls := 4, unit := 3, addr := q.coord.toNat, clears := false }
    s1.modLatch p fun l => { l with value := ({ v with clean := false }).combine { clean := false, cause := 4, origin := q.coord } }
/-- The module's value sent along a direction (R262); TTL 0 is not sent. -/
def State.sendGather (s : State) (p : PartId) (stage : Nat) (dir : Fin 6) (ttl : Nat) : State :=
  match (if ttl = 0 then none else s.exitLink p dir) with
  | some l =>
    let q := s.part p
    s.sendLatch l { q.frame 1 q.latch.value with stage := BitVec.ofNat 8 stage, ttl := BitVec.ofNat 8 ttl }
  | none => s
/-- The direction of a dimension. -/
def torusDir (d : Nat) (minus : Bool) : Fin 6 := ⟨(2 * d + b2n minus) % 6, Nat.mod_lt _ (by decide)⟩
/-- Frames of a stage that have been combined. -/
def Latch.count (l : Latch) (d : Nat) : Nat := (l.got.filter fun g => g.1 = d).length - (l.early.filter fun e => e.1 = d).length
/-- The stages from `d` on: each sends its value and combines the frames that came early, until one waits for frames (R262). -/
def State.runStages (p : PartId) (m : Manifest) : Nat → State → State
  | 0, s => s
  | fuel + 1, s =>
    let d := (s.part p).latch.stage
    if 3 ≤ d then s
    else
      let n := m.ring d
      if n ≤ 1 then State.runStages p m fuel (s.modLatch p fun l => { l with stage := d + 1 })
      else
        let s1 := (s.sendGather p d (torusDir d false) (n / 2)).sendGather p d (torusDir d true) ((n - 1) / 2)
        let mine := ((s1.part p).latch.early.filter fun e => e.1 = d).map (·.2)
        let s2 := (mine.foldl (fun s f => s.combineFrame p f) s1).modLatch p fun l => { l with
          early := l.early.filter fun e => e.1 ≠ d }
        if (s2.part p).latch.count d = n - 1 then State.runStages p m fuel (s2.modLatch p fun l => { l with stage := d + 1 }) else s2
/-- BREAK sent on every job link with the module's value and the HOLD it needs (R264). -/
def State.sendBreak (s : State) (p : PartId) : State :=
  let q := s.part p
  let h := holdMax q.latch.value.hold q.latch.askHold
  (s.floodLatch p none (q.frame 2 { q.latch.value with clean := false, hold := h })).modLatch p fun l => { l with
    breakSeen := true, breakHold := holdMax l.breakHold h, breakHeld := false }
/-- BREAK asked for by Pintle (R264): at once, or with the partition bit. -/
def State.askBreak (s : State) (p : PartId) (hold : Nat) : State :=
  let s1 := s.modLatch p fun l => { l with askHold := holdMax l.askHold (BitVec.ofNat 8 (min hold 255)) }
  let l := (s1.part p).latch
  if l.fixed.isSome then s1
  else if l.formed then s1.sendBreak p
  else s1.modLatch p fun l => { l with breakHeld := true }
/-- The partition bit is formed: the value exists, the gather starts, the SHADOW frame and a held BREAK go out (R260, R262, R264, R280). -/
def State.bitFormed (s : State) (p : PartId) (m : Manifest) (clean : Bool) (cause : Byte) : State :=
  let s1 := s.modLatch p fun l => { l with
    formed := true
    value := { clean := clean, hold := l.askHold, cause := cause, origin := if clean then 0xFFFF else m.coord } }
  let s2 := match (s1.part p).mirrorPort 2 with
    | some port =>
      let q := s1.part p
      s1.sendLatch (port, (s1.port port).mirrorSession) { q.frame 5 q.latch.value with
        agree := q.latch.shadowValue, agreeValid := (s1.facetSum p 2).1, hold := 0 }
    | none => s1
  let s3 := if (s2.part p).isShadow then s2 else State.runStages p m 4 s2
  if (s3.part p).latch.breakHeld then s3.sendBreak p else s3
/-- PARTITION_BIT_FORMED (R260). -/
def execPartitionBitFormed (p : PartId) (s : State) : Host.Outcome State Fault Refusal :=
  let q := s.part p
  .next (match q.latch.sampled, q.manifest with
    | some (clean, cause), some m =>
      if q.attempting && q.beatInStep = q.k && !q.latch.formed then (s.reachJob p (q.tk + 200)).bitFormed p m clean cause else s
    | _, _ => s)

/-- A latch frame taken from what has arrived on a port: the link it came by, and the state without it. [DESIGN CHOICE, log entry 34] -/
def State.takeLatch (s : State) (port : PortId) (f : LatchFrame) : Option ((PortId × Session) × State) :=
  match s.ctlIn.find? fun c => c.1 = port && c.2.2.1 = 2 && c.2.2.2 = latchBytes f with
  | some c => some ((port, c.2.1), { s with ctlIn := s.ctlIn.erase c })
  | none => none
/-- A frame of the attempt in progress (R265). -/
def Part.sameAttempt (p : Part) (f : LatchFrame) : Bool := f.job = p.jobTag && f.step = p.step && f.attempt.toNat = p.attempt
/-- A split (R265): FC_CONTRIBUTION_LATE cause 2 and HALT. -/
def State.split (s : State) (p : PartId) (port : PortId) (f : LatchFrame) : State :=
  let stage := if f.kind = 1 then f.stage.toNat else 0xFF
  (s.partFault p { cls := 0x0C, unit := 3, addr := 2 + 256 * stage + 65536 * port.val, clears := false }).sendHalt p 0x0C
    (s.part p).coord none
/-- A GATHER frame that is no split: forwarded, then combined, or kept until its stage starts (R262). -/
def State.gatherTaken (s : State) (p : PartId) (m : Manifest) (from_ : Fin 6) (f : LatchFrame) : State :=
  let d := f.stage.toNat
  let s1 := s.modLatch p fun l => { l with got := l.got ++ [(d, from_.val, f.ttl.toNat)] }
  let onward := torusDir d (from_.val % 2 = 0)
  let s2 := if 1 < f.ttl.toNat then match s1.exitLink p onward with
      | some l => s1.sendLatch l { f with ttl := f.ttl - 1 }
      | none => s1
    else s1
  let l := (s2.part p).latch
  if l.formed && l.stage = d then
    let s3 := s2.combineFrame p f
    if (s3.part p).latch.count d = m.ring d - 1 then State.runStages p m 4 (s3.modLatch p fun l => { l with stage := d + 1 }) else s3
  else s2.modLatch p fun l => { l with early := l.early ++ [(d, f)] }
/-- A GATHER frame at a module in an attempt (R262, R265). -/
def State.gatherArrives (s : State) (p : PartId) (m : Manifest) (l : PortId × Session) (f : LatchFrame) : State :=
  let q := s.part p
  let d := f.stage.toNat
  let from_ := [true, false].findSome? fun minus => if d < 3 && s.exitLink p (torusDir d minus) = some l then some (torusDir d minus) else none
  match from_ with
  | none => s.split p l.1 f
  | some e =>
    if !q.sameAttempt f || (q.latch.formed && d < q.latch.stage) || m.ring d ≤ 1 ||
        q.latch.got.contains (d, e.val, f.ttl.toNat) then s.split p l.1 f
    else s.gatherTaken p m e f
/-- A latch frame of a partition's port, acted on while an attempt is in progress; otherwise taken without effect. -/
def State.onLatchFrame (s : State) (p : PartId) (port : PortId) (f : LatchFrame) (kind : Byte)
    (g : State → PortId × Session → State) : State :=
  if (s.port port).part ≠ some p || f.kind ≠ kind then s
  else match s.takeLatch port f with
    | some (l, s1) => g s1 l
    | none => s
/-! Deadline, BREAK, HALT, outcome. -/

/-- The port whose frames of a stage are missing, 0xFF for both (R362). -/
def Part.missingPort (p : Part) (m : Manifest) (d : Nat) : Nat :=
  let have_ := fun (e : Fin 6) => (p.latch.got.filter fun g => g.1 = d && g.2.1 = e.val).length
  let lack := fun (minus : Bool) => have_ (torusDir d minus) < (if minus then m.ring d / 2 else (m.ring d - 1) / 2)
  let port := fun (minus : Bool) => ((p.exits[torusDir d minus]).map (·.val)).getD 0xFF
  if lack true && lack false then 0xFF else if lack true then port true else port false
/-- ESCAL of the attempt (R271): the blocks marked in the module's chunks. The marks are bytes that programs move (R274) and the manual does
not say how Pintle counts them, so the count is free; a job with no ring dimension has no chunks (R273). [DESIGN CHOICE, log entry 36] -/
def Part.escal (p : Part) : U16 := match p.manifest with
  | some m => if m.ringDims = 0 then 0 else Config.markedBlocks m.job.toNat p.slot
  | none => 0
/-- A SHADOW event to the reference's owner (R281, R422): its step log record as the attempt stands. -/
def Part.stepRec (p : Part) (outcome : Nat) : StepRec :=
  let (cause, origin) := match p.latch.halt with
    | some (c, o) => (c, o)
    | none => (p.latch.value.cause, p.latch.value.origin)
  { step := p.step, attempt := BitVec.ofNat 8 p.attempt, outcome := BitVec.ofNat 8 outcome, slot := BitVec.ofNat 48 p.slot,
    cause := cause, hold := holdMax p.latch.value.hold p.latch.breakHold, origin := origin,
    escal := p.escal, faults := BitVec.ofNat 32 p.faults, agree := p.latch.agree }
/-- The 32 bytes of a step log record (R271). -/
def StepRec.bytes (r : StepRec) : Bytes :=
  leBytes 6 r.step.toNat ++ [r.attempt, r.outcome] ++ leBytes 6 r.slot.toNat ++ [r.cause, r.hold] ++ leBytes 2 r.origin.toNat ++
    leBytes 2 r.escal.toNat ++ leBytes 4 r.faults.toNat ++ leBytes 8 r.agree.toNat
/-- The outcome code of an attempt as far as it is known: closed, broken. -/
def Latch.outcomeCode (l : Latch) : Nat := match l.fixed with
  | some true => 1
  | some false => 2
  | none => 0
/-- CLEAN_RUN set and, where the rule says so, a shadow event posted (R281). -/
def State.shadowRun (s : State) (p : PartId) (run : Nat) (code : Option Nat) : State :=
  let s1 := s.modPart p fun q => { q with shadow := q.shadow.map fun h => { h with
    cleanRun := run, state := if code = some 1 then 3 else if 0 < run && h.target ≤ run then 2 else 1 } }
  match code with
  | some c => s1.postPart p 4 c ((s1.part p).stepRec (s1.part p).latch.outcomeCode).bytes
  | none => s1
/-- The tentative outcome at T(K) + LATCH_DUE_NS (R263), and a missing report of a shadow (R281). -/
def State.gatherDue (s : State) (p : PartId) (m : Manifest) : State :=
  let l := (s.part p).latch
  let s1 := s.modLatch p fun l => { l with gatherJudged := true }
  if (s.part p).isShadow then s1
  else
    let s2 := if 3 ≤ l.stage then s1.modLatch p fun l => { l with tentative := some l.value.clean }
      else
        ((s1.partFault p {
            cls := 0x0C, unit := 3, clears := false
            addr := 1 + 256 * l.stage + 65536 * (s.part p).missingPort m l.stage }).modLatch p fun l => { l with
          tentative := some false }).sendBreak p
    if ((s2.part p).mirrorPort 1).isSome && (s2.part p).latch.shadowReport.isNone then s2.shadowRun p 0 (some 1) else s2
/-- GATHER_DEADLINE (R263): in the first cycle after the deadline, for a frame of the deadline's own cycle is on time (R57). -/
def execGatherDeadline (p : PartId) (s : State) : Host.Outcome State Fault Refusal :=
  let q := s.part p
  .next (match q.manifest with
    | some m => if q.attempting && q.latch.formed && !q.latch.gatherJudged then
        (s.reachJob p (q.tk + m.latchDue + 1)).gatherDue p m else s
    | none => s)
/-- A BREAK at a module in an attempt (R264, R265). -/
def State.breakArrives (s : State) (p : PartId) (l : PortId × Session) (f : LatchFrame) : State :=
  let q := s.part p
  if !q.sameAttempt f || q.latch.fixed.isSome then s.split p l.1 f
  else
    let s1 := if q.latch.forwarded then s else s.floodLatch p (some l) f
    s1.modLatch p fun x => { x with forwarded := true, breakSeen := true, breakHold := holdMax x.breakHold f.hold }
/-- HALT_FRAME (R266): the first of a job is forwarded and remembered; the partition freezes at its next boundary. -/
def execHaltFrame (p : PartId) (port : PortId) (f : LatchFrame) (s : State) : Host.Outcome State Fault Refusal :=
  .next (s.onLatchFrame p port f 3 fun s l =>
    let q := s.part p
    if q.job = .running && f.job = q.jobTag && q.latch.halt.isNone then
      (s.modLatch p fun x => { x with halt := some (f.cause, f.origin) }).floodLatch p (some l) f
    else s)
/-- What R makes of the shadow's report once its outcome is fixed (R281). [DEDUCED, log entry 35] -/
def State.shadowJudge (s : State) (p : PartId) (closed : Bool) : State :=
  let q := s.part p
  match q.mirrorPort 1, q.shadow, q.latch.shadowReport with
  | some _, some h, some (clean, v) =>
    if clean && v = q.latch.shadowValue then
      if closed then
        s.shadowRun p (h.cleanRun + 1) (if h.cleanRun + 1 = h.target then some 2 else none)
      else s
    else if clean then s
    else s.shadowRun p 0 (if closed then some 1 else none)
  | _, _, _ => s
/-- The outcome fixed at the break cutoff (R264): a commit fault that is already known sends HALT (R268); R tells its shadow (R280). [DEDUCED, log entry 35] -/
def State.cutoff (s : State) (p : PartId) : State :=
  let q := s.part p
  let closed := q.latch.tentative = some true && !q.latch.breakSeen
  let s1 := s.modLatch p fun l => { l with fixed := some closed, outcome := some (closed, holdMax l.value.hold l.breakHold) }
  let s2 := match (if closed then q.latch.lateClear else none) with
    | some cls => (s1.modLatch p fun l => { l with commitFault := true }).sendHalt p cls q.coord none
    | none => s1
  let s3 := match q.mirrorPort 1 with
    | some port => s2.sendLatch (port, (s2.port port).mirrorSession) { q.frame 4 q.latch.value with
        clean := false, closed := closed, hold := holdMax q.latch.value.hold q.latch.breakHold, cause := 0, origin := 0xFFFF,
        agree := q.latch.shadowValue }
    | none => s2
  s3.shadowJudge p closed
/-- Deadlines of the latch that have passed by now (R57): the gather's (R263), then the break cutoff (R264). A frame that arrives later than a
deadline finds it judged. -/
def State.judgeLate (s : State) (p : PartId) (m : Manifest) : State :=
  let q := s.part p
  let late := fun (ns : Nat) => decide (q.tk + ns < s.jobTime p)
  let s1 := if q.attempting && q.latch.formed && !q.latch.gatherJudged && late m.latchDue then s.gatherDue p m else s
  let l := (s1.part p).latch
  if q.attempting && !q.isShadow && l.gatherJudged && l.fixed.isNone && late (m.latchDue + m.breakNs) then s1.cutoff p else s1
/-- GATHER_FRAME (R57, R262, R265). -/
def execGatherFrame (p : PartId) (port : PortId) (f : LatchFrame) (s : State) : Host.Outcome State Fault Refusal :=
  .next (s.onLatchFrame p port f 1 fun s l => match (s.part p).manifest with
    | some m =>
      let s1 := s.judgeLate p m
      if (s1.part p).watching && !(s1.part p).isShadow then s1.gatherArrives p m l f else s1
    | none => s)

/-- BREAK_FRAME (R57, R264, R265). -/
def execBreakFrame (p : PartId) (port : PortId) (f : LatchFrame) (s : State) : Host.Outcome State Fault Refusal :=
  .next (s.onLatchFrame p port f 2 fun s l => match (s.part p).manifest with
    | some m =>
      let s1 := s.judgeLate p m
      if (s1.part p).watching && !(s1.part p).isShadow then s1.breakArrives p l f else s1
    | none => s)
/-- BREAK_CUTOFF (R264), in the first cycle after the break window (R57). -/
def execBreakCutoff (p : PartId) (s : State) : Host.Outcome State Fault Refusal :=
  let q := s.part p
  .next (match q.manifest with
    | some m =>
      if q.attempting && !q.isShadow && q.latch.gatherJudged && q.latch.fixed.isNone then
        (s.reachJob p (q.tk + m.latchDue + m.breakNs + 1)).cutoff p
      else s
    | none => s)
/-- R's outcome at its shadow (R280, R281): a clean report with another value diverges with FC_FACET_MISMATCH; a report that is not clean
diverges when R's latch closed. [DEDUCED, log entry 35] -/
def State.outcomeArrives (s : State) (p : PartId) (f : LatchFrame) : State :=
  let q := s.part p
  let clean := (q.latch.sampled.map (·.1)).getD false
  let s1 := s.modLatch p fun l => { l with outcome := some (f.closed, f.hold), breakHold := holdMax l.breakHold f.hold }
  let diverge := fun (s : State) => (s.modPart p fun q => { q with shadow := q.shadow.map fun h => { h with state := 3 } }).modLatch p
    fun l => { l with fixed := some false }
  if clean && f.agree ≠ q.latch.shadowValue then
    diverge (s1.partFault p { cls := 4, unit := 3, addr := 65536 + q.coord.toNat, clears := false })
  else if !clean && f.closed then diverge s1
  else s1.modLatch p fun l => { l with fixed := some f.closed }
/-- OUTCOME_FRAME (R280). -/
def execOutcomeFrame (p : PartId) (f : LatchFrame) (s : State) : Host.Outcome State Fault Refusal :=
  .next (match (s.part p).mirrorPort 2 with
    | some port => s.onLatchFrame p port f 4 fun s _ =>
      let q := s.part p
      let onTime := decide (s.jobTime p ≤ q.t (q.beat + 1))
      if q.attempting && q.sameAttempt f && q.latch.formed && q.latch.fixed.isNone && onTime then s.outcomeArrives p f else s
    | none => s)
/-- SHADOW_FRAME (R281): a clean report with another value is judged at once, any other at the outcome. -/
def execShadowFrame (p : PartId) (f : LatchFrame) (s : State) : Host.Outcome State Fault Refusal :=
  .next (match (s.part p).mirrorPort 1 with
    | some port => s.onLatchFrame p port f 5 fun s0 _ =>
      let s := match (s0.part p).manifest with
        | some m => s0.judgeLate p m
        | none => s0
      let q := s.part p
      if q.attempting && q.sameAttempt f && q.latch.formed && !q.latch.gatherJudged && q.latch.shadowReport.isNone then
        let s1 := s.modLatch p fun l => { l with shadowReport := some (f.clean, f.agree) }
        if f.clean && f.agree ≠ q.latch.shadowValue then s1.shadowRun p 0 (some 1) else s1
      else s
    | none => s)

end Sys2Proof.Machine
end

