-- ==== Sys2Proof/Machine/Circuits.lean ====
section
/-!
DEFINITION. The loader's work on a circuit list (R195 to R199): physical routes, queues, slot tables and steering inputs, and the checks that
refuse a program set or a re-placement.
-/

namespace Sys2Proof.Machine

/-- A route field the loader writes: circuit, router, output, slots, input port and queue, queue downstream (R186). -/
structure LoadField where
  circuit : Nat
  key : Nat
  out : Nat
  slots : Nat
  inp : Nat
  iq : Nat
  dq : Nat
  deriving DecidableEq, Repr
/-- Where a circuit stands at a position: the router, its input port and queue, the physical hops from the source, and whether a hop entry has
left from there. [DESIGN CHOICE, log entry 48] -/
structure Node where
  n : Nat
  tile : TileId
  inp : Nat
  iq : Nat
  depth : Nat
  left : Bool := false
  deriving DecidableEq, Repr
/-- The way in that a hop entry leaves from, where a circuit enters its FROM by several (R195, R198): the first that no entry has left, else the last. [DESIGN CHOICE, log entry 48] -/
def nodeFrom (nodes : List Node) (n : Nat) : Option Node :=
  (nodes.find? fun x => x.n = n && !x.left).or (nodes.filter fun x => x.n = n).getLast?
/-- A delivery of a circuit: at a position, to ingress context `unit` or, from 16 on, to an input of a steering unit, so many physical hops from
the source. -/
structure LoadEnd where
  circuit : Nat
  n : Nat
  unit : Nat
  input : Nat
  depth : Nat
  deriving DecidableEq, Repr
/-- The loader's work so far: circuits laid, queues used by 8 key + input port, route fields, steering inputs (router key, unit, input, code),
ingress contexts fed, deliveries, and whether every check has held. -/
structure Loaded where
  laid : Nat := 0
  used : List (Nat × Nat) := []
  fields : List LoadField := []
  steer : List (Nat × Nat × Nat × Nat) := []
  fed : List (Nat × Nat) := []
  ends : List LoadEnd := []
  ok : Bool := true
  deriving DecidableEq, Repr

/-- The ports crossed on the way from one tile to another: along the row to the column, then along the column (R196). -/
def routePorts (a b : TileId) : List Nat :=
  let dx := b.px.toNat - a.px.toNat
  let ex := a.px.toNat - b.px.toNat
  let dy := b.py.toNat - a.py.toNat
  let ey := a.py.toNat - b.py.toNat
  List.replicate dx 1 ++ List.replicate ex 3 ++ List.replicate dy 2 ++ List.replicate ey 0
/-- One physical hop of a circuit (R196): a queue of its own at the next router, and the route field that leads there; a hop that the circuit
already makes from the same queue is the same hop. [DESIGN CHOICE, log entry 48] -/
def State.loadHop (s : State) (p : PartId) (slots : Nat) (acc : Loaded × TileId × Nat × Nat) (o : Nat) : Loaded × TileId × Nat × Nat :=
  let (l, t, inp, iq) := acc
  match s.beyond t o with
  | none => ({ l with ok := false }, t, inp, iq)
  | some u =>
    match l.fields.find? fun f => f.circuit = l.laid && f.key = tileKey t && f.out = o && f.inp = inp && f.iq = iq with
    | some f => (l, u, facing o, f.dq)
    | none =>
      let k := 8 * tileKey u + facing o
      let q := (kget k l.used).getD 0
      let good := q < 8 && inp ≠ o && (s.part p).hasHd (s.member.hdOf u) && !(s.tile u).ward.rfence && !(s.tile t).ward.rfence
      ({ l with
         used := kput k (q + 1) l.used
         fields := l.fields ++ [⟨l.laid, tileKey t, o, slots, inp, iq, q⟩]
         ok := l.ok && good }, u, facing o, q)
/-- Logically adjacent positions. -/
def Member.adjacent (m : Member) (a b : Nat) : Bool :=
  let dx := (m.lx a - m.lx b) + (m.lx b - m.lx a)
  let dy := (m.ly a - m.ly b) + (m.ly b - m.ly a)
  dx + dy = 1
/-- One hop entry of a circuit (R195). A delivery to an ingress context straight from an egress queue has no route field: IN of output L is
never 4 (R186). [DEDUCED, log entry 48] -/
def State.loadEntry (s : State) (p : PartId) (slots : Nat) (acc : Loaded × List Node) (w : U32) : Loaded × List Node :=
  let (l, nodes0) := acc
  let from_ := bitsOf w.toNat 31 22
  let to_ := bitsOf w.toNat 21 12
  let arg := bitsOf w.toNat 9 5
  let bad := ({ l with ok := false }, nodes0)
  match nodeFrom nodes0 from_ with
  | none => bad
  | some x =>
    let nodes := nodes0.map fun y => if y = x then { y with left := true } else y
    if bitsOf w.toNat 4 0 ≠ 0 then bad
    else match bitsOf w.toNat 11 10, s.tileOfN p to_ with
      | 0, some u =>
        let ports := routePorts x.tile u
        let (l1, t, inp, iq) := ports.foldl (s.loadHop p slots) (l, x.tile, x.inp, x.iq)
        ({ l1 with ok := l1.ok && arg = 0 && s.member.adjacent from_ to_ },
          nodes ++ [{ n := to_, tile := t, inp := inp, iq := iq, depth := x.depth + ports.length }])
      | 1, some _ =>
        ({ l with
           fields := l.fields ++ [⟨l.laid, tileKey x.tile, 4, slots, x.inp, x.iq, arg % 8⟩]
           fed := l.fed ++ [(tileKey x.tile, arg % 8)]
           ends := l.ends ++ [⟨l.laid, x.n, 8 + arg % 8, 0, x.depth⟩]
           ok := l.ok && to_ = from_ && arg < 8 && x.inp ≠ 4 }, nodes)
      | 2, some _ =>
        ({ l with
           steer := l.steer ++ [(tileKey x.tile, arg / 4, arg % 4, x.inp * 16 + x.iq)]
           ends := l.ends ++ [⟨l.laid, x.n, 16 + arg / 4, arg % 4, x.depth⟩]
           ok := l.ok && to_ = from_ && arg % 4 < 3 }, nodes)
      | _, _ => bad
/-- One circuit. -/
def State.loadCircuit (s : State) (p : PartId) (l : Loaded) (c : Circuit) : Loaded :=
  match s.tileOfN p c.srcN with
  | none => { l with ok := false, laid := l.laid + 1 }
  | some t =>
    let kind := bitsOf c.src.toNat 7 4
    let k := bitsOf c.src.toNat 3 0
    let inp := if kind = 0 then 4 else 4 + kind
    let (l1, _) := c.hops.foldl (s.loadEntry p c.slots.toNat) (l, [{ n := c.srcN, tile := t, inp := inp, iq := k % 8, depth := 0 }])
    { l1 with
      laid := l1.laid + 1
      ok := l1.ok && (s.part p).hasHd (s.member.hdOf t) && c.slots ≠ 0 && kind ≤ 2 && k < 8 && 1 ≤ c.hops.length && c.hops.length ≤ 64 }
/-- Slots set in a mask. -/
def slotCount (m : Nat) : Nat := ((List.range 32).filter (bitAt m)).length
/-- No output of a router is given to two uses in one slot. [DESIGN CHOICE, log entry 48] -/
def fieldsApart : List LoadField → Bool
  | [] => true
  | f :: fs => (fs.all fun g => g.key ≠ f.key || g.out ≠ f.out || f.slots &&& g.slots = 0) && fieldsApart fs
/-- The crossings of half-rate seams own at most 16 slots (R62, R198). -/
def State.gearOk (s : State) (fs : List LoadField) : Bool :=
  fs.all fun f =>
    f.out = 4 || match s.beyond (keyTile f.key) f.out with
    | some u => match s.seamBetween (s.member.hdOf (keyTile f.key)) (s.member.hdOf u) with
      | some id => !(s.seam id).halfRate || s.member.hdOf (keyTile f.key) = s.member.hdOf u ||
          slotCount ((fs.filter fun g => g.key = f.key && g.out = f.out).foldl (fun a g => a ||| g.slots) 0) ≤ 16
      | none => true
    | none => false
/-- The inputs a steering unit of a kind must be given (R191, R198): IN0 and the token, and IN1 for MERGE and SELECT alone. -/
def steerNeeds (kind : Nat) : List Nat :=
  match kind with
  | 0 => []
  | 1 => [0, 1, 2]
  | 3 => [0, 1, 2]
  | _ => [0, 2]
/-- The outputs a steering unit of a kind feeds: A, and B for SPLIT. -/
def steerFeeds (kind : Nat) : List Nat :=
  match kind with
  | 0 => []
  | 2 => [1, 2]
  | _ => [1]
/-- The circuits of a program set laid on the placement in force. [DESIGN CHOICE, log entry 48] -/
def State.loadCircuits (s : State) (p : PartId) (cs : List Circuit) : Loaded := cs.foldl (s.loadCircuit p) {}
/-- Contexts and steering inputs of a tile are fed each by exactly one circuit, and its outputs are read (R198). A context that is not enabled and
a unit that is off need none, and take no more than one. [DESIGN CHOICE, log entry 48] -/
def Loaded.tileFed (l : Loaded) (cs : List Circuit) (n key : Nat) (sport : Vector Context 16) (steer : Vector Steer 8) : Bool :=
  ((List.range 8).all fun k =>
    let c := sport.toList.getD (8 + k) {}
    let n := (l.fed.filter fun f => f = (key, k)).length
    n = 1 || (n = 0 && !c.enabled)) &&
  (List.range 8).all fun u =>
    let x := steer.toList.getD u {}
    ((List.range 3).all fun i =>
      let n := (l.steer.filter fun f => f.1 = key && f.2.1 = u && f.2.2.1 = i).length
      if x.kind = 0 then n ≤ 1 else n = if (steerNeeds x.kind.toNat).contains i then 1 else 0) &&
    (steerFeeds x.kind.toNat).all fun o => cs.any fun c => c.srcN = n && c.src.toNat = o * 16 + u
/-- Every check of R198 that concerns routes. -/
def State.routesOk (s : State) (l : Loaded) : Bool := l.ok && fieldsApart l.fields && s.gearOk l.fields
/-- The slot table of a router (R185). -/
def Loaded.table (l : Loaded) (key : Nat) : Vector U64 32 :=
  let mine := l.fields.filter fun f => f.key = key
  Vector.ofFn fun i => BitVec.ofNat 64 ((mine.filter fun f => bitAt f.slots i.val).foldl (fun a f =>
    a ||| (512 + f.inp * 64 + f.iq * 8 + f.dq) * 2 ^ (10 * f.out)) 0)
/-- The steering entries of a tile with the inputs the loader fills in (R191). -/
def Loaded.steerOf (l : Loaded) (key : Nat) (steer : Vector Steer 8) : Vector Steer 8 :=
  Vector.ofFn fun u =>
    let x := steer[u]
    let code := fun (i d : Nat) => match l.steer.find? fun f => f.1 = key && f.2.1 = u.val && f.2.2.1 = i with
      | some f => BitVec.ofNat 8 f.2.2.2
      | none => BitVec.ofNat 8 d
    if x.kind = 0 then x else { x with in0 := code 0 0, in1 := code 1 0x80, tok := code 2 0 }
/-- The pending slot tables of a partition's routers, for its program set on a map (R185, R201). -/
def State.pendTables (s : State) (p : PartId) (m : List (Nat × U16)) : State :=
  match (s.part p).program with
  | none => s
  | some g =>
    let l := ({ s with placement := m } : State).loadCircuits p g.circuits
    s.forTiles (s.tilesOfPart p) fun s t => s.modTile t fun v => { v with router := { v.router with pendingTable := l.table (tileKey t) } }
/-- The pending tables and the steering inputs of a partition's program set put in force on the placement in force (R201). -/
def State.putTables (s : State) (p : PartId) : State :=
  match (s.part p).program with
  | none => s
  | some g =>
    let l := s.loadCircuits p g.circuits
    s.forTiles (s.tilesOfPart p) fun s t => s.modTile t fun v => { v with
      steer := l.steerOf (tileKey t) v.steer
      entry := v.entry.map fun e => { e with steer := l.steerOf (tileKey t) e.steer }
      router := { v.router with active := v.router.pendingTable } }
/-- The circuit list of a partition's program set loaded: its tables written and put in force (R209, R440). -/
def State.loadTables (s : State) (p : PartId) : State := (s.pendTables p s.placement).putTables p
/-- The physical hops of a circuit to a delivery that a condition picks out; to its furthest where none is. [DESIGN CHOICE, log entry 48] -/
def Loaded.depthTo (l : Loaded) (c : Nat) (pick : LoadEnd → Bool) : Nat :=
  let mine := l.ends.filter fun e => e.circuit = c
  let here := mine.filter pick
  ((if here = [] then mine else here).map (·.depth)).foldl max 0
/-- The physical hops of a side of a join (R199): its last circuit ends at that input of the unit, its first at the source of its second. [DESIGN CHOICE, log entry 48] -/
def Loaded.sideHops (l : Loaded) (cs : List Circuit) (j : Join) (side : Nat) (a b : U16) : Nat :=
  let atJoin := fun (e : LoadEnd) => e.n = j.n && e.unit = j.steerUnit.toNat && e.input = side
  let atSecond := fun (e : LoadEnd) => match cs[b.toNat]? with
    | some c => e.n = c.srcN && (bitsOf c.src.toNat 7 4 = 0 || e.unit = 16 + bitsOf c.src.toNat 3 0)
    | none => true
  if b = 0xFFFF then l.depthTo a.toNat atJoin else l.depthTo a.toNat atSecond + l.depthTo b.toNat atJoin
/-- The joins keep their slack, and no circuit gains more at any delivery than the free headroom (R202): 2 core cycles for each hop added,
counted at MIN_CLOCK. [DESIGN CHOICE, log entry 48] -/
def ProgramSet.slackOk (g : ProgramSet) (before after : Loaded) : Bool :=
  let fits := fun (x : Int) (slack : U16) => slack = 0xFFFF || decide (x ≤ slack.toNat)
  let free := g.budget.headroomNs - g.budget.capHeadroomNs
  let quick := fun (cycles : Int) => if g.budget.minClock = 0 then decide (cycles ≤ 3 * free) else decide (5 * cycles ≤ 12 * free)
  (g.joins.all fun j =>
    let added := fun (side : Nat) (a b : U16) => 2 * ((after.sideHops g.circuits j side a b : Int) - before.sideHops g.circuits j side a b)
    let d := added 1 j.c1a j.c1b - added 0 j.c0a j.c0b
    fits d j.slack0 && fits (-d) j.slack1) &&
  (before.ends.zip after.ends).all fun x => quick (2 * ((x.2.depth : Int) - x.1.depth))

end Sys2Proof.Machine
end

