-- ==== Sys2Proof/Machine/Entries.lean ====
section
/-!
DEFINITION. Tile state images (R203, R204): their bytes, what is read back from them, and the checks of a scan-in (R208).
-/

namespace Sys2Proof.Machine

/-! Entries, and checks of them. -/

/-- The first check that does not hold gives ST_BAD_ARG with its DETAIL. -/
def checks : List (Bool × Nat) → Option (Nat × Nat)
  | [] => none
  | (ok, d) :: cs => if ok then checks cs else some (badArg, d)
/-- DETAIL of a reason without a fault class. -/
def why (reason : Nat) : Nat := reason * 256
/-- Bytes of a partition's memory that can be read: inside it, in regions that are ON. -/
def State.readable (s : State) (p : PartId) (a k : Nat) : Bool :=
  (s.part p).inRange a k && (List.range (k / 2 ^ 33 + 1)).all fun i => s.rangeOn p (a + i * 2 ^ 33) (min (k - i * 2 ^ 33) (2 ^ 33))
/-- A ring entry (R156), P and C zero. -/
def parseRing (bs : Bytes) (o : Nat) : Ring :=
  { base := BitVec.ofNat 32 (fieldAt bs o 4), slotWords := BitVec.ofNat 16 (fieldAt bs (o + 4) 2), slots := BitVec.ofNat 16 (fieldAt bs (o + 6) 2)
    prodEp := byteAt bs (o + 8), consEp := byteAt bs (o + 9), tmo := byteAt bs (o + 10), enabled := bitAt (byteAt bs (o + 11)).toNat 0 }
/-- A carry entry (R162). -/
def parseCarry (bs : Bytes) (o : Nat) : Carry :=
  { base := BitVec.ofNat 32 (fieldAt bs o 4), size := BitVec.ofNat 32 (fieldAt bs (o + 4) 4), save := BitVec.ofNat 64 (fieldAt bs (o + 8) 8) }
/-- A context entry (R189). -/
def parseContext (bs : Bytes) (o : Nat) : Context :=
  { enabled := bitAt (byteAt bs o).toNat 0, ring := ⟨(byteAt bs (o + 1)).toNat % 16, Nat.mod_lt _ (by decide)⟩
    flits := BitVec.ofNat 32 (fieldAt bs (o + 4) 4), actMod := BitVec.ofNat 16 (fieldAt bs (o + 8) 2), actRem := BitVec.ofNat 16 (fieldAt bs (o + 10) 2) }
/-- A steering unit entry (R191). -/
def parseSteer (bs : Bytes) (o : Nat) : Steer := { kind := byteAt bs o, in0 := byteAt bs (o + 1), in1 := byteAt bs (o + 2), tok := byteAt bs (o + 3) }
/-- The tiles that carry a position of the partition: in paired mode the twin with the primary (R347). -/
def State.tilesAt (s : State) (p : PartId) (n : Nat) : List TileId := match s.tileOfN p n with
  | some t => if (s.part p).paired then [t, twinOf t] else [t]
  | none => []
/-! Writing an image. -/

/-- Words of 4 bytes. -/
def words4 (ws : List U32) : Bytes := ws.flatMap fun w => leBytes 4 w.toNat
/-- The SEQ bytes (R203). -/
def Seq.bytes (q : Seq) : Bytes :=
  padTo 256 (words4 (q.regs.toList ++ [q.pc, q.mstatus, q.mtvec, q.mepc, q.mcause, q.mtval, q.mscratch]))
/-- The counts that ENGCTL begins with: enqueued and completed of MXE, VXE, DMA and MSG. -/
def Tile.countBytes (v : Tile) : Bytes := words4 [v.mxe.enq, v.mxe.done, v.vxe.enq, v.vxe.done, v.dma.enq, v.dma.done, v.msg.enq, v.msg.done]
/-- Bytes of an image whose layout the manual does not give: a free function of what they must hold. [DESIGN CHOICE, log entry 25] -/
def freeBytes (off k : Nat) (holds : Bytes) : Bytes := (List.range k).map fun i => Config.imageByte (off + i) holds
/-- A binding's code. -/
def bindingCode : Binding → Nat
  | .unscheduled => 0
  | .bound => 1
  | .held => 2
/-- What ENGCTL holds of a slot: its ticket, its PC, its beat binding, and that it is occupied. -/
def Slot.ctlBytes (x : Slot) : Bytes := leBytes 4 x.ticket.toNat ++ leBytes 3 (x.pc.toNat + 2 ^ 17 * bindingCode x.binding + 2 ^ 19)
/-- The slots of an engine, by number, 7 bytes each. -/
def EngQ.ctlBytes (q : EngQ) : Bytes :=
  (List.finRange 8).flatMap fun i => match q.slots.find? fun x => x.num = i with
    | some x => x.ctlBytes
    | none => List.replicate 7 0
/-- The dependency and beat-binding state of the slots (R203): the manual gives no layout, so the bytes are masked with free ones, which the
scan-in takes off again. [DESIGN CHOICE, log entry 25] -/
def maskCtl (bs : Bytes) : Bytes := (bs.zip (freeBytes 544 224 [])).map fun x => x.1 ^^^ x.2
/-- A ring entry (R156). -/
def Ring.bytes (r : Ring) : Bytes :=
  leBytes 4 r.base.toNat ++ leBytes 2 r.slotWords.toNat ++ leBytes 2 r.slots.toNat ++ [r.prodEp, r.consEp, r.tmo] ++ leBytes 1 (b2n r.enabled) ++
    leBytes 4 0 ++ leBytes 4 r.p.toNat ++ leBytes 4 r.c.toNat ++ leBytes 8 0
/-- A carry entry (R162). -/
def Carry.bytes (c : Carry) : Bytes := leBytes 4 c.base.toNat ++ leBytes 4 c.size.toNat ++ leBytes 8 c.save.toNat
/-- A context entry (R189). -/
def Context.bytes (c : Context) : Bytes :=
  leBytes 1 (b2n c.enabled) ++ leBytes 1 c.ring.val ++ leBytes 2 0 ++ leBytes 4 c.flits.toNat ++ leBytes 2 c.actMod.toNat ++
    leBytes 2 c.actRem.toNat ++ leBytes 4 0
/-- A steering unit entry (R191). -/
def Steer.bytes (x : Steer) : Bytes := [x.kind, x.in0, x.in1, x.tok] ++ List.replicate 12 0
/-- The descriptors of an engine, by slot (R203). -/
def EngQ.descBytes (q : EngQ) : Bytes :=
  (List.finRange 8).flatMap fun i => match q.slots.find? fun x => x.num = i with
    | some x => padTo 64 x.desc
    | none => List.replicate 64 0
/-- The entry section after its header (R203). [DESIGN CHOICE, log entry 25] -/
def Tile.entryBytes (v : Tile) : Bytes :=
  v.seq.bytes ++ (v.countBytes ++ maskCtl (v.mxe.ctlBytes ++ v.vxe.ctlBytes ++ v.dma.ctlBytes ++ v.msg.ctlBytes)) ++ v.rings.toList.flatMap Ring.bytes ++ v.windows.toList.flatMap Window.bytes ++
    padTo 64 (v.carries.flatMap Carry.bytes) ++ List.replicate 192 0 ++ v.router.active.toList.flatMap (fun w => leBytes 8 w.toNat) ++
    v.sport.toList.flatMap Context.bytes ++ v.steer.toList.flatMap Steer.bytes ++ List.replicate 384 0 ++
    (v.mxe.descBytes ++ v.vxe.descBytes ++ v.dma.descBytes ++ v.msg.descBytes) ++ List.replicate 3072 0
/-- The stream queues (R203): 5 ports of 8 queues of 16 flits. -/
def StreamRouter.queueBytes (r : StreamRouter) : Bytes :=
  (List.range 40).flatMap fun k => padTo 512 (((kget k r.queues).getD []).flatMap fun f => leBytes 32 f.toNat)
/-- What STEERQ holds of a unit: held token, count left, A and B queues. -/
def Steer.queueBytes (x : Steer) : Bytes :=
  let h := x.held.getD (false, 0)
  [BitVec.ofNat 8 (b2n x.held.isSome + 2 * b2n h.1)] ++ leBytes 2 h.2 ++ leBytes 1 x.qa.length ++ leBytes 1 x.qb.length ++
    (x.qa ++ x.qb).flatMap fun f => leBytes 32 f.toNat
/-- What the DMA and MSG sections hold of descriptors in flight: their slots and their progress. -/
def EngQ.flightBytes (q : EngQ) : Bytes :=
  (q.slots.filter (·.started)).flatMap fun x =>
    let a := x.allot.getD (0, 0)
    leBytes 1 x.num.val ++ leBytes 4 x.pos ++ leBytes 4 x.seq ++ leBytes 4 x.outstanding ++ leBytes 2 x.status.toNat ++
      leBytes 1 (b2n x.finished + 2 * b2n x.allot.isSome) ++ leBytes 4 a.1.toNat ++ leBytes 4 a.2.toNat
/-- What SPORTQ holds of a context: its count, its place in its ring, its buffer. -/
def Context.queueBytes (c : Context) : Bytes :=
  leBytes 4 c.count ++ leBytes 4 c.slotIdx ++ leBytes 2 c.wordIdx ++ leBytes 1 c.buffer.length ++ c.buffer.flatMap fun f => leBytes 32 f.toNat
/-- The dynamic section (R203): of STEERQ, DMA, MSG and SPORTQ the manual says what they hold, not how. [DESIGN CHOICE, log entry 25] -/
def Tile.dynamicBytes (v : Tile) : Bytes :=
  v.router.queueBytes ++ freeBytes 28672 2048 (v.steer.toList.flatMap Steer.queueBytes) ++ freeBytes 30720 4096 v.dma.flightBytes ++
    freeBytes 34816 2048 v.msg.flightBytes ++ freeBytes 36864 1024 (v.sport.toList.flatMap Context.queueBytes) ++ padTo 8192 v.wbuf ++
    padTo 32768 (words4 v.accum) ++ List.replicate 19456 0
/-- The image header (R204), its CHECK zero. -/
def State.imageHeader (s : State) (p : PartId) (n : Nat) (t : TileId) (kind flags : Nat) : Bytes :=
  let q := s.part p
  leBytes 2 1 ++ leBytes 1 kind ++ leBytes 1 flags ++ leBytes 1 s.member.code ++ leBytes 1 0 ++ leBytes 2 n ++ leBytes 1 t.px.toNat ++
    leBytes 1 t.py.toNat ++ leBytes 2 0 ++ leBytes 4 0 ++ leBytes 8 q.step.toNat ++ leBytes 8 (q.beat % 2 ^ 48) ++ padTo 32 (s.tile t).program ++
    leBytes 8 q.jobTag.toNat ++ List.replicate 184 0
/-- An image with its CHECK filled in: CRC-32C over the image with CHECK zero. -/
def withCheck (bs : Bytes) : Bytes := bs.take 12 ++ leBytes 4 (crc32c bs) ++ bs.drop 16
/-- The entry section of a tile (R203). -/
def Tile.entryOf (v : Tile) (step : U48) (busy : Option (Nat × Nat × Nat)) : Entry :=
  let b := busy.getD (0, 0, 0)
  { step := step, unclean := busy.isSome, busy := b.1, busySlot := b.2.1, busyPc := b.2.2, seq := v.seq, mxe := v.mxe, vxe := v.vxe, dma := v.dma, msg := v.msg, rings := v.rings,
    windows := v.windows, carries := v.carries, sport := v.sport, steer := v.steer }
/-- What is scanned out is what the entry buffer holds: FLAGS[0]. -/
def Tile.atEntry (v : Tile) : Bool := match v.entry with
  | some e => decide ({ e with unclean := false, busy := 0, busySlot := 0, busyPc := 0, busyStill := 0 } = v.entryOf e.step none)
  | none => false
/-- A tile scanned out (R203, R204, R208). [DESIGN CHOICE, log entry 25] -/
def State.scanOut (s : State) (p : PartId) (n : Nat) (t : TileId) (kind : Nat) : Bytes :=
  let v := s.tile t
  let flags := b2n v.atEntry + (if kind = 2 then 2 else 0) + 4 * b2n (v.atEntry && (v.entry.map (·.unclean)).getD false)
  let body := s.imageHeader p n t kind flags ++ v.entryBytes
  withCheck (if kind = 2 then body ++ v.dynamicBytes else body)

/-! Reading an image. -/

/-- The sequencer of an image: before its first issue it runs, else it stands in ZQ.BSYNC (R205). -/
def parseSeq (bs : Bytes) : Seq :=
  let w := fun i => BitVec.ofNat 32 (fieldAt bs (256 + 4 * i) 4)
  let fresh := (w 31 = 0#32) && zeroAt bs 512 32
  { regs := Vector.ofFn fun i => w i.val, pc := w 31, mstatus := w 32, mtvec := w 33, mepc := w 34, mcause := w 35, mtval := w 36, mscratch := w 37
    run := if fresh then .running else .stalled .bsync }
/-- A slot's binding by its code. -/
def bindingOf (k : Nat) : Binding := match k with
  | 0 => .unscheduled
  | 1 => .bound
  | _ => .held
/-- An engine's queue in an image: engine 0 to 3 (R203); tickets follow one another from the count of the completed on (R99). [DESIGN CHOICE, log entry 25] -/
def parseQueue (bs : Bytes) (e : Nat) : EngQ :=
  let w := fun o => BitVec.ofNat 32 (fieldAt bs o 4)
  let ctl := maskCtl ((bs.drop 544).take 224)
  let slots := (List.finRange 8).filterMap fun i =>
    let o := 56 * e + 7 * i.val
    let k := fieldAt ctl (o + 4) 3
    if bitAt k 19 then some ({
      num := i, desc := (bs.drop (3072 + 512 * e + 64 * i.val)).take 64, ticket := BitVec.ofNat 32 (fieldAt ctl o 4), pc := BitVec.ofNat 17 k
      binding := bindingOf (bitsOf k 18 17) } : Slot) else none
  { enq := w (512 + 8 * e), done := w (516 + 8 * e)
    slots := (List.range 8).filterMap fun j => slots.find? fun x => x.ticket = w (516 + 8 * e) + BitVec.ofNat 32 (j + 1) }
/-- The entry section of an image (R203). [DESIGN CHOICE, log entry 25] -/
def parseEntry (bs : Bytes) : Entry :=
  { step := BitVec.ofNat 48 (fieldAt bs 16 8), unclean := bitAt (byteAt bs 3).toNat 2, seq := parseSeq bs
    mxe := parseQueue bs 0, vxe := parseQueue bs 1, dma := parseQueue bs 2, msg := parseQueue bs 3
    rings := Vector.ofFn fun i => let o := 768 + 32 * i.val; { parseRing bs o with
      p := BitVec.ofNat 32 (fieldAt bs (o + 16) 4), c := BitVec.ofNat 32 (fieldAt bs (o + 20) 4) }
    windows := Vector.ofFn fun i => parseWindow ((bs.drop (1280 + 32 * i.val)).take 32)
    carries := ((List.range 4).map fun i => parseCarry bs (1792 + 16 * i)).filter fun c => c.size ≠ 0
    sport := Vector.ofFn fun i => parseContext bs (2304 + 16 * i.val)
    steer := Vector.ofFn fun i => parseSteer bs (2560 + 16 * i.val) }
/-- The checks of a scan-in (R208). -/
def State.scanRefusal (s : State) (p : PartId) (n : Nat) (t : TileId) (bs : Bytes) : Option (Nat × Nat) :=
  let flags := (byteAt bs 3).toNat
  checks [
    (fieldAt bs 12 4 = crc32c (bs.take 12 ++ leBytes 4 0 ++ bs.drop 16), why 0x10),
    (fieldAt bs 0 2 = 1 && fieldAt bs 4 1 = s.member.code, why 0x11),
    (fieldAt bs 2 1 = 1 && !bitAt flags 1 && !bitAt flags 2, why 0x12),
    (fieldAt bs 6 2 = n, why 0x13),
    ((bs.drop 32).take 32 == padTo 32 (s.tile t).program, why 0x14),
    (fieldAt bs 16 8 = (s.part p).step.toNat, why 0x15)]

end Sys2Proof.Machine
end

