-- ==== Sys2Proof/Machine/Place.lean ====
section
/-!
DEFINITION. Entry images (R203 to R208), carry regions (R162 to R164), the placement map and its rows (R23, R24, R334, R335, R342), and the
move of positions from tile to tile at a switch (R26, R337).
-/

namespace Sys2Proof.Machine

/-! Entry images. -/

/-- The counts of the hang window start again (R364). -/
def Tile.restartStill (v : Tile) : Tile :=
  let p := v.progress
  { v with still := [(p.seq, 0), (p.mxe, 0), (p.vxe, 0), (p.dma, 0), (p.msg, 0), (p.sport, 0)] }
/-- Everything of the dynamic section discarded: stream queues, steering, descriptors in flight, partial results, requests (R207, R367). -/
def Tile.zeroDynamic (v : Tile) : Tile :=
  { v.streamClear with
    pass := {}, vout := none, accum := [], wbuf := [], ingress := [], inject := [], held := [], outstanding := [], allots := [] }
/-- The entry section reloaded and the dynamic section zeroed (R207, R208). -/
def Tile.reload (v : Tile) (e : Entry) : Tile :=
  ({ v.zeroDynamic with
     seq := e.seq, mxe := e.mxe, vxe := e.vxe, dma := e.dma, msg := e.msg, rings := e.rings, windows := e.windows, carries := e.carries
     sport := e.sport, steer := e.steer, overrun := false, deadlineFault := false, bwaited := false, stamp := none
     bsyncGo := decide (e.seq.run = SeqRun.stalled SeqWait.bsync), entry := some e }).streamClear
/-- The context slot and PC that name a busy DMA engine or message unit (R355): its oldest started descriptor, else its oldest. -/
def EngQ.busyWith (q : EngQ) : Nat × Nat := match (q.slots.find? fun x => x.started).or q.slots.head? with
  | some x => (x.num.val, x.pc.toNat)
  | none => (0, 0)
/-- A steering unit that is not idle. -/
def Steer.working (x : Steer) : Bool := x.held.isSome || !x.qa.isEmpty || !x.qb.isEmpty
/-- The unit that is busy at an entry copy (R205), by its endpoint code, slot and PC; none when the image is a valid entry state. Where several
are busy the first of sequencer, DMA engine, message unit, steering units by number, stream queues is named; queues alone are slot 0, and an
egress queue its context. [DESIGN CHOICE, log entry 25] -/
def Tile.busyAtEntry (v : Tile) : Option (Nat × Nat × Nat) :=
  let stopped := decide (v.seq.run = SeqRun.stalled SeqWait.bsync)
  let empty := v.router.queues.all (fun x => x.2.isEmpty) && v.router.seamBuf.all (fun x => x.2.isEmpty)
  if !v.issued then none
  else if !stopped then some (0, 0, v.seq.pc.toNat)
  else if v.inFlight .dma then some (3, v.dma.busyWith)
  else if v.inFlight .msg then some (4, v.msg.busyWith)
  else match (List.finRange 8).find? fun u => v.steer[u].working with
    | some u => some (5, 16 + u.val, 0)
    | none => if empty then none else some (5, ((List.range 8).find? fun k => !(qGet v.router.queues (32 + k)).isEmpty).getD 0, 0)
/-- The entry save area of a position in the memory of its partition (R206): by its rank in increasing n. [DESIGN CHOICE, log entry 25] -/
def State.saveArea (s : State) (p : PartId) (n : Nat) : Nat := (s.part p).saveBase + 8192 * ((s.nsOfPart p).filter fun i => decide (i < n)).length
/-- The KIND 1 image of a tile's entry buffer (R203, R204, R206): FLAGS[0], and FLAGS[2] for an unclean entry. [DEDUCED, log entry 23; DESIGN CHOICE, log entry 25] -/
def State.entryImage (s : State) (p : PartId) (n : Nat) (t : TileId) (unclean : Bool) : Bytes :=
  withCheck (s.imageHeader p n t 1 (1 + 4 * b2n unclean) ++ (s.tile t).entryBytes)
/-- An entry save area read for a scan-in (R206, R208): with an uncorrectable word in it CHECK fails, and the word is recorded (R351, R376). [DESIGN CHOICE, log entry 46] -/
def State.areaRead (s : State) (p : PartId) (a : Nat) : State × Option Bytes :=
  match s.retiredEcc p a 8192 .clean with
  | .dram dpa sym =>
    (((s.upsetDram dpa.toNat).unitFault (some p) { cls := 1, unit := 4, addr := dpa.toNat, bit := sym.toNat, clears := false }).markRow
      (s.dramLoc dpa.toNat) sym 1, none)
  | _ => (s, some (s.partRead p a 8192))
/-- The checks of a scan-in on what was read (R208). [DESIGN CHOICE, log entry 25] -/
def State.imageRefusal (s : State) (p : PartId) (n : Nat) (t : TileId) (bs : Option Bytes) : Option (Nat × Nat) := match bs with
  | some bs => s.scanRefusal p n t bs
  | none => some (badArg, why 0x10)
/-- The entry save area of a position, usable for the step to be run (R206, R208); `t` is the tile whose program it must name. [DESIGN CHOICE, log entry 25] -/
def State.savedEntry (s : State) (p : PartId) (n : Nat) (t : TileId) : Option Entry := match (s.areaRead p (s.saveArea p n)).2 with
  | some bs => if (s.scanRefusal p n t bs).isNone then some (parseEntry bs) else none
  | none => none
/-- The records of the reads of a partition's entry save areas (R351). -/
def State.areaReads (s : State) (p : PartId) (ns : List Nat) : State := ns.foldl (fun s n => (s.areaRead p (s.saveArea p n)).1) s
/-- The entry copy of a tile at the start of a step number (R205), and its save area (R206). [DEDUCED, log entry 23] -/
def State.entryCopy (s : State) (p : PartId) (t : TileId) : State :=
  let v := s.tile t
  let busy := v.busyAtEntry
  let e := { v.entryOf (s.part p).step busy with busyStill := (busy.map fun b => v.stoodStill b.1).getD 0 }
  let s1 := s.modTile t fun v => { v with entry := some e }
  let s2 := match s.nOf t with
    | some n => if v.ward.twin then s1 else s1.partWrite p (s.saveArea p n) (s.entryImage p n t busy.isSome)
    | none => s1
  match busy with
  | some (c, slot, pc) => s2.tileFault t { cls := 6, eng := c, slot := slot, pc := pc, addr := 5 + 256 * v.stoodStill c }
  | none => s2

/-! Carry regions. -/

/-- The in half of a carry entry for a step (R162): its physical address. -/
def Carry.inAt (c : Carry) (step : Nat) : Nat := c.base.toNat + step % 2 * c.size.toNat
/-- The in halves of a tile loaded from their save areas (R164). [DEDUCED, log entry 23] -/
def State.carryLoad (s : State) (p : PartId) (t : TileId) : State :=
  (s.tile t).carries.foldl (fun s0 c =>
    let s := s0.unitRead p c.save.toNat c.size.toNat
    let bs := s.partRead p c.save.toNat c.size.toNat
    s.modTile t fun v => { v with spad := v.spad.put (c.inAt (s.part p).step.toNat) bs }) s
/-- The out halves of a tile copied to their save areas (R163); a twin writes no DRAM (R348). [DEDUCED, log entry 23] -/
def State.carrySave (s : State) (p : PartId) (t : TileId) : State :=
  if (s.tile t).ward.twin then s
  else (s.tile t).carries.foldl (fun s c =>
    let v := s.tile t
    let a := c.inAt ((s.part p).step.toNat + 1)
    s.partWrite p c.save.toNat ((List.range c.size.toNat).map fun i => v.spad.get (tileKey t) (a + i))) s
/-- Scratchpad at the start of a step slot (R154): the in views stay, every other byte is undefined. [DESIGN CHOICE, log entry 8] -/
def Tile.forgetSpad (v : Tile) (key step : Nat) : Tile :=
  { v with spad := v.spad.forget key (v.carries.flatMap fun c => (List.range c.size.toNat).map fun i => c.inAt step + i) }

/-! The placement map. -/

/-- A placement entry (R23). -/
def mapWord (v sh : Bool) (pcol prow : Nat) : U16 := BitVec.ofNat 16 (b2n v * 2 ^ 15 + b2n sh * 2 ^ 14 + pcol % 16 * 16 + prow % 8)
/-- A map with an entry set; an entry of 0 is not listed. -/
def mapSet (m : List (Nat × U16)) (k : Nat) (e : U16) : List (Nat × U16) := if e = 0 then kdel k m else kput k e m
/-- A physical row of a half-die. -/
def State.row (s : State) (hd r : Nat) : Row := (kget (8 * hd + r) s.rows).getD {}
/-- A row's state set. -/
def State.setRow (s : State) (hd r : Nat) (x : Row) : State := { s with rows := kput (8 * hd + r) x s.rows }
/-- Whether a half-die's partition is paired. -/
def State.pairedHd (s : State) (hd : Nat) : Bool := match s.partOfHd hd with
  | some p => (s.part p).paired
  | none => false
/-- The map index of each position on a physical row. -/
def State.keysOnRow (s : State) (m : List (Nat × U16)) (hd r : Nat) : List Nat :=
  (s.member.nsOf hd).filter fun k => match kget k m with
    | some e => bitAt e.toNat 15 && bitsOf e.toNat 2 0 = r
    | none => false
/-- A row placed without a shift, or shifted at a column (R335). -/
def State.placeRow (s : State) (m : List (Nat × U16)) (hd r : Nat) (shift : Option Nat) : List (Nat × U16) :=
  (s.keysOnRow m hd r).foldl (fun m k =>
    let lc := s.member.lx k % 8
    match shift with
    | some c => mapSet m k (if lc < c then mapWord true false lc r else mapWord true true (lc + 1) r)
    | none => mapSet m k (mapWord true false lc r)) m
/-- The row that carries positions for a physical row: the primary's in a paired half-die (R347). -/
def State.leadRow (s : State) (hd r : Nat) : Nat := if s.pairedHd hd then r - r % 2 else r
/-- The states of a row set, of both rows of a pair (R347). -/
def State.setRows (s : State) (hd r : Nat) (x : Row) : State :=
  if s.pairedHd hd then (s.setRow hd (r - r % 2) x).setRow hd (r - r % 2 + 1) x else s.setRow hd r x
/-- The default placement of a half-die (R22, R347), the shift of each shifted row kept, DEGRADED rows left out in the order of R342: the
logical rows in increasing order on the physical rows that remain. -/
def State.defaultMap (s : State) (m : List (Nat × U16)) (hd : Nat) : List (Nat × U16) :=
  let paired := s.pairedHd hd
  let step := if paired then 2 else 1
  let phys := if s.retired.getLsbD hd then [] else ((List.range 8).filter fun r => r % step = 0 && (s.row hd r).kind ≠ .degraded &&
    (step = 1 || (s.row hd (r + 1)).kind ≠ .degraded))
  let logical := (List.range 8).filter fun r => r % step = 0
  let clear := (s.member.nsOf hd).foldl (fun m k => mapSet m k 0) m
  (logical.zip phys).foldl (fun m (lr, r) =>
    (List.range 8).foldl (fun m lc =>
      let x := s.row hd r
      let sh := (x.kind = .shifted || x.kind = .testing) && x.col ≤ lc
      mapSet m (s.member.nAt hd lc lr) (mapWord true sh (lc + b2n sh) r)) m) clear

/-- The first boundary of the default beat (R50) that pending copies written now reach, in device count (R26, R388). [DEDUCED, log entry 52] -/
def State.defaultDue (s : State) : Nat := (s.now + 1000 + 99999) / 100000 * 100000
/-- Pintle's map for half-dies of no partition, or of a new one: pending in every router, which hold their old entries until the next boundary
of the default beat (R26, R388). [DESIGN CHOICE, log entry 52] -/
def State.replan (s : State) (m : List (Nat × U16)) : State :=
  let changed := (List.range (s.member.gx * s.member.gy)).filter fun k => (kget k m).getD 0 ≠ (kget k s.placement).getD 0
  let still := s.mapOld.filter fun x => decide (s.now < x.2.1)
  { s with
    placement := m
    mapOld := changed.foldl (fun l k => kput k (s.defaultDue, BitVec.ofNat 16 (s.activeEntry k)) l) still }

/-! The switch. -/

/-- The tile that a map gives to an index. -/
def State.tileIn (s : State) (m : List (Nat × U16)) (k : Nat) : Option TileId :=
  s.member.entryTile k ((kget k m).getD 0).toNat
/-- IMEM loaded with the code of a position from the program set (R209, R337 stage 4, R440). -/
def Tile.loadCode (v : Tile) (code : Option Bytes) : Tile := match code with
  | some bs => { v with imem := v.imem.put 0 bs }
  | none => v
/-- The code of a position in the program set in force. -/
def Part.codeOf (q : Part) (n : Nat) : Option Bytes := q.program.bind fun g => kget n g.images
/-- A tile that receives a position (R337, stages 4 and 5): the program of the position, its diagnostic mark cleared before it (R144), and the entry
save area scanned in when it is of the current step and valid (R206, R208). -/
def Tile.receive (u o : Tile) (e : Option Entry) (code : Option Bytes) : Tile :=
  let u1 := { u.loadCode code with
    program := o.program, capHeadroom := o.capHeadroom, issued := o.issued, frozen := o.frozen, carries := o.carries, unclean := none
    ward := { u.ward with twin := o.ward.twin, tfence := u.ward.tfence, diag := false } }
  match e with
  | some e => u1.reload e
  | none => { u1 with
      seq := o.seq, mxe := o.mxe, vxe := o.vxe, dma := o.dma, msg := o.msg, rings := o.rings, windows := o.windows
      sport := o.sport, steer := o.steer, entry := o.entry }
/-- A tile that has lost its position: gated, its queues discarded (R20); its router forwards, and it is no twin (R326, R347). -/
def Tile.vacate (v : Tile) : Tile :=
  { v.zeroDynamic with
    router := v.router, frozen := true, seq := {}, entry := none, program := [], unclean := none, ward := { v.ward with twin := false } }
/-- Every tile endpoint of a partition arms its GEN check (R226). -/
def State.armGen (s : State) (p : PartId) : State := s.forTiles (s.holders p) fun s t => s.modTile t fun v => { v with genArmed := true }
/-- The stream plane of a partition is emptied in every router of it (R201). -/
def State.clearStreams (s : State) (p : PartId) : State := s.forTiles (s.routersOf p) fun s t => s.modTile t Tile.streamClear
/-- At a quiescence point engines, stream port and message unit drop their work (R367). -/
def Tile.quiesce (v : Tile) : Tile := v.zeroDynamic.discard
/-- The indices of a partition's positions. -/
def State.keysOf (s : State) (p : PartId) : List Nat := (s.part p).hdList.flatMap s.member.nsOf
/-- Some of a partition's positions change tile under a map: the index, the tile that holds it, the tile that receives it. -/
def State.movesTo (s : State) (p : PartId) (m : List (Nat × U16)) : List (Nat × TileId × TileId) :=
  (s.keysOf p).filterMap fun k => match s.tileOfKey k, s.tileIn m k with
    | some o, some u => if o = u then none else some (k, o, u)
    | _, _ => none
/-- A tile with its twin, in a paired partition (R347). -/
def State.pairOf (s : State) (p : PartId) (t : TileId) : List TileId := if (s.part p).paired then [t, twinOf t] else [t]
/-- The logical number that an index has in a partition. -/
def State.nOfKey (s : State) (p : PartId) (k : Nat) : Nat := if (s.part p).paired then s.member.pairN k else k
/-- Pintle writes the pending copy of the map in every router, for the positions of a partition, and the pending slot tables of its routers
(R26, R201, R337 stage 4). -/
def State.writePend (s : State) (p : PartId) (m : List (Nat × U16)) : State :=
  let ks := s.keysOf p
  let s1 : State := { s with mapPend := ks.foldl (fun x k => kput k ((kget k m).getD 0) x) s.mapPend }
  let s2 := s1.forTiles ((s1.tiles.filter fun x => x.2.mapNext ≠ []).map fun x => keyTile x.1) fun s t =>
    s.modTile t fun v => { v with mapNext := v.mapNext.filter fun x => !ks.contains x.1 }
  s2.pendTables p m
/-- The program of each position that moves, loaded into IMEM of the tile that receives it (R337, stage 4). -/
def State.loadMoved (s : State) (p : PartId) (m : List (Nat × U16)) : State :=
  (s.movesTo p m).foldl (fun s x => (s.pairOf p x.2.2).foldl (fun s u => s.modTile u fun v =>
    v.loadCode ((s.part p).codeOf (s.nOfKey p x.1))) s) s
/-- The map that a switch of a partition's positions leaves in every router: what the pending copies hold for them (R26). -/
def State.pendMap (s : State) (p : PartId) : List (Nat × U16) :=
  (s.keysOf p).foldl (fun m k => match kget k s.mapPend with
    | some e => mapSet m k e
    | none => m) s.placement
/-- Every router switches its active copy for the positions of a partition (R25, R26): to the copy that Pintle wrote, or to an entry that a
management write has put in the router's own pending copy since. -/
def State.switchCopies (s : State) (p : PartId) : State :=
  let ks := s.keysOf p
  let m := s.pendMap p
  let s1 : State := { s with
    placement := m, mapPend := s.mapPend.filter fun x => !ks.contains x.1, mapOld := s.mapOld.filter fun x => !ks.contains x.1 }
  s1.forTiles ((s1.tiles.filter fun x => x.2.mapNext ≠ [] || x.2.mapOwn ≠ []).map fun x => keyTile x.1) fun s t => s.modTile t fun v =>
    let own := v.mapNext.filter fun x => ks.contains x.1
    { v with mapNext := v.mapNext.filter fun x => !ks.contains x.1, mapOwn := v.mapOwn.filter (fun x => !ks.contains x.1) ++ own }
/-- The active maps switch to the pending copies in the half-dies of a partition (R26): every position whose tile changes moves, twins with their
primaries; the stream plane is emptied in every router (R201), engines, stream ports and message units drop their work (R367), and every tile
arms its GEN check (R226). -/
def State.switchMap (s : State) (p : PartId) : State :=
  let m := s.pendMap p
  let moved := s.movesTo p m
  let gone := (s.keysOf p).filterMap fun k => match s.tileOfKey k, s.tileIn m k with
    | some o, none => some o
    | some o, some u => if o = u then none else some o
    | none, _ => none
  let s1 := (s.switchCopies p).clearStreams p
  let s2 := s1.forTiles (s.holders p) fun s t => s.modTile t Tile.quiesce
  let vacated := (gone.flatMap (s.pairOf p)).foldl (fun s' t => s'.modTile t Tile.vacate) s2
  let placed := moved.foldl (fun s' (k, o, u) =>
    ((s.pairOf p o).zip (s.pairOf p u)).foldl (fun s' (o', u') =>
      (s'.modTile u' fun v => v.receive (s.tile o').quiesce (s.savedEntry p (s.nOfKey p k) o) ((s.part p).codeOf (s.nOfKey p k))).carryLoad p u') s')
    (vacated.areaReads p (moved.map fun x => s.nOfKey p x.1))
  (placed.putTables p).armGen p

end Sys2Proof.Machine
end

