-- ==== Sys2Proof/Machine/Changes.lean ====
section
/-!
DEFINITION. Staged changes (R428 to R431, R435, R443): what each command changes when it applies in the boundary slot of its beat, the units that
vote on it, votes and the vote deadline.
-/

namespace Sys2Proof.Machine

/-- A field of a request body (R433). -/
def rf (r : Req) (off k : Nat) : Nat := fieldAt r.body off k
/-- The half-dies of a mask. -/
def maskBits (n m : Nat) : List Nat := (List.range n).filter fun i => bitAt m i

/-! Units that vote. -/

/-- The stacks a region's bytes lie in (R165, R171). -/
def State.regionStacks (s : State) (r : Nat) : List Nat :=
  let d := r / 64
  if s.fourMode d then (List.range 4).map (4 * d + ·) else (List.range 2).map fun i => 4 * d + 2 * (r / 32 % 2) + i
/-- A stack as a voting unit. -/
def stackUnit (i : Nat) : UnitName := .memory ⟨i % 32, Nat.mod_lt _ (by decide)⟩
/-- A half-die as a voting unit. -/
def hdUnit (i : Nat) : UnitName := .halfDie ⟨i % 16, Nat.mod_lt _ (by decide)⟩
/-- The units a change touches (R429). -/
def State.changeUnits (s : State) (p : PartId) (c : Change) : List UnitName :=
  let r := c.req
  match c.opcode.toNat with
  | 0x0301 => ((List.range (rf r 2 2)).flatMap fun i => (s.regionStacks (rf r 4 4 + i)).map stackUnit).eraseDups
  | 0x0302 => (s.tilesOfPart p).map UnitName.bank
  | 0x0305 => [.ioDie false, .ioDie true]
  | 0x0703 => [.ioDie false, .ioDie true]
  | 0x0707 => [.port ⟨rf r 0 1 % 16, Nat.mod_lt _ (by decide)⟩]
  | 0x0708 => [.port ⟨rf r 0 1 % 16, Nat.mod_lt _ (by decide)⟩]
  | 0x0901 =>
    let hds := maskBits 16 (rf r 2 2)
    hds.map hdUnit ++ if rf r 1 1 = 2 then [] else
      (s.member.seamIds.filter fun id => hds.any fun hd => (s.member.seamHds id).contains hd).map fun id => .seam (BitVec.ofNat 16 id)
  | _ => [.partitionUnit]

/-! Jobs. -/

/-- The load state of a tile (R205, JOB_START): pc 0, registers zero, queues empty, rings empty; windows stand as they are, and are no longer closed
to new arrivals (R176). -/
def Tile.loadState (v : Tile) : Tile :=
  ({ v.zeroDynamic with
    seq := { run := .running }, mxe := {}, vxe := {}, dma := {}, msg := {}, windows := v.windows.map fun w => { w with shut := false }
    rings := v.rings.map Ring.restart, issued := false, frozen := false, overrun := false, deadlineFault := false, bwaited := false
    stamp := none, bsyncGo := false, unclean := none, entry := none } : Tile).restartStill
/-- The channels of a binding opened (R442): the tile's ends, and beside the outbound one the end of the I/O die. -/
def State.bindOpen (s : State) (n : Nat) : State :=
  match kget n s.bindings with
  | none => s
  | some b =>
    let lg := BitVec.ofNat 8 (b.f 32 1)
    let port := 0xFF00 + b.port.val
    let s1 := s.modChan b.inChan fun e => { e.zeroed with
      role := 2, state := chOpen, flags := 3, ringLog2 := lg, owner := BitVec.ofNat 16 (b.f 12 2), peer := 0, closedBit := false
      peerChan := BitVec.ofNat 32 b.inChan, ringBase := BitVec.ofNat 64 (b.f 16 8), statusAddr := BitVec.ofNat 32 (b.f 60 4) }
    let s2 := s1.modChan (2 ^ 20 + b.outChan) fun e => { e.zeroed with
      role := 2, state := chOpen, flags := 3, ringLog2 := lg, owner := BitVec.ofNat 16 port, peer := 0
      peerChan := BitVec.ofNat 32 b.outChan, ringBase := BitVec.ofNat 64 (b.f 24 8) }
    let s3 := s2.modChan b.outChan fun e => { e.zeroed with
      role := 1, state := chOpen, flags := 3, ringLog2 := lg, owner := BitVec.ofNat 16 (b.f 14 2), peer := 0, closedBit := false, last := 0
      epoch := (s2.chan (2 ^ 20 + b.outChan)).epoch, peerChan := BitVec.ofNat 32 b.outChan, statusAddr := BitVec.ofNat 32 (b.f 64 4) }
    s3.modBinding n fun b => { b with isOpen := true, waiting := [], sent := 0 }
/-- The job of a partition begins at beat B with a step number (JOB_START): the manifest's beat, the load state, the in halves (R164). -/
def State.jobBegin (s : State) (p : PartId) (step B : Nat) : State :=
  match (s.part p).manifest with
  | none => s
  | some m =>
    let s1 := s.modPart p fun q => { q with
      job := .running, freeze := none, pUs := m.pUs, s := m.s, t0 := m.t0, beat := B, step := BitVec.ofNat 48 step, attempt := 1
      latch := {}, repeatSlot := none, inserted := false, escalating := false, draining := false, abandoning := false, released := true
      holdNamed := false, mapRefused := q.mapRefused.map fun _ => B, syncHold := false, syncErrPs := 0, syncGood := true
      unclean := none, faults := 0, duty := 0, dutyHeld := false, repairs := [], placing := false, pairMiss := [], servoAt := s.now }
    let s2 := (s1.clearStreams p).forTiles (s1.holders p) fun s t =>
      (s.modTile t fun v => (v.loadState).forgetSpad (tileKey t) step).carryLoad p t
    (s2.bindings.filter fun b => b.2.part = p && !b.2.ended).foldl (fun s b => s.bindOpen b.1) s2
/-- A drained or abandoned job goes on at beat B (JOB_RESUME, R209): programs and circuit list reloaded, the entry save areas scanned in, the in
halves loaded. -/
def State.jobResume (s : State) (p : PartId) (B : Nat) : State :=
  let s1 := s.modPart p fun q => { q with
    freeze := none, beat := B, attempt := q.resumeAttempt, latch := {}, repeatSlot := none, inserted := false, escalating := false
    holdNamed := false, draining := false, abandoning := false, unclean := none, faults := 0, duty := 0, dutyHeld := false }
  let s2 := ((s1.clearStreams p).areaReads p (s1.nsOfPart p)).forTiles (s1.holders p) fun s t =>
    let e := (s.nOf t).bind fun n => s.savedEntry p n t
    (s.modTile t fun v =>
      let v0 := v.loadCode ((s.nOf t).bind (s.part p).codeOf)
      let v1 := match e with
        | some e => v0.reload e
        | none => v0
      { (v1.forgetSpad (tileKey t) (s.part p).step.toNat).restartStill with
        frozen := false, unclean := none, genArmed := true
        windows := v1.windows.map fun w => { w with shut := false }
        rings := v1.rings.map Ring.restart }).carryLoad p t
  (s2.loadTables p).armGen p

/-! Manifests (R254, R309, R310). -/

/-- The section of a type in a manifest: offset and length. -/
def manifestSection (bs : Bytes) (type : Nat) : Option (Nat × Nat) :=
  (((List.range (fieldAt bs 2 2)).map fun i => 64 + 16 * i).find? fun o => fieldAt bs o 2 = type).map fun o =>
    (fieldAt bs (o + 4) 4, fieldAt bs (o + 8) 4)
/-- The fields of a manifest as the part uses them; its checks are MANIFEST_LOAD's. -/
def parseManifest (bs : Bytes) (coord : U16) : Manifest :=
  let torus := fieldAt bs 30 2
  let nx := bitsOf torus 13 9 + 1
  let ny := bitsOf torus 8 4 + 1
  let nz := bitsOf torus 3 0 + 1
  let st := ((manifestSection bs 1).map (·.1)).getD 0
  let mem := manifestSection bs 3
  { bytes := bs, digest := sha512 bs, job := BitVec.ofNat 64 (fieldAt bs 8 8), seed := BitVec.ofNat 64 (fieldAt bs 16 8)
    formats := BitVec.ofNat 16 (fieldAt bs 42 2), eth := bitAt (fieldAt bs 44 4) 0, root := BitVec.ofNat 32 (fieldAt bs 40 2)
    nx := nx, ny := ny, nz := nz, coord := coord, pUs := fieldAt bs 24 4, s := fieldAt bs 28 2, t0 := signedOf 64 (fieldAt bs 32 8)
    k := fieldAt bs st 2, ringDims := byteAt bs (st + 2), latchDue := fieldAt bs (st + 4) 4, breakNs := fieldAt bs (st + 8) 4
    linkLat := fieldAt bs (st + 12) 4, bucketMib := fieldAt bs (st + 16) 2
    ranges := (List.range (fieldAt bs (st + 18) 2)).map fun i => (fieldAt bs (st + 32 + 16 * i) 8, fieldAt bs (st + 40 + 16 * i) 8)
    members := match mem with
      | some (o, _) => (List.range (nx * ny * nz)).filterMap fun i =>
          let e := fieldAt bs (o + 4 * i) 4
          if bitAt e 31 then
            some (BitVec.ofNat 32 (e % 2 ^ 18), BitVec.ofNat 16 (i % nx * 512 + i / nx % ny * 16 + i / (nx * ny)))
          else none
      | none => [] }

/-! Changes. -/

/-- A region takes a state (R171): contents lost in OFF, zeroed on the way out of it. [DEDUCED, log entry 47] -/
def State.setRegion (s : State) (r code : Nat) : State :=
  let old := s.region r
  let new : RegionState := match code with
    | 0 => if old = .off || old = .zeroing then .zeroing else .on
    | 1 => .selfRefresh
    | _ => .off
  let s1 := { s with regions := if new = .on then kdel r s.regions else kput r new s.regions }
  if new = .off then { s1 with dram := s1.dram.filter fun c => c.1 / 2 ^ 33 ≠ r } else s1
/-- A tile's banks change power (R180, R182). -/
def Tile.bankPower (v : Tile) (off on : Nat) (at_ : Int) : Tile :=
  { v with banks := Vector.ofFn fun i =>
      let x := v.banks[i]
      if bitAt off i.val then (match x with
        | .off => .off
        | .draining t => .draining t
        | _ => .draining at_)
      else if bitAt on i.val then (match x with
        | .on => .on
        | _ => .clearing)
      else x }
/-- Entries of the flat-identifier tables, both copies (R34). -/
def State.flatSet (s : State) (r : Req) : State :=
  (List.range (rf r 2 2)).foldl (fun s i =>
    let k := rf r (8 + 8 * i) 4
    let e : U32 := BitVec.ofNat 32 (rf r (12 + 8 * i) 4)
    let put := fun (m : List (Nat × U32)) => if e = 0 then kdel k m else kput k e m
    { s with flatW := put s.flatW, flatE := put s.flatE }) s
/-- A descriptor list set or removed (R425). -/
def Part.dlistSet (q : Part) (r : Req) : Part :=
  let i : Fin 8 := ⟨rf r 1 1 % 8, Nat.mod_lt _ (by decide)⟩
  { q with dlists := q.dlists.set i (if rf r 2 1 = 0 then none else some { base := BitVec.ofNat 64 (rf r 8 8), log2 := rf r 2 1 }) }
/-- Shadow mode set (R279, R280): a shadow takes R's coordinate. -/
def Part.shadowSet (q : Part) (r : Req) : Part :=
  { q with
    shadow := some {
      role := BitVec.ofNat 8 (rf r 1 1), port := ⟨rf r 2 1 % 16, Nat.mod_lt _ (by decide)⟩, target := rf r 4 4
      step := BitVec.ofNat 48 (rf r 8 8), coord := BitVec.ofNat 16 (rf r 16 2) }
    manifest := if rf r 1 1 = 2 then q.manifest.map fun m => { m with coord := BitVec.ofNat 16 (rf r 16 2) } else q.manifest }
/-- The exit table (R231). -/
def Part.exitSet (q : Part) (r : Req) : Part :=
  { q with exits := Vector.ofFn fun d =>
      let e := rf r (2 + d.val) 1
      if bitAt e 7 then some ⟨e % 16, Nat.mod_lt _ (by decide)⟩ else none }
/-- The updated members of an Ethernet job (R323), and the digest its links are admitted against. -/
def State.newMembers (s : State) (p : PartId) (r : Req) : State :=
  let new := parseManifest (s.partRead p (rf r 16 8) (((s.part p).manifest.map fun m => m.bytes.length).getD 0)) 0
  let k := ((s.part p).manifest.map fun m => m.bytes.length).getD 0
  let s1 := (s.pintleRead p (rf r 16 8) k).modPart p fun q => { q with manifest := q.manifest.map fun m =>
    { m with bytes := new.bytes, digest := new.digest, members := new.members } }
  (s1.jobLinks p).foldl (fun s x => s.modLink x.1 x.2 fun l => { l with under := new.digest }) s1
/-- Every neighbour of R turns its exits to the standby port (R323). -/
def State.turnExits (s : State) (p : PartId) : State :=
  let standby := (List.finRange 16).filter fun i => (s.port i).part = some p && (s.port i).native.standby
  standby.foldl (fun s i =>
    let coord := ((s.port i).native.partner.map (·.coord)).getD 0
    let turn := fun (e : PortId) => if ((s.port e).native.partner.map (·.coord)) = some coord then i else e
    let s1 := s.modPart p fun q => { q with exits := q.exits.map fun x => x.map turn }
    s1.modLink i none fun l => { l with standby := false }) s
/-- The tiles of a partition that freezes drop their work and close their windows to new arrivals. -/
def State.stopTiles (s : State) (p : PartId) : State :=
  s.forTiles (s.holders p) fun s t => s.modTile t fun v => { v.zeroDynamic with
    windows := v.windows.map (fun w => { w with shut := true }), bsyncGo := false }
/-- Promotion (R282, R323): S becomes the member, R freezes and leaves the job, every neighbour turns to its standby port, or in an Ethernet
mode takes the updated members. [DEDUCED, log entry 35] -/
def State.promoteApply (s : State) (p : PartId) (r : Req) : State :=
  let s1 := if rf r 16 8 ≠ 0 then s.newMembers p r else s
  match (s.part p).shadow with
  | some h =>
    if h.role = 2 then s1.modPart p fun q => { q with shadow := none }
    else (s1.stopTiles p).modPart p fun q => { q with shadow := none, freeze := some .promoted }
  | none => if rf r 16 8 ≠ 0 then s1 else s1.turnExits p
/-- SHADOW_STOP (R281): the reference stops mirroring, the shadow freezes as diverged. -/
def State.shadowStop (s : State) (p : PartId) : State :=
  match (s.part p).shadow with
  | some h =>
    if h.role = 2 then (s.stopTiles p).modPart p fun q => { q with shadow := some { h with state := 3 }, freeze := some .diverged }
    else s.modPart p fun q => { q with shadow := none }
  | none => s
/-- A link removed (R322): it leaves ADMITTED, refuses both ways and counts what it refuses, until it is admitted again. -/
def State.removeLink (s : State) (port : PortId) (x : Session) : State :=
  (s.modLink port x fun l => { l with
    state := if l.state = .down then .down else .up, adm := none, standby := false, removed := true }).flushEgress port x
/-- The session that a request's SESSION byte names: 0xFF the native port. -/
def sessByte (v : Nat) : Session := if h : v < 64 then some ⟨v, h⟩ else none
/-- The seams that border a half-die accept nothing for the 40 cycles of their re-alignment (R63). [DEDUCED, log entry 70] -/
def State.realign (s : State) (hd : Nat) : State :=
  (s.member.seamIds.filter fun id => (s.member.seamHds id).contains hd).foldl (fun s id =>
    s.modSeam id fun x => { x with pausedTill := s.now + 40 }) s
/-- Half-dies take a power state (R446, R447, R63): leaving IDLE takes time, during which nothing issues; a new clock re-aligns the seams. -/
def State.hdPower (s : State) (code mask : Nat) : State :=
  (maskBits 16 mask).foldl (fun s i =>
    if h : i < 16 then
      let s := if code ≤ 1 && s.power.hd[i] ≠ code then s.realign i else s
      let old := s.power.hd[i]
      let bit : BitVec 16 := BitVec.ofNat 16 (2 ^ i)
      let w := s.power.waking
      let waking := if old = 2 && code ≠ 2 then w ||| bit else if code = 2 then w &&& ~~~ bit else w
      { s with power := { s.power with hd := s.power.hd.set i code, waking := waking } }
    else s) s
/-- Clients of a binding (SVC_CLIENTS). -/
def State.svcClients (s : State) (r : Req) : State :=
  (List.range (rf r 4 2)).foldl (fun s i =>
    let o := 8 + 24 * i
    let fl := rf r (o + 2) 1
    let c : Client := { ipv6 := bitAt fl 0, rate := BitVec.ofNat 32 (rf r (o + 4) 4), addr := (r.body.drop (o + 8)).take 16 }
    let k := rf r o 2
    s.modBinding (rf r 2 2) fun b => { b with clients := if bitAt fl 1 then kdel k b.clients else kput k c b.clients }) s
/-- A binding ended (SVC_UNBIND, R248): both channels close; the binding stays known, so that clients are refused with reason 1. [DEDUCED, log entry 78] -/
def State.svcEnd (s : State) (n : Nat) : State :=
  match kget n s.bindings with
  | some b =>
    ((((s.modChan b.inChan Chan.ended).modChan b.outChan fun e => { e with state := chFree }).modChan (2 ^ 20 + b.outChan)
      Chan.ended).modBinding n fun b => { b with isOpen := false, ended := true, clients := [], waiting := [] })
  | none => s
/-- A change applied in the boundary slot that begins at T(B) (R52, step 3); INSERT and the rest act at the boundary itself. -/
def State.applyChange (p : PartId) (B : Nat) (s : State) (c : Change) : State :=
  let r := c.req
  match c.opcode.toNat with
  | 0x0204 => s.modPart p fun q => { q with
      hangW := if rf r 1 1 = 0 then q.hangW else rf r 1 1
      rate := if rf r 2 1 = 0 then q.rate else rf r 2 1
      replyUs := if rf r 4 4 = 0 then q.replyUs else rf r 4 4 }
  | 0x0301 => (List.range (rf r 2 2)).foldl (fun s i => s.setRegion (rf r 4 4 + i) (rf r 1 1)) s
  | 0x0302 => s.forTiles (s.tilesOfPart p) fun s t => s.modTile t fun v => v.bankPower (rf r 4 4) (rf r 8 4) ((s.part p).t B + 8)
  | 0x0305 => s.flatSet r
  | 0x0403 => s.jobBegin p (rf r 8 6) B
  | 0x0406 => s.jobResume p B
  | 0x0407 => s.modPart p fun q => q.dlistSet r
  | 0x0602 => s.modPart p fun q => q.shadowSet r
  | 0x0603 => s.shadowStop p
  | 0x0605 => s.promoteApply p r
  | 0x0703 => s.modPart p fun q => q.exitSet r
  | 0x0707 => s.removeLink ⟨rf r 0 1 % 16, Nat.mod_lt _ (by decide)⟩ (sessByte (rf r 1 1))
  | 0x0708 => s.modLink ⟨rf r 0 1 % 16, Nat.mod_lt _ (by decide)⟩ (sessByte (rf r 1 1)) fun l => { l with
      caps := (List.range 8).map fun i => BitVec.ofNat 32 (rf r (4 + 4 * i) 4) }
  | 0x0901 => s.hdPower (rf r 1 1) (rf r 2 2)
  | 0x0902 => s.modPart p fun q => { q with capW := rf r 4 4, capSet := true }
  | 0x0C02 => s.svcEnd (rf r 2 2)
  | 0x0C03 => s.svcClients r
  | _ => s

end Sys2Proof.Machine
end

