-- ==== Sys2Proof/Machine/Beat.lean ====
section
/-!
DEFINITION. The deadline evaluation of a beat (R52, R56, R160, R200, R348, R363, R364), votes on staged changes (R429), the time base (R42, R44),
seams (R61), and the DRAM controllers' own work (R168, R170, R171).
-/

namespace Sys2Proof.Machine

/-! The deadline evaluation. -/

/-- A beat in which a queue is empty, or no context is active, is progress (R102, R148, R190, R252, R363). -/
def Tile.idleProgress (v : Tile) (beatInStep : Nat) : Tile :=
  let up := fun (q : EngQ) (c : U32) => if q.slots = [] then c + 1 else c
  let p := v.progress
  let quiet := v.sport.toList.all fun c => !c.active beatInStep
  { v with progress := { p with
      mxe := up v.mxe p.mxe, vxe := up v.vxe p.vxe, dma := up v.dma p.dma, msg := up v.msg p.msg
      sport := if quiet then p.sport + 1 else p.sport } }
/-- An input queue of a steering unit is full (R184, R192). -/
def Tile.steerFull (v : Tile) (c : Byte) : Bool := (if 5 ≤ (steerIn c).1 then 4 else 16) ≤ (v.steerQueue c).length
/-- The inputs a steering unit waits on: its token, or the data its token governs (R193). -/
def Steer.waitsOn (x : Steer) : List Byte :=
  match x.held, x.kind.toNat with
  | none, _ => [x.tok]
  | some (sel, _), 1 => [if sel then x.in1 else x.in0]
  | some _, 3 => [x.in0, x.in1]
  | some _, _ => [x.in0]
/-- The inputs of a steering unit. -/
def Steer.inputs (x : Steer) : List Byte := if x.kind = 1 || x.kind = 3 then [x.in0, x.in1, x.tok] else [x.in0, x.tok]
/-- A join: one input full while the unit waits on another that is empty (R200, case 1). -/
def Tile.steerJoin (v : Tile) (x : Steer) : Bool :=
  x.kind ≠ 0 && x.waitsOn.any fun w => (v.steerQueue w).isEmpty && x.inputs.any fun i => i ≠ w && v.steerFull i
/-- A steering unit that holds a token or a flit (R200). -/
def Tile.steerBusy (v : Tile) (x : Steer) : Bool :=
  x.kind ≠ 0 && (x.held.isSome || !x.qa.isEmpty || !x.qb.isEmpty || x.inputs.any fun i => !(v.steerQueue i).isEmpty)
/-- The record a tile's stream plane calls for at a beat deadline: the first case of R200 that applies. Where several units or contexts qualify
for a case, the lowest number is named. [DESIGN CHOICE, log entry 26] -/
def Tile.streamCheck (v : Tile) (beatInStep : Nat) : Option FaultArgs :=
  let beats := 256 * v.stoodStill 5
  let units := (List.finRange 8).map fun u => (u, v.steer[u])
  let ctxs := (List.finRange 16).filterMap fun k =>
    let c := v.sport[k]
    if c.active beatInStep && !c.complete then some (k, c) else none
  match units.find? fun x => v.steerJoin x.2 && v.steerBusy x.2 with
  | some (u, _) => some { cls := 6, eng := 5, slot := 16 + u.val, addr := 2 + beats }
  | none => match units.find? fun x => v.steerBusy x.2 with
    | some (u, _) => some { cls := 6, eng := 5, slot := 16 + u.val, addr := 3 + beats }
    | none => match ctxs.find? fun x => x.2.stalled with
      | some (k, c) =>
        let r := v.rings[c.ring]
        some { cls := if k.val < 8 then 7 else 8, eng := 5, slot := k.val
               addr := c.ring.val * 2 ^ 24 + (r.wordAt c.slotIdx 0) % 2 ^ 22 }
      | none => ctxs.head?.map fun x => { cls := 6, eng := 5, slot := x.1.val, addr := 4 + beats }
/-- Scheduled descriptors stalled at a ring when the beat ends (R160). -/
def Tile.boundStalls (v : Tile) : List (Eng × Slot × Stall) :=
  [Eng.mxe, Eng.vxe, Eng.dma, Eng.msg].flatMap fun e => (v.q e).slots.filterMap fun x =>
    match x.stall with
    | some st => if x.binding = .bound then some (e, x, st) else none
    | none => none
/-- FC_BEAT_OVERRUN (R56): nothing further is scheduled in the slot. [DEDUCED, log entry 43] -/
def State.overran (s : State) (t : TileId) (late : Nat) : State :=
  (s.tileFault t { cls := 5, eng := 0, pc := (s.tile t).seq.pc.toNat, addr := late }).modTile t fun v =>
    { v.dropBound with overrun := true, deadlineFault := true }
/-- The tile part of the deadline evaluation: R200 first, then R160, then R56; one record for the beat, all of the effects. A tile that has
overrun in the step slot has no further scheduled work, and is still checked by R200. -/
def State.tileDeadline (p : PartId) (s : State) (t : TileId) : State :=
  let q := s.part p
  let s0 := s.modTile t fun v => v.idleProgress q.beatInStep
  let v := s0.tile t
  if !s0.tileLive t || !q.mayIssue then s0
  else
    let s1 := match v.streamCheck q.beatInStep with
      | some a => (s0.tileFault t a).modTile t fun v => { v with deadlineFault := true }
      | none => s0
    let recorded := (v.streamCheck q.beatInStep).isSome
    if v.overrun then s1
    else
      let s2 := v.boundStalls.foldl (fun s (e, x, st) =>
        let log := (s.abandon t e x st)
        if recorded then (log.modTile t fun v => { v with ward := (s.tile t).ward }).modPart p fun q => { q with faults := (s.part p).faults } else log) s1
      let w := s2.tile t
      let late : Option Nat := if !w.bwaited then some 0xFFFFFFFF else match w.stamp with
        | some x => if q.t (q.beat + 1) < x then some (x - q.t (q.beat + 1)).toNat else none
        | none => some 0xFFFFFFFF
      match late with
      | none => s2
      | some d =>
        if recorded || w.overrun then s2.modTile t fun v => { v.dropBound with overrun := true, deadlineFault := true }
        else s2.overran t d
/-- A beat counts toward the hang window of a tile (R364): its partition issues and its clean bit was set at T(b). [DEDUCED, log entry 43] -/
def State.beatCounts (s : State) (p : PartId) (t : TileId) : Bool :=
  (s.part p).mayIssue && match (s.tile t).unclean with
    | none => true
    | some u => (s.part p).t (s.part p).beat < u.at_
/-- The counters by endpoint code. -/
def Progress.list (p : Progress) : List U32 := [p.seq, p.mxe, p.vxe, p.dma, p.msg, p.sport]
/-- The beats each engine has stood still, after a beat (R364). [DEDUCED, log entry 43] -/
def Tile.countStill (v : Tile) (counts : Bool) : Tile :=
  { v with still := (v.progress.list.zip v.still).map fun x =>
      if x.1 ≠ x.2.1 then (x.1, 0) else (x.1, if counts then x.2.2 + 1 else x.2.2) }
/-- The digest of a tile's beat (R348): the sum modulo 2^64 of its streams' CRCs. -/
def pairSum (a : List (Nat × U64)) : U64 := a.foldl (fun x y => x + y.2) 0
/-- The first stream in which a pair differs, when their digests differ (R348). -/
def pairDiffers (a b : List (Nat × U64)) : Option Nat :=
  if pairSum a = pairSum b then none
  else ((List.range 8) ++ [17, 18, 19, 20]).find? fun k => (kget k a).getD 0 ≠ (kget k b).getD 0
/-- The pair's digests exchanged (R348): a difference is the primary's fault record; the mismatch is remembered for R349. [DEDUCED, log entry 29] -/
def State.pairCheck (p : PartId) (s : State) (t : TileId) : State :=
  let u := twinOf t
  let s1 := match pairDiffers (s.tile t).pairDigest (s.tile u).pairDigest with
    | some k =>
      let q := s.part p
      (s.tileFault t { cls := 3, addr := k }).modPart p fun q' => { q' with pairMiss := q'.pairMiss ++ [(tileKey t, q.step, q.attempt)] }
    | none => s
  let bad := (pairDiffers (s.tile t).pairDigest (s.tile u).pairDigest).isSome
  (s1.modTile t fun v => { v with pairDigest := [], deadlineFault := v.deadlineFault || bad }).modTile u fun v => { v with pairDigest := [] }
/-- The primaries of a paired partition. -/
def State.primaries (s : State) (p : PartId) : List TileId := (s.nsOfPart p).filterMap (s.tileOfN p)
/-- BEAT_DEADLINE: deadlines at or before T(b + 1) are evaluated, once for each beat (R52, step 1). -/
def State.deadline (s : State) (p : PartId) : State :=
  let q := s.part p
  let s0 := s.reachJob p (q.t (q.beat + 1))
  let hs := s0.holders p
  let s1 := s0.forTiles hs (State.tileDeadline p)
  let s2 := if q.paired && q.live then s1.forTiles (s1.primaries p) (State.pairCheck p) else s1
  let s3 := s2.forTiles hs fun s t => s.modTile t fun v => v.countStill (s0.beatCounts p t)
  s3.modPart p fun q => { q with judged := true }
/-- BEAT_DEADLINE (R56). [DESIGN CHOICE, log entry 4; DEDUCED, log entry 83] -/
def execBeatDeadline (p : PartId) (s : State) : Host.Outcome State Fault Refusal :=
  .next (if (s.part p).present && !(s.part p).judged then s.deadline p else s)

/-! Votes. -/

/-- The instant T(B) that an apply names: for JOB_START in the beats of the job (R49, JOB_START). -/
def Part.applyAt (q : Part) (a : Apply) : Int :=
  match (if a.changes.any (fun c => c.opcode = 0x0403) then q.manifest else none) with
  | some m => m.t0 + (a.beat * m.pUs * 1000 : Nat)
  | none => q.t a.beat
/-- The applies of a partition that await their beat: that of the pending set, then those sent without STAGE. -/
def Part.applies (q : Part) : List Apply := q.apply.toList ++ q.direct
/-- The first apply that a condition picks out, changed. -/
def Part.modApply (q : Part) (which : Apply → Bool) (f : Apply → Apply) : Part :=
  match q.apply with
  | some a => if which a then { q with apply := some (f a) } else { q with direct := go q.direct }
  | none => { q with direct := go q.direct }
where
  /-- The list with its first match changed. -/
  go : List Apply → List Apply
    | [] => []
    | a :: as => if which a then f a :: as else a :: go as
/-- Every unit has voted ready. -/
def Apply.allVoted (a : Apply) : Bool := a.refused.isNone && a.units.all a.votes.contains
/-- An answer to an apply, unless its requester's port was reset (R432). [DEDUCED, log entry 49] -/
def State.answerApply (s : State) (a : Apply) (status : Nat) : State := if a.quiet then s else s.respond a.req status 0 []
/-- The seam verification behind a vote (R63): at least 0.5 ns of margin. -/
def State.seamVerify (s : State) (p : PartId) (u : UnitName) (marginPs : U16) : State × Bool :=
  match u with
  | .seam id =>
    let s1 := s.modSeam id.toNat fun x => { x with marginPs := marginPs }
    if 500 ≤ marginPs.toNat then (s1, true)
    else ((s1.modSeam id.toNat fun x => { x with verifyFailed := true }).unitFault (some p) {
      cls := 0x11, unit := 1, addr := id.toNat, bit := marginPs.toNat, clears := false }, false)
  | _ => (s, true)
/-- The beats at which switches of a partition's placement map are prepared (R26, R337, R341, R346). -/
def Part.switchBeats (q : Part) : List Nat :=
  ((q.repairs.filter fun r => r.fenced && !r.switched).map (·.switchBeat)) ++
    (if q.slowDue || q.fenceNext.any (fun f => f.2 = 3 || f.2 = 5) || (!q.running && !q.restoreRows.isEmpty) then [q.beat + 1] else [])
/-- The switch on whose pending map a router votes (R26, R340), by T(B) − 1,000 ns: the next one; a router that takes its copy need not vote. [DESIGN CHOICE, log entry 52] -/
def State.mapVote (s : State) (p : PartId) (u : UnitName) : Option Nat :=
  let q := s.part p
  match u with
  | .router _ => (q.switchBeats.filter fun b => decide (q.beat < b ∧ s.jobTime p ≤ q.t b - 1000)).min?
  | _ => none
/-- A unit votes on the first apply that awaits its vote and whose deadline has not passed; a HOLD form is answered once all have voted. [DEDUCED, log entry 49] -/
def State.stageVote (s : State) (p : PartId) (u : UnitName) (ready : Bool) (marginPs : U16) : State :=
  let q := s.part p
  let waits := fun (a : Apply) => a.outcome.isNone && a.refused.isNone && a.units.contains u && !a.votes.contains u &&
    decide (s.jobTime p ≤ q.applyAt a - 1000)
  match q.applies.find? waits with
  | none => match s.mapVote p u with
    | some b => if ready then s else s.modPart p fun q => { q with mapRefused := some b }
    | none => s
  | some a =>
    let (s1, good) := s.seamVerify p u marginPs
    if ready && good then
      let a' := { a with votes := a.votes ++ [u] }
      let done := a.hold && a'.allVoted && !a.held
      let s2 := s1.modPart p fun q => q.modApply waits fun _ => { a' with held := a.held || done }
      if done then s2.answerApply a okStatus else s2
    else s1.modPart p fun q => q.modApply waits fun a => { a with refused := some u }
/-- STAGE_VOTE (R429, R63). -/
def execStageVote (p : PartId) (u : UnitName) (ready : Bool) (marginPs : U16) (s : State) : Host.Outcome State Fault Refusal :=
  .next (s.stageVote p u ready marginPs)
/-- The UNIT code of a voting unit (R356). -/
def unitCode : UnitName → Nat
  | .router _ => 0
  | .bank _ => 0
  | .seam _ => 1
  | .port _ => 2
  | .partitionUnit => 3
  | .memory _ => 4
  | .ioDie _ => 6
  | .halfDie _ => 7
/-- PROMOTE applies only where the slot at B begins its STEP (PROMOTE). -/
def Part.promoteFits (q : Part) (a : Apply) : Bool :=
  a.changes.all fun c => c.opcode ≠ 0x0605 ||
    (q.attempting && q.latch.fixed = some true && a.beat = (q.slot + 1) * q.s && fieldAt c.req.body 8 8 = q.step.toNat + 1)
/-- The vote deadline of an apply (R429, R430): committed, or aborted with FC_STAGE_ABORT and its answer; a member that holds no commit
aborts. [DEDUCED, log entry 49] -/
def State.judgeApply (s : State) (p : PartId) (a : Apply) : State :=
  let q := s.part p
  let s0 := s.reachJob p (q.applyAt a - 999)
  let good := a.allVoted && q.promoteFits a
  let out := good && (!a.hold || a.committed)
  let here := fun (b : Apply) => decide (b = a)
  let pend := if a.direct then q.pending else []
  if out then s0.modPart p fun q => ({ q with pending := pend } : Part).modApply here fun a => { a with outcome := some true }
  else
    let first := a.refused.or (a.units.find? fun u => !a.votes.contains u)
    let s1 := if good then s0 else s0.unitFault (some p) {
      cls := 0x17, unit := unitCode (first.getD .partitionUnit), addr := a.req.tag.toNat + a.opcode.toNat * 65536, clears := false }
    let s2 := s1.modPart p fun q => { q with
      pending := pend, apply := if a.direct then q.apply else none, direct := if a.direct then q.direct.erase a else q.direct }
    if a.held || a.committed then s2 else s2.answerApply a stageAborted
/-- VOTE_DEADLINE (R429): of the apply whose deadline comes first. -/
def execVoteDeadline (p : PartId) (s : State) : Host.Outcome State Fault Refusal :=
  let q := s.part p
  let open_ := q.applies.filter fun a => a.outcome.isNone
  .next (match open_.find? fun a => open_.all fun b => decide (q.applyAt a ≤ q.applyAt b) with
    | some a => s.judgeApply p a
    | none => s)

/-! The time base. -/

/-- TB_REF_LOSS (R42): the PLL holds its last frequency, and the administrator is told. -/
def execTbRefLoss (s : State) : Host.Outcome State Fault Refusal :=
  .next (if s.holdover then s else ({ s with holdover := true } : State).postAdmin 6 1 [])
/-- TSYNC_OUT_PULSE (R44): an 8 ns pulse from the next count whose bits [19:0] are zero. [DEDUCED, log entry 45] -/
def execTsyncOutPulse (s : State) : Host.Outcome State Fault Refusal :=
  let at_ : Nat := (s.now + 2 ^ 20 - 1) / 2 ^ 20 * 2 ^ 20 + 8
  .next (if s.pllLocked then { (s.reach at_) with tsyncPulses := s.tsyncPulses + 1 } else s)
/-- TSYNC_IN_EDGE (R44): the count latched, if capture is enabled. -/
def execTsyncInEdge (s : State) : Host.Outcome State Fault Refusal :=
  .next (if s.tsyncEn then { s with tsyncCapture := s.count, tsyncCaptures := s.tsyncCaptures + 1 } else s)

/-! Seams. -/

/-- A fault of a seam (R61, R355): charged to a partition when only one borders it; the seam's clean bit is cleared for all that do; the
second fault of a step gets a SEAM record (R330, R333). [DESIGN CHOICE, log entry 44] -/
def State.seamFault (s : State) (id : Nat) (a : FaultArgs) : State :=
  let owner := match s.seamParts id with
    | [p] => some p
    | _ => none
  let s1 := ((s.unitFault owner { a with unit := 1 }).clearSeam id (BitVec.ofNat 8 a.cls)).modSeam id fun x => { x with faults := x.faults + 1 }
  if (s1.seam id).faults = 2 then
    s1.logDefect { kind := 6, source := 3, cls := BitVec.ofNat 8 a.cls, wher := BitVec.ofNat 64 id, detail := if a.cls = 2 then 1 else 2 }
  else s1
/-- A word crosses a seam (R61). [DESIGN CHOICE, log entry 44] -/
def State.seamWord (s : State) (id : Nat) (reverse : Bool) (w : SeamWord) : State :=
  match w with
  | .clean => s
  | .corrected => s.modSeam id fun x =>
      if reverse then { x with corrR := x.corrR + 1 } else { x with corrP := x.corrP + 1 }
  | .uncorrectable =>
    { s.seamFault id { cls := 2, addr := 4 * 2 ^ 60 + id, bit := 0xFFFF0000 + (Config.syndrome s.draws).toNat } with draws := s.draws + 1 }
/-- SEAM_TRANSFER (R61). -/
def execSeamTransfer (seam : U16) (reverse : Bool) (w : SeamWord) (s : State) : Host.Outcome State Fault Refusal :=
  if s.member.seamIds.contains seam.toNat then .next (s.seamWord seam.toNat reverse w) else .fault .noSuchUnit
/-- SEAM_CORRECTED_LIMIT (R61): a count of either direction has passed 256; once per slot. -/
def execSeamCorrectedLimit (seam : U16) (s : State) : Host.Outcome State Fault Refusal :=
  let x := s.seam seam.toNat
  if s.member.seamIds.contains seam.toNat then
    .next (if (256 < x.corrP || 256 < x.corrR) && !x.limitRecorded then
      (s.modSeam seam.toNat fun x => { x with limitRecorded := true }).seamFault seam.toNat { cls := 0x0A, addr := seam.toNat }
    else s)
  else .fault .noSuchUnit

/-! Device DRAM. -/

/-- CARRY_SAVE_OVERDUE (R163, R268): a save unfinished at the end of the slot is a commit fault, and HALT goes out. [DEDUCED, log entry 23] -/
def execCarrySaveOverdue (p : PartId) (s : State) : Host.Outcome State Fault Refusal :=
  let q := s.part p
  .next (if q.attempting && q.carrySaving && q.latch.fixed = some true && q.judged && q.beatInStep + 1 = q.s then
    let s1 := (s.reachJob p (q.t (q.beat + 1))).modPart p fun q => { q with carrySaving := false, latch := { q.latch with commitFault := true } }
    ({ s1 with draws := s.draws + 1 } : State).sendHalt p (Config.carryClass s.draws) q.coord none
  else s)
/-- A scrubbed word that is uncorrectable (R169): the clean bit of the partition whose half-die holds it. [DESIGN CHOICE, log entry 46] -/
def State.scrubBad (s : State) (dpa : BitVec 42) (sym : BitVec 18) : State :=
  let a := dpa.toNat
  let p := s.partOfHd (a / 2 ^ 38)
  let s1 := ((s.upsetDram a).unitFault p { cls := 1, unit := 4, addr := a, bit := sym.toNat, clears := p.isSome }).markRow (s.dramLoc a) sym 1
  match p with
  | some p => s1.clearPart p 1
  | none => s1
/-- PATROL_SCRUB (R168, R169): a word of an ON region read; PIN of the location word names the pin that a correction is counted against, or that
stays uncorrected where the channel has a pin erased (R351). [DESIGN CHOICE, log entry 10; DESIGN CHOICE, log entry 46] -/
def execPatrolScrub (dpa : BitVec 42) (loc : U64) (ecc : Ecc) (s : State) : Host.Outcome State Fault Refusal :=
  let a := dpa.toNat
  if s.member.regions ≤ a / 2 ^ 33 then .fault .noSuchUnit
  else .next (if s.regionOn a then
    let row := s.dramLoc a
    let pin := bitsOf loc.toNat 49 45 % 18
    let erased := s.erasedSyms row
    match ecc with
    | .corrected _ =>
      if erased = 0 then s.corrected row pin
      else if erased.getLsbD pin then s
      else s.scrubBad dpa (BitVec.ofNat 18 (2 ^ pin) ||| erased)
    | .dram _ sym => s.scrubBad dpa (sym ||| erased)
    | _ => s
  else s)
/-- The bank of a row's location word (R328). -/
def bankKey (row : U64) : Nat := row.toNat / 2 ^ 50
/-- Rows taken at one repair time: oldest first, at most 8 with those whose banks are given, no two of one bank (R170). [DESIGN CHOICE, log entry 46] -/
def takeRows (taken : List Nat) (rows : List U64) : List U64 :=
  rows.foldl (fun acc r =>
    if taken.length + acc.length < 8 && !taken.contains (bankKey r) && acc.all (fun x => bankKey x ≠ bankKey r) then acc ++ [r] else acc) []
/-- One row repaired onto a spare of its bank, or recorded as unrepairable (R170, R330, R352). [DESIGN CHOICE, log entry 46] -/
def State.repairRow (s : State) (row : U64) : State :=
  let bank := bankKey row
  let used := (kget bank s.sparesUsed).getD 0
  let (sym, cls) := (kget row.toNat s.rowSyms).getD (0, 0)
  let d : Defect := { kind := 4, source := 3, cls := cls, wher := row, detail := BitVec.ofNat 32 sym.toNat }
  let s1 : State := { s with rowsMarked := s.rowsMarked.erase row }
  if used < 2 then
    ({ s1 with
       sparesUsed := kput bank (used + 1) s.sparesUsed, rowSyms := kdel row.toNat s.rowSyms
       corrections := s.corrections.filter fun c => c.1 ≠ row } : State).logDefect { d with flags := 1 }
  else ({ s1 with rowsBad := s.rowsBad ++ [row] } : State).logDefect { d with flags := 2 }
/-- The marked rows of a stack. -/
def State.stackRows (s : State) (stack : Nat) : List U64 := s.rowsMarked.filter fun r => r.toNat / 2 ^ 59 = stack
/-- Whether rows may be repaired now in a partition (R170): with no job, or in a freeze that a broken latch began. [DESIGN CHOICE, log entry 46] -/
def Part.mayRepairRows (q : Part) : Bool := q.job = .none || !q.running || (q.placing && q.repeatSlot.isSome)
/-- DRAM_ROW_REPAIR (R170). -/
def execDramRowRepair (stack : Fin 32) (s : State) : Host.Outcome State Fault Refusal :=
  if 2 * s.member.halfDies ≤ stack.val then .fault .noSuchUnit
  else .next (match s.stackPart stack.val with
    | none => (takeRows [] (s.stackRows stack.val)).foldl State.repairRow s
    | some p =>
      let q := s.part p
      if !q.mayRepairRows then s
      else
        let rows := takeRows (if q.placing then q.frozenBanks else []) (s.stackRows stack.val)
        (rows.foldl State.repairRow s).modPart p fun q => { q with
          frozenBanks := if q.placing then q.frozenBanks ++ rows.map bankKey else [] })
/-- REGION_ZEROING_DONE (R171). -/
def execRegionZeroingDone (region : BitVec 9) (s : State) : Host.Outcome State Fault Refusal :=
  if s.member.regions ≤ region.toNat then .fault .noSuchUnit
  else .next (if s.region region.toNat = .zeroing then { s with regions := kdel region.toNat s.regions } else s)

end Sys2Proof.Machine
end

