-- ==== Sys2Proof/Machine/Repair.lean ====
section
/-!
DEFINITION. Freezing a partition, persistent channels at the outcome of a step (R250), fences, the fast path and the slow path of
re-placement (R224, R333 to R343, R349, R353).
-/

namespace Sys2Proof.Machine

/-! Freezes. -/

/-- The partition freezes (R209, R266, R270): work dropped, windows closed to new arrivals; a drain or abandon that waits is answered. -/
def State.freezePart (s : State) (p : PartId) (why : Freeze) : State :=
  let s1 := s.modPart p fun q => { q with
    freeze := some why, draining := false, abandoning := false, repeatSlot := none, inserted := false, escalating := false
    slotScreen := false, dutyHeld := false, duty := 0 }
  let s2 := (s1.clearStreams p).forTiles (s1.holders p) fun s t => s.modTile t fun v => { v.quiesce with
    windows := v.windows.map (fun w => { w with shut := true }), bsyncGo := false }
  s2.answer (fun w => !w.queued && w.part = p && (w.opcode = 0x0404 || w.opcode = 0x0405)) okStatus 0 []
/-- A record in the partition's step log (R271). -/
def Part.logStep (q : Part) (r : StepRec) : Part :=
  { q with stepLog := (q.stepLog ++ [r]).drop (q.stepLog.length + 1 - 4096), stepHead := q.stepHead + 1 }
/-- The latest step log record, as an event carries it. -/
def Part.lastStep (q : Part) : Bytes := match q.stepLog.getLast? with
  | some r => r.bytes
  | none => List.replicate 32 0

/-! Persistent channels (R250). -/

/-- The channel ends of a partition, those of its I/O dies among them. -/
def State.modChans (s : State) (p : PartId) (f : Nat → Chan → Chan) : State :=
  let q := s.part p
  let mine := fun (k : Nat) => decide (q.chanFirst ≤ k % 2 ^ 20 ∧ k % 2 ^ 20 < q.chanFirst + q.chanCount)
  { s with channels := s.channels.map fun x => if mine x.1 then (x.1, f x.1 x.2) else x }
/-- An end in service of the persistent class. -/
def Chan.persistent (c : Chan) : Bool := !c.job && c.state ≠ chFree
/-- The outbound side of a bound channel: the tile's send end, and the I/O die's receive end. -/
def outboundEnd (k : Nat) (c : Chan) : Bool := c.role = 1 || 2 ^ 20 ≤ k
/-- A broken latch: what the attempt sent or released is taken back (R250). -/
def State.persistRollback (s : State) (p : PartId) : State :=
  s.modChans p fun k c =>
    if !c.persistent then c
    else if outboundEnd k c then { c with bytes := c.cBytes, msgs := c.cMsgs, sizes := [], arrMap := 0 } else { c with pend := c.released }
/-- The records of a ring in partition DRAM from a count on (R244): their words. -/
def State.ringRecords (s : State) (p : PartId) (base ring : Nat) : Nat → Nat → Nat → List Bytes
  | 0, _, _ => []
  | fuel + 1, at_, end_ =>
    if end_ ≤ at_ then []
    else
      let off := at_ % ring
      let h := leNat (s.partRead p (base + off) 8)
      let words := bitsOf h 7 4
      if h % 16 = 2 then State.ringRecords s p base ring fuel (at_ + (ring - off)) end_
      else s.partRead p (base + off + 8) (8 * words) :: State.ringRecords s p base ring fuel (at_ + 8 + 8 * words) end_
/-- A committed outbound record sent to its client (R251, R305). -/
def State.serviceReply (s : State) (n : Nat) (b : SvcBinding) (rec_ : Bytes) : State :=
  if fieldAt rec_ 6 2 = n then
    (s.datagram b n 2 0 (rec_.take 8) (rec_.drop 8)).modBinding n fun b => { b with replies := b.replies + 1 }
  else s
/-- The uncorrectable word of a retired channel that a range holds (R351): DPA and erased symbols. [DESIGN CHOICE, log entry 87] -/
def State.outboundEcc (s : State) (p : PartId) (a k : Nat) : Option (BitVec 42 × BitVec 18) := match s.retiredEcc p a k .clean with
  | .dram dpa sym => some (dpa, sym)
  | _ => none
/-- A binding's outbound channel at a commit: the newly committed records transmitted and released, at both ends; with an uncorrectable word among
them the writing tile's bit is cleared and none is transmitted (R376). -/
def State.commitOut (s : State) (n : Nat) (b : SvcBinding) : State :=
  let k := 2 ^ 20 + b.outChan
  let e := s.chan k
  let from_ := e.cBytes.toNat
  let len := (e.bytes - e.cBytes).toNat
  let head := min len (e.ring - from_ % e.ring)
  let bad := (s.outboundEcc b.part (e.ringBase.toNat + from_ % e.ring) head).or (s.outboundEcc b.part e.ringBase.toNat (len - head))
  let s0 := match bad, s.tileOfN b.part (s.chan b.outChan).owner.toNat with
    | some (dpa, sym), some t => (s.tileFault t { cls := 1, eng := 4, addr := dpa.toNat, bit := sym.toNat }).markRow (s.dramLoc dpa.toNat) sym 1
    | _, _ => s
  let recs := if bad.isSome then [] else s.ringRecords b.part e.ringBase.toNat e.ring len from_ (from_ + len)
  let s1 := recs.foldl (fun s r => s.serviceReply n b r) s0
  let done := fun (c : Chan) => { c with cBytes := c.bytes, cMsgs := c.msgs, released := c.bytes }
  (s1.modChan k done).modChan b.outChan done
/-- A closed latch: persistent ends commit (R250); requests held for credit follow (R251). [DEDUCED, log entry 27] -/
def State.persistCommit (s : State) (p : PartId) : State :=
  let s1 := s.modChans p fun k c => if c.persistent && !outboundEnd k c then { c with released := c.pend } else c
  (s1.bindings.filter fun b => b.2.part = p && b.2.isOpen).foldl (fun s b => State.svcDrain b.1 b.2.waiting.length (s.commitOut b.1 b.2)) s1

/-! The path check (R224). -/

/-- Columns in which a permitted minimal path from a to b may run vertically (R222). -/
def verticals (a b : Nat × Nat) : List Nat :=
  if a.1 ≤ b.1 then a.1 :: ((List.range (b.1 - a.1)).map (a.1 + 1 + ·)).filter (· % 2 = 1)
  else b.1 :: ((List.range (a.1 - b.1)).map (b.1 + 1 + ·)).filter (· % 2 = 0)
/-- A permitted minimal path from a to b passes f. -/
def onPath (a b f : Nat × Nat) : Bool :=
  let within := fun (lo hi x : Nat) => min lo hi ≤ x && x ≤ max lo hi
  let vs := verticals a b
  within a.1 b.1 f.1 && within a.2 b.2 f.2 &&
    (f.2 = a.2 || vs.any fun v => if a.1 ≤ b.1 then v ≤ f.1 else f.1 ≤ v) &&
    (f.2 = b.2 || vs.any fun v => if a.1 ≤ b.1 then f.1 ≤ v else v ≤ f.1)
/-- The stacks of a partition; those of a retired half-die belong to none (R343). -/
def State.stacksOf (s : State) (p : PartId) : List Nat :=
  ((s.part p).hdList.filter fun hd => !s.retired.getLsbD hd).flatMap fun hd => [4 * (hd / 2) + 2 * (hd % 2), 4 * (hd / 2) + 2 * (hd % 2) + 1]
/-- No pair of the partition's tiles, I/O dies and DRAM routers has a permitted path through a fenced router. -/
def State.pathsOk (s : State) (p : PartId) : Bool :=
  let at_ := fun (t : TileId) => (t.px.toNat, t.py.toNat)
  let bad := (s.tiles.filter fun x => x.2.ward.rfence).map fun x => at_ (keyTile x.1)
  bad.isEmpty || (
    let ts := ((s.tilesOfPart p).map at_).filter fun a => !bad.contains a
    let near := fun (a : Nat × Nat) => (s.stacksOf p).map fun st => (9 * (st / 4 % s.member.w) + a.1 % 9, s.member.stackRow st a.2)
    ts.all fun a => bad.all fun f =>
      f.2 ≠ a.2 && ts.all (fun b => !onPath a b f) && (near a).all fun b => !onPath a b f && !onPath b a f)

/-! Plans. -/

/-- A map with a planned row change (R335, R346). -/
def State.planRow (s : State) (m : List (Nat × U16)) (r : Repair) : List (Nat × U16) :=
  s.placeRow m r.hd.val (s.leadRow r.hd.val r.row) (if r.kind = 2 then none else some r.shift)
/-- The map that a list of planned changes gives. -/
def State.planMap (s : State) (rs : List Repair) : List (Nat × U16) := rs.foldl s.planRow s.placement
/-- A map obeys R24 in a partition: no two entries name one tile, and none names a fenced tile or one that a reset keeps from its position until a test
(R368). -/
def State.mapSound (s : State) (p : PartId) (fences : List TileId) (m : List (Nat × U16)) : Bool :=
  let ts := ((s.part p).hdList.flatMap s.member.nsOf).filterMap (s.tileIn m)
  let both := if (s.part p).paired then ts ++ ts.map twinOf else ts
  both.all (fun t => !(s.tile t).ward.tfence && !(s.tile t).needsTest && !fences.contains t) && ts.eraseDups.length = ts.length
/-- A plan passes the checks of the fast path (R24, R198, R202, R224). [DEDUCED, log entry 52] -/
def State.planOk (s : State) (p : PartId) (rs : List Repair) : Bool :=
  let m := s.planMap rs
  let fences := (rs.filter fun r => r.kind = 0).map (·.tile)
  s.mapSound p fences m && s.pathsOk p && match (s.part p).program with
    | none => true
    | some g =>
      let before := s.loadCircuits p g.circuits
      let after := ({ s with placement := m } : State).loadCircuits p g.circuits
      ({ s with placement := m } : State).routesOk after && g.slackOk before after
/-- The row state that a planned change leaves. -/
def Repair.rowState (r : Repair) : Row :=
  match r.kind with
  | 0 => { kind := .shifted, col := r.shift }
  | 1 => { kind := .testing, col := r.shift }
  | _ => {}

/-! Fences. -/

/-- A tile is fenced (R326): stopped, its queues and held descriptors discarded; its router forwards unless it too is fenced. -/
def State.fenceTile (s : State) (t : TileId) (router : Bool) : State :=
  s.modTile t fun v => { v.quiesce with
    router := if router then v.quiesce.router else v.router
    ward := { v.ward with tfence := true, rfence := v.ward.rfence || router } }
/-- A row placed and its state set while the partition stands still (R325, R340, R346). -/
def State.placeNow (s : State) (p : PartId) (r : Repair) : State :=
  ((s.setRows r.hd.val r.row r.rowState).writePend p (s.planMap [r])).switchMap p
/-- The planned shift of a tile's row at its column. -/
def State.shiftOf (s : State) (t : TileId) (kind : Nat) (cls : Byte) (orig : Option FaultRec) : Repair :=
  let hd := s.member.hdOf t
  { tile := t, hd := ⟨hd % 16, Nat.mod_lt _ (by decide)⟩, row := rowOf t, shift := colOf t, hold := 0, began := 0, switchBeat := 0,
    kind := kind, cls := cls, orig := orig }

/-! The slow path (R341, R342). -/

/-- The slow-path map: rows excluded, the half-die retired beyond four (R342). -/
def State.excludeRows (s : State) (rows : List (Nat × Nat)) : State :=
  let s1 := rows.foldl (fun s x => s.setRows x.1 x.2 { kind := .degraded }) s
  (rows.map (·.1)).eraseDups.foldl (fun s hd =>
    let d := ((List.range 8).filter fun r => (s.row hd r).kind = .degraded).length
    if 4 < d then { s with retired := s.retired ||| BitVec.ofNat 16 (2 ^ hd) } else s) s1
/-- The map of a partition's half-dies as their rows stand. -/
def State.slowMap (s : State) (p : PartId) : List (Nat × U16) := (s.part p).hdList.foldl s.defaultMap s.placement
/-- A running attempt ended by a freeze: its step log record (R271). [DEDUCED, log entry 53] -/
def State.logHalted (s : State) (p : PartId) (cls : Byte) (outcome : Nat) : State :=
  let q := s.part p
  if q.attempting && !q.escalating then
    s.modPart p fun q => q.logStep { (q.stepRec outcome) with cause := cls, origin := (q.latch.halt.map (·.2)).getD q.coord }
  else s
/-- The partition freezes for the slow path, with or without a job: HALT in its job, the step log, and the escalation event with half-die and
class. [DEDUCED, log entry 53] -/
def State.slowFreeze (s : State) (p : PartId) (hd : Nat) (cls : Byte) : State :=
  let s1 := if (s.part p).running then
      let s0 := s.sendHalt p cls (s.part p).coord none
      ((s0.logHalted p cls 3).freezePart p .slowPath).persistRollback p
    else if (s.part p).live then s.freezePart p .slowPath
    else s
  s1.postPart p 3 3 ((s1.part p).lastStep ++ leBytes 1 hd ++ [cls])
/-- The slow path (R341): the partition freezes, and the map of R342 applies at the next beat boundary. [DEDUCED, log entry 53] -/
def State.slowPath (s : State) (p : PartId) (rows : List (Nat × Nat)) (hd : Nat) (cls : Byte) : State :=
  let s1 := (s.slowFreeze p hd cls).excludeRows rows
  let s2 := ({ s1 with slowPlan := s1.slowMap p } : State).writePend p (s1.slowMap p)
  s2.modPart p fun q => { q with
    slowDue := true, reload := q.reload || q.program.isSome, repairs := [], placing := false
    restoreRows := q.restoreRows.filter fun x => decide ((s2.row x.1.val x.2).kind ≠ .degraded) }

/-! The fast path (R337, R338, R340). -/

/-- A record appended to the fault log and posted (R361). -/
def State.logFault (s : State) (r : FaultRec) : State :=
  let s1 : State := { s with
    faultLog := (s.faultLog ++ [(s.faultHead, r)]).drop (s.faultLog.length + 1 - 16384), faultHead := s.faultHead + 1 }
  if bitAt r.flags.toNat 1 then
    s1.postPart ⟨r.context.toNat / 2 ^ 60 % 16, Nat.mod_lt _ (by decide)⟩ 1 r.cls.toNat r.bytes
  else s1.postAdmin 1 r.cls.toNat r.bytes
/-- T_o: the boundary at which the broken latch is acted on, or the next one when it has been (R337). [DEDUCED, log entry 52] -/
def Part.tO (q : Part) : Int := if q.repeatSlot.isNone then max (q.t (q.slot * q.s + q.k + 1)) (q.t (q.beat + 1)) else q.t (q.beat + 1)
/-- The slot that the hold counts from: that of the attempt, or of the attempt that broke. -/
def Part.holdFrom (q : Part) : Nat := match q.repeatSlot with
  | some k => k
  | none => q.slot + 1
/-- The smallest hold for which the repeat starts at or after the bound of release (R338). [DEDUCED, log entry 52] -/
def Part.holdFor (q : Part) : Nat :=
  let bound := q.tO + 1450000 + (q.pUs * 1000 : Nat)
  let lack := bound - q.t (q.holdFrom * q.s)
  ((lack + (q.s * q.pUs * 1000 - 1 : Nat)) / (q.s * q.pUs * 1000 : Nat)).toNat
/-- A planned map applied while the partition stands still: TFENCE and the shift at the next beat boundary (R325, R340, R353). -/
def State.placeLater (s : State) (p : PartId) (t : TileId) : State :=
  s.modPart p fun q => { q with fenceNext := q.fenceNext ++ [(t, 3)] }
/-- The fast path is abandoned (R340): the original faults recorded with action "slow path", HALT; a planned map that still passes every
check stands where it has switched, and is applied while the partition is frozen where it has not; otherwise the map of R342 applies. [DEDUCED, log entry 52] -/
def State.fastAbandon (s : State) (p : PartId) : State :=
  let q := s.part p
  let rs := q.repairs.filter fun r => r.kind = 0
  let s1 := (rs.filterMap (·.orig)).foldl (fun s r => s.logFault { r with severity := 2, action := 9 }) s
  match q.repairs with
  | [] => s
  | r :: _ =>
    let todo := rs.filter fun r => !r.switched
    if s1.planOk p todo then
      let s2 := s1.slowFreeze p r.hd.val r.cls
      (todo.foldl (fun s r => s.placeLater p r.tile) s2).modPart p fun q => { q with repairs := [], placing := false }
    else
      let s2 := s1.slowPath p (rs.map fun r => (r.hd.val, r.row)) r.hd.val r.cls
      s2.modPart p fun q => { q with fenceNext := q.fenceNext ++ (rs.map fun r => (r.tile, 1)) }
/-- A hold asked for: by BREAK before the outcome is fixed, and applied directly to a repeat that a job of one module awaits (R264, R337). [DEDUCED, log entry 52] -/
def State.holdRepeat (s : State) (p : PartId) (hold : Nat) : State :=
  let s1 := s.modPart p fun q => { q with holdNamed := true }
  match (s.part p).repeatSlot with
  | some k => s1.modPart p fun q => { q with repeatSlot := some (k + hold) }
  | none => s1.askBreak p hold
/-- The job of a partition spans one module. -/
def Part.oneModule (q : Part) : Bool := match q.manifest with
  | some m => m.nx * m.ny * m.nz = 1
  | none => true
/-- The fast path can still name a hold: the outcome is open, or the job has one module and no hold has been named for the repeat, which is
then never moved again (R340). [DEDUCED, log entry 52] -/
def Part.holdOpen (q : Part) : Bool :=
  (q.attempting && q.latch.fixed.isNone) || (q.repeatSlot.isSome && q.oneModule && !q.holdNamed)
/-- Shifts planned for a fault in a running job: begun, folded into the plan in progress, or left to the slow path (R337, R353). The flag says
whether the fast path took them. [DEDUCED, log entry 52] -/
def State.fastPath (s : State) (p : PartId) (new : List Repair) : State × Bool :=
  let q := s.part p
  let rows := q.repairs.map fun r => (r.hd.val, s.leadRow r.hd.val r.row)
  let apart := new.all fun r => !rows.contains (r.hd.val, s.leadRow r.hd.val r.row)
  let all_ := q.repairs ++ new
  let late := q.repairs.any (·.switched) || q.repairs.any (fun r => r.kind ≠ 0)
  let hold := q.holdFor
  let fits := q.holdOpen || ((q.repeatSlot.isSome || !q.repairs.isEmpty) && hold = 0)
  if apart && !late && fits && hold ≤ 255 && s.planOk p all_ then
    let began := new.map fun r => { r with hold := hold, began := q.beat }
    let s1 := s.modPart p fun q => { q with repairs := q.repairs ++ began }
    (if hold = 0 && q.repeatSlot.isSome then s1 else s1.holdRepeat p hold, true)
  else if !q.repairs.isEmpty && !q.repairs.any (·.switched) then
    ((s.modPart p fun q => { q with repairs := q.repairs ++ new.map (fun r => { r with orig := none }) }).fastAbandon p, false)
  else
    let r := new.head?
    let s1 := s.slowPath p (new.map fun r => (r.hd.val, r.row)) ((r.map (·.hd.val)).getD 0) ((r.map (·.cls)).getD 0)
    (s1.modPart p fun q => { q with fenceNext := q.fenceNext ++ (new.map fun r => (r.tile, 1)) }, false)
/-- T_o for the repairs of a partition (R337, stages 3 and 4): the fences apply, the pending copies and tables are written and IMEM is loaded; the
switch comes at the first boundary that these reach. -/
def State.fenceRepairs (s : State) (p : PartId) : State :=
  let q := s.part p
  let due := q.repairs.filter fun r => r.kind = 0 && !r.fenced
  if due.isEmpty then s
  else
    let s1 := due.foldl (fun s r => s.fenceTile r.tile false) s
    let wait := 1000000
    let b := q.beat + (wait + q.pUs * 1000 - 1) / (q.pUs * 1000)
    let m := s1.planMap (q.repairs.filter fun r => r.kind = 0 && !r.switched)
    ((s1.writePend p m).loadMoved p m).modPart p fun q => { q with repairs := q.repairs.map fun r =>
      if r.kind = 0 then { r with fenced := true, switchBeat := if r.switched then r.switchBeat else b } else r }
/-- The entry save areas of the positions that a switch moves pass the checks of their scan-in (R206, R208, R376). -/
def State.entriesGood (s : State) (p : PartId) : Bool :=
  (s.part p).job ≠ .running || (s.movesTo p (s.pendMap p)).all fun x => (s.savedEntry p (s.nOfKey p x.1) x.2.1).isSome
/-- A switch may be made now (R24, R26, R206): every router has acknowledged its pending copy, the map is sound, and every image passes its checks. [DEDUCED, log entry 52] -/
def State.switchGood (s : State) (p : PartId) : Bool :=
  decide ((s.part p).mapRefused ≠ some (s.part p).beat) && s.mapSound p [] (s.pendMap p) && s.entriesGood p
/-- An insertion's move that cannot be made fails as a staged change does (R26, R345): FC_STAGE_ABORT, and nothing moves. [DEDUCED, log entry 52] -/
def State.insertAborted (s : State) (p : PartId) (due : List Repair) : State :=
  (s.unitFault (some p) { cls := 0x17, unit := 0, addr := 0x0606 * 65536, clears := false }).modPart p fun q => { q with
    repairs := q.repairs.filter fun r => !due.contains r }
/-- The switch of a partition's planned changes (R26, R201, R337 stage 5, R345): where a router has not acknowledged its pending copy, or an
image fails its checks, none switches, and the fast path is abandoned (R340, R376). [DEDUCED, log entry 52] -/
def State.switchRepairs (s : State) (p : PartId) : State :=
  let q := s.part p
  let due := q.repairs.filter fun r => r.fenced && !r.switched && r.switchBeat = q.beat
  if due.isEmpty then s
  else if !s.switchGood p then (if due.any (fun r => r.kind = 0) then s.fastAbandon p else s.insertAborted p due)
  else
    let s1 := due.foldl (fun s r => s.setRows r.hd.val r.row r.rowState) s
    (s1.switchMap p).modPart p fun q => { q with
      placing := true, frozenBanks := []
      repairs := q.repairs.map fun r => if r.fenced && r.switchBeat = q.beat then { r with switched := true } else r
      restoreRows := q.restoreRows.filter fun x => !(due.any fun r => r.kind = 2 && r.hd = x.1 && r.row = x.2) }

end Sys2Proof.Machine
end

