-- ==== Sys2Proof/Machine/Images.lean ====
section
/-!
DEFINITION. The scans of a partition at a beat boundary (R208).
-/

namespace Sys2Proof.Machine

/-! Scans at a beat boundary. -/

/-- Bytes of an image of a kind. -/
def imageSize (kind : Nat) : Nat := if kind = 2 then 98304 else 8192
/-- A scan-out put where the request asks for it (R208): partition DRAM, or the tile's own scratchpad, whose banks that are off discard it and
whose clearing banks take it when they are clear (R181, R182). -/
def State.scanOutTo (s : State) (p : PartId) (n : Nat) (t : TileId) (r : Req) : State :=
  let bs := s.scanOut p n t (rf r 1 1)
  if rf r 4 1 = 1 then
    let w := (s.tile t).placeRun s.member (s.stepAt t) 6 (rf r 8 8) bs
    match w.2 with
    | some x => (s.setTile t w.1).tileFault t { cls := 0x10, eng := 6, addr := x, clears := (s.part p).freeze.isNone }
    | none => s.setTile t w.1
  else s.partWrite p (rf r 8 8) bs
/-- A scan that a request asks for, its arguments checked: the state, status and DETAIL. [DESIGN CHOICE, log entry 25] -/
def State.scanServe (s : State) (p : PartId) (r : Req) : State × Nat × Nat :=
  let n := rf r 2 2
  match s.tileOfN p n with
  | none => (s, badArg, 0)
  | some t =>
    if (s.part p).freeze.isNone then (s, busy, 0)
    else if rf r 1 1 ≠ 3 then (s.scanOutTo p n t r, okStatus, 0)
    else
      let (s1, bs) := s.areaRead p (rf r 8 8)
      match s.imageRefusal p n t bs with
      | some (st, d) => (s1, st, d)
      | none => ((s1.forTiles (s.tilesAt p n) fun s u => s.modTile u fun v => v.reload (parseEntry (bs.getD []))).armGen p, okStatus, 0)
/-- The scans that wait for a beat boundary of a partition, served and answered (R208); the stream plane is emptied in every router (R201). [DESIGN CHOICE, log entry 25] -/
def State.serveScans (s : State) (p : PartId) : State :=
  let mine := fun (w : Waiter) => decide (w.opcode = 0x0408) && !w.queued && decide (w.part = p)
  match s.waiters.find? mine with
  | some w =>
    let (s1, st, d) := s.scanServe p w.req
    let s2 := if rf w.req 1 1 = 3 && st = okStatus then s1.clearStreams p else s1
    s2.answer mine st d []
  | none => s

end Sys2Proof.Machine
end

