-- ==== Sys2Proof/Machine/Boundary.lean ====
section
/-!
DEFINITION. The boundary slot of a beat (R52): latch results, slots and attempts, staged changes, fences and re-placements, descriptor lists,
and the descriptors loaded for the beat that begins.
-/

namespace Sys2Proof.Machine

/-! Slots and attempts. -/

/-- Job-class ends start the slot empty (R249); persistent ends show what their commit counts say, taken anew at a new step (R250). -/
def State.slotChannels (s : State) (p : PartId) (newStep : Bool) : State :=
  let s1 := s.modChans p fun k c =>
    if c.state = chFree then c
    else if c.job then { c with bytes := 0, msgs := 0, released := 0, arrMap := 0, sizes := [] }
    else if newStep && !outboundEnd k c then { c with cBytes := c.bytes, cMsgs := c.msgs } else c
  let q := s1.part p
  let shown := s1.channels.filter fun x => decide (x.1 < 2 ^ 20 ∧ q.chanFirst ≤ x.1 ∧ x.1 < q.chanFirst + q.chanCount) &&
    x.2.role = 2 && x.2.state ≠ chFree
  shown.foldl (fun s x => match s.tileOfN p x.2.owner.toNat with
    | some t => s.putWord t x.2.statusAddr.toNat x.2.shown
    | none => s) s1
/-- A step slot begins in a partition that issues (R154, R156, R249). -/
def State.slotStart (s : State) (p : PartId) (newStep : Bool) : State :=
  let s1 := s.forTiles (s.holders p) fun s t => s.modTile t fun v =>
    { (v.forgetSpad (tileKey t) (s.part p).step.toNat) with
      rings := v.rings.map Ring.restart, overrun := false
      sport := v.sport.map fun c => { c with count := 0, buffer := [], slotIdx := 0, wordIdx := 0, stalled := false } }
  s1.slotChannels p newStep
/-- The corrected-word counts of a step slot start at zero (R61). -/
def State.seamSlot (s : State) (p : PartId) : State :=
  (s.seamsOfPart p).foldl (fun s id => s.modSeam id fun x => { x with
    corrP := 0, corrR := 0, limitRecorded := false, faults := if (s.part p).job = .none then 0 else x.faults }) s
/-- A partner of the port is SILENT: the port's bit stays clear until re-admission (R320, R322). [DEDUCED, log entry 34] -/
def Port.silent (q : Port) : Bool := q.native.state = .silent || q.sessions.any fun x => x.2.state = .silent
/-- Every contributor's clean bit is set (R259), but that of a port with a SILENT partner. -/
def State.cleanBits (s : State) (p : PartId) : State :=
  let s1 := s.forTiles (s.holders p) fun s t => s.modTile t fun v => { v with unclean := none }
  let s2 := (s1.seamsOfPart p).foldl (fun s id => s.modSeam id fun x => { x with unclean := kdel p.val x.unclean }) s1
  let q := s2.part p
  let ports := (List.finRange 16).filter fun i => q.jobPorts.contains i || (q.shadow.map (·.port)) = some i
  (ports.foldl (fun s i => s.modPort i fun x => { x with unclean := if x.silent then x.unclean else none }) s2).modPart p fun q => { q with unclean := none }
/-- An attempt begins: its latch, counts and clean bits (R47, R259, R364). [DEDUCED, log entry 42] -/
def State.attemptStart (s : State) (p : PartId) : State :=
  let s1 := s.modPart p fun q => { q with
    latch := {}, faults := 0, repeatSlot := none, holdNamed := false, inserted := false
    syncHold := q.syncHold && !q.syncGood, syncGood := decide (q.syncErrPs.natAbs ≤ 2000) }
  (s1.cleanBits p).forTiles (s1.holders p) fun s t => s.modTile t Tile.restartStill
/-- A tile's repeat (R205, R207): entry section reloaded, dynamic section zeroed; an unclean entry is unclean again. -/
def State.repeatTile (s : State) (t : TileId) : State :=
  match (s.tile t).entry with
  | none => s
  | some e =>
    let s1 := s.modTile t fun v => { (v.reload e) with rings := e.rings.map Ring.restart }
    if e.unclean then s1.tileFault t { cls := 6, eng := e.busy, slot := e.busySlot, pc := e.busyPc, addr := 5 + 256 * e.busyStill } else s1
/-- What the job still holds in its ports is discarded (R269). -/
def State.dropEgress (s : State) (p : PartId) : State :=
  (List.finRange 16).foldl (fun s i =>
    let gone := fun (x : Session × Packet) => x.2.part.toNat = p.val
    if (s.port i).part = some p then
      s.modPort i fun q => { q with egress := q.egress.filter fun x => !gone x, spill := q.spill.filter fun x => !gone x }
    else s) s
/-- Descriptor lists start the attempt from CONS (R427). -/
def Part.restartLists (q : Part) : Part :=
  { q with dlists := q.dlists.map fun x => x.map fun d => { d with next := d.cons, skipPend := 0, entries := [] } }
/-- A step repeat begins (R207, R269): the stream plane is emptied in every router (R201), and every tile arms its GEN check (R226). -/
def State.repeatBegin (s : State) (p : PartId) : State :=
  let s1 := s.modPart p fun q => (({ q with
    attempt := if q.inserted then q.attempt else q.attempt + 1, slotScreen := q.slotScreen || !q.inserted } : Part).restartLists)
  let s2 := (s1.attemptStart p).dropEgress p
  let s3 := s2.forTiles (s2.routersOf p) fun s t => s.modTile t Tile.streamClear
  (s3.forTiles (s3.holders p) State.repeatTile).armGen p
/-- A new step number begins (R51, R205, R267). [DEDUCED, log entry 42] -/
def State.stepBegin (s : State) (p : PartId) : State :=
  let s0 := s.modPart p fun q => { q with step := q.step + 1, attempt := 1 }
  let s1 := (s0.seamsOfPart p).foldl (fun s id => s.modSeam id fun x => { x with faults := 0 }) s0
  (s1.attemptStart p).forTiles (s1.holders p) fun s t => s.entryCopy p t
/-- The descriptor lists of a closed step are consumed (R427). -/
def Part.commitLists (q : Part) : Part :=
  { q with dlists := q.dlists.map fun x => x.map fun d => { d with
      cons := d.next, skipped := d.skipped + BitVec.ofNat 32 d.skipPend, skipPend := 0 } }
/-- CONS and SKIPPED written to the headers of a partition's lists (R425). -/
def State.writeLists (s : State) (p : PartId) : State :=
  (s.part p).dlists.toList.foldl (fun s x => match x with
    | some d => s.partWrite p (d.base.toNat + 4) (leBytes 4 d.cons.toNat ++ leBytes 4 d.skipped.toNat)
    | none => s) s
/-- A facet log entry (R278). -/
def Part.logFacets (q : Part) : Part :=
  let e : FacetEntry := {
    step := q.step, attempt := BitVec.ofNat 8 q.attempt, slot := BitVec.ofNat 64 q.slot, facets := q.latch.facets }
  { q with facetLog := q.facetLog ++ [e], facetHead := q.facetHead + 1 }
/-- The commit of a closed latch (R163, R250, R267, R278). -/
def State.commitStep (s : State) (p : PartId) : State :=
  let s1 := (s.forTiles (s.holders p) fun s t => s.carrySave p t).persistCommit p
  let saving := (s1.holders p).any fun t => !(s1.tile t).carries.isEmpty
  (s1.modPart p fun q => { q.logFacets.commitLists with carrySaving := saving }).writeLists p

/-! Latch results (R52, step 2). -/

/-- HALT acted on (R266): the attempt is broken and the partition freezes. -/
def State.haltFreeze (s : State) (p : PartId) (q : Part) (cls : Byte) : State :=
  let committed := q.latch.fixed = some true && q.k < q.beatInStep
  let r : StepRec := { q.stepRec (if q.latch.commitFault then 4 else 3) with cause := cls, origin := (q.latch.halt.map (·.2)).getD q.coord }
  let s0 := if q.attempting && !q.escalating then s.modPart p fun x => x.logStep r else s
  let s1 := s0.freezePart p .halted
  let s2 := if committed then s1 else s1.persistRollback p
  let rs := q.repairs.filter fun r => r.kind = 0 && !r.switched
  let s3 := (rs.foldl (fun s r => s.placeLater p r.tile) s2).modPart p fun x => { x with repairs := [], placing := false }
  s3.postPart p 3 1 r.bytes
/-- The outcome acted on in the boundary slot of beat K + 1 (R267, R269, R270, R280, R281). -/
def State.outcomeActs (s : State) (p : PartId) (q : Part) : State :=
  let hold := (q.latch.outcome.map (·.2.toNat)).getD 0
  let diverged := (q.shadow.map fun h => decide (h.role = 2 && h.state = 3)).getD false
  if q.isShadow && (diverged || q.latch.fixed.isNone) then
    (((s.modPart p fun x => { x.logStep (q.stepRec 2) with
        shadow := x.shadow.map fun h => { h with state := 3 } }).freezePart p .diverged).persistRollback p)
  else if q.latch.fixed = some true then s.commitStep p
  else
    let s1 := s.persistRollback p
    if q.attempt < 3 then
      s1.modPart p fun x => { x.logStep (q.stepRec 2) with repeatSlot := some (q.slot + 1 + hold) }
    else
      let rs := q.repairs.filter fun r => r.kind = 0
      let s2 := s1.modPart p fun x => { x.logStep (q.stepRec 5) with
        escalating := true, repairs := [], repeatSlot := some (q.slot + 1) }
      rs.foldl (fun s r => s.placeLater p r.tile) s2
/-- An abandon at the next boundary (R210): the step's work discarded, unless its outcome is already fixed. [DEDUCED, log entry 53] -/
def State.abandonActs (s : State) (p : PartId) (q : Part) : State :=
  if q.latch.fixed.isNone && q.repeatSlot.isNone then
    ((s.modPart p fun x => { x with resumeAttempt := q.attempt }).freezePart p .abandoned).persistRollback p
  else s.modPart p fun x => { x with abandoning := false, draining := true }
/-- Latch results of the beat that ended. -/
def State.latchResults (s : State) (p : PartId) (q : Part) : State :=
  if !(q.running && q.active) then s
  else match q.latch.halt with
    | some (cls, _) => s.haltFreeze p q cls
    | none =>
      let s1 := if q.attempting && q.beatInStep = q.k then s.outcomeActs p q else s
      if q.abandoning && (s1.part p).freeze.isNone then s1.abandonActs p (s1.part p) else s1

/-! Slot boundaries. -/

/-- A drain's freeze, with the attempt that a resume runs as (R209), and its event (R422). -/
def State.drainFreeze (s : State) (p : PartId) (attempt : Nat) : State :=
  let s1 := (s.modPart p fun q => { q with resumeAttempt := attempt }).freezePart p .drained
  s1.postPart p 3 4 (s1.part p).lastStep
/-- The slots that an insertion takes from slot `k` on, if it begins there (R345). -/
def Part.insertAt (q : Part) (k : Nat) : Option Nat := match q.insertQ with
  | some (at_, l) => if at_ = k then some l else none
  | none => none
/-- A row restored to no shift, as a planned change (R346). -/
def State.restorePlan (s : State) (x : HdId × Nat) : Repair :=
  { tile := s.member.tileAt x.1.val 0 x.2, hd := x.1, row := x.2, shift := 0, hold := 0, began := 0, switchBeat := 0, kind := 2 }
/-- An INSERT that is due at the boundary (R345, R346): its slots, the row to shift at the tested tile, the rows to restore where no fenced tile
stands in the way (R326). -/
def State.noteInsert (p : PartId) (s : State) (r : Req) : State :=
  let n := rf r 2 2
  let test := if n = 0xFFFF then [] else ((s.tileOfN p n).map fun t => s.shiftOf t 1 0 none).toList
  let rows := if bitAt (rf r 4 1) 0 then ((s.part p).restoreRows.map s.restorePlan).filter fun x => s.mapSound p [] (s.planMap [x]) else []
  s.modPart p fun q => { q with
    insertQ := some (rf r 8 8, rf r 1 1), repairs := q.repairs ++ test ++ rows, tests := q.tests.filter fun x => x.1 ≠ n }
/-- The insertions due at an instant. -/
def State.noteInserts (s : State) (p : PartId) (at_ : Int) : State :=
  let q := s.part p
  let cs := (q.applies.filter fun a => a.outcome = some true && decide (q.applyAt a ≤ at_)).flatMap (·.changes)
  (cs.filter fun c => c.opcode = 0x0606).foldl (fun s c => s.noteInsert p c.req) s
/-- The positions that an insertion moves: the tested tile's row at its column, or rows to restore (R345, R346): pending copies and tables
written, IMEM loaded (R337, stage 4). -/
def State.beginInsert (s : State) (p : PartId) : State :=
  let move := (s.part p).repairs.filter fun r => r.kind ≠ 0
  let m := s.planMap move
  let s1 := if move.isEmpty then s else (s.writePend p m).loadMoved p m
  s1.modPart p fun q => { q with
    insertQ := none
    repairs := q.repairs.map fun r => if r.kind = 0 then r else
      { r with fenced := true, began := q.beat, switchBeat := q.beat + (1000000 + q.pUs * 1000 - 1) / (q.pUs * 1000) } }
/-- A slot begins in a running job: a new step after a close, a repeat that is due, an insertion, an escalation, a drain (R51, R209, R269,
R270, R345). `q` is the partition in the beat that begins, its last outcome acted on. -/
def State.jobSlot (s : State) (p : PartId) (q : Part) : State :=
  let k := (s.part p).slot
  match q.repeatSlot with
  | none =>
    if q.latch.fixed ≠ some true then s
    else
      let s1 := (s.modPart p fun x => { x.logStep (({ q with beat := q.beat - 1 } : Part).stepRec 1) with carrySaving := false }).stepBegin p
      let s2 := s1.slotStart p true
      if q.draining then s2.drainFreeze p 1
      else match q.insertAt k with
        | some l => (s2.modPart p fun x => { x with repeatSlot := some (k + l), inserted := true }).beginInsert p
        | none => s2
  | some r =>
    if q.escalating then
      let s1 := (s.modPart p fun x => { x with escalating := false }).freezePart p .escalated
      s1.postPart p 3 2 (s1.part p).lastStep
    else
      let r' := match q.insertAt k with
        | some l => if r < k + l then k + l else r
        | none => r
      let s1 := if (q.insertAt k).isSome then (s.modPart p fun x => { x with repeatSlot := some r' }).beginInsert p else s
      if k < r' then s1.slotStart p false
      else if q.draining then s1.drainFreeze p (if q.inserted then q.attempt else q.attempt + 1)
      else if !q.repairs.isEmpty then s1.fastAbandon p
      else (s1.repeatBegin p).slotStart p false
/-- The partition's slot begins. -/
def State.slotBoundary (s : State) (p : PartId) (q : Part) : State :=
  if q.beatInStep ≠ 0 then s
  else
    let s1 := s.seamSlot p
    if q.running && q.active then s1.jobSlot p q else if q.job = .none && q.active then s1.slotStart p false else s1

/-! Staged changes, fences, re-placements (R52, step 3). -/

/-- A change of the partition at the boundary applied, in the order staged, and its apply answered (R429, R435). -/
def State.applyOne (p : PartId) (s : State) (a : Apply) : State :=
  let b := if a.changes.any (fun c => c.opcode = 0x0403) then a.beat else (s.part p).beat
  let s0 := a.changes.foldl (State.applyChange p b) s
  let s1 := if a.changes.any (fun c => c.opcode = 0x0406) then (s0.attemptStart p).slotChannels p false else s0
  let s2 := s1.modPart p fun q => { q with
    apply := if a.direct then q.apply else none, direct := if a.direct then q.direct.filter fun x => x ≠ a else q.direct }
  if a.hold then s2 else s2.answerApply a okStatus
/-- Every change that is due. [DEDUCED, log entry 49] -/
def State.applyDue (s : State) (p : PartId) (at_ : Int) : State :=
  let q := s.part p
  (q.applies.filter fun a => a.outcome = some true && decide (q.applyAt a ≤ at_)).foldl (State.applyOne p) s
/-- The key under which a FENCE of a tile waits. -/
def fenceKey (t : TileId) : Nat := 2 ^ 25 + tileKey t
/-- The change of a shift that a router has not acknowledged (R26) fails: a FENCE that asked for it changes nothing; a shift of Pintle's own is
made at the next boundary. [DEDUCED, log entry 52] -/
def State.shiftRefused (s : State) (p : PartId) (f : TileId × Nat) : State :=
  let asked := s.waiters.any fun w => !w.queued && w.opcode = 0x0809 && w.key = fenceKey f.1
  if f.2 = 3 && asked then s
  else (if f.2 = 3 then s.fenceTile f.1 false else s).modPart p fun q => { q with fenceNext := q.fenceNext ++ [(f.1, 5)] }
/-- One fence of the boundary (R325, R344, R346). -/
def State.applyFenceOne (p : PartId) (s : State) (f : TileId × Nat) : State :=
  match f.2 with
  | 0 => s.modTile f.1 fun v => { v with ward := { v.ward with tfence := false } }
  | 1 =>
    let hd := s.member.hdOf f.1
    let s1 := s.fenceTile f.1 false
    if colOf f.1 = 8 && (s1.row hd (rowOf f.1)).kind = .whole then s1.setRows hd (rowOf f.1) { kind := .noSpare } else s1
  | 2 => s.fenceTile f.1 true
  | 3 =>
    let s1 := s.fenceTile f.1 false
    if (s1.row (s1.member.hdOf f.1) (rowOf f.1)).kind = .whole then s1.placeNow p (s1.shiftOf f.1 0 0 none) else s1
  | 5 =>
    if (s.row (s.member.hdOf f.1) (rowOf f.1)).kind = .whole && colOf f.1 < 8 then s.placeNow p (s.shiftOf f.1 0 0 none) else s
  | _ => s.modTile f.1 fun v => { v with frozen := true, ward := { v.ward with diag := true, test := true } }
/-- A fence, and the FENCE that asked for it answered; where the switch is refused a shift fails as a staged change does (R26). -/
def State.applyFence (p : PartId) (refused : Bool) (s : State) (f : TileId × Nat) : State :=
  let asked := fun (w : Waiter) => !w.queued && w.opcode = 0x0809 && w.key = fenceKey f.1
  if refused && (f.2 = 3 || f.2 = 5) then (s.shiftRefused p f).answer asked stageAborted 0 []
  else (s.applyFenceOne p f).answer asked okStatus 0 []
/-- Rows left shifted by a passed test, restored at the first boundary with no job active (R346), where the map stays sound (R24). -/
def State.restoreIdle (s : State) (p : PartId) : State :=
  let q := s.part p
  if q.running || q.mapRefused = some q.beat then s
  else
    let plan := s.restorePlan
    q.restoreRows.foldl (fun s x =>
      if s.mapSound p [] (s.planMap [plan x]) then
        (s.placeNow p (plan x)).modPart p fun q => { q with restoreRows := q.restoreRows.erase x }
      else s) s
/-- The slow-path map that is due (R341). -/
def State.applySlow (s : State) (p : PartId) : State :=
  if (s.part p).slowDue && (s.part p).mapRefused ≠ some (s.part p).beat then
    let m := s.slowMap p
    ((({ s with slowPlan := m } : State).writePend p m).switchMap p).modPart p fun q => { q with slowDue := false }
  else s
/-- Fences, then maps. -/
def State.boundaryFences (s : State) (p : PartId) : State :=
  let fs := (s.part p).fenceNext
  let refused := decide ((s.part p).mapRefused = some (s.part p).beat)
  let s1 := fs.foldl (State.applyFence p refused) (s.modPart p fun q => { q with fenceNext := [] })
  let s2 := if (s1.part p).repeatSlot.isSome then s1.fenceRepairs p else s1
  (((s2.switchRepairs p).applySlow p).restoreIdle p).modPart p fun q => { q with
    mapRefused := q.mapRefused.filter fun b => decide (q.beat < b) }

/-! Descriptor lists (R426, R427). -/

/-- An entry of a list (R425). -/
def readEntry (bs : Bytes) (i : U32) (beat : Nat) : DEntry :=
  { index := i, step := BitVec.ofNat 48 (fieldAt bs 0 6), beat := BitVec.ofNat 16 (fieldAt bs 6 2), n := BitVec.ofNat 16 (fieldAt bs 8 2)
    ring := byteAt bs 10, payload := (bs.drop 64).take 64, readBeat := beat }
/-- Up to 64 entries from CONS on, below the PROD that the beat's boundary slot read: an entry whose SEQ differs stops the list. [DEDUCED, log entry 50] -/
def State.readList (s : State) (p : PartId) (d : DList) (beat : Nat) : DList :=
  let n := min 64 (d.prod - d.cons).toNat
  let got := (List.range n).map fun i =>
    let k := d.cons + BitVec.ofNat 32 i
    let bs := s.partRead p (d.base.toNat + 128 + 128 * (k.toNat % 2 ^ d.log2)) 128
    (readEntry bs k beat, fieldAt bs 12 4)
  let good := (got.takeWhile fun x => x.2 = x.1.index.toNat).map (·.1)
  { d with entries := good.map fun e => match d.entries.find? fun x => x.index = e.index with
      | some old => { e with readBeat := old.readBeat }
      | none => e }
/-- The partition unit's reads of its lists in a boundary slot: of each PROD word and of the entries from CONS on (R351). [DESIGN CHOICE, log entry 46] -/
def State.listReads (s : State) (p : PartId) : State :=
  ((s.part p).dlists.toList.filterMap id).foldl (fun s d =>
    (List.range (min 64 (d.prod - d.cons).toNat)).foldl (fun s i =>
      s.unitRead p (d.base.toNat + 128 + 128 * ((d.cons + BitVec.ofNat 32 i).toNat % 2 ^ d.log2)) 128) (s.unitRead p d.base.toNat 4)) s
/-- A delivery refused by its ring (R426). [DEDUCED, log entry 50] -/
def State.listRefused (s : State) (p : PartId) (addr : Nat) : State :=
  s.partFault p { cls := 0x0F, unit := 3, addr := addr }
/-- One word written into the next slot of a ring, as a remote write at endpoint 3 (R157, R161, R426). [DEDUCED, log entry 50] -/
def State.deliverEntry (s : State) (p : PartId) (e : DEntry) : State :=
  match s.tileOfN p e.n.toNat with
  | none => s.listRefused p 0
  | some t =>
    let put := fun (s : State) (t : TileId) =>
      let v := s.tile t
      let i : Fin 16 := ⟨e.ring.toNat % 16, Nat.mod_lt _ (by decide)⟩
      let r := v.rings[i]
      let held := (v.ingress.filter fun h => h.ring = i).length
      let done := r.fills.getD 0 0
      let a := r.base.toNat + ((r.p.toNat + (done + held) / max 1 r.slotWords.toNat) % max 1 r.slots.toNat) * r.slotBytes +
        64 * ((done + held) % max 1 r.slotWords.toNat)
      if !r.enabled || r.prodEp ≠ 3 then s.listRefused p a
      else
        let w := v.writeRun s.member (s.stepAt t) 3 a e.payload
        match w.block with
        | none => match w.refused with
          | some x => (s.setTile t w.tile).partFault p { cls := 0x10, unit := 3, addr := x }
          | none => s.setTile t w.tile
        | some _ => s.modTile t fun v => { v with ingress := v.ingress ++ [{
            pkt := { type := 1, vc := 1, dl := false, mcast := false, refwd := false, fence := false, ue := false, len := 64, gen := 0,
                     dst := 0, src := 0, dphys := 0, dstu := 0, srcu := 1, part := BitVec.ofNat 8 p.val, addr := 0, step := e.step, tag := 0,
                     payload := e.payload }
            ring := i, addr := BitVec.ofNat 22 a, began := s.beatAt t }] }
    let s1 := put s t
    if (s.part p).paired then put s1 (twinOf t) else s1
/-- What becomes of the entry a list stands at. -/
inductive EntryAct where
  | deliver
  | skip
  | wait
  deriving DecidableEq, Repr
/-- Deliver, skip or wait (R426, R427). [DEDUCED, log entry 50] -/
def Part.entryAct (q : Part) (e : DEntry) : EntryAct :=
  if q.job = .none then .deliver
  else if e.step.toNat < q.step.toNat || q.k ≤ e.beat.toNat then .skip
  else if e.step ≠ q.step then .wait
  else if e.beat.toNat < q.beatInStep then (if e.readBeat < q.slot * q.s + e.beat.toNat then .deliver else .skip)
  else if e.beat.toNat = q.beatInStep then .deliver
  else .wait
/-- A list delivers in order, until its next entry waits or the partition's 32 of the beat are used. [DEDUCED, log entry 50] -/
def State.walkList (p : PartId) (i : Fin 8) : Nat → Nat × State → Nat × State
  | 0, x => x
  | fuel + 1, (left, s) =>
    match (s.part p).dlists[i] with
    | none => (left, s)
    | some d => match d.entries.find? fun e => e.index = d.next with
      | none => (left, s)
      | some e =>
        let step := fun (s : State) (f : DList → DList) => s.modPart p fun q => { q with dlists := q.dlists.set i ((q.dlists[i]).map f) }
        let idle := decide ((s.part p).job = .none)
        match (s.part p).entryAct e with
        | .wait => (left, s)
        | .skip =>
          let missed := !decide (e.step.toNat < (s.part p).step.toNat) && !decide ((s.part p).k ≤ e.beat.toNat)
          State.walkList p i fuel (left, step s fun d => { d with next := d.next + 1, skipPend := d.skipPend + (if missed then 0 else 1) })
        | .deliver =>
          if left = 0 then (left, s)
          else
            let s1 := step (s.deliverEntry p e) fun d => { d with
              next := d.next + 1, cons := if idle then d.next + 1 else d.cons }
            State.walkList p i fuel (left - 1, s1)
/-- The lists of a partition in the boundary slot of the beat that begins: entries read in the beat that ended are delivered, and PROD is
read for the beat. A job delivers nothing while it is frozen or awaits its repeat. -/
def State.runLists (s : State) (p : PartId) : State :=
  let q := s.part p
  if !q.dlists.toList.any Option.isSome then s
  else
    let r := s.listReads p
    let s0 := r.modPart p fun q => { q with dlists := q.dlists.map fun x => x.map fun d => r.readList p d (q.beat - 1) }
    let still := q.job = .running && (q.freeze.isSome || q.repeatSlot.isSome)
    let s1 := if still then s0 else ((List.finRange 8).foldl (fun x i => State.walkList p i 64 x) (32, s0)).2
    let s2 := s1.modPart p fun q => { q with dlists := q.dlists.map fun x => x.map fun d => { d with
      prod := BitVec.ofNat 32 (leNat (s1.partRead p d.base.toNat 4)) } }
    s2.writeLists p

/-! The energy ledger (R458). -/

/-- The cap in force (R452): the one set, or the member's default for each half-die. -/
def State.capOf (s : State) (q : Part) : Nat := if q.capSet then q.capW else (match s.member with
  | .zh8 => 450
  | .zh4 => 475
  | .zh2 => 500) * q.hdList.length
/-- A partition's record of a beat. [DEDUCED, log entry 76] -/
def State.energyRec (s : State) (q : Part) : EnergyRec :=
  let trimmed := q.hdList.any fun hd => s.power.hd.toList.getD hd 0 = 1
  { beat := BitVec.ofNat 48 q.beat, attempt := if q.running then BitVec.ofNat 8 q.attempt else 0
    flags := BitVec.ofNat 8 (b2n (0 < q.bubbles) + 2 * b2n q.hardHit + 4 * b2n q.headroomHit + 8 * b2n trimmed)
    job := q.jobTag, energyUj := BitVec.ofNat 32 q.energyUj, peakW := BitVec.ofNat 16 q.peakW
    bubbleNs := BitVec.ofNat 32 q.bubbles, capW := BitVec.ofNat 32 (s.capOf q) }
/-- A ledger keeps 65,536 records. -/
def ledgerAdd (l : List EnergyRec) (r : EnergyRec) : List EnergyRec := (l ++ [r]).drop (l.length + 1 - 65536)
/-- The partition's record, and the device's with that of the lowest partition. [DEDUCED, log entry 76] -/
def State.bookEnergy (s : State) (p : PartId) (q : Part) : State :=
  let s1 := s.modPart p fun x => { x with
    energy := ledgerAdd x.energy (s.energyRec q), energyUj := 0, peakW := 0, bubbles := 0, hardHit := false, headroomHit := false
    dutyHeld := false }
  if (allParts.find? fun i => (s.part i).present) = some p then
    let w := s.power
    let r : EnergyRec := {
      beat := BitVec.ofNat 48 q.beat, attempt := 0, flags := BitVec.ofNat 8 (2 * b2n w.hardNow), job := 0
      energyUj := BitVec.ofNat 32 w.energyUj, peakW := BitVec.ofNat 16 w.peakW, bubbleNs := 0, capW := 0 }
    { s1 with deviceEnergy := ledgerAdd s1.deviceEnergy r, power := { s1.power with energyUj := 0, peakW := 0 } }
  else s1

/-! The boundary. -/

/-- A tile as the next beat begins: what BSYNC waits for, held descriptors bound, counts of the beat at zero (R101, R190). -/
def Tile.beatBegins (v : Tile) (issue : Bool) : Tile :=
  let bind := fun (q : EngQ) => { q with slots := q.slots.map fun x => if x.binding = .held then { x with binding := .bound } else x }
  let v1 := { v with
    deadlineFault := false, bubbles := 0, bsyncGo := v.bsyncGo && issue
    sport := v.sport.map fun c => { c with count := 0, stalled := false } }
  if issue then { v1 with bwaited := false, stamp := none, mxe := bind v.mxe, vxe := bind v.vxe, dma := bind v.dma, msg := bind v.msg } else v1
/-- A JOB_START that is due before the next default beat makes its own boundary (R49, R50). -/
def Part.startDue (q : Part) : Option Apply :=
  if q.running then none
  else q.applies.find? fun a => a.outcome = some true && a.changes.any (fun c => c.opcode = 0x0403) && decide (q.applyAt a ≤ q.t (q.beat + 1))
/-- Slot 0 is the next that every router of a partition counts (R183). -/
def State.slotZero (s : State) (p : PartId) : State :=
  s.forTiles (s.routersOf p) fun s t => s.modTile t fun v => { v with router := { v.router with slot := 0 } }
/-- The boundary slot that begins a beat, in the order of R52; scheduled issue waits for cycle 64 (State.atWork). [DEDUCED, log entry 83] -/
def State.boundary (s : State) (p : PartId) : State :=
  let q := s.part p
  match q.startDue with
  | some a =>
    let s0 := ((s.reachJob p (q.applyAt a + 8)).slotZero p).serveScans p
    let s1 := (s0.applyDue p (q.applyAt a)).attemptStart p
    let s2 := ((s1.seamSlot p).slotStart p true).boundaryFences p
    let s3 := (s2.runLists p).forTiles (s2.holders p) fun s t => (s.entryCopy p t).modTile t fun v => v.beatBegins true
    s3.modPart p fun q => { q with judged := false }
  | none =>
    let s0 := ((s.reachJob p (q.t (q.beat + 1) + 8)).slotZero p).forTiles (s.holders p) fun s t => s.modTile t fun v =>
      { v with bsyncGo := decide (v.seq.run = SeqRun.stalled SeqWait.bsync) && v.bwaited && !v.overrun }
    let s1 := (s0.latchResults p q).bookEnergy p q
    let s2 := s1.modPart p fun x => { x with beat := q.beat + 1, judged := false }
    let s3 := if q.job = .none then s2.cleanBits p else s2
    let s3' := s3.noteInserts p (q.t (q.beat + 1))
    let s4 := s3'.slotBoundary p (s3'.part p)
    let s5 := ((s4.serveScans p).applyDue p (q.t (q.beat + 1))).boundaryFences p
    let s6 := s5.runLists p
    s6.forTiles (s6.holders p) fun s t => s.modTile t fun v => v.beatBegins (s.part p).mayIssue
/-- What must have come first: the beat's deadline evaluation, the sample at T(K), the outcome at the cutoff. [DEDUCED, log entry 83] -/
def Part.boundaryReady (q : Part) : Bool :=
  q.present && (q.startDue.isSome || q.judged) && !(q.attempting && (
    (q.beatInStep + 1 = q.k && q.latch.sampled.isNone) || (q.beatInStep = q.k && q.latch.fixed.isNone && !q.isShadow)))
/-- The value an uncorrectable word of the boundary slot reads as (R6, R376). The image that an entry buffer holds stands as it is. [DESIGN CHOICE, log entry 86] -/
def State.boundaryUpset (s : State) (b : BoundaryEcc) : State :=
  match b with
  | .entryBuffer _ _ _ => s
  | .corrected t w => match s.erasedEcc (.corrected w) with
    | .dram dpa _ => if s.hasTile t then s.upsetDram dpa.toNat else s
    | _ => s
  | .carrySave t a syn => if s.hasTile t then s.upset t (.scratchpad a syn) else s
  | .memory dpa _ => s.upsetDram dpa.toNat
/-- A word of partition memory that is uncorrectable in the boundary slot (R169). -/
def State.boundaryDram (s : State) (p : PartId) (dpa : BitVec 42) (sym : BitVec 18) : State :=
  ((s.unitFault (some p) { cls := 1, unit := 4, addr := dpa.toNat, bit := sym.toNat }).clearPart p 1).markRow (s.dramLoc dpa.toNat) sym 1
/-- What an uncorrectable word of the boundary slot clears and records (R163, R169, R362, R376): of an entry buffer, the tile's bit; of a carry
half and of DRAM, the partition's. A corrected word is counted (R168). [DESIGN CHOICE, log entry 87] -/
def State.boundaryEcc (s : State) (p : PartId) (b : BoundaryEcc) : State :=
  match b with
  | .entryBuffer t a syn =>
    if s.hasTile t then s.tileFault t { cls := 2, addr := 3 * 2 ^ 60 + a.toNat, bit := 0xFFFF0000 + syn.toNat } else s
  | .carrySave t a syn =>
    if s.hasTile t then
      (s.tileRecord t { cls := 2, addr := physAddr (s.tile t).carries (s.stepAt t) a.toNat, bit := 0xFFFF0000 + syn.toNat }).clearPart p 2
    else s
  | .memory dpa sym => s.boundaryDram p dpa (sym ||| s.erasedSyms (s.dramLoc dpa.toNat))
  | .corrected t w =>
    if s.hasTile t then match s.erasedEcc (.corrected w) with
      | .dram dpa sym => s.boundaryDram p dpa sym
      | .corrected w => s.correct t w
      | _ => s
    else s
/-- BEAT_BOUNDARY (R52). [DESIGN CHOICE, log entry 2; DESIGN CHOICE, log entry 4; DEDUCED, log entry 83] -/
def execBeatBoundary (p : PartId) (bad : List BoundaryEcc) (s : State) : Host.Outcome State Fault Refusal :=
  .next (if (s.part p).boundaryReady then
      bad.foldl (fun s b => s.boundaryEcc p b) ((bad.foldl (fun s b => s.boundaryUpset b) s).boundary p)
    else s)

end Sys2Proof.Machine
end

