-- ==== Sys2Proof/Machine/Faults.lean ====
section
/-!
DEFINITION. Pintle's work on fault records (R333, R336, R343, R349, R353, R357 to R361), the release and the abandoning of a fast path (R337,
R340), in-field tests (R344 to R346), the defect log (R331) and the hang window (R364, R365).
-/

namespace Sys2Proof.Machine

/-! Records. -/

/-- A Pintle core runs and takes records (R372, R373). -/
def State.pintleUp (s : State) : Bool := s.boot.phase ≠ 0 && !s.power.cycleReq
/-- The partition that a record names. -/
def FaultRec.part (r : FaultRec) : PartId := ⟨r.context.toNat / 2 ^ 60 % 16, Nat.mod_lt _ (by decide)⟩
/-- PARTV of FLAGS (R359). -/
def FaultRec.partv (r : FaultRec) : Bool := bitAt r.flags.toNat 1
/-- CLEAN of FLAGS. -/
def FaultRec.clean (r : FaultRec) : Bool := bitAt r.flags.toNat 0
/-- COMMIT of FLAGS. [DEDUCED, log entry 51] -/
def FaultRec.commit (r : FaultRec) : Bool := bitAt r.flags.toNat 2
/-- The tile that a record comes from. -/
def FaultRec.tile (r : FaultRec) : Option TileId :=
  if r.unit = 0 && r.pcoord ≠ 0xFFFF then some ⟨BitVec.ofNat 6 (r.pcoord.toNat / 256), BitVec.ofNat 5 r.pcoord.toNat⟩ else none
/-- Whether the latch of the slot in which a record was raised closed, for a record stamped after T(K); none while that is open (R360). [DEDUCED, log entry 51] -/
def State.slotClosed (s : State) (r : FaultRec) : Option Bool :=
  let q := s.part r.part
  let k := r.beat.toNat / max 1 q.s
  if !r.partv || r.attempt = 0 || (r.stamp.toNat : Int) + q.offset ≤ q.t (k * q.s + q.k) then some false
  else if k = q.slot && q.attempting then q.latch.fixed
  else some (q.stepLog.any fun x => x.slot.toNat = k && (x.outcome = 1 || x.outcome = 4))
/-- The next record that Pintle can decide on: one that it holds and whose slot is decided, else the head of the inbox. A head whose slot is
open moves to the held records. -/
def State.nextRecord (s : State) : Option FaultRec × State :=
  let mark := fun (r : FaultRec) => if s.slotClosed r = some true then { r with flags := r.flags ||| 4 } else r
  match s.faultHeld.find? fun r => (s.slotClosed r).isSome with
  | some r => (some (mark r), { s with faultHeld := s.faultHeld.erase r })
  | none => match s.inbox with
    | [] => (none, s)
    | r :: rs =>
      if (s.slotClosed r).isSome then (some (mark r), { s with inbox := rs })
      else (none, { s with inbox := rs, faultHeld := s.faultHeld ++ [r] })

/-! Fences. -/

/-- What a fence of a tile means for its row (R336). -/
inductive FencePlan where
  | keep
  | shift
  | slow
  deriving DecidableEq, Repr
/-- A shift of a row waits for the next beat boundary. -/
def State.rowPending (s : State) (t : TileId) : Bool := match s.partOf t with
  | some p => (s.part p).fenceNext.any fun f => (f.2 = 3 || f.2 = 5) && s.member.hdOf f.1 = s.member.hdOf t &&
      s.leadRow (s.member.hdOf t) (rowOf f.1) = s.leadRow (s.member.hdOf t) (rowOf t)
  | none => false
/-- The outcome that R336 gives. -/
def State.fencePlan (s : State) (t : TileId) : FencePlan :=
  match (s.row (s.member.hdOf t) (rowOf t)).kind with
  | .whole => if colOf t = 8 then .keep else if s.rowPending t then .slow else .shift
  | .degraded => .keep
  | _ => if (s.nOf t).isSome then .slow else .keep
/-- A row of a half-die in no partition leaves a tile: it shifts, or loses its spare; a row that is not WHOLE and places a position on the tile is
excluded (R24, R342). [DEDUCED, log entry 53] -/
def State.shiftIdle (s : State) (t : TileId) : State :=
  let hd := s.member.hdOf t
  if (s.row hd (rowOf t)).kind ≠ .whole then
    if (s.heldKey t).isNone then s
    else
      let s1 := s.excludeRows [(hd, rowOf t)]
      s1.replan (s1.defaultMap s1.placement hd)
  else if colOf t = 8 then s.setRows hd (rowOf t) { kind := .noSpare }
  else (s.setRows hd (rowOf t) { kind := .shifted, col := colOf t }).replan (s.placeRow s.placement hd (rowOf t) (some (colOf t)))
/-- A tile in no partition that may hold no position leaves its row, which keeps its spare. [DEDUCED, log entry 53] -/
def State.leaveIdleTile (s : State) (t : TileId) : State := if colOf t = 8 && (s.row (s.member.hdOf t) (rowOf t)).kind = .whole then s else s.shiftIdle t
/-- A fence of a tile in no partition takes effect at once. [DEDUCED, log entry 53] -/
def State.fenceIdle (s : State) (t : TileId) (router : Bool) : State := (s.fenceTile t router).shiftIdle t
/-- A change of a tile's fences at the next beat boundary of its partition, with the code of `Part.fenceNext`. -/
def State.fenceSoon (s : State) (t : TileId) (code : Nat) : State := match s.partOf t with
  | some p => s.modPart p fun q => { q with fenceNext := q.fenceNext ++ [(t, code)] }
  | none => match code with
    | 0 => s.modTile t fun v => { v with ward := { v.ward with tfence := false } }
    | 4 => s.modTile t fun v => { v with frozen := true, ward := { v.ward with diag := true, test := true } }
    | 5 => s.leaveIdleTile t
    | c => s.fenceIdle t (c = 2)
/-- The slow path for a row that cannot be shifted; a fast path that has not switched is abandoned with it (R340, R341, R353). [DEDUCED, log entry 53] -/
def State.slowRow (s : State) (p : PartId) (t : TileId) (cls : Byte) : State :=
  let hd := s.member.hdOf t
  let rs := (s.part p).repairs.filter fun r => r.kind = 0 && !r.switched
  let s1 := (rs.filterMap (·.orig)).foldl (fun s r => s.logFault { r with severity := 2, action := 9 }) s
  let s2 := s1.slowPath p ((hd, rowOf t) :: rs.map fun r => (r.hd.val, r.row)) hd cls
  (rs.foldl (fun s r => s.fenceSoon r.tile 1) s2).fenceSoon t 1
/-- A TFENCE that Pintle decides on (R336, R353), and its ACTION. [DEDUCED, log entry 53] -/
def State.fenceFor (s : State) (t : TileId) (cls : Byte) (orig : Option FaultRec) (commit : Bool) : State × Byte :=
  match s.partOf t, s.fencePlan t with
  | none, _ => (s.fenceIdle t false, 6)
  | some _, .keep => (s.fenceSoon t 1, 6)
  | some p, .slow => (s.slowRow p t cls, 9)
  | some p, .shift =>
    let rep := s.shiftOf t 0 cls orig
    if (s.part p).running && !commit then
      let (s1, ok) := s.fastPath p [rep]
      (s1, if ok then 7 else 9)
    else if s.planOk p [rep] then (s.placeLater p t, 7)
    else (s.slowRow p t cls, 9)
/-- The TILE record of a fence (R330). -/
def State.tileDefect (s : State) (t : TileId) (source cls flags addr : Nat) : State :=
  s.logDefect { kind := 1, source := BitVec.ofNat 8 source, cls := BitVec.ofNat 8 cls, flags := BitVec.ofNat 8 flags
                wher := tileWhere s.member t, detail := BitVec.ofNat 32 addr }
/-- A router fence (R343): its half-die retired, and every partition whose paths it breaks takes the slow path. -/
def State.routerFence (s : State) (t : TileId) (cls : Byte) : State :=
  let hd := s.member.hdOf t
  let s1 : State := { s with retired := s.retired ||| BitVec.ofNat 16 (2 ^ hd) }
  let fenced := s1.fenceTile t true
  let broken := allParts.filter fun p => (s1.part p).present && ((s1.part p).hasHd hd || !fenced.pathsOk p)
  broken.foldl (fun s p => s.slowPath p [] hd cls) (s1.fenceSoon t 2)

/-! Pintle's decision. -/

/-- SEVERITY, ACTION and LEVEL (R357, R358, R366). -/
structure Verdict where
  severity : Byte
  action : Byte
  level : Byte := 0
  deriving DecidableEq, Repr
/-- The class is one that fences its tile (R333): SRAM of scratchpad, IMEM or accumulator store, or droop. -/
def FaultRec.fences (r : FaultRec) : Bool := r.cls = 0x12 || (r.cls = 0x02 && r.addr.toNat / 2 ^ 60 < 3)
/-- The fault sends or sent HALT (R265, R268, R321), or broke the third attempt of a step (R270). -/
def State.halts (s : State) (r : FaultRec) : Bool :=
  let q := s.part r.part
  r.partv && ((r.clean && (r.commit || r.attempt = 3)) || (q.job = .running && (
    (r.cls = 0x0C && r.addr.toNat % 256 = 2) ||
    (r.cls = 0x09 && q.jobPorts.any fun i => i.val = r.addr.toNat / 256 % 256))))
/-- A descriptor was completed with a failing status (R366, level 1). -/
def FaultRec.abandoned (r : FaultRec) : Bool :=
  r.clean && (((r.cls = 0x07 || r.cls = 0x08) && r.context.toNat / 2 ^ 31 % 8 ≠ 5) || (r.cls = 0x06 && r.addr.toNat % 256 = 6))
/-- The highest reset that a fault has led to (R357 to R359): of the partition, else of the tile, at or after the record. [DEDUCED, log entry 51] -/
def State.ladderOf (s : State) (r : FaultRec) : Option Ladder :=
  let after := fun (l : Ladder) => decide (r.stamp.toNat ≤ l.at_)
  ((if r.partv && r.clean then (s.part r.part).ladder else none).filter after).or ((r.tile.bind fun t => (s.tile t).ladder).filter after)
/-- A row has been remapped onto a spare, and has not failed since (R170, R330). -/
def State.rowRepaired (s : State) (loc : U64) : Bool :=
  !s.rowsMarked.contains loc && (s.defects ++ s.defectQueue).any fun d => d.kind = 4 && bitAt d.flags.toNat 0 && d.wher = loc
/-- A lane of a port is fenced: its symbols are on the spare, or the port is narrowed (R300, R301). -/
def State.laneLost (s : State) (port : Nat) : Bool :=
  (List.finRange 16).any fun i => decide (i.val = port % 2 ^ 16) && (s.port i).lanes.toList.any fun l => l.state = .fenced
/-- The decision on a fault that fences nothing. [DEDUCED, log entry 51] -/
def State.verdict (s : State) (r : FaultRec) : Verdict :=
  let sev : Byte := if s.halts r then 2 else if r.clean then 1 else 0
  match s.ladderOf r with
  | some l => { severity := if l.severity < sev then sev else l.severity, action := l.action, level := l.level }
  | none =>
  let act : Byte :=
    if s.halts r then 0x0A
    else if r.cls = 0x01 && s.channelRetired (s.dramLoc r.addr.toNat) then 0x11
    else if r.cls = 0x01 && s.rowRepaired (s.dramLoc r.addr.toNat) then 0x10
    else if r.cls = 0x0A && r.unit = 2 && s.laneLost r.addr.toNat then 0x0E
    else if r.cls = 0x09 then 0x0F
    else if r.cls = 0x18 then 0x13
    else if (r.cls = 0x14 && r.unit = 0) || r.cls = 0x15 || r.cls = 0x16 then 0x06
    else if r.abandoned then 0x02
    else if r.clean then 0x01 else 0x00
  { severity := sev, action := act, level := if r.abandoned then 1 else 0 }
/-- The same pair mismatched in the attempt before (R349). -/
def State.pairTwice (s : State) (t : TileId) (r : FaultRec) : Bool :=
  r.cls = 0x03 && (s.part r.part).pairMiss.any fun x => x.1 = tileKey t && x.2.1 = r.step && x.2.2 + 1 = r.attempt.toNat
/-- Both tiles of a pair fenced and the pair shifted (R349). [DEDUCED, log entry 29] -/
def State.fencePair (s : State) (t : TileId) (r : FaultRec) : State × Byte :=
  let u := twinOf t
  let s0 := (s.tileDefect t 3 3 8 r.addr.toNat).tileDefect u 3 3 8 r.addr.toNat
  let p := r.part
  match s.fencePlan t with
  | .shift =>
    if (s.part p).running && !r.commit then
      let (s1, ok) := s0.fastPath p [s.shiftOf t 0 r.cls (some r), s.shiftOf u 0 r.cls none]
      (s1, if ok then 7 else 9)
    else if s.planOk p [s.shiftOf t 0 r.cls none, s.shiftOf u 0 r.cls none] then ((s0.placeLater p t).fenceSoon u 1, 7)
    else ((s0.slowRow p t r.cls).fenceSoon u 1, 9)
  | _ => ((s0.slowRow p t r.cls).fenceSoon u 1, 9)
/-- SEVERITY of a fault whose ACTION is the slow path or a router fence: JOB when a job ran. [DEDUCED, log entry 51] -/
def State.graver (s : State) (r : FaultRec) (v : Verdict) : Byte :=
  if r.partv && (s.part r.part).running then 2 else v.severity
/-- What Pintle does about a record, and its decision. [DEDUCED, log entry 51] -/
def State.decideFault (s : State) (r : FaultRec) : State × Verdict :=
  let v := s.verdict r
  match r.tile with
  | none => (s, v)
  | some t =>
    if r.cls = 0x02 && r.addr.toNat / 2 ^ 60 = 5 then
      let s1 := s.logDefect { kind := 2, source := 3, cls := r.cls, wher := tileWhere s.member t
                              detail := BitVec.ofNat 32 (bitsOf r.addr.toNat 4 3 + 4 * bitsOf r.addr.toNat 2 0) }
      (s1.routerFence t r.cls, { v with severity := s.graver r v, action := 8 })
    else if s.pairTwice t r && !(s.tile t).ward.tfence then
      let (s1, a) := s.fencePair t r
      (s1, { v with severity := if a = 9 then s.graver r v else v.severity, action := a })
    else if !r.fences || (s.tile t).ward.tfence then (s, v)
    else
      let planned := match s.partOf t with
        | some p => (s.part p).repairs.any (fun x => x.tile = t) || (s.part p).fenceNext.any fun f => f.1 = t
        | none => false
      if planned then (s, { v with action := 7 })
      else
        let s0 := s.tileDefect t 3 r.cls.toNat 0 r.addr.toNat
        let (s1, a) := s0.fenceFor t r.cls (some r) r.commit
        (s1, { v with severity := if a = 9 then s.graver r v else v.severity, action := a })
/-- A record decided, logged and posted (R360, R361). -/
def State.takeRecord (s : State) (r : FaultRec) : State :=
  let (s1, v) := s.decideFault r
  s1.logFault { r with severity := v.severity, action := v.action, level := v.level }
/-- FAULT_INBOX_DRAIN (R361). -/
def execFaultInboxDrain (s : State) : Host.Outcome State Fault Refusal :=
  .next (if s.pintleUp then
    match s.nextRecord with
    | (some r, s1) => s1.takeRecord r
    | (none, s1) => s1
  else s)

/-! The fast path's end. -/

/-- A tile whose row was shifted for its test is tested (R345). [DEDUCED, log entry 54] -/
def Tile.startTest (v : Tile) : Tile := { v with ward := { v.ward with diag := true, test := true } }
/-- PARTITION_RELEASE (R337, stage 5; R345). [DESIGN CHOICE, log entry 28] -/
def execPartitionRelease (p : PartId) (s : State) : Host.Outcome State Fault Refusal :=
  let q := s.part p
  .next (if q.placing then
    let tested := (q.repairs.filter fun r => r.switched && r.kind = 1).map (·.tile)
    let s1 := s.modPart p fun q => { q with placing := false, repairs := q.repairs.filter fun r => !r.switched }
    s1.forTiles tested fun s t => s.modTile t Tile.startTest
  else s)
/-- FAST_PATH_ABANDON (R340). [DEDUCED, log entry 52] -/
def execFastPathAbandon (p : PartId) (s : State) : Host.Outcome State Fault Refusal :=
  .next (if (s.part p).repairs.any (fun r => r.kind = 0) then s.fastAbandon p else s)

/-! In-field tests. -/

/-- The other tile of a pair is still fenced: the pair has not passed (R349). -/
def State.mateFenced (s : State) (p : PartId) (t : TileId) : Bool :=
  let u : TileId := if rowOf t % 2 = 0 then twinOf t else { t with py := t.py - 1 }
  (s.part p).paired && (s.tile u).ward.tfence && !(s.part p).fenceNext.contains (u, 0)
/-- A passed test (R346): defects cleared, TFENCE lifted, a shifted row waits to be restored, once both tiles of a pair have passed (R349); a NOSPARE row is whole. -/
def State.testPassed (s : State) (t : TileId) : State :=
  let hd := s.member.hdOf t
  let s1 := (s.defectsAt 1 (tileWhere s.member t)).foldl (fun s d =>
    s.logDefect { kind := 7, source := 2, wher := d.wher, detail := d.seq }) s
  let s2 := if (s1.tile t).ward.tfence then s1.fenceSoon t 0 else s1
  let row := s2.row hd (rowOf t)
  if (row.kind = .shifted || row.kind = .testing) && row.col = colOf t then
    let s3 := s2.setRows hd (rowOf t) { row with kind := .shifted }
    let at_ : HdId × Nat := (⟨hd % 16, Nat.mod_lt _ (by decide)⟩, s3.leadRow hd (rowOf t))
    match s3.partOf t with
    | some p => if s3.mateFenced p t then s3 else s3.modPart p fun q => { q with restoreRows := if q.restoreRows.contains at_ then q.restoreRows else q.restoreRows ++ [at_] }
    | none => (s3.setRows hd (rowOf t) {}).replan (s3.placeRow s3.placement hd (rowOf t) none)
  else if row.kind = .noSpare && colOf t = 8 then s2.setRows hd (rowOf t) {}
  else s2
/-- FC_BIST_FAIL of a failing record of a tile (R362, R393). -/
def bistArgs (b : BistRecord) : FaultArgs := { cls := 0x14, addr := b.addr.toNat, bit := b.bits.toNat, clears := false }
/-- A failed test (R333, R346): FC_BIST_FAIL, the fence, and a TILE record; a TESTING row becomes SHIFTED. -/
def State.testFailed (s : State) (t : TileId) (b : BistRecord) : State :=
  let s0 := (s.tileFault t (bistArgs b)).tileDefect t 2 0x14 0 b.addr.toNat
  let hd := s.member.hdOf t
  let row := s0.row hd (rowOf t)
  let s1 := if row.kind = .testing then s0.setRows hd (rowOf t) { row with kind := .shifted } else s0
  (s1.fenceFor t 0x14 none false).1
/-- The end of a test: marks lifted, scratchpad zero as BIST leaves it (R387), IMEM undefined. [DEDUCED, log entry 54] -/
def Tile.endTest (v : Tile) : Tile :=
  { v with ward := { v.ward with diag := false, test := false }, needsTest := false, spad := {}, imem := { epoch := v.imem.epoch + 1 } }
/-- The result of a test on a tile: every failing record is a fault (R393). [DEDUCED, log entry 54] -/
def State.testDone (s : State) (t : TileId) (rs : List BistRecord) : State :=
  let s1 := { (s.modTile t Tile.endTest) with testResults := s.testResults ++ rs }
  match rs.filter fun b => b.result = 1 with
  | b :: more => more.foldl (fun s b => s.tileFault t (bistArgs b)) (s1.testFailed t b)
  | [] => s1.testPassed t
/-- IN_FIELD_TEST_DONE (R346). -/
def execInFieldTestDone (t : TileId) (results : List BistRecord) (s : State) : Host.Outcome State Fault Refusal :=
  if s.hasTile t then .next (if (s.tile t).ward.test then s.testDone t results else s) else .fault .noSuchUnit

/-! The defect log. -/

/-- Writing moved to the other copy, with the active defects alone (R331). -/
def State.compactDefects (s : State) : State :=
  { s with
    defects := s.defects.filter s.defectActive, defectGen := s.defectGen + 1
    defectOther := (s.defects, s.defectSeq, s.defectGen) }
/-- The record that waits first, appended; a full copy is compacted into the other, and a log still full is reported. -/
def State.appendDefect (s : State) (d : Defect) : State :=
  let s1 := if s.defects.length < 4095 then s else s.compactDefects
  if s1.defects.length < 4095 then { s1 with defects := s1.defects ++ [{ d with seq := s1.defectSeq }], defectSeq := s1.defectSeq + 1 }
  else
    ({ s1 with boot := { s1.boot with unlogged := s1.boot.unlogged ++ if d.kind = 7 then [] else [d] } } : State).postAdmin 6 2 (leBytes 8 d.wher.toNat)
/-- A freeze that repairs a partition is in progress: no flash is written (R331). -/
def State.repairFreeze (s : State) : Bool :=
  allParts.any fun p => (s.part p).placing || (s.part p).slowDue || (s.part p).repairs.any (·.fenced)
/-- DEFECT_LOG_APPEND (R331). -/
def execDefectLogAppend (s : State) : Host.Outcome State Fault Refusal :=
  .next (match s.defectQueue with
    | [] => s
    | d :: ds => if s.repairFreeze then s else ({ s with defectQueue := ds } : State).appendDefect d)

/-! The hang window. -/

/-- The engine that has stood still longest, on a tie the lower code, with its beats. -/
def longestStill (still : List (U32 × Nat)) : Nat × Nat :=
  ((still.zip (List.range 6)).foldl (fun (best : Nat × Nat) x => if best.2 < x.1.2 then (x.2, x.1.2) else best) (0, 0))
/-- The oldest context slot of an engine's queue, with the address that enqueued it. -/
def Tile.oldest (v : Tile) (code : Nat) : Nat × Nat :=
  let e : Option Eng := match code with
    | 1 => some .mxe
    | 2 => some .vxe
    | 3 => some .dma
    | 4 => some .msg
    | _ => none
  match e with
  | some e => match (v.q e).slots with
    | x :: _ => (x.num.val, x.pc.toNat)
    | [] => (0, 0)
  | none => (0, if code = 0 then v.seq.pc.toNat else 0)
/-- The window of a tile has run out in the beat whose deadlines are judged. [DEDUCED, log entry 43] -/
def State.hangOut (s : State) (p : PartId) (t : TileId) : Bool :=
  let q := s.part p
  let v := s.tile t
  q.judged && s.beatCounts p t && !v.deadlineFault && v.still.any fun x => q.hangW ≤ x.2
/-- FC_HANG of the hang window (R364, R365). -/
def State.hangFault (s : State) (t : TileId) : State :=
  let v := s.tile t
  let (code, beats) := longestStill v.still
  let (slot, pc) := v.oldest code
  (s.tileFault t { cls := 6, eng := code, slot := slot, pc := pc, addr := 1 + 256 * min 255 beats }).modTile t fun v =>
    { v with deadlineFault := true }
/-- HANG_WINDOW_EXPIRY (R364). [DEDUCED, log entry 43] -/
def execHangWindowExpiry (t : TileId) (s : State) : Host.Outcome State Fault Refusal :=
  if s.hasTile t then
    .next (match s.partOf t with
      | some p => if s.hangOut p t && (s.nOf t).isSome then s.hangFault t else s
      | none => s)
  else .fault .noSuchUnit

end Sys2Proof.Machine
end

