-- ==== Sys2Proof/Machine/Resets.lean ====
section
/-!
DEFINITION. The reset ladder below the device (R366 to R369, R371): engines at a quiescence point, tiles, clusters, partitions, and what an
unloaded partition is.
-/

namespace Sys2Proof.Machine

/-! Tiles. -/

/-- Level 2 on an engine, the stream port or the message unit (R366): its pipeline and queue, and the requests it has not injected; the
counts stay. -/
def Tile.resetEngine (v : Tile) (code : Nat) : Tile :=
  let mine := fun (w : Waiting) => bitsOf w.pkt.tag.toNat 15 13 = code
  let v1 := { v with inject := v.inject.filter fun w => !mine w, held := v.held.filter fun w => !mine w }
  match code with
  | 0 => { v1 with seq := {} }
  | 1 => { v1 with mxe := { v1.mxe with slots := [] }, pass := {} }
  | 2 => { v1 with vxe := { v1.vxe with slots := [] }, vout := none }
  | 3 => { v1 with dma := { v1.dma with slots := [] } }
  | 4 => { v1 with msg := { v1.msg with slots := [] } }
  | 5 => v1.streamClear
  | _ => v1
/-- Level 3 on a tile (R121, R324, R366): sequencer, engines, stream port, message unit, entry buffer, counters; IMEM, fences and router
stay. -/
def Tile.levelThree (v : Tile) : Tile :=
  { v.zeroDynamic.discard with
    seq := {}, mxe := {}, vxe := {}, dma := {}, msg := {}, sport := Vector.replicate 16 {}, steer := Vector.replicate 8 {}
    entry := none, counters := {}, progress := {}, still := [(0, 0), (0, 0), (0, 0), (0, 0), (0, 0), (0, 0)], ward := { v.ward with nfault := 0 }
    issued := false, overrun := false, bwaited := false, stamp := none, bsyncGo := false, deadlineFault := false, frozen := true
    needsTest := true, resetDue := 0 }
/-- A reset noted for the records of the faults that led to it (R357 to R359). -/
def Tile.climb (v : Tile) (action severity level : Byte) (at_ : Nat) : Tile := { v with ladder := some ⟨action, severity, level, at_⟩ }
/-- A tile whose cluster was switched off and on (R366): nothing is left but the marks that Pintle keeps. -/
def Tile.powered (v : Tile) : Tile :=
  { imem := { epoch := v.imem.epoch + 1 }, spad := { epoch := v.spad.epoch + 1 }, needsTest := true, program := []
    ward := { rfence := v.ward.rfence, tfence := v.ward.tfence, twin := v.ward.twin }, ladder := v.ladder }
/-- A tile without its program (PROG_UNLOAD): windows closed, rings, carries and circuits gone, the sequencer held. -/
def Tile.unprogram (v : Tile) : Tile :=
  { v.zeroDynamic.discard with
    seq := {}, mxe := {}, vxe := {}, dma := {}, msg := {}, windows := Vector.replicate 16 {}, rings := Vector.replicate 16 {}, carries := []
    sport := Vector.replicate 16 {}, steer := Vector.replicate 8 {}, entry := none, program := [], issued := false, overrun := false
    bwaited := false, stamp := none, bsyncGo := false, deadlineFault := false, unclean := none, frozen := true, router := {} }
/-- Level 4 on a tile (R366): as level 3, its program gone and its scratchpad zero. -/
def Tile.levelFour (v : Tile) : Tile :=
  { v.unprogram with
    imem := { epoch := v.imem.epoch + 1 }, spad := {}, counters := {}, progress := {}
    still := [(0, 0), (0, 0), (0, 0), (0, 0), (0, 0), (0, 0)], resetDue := 0
    ward := { rfence := v.ward.rfence, tfence := v.ward.tfence, twin := v.ward.twin, diag := v.ward.diag } }

/-! Partitions. -/

/-- The channel ends of a partition that a condition picks out are reset (R248). -/
def State.resetChans (s : State) (p : PartId) (which : Nat → Chan → Bool) : State :=
  s.modChans p fun k c => if c.state ≠ chFree && which k c then c.afterReset else c
/-- The bindings of a partition end (PROG_UNLOAD). -/
def State.endBindings (s : State) (p : PartId) : State :=
  (s.bindings.filter fun b => b.2.part = p && !b.2.ended).foldl (fun s b => s.svcEnd b.1) s
/-- The default beat (R50): P = 100 µs, S = 1, T0 = 0. -/
def State.rebeat (s : State) (p : PartId) : State :=
  s.modPart p fun q => { q with pUs := 100, s := 1, t0 := 0, beat := ((s.now + q.offset) / 100000).toNat, judged := false }
/-- A partition without job and program set. -/
def Part.unloaded (q : Part) : Part :=
  { q with
    active := false, job := .none, freeze := none, program := none, reload := false, released := false, draining := false
    abandoning := false, latch := {}, unclean := none, repeatSlot := none, inserted := false, escalating := false, slotScreen := false
    attempt := 0, step := 0, repairs := [], placing := false, tests := [], insertQ := none, pairMiss := [], carrySaving := false
    holdNamed := false, syncHold := false, syncErrPs := 0, syncGood := true, duty := 0, dutyHeld := false, faults := 0 }
/-- What the windows of a tile had accepted and still hold is answered as they close (R176, R178). [DESIGN CHOICE, log entry 24] -/
def State.answerHeld (s : State) (t : TileId) : State :=
  ((s.tile t).ingress.map (·.pkt) ++ (s.tile t).bankWrites.map (·.pkt)).foldl (fun s q => s.reply t q stRingTimeout [] false) s
/-- The program set of a partition unloaded (PROG_UNLOAD). -/
def State.unloadPart (s : State) (p : PartId) : State :=
  let s1 := s.forTiles (s.tilesOfPart p) fun s t => (s.answerHeld t).modTile t Tile.unprogram
  (((s1.resetChans p fun _ _ => true).endBindings p).modPart p Part.unloaded).rebeat p
/-- Every apply of a partition aborted and answered, its pending set emptied. -/
def State.abortApplies (s : State) (p : PartId) : State :=
  let s1 := ((s.part p).applies.filter fun a => !a.held && !a.committed).foldl (fun s a => s.answerApply a stageAborted) s
  s1.modPart p fun q => { q with apply := none, direct := [], pending := [] }
/-- The class that HALT carries when a reset ends a job: that of the first fault of the tile, else of the attempt. -/
def State.origClass (s : State) (p : PartId) (t : Option TileId) : Byte :=
  match t.bind fun t => (s.tile t).unclean with
  | some u => u.cls
  | none => match (s.part p).unclean with
    | some u => u.cls
    | none => (s.part p).latch.value.cause
/-- A job that a reset ends (R369): the partition freezes; in a job of several modules HALT goes out. [DEDUCED, log entry 55] -/
def State.resetFreeze (s : State) (p : PartId) (cls : Byte) : State :=
  if (s.part p).running then
    let s0 := if (s.part p).oneModule then s else s.sendHalt p cls (s.part p).coord none
    let s1 := ((s0.logHalted p cls 3).freezePart p .reset).persistRollback p
    s1.postPart p 3 1 (s1.part p).lastStep
  else s
/-- The effects of a tile's reset on the job (R248, R369). -/
def State.tileLost (s : State) (t : TileId) : State :=
  match s.partOf t, s.nOf t with
  | some p, some n =>
    let cls := s.origClass p (some t)
    (s.resetChans p fun k c => k < 2 ^ 20 && c.owner.toNat = n).resetFreeze p cls
  | _, _ => s

/-! Level 2. -/

/-- A quiescence point of a partition (R367): the boundary slot of a repeat, a switch or a freeze. [DEDUCED, log entry 55] -/
def Part.quiescent (q : Part) : Bool := q.freeze.isSome || q.placing || (q.beatInStep = 0 && 1 < q.attempt && q.repeatSlot.isNone)
/-- A unit not idle at cycle 40 is reset by its ward (R366, R367). At a repeat the entry reload puts its queue back, and the bit that was clear in the
attempt that broke is set again (R207, R259); elsewhere the tile's clean bit is cleared (R369). A message unit ends the job (R369). [DEDUCED, log entry 55] -/
def State.engineReset (p : PartId) (s : State) (x : TileId × BitVec 3) : State :=
  let repeats := (s.part p).freeze.isNone && !(s.part p).placing
  let s0 := s.modTile x.1 fun v =>
    let v1 := (v.resetEngine x.2.toNat).climb 0x03 1 2 s.now
    if repeats then (match v.entry with
      | some e => v1.reload e
      | none => v1)
    else v1
  let s1 := if repeats then s0 else s0.clearTile x.1 6
  if x.2 = 4 then s1.tileLost x.1 else s1
/-- QUIESCENCE_CHECK (R367, R368): units that are still not idle at cycle 60 hold their tiles frozen, for Pintle to reset. -/
def State.quiesceCheck (s : State) (p : PartId) (notIdle stillBusy : List (TileId × BitVec 3)) : State :=
  let q := s.part p
  let hs := s.holders p
  let s1 := (s.reachJob p (q.t q.beat + 60))
  let s2 := (notIdle.filter fun x => hs.contains x.1).foldl (State.engineReset p) s1
  s2.forTiles ((stillBusy.map (·.1)).filter hs.contains) fun s t => s.modTile t fun v => { v with frozen := true, resetDue := max 1 v.resetDue }
/-- QUIESCENCE_CHECK (R367). [DESIGN CHOICE, log entry 28; DEDUCED, log entry 55] -/
def execQuiescenceCheck (p : PartId) (notIdle stillBusy : List (TileId × BitVec 3)) (s : State) : Host.Outcome State Fault Refusal :=
  .next (if (s.part p).present && (s.part p).quiescent && !(s.part p).judged then s.quiesceCheck p notIdle stillBusy else s)

/-! Level 3. -/

/-- The key under which a RESET of a tile waits. -/
def tileResetKey (t : TileId) : Nat := 2 ^ 21 + tileKey t
/-- A RESET of a tile answered. -/
def State.resetAnswered (s : State) (t : TileId) : State :=
  s.answer (fun w => !w.queued && w.opcode = 0x080B && w.key = tileResetKey t) okStatus 0 []
/-- The position of a tile that was reset moves to another, by a shift of its row or the slow path (R368). -/
def State.unplace (s : State) (t : TileId) : State :=
  match s.partOf t, s.fencePlan t with
  | none, _ => s.leaveIdleTile t
  | some _, .keep => s
  | some p, .slow => if (s.nOf t).isSome then s.slowPath p [(s.member.hdOf t, rowOf t)] (s.member.hdOf t) (s.origClass p (some t)) else s
  | some p, .shift =>
    if s.planOk p [s.shiftOf t 0 0 none] then s.fenceSoon t 5
    else s.slowPath p [(s.member.hdOf t, rowOf t)] (s.member.hdOf t) (s.origClass p (some t))
/-- SEVERITY of a record whose tile was reset: JOB where that ends a job (R357, R369). [DEDUCED, log entry 51] -/
def State.lostSeverity (s : State) (t : TileId) : Byte := match s.partOf t with
  | some p => if (s.nOf t).isSome && (s.part p).job = .running then 2 else 1
  | none => 0
/-- A tile reset (R366, R368, R369). [DEDUCED, log entry 55] -/
def State.tileReset (s : State) (t : TileId) (answers : Bool) : State :=
  let s1 := ((s.tileLost t).unplace t).modTile t fun v => v.levelThree.climb 0x04 (s.lostSeverity t) 3 s.now
  if answers then s1.resetAnswered t else s1.modTile t fun v => { v with resetDue := 2 }
/-- TILE_RESET (R366): a tile that Pintle resets. -/
def execTileReset (t : TileId) (wardAnswers : Bool) (s : State) : Host.Outcome State Fault Refusal :=
  if s.hasTile t then .next (if (s.tile t).resetDue = 1 then s.tileReset t wardAnswers else s) else .fault .noSuchUnit
/-- The tiles of a tile's power cluster (R366), itself first: a block of two columns and two rows of its half-die that holds the tile; which block, the
manual does not give. [DEDUCED, log entry 55] -/
def State.clusterOf (s : State) (t : TileId) : List TileId :=
  let east : Bool := (Config.cluster (tileKey t)).getLsbD 0
  let south : Bool := (Config.cluster (tileKey t)).getLsbD 1
  let cs := [colOf t, if east then colOf t + 1 else colOf t - 1]
  let rs := [rowOf t, if south then rowOf t + 1 else rowOf t - 1]
  t :: ((cs.flatMap fun c => rs.map fun r => s.member.tileAt (s.member.hdOf t) c r).eraseDups.filter fun u =>
    u ≠ t && cs.all (· < 9) && rs.all (· < 8) && s.hasTile u)
/-- A cluster reset (R366): the packets in its routers are lost with them. [DEDUCED, log entry 55] -/
def State.clusterReset (s : State) (t : TileId) (answers : Bool) : State :=
  let ts := s.clusterOf t
  let s1 := s.forTiles ts fun s t => (s.tileLost t).unplace t
  let s2 := s1.forTiles ts fun s1 t => s1.modTile t fun v => (v.powered).climb 0x05 (s.lostSeverity t) 3 s.now
  let s3 : State := { s2 with net := s2.net.filter fun k => match k.loc with
    | .router u _ => !ts.contains u
    | .ioDie _ _ => true }
  if answers then s3.forTiles ts State.resetAnswered
  else
    let s4 := (((ts.filter fun u => u ≠ t).foldl (fun s u => s.fenceTile u true) s3).routerFence t 0).fenceTile t true
    match s4.partOf t with
    | some p => s4.modPart p fun q => { q with resetDue := true }
    | none => s4
/-- CLUSTER_RESET (R366, R368): after a tile reset that the ward did not answer, and on any ward that has not answered a management read. [DEDUCED, log
entry 55] -/
def execClusterReset (t : TileId) (wardAnswers : Bool) (s : State) : Host.Outcome State Fault Refusal :=
  if s.hasTile t then .next (if (s.tile t).resetDue = 2 || s.boot.phase = 2 then s.clusterReset t wardAnswers else s) else .fault .noSuchUnit

/-! Level 4. -/

/-- The key under which a RESET of a partition waits. -/
def partResetKey (p : PartId) : Nat := 2 ^ 22 + p.val
/-- HALT goes out, then the partition's ports leave ADMITTED (R369). -/
def State.partHalt (s : State) (p : PartId) : State :=
  let s1 := if (s.part p).running then (s.sendHalt p (s.origClass p none) (s.part p).coord none).resetFreeze p (s.origClass p none) else s
  let ports := (List.finRange 16).filter fun i => (s1.port i).part = some p && (s.part p).running
  ports.foldl (fun s i => (s.port i).links.foldl (fun s x => s.removeLink i x) s) s1
/-- A partition reset that completes (R366): tiles, program set, manifest, windows, circuits and channel ends; DRAM, shape, owner and region
states stay. [DEDUCED, log entry 55] -/
def State.partReset (s : State) (p : PartId) : State :=
  let ts := s.tilesOfPart p
  let s1 := (s.abortApplies p).unloadPart p
  let s2 := s1.forTiles ts fun s t => s.modTile t Tile.levelFour
  let s3 := s2.modPart p fun q => { q with manifest := none, shadow := none, resetDue := false, ladder := some ⟨0x0B, 3, 4, s.now⟩ }
  s3.answer (fun w => !w.queued && w.part = p && w.opcode = 0x080B && w.key < 2 ^ 23) okStatus 0 []
/-- PARTITION_RESET (R366, R368, R369): one that does not complete in 50 ms leads to a device reset. -/
def execPartitionReset (p : PartId) (inTime : Bool) (s : State) : Host.Outcome State Fault Refusal :=
  .next (if (s.part p).present && (s.part p).resetDue then
    let s1 := s.partHalt p
    if inTime then s1.partReset p
    else
      let cause := (s.faultLog.filter fun r => bitAt r.2.flags.toNat 1 && r.2.part = p).getLast?
      { (s1.modPart p fun q => { q with resetDue := false, ladder := some ⟨0x0C, 4, 5, s.now⟩ }) with
        boot := { s1.boot with resetDue := true, cause := (cause.map (·.2)).or s1.boot.cause } }
  else s)

end Sys2Proof.Machine
end

