-- ==== Sys2Proof/Machine/Startup.lean ====
section
/-!
DEFINITION. Start attempts and their stages (R378 to R398), the tile firmware broadcast (R389 to R391), the known-answer run (R392), READY
(R394, R395), minimal mode (R399, R400), device resets, power cycles and the watchdog (R366, R370, R372, R375, R383), firmware checks (R463).
-/

namespace Sys2Proof.Machine

/-! Firmware slots (R462, R463). -/

/-- The checks of R463 in order, for a slot that holds `size` bytes: the status of the first that fails. [DEDUCED, log entry 57; DEDUCED, log entry 71] -/
def State.fwCheck (s : State) (f : FwSlot) (size : Nat) : Option Nat :=
  let h := f.bytes 0 1024
  let len := fieldAt h 4 4
  let key := fieldAt h 9 1
  if f.factory then (if f.svn < s.sec.fusedSvn then some versionMismatch else none)
  else if fieldAt h 0 2 ≠ 1 || fieldAt h 2 2 ≠ 1024 then some versionMismatch
  else if len ≠ size || len % 16 ≠ 0 || len < 4096 || 67108864 < len then some badArg
  else if 4 ≤ key || s.sec.revoked.getLsbD key then some authFail
  else if !Config.signatureOk h then some authFail
  else if sha512 (f.bytes 1024 (len - 1024)) ≠ (h.drop 32).take 64 then some authFail
  else if f.svn < s.sec.fusedSvn then some versionMismatch
  else if ((h.drop 10).take 6 ++ (h.drop 96).take 416).any (· ≠ 0) then some authFail
  else none
/-- A slot verifies at start-up: its image is as long as its header says. -/
def State.slotOk (s : State) (k : Nat) : Bool := (s.fwCheck (s.slot k) (fieldAt ((s.slot k).bytes 4 4) 0 4)).isNone
/-- The slot that boots (R382): the active one, else the other. -/
def State.bootSlot (s : State) : Option Nat :=
  if s.slotOk s.boot.active then some s.boot.active
  else if s.slotOk (1 - s.boot.active) then some (1 - s.boot.active) else none

/-! What a reset leaves. -/

/-- What a partition keeps through a device reset (R50, R366, R385): its default beats are those of its offset from a count of zero. [DEDUCED, log entry 70] -/
def Part.kept (q : Part) : Part :=
  { present := q.present, owner := q.owner, paired := q.paired, hds := q.hds, stepLog := q.stepLog, stepHead := q.stepHead
    facetLog := q.facetLog, facetHead := q.facetHead, energy := q.energy, energyTotal := q.energyTotal, faultFrom := q.faultFrom
    offset := q.offset, beat := (q.offset / 100000).toNat }
/-- What a port keeps: what flash holds, the cable, and the frame it sent last. [DESIGN CHOICE, log entry 41] -/
def Port.kept (q : Port) : Port := { stored := q.stored, settings := q.settings, cable := q.cable, wire := q.wire }
/-- Everything reset but flash, the host ports and what `keep` holds: partitions, Pintle's DRAM and the commands it owes answers (R366, R385,
R396). [DEDUCED, log entry 56; DEDUCED, log entry 70] -/
def State.wiped (s : State) (keep : Bool) : State :=
  { member := s.member, fns := s.fns, resets := s.resets, adminFn := s.adminFn, adminNext := s.adminNext, bifur := s.bifur
    bifurNext := s.bifurNext, ports := s.ports.map Port.kept, fuses := s.fuses, defects := s.defects, defectSeq := s.defectSeq
    defectGen := s.defectGen, defectOther := s.defectOther, boot := { s.boot with upNs := s.boot.upNs + s.now }
    sec := { s.sec with current := none, queue := [], ahead := 0 }, drbg := s.drbg, draws := s.draws, pending := s.pending
    power := { s.power with hd := Vector.replicate 16 2, waking := 0, hotAt := [], hardNow := false }
    parts := if keep then s.parts.map Part.kept else Vector.replicate 16 {}
    dram := if keep then s.dram else [], faultLog := if keep then s.faultLog else [], faultHead := if keep then s.faultHead else 0
    faultHeld := if keep then s.faultHeld else [], defectQueue := if keep then s.defectQueue else []
    sparesUsed := if keep then s.sparesUsed else [], rowsBad := if keep then s.rowsBad else []
    testResults := if keep then s.testResults else [], deviceEnergy := if keep then s.deviceEnergy else []
    waiters := if keep then s.waiters else []
    channels := if keep then s.channels.map fun x => (x.1, if x.2.state = chFree then x.2 else x.2.afterReset) else [] }
/-- The beat of a partition's job time, when its offset or the count has been set. -/
def State.beatNow (s : State) (p : PartId) : State :=
  s.modPart p fun q => { q with beat := ((s.now + q.offset - q.t0) / (q.pUs * 1000 : Nat)).toNat }
/-- RESET sent on every admitted port, a standby's too (R291, R321, R375): it takes precedence over what is held for replay. [DEDUCED, log entry 56] -/
def State.sendResets (s : State) : State :=
  (List.finRange 16).foldl (fun s i => (s.port i).links.foldl (fun s x =>
    if (s.link i x).state = .admitted || (s.link i x).state = .silent then
      ((s.modLink i x fun l => { l with replay := [] }).sendCtl i x 1 []).sendNew i x
    else s) s) s

/-! The start log (R397). -/

/-- The time, in ms, since the stage that runs began, or since its last report. [DEDUCED, log entry 57] -/
def State.stageElapsed (s : State) : U32 := BitVec.ofNat 32 ((s.now - s.boot.stageAt) / 1000000)
/-- A start-log record of the attempt. -/
def State.startRec (s : State) (outcome reason detail : Nat) : StartRec :=
  let b := s.boot
  { boot := b.powerOns, strike := BitVec.ofNat 8 b.strikes, outcome := BitVec.ofNat 8 outcome, stage := BitVec.ofNat 8 b.stage
    reason := BitVec.ofNat 8 reason, detail := BitVec.ofNat 32 detail
    elapsedMs := b.stageMs.foldl (· + ·) 0 + s.stageElapsed, slot := BitVec.ofNat 8 b.slot, mode := if b.warm then 1 else 2, retired := s.retired }
/-- The ring of 16 records. -/
def Boot.add (b : Boot) (r : StartRec) : Boot := { b with log := (b.log ++ [r]).drop (b.log.length + 1 - 16) }
/-- A record appended. -/
def State.logStart (s : State) (outcome reason detail : Nat) : State :=
  { s with boot := s.boot.add (s.startRec outcome reason detail) }
/-- A previous attempt still incomplete (R398). -/
def State.noteIncomplete (s : State) : State :=
  match s.boot.log.getLast? with
  | some r =>
    if r.outcome = 3 then { s with boot := s.boot.add { r with outcome := 1, reason := if r.reason = 0 then 0x0B else r.reason } } else s
  | none => s

/-! Records kept through a power cycle (R370, R456). -/

/-- Records kept in flash or in the power controller reappear in the fault log, with RESETS 0 (R370, R456); they stay kept until READY, so
that one whose start fails is read again. -/
def State.recallRecords (s : State) : State :=
  let p := s.power
  let trip : List FaultRec := match p.tripReg with
    | some (sensor, c10) => [{ cls := 0x13, severity := 4, unit := 7, addr := BitVec.ofNat 64 sensor, bit := BitVec.ofInt 32 c10 }]
    | none => []
  ((p.flashRecords ++ trip).map fun r => { r with resets := 0 }).foldl (fun s r =>
    if s.faultLog.any fun x => x.2 = r then s else s.logFault r) s

/-! Minimal mode (R399, R400). -/

/-- The function that serves in minimal mode as administrator: the lowest trained link of port A, else of port B. [DEDUCED, log entry 64] -/
def State.minimalAdmin (s : State) : FnId :=
  ((List.finRange 8).find? fun f => (s.fn f).gen ≠ 0).getD 0
/-- Minimal mode entered: C-dies and stacks unpowered, link ports OFF, the primary core alone running, the administrator kept for the exit (R412). [DEDUCED, log entry 64] -/
def State.enterMinimal (s : State) (reason detail : Nat) : State :=
  let s1 := (s.logStart 4 reason detail).wiped false
  ({ s1 with
    adminFn := s.minimalAdmin
    boot := { s1.boot with
      phase := 3, stage := 0, deviceReset := false, leaving := none, standby := false, standbyRuns := false, resetSince := none, fnsUp := true
      adminBack := some (s.boot.adminBack.getD s.adminFn) } } : State).recallRecords

/-! Attempts. -/

/-- Steps 1 and 2 of R380: the strike, and the incomplete record; the administrator is again the one that flash gives (R412). [DEDUCED, log entry 64] -/
def State.strike (s : State) (stage : Nat) (deviceReset : Bool) : State :=
  let b := s.boot
  let b1 := { b with
    strikesBefore := b.strikes, strikes := b.strikes + 1, stage := stage, stageAt := s.now, began := s.now, stageMs := List.replicate (stage - 1) 0, results := [], stackFull := 0, adminBack := none
    deviceReset := deviceReset, resetDue := false, tilesTested := false, kaRounds := 0, retireWhy := 0
    warm := b.strikes = 0 && !b.cold && b.saved }
  ({ s with boot := b1, adminFn := b.adminBack.getD s.adminFn } : State).logStart 3 0 0
/-- Step 3: the boot ROM loads and verifies an image (R382); the fuse map is checked. -/
def State.loadImage (s : State) : State :=
  match s.bootSlot with
  | none => s.enterMinimal 0x01 (b2n (!s.slotOk 0) + 2 * b2n (!s.slotOk 1))
  | some k =>
    let s1 : State := { s with boot := { s.boot with slot := k } }
    if s1.fuses.checkOk then s1 else s1.enterMinimal 0x02 0
/-- The reason that minimal mode is entered with after three strikes: that of the last record. -/
def State.lastReason (s : State) : Nat := (s.boot.log.getLast?.map fun r => r.reason.toNat).getD 0
/-- Minimal mode entered in place of an attempt, after three strikes (R399): no stage begins, so STAGE is that of the last record. [DEDUCED, log entry 57] -/
def State.thirdStrike (s : State) : State :=
  let last : Nat := (s.boot.log.getLast?.map fun r => r.stage.toNat).getD 1
  ({ s with boot := { s.boot with stage := last, stageAt := s.now, stageMs := [] } } : State).enterMinimal s.lastReason 0
/-- An attempt that the boot ROM begins (R380). -/
def State.startAttempt (s : State) : State :=
  let s0 := s.noteIncomplete
  if s0.boot.strikes = 3 then s0.thirdStrike else (s0.strike 1 false).loadImage
/-- Power and input allow an attempt (R379). -/
def State.powerGood (s : State) : Bool :=
  s.power.converters && 48000 ≤ s.power.inputMv && s.power.inputMv ≤ 59500 && !s.power.cycleReq && !s.power.thermTrip
/-- START_ATTEMPT (R380). -/
def execStartAttempt (s : State) : Host.Outcome State Fault Refusal :=
  .next (if s.boot.phase = 0 && s.boot.stage = 0 && s.powerGood then s.startAttempt else s)
/-- A failed attempt (R396): the final record, and the retry reset, which leaves flash, the host ports and what the 54 V input holds (R472); the
next attempt follows by START_ATTEMPT. -/
def State.failAttempt (s : State) (reason detail : Nat) : State :=
  let s1 := (s.logStart 1 reason detail).wiped false
  { s1 with
    sec := { debug := s.sec.debug, nonces := s.sec.nonces, fusedSvn := s.sec.fusedSvn, revoked := s.sec.revoked }
    boot := { s1.boot with phase := 0, stage := 0, deviceReset := false, leaving := none, report := [], results := [] } }
/-- An attempt runs. -/
def State.attempting (s : State) : Bool := s.boot.stage ≠ 0
/-- ATTEMPT_FAILED (R396). -/
def execAttemptFailed (reason : Byte) (detail : U32) (s : State) : Host.Outcome State Fault Refusal :=
  .next (if s.attempting then s.failAttempt reason.toNat detail.toNat else s)
/-- The limit of a stage in ms (R378); the link stage has none. [DEDUCED, log entry 57] -/
def startLimit (stage : Nat) : Nat := [0, 1000, 100, 4000, 0, 3000].getD stage 0
/-- START_STAGE_TIMEOUT (R378): the stage has overrun its limit; the link stage never fails the attempt. [DEDUCED, log entry 4] -/
def execStartStageTimeout (s : State) : Host.Outcome State Fault Refusal :=
  .next (if s.attempting && s.boot.stage ≠ 4 then
    (s.reach (s.boot.began + startLimit s.boot.stage * 1000000 + 1 : Nat)).failAttempt 0x04 s.boot.stage
  else s)

/-! Resolution (R332, R387). -/

/-- The tile that a BIST record names (R393). -/
def Member.bistTile (m : Member) (b : BistRecord) : TileId :=
  m.tileAt (bitsOf b.wher.toNat 7 0) (bitsOf b.wher.toNat 15 8) (bitsOf b.wher.toNat 23 16)
/-- FC_BIST_FAIL of a record; a tile's coordinates go in PCOORD. -/
def State.bistFault (s : State) (tile : Option TileId) (unit : Nat) (b : BistRecord) : State :=
  let pcoord : U16 := match tile with
    | some t => BitVec.ofNat 16 (t.px.toNat * 256 + t.py.toNat)
    | none => 0xFFFF
  s.toInbox (s.mkRecord none none pcoord { cls := 0x14, addr := b.addr.toNat, bit := b.bits.toNat, clears := false, unit := unit })
/-- A unit that is fused bad or recorded, and passes (R332). [DEDUCED, log entry 57] -/
def State.conflict (s : State) (kind : Byte) (wher : U64) : State :=
  let known := (s.defects ++ s.defectQueue).any fun d => d.kind = kind && d.wher = wher && bitAt d.flags.toNat 2
  let s1 := s.unitFault none { cls := 0x15, unit := 5, addr := wher.toNat, clears := false }
  if known then s1 else s1.logDefect {
    kind := kind, source := 5, cls := 0x15, flags := 4, wher := wher, detail := if kind = 1 then BitVec.ofNat 32 wher.toNat else 0 }
/-- A unit that is bad already, by the fuses or the log: it stays fenced, and is recorded where it passes (R332). -/
def State.resolveBad (s : State) (kind : Byte) (wher : U64) (fails : List BistRecord) : State :=
  if fails.isEmpty then s.conflict kind wher else s
/-- DETAIL of a record that BIST causes (R330): a tile's ADDR, a router's plane and port code. -/
def bistDetail (kind : Byte) (addr : Nat) : U32 :=
  BitVec.ofNat 32 (if kind = 2 then bitsOf addr 4 3 + 4 * bitsOf addr 2 0 else addr)
/-- One tile or router resolved: whether it is fenced, and what is recorded; each failing record of a unit that was good is a fault (R393). -/
def State.resolveUnit (s : State) (kind : Byte) (t : TileId) (bad : Bool) (fails : List BistRecord) : State × Bool :=
  let w := tileWhere s.member t
  if bad || !(s.defectsAt kind w).isEmpty then (s.resolveBad kind w fails, true)
  else match fails with
    | b :: _ =>
      ((fails.foldl (fun s b => s.bistFault (some t) 0 b) s).logDefect {
        kind := kind, source := 1, cls := 0x14, wher := w, detail := bistDetail kind b.addr.toNat }, true)
    | [] => (s, false)
/-- The member's tiles. -/
def Member.allTiles (m : Member) : List TileId := (List.range m.halfDies).flatMap m.tilesOf
/-- Half-dies retired, with the reason's bit (R388, R398). -/
def State.retire (s : State) (hds : List Nat) (why : Nat) : State :=
  if hds = [] then s
  else { s with
    retired := hds.foldl (fun m hd => m ||| BitVec.ofNat 16 (2 ^ hd)) s.retired
    boot := { s.boot with retireWhy := s.boot.retireWhy ||| why } }
/-- The failing records of a block. -/
def failing (bs : List BistRecord) (block : Byte) : List BistRecord := bs.filter fun b => b.block = block && b.result = 1

/-! Stage 2 (R58, R59, R384). -/

/-- The class nominal of a seam (R58). -/
def seamNominal (id : Nat) : Nat := [4, 7, 6, 9].getD (id / 256) 9
/-- A recorded latency: the worst delay with 0.5 ns of margin, in whole cycles, at least the nominal. -/
def seamLat (id : Nat) (worstPs : U32) : Nat := max (seamNominal id) ((worstPs.toNat + 500 + 999) / 1000)
/-- A seam's record after a calibration in a gear (R58, R59). [DESIGN CHOICE, log entry 44] -/
def Seam.calibrated (x : Seam) (m : SeamMeasure) (half : Bool) : Seam :=
  let lp := seamLat m.id.toNat m.worstP
  let lr := seamLat m.id.toNat m.worstR
  { x with
    halfRate := half, above := decide (seamNominal m.id.toNat < lp || seamNominal m.id.toNat < lr), verifyFailed := false
    latP := lp, latR := lr, worstP := m.worstP, worstR := m.worstR, marginPs := m.marginPs }
/-- One seam of the stage: recorded, or failed. [DESIGN CHOICE, log entry 44; DEDUCED, log entry 57] -/
def State.seamStage (s : State) (m : SeamMeasure) : State :=
  let id := m.id.toNat
  if !s.member.seamIds.contains id then s
  else if !m.calibrated || 255 < seamLat id m.worstP || 255 < seamLat id m.worstR then
    (s.logDefect { kind := 6, source := 1, wher := BitVec.ofNat 64 id }).retire (s.member.seamHds id) 1
  else s.modSeam id fun x => x.calibrated m false
/-- A router whose links are tested (R332, R384). -/
def State.routerStage (fails : List BistRecord) (s : State) (t : TileId) : State :=
  let (s1, bad) := s.resolveUnit 2 t (s.fuses.routers.contains (tileKey t)) (fails.filter fun b => s.member.bistTile b = t)
  if bad then (s1.modTile t fun v => { v with ward := { v.ward with rfence := true, tfence := true } }).retire [s.member.hdOf t] 2 else s1
/-- The clocks-and-mesh stage. The counter starts at zero when the PLL first locks after power-on or a reset (R41); an exit from RETAIN or
DORMANT keeps it (R446). -/
def State.meshStage (s : State) (r : StageReport) : State :=
  let s0 : State := if s.boot.leaving.isSome then { s with pllLocked := true }
    else { s with pllLocked := true, count := 0, boot := { s.boot with upNs := s.boot.upNs + s.now } }
  let s1 := r.seams.foldl State.seamStage s0
  s1.member.allTiles.foldl (State.routerStage (failing r.bist 8)) s1

/-! Stage 3 (R352, R384, R385, R448). -/

/-- The channel and the symbol of a pin (R328). [DEDUCED, log entry 57] -/
def pinOf (loc : U64) : Nat × Nat := (loc.toNat / 2 ^ 54, bitsOf loc.toNat 49 45)
/-- A failed row or pin of the stack BIST; a pin that a record names already is no second one (R332, R351). -/
def State.stackDefect (s : State) (b : BistRecord) : State :=
  let s1 := s.bistFault none 4 b
  if b.block = 11 then s1.markRow b.addr (Config.bistSymbols b.addr b.bits) 0x14
  else if s1.pinsFailed.any fun l => pinOf l = pinOf b.addr then s1
  else ({ s1 with pinsFailed := s1.pinsFailed ++ [b.addr] } : State).logDefect { kind := 5, source := 1, cls := 0x14, wher := b.addr, detail := 0 }
/-- The half-die above a stack (R19). -/
def stackHd (stack : Nat) : Nat := 2 * (stack / 4) + stack / 2 % 2
/-- A row repaired at the start, or left with its record (R352): the record keeps its place in the log unless BIST found the row now. -/
def State.startRow (lost : List U64) (s : State) (row : U64) : State :=
  let bank := row.toNat / 2 ^ 50
  let used := (kget bank s.sparesUsed).getD 0
  let known := s.fuses.rows.contains row || !(s.defectsAt 4 row).isEmpty
  let (sym, cls) := (kget row.toNat s.rowSyms).getD (0, 0)
  let d : Defect := { kind := 4, source := 1, cls := cls, wher := row, detail := BitVec.ofNat 32 sym.toNat }
  let s1 : State := { s with rowsMarked := s.rowsMarked.erase row }
  if used < 2 && !lost.contains row then
    let s2 : State := { s1 with sparesUsed := kput bank (used + 1) s1.sparesUsed }
    if known then s2 else s2.logDefect { d with flags := 1 }
  else
    let s2 := ({ s1 with rowsBad := s1.rowsBad ++ [row] } : State).dramEvent 4 (row.toNat / 2 ^ 59) row
    if known then { s2 with defects := s2.defects.map fun x => if x.kind = 4 && x.wher = row then { x with flags := x.flags ||| 2 } else x }
    else s2.logDefect { d with flags := 2 }
/-- Places of the active records of a kind. -/
def State.activeAt (s : State) (kind : Byte) : List U64 :=
  ((s.activeDefects kind).map (·.wher)).eraseDups
/-- The member's stacks. -/
def Member.stacks (m : Member) : List Nat := (List.range 32).filter fun k => stackHd k < m.halfDies
/-- The stacks trained in full (R381): all of them in a cold attempt, in a warm one those whose saved settings fail or are bound to another
serial number. [DEDUCED, log entry 57] -/
def State.fullStacks (s : State) (r : StageReport) : BitVec 32 :=
  (s.member.stacks.filter fun k =>
    !s.boot.warm || r.retrainedStacks.getLsbD k || kget k s.boot.stackSaved ≠ some (Config.stackSerial k)).foldl (fun m k => m ||| BitVec.ofNat 32 (2 ^ k)) 0
/-- Training, BIST and row repair of every stack. -/
def State.fullMemory (s : State) (r : StageReport) : State :=
  let s0 : State := { s with pinsFailed := s.activeAt 5, boot := { s.boot with stackFull := s.fullStacks r } }
  let s1 := (failing r.bist 11 ++ failing r.bist 12).foldl State.stackDefect s0
  let rows := (s1.fuses.rows ++ s1.activeAt 4 ++ s1.rowsMarked).eraseDups
  let s2 := rows.foldl (State.startRow r.unrepairable) s1
  let chans := s2.pinsFailed.map fun l => l.toNat / 2 ^ 54
  let dead := (chans.filter fun c => 2 ≤ (chans.filter (· = c)).length).map fun c => stackHd (c / 32)
  s2.retire ((dead ++ (maskBits 32 r.failedStacks.toNat).map stackHd).filter (· < s2.member.halfDies)) 4
/-- The event of a stack that failed to leave self-refresh in a device reset: it was trained in full, its contents lost (R385). [DESIGN CHOICE, log entry 57] -/
def State.stackRetrained (s : State) (stack : Nat) : State :=
  ({ s with boot := { s.boot with stackFull := s.boot.stackFull ||| BitVec.ofNat 32 (2 ^ stack) } } : State).postAdmin 6
    (Config.retrainedCode stack).toNat (leBytes 8 (stack * 2 ^ 59))
/-- What Pintle holds in DRAM after some stacks lost their contents: it goes on from the copy on the other stack, and starts empty where none
survives (R376, R385): fault log, start report, and the logs of the partitions. [DESIGN CHOICE, log entry 57] -/
def State.rebuilt (s : State) (lost : List Nat) : State :=
  if lost.contains Config.pintleStacks.1 && lost.contains Config.pintleStacks.2 then { s with
    faultLog := [], faultHead := 0, faultHeld := [], deviceEnergy := [], boot := { s.boot with report := [] }
    parts := s.parts.map fun q => { q with stepLog := [], stepHead := 0, facetLog := [], facetHead := 0, energy := [], energyTotal := 0 } }
  else s
/-- The memory stage. A device reset and an exit from RETAIN only leave self-refresh; the zero pass is left out after RETAIN. [DEDUCED, log entry 57] -/
def State.memoryStage (s : State) (r : StageReport) : State :=
  let retain := decide ((s.boot.leaving.map (·.1)) = some 3)
  let lost := s.member.stacks.filter fun k => s.boot.deviceReset && r.retrainedStacks.getLsbD k
  let s1 := if s.boot.deviceReset || retain then
      (lost.foldl State.stackRetrained (({ s with pinsFailed := s.activeAt 5 } : State).rebuilt lost)).retire
        (((maskBits 32 r.failedStacks.toNat).map stackHd).filter (· < s.member.halfDies)) 4
    else s.fullMemory r
  if retain then s1 else { s1 with dram := [], regions := [] }

/-! Stage 4 (R386). -/

/-- Training begins on every port with a stored mode, but for one whose egress stage has failed BIST (R394). -/
def State.linkStage (s : State) (r : StageReport) : State :=
  let bad := (failing (s.boot.results ++ r.bist) 13).filterMap fun b => Config.ioDiePort b.addr
  (List.finRange 16).foldl (fun s i => if bad.contains i then s else s.modPort i fun q => { q with mode := q.stored.1, width := q.stored.2 }) s
/-- The limit of a port in the link stage, from the stage's start in ns (R386): 500 ms while no lane detects signal, else 3,000 ms. -/
def Port.stageLimit (q : Port) : Nat :=
  if q.lanes.toList.all fun l => l.state = .down || l.state = .fenced then 500000000 else 3000000000
/-- LINK_STAGE_PORT_TIMEOUT (R386): at its limit a port that is not up goes DOWN, and never fails the attempt. -/
def execLinkStagePortTimeout (port : PortId) (s : State) : Host.Outcome State Fault Refusal :=
  .next (if s.boot.stage = 4 && (s.port port).mode ≠ 0 && !(s.port port).isUp then
    (s.reach (s.boot.began + (s.port port).stageLimit : Nat)).portDown port 0
  else s)

/-! Stage 5: placement (R388). -/

/-- The fenced columns of a row. -/
def State.fencedCols (s : State) (hd r : Nat) : List Nat :=
  (List.range 9).filter fun c => (s.tile (s.member.tileAt hd c r)).ward.tfence
/-- The state of a row at the start; rows of a pair share it (R347). -/
def State.startRowState (s : State) (hd r : Nat) : Row :=
  let cols := if s.pairedHd hd then (s.fencedCols hd (r - r % 2) ++ s.fencedCols hd (r - r % 2 + 1)).eraseDups else s.fencedCols hd r
  match cols with
  | [] => {}
  | [c] => if c = 8 then { kind := .noSpare } else { kind := .shifted, col := c }
  | _ => { kind := .degraded }
/-- The start map of every half-die (R388), active at the next default beat. -/
def State.placeAll (s : State) : State :=
  let hds := List.range s.member.halfDies
  let s1 := hds.foldl (fun s hd => (List.range 8).foldl (fun s r => s.setRow hd r (s.startRowState hd r)) s) s
  let bad := hds.filter fun hd => 4 < ((List.range 8).filter fun r => (s1.row hd r).kind = .degraded).length
  let s2 := s1.retire bad 8
  s2.replan (hds.foldl s2.defaultMap [])
/-- The tiles that hold a position, twins among them. -/
def State.allHolders (s : State) : List TileId :=
  ((List.range (s.member.gx * s.member.gy)).filterMap s.tileOfKey).flatMap fun t =>
    if s.pairedHd (s.member.hdOf t) then [t, twinOf t] else [t]
/-- Wards of twins marked (R347). -/
def State.markTwins (s : State) : State :=
  s.allHolders.foldl (fun s t => s.modTile t fun v => { v with ward := { v.ward with
    twin := s.pairedHd (s.member.hdOf t) && rowOf t % 2 = 1 } }) s
/-- Every half-die is retired: the attempt fails with NO_HALF_DIE. -/
def State.anyLeft (s : State) : Bool := (List.range s.member.halfDies).any fun hd => !s.retired.getLsbD hd
/-- Tile BIST resolved (R332, R387). [DEDUCED, log entry 57] -/
def State.tileStage (fails : List BistRecord) (s : State) (t : TileId) : State :=
  let (s1, bad) := s.resolveUnit 1 t (s.fuses.tiles.contains (tileKey t)) (fails.filter fun b => s.member.bistTile b = t)
  if bad then s1.modTile t fun v => { v with ward := { v.ward with tfence := true } } else s1

/-- One lane resolved (R332): a LANE record counts while the partner is the one it names. -/
def State.resolveLane (s : State) (fails : List BistRecord) (port : PortId) (l : LaneId) : State :=
  let q := s.port port
  let wher := laneWhere port l.val q.device
  let bad := fails.filter fun b => bitsOf b.wher.toNat 7 0 = port.val && bitsOf b.wher.toNat 15 8 = l.val
  if s.laneBad port l q.device then
    (s.resolveBad 3 wher bad).modPort port fun q => q.modLane l fun v => { v with state := .fenced }
  else if bad.isEmpty then s
  else (bad.foldl (fun s b => s.bistFault none 2 b) s).laneFence port l 3 1 0x14
/-- Every lane of every port resolved, by the lane records of this attempt (R332, R387, R393). [DEDUCED, log entry 57] -/
def State.laneStage (s : State) (r : StageReport) : State :=
  let fails := failing (s.boot.results ++ r.bist) 9
  (List.finRange 16).foldl (fun s i => (List.finRange 9).foldl (fun s l => s.resolveLane fails i l) s) s

/-! The broadcast (R389 to R391). -/

/-- The image that is broadcast, at most 128 KiB. -/
def State.tileImage (s : State) : Bytes := (Config.tileImage (s.slot s.boot.slot).digest).take 131072
/-- Fragments of an image. -/
def fragCount (image : Bytes) : Nat := max 1 ((image.length + 255) / 256)
/-- A management packet of Pintle for a tile. -/
def State.pintlePacket (s : State) (t : TileId) (type ep : Nat) (addr : Nat) (payload : Bytes) : Packet :=
  { type := BitVec.ofNat 8 type, vc := 2, dl := false, mcast := false, refwd := false, fence := false, ue := false
    len := BitVec.ofNat 9 payload.length, gen := 0
    dst := match s.nOf t with
      | some n => nativeAddr 0 (s.member.lx n) (s.member.ly n) ep
      | none => nativeAddr 0 0 0 ep
    src := 0, dphys := BitVec.ofNat 16 (t.px.toNat * 256 + t.py.toNat), dstu := 0, srcu := 1, part := 0xFF, addr := BitVec.ofNat 64 addr
    step := 0, tag := 0, payload := payload }
/-- The TAGs of Pintle's requests that wait for a reply, or to enter the grid. -/
def State.mgmtTags (s : State) : List U16 :=
  s.mgmtOut.map (·.1) ++ s.ioQueue.filterMap fun x => if x.1 = .pintle && !x.2.mcast then some x.2.tag else none
/-- A packet handed to IO-W for the grid; a request takes the lowest TAG that no other holds (R227). [DESIGN CHOICE, log entry 58] -/
def State.pintleSend (s : State) (p : Packet) : State :=
  let used := s.mgmtTags
  let tag : U16 := if p.mcast then 0 else BitVec.ofNat 16 (((List.range (used.length + 1)).find? fun k => !used.contains (BitVec.ofNat 16 k)).getD 0)
  { s with ioQueue := s.ioQueue ++ [(.pintle, { p with tag := tag })] }
/-- Packets handed to IO-W for the grid. -/
def State.pintleSends (s : State) (ps : List Packet) : State := ps.foldl State.pintleSend s
/-- The image number that every broadcast of a start carries. [DESIGN CHOICE, log entry 58] -/
def imageNumber : Nat := 1
/-- A load order (R389): the multicast is complete 1 ms after it. [DESIGN CHOICE, log entry 58] -/
def State.loadOrderFor (s : State) (t : TileId) : Packet :=
  let im := s.tileImage
  s.pintlePacket t 5 6 0x100 (leBytes 2 imageNumber ++ leBytes 2 (fragCount im) ++ leBytes 4 im.length ++
    leBytes 4 ((s.now + 1000000) % 2 ^ 32) ++ [0, 0, 0, 0] ++ sha512 im)
/-- ADDR of a fragment (R228). -/
def fragAddr (k : Nat) : Nat := imageNumber * 2 ^ 48 + k
/-- A fragment's bytes. [DESIGN CHOICE, log entry 58] -/
def State.fragment (s : State) (k : Nat) : Bytes := (s.tileImage.drop (256 * k)).take 256
/-- A unicast fragment to endpoint 0. -/
def State.fragmentFor (s : State) (t : TileId) (k : Nat) : Packet := s.pintlePacket t 7 0 (fragAddr k) (s.fragment k)
/-- A multicast fragment over the whole grid (R228). -/
def State.fragmentAll (s : State) (k : Nat) : Packet :=
  { s.pintlePacket ⟨0, 0⟩ 7 0 (fragAddr k) (s.fragment k) with
    mcast := true, dst := BitVec.ofNat 32 ((9 * s.member.w - 1) * 2 ^ 16 + (16 * s.member.h - 1)), dphys := 0 }
/-- Pintle marks a tile before it loads a program of its own into it (R144). -/
def State.markDiag (s : State) (t : TileId) : State := s.modTile t fun v => { v with ward := { v.ward with diag := true } }
/-- Load orders, then the multicast. [DESIGN CHOICE, log entry 58] -/
def State.broadcast (s : State) : State :=
  ((s.forTiles s.allHolders State.markDiag).pintleSends (s.allHolders.map s.loadOrderFor)).pintleSends ((List.range (fragCount s.tileImage)).map s.fragmentAll)
/-- The image loaded by unicast into a tile that receives a position. -/
def State.unicastLoad (s : State) (t : TileId) : State :=
  (s.markDiag t).pintleSends (s.loadOrderFor t :: (List.range (fragCount s.tileImage)).map (s.fragmentFor t))
/-- STATE and KA of a load status word (R390). -/
def Load.state (l : Load) : Nat := bitsOf l.status.toNat 31 30
def Load.ka (l : Load) : Nat := bitsOf l.status.toNat 27 26
/-- A load status word. -/
def Load.mark (l : Load) (state rounds ka : Nat) : Load :=
  { l with rounds := rounds, status := BitVec.ofNat 32 (state * 2 ^ 30 + rounds * 2 ^ 28 + ka * 2 ^ 26 + l.image.toNat) }
/-- Fragments a tile lacks. -/
def Load.missing (l : Load) : List Nat := (List.range l.frags.toNat).filter fun k => !l.got.contains k
/-- A gap in the sequence (R229): a fragment has arrived beyond a missing one. -/
def Load.gap (l : Load) : Bool := l.missing.any fun k => l.got.any fun g => k < g
/-- The tile loads. -/
def Load.loading (l : Load) : Bool := l.armed && l.state = 1
/-- An IMAGE fragment at a tile: written into IMEM, or discarded by a tile without a load order or fenced (R389, R391). -/
def Tile.imageTaken (v : Tile) (q : Packet) : Tile :=
  let k := q.addr.toNat % 2 ^ 32
  if v.load.loading && !v.ward.tfence && q.addr.toNat / 2 ^ 48 = v.load.image.toNat && k < v.load.frags.toNat then
    { v with imem := v.imem.put (256 * k) q.payload, load := { v.load with got := if v.load.got.contains k then v.load.got else v.load.got ++ [k] } }
  else v
/-- IMAGE (R391): a multicast is not answered, a unicast is (R214). [DESIGN CHOICE, log entry 58] -/
def execImage (t : TileId) (pkt : Packet) (s : State) : Host.Outcome State Fault Refusal :=
  s.atArrival (.tile t) pkt (pkt.type = 7) fun s =>
    let s1 := s.modTile t fun v => v.imageTaken pkt
    if pkt.mcast then s1 else s1.reply t pkt stOk [] false
/-- Runs of consecutive numbers in a rising list: first and count. -/
def runsOf : List Nat → List (Nat × Nat)
  | [] => []
  | k :: ks => match runsOf ks with
    | (f, c) :: rest => if f = k + 1 then (k, c + 1) :: rest else (k, 1) :: (f, c) :: rest
    | [] => [(k, 1)]
/-- The payload of a RESEND (R391). -/
def resendPayload (l : Load) (round : Nat) (all_ : Bool) : Bytes :=
  let runs := runsOf l.missing
  let whole := all_ || 31 < runs.length
  leBytes 2 l.image.toNat ++ leBytes 1 round ++ leBytes 1 (b2n whole) ++ leBytes 2 (if whole then 0 else runs.length) ++ [0, 0] ++
    if whole then [] else runs.flatMap fun r => leBytes 4 r.1 ++ leBytes 4 r.2
/-- The source field of a tile's RESEND: its ward's address. -/
def State.wardAddr (s : State) (t : TileId) : U32 := match s.nOf t with
  | some n => nativeAddr 0 (s.member.lx n) (s.member.ly n) 6
  | none => nativeAddr 0 0 0 6
/-- The next round of a tile, or STATE 3 when three are used. -/
def State.nextRound (s : State) (t : TileId) (all_ : Bool) : State :=
  let l := (s.tile t).load
  if 3 ≤ l.rounds then s.modTile t fun v => { v with load := v.load.mark 3 l.rounds 0 }
  else
    let n := l.rounds + 1
    let body := resendPayload l n all_
    let pkt : Packet := { type := 0x84, vc := 2, dl := false, mcast := false, refwd := false, fence := false, ue := false
                          len := BitVec.ofNat 9 body.length, gen := 0, dst := 0, src := s.wardAddr t, dphys := ioDphys false 0 t.py.toNat
                          dstu := 1, srcu := 0, part := 0xFF, addr := 0, step := 0, tag := BitVec.ofNat 16 (tileKey t), payload := body }
    let s1 := s.modTile t fun v => { v with load := { (v.load.mark 1 n 0) with
      roundDeadline := BitVec.ofNat 64 (s.now + 1000000), got := if all_ then [] else v.load.got } }
    s1.enter pkt t
/-- The device count of a load order's DEADLINE, which names the low 32 bits: the count nearest to now that ends in them. -/
def State.deadlineCount (s : State) (l : Load) : Nat :=
  (s.now + (BitVec.ofNat 32 l.deadline.toNat - BitVec.ofNat 32 s.now).toInt).toNat
/-- BROADCAST_DEADLINE (R391): at DEADLINE, or at a gap, the first round. -/
def execBroadcastDeadline (t : TileId) (s : State) : Host.Outcome State Fault Refusal :=
  let l := (s.tile t).load
  if s.hasTile t then .next (if l.loading && l.rounds = 0 && !l.missing.isEmpty then
    (if l.gap then s else s.reach (s.deadlineCount l + 1)).nextRound t false
  else s) else .fault .noSuchUnit
/-- RESEND_ROUND_TIMEOUT (R391). -/
def execResendRoundTimeout (t : TileId) (s : State) : Host.Outcome State Fault Refusal :=
  let l := (s.tile t).load
  if s.hasTile t then .next (if l.loading && l.rounds ≠ 0 && !l.missing.isEmpty then
    (s.reach (l.roundDeadline.toNat + 1 : Nat)).nextRound t false
  else s) else .fault .noSuchUnit
/-- RESEND (R391): Pintle answers a tile's round with the fragments it asks for. -/
def State.resendTaken (s : State) (t : TileId) (k : NetPkt) : State :=
  let bs := k.pkt.payload
  let n := fragCount s.tileImage
  let ks := if bitAt (fieldAt bs 3 1) 0 then List.range n
    else (List.range (fieldAt bs 4 2)).flatMap fun i =>
      (List.range (fieldAt bs (12 + 8 * i) 4)).map fun j => fieldAt bs (8 + 8 * i) 4 + j
  (s.lift k).pintleSends ((ks.filter (· < n)).map (s.fragmentFor t))
/-- RESEND (R391). [DESIGN CHOICE, log entry 58] -/
def execResend (t : TileId) (s : State) : Host.Outcome State Fault Refusal :=
  if s.hasTile t then
    .next (match s.net.find? fun k => k.pkt.type = 0x84 && k.pkt.tag.toNat = tileKey t && (match k.loc with
        | .ioDie e _ => !e
        | .router _ _ => false) with
      | some k => s.resendTaken t k
      | none => s)
  else .fault .noSuchUnit
/-- IMAGE_DIGEST_CHECK (R391): the whole image is there; its digest decides. -/
def execImageDigestCheck (t : TileId) (s : State) : Host.Outcome State Fault Refusal :=
  let v := s.tile t
  if s.hasTile t then .next (if v.load.loading && v.load.missing.isEmpty then
    if sha512 ((List.range v.load.length.toNat).map (v.imem.get (tileKey t))) = v.load.digest then
      s.modTile t fun v => { v with load := { (v.load.mark 2 v.load.rounds 0) with doneAt := some s.now } }
    else s.nextRound t true
  else s) else .fault .noSuchUnit

/-! Re-placement at the start. -/

/-- Tiles fenced at the start and the map made anew (R388); the tiles that receive a position are loaded by unicast. -/
def State.replace (s : State) (bad : List TileId) : State :=
  let before := s.allHolders
  let s1 := bad.foldl (fun s t => s.modTile t fun v => { v with ward := { v.ward with tfence := true } }) s
  let s2 := s1.placeAll.markTwins
  (s2.allHolders.filter fun t => !before.contains t).foldl State.unicastLoad s2
/-- The map after a re-placement still has a half-die, or the attempt fails. -/
def State.orNoHalfDie (s : State) : State := if s.anyLeft then s else s.failAttempt 0x06 s.boot.retireWhy
/-- FC_BROADCAST_INCOMPLETE of a tile (R362, R391). -/
def State.incomplete (s : State) (t : TileId) : State :=
  let l := (s.tile t).load
  let frag := l.missing.headD 0xFFFFFFFF
  s.unitFault none { cls := 0x16, unit := 5, addr := l.image.toNat * 2 ^ 48 + frag, clears := false }
/-- LOAD_STATUS_CHECK (R391, R392): tiles in STATE 3 fenced and re-placed; with every tile loaded the known-answer program starts. -/
def State.statusCheck (s : State) : State :=
  let hs := s.allHolders
  let bad := hs.filter fun t => (s.tile t).load.state = 3
  if !bad.isEmpty then ((bad.foldl State.incomplete s).replace bad).orNoHalfDie
  else if hs.all (fun t => (s.tile t).load.state = 2) && s.boot.kaRounds < 2 && hs.any (fun t => (s.tile t).load.ka = 0) then
    let s1 := hs.foldl (fun s t => if (s.tile t).load.ka = 0 then
      s.modTile t fun v => { v with load := v.load.mark 2 v.load.rounds 1 } else s) s
    { s1 with boot := { s1.boot with kaRounds := s1.boot.kaRounds + 1 } }
  else s
/-- LOAD_STATUS_CHECK (R391): at DEADLINE + 3 ms, or as soon as every tile is in STATE 2 or 3. -/
def execLoadStatusCheck (s : State) : Host.Outcome State Fault Refusal :=
  .next (if s.boot.stage = 5 && s.boot.tilesTested then
    let s := s.unitOverdue
    let hs := s.allHolders
    let early := hs.all fun t => 2 ≤ (s.tile t).load.state
    let last : Nat := hs.foldl (fun m t => max m (s.deadlineCount (s.tile t).load)) 0
    (if early then s else s.reach (last + 3000000 : Nat)).statusCheck
  else s)
/-- The BIST record of a tile that fails the known-answer run (R393): the run's time, and words of the facet, which the manual does not give. [DESIGN CHOICE, log entry 57] -/
def State.kaRecord (s : State) (x : TileId × U64 × U32) : BistRecord :=
  let hd := s.member.hdOf x.1
  let words := Config.facetWords (tileKey x.1) x.2.1.toNat
  { block := 14, result := 1, test := 6, source := 1, wher := BitVec.ofNat 32 (hd + 256 * colOf x.1 + 65536 * rowOf x.1), addr := x.2.1
    bits := x.2.2, expect := words.1, observed := words.2, timeUs := if s.boot.kaRounds = 2 then 100000 else 1500000 }
/-- KNOWN_ANSWER_DONE (R392): each tile that ran has KA 2, or KA 3 and is fenced with FC_BIST_FAIL, BLOCK 14. -/
def State.knownAnswer (s0 : State) (failed : List (TileId × U64 × U32)) : State :=
  let ran := s0.allHolders.filter fun t => (s0.tile t).load.ka = 1
  let s := ((failed.filter fun x => ran.contains x.1).map s0.kaRecord).foldl (fun s b => { s with
    boot := { s.boot with results := s.boot.results ++ [b] } }) s0
  let mark := fun (s : State) (t : TileId) (ka : Nat) => s.modTile t fun v => { v with load := v.load.mark 2 v.load.rounds ka }
  let bad := failed.filter fun x => ran.contains x.1
  let s1 := ran.foldl (fun s t => mark s t (if bad.any fun x => x.1 = t then 3 else 2)) s
  let s2 := bad.foldl (fun s x => (s.toInbox (s.mkRecord none none (BitVec.ofNat 16 (x.1.px.toNat * 256 + x.1.py.toNat)) {
      cls := 0x14, addr := x.2.1.toNat, bit := x.2.2.toNat, clears := false })).logDefect {
        kind := 1, source := 1, cls := 0x14, wher := tileWhere s.member x.1, detail := BitVec.ofNat 32 x.2.1.toNat }) s1
  if bad.isEmpty then s2 else (s2.replace (bad.map (·.1))).orNoHalfDie
/-- KNOWN_ANSWER_DONE (R392). -/
def execKnownAnswerDone (failed : List (TileId × U64 × U32)) (s : State) : Host.Outcome State Fault Refusal :=
  .next (if s.boot.stage = 5 && s.allHolders.any (fun t => (s.tile t).load.ka = 1) then s.knownAnswer failed else s)

/-! Ready (R394, R395). -/

/-- Every tile that holds a position is loaded and tested; a tile placed after the second run is not run again (R392). [DEDUCED, log entry 57] -/
def State.tilesReady (s : State) : Bool :=
  s.allHolders.all fun t =>
    let l := (s.tile t).load
    l.state = 2 && (l.ka = 2 || (l.ka = 0 && s.boot.kaRounds = 2))
/-- A mask of ports. -/
def portMask (f : PortId → Bool) : Nat := (List.finRange 16).foldl (fun m i => m + b2n (f i) * 2 ^ i.val) 0
/-- The header of the start report. -/
def State.reportHeader (s : State) : Bytes :=
  let b := s.boot
  padTo 64 (leBytes 2 1 ++ leBytes 1 (if b.warm then 1 else 2) ++ leBytes 1 b.slot ++ leBytes 2 s.retired.toNat ++
    leBytes 2 (min 4096 b.results.length) ++ leBytes 8 s.now ++ leBytes 2 (portMask fun i => (s.port i).isUp) ++
    leBytes 2 (portMask fun i => (s.port i).isUp && (s.port i).half.isSome) ++
    leBytes 2 (s.tiles.filter fun x => x.2.ward.tfence).length ++ leBytes 2 (s.rows.filter fun x => x.2.kind = .shifted).length ++
    (padTo 20 (b.stageMs.flatMap fun m => leBytes 4 m.toNat)))
/-- A BIST result record (R393). -/
def BistRecord.bytes (b : BistRecord) : Bytes :=
  [b.block, b.result, b.test, b.source] ++ leBytes 4 b.wher.toNat ++ leBytes 8 b.addr.toNat ++ leBytes 4 b.bits.toNat ++
    leBytes 4 b.expect.toNat ++ leBytes 4 b.observed.toNat ++ leBytes 4 b.timeUs.toNat
/-- The fused minimum SVN raised at READY (R466). -/
def State.raiseSvn (s : State) : State :=
  let vs := ([0, 1].filter fun k => (s.slot k).valid).map fun k => (s.slot k).svn
  match vs with
  | [] => s
  | v :: rest => { s with sec := { s.sec with fusedSvn := max s.sec.fusedSvn (rest.foldl min v) } }
/-- Key of the answer that a device reset owes, and of one that an exit from RETAIN or DORMANT owes. -/
def deviceResetKey : Nat := 2 ^ 23
def leaveKey : Nat := 2 ^ 24
/-- READY (R394). The settings record of a port that is up is the one its qualification wrote (R295). -/
def State.becomeReady (s : State) : State :=
  let b := s.boot
  let code := (b.leaving.map (·.2)).getD 2
  let total := { s with boot := { b with stageMs := b.stageMs.take 4 ++ [b.stageMs.getD 4 0 + s.stageElapsed] } }
  let hds := Vector.ofFn fun (i : Fin 16) => if s.retired.getLsbD i.val then 2 else code
  let s1 := s.logStart 0 0 0
  let s2 := ({ s1 with
    power := { s1.power with hd := hds, modState := 0, flashRecords := [], tripReg := none }
    boot := { s1.boot with
      phase := 2, stage := 0, strikes := 0, saved := true, deviceReset := false, leaving := none, resetSince := none, cause := none
      stackSaved := s.member.stacks.map fun k => (k, Config.stackSerial k)
      report := total.reportHeader ++ (b.results.take 4096).flatMap BistRecord.bytes } } : State).raiseSvn
  let s3 := (List.finRange 8).foldl (fun s f => s.postEvent f 2 0 0xFF total.reportHeader) s2
  let s4 := s3.answer (fun w => !w.queued && w.opcode = 0x080B && w.key = deviceResetKey) okStatus 0 []
  s4.answer (fun w => !w.queued && w.opcode = 0x0901 && w.key = leaveKey) okStatus 0 []
/-- READY (R394). [DEDUCED, log entry 57] -/
def execReady (s : State) : Host.Outcome State Fault Refusal :=
  .next (if s.boot.stage = 5 && s.boot.tilesTested && s.tilesReady && s.anyLeft then s.becomeReady else s)

/-! Stages. -/

/-- A failing I/O-die memory: a fault, and a port whose egress stage it is goes DOWN and stays so through the start (R394). [DESIGN CHOICE, log entry 57] -/
def State.ioDieBist (s : State) (b : BistRecord) : State :=
  let s1 := s.bistFault none 6 b
  match Config.ioDiePort b.addr with
  | some i => (s1.portDown i 0).modPort i fun q => { q with mode := 0 }
  | none => s1
/-- The faults of failing seam and I/O-die memory records (R393), which no resolution of R332 takes up. [DEDUCED, log entry 57] -/
def State.otherBist (s : State) (r : StageReport) : State :=
  (failing r.bist 13).foldl State.ioDieBist ((failing r.bist 10).foldl (fun s b => s.bistFault none 1 b) s)
/-- The first failing I/O-die memory that the part cannot do without: the inbox, the journal SRAM or a flat-identifier table (R394). -/
def ioDieFails (r : StageReport) : Option BistRecord := (failing r.bist 13).find? fun b => (Config.ioDiePort b.addr).isNone
/-- What the completed stage found, and what begins next (R378, R382 to R388). -/
def State.stageWork (s0 : State) (r : StageReport) : State :=
  let s := s0.otherBist r
  match s.boot.stage with
  | 1 =>
    let s1 := ({ s with boot := { s.boot with phase := 1, standbyRuns := r.standbyBooted, standby := false, fnsUp := true } } : State).recallRecords
    if r.standbyBooted then s1 else s1.postAdmin 6 3 []
  | 2 => s.meshStage r
  | 3 => (s.memoryStage r).linkStage r
  | 4 => s
  | _ =>
    let fails := r.bist.filter fun b => 1 ≤ b.block.toNat && b.block.toNat ≤ 7 && b.result = 1
    let s1 := ((s.member.allTiles.foldl (State.tileStage fails) s).laneStage r).placeAll.markTwins
    ({ s1 with boot := { s1.boot with tilesTested := true } } : State).broadcast
/-- START_STAGE_COMPLETE (R378): in stage 5 the report is that of tile BIST, the stage's first part; the others end their stage. [DEDUCED, log entry 57] -/
def State.stageDone (s : State) (r : StageReport) : State :=
  if s.boot.stage = 2 && !r.pllLocked then s.failAttempt 0x03 0
  else match ioDieFails r with
  | some b => (s.otherBist r).failAttempt 0x07 (13 + 256 * (b.wher.toNat % 256))
  | none =>
    let s1 := s.stageWork r
    let k := s.boot.stage
    let s2 : State := { s1 with boot := { s1.boot with
      stage := min 5 (k + 1), stageAt := s1.now, began := if k = 5 then s1.boot.began else s1.now, results := s1.boot.results ++ r.bist.filter (fun b => b.result ≠ 0)
      stageMs := s1.boot.stageMs ++ [r.elapsedMs] } }
    if k = 5 then s2.orNoHalfDie else s2
/-- START_STAGE_COMPLETE (R378). [DEDUCED, log entry 57] -/
def execStartStageComplete (r : StageReport) (s : State) : Host.Outcome State Fault Refusal :=
  .next (if s.attempting && !(s.boot.stage = 5 && s.boot.tilesTested) then s.stageDone r else s)

/-! Device resets and power cycles (R366, R370, R375, R401, R437). -/

/-- Every accepted command is answered, but for those a reset answers, and no apply awaits its beat (R437). -/
def State.settled (s : State) : Bool :=
  s.waiters.all (fun w => w.opcode = 0x080B && !w.queued) && allParts.all fun p => (s.part p).applies.isEmpty
/-- A start from stage 2, or through the boot ROM where a newly committed image waits (R380, R465). [DEDUCED, log entry 56] -/
def State.rerun (s : State) (deviceReset throughRom : Bool) : State :=
  if s.boot.strikes = 3 then s.thirdStrike
  else
    let s1 := s.strike (if throughRom then 1 else 2) deviceReset
    let s2 : State := { s1 with boot := { s1.boot with phase := if throughRom then 0 else 1 } }
    if throughRom then s2.loadImage else s2
/-- An attempt that the host abandons: STRIKES is what it was before (R401). -/
def State.abandonAttempt (s : State) : State :=
  if s.attempting then
    let s' := s.logStart 2 0 0
    { s' with boot := { s'.boot with strikes := s.boot.strikesBefore } }
  else s
/-- A device reset. One before READY abandons the attempt (R401). The core that a watchdog holds in reset runs again, as the standby (R372). [DEDUCED, log entry 56] -/
def State.deviceReset (s : State) : State :=
  let minimal := s.boot.phase = 3
  let s0 := s.abandonAttempt
  let s1 := s0.sendResets.wiped (!minimal)
  let s2 : State := { s1 with resets := s1.resets + 1, boot := { s1.boot with
    leaving := none, resetSince := some (s.boot.upNs + s.now), standbyRuns := s1.boot.standbyRuns || s1.boot.standby } }
  s2.rerun (!minimal) (minimal || s2.boot.active ≠ s2.boot.slot)
/-- DEVICE_RESET (R366): decided already, or now, when an I/O-die datapath has stopped; it waits for its answers (R437). [DEDUCED, log entry 56] -/
def execDeviceReset (s : State) : Host.Outcome State Fault Refusal :=
  .next (if s.boot.resetDue || (s.boot.phase ≠ 0 && !s.power.cycleReq) then
    let s1 : State := { s with boot := { s.boot with resetDue := true } }
    if s1.settled then s1.deviceReset else s1
  else s)
/-- PWR_CYCLE_REQ# asserted (R370, R375): links stopped, no work. One that the host commands before READY abandons the attempt (R401). [DEDUCED, log entry 56] -/
def State.powerCycle (s : State) : State :=
  let s0 := if s.power.cycleDue then s.abandonAttempt else s
  let s1 := s0.sendResets.wiped false
  { s1 with power := { s1.power with cycleReq := true, cycleDue := false }, boot := { s1.boot with phase := 0, stage := 0, deviceReset := false, resetSince := none } }
/-- The record that caused Pintle's own request, written to flash: that of the fault which led to the device reset, or the last one in the fault
log (R370). [DEDUCED, log entry 56] -/
def State.saveCause (s : State) : State :=
  match s.boot.cause.or (s.faultLog.getLast?.map (·.2)) with
  | some r => { s with power := { s.power with flashRecords := s.power.flashRecords ++ [{ r with severity := 4, action := 0x0D, level := 6 }] } }
  | none => s
/-- POWER_CYCLE_REQUEST (R366, R370): commanded, or a device reset that has not completed in 10 s. -/
def execPowerCycleRequest (s : State) : Host.Outcome State Fault Refusal :=
  .next (if s.power.cycleDue then s.powerCycle
    else match s.boot.resetSince with
      | some since => (s.reach ((since + 10000000001 : Nat) - (s.boot.upNs : Int))).saveCause.powerCycle
      | none => s)
/-- WATCHDOG_EXPIRY (R372, R383): before READY the attempt ends; else the standby takes over; with none left, a power cycle. -/
def execWatchdogExpiry (s : State) : Host.Outcome State Fault Refusal :=
  let b := s.boot
  .next (if s.attempting then s.failAttempt 0x05 0
    else if b.phase = 0 then s
    else if b.standbyRuns then
      let s1 : State := { s with boot := { b with standby := true, standbyRuns := false } }
      let r := { (s1.mkRecord none none 0xFFFF { cls := 6, unit := 5, addr := 8, clears := false }) with action := 0x12 }
      (s1.logFault r).postAdmin 6 3 []
    else s.powerCycle)

end Sys2Proof.Machine
end

