-- ==== Sys2Proof/Machine/Host.lean ====
section
/-!
DEFINITION. The host's side of the part (R402 to R424): links and resets of functions, BAR0 registers, the BAR2 aperture, host reads that the grid
waits for, MSI-X moderation and the telemetry mirror.
-/

namespace Sys2Proof.Machine

/-! Links and resets of functions (R402, R404, R406). -/

/-- Port B carries a function (R402). -/
def fnEast (f : FnId) : Bool := 4 ≤ f.val
/-- The function exists under the bifurcation in force (R402): 0 x16, 1 x8 + x8, 2 four x4. -/
def State.fnExists (s : State) (f : FnId) : Bool :=
  match (if fnEast f then s.bifur.2 else s.bifur.1).toNat with
  | 0 => f.val % 4 = 0
  | 1 => f.val % 2 = 0
  | _ => true
/-- A function with its host-facing state at reset values (R406): function control, event ring, mailboxes, MSI-X table. -/
def HostFn.faced (f : HostFn) : HostFn :=
  { gen := f.gen, countHi := f.countHi, bar2Refused := f.bar2Refused, aer := f.aer, mirrorGen := f.mirrorGen, mirrorCount := f.mirrorCount
    mirror := f.mirror, out := f.out }
/-- Host-bound requests of a function completed with UNREACHABLE (R230, R406). [DEDUCED, log entry 61] -/
def State.dropReads (s : State) (f : FnId) : State :=
  let reads := (s.fn f).reads
  reads.foldl (fun s q => s.refuseAt (fnUnit f) 0 (fnEast f) q stUnreachable) (s.modFn f fun v => { v with reads := [] })
/-- Responses owed to a function are discarded; what the commands do stands (R406, R432). [DEDUCED, log entry 61] -/
def State.hushFn (s : State) (f : FnId) : State :=
  let quiet := fun (a : Apply) => if a.req.fn = f then { a with quiet := true } else a
  { s with
    waiters := s.waiters.map fun w => if w.req.fn = f then { w with quiet := true } else w
    parts := s.parts.map fun q => { q with apply := q.apply.map quiet, direct := q.direct.map quiet } }
/-- The host-facing state of a function reset (R406). [DEDUCED, log entry 61] -/
def State.hostReset (s : State) (f : FnId) : State := ((s.dropReads f).hushFn f).modFn f HostFn.faced
/-- A function whose link is gone. [DEDUCED, log entry 61] -/
def State.fnGone (s : State) (f : FnId) : State := (s.modFn f fun v => { v with gen := 0 }).hostReset f
/-- PERST (R406): every function of the port. [DEDUCED, log entry 61] -/
def execPerst (portB : Bool) (s : State) : Host.Outcome State Fault Refusal :=
  .next (((List.finRange 8).filter fun f => fnEast f = portB).foldl State.fnGone s)
/-- FLR (R406). [DEDUCED, log entry 61] -/
def execFlr (f : FnId) (s : State) : Host.Outcome State Fault Refusal := .next (s.hostReset f)
/-- PCIE_LINK_DOWN (R406). [DEDUCED, log entry 61] -/
def execPcieLinkDown (f : FnId) (s : State) : Host.Outcome State Fault Refusal := .next (s.fnGone f)
/-- The function that administers in minimal mode as links train (R400): the lowest trained one of the port that serves, which the first port
to train settles. [DEDUCED, log entry 64] -/
def State.minimalUp (s : State) (f : FnId) : State :=
  if s.boot.phase ≠ 3 then s
  else if (s.fn s.adminFn).gen = 0 && (List.finRange 8).all (fun g => g = f || fnEast g ≠ fnEast s.adminFn || (s.fn g).gen = 0) then
    if (List.finRange 8).all fun g => g = f || (s.fn g).gen = 0 then { s with adminFn := f } else s
  else if fnEast f = fnEast s.adminFn && f.val < s.adminFn.val then { s with adminFn := f } else s
/-- PCIE_LINK_UP (R404): a link that does not reach Gen5 is disabled, and its function does not appear. [DEDUCED, log entry 61] -/
def execPcieLinkUp (f : FnId) (gen : Byte) (s : State) : Host.Outcome State Fault Refusal :=
  .next (if s.fnExists f && 5 ≤ gen.toNat && gen.toNat ≤ 7 && s.power.converters && !s.power.packageOff then
    (s.modFn f fun v => { v with gen := gen }).minimalUp f
  else s)
/-- HOST_READ_COMPLETION (R172): the data goes back to the initiator as CMPL_D. -/
def execHostReadCompletion (f : FnId) (tag : U16) (initiator : U32) (data : Bytes) (s : State) : Host.Outcome State Fault Refusal :=
  .next (match (s.fn f).reads.find? fun q => q.tag = tag && q.src = initiator && q.len.toNat = data.length with
    | some q =>
      ((s.modFn f fun v => { v with reads := v.reads.erase q }).place (fnEast f) none (ioReply (fnUnit f) 0 q stOk data)).1
    | none => s)

/-! BAR2 (R410, R411). -/

/-- Device memory answers: the part is READY and the C-dies are powered. [DEDUCED, log entry 62] -/
def State.memoryUp (s : State) : Bool := s.boot.phase = 2 && s.power.modState = 0 && !s.power.diesOff
/-- A byte of the entry save areas of a partition with a program set (R206). [DESIGN CHOICE, log entry 25] -/
def State.inSave (s : State) (p : PartId) (a : Nat) : Bool :=
  (s.part p).program.isSome && (s.part p).saveBase ≤ a && a < (s.part p).saveBase + 8192 * (s.nsOfPart p).length
/-- A range meets one that Pintle holds (R410). [DEDUCED, log entry 62] -/
def State.pintleOwns (s : State) (p : PartId) (a k : Nat) : Bool :=
  (List.range k).any fun i => match (s.part p).dpa (a + i) with
    | some d => (Config.pintleRanges.any fun r => r.1 ≤ d && d < r.1 + r.2) || s.inSave p (a + i)
    | none => false
/-- The partition address of an aperture access, none where the access is refused (R410). [DEDUCED, log entry 62] -/
def State.aperture (s : State) (f : FnId) (offset k : Nat) : Option Nat :=
  let v := s.fn f
  let q := s.part v.a2Part
  let a := v.a2Latched.toNat * 2 ^ 30 + offset
  if v.a2En && q.present && q.owner = f && offset + k ≤ 2 ^ 36 && q.inRange a (max k 1) && s.memoryUp && s.rangeOn v.a2Part a k &&
      !s.pintleOwns v.a2Part a k then some a
  else none
/-- A refused access (R410): counted, with an AER non-fatal error. -/
def HostFn.refuse (f : HostFn) : HostFn := { f with bar2Refused := f.bar2Refused + 1, aer := f.aer + 1 }
/-- FC_ECC_DRAM of a host read (R169, R377): the record is in the owner's ring before the completion goes out; a corrected word is counted
(R168). [DEDUCED, log entry 62] -/
def State.hostEcc (s : State) (p : PartId) (ecc : Ecc) : State :=
  match ecc with
  | .dram dpa sym =>
    let a : FaultArgs := { cls := 1, unit := 4, addr := dpa.toNat, bit := sym.toNat }
    let r := s.mkRecord (some p) none 0xFFFF a
    let closed := (s.part p).latch.fixed = some true
    let r1 := if closed then { r with flags := r.flags ||| 4 } else r
    (((s.countFault (some p)).takeRecord r1).clearPart p 1).markRow (s.dramLoc dpa.toNat) sym 1
  | e => s.correctDram e
/-- BAR2_READ (R410, R411). [DEDUCED, log entry 62] -/
def execBar2Read (f : FnId) (offset : BitVec 36) (len : BitVec 13) (ecc : Ecc) (s : State) : Host.Outcome State Fault Refusal :=
  let p := (s.fn f).a2Part
  let k := len.toNat
  .next (if (s.fn f).gen = 0 then s
    else match s.aperture f offset.toNat k with
      | some a =>
        let e := s.retiredEcc p a k ecc
        let u := match e with
          | .dram dpa _ => s.upsetDram dpa.toNat
          | _ => s
        (u.hostEcc p e).modFn f fun v => { v with out := v.out ++ [.completion (u.partRead p a k) true] }
      | none => s.modFn f fun v => { v.refuse with out := v.out ++ [.completion [] false] })
/-- Pieces of at most 256 bytes that cross no 4 KiB boundary. -/
def cutPieces : Nat → Nat → Bytes → List (Nat × Bytes)
  | 0, _, _ => []
  | _ + 1, _, [] => []
  | n + 1, a, bs =>
    let k := min 256 (4096 - a % 4096)
    (a, bs.take k) :: cutPieces n (a + k) (bs.drop k)
/-- A host write as a job packet, for the mirror port (R280). [DEDUCED, log entry 62] -/
def State.hostPacket (s : State) (f : FnId) (p : PartId) (a : Nat) (bs : Bytes) : Packet :=
  { type := 1, vc := 0, dl := false, mcast := false, refwd := false, fence := false, ue := false, len := BitVec.ofNat 9 bs.length, gen := 0
    dst := nativeAddr (s.part p).coord.toNat 0 0 6, src := 0, dphys := 0, dstu := 0, srcu := BitVec.ofNat 4 (hostUnit f)
    part := BitVec.ofNat 8 p.val, addr := BitVec.ofNat 64 a, step := 0, tag := 0, payload := bs }
/-- BAR2_WRITE (R410, R411): written when it arrives; mirrored by a reference partition (R280). [DEDUCED, log entry 62] -/
def execBar2Write (f : FnId) (offset : BitVec 36) (data : Bytes) (s : State) : Host.Outcome State Fault Refusal :=
  let p := (s.fn f).a2Part
  .next (if (s.fn f).gen = 0 then s
    else match s.aperture f offset.toNat data.length with
      | some a =>
        (cutPieces data.length a data).foldl (fun s x => s.mirror p (s.hostPacket f p x.1 x.2)) (s.partWrite p a data)
      | none => s.modFn f HostFn.refuse)

/-! BAR0 (R407 to R409, R416, R421). -/

/-- A write of A2_CTL latches A2_BASE (R409). -/
def HostFn.a2Ctl (f : HostFn) (v : U32) : HostFn :=
  { f with a2En := v.getLsbD 31, a2Part := ⟨v.toNat % 16, Nat.mod_lt _ (by decide)⟩, a2Latched := f.a2Base }
/-- A write of EV_CTL (R421). EN = 1 with LOG2 outside 6 to 16 is ignored, and LOG2 stays while EN = 1. [DEDUCED, log entry 62] -/
def HostFn.evCtl (f : HostFn) (v : U32) : HostFn :=
  let en := v.getLsbD 31
  let lg : BitVec 5 := if f.evEn then f.evLog2 else BitVec.ofNat 5 v.toNat
  if en && !(6 ≤ lg.toNat && lg.toNat ≤ 16) then f
  else
    let f1 := { f with evEn := en, evMsix := v.getLsbD 30, evLog2 := lg }
    if en && !f.evEn then { f1 with evHead := 0, evTail := 0, evLost := 0 } else f1
/-- A change that an access to BAR0 makes: none before Pintle has configured the functions, since no host has placed a BAR until then (R382). [DEDUCED, log entry 62] -/
def State.onBar0 (s : State) (f : FnId) (g : HostFn → HostFn) : State := if s.boot.fnsUp then s.modFn f g else s
/-- A2_CTL_WRITE (R409). -/
def execA2CtlWrite (f : FnId) (v : U32) (s : State) : Host.Outcome State Fault Refusal := .next (s.onBar0 f fun x => x.a2Ctl v)
/-- EV_CTL_WRITE (R421). -/
def execEvCtlWrite (f : FnId) (v : U32) (s : State) : Host.Outcome State Fault Refusal := .next (s.onBar0 f fun x => x.evCtl v)
/-- EV_TAIL_WRITE (R423). -/
def execEvTailWrite (f : FnId) (v : U32) (s : State) : Host.Outcome State Fault Refusal := .next (s.onBar0 f fun x => { x with evTail := v })
/-- What a mailbox shows a reader at an offset (R416): its words, then the headers and bodies. [DEDUCED, log entry 62] -/
def Mbox.shows (m : Mbox) : Bytes :=
  leBytes 4 m.reqSeq.toNat ++ leBytes 4 m.acceptSeq.toNat ++ leBytes 4 m.rspSeq.toNat ++ leBytes 4 0 ++
    (List.range 2032).map (fun i => (kget (16 + i) m.request).getD 0) ++
    padTo 2048 (leBytes 2 m.status.toNat ++ leBytes 2 m.response.length ++ leBytes 2 m.rspTag.toNat ++ leBytes 2 m.detail.toNat ++ m.response)
/-- What the telemetry mirror shows (R424): GEN, the count of the rewrite, the records from offset 64. [DEDUCED, log entry 62] -/
def HostFn.mirrorShows (f : HostFn) : Bytes := padTo 64 (leBytes 8 f.mirrorGen.toNat ++ leBytes 8 f.mirrorCount.toNat) ++ f.mirror
/-- The half-dies of the partitions that a function owns (R408). [DEDUCED, log entry 62] -/
def State.ownedBy (s : State) (f : FnId) : Nat :=
  allParts.foldl (fun m p => if (s.part p).present && (s.part p).owner = f then m ||| (s.part p).hds.toNat else m) 0
/-- The word that a read of BAR0 finds (R407 to R409, R416, R421, R424): its low 32 bits are the register, and an offset that no table lists reads
zero. The read of COUNT_LO also latches COUNT_HI. [DEDUCED, log entry 62] -/
def State.bar0Read (s : State) (f : FnId) (o : Nat) : Nat :=
  let x := s.fn f
  if 0x10000 ≤ o && o < 0x50000 then
    fieldAt (s.mbox f ⟨(o - 0x10000) / 4096 % 64, Nat.mod_lt _ (by decide)⟩).shows (o % 4096) 4
  else if 0x100000 ≤ o && o < 0x200000 then fieldAt x.mirrorShows (o - 0x100000) 4
  else match o with
    | 0x0 => s.member.code * 2 ^ 16 + Config.hwRev.toNat * 2 ^ 8 + 1
    | 0x4 => b2n (s.adminFn = f) * 2 ^ 15 + s.adminFn.val * 2 ^ 8 + f.val
    | 0x8 => s.boot.phase * 2 ^ 28 + s.boot.strikes * 2 ^ 26 + s.resets.toNat % 2 ^ 16
    | 0xC => s.ownedBy f
    | 0x10 => s.now
    | 0x14 => x.countHi.toNat
    | 0x100 => x.mboxEn.toNat % 2 ^ 32
    | 0x104 => x.mboxEn.toNat / 2 ^ 32
    | 0x108 => b2n x.a2En * 2 ^ 31 + x.a2Part.val
    | 0x110 => x.a2Base.toNat % 4 * 2 ^ 30
    | 0x114 => x.a2Base.toNat / 4
    | 0x1000 => x.evBase.toNat % 2 ^ 32
    | 0x1004 => x.evBase.toNat / 2 ^ 32
    | 0x1008 => b2n x.evEn * 2 ^ 31 + b2n x.evMsix * 2 ^ 30 + x.evLog2.toNat
    | 0x100C => x.evMod.toNat
    | 0x1010 => x.evHead.toNat
    | 0x1014 => x.evTail.toNat
    | 0x1018 => x.evLost.toNat
    | 0x2000 => fieldAt x.msixTable 0 4
    | 0x2004 => fieldAt x.msixTable 4 4
    | 0x2008 => fieldAt x.msixTable 8 4
    | 0x200C => fieldAt x.msixTable 12 4
    | 0x3000 => b2n x.msixPending
    | _ => 0
/-- COUNT_LO_READ (R408): COUNT_HI is latched as the low word goes out. -/
def execCountLoRead (f : FnId) (s : State) : Host.Outcome State Fault Refusal :=
  .next (s.onBar0 f fun x => { x with
    countHi := BitVec.ofNat 32 (s.now / 2 ^ 32), out := x.out ++ [.completion (leBytes 4 (s.bar0Read f 0x10)) true] })
/-- A half of a 64-bit register written. -/
def putHalf (old : U64) (hi : Bool) (v : U32) : U64 :=
  if hi then BitVec.ofNat 64 (v.toNat * 2 ^ 32 + old.toNat % 2 ^ 32) else BitVec.ofNat 64 (old.toNat / 2 ^ 32 * 2 ^ 32 + v.toNat)
/-- A write into a mailbox (R416): REQ_SEQ, or the request area; the rest is ignored. -/
def Mbox.write (m : Mbox) (o : Nat) (v : U32) : Mbox :=
  if o = 0 then { m with reqSeq := v }
  else if 16 ≤ o && o < 2048 then { m with request := cellsPut (some 0) m.request o (leBytes 4 v.toNat) }
  else m
/-- A write into the MSI-X table entry; a vector that is unmasked sends what it has pending (R423). -/
def HostFn.msixWrite (now : Nat) (f : HostFn) (o : Nat) (v : U32) : HostFn :=
  let f1 := { f with msixTable := f.msixTable.take o ++ leBytes 4 v.toNat ++ f.msixTable.drop (o + 4) }
  if f1.msixPending && !f1.masked then ({ f1 with msixPending := false } : HostFn).signal now else f1
/-- A 32-bit write to BAR0 (R11, R407): fields of type RO, and offsets that no table lists, ignore it. [DEDUCED, log entry 62] -/
def State.bar0Write (s : State) (f : FnId) (offset : Nat) (v : U32) : State :=
  if offset % 4 ≠ 0 then s
  else if 0x10000 ≤ offset && offset < 0x50000 then
    let m : MboxId := ⟨(offset - 0x10000) / 4096 % 64, Nat.mod_lt _ (by decide)⟩
    s.modMbox f m fun x => x.write (offset % 4096) v
  else s.modFn f fun x => match offset with
    | 0x100 => { x with mboxEn := putHalf x.mboxEn false v }
    | 0x104 => { x with mboxEn := putHalf x.mboxEn true v }
    | 0x108 => x.a2Ctl v
    | 0x110 => { x with a2Base := BitVec.ofNat 12 (x.a2Base.toNat / 4 * 4 + v.toNat / 2 ^ 30) }
    | 0x114 => { x with a2Base := BitVec.ofNat 12 (v.toNat % 2 ^ 10 * 4 + x.a2Base.toNat % 4) }
    | 0x1000 => if x.evEn then x else { x with evBase := putHalf x.evBase false (v &&& 0xFFFFF000) }
    | 0x1004 => if x.evEn then x else { x with evBase := putHalf x.evBase true v }
    | 0x1008 => x.evCtl v
    | 0x100C => { x with evMod := BitVec.ofNat 16 v.toNat }
    | 0x1014 => { x with evTail := v }
    | 0x2000 => x.msixWrite s.now 0 v
    | 0x2004 => x.msixWrite s.now 4 v
    | 0x2008 => x.msixWrite s.now 8 v
    | 0x200C => x.msixWrite s.now 12 v
    | _ => x
/-- REGISTER_WRITE (R11, R382). -/
def execRegisterWrite (f : FnId) (offset : BitVec 22) (v : U32) (s : State) : Host.Outcome State Fault Refusal :=
  .next (if s.boot.fnsUp then s.bar0Write f offset.toNat v else s)
/-- MSIX_MODERATION_EXPIRY (R423): the message that was held back goes out, if the ring still holds an event. -/
def execMsixModerationExpiry (f : FnId) (s : State) : Host.Outcome State Fault Refusal :=
  let v := s.fn f
  .next (match v.msixOwed, v.lastMsix with
    | true, some t =>
      let s1 := s.reach (t + v.evMod.toNat * 1000 : Nat)
      s1.modFn f fun x => if x.evHead = x.evTail then { x with msixOwed := false } else { x.signal s1.now with msixOwed := false }
    | _, _ => s)

/-! The telemetry mirror (R424, R441). -/

/-- STATE of PORT_READ. -/
def linkStateCode : LinkState → Nat
  | .down => 0
  | .up => 1
  | .refused => 2
  | .admitted => 3
  | .silent => 4
/-- A telemetry record: header and body. [DEDUCED, log entry 63] -/
def telemetryRec (kind index : Nat) (body : Bytes) : Bytes :=
  leBytes 2 kind ++ leBytes 2 (8 + body.length) ++ leBytes 1 index ++ [0, 0, 0] ++ body
/-- The hottest sample of a set of sensors, in 0.1 °C. -/
def hottest : List Int → Int
  | [] => 0
  | t :: ts => ts.foldl max t
/-- The device record. [DEDUCED, log entry 63] -/
def State.deviceRec (s : State) : Bytes :=
  let w := s.power
  telemetryRec 1 0 (leBytes 4 w.inputMv ++ leBytes 4 w.inputMa ++ leBytes 4 w.inputW ++
    leBytes 2 (unsignedOf 16 (hottest (w.temps.map (·.2)))) ++ leBytes 2 w.inlet.toNat ++ leBytes 2 w.outlet.toNat ++ leBytes 2 w.flow.toNat)
/-- Core cycles of a bubble time in a partition: 2.4 GHz where every half-die is TRIMMED (R446, R458). [DEDUCED, log entry 63] -/
def State.bubbleCycles (s : State) (q : Part) (ns : Nat) : Nat :=
  if q.hdList.all fun hd => s.power.hd.toList.getD hd 0 = 1 then ns * 12 / 5 else ns * 3
/-- A partition's record. [DEDUCED, log entry 63] -/
def State.partRec (s : State) (p : PartId) : Bytes :=
  let q := s.part p
  let last := (q.energy.getLast?.map fun r => r.bubbleNs.toNat).getD 0
  telemetryRec 2 p.val (leBytes 8 q.beat ++ leBytes 8 q.step.toNat ++ leBytes 1 q.attempt ++ leBytes 1 q.flagsByte ++ [0, 0] ++
    leBytes 4 q.powerW ++ leBytes 8 q.energyTotal ++ leBytes 4 (s.bubbleCycles q last))
/-- A port's record: its native link, or its first session. [DEDUCED, log entry 63] -/
def State.portRec (s : State) (i : PortId) : Bytes :=
  let q := s.port i
  let l := q.link (q.links.headD none)
  telemetryRec 3 i.val (leBytes 1 (linkStateCode l.state) ++ leBytes 1 (q.lanes.toList.filter fun x => x.state = .up).length ++ [0, 0] ++
    leBytes 4 l.replays.toNat ++ leBytes 4 l.latchNs)
/-- A function may see a partition's figures (R414, R424). -/
def State.sees (s : State) (f : FnId) (p : PartId) : Bool := (s.part p).present && ((s.part p).owner = f || s.adminFn = f)
/-- A function may see a port's figures. -/
def State.seesPort (s : State) (f : FnId) (i : PortId) : Bool := s.adminFn = f || ((s.port i).part.map (s.sees f)).getD false
/-- The records of a kind that a function may see; 0 is every kind. -/
def State.telemetry (s : State) (f : FnId) (kind : Nat) : List Bytes :=
  (if kind = 0 || kind = 1 then [s.deviceRec] else []) ++
  (if kind = 0 || kind = 2 then (allParts.filter (s.sees f)).map s.partRec else []) ++
  (if kind = 0 || kind = 3 then ((List.finRange 16).filter (s.seesPort f)).map s.portRec else [])
/-- The hottest sample of a die: a half-die, 0xFE for IO-W, 0xFF for IO-E. -/
def Power.hottestOf (w : Power) (die : Nat) : Int := hottest ((w.temps.filter fun t => t.1 / 256 = die).map (·.2))
/-- The sensors of R476 in the order of its table: input voltage, current, power; the hottest junction of each half-die and I/O die; coolant
inlet, outlet, flow; the power state of each half-die; PHASE; THERMTRIP#. [DEDUCED, log entry 63] -/
def State.sensorValues (s : State) : List Int :=
  let w := s.power
  let junctions := (List.range 16 ++ [0xFE, 0xFF]).map w.hottestOf
  let states := w.hd.toList.map fun c => (((if w.modState = 0 then c else w.modState) : Nat) : Int)
  [(w.inputMv : Int), w.inputMa, w.inputW] ++ junctions ++ [w.inlet.toInt, w.outlet.toInt, (w.flow.toNat : Int)] ++ states ++
    [(s.boot.phase : Int), (b2n w.thermTrip : Int)]
/-- TELEMETRY_REWRITE (R424): GEN goes odd, then even again; monitors read what it left (R476). -/
def execTelemetryRewrite (s : State) : Host.Outcome State Fault Refusal :=
  .next (if s.pintleUp then
    let s1 : State := { s with power := { s.power with sensors := s.sensorValues } }
    (List.finRange 8).foldl (fun s f => s.modFn f fun v => { v with
      mirrorGen := v.mirrorGen + 2, mirrorCount := s.count, mirror := (s.telemetry f 0).flatten }) s1
  else s)

end Sys2Proof.Machine
end

