-- ==== Sys2Proof/Machine/Requests.lean ====
section
/-!
DEFINITION. How Pintle takes a command (R416 to R419, R433 to R437): forms and lengths, rights, the phases in which it is served, the order of
commands on a partition, staging and the apply without STAGE.
-/

namespace Sys2Proof.Machine

/-! Answers. -/

/-- What a command leaves: the state, and its answer (status, DETAIL, body) unless it comes later. -/
abbrev Ans := State × Option (Nat × Nat × Bytes)
/-- Refused with a status. -/
def State.no (s : State) (status : Nat) : Ans := (s, some (status, 0, []))
/-- ST_BAD_ARG with a reason and a fault class (R439). -/
def State.bad (s : State) (reason : Nat := 0) (cls : Nat := 0) : Ans := (s, some (badArg, reason * 256 + cls, []))
/-- ST_OK with a body. -/
def State.yes (s : State) (body : Bytes) : Ans := (s, some (okStatus, 0, body))
/-- Answered later. -/
def State.later (s : State) : Ans := (s, none)
/-- The answer of an outcome written, if it has one. -/
def Ans.write (a : Ans) (r : Req) : State := match a.2 with
  | some (st, d, body) => a.1.respond r st d body
  | none => a.1

/-! Forms (R433, R434). -/

/-- Who may send a command. -/
inductive Who where
  | admin
  | owner
  | ownerAdmin
  | any
  /-- The owner of the port's partition, else the administrator. -/
  | port
  /-- Decided by the command itself. -/
  | command
  deriving DecidableEq, Repr
/-- The form of a command: who may send it, whether it may be staged, its fields as offset and size, bytes of which only some bits are named,
and for a body of variable length its greatest length and the bytes of one item. -/
structure Form where
  who : Who
  staged : Bool := false
  fields : List (Nat × Nat) := []
  bits : List (Nat × Nat) := []
  tail : Option (Nat × Nat) := none
  deriving DecidableEq, Repr
/-- Forms of the commands of identity, partitions, memory. -/
def formsMemory : List (Nat × Form) := [
  (0x0101, { who := .any }),
  (0x0102, { who := .admin, fields := [(0, 1), (1, 1)] }),
  (0x0201, { who := .admin, fields := [(0, 1), (1, 1), (2, 1), (4, 2)], bits := [(2, 1)] }),
  (0x0202, { who := .admin, fields := [(0, 1)] }),
  (0x0203, { who := .ownerAdmin, fields := [(0, 1)] }),
  (0x0204, { who := .owner, staged := true, fields := [(0, 1), (1, 1), (2, 1), (4, 4)] }),
  (0x0301, { who := .owner, staged := true, fields := [(0, 1), (1, 1), (2, 2), (4, 4)] }),
  (0x0302, { who := .owner, staged := true, fields := [(0, 1), (4, 4), (8, 4)] }),
  (0x0303, { who := .owner, fields := [(0, 1)] }),
  (0x0304, { who := .owner, fields := [(0, 1), (4, 4), (8, 4)] }),
  (0x0305, { who := .owner, staged := true, fields := [(0, 1), (2, 2), (8, 8)], tail := some (2024, 8) }),
  (0x0306, { who := .ownerAdmin, fields := [(0, 1), (2, 2)] })]
/-- Forms of the commands of programs, jobs, beat and manifest. -/
def formsJobs : List (Nat × Form) := [
  (0x0401, { who := .owner, fields := [(0, 1), (8, 8), (16, 8)] }),
  (0x0402, { who := .owner, fields := [(0, 1)] }),
  (0x0403, { who := .owner, staged := true, fields := [(0, 1), (8, 8)], bits := [(14, 0), (15, 0)] }),
  (0x0404, { who := .owner, fields := [(0, 1)] }),
  (0x0405, { who := .owner, fields := [(0, 1)] }),
  (0x0406, { who := .owner, staged := true, fields := [(0, 1)] }),
  (0x0407, { who := .owner, staged := true, fields := [(0, 1), (1, 1), (2, 1), (8, 8)] }),
  (0x0408, { who := .owner, fields := [(0, 1), (1, 1), (2, 2), (4, 1), (8, 8)] }),
  (0x0501, { who := .owner, fields := [(0, 1), (8, 8)], bits := [(14, 0), (15, 0)] }),
  (0x0502, { who := .owner, fields := [(0, 1)] }),
  (0x0503, { who := .ownerAdmin, fields := [(0, 1)] }),
  (0x0504, { who := .admin, fields := [(0, 2), (2, 1)] }),
  (0x0505, { who := .owner, fields := [(0, 1), (8, 8)] }),
  (0x0506, { who := .admin, fields := [(0, 1)] }),
  (0x0601, { who := .owner, fields := [(0, 1), (2, 2), (8, 8), (16, 4)], bits := [(3, 0x3F)] }),
  (0x0602, { who := .owner, staged := true, fields := [(0, 1), (1, 1), (2, 1), (4, 4), (8, 8), (16, 2)], bits := [(17, 0x3F)] }),
  (0x0603, { who := .owner, staged := true, fields := [(0, 1)] }),
  (0x0604, { who := .ownerAdmin, fields := [(0, 1)] }),
  (0x0605, { who := .owner, staged := true, fields := [(0, 1), (8, 8), (16, 8)] }),
  (0x0606, { who := .owner, staged := true, fields := [(0, 1), (1, 1), (2, 2), (4, 1), (8, 8)], bits := [(4, 1)] })]
/-- Forms of the commands of links. -/
def formsLinks : List (Nat × Form) := [
  (0x0701, { who := .port, fields := [(0, 1), (1, 1), (2, 1)] }),
  (0x0702, { who := .admin, fields := [(0, 1), (1, 1)] }),
  (0x0703, { who := .owner, staged := true, fields := [(0, 1), (2, 6)], bits := [(2, 0x8F), (3, 0x8F), (4, 0x8F), (5, 0x8F), (6, 0x8F), (7, 0x8F)] }),
  (0x0704, { who := .port, fields := [(0, 1), (1, 1), (2, 2), (4, 8), (12, 6), (20, 16), (36, 6)], bits := [(1, 1), (4, 0x3F), (5, 0x3F), (6, 0x3F), (7, 0x3F), (8, 0x3F), (9, 0x3F), (10, 0x3F), (11, 0x3F)] }),
  (0x0705, { who := .port, fields := [(0, 1), (2, 2), (8, 24)], tail := some (1544, 24) }),
  (0x0706, { who := .port, fields := [(0, 1), (1, 1)] }),
  (0x0707, { who := .port, staged := true, fields := [(0, 1), (1, 1)] }),
  (0x0708, { who := .port, staged := true, fields := [(0, 1), (1, 1), (4, 32)] }),
  (0x0709, { who := .port, fields := [(0, 1), (1, 1)] })]
/-- Forms of the commands of health, test and fence. -/
def formsHealth : List (Nat × Form) := [
  (0x0801, { who := .any, fields := [(4, 4)] }),
  (0x0802, { who := .ownerAdmin, fields := [(0, 1), (4, 4)] }),
  (0x0803, { who := .ownerAdmin, fields := [(0, 1), (4, 4)] }),
  (0x0804, { who := .command, fields := [(0, 1), (1, 1), (2, 2), (4, 2)] }),
  (0x0805, { who := .any }),
  (0x0806, { who := .command, fields := [(0, 1), (1, 1), (2, 2), (4, 1), (5, 1), (6, 1)], bits := [(1, 3)] }),
  (0x0807, { who := .command, fields := [(0, 1), (4, 4), (8, 2)] }),
  (0x0808, { who := .command, fields := [(0, 1), (1, 1), (2, 2), (4, 1), (5, 1), (6, 1)], bits := [(1, 1)] }),
  (0x0809, { who := .admin, fields := [(0, 1), (4, 1), (5, 1), (6, 1), (8, 8)] }),
  (0x080A, { who := .admin, fields := [(4, 4)] }),
  (0x080B, { who := .command, fields := [(0, 1), (1, 1), (2, 2), (4, 1), (5, 1), (6, 1)] }),
  (0x080C, { who := .admin, fields := [(0, 1)] }),
  (0x080D, { who := .admin })]
/-- Forms of the commands of power, firmware, telemetry, services. -/
def formsOther : List (Nat × Form) := [
  (0x0901, { who := .command, staged := true, fields := [(0, 1), (1, 1), (2, 2)] }),
  (0x0902, { who := .owner, staged := true, fields := [(0, 1), (4, 4)] }),
  (0x0903, { who := .command, fields := [(0, 1), (8, 8)] }),
  (0x0A01, { who := .admin, fields := [(4, 4), (8, 16)], tail := some (2024, 16) }),
  (0x0A02, { who := .admin, fields := [(0, 4)] }),
  (0x0A03, { who := .any }),
  (0x0A04, { who := .any, fields := [(0, 1)], tail := some (2024, 1) }),
  (0x0A05, { who := .admin, fields := [(0, 1)] }),
  (0x0B01, { who := .any, fields := [(0, 1)] }),
  (0x0C01, { who := .owner, fields := [(0, 33), (34, 34), (72, 16)] }),
  (0x0C02, { who := .owner, staged := true, fields := [(0, 1), (2, 2)] }),
  (0x0C03, { who := .owner, staged := true, fields := [(0, 1), (2, 2), (4, 2), (8, 24)], tail := some (2024, 24) }),
  (0x0C04, { who := .ownerAdmin, fields := [(0, 1), (2, 2)] })]
/-- The form of an opcode, none where it is unknown. [DEDUCED, log entry 85] -/
def formOf (op : Nat) : Option Form := kget op (formsMemory ++ formsJobs ++ formsLinks ++ formsHealth ++ formsOther)
/-- The least length of a body: the end of its last field. -/
def Form.size (f : Form) : Nat := f.fields.foldl (fun m x => max m (x.1 + x.2)) 0
/-- LENGTH is right for the form, and for the count of items that the body itself announces (R433). -/
def Form.lengthOk (f : Form) (op : Nat) (body : Bytes) : Bool :=
  let n := body.length
  match f.tail with
  | none => n = f.size
  | some (most, item) =>
    f.size ≤ n && n ≤ most && (n - f.size) % item = 0 &&
      (match op with
      | 0x0305 => n = 8 + 8 * fieldAt body 2 2
      | 0x0705 => n = 8 + 24 * fieldAt body 2 2
      | 0x0C03 => n = 8 + 24 * fieldAt body 4 2
      | _ => true)
/-- Reserved bytes inside the items of a body (R433). -/
def itemReserved (op : Nat) (body : Bytes) : Bool :=
  match op with
  | 0x0305 => (List.range (fieldAt body 2 2)).any fun i => fieldAt body (12 + 8 * i) 4 / 2 ^ 13 % 2 ^ 14 ≠ 0
  | 0x0705 => (List.range (fieldAt body 2 2)).any fun i => 2 ^ 18 ≤ fieldAt body (8 + 24 * i) 4 || fieldAt body (28 + 24 * i) 4 ≠ 0
  | 0x0C03 => (List.range (fieldAt body 4 2)).any fun i => 4 ≤ fieldAt body (10 + 24 * i) 1 || fieldAt body (11 + 24 * i) 1 ≠ 0
  | _ => false
/-- A Reserved field of the request is nonzero (R12, R433). [DEDUCED, log entry 85] -/
def Form.reserved (f : Form) (op flags : Nat) (body : Bytes) : Bool :=
  let named := fun i => f.fields.any fun x => x.1 ≤ i && i < x.1 + x.2
  4 ≤ flags ||
    ((List.range f.size).any fun i => !named i && byteAt body i ≠ 0) ||
    (f.bits.any fun b => (byteAt body b.1).toNat ||| b.2 ≠ b.2) || itemReserved op body

/-! What is served when (R382, R400, R437, R448, R456). -/

/-- Reads of the health group and of identity. -/
def isHealthRead (op : Nat) : Bool := op = 0x0101 || (0x0801 ≤ op && op ≤ 0x0807)
/-- Served in minimal mode (R400). -/
def minimalServes (op : Nat) (body : Bytes) : Bool :=
  op / 256 = 1 || op / 256 = 0x0A || op = 0x0801 || op = 0x080D || (op = 0x0807 && fieldAt body 0 1 ≤ 3) ||
    (op = 0x080B && 5 ≤ fieldAt body 0 1)
/-- Served from the end of stage 1 until READY (R382, R401). -/
def startServes (op : Nat) : Bool := op / 256 = 1 || op / 256 = 8
/-- Served in RETAIN and DORMANT (R448). -/
def idleServes (op : Nat) : Bool := op / 256 = 1 || op / 256 = 8 || op / 256 = 0x0A || op = 0x0901
/-- The status with which a command that is not served now is turned away. -/
def State.notServed (s : State) (op : Nat) (body : Bytes) : Option Nat :=
  if s.boot.phase = 3 then (if minimalServes op body then none else some minimalMode)
  else if s.boot.phase = 1 && !startServes op then some notReady
  else if (s.boot.resetDue || s.power.cycleDue) && !isHealthRead op then some notReady
  else if s.power.diesOff && !isHealthRead op then some notReady
  else if s.power.modState ≠ 0 && !idleServes op then some notReady
  else none

/-! Rights (R414, R434). -/

/-- The partition that a byte of the body names, if there is one. -/
def State.named (s : State) (body : Bytes) (off : Nat) : Option PartId :=
  let n := fieldAt body off 1
  if h : n < 16 then (if (s.part ⟨n, h⟩).present then some ⟨n, h⟩ else none) else none
/-- The port that byte 0 of the body names. -/
def portNamed (body : Bytes) : Option PortId := let n := fieldAt body 0 1; if h : n < 16 then some ⟨n, h⟩ else none
/-- The function owns the partition. -/
def State.owns (s : State) (f : FnId) (p : PartId) : Bool := (s.part p).present && (s.part p).owner = f
/-- The function may act on a port: the owner of its partition, or the administrator for a port of none. -/
def State.ownsPort (s : State) (f : FnId) (i : PortId) : Bool := match (s.port i).part with
  | some p => s.owns f p
  | none => s.adminFn = f
/-- The refusal that rights call for. A command on a partition that is not there, or a port out of range, has a field out of range (R432). [DEDUCED, log entry 85] -/
def State.rights (s : State) (who : Who) (r : Req) : Option (Nat × Nat) :=
  match who with
  | .any => none
  | .command => none
  | .admin => if s.adminFn = r.fn then none else some (denied, 0)
  | .owner => match s.named r.body 0 with
    | none => some (badArg, 0)
    | some p => if s.owns r.fn p then none else some (denied, 0)
  | .ownerAdmin => match s.named r.body 0 with
    | none => some (badArg, 0)
    | some p => if s.owns r.fn p || s.adminFn = r.fn then none else some (denied, 0)
  | .port => match portNamed r.body with
    | none => some (badArg, 0)
    | some i => if s.ownsPort r.fn i then none else some (denied, 0)
/-- The refusals that every command shares, in the order of R418, then STAGE (R435) and the rights: status and DETAIL. [DEDUCED, log entry 85] -/
def State.refusal (s : State) (op : Nat) (r : Req) : Option (Nat × Nat) :=
  match formOf op with
  | none => some (badOpcode, 0)
  | some f =>
    if !f.lengthOk op r.body then some (badArg, 0x3000)
    else if f.reserved op r.flags.toNat r.body then some (badArg, 0x3100)
    else match s.notServed op r.body with
      | some st => some (st, 0)
      | none =>
        if bitAt r.flags.toNat 0 && !f.staged then some (badArg, 0x3200) else s.rights f.who r

/-! The order of commands on a partition (R419). -/

/-- The partition number in a byte of the body. -/
def partByte (body : Bytes) (off : Nat) : Option PartId := let n := fieldAt body off 1; if h : n < 16 then some ⟨n, h⟩ else none
/-- The partition a command names: in its field PART, or by a port that is assigned to it. [DEDUCED, log entry 60] -/
def State.reqPart (s : State) (op : Nat) (r : Req) : Option PartId :=
  match (formOf op).map Form.who with
  | some .owner => partByte r.body 0
  | some .ownerAdmin => partByte r.body 0
  | some .port => (portNamed r.body).bind fun i => (s.port i).part
  | _ =>
    if op = 0x0201 || op = 0x0202 || op = 0x0804 || op = 0x0806 || op = 0x0808 || op = 0x0901 || op = 0x0903 then partByte r.body 0
    else if op = 0x0702 || (op = 0x080B && fieldAt r.body 0 1 ≤ 4) then partByte r.body 1
    else none
/-- A command of the partition has taken effect only in part: a drain, an abandon, a scan, a reset; or one before it waits its turn. [DEDUCED, log entry 60] -/
def State.blocked (s : State) (p : PartId) : Bool :=
  s.waiters.any fun w => w.part = p && (w.queued || w.opcode = 0x0404 || w.opcode = 0x0405 || w.opcode = 0x0408 || (w.opcode = 0x080B && w.key = partResetKey p) ||
    (w.opcode = 0x080B && 2 ^ 21 ≤ w.key && w.key < 2 ^ 22 && s.partOf (keyTile (w.key - 2 ^ 21)) = some p))
/-- A mailbox may hand over a command: Pintle serves, its port too, and the mailbox holds no command that awaits its answer (R400, R419). [DEDUCED, log entry 60] -/
def State.mboxFree (s : State) (r : Req) : Bool :=
  s.boot.phase ≠ 0 && s.serves r.fn && (s.mbox r.fn r.mbox).acceptSeq = (s.mbox r.fn r.mbox).rspSeq &&
    s.waiters.all fun w => w.quiet || w.req.fn ≠ r.fn || w.req.mbox ≠ r.mbox
/-- Taken and journaled (R418). [DEDUCED, log entry 60] -/
def State.accept (s : State) (r : Req) : State := s.modMbox r.fn r.mbox fun m => { m with acceptSeq := m.reqSeq }
/-- A command that no other holds back: refused, or run and answered. -/
def State.runCommand (s : State) (op : Nat) (r : Req) (run : State → Req → Ans) : State :=
  match s.refusal op r with
  | some (st, d) => s.respond r st d []
  | none => (run s r).write r
/-- A command accepted: run at once, or queued behind another of its partition. Nothing is taken from a mailbox that is not free. [DEDUCED, log entry 60] -/
def State.command (s : State) (op : Nat) (r : Req) (run : State → Req → Ans) : State :=
  if !s.mboxFree r then s
  else
    let s1 := s.accept r
    match s1.reqPart op r with
    | some p =>
      if s1.blocked p then { s1 with waiters := s1.waiters ++ [
        { opcode := BitVec.ofNat 16 op, req := r, part := p, since := s1.now, queued := true }] }
      else s1.runCommand op r run
    | none => s1.runCommand op r run
/-- A command whose body names its partition in byte 0. -/
def onPart (run : State → Req → PartId → Ans) (s : State) (r : Req) : Ans :=
  match s.named r.body 0 with
  | some p => run s r p
  | none => s.bad
/-- A command whose body names its port in byte 0. -/
def onPort (run : State → Req → PortId → Ans) (s : State) (r : Req) : Ans :=
  match portNamed r.body with
  | some i => run s r i
  | none => s.bad

/-! Staging (R428, R435). -/

/-- What names the object of a staged change (R428). -/
def objectOf (c : Change) : List Nat :=
  let f := fun off k => rf c.req off k
  match c.opcode.toNat with
  | 0x0301 => [0x0301, f 2 2, f 4 4]
  | 0x0302 => [0x0302, f 4 4 ||| f 8 4]
  | 0x0305 => 0x0305 :: (List.range (f 2 2)).map fun i => f (8 + 8 * i) 4
  | 0x0407 => [0x0407, f 1 1]
  | 0x0606 => [0x0606, f 2 2]
  | 0x0707 => [0x0707, f 0 2]
  | 0x0708 => [0x0708, f 0 2]
  | 0x0901 => [0x0901, f 2 2]
  | 0x0C02 => [0x0C02, f 2 2]
  | 0x0C03 => [0x0C03, f 2 2] ++ (List.range (f 4 2)).map fun i => f (8 + 24 * i) 2
  | op => [op]
/-- A change recorded in a pending set: in place of an earlier one of its object, else at the end. -/
def recordChange (c : Change) : List Change → List Change
  | [] => [c]
  | d :: ds => if objectOf d = objectOf c then c :: ds else d :: recordChange c ds
/-- A checked change of a partition staged (R428). -/
def State.stageChange (s : State) (op : Nat) (r : Req) (p : PartId) : Ans :=
  let q := s.part p
  let ps := recordChange { opcode := BitVec.ofNat 16 op, req := r } q.pending
  if q.apply.isSome then s.no busy
  else if 256 < ps.length then s.no noResource
  else (s.modPart p fun q => { q with pending := ps }).yes []
/-- The beat parameters that a change is counted in: the manifest's for JOB_START (R49), else those in force: T0, P in ns, S. -/
def Part.beatOf (q : Part) (op : Nat) : Int × Nat × Nat :=
  match (if op = 0x0403 then q.manifest else none) with
  | some m => (m.t0, m.pUs * 1000, m.s)
  | none => (q.t0, q.pUs * 1000, q.s)
/-- The first beat whose vote deadline falls at least 20,000 ns after acceptance (R435), on a step boundary where the change needs one (R443). [DEDUCED, log entry 49] -/
def State.directBeat (s : State) (op : Nat) (r : Req) (p : PartId) : Nat :=
  let (t0, period, st) := (s.part p).beatOf op
  let late := (s.jobTime p + 21000 - t0).toNat
  let b := (late + period - 1) / period
  if op = 0x0606 then rf r 8 8 * st
  else if op = 0x0403 || op = 0x0406 then (b + st - 1) / st * st else b
/-- The window of R429: the vote deadline at least 20,000 ns and T(B) at most 60 s after acceptance. -/
def State.windowOk429 (s : State) (p : PartId) (a : Apply) : Bool :=
  let t := (s.part p).applyAt a
  decide (s.jobTime p + 20000 ≤ t - 1000) && decide (t ≤ s.jobTime p + 60000000000)
/-- The units that a set of changes touches, each once (R429). -/
def State.unitsOf (s : State) (p : PartId) (cs : List Change) : List UnitName := (cs.flatMap (s.changeUnits p)).eraseDups
/-- A change sent without STAGE (R435). [DEDUCED, log entry 49] -/
def State.applyDirect (s : State) (op : Nat) (r : Req) (p : PartId) : Ans :=
  let cs : List Change := [{ opcode := BitVec.ofNat 16 op, req := r }]
  let a : Apply := {
    changes := cs, beat := s.directBeat op r p, req := r, opcode := BitVec.ofNat 16 op, direct := true, hold := false, committed := false
    units := s.unitsOf p cs }
  if s.windowOk429 p a then (s.modPart p fun q => { q with direct := q.direct ++ [a] }).later else s.bad 0x33
/-- A command marked S (R435): its checks, then staged; or refused while a job runs; or applied at the first beat that suits. [DEDUCED, log entry 49] -/
def State.staged (s : State) (op : Nat) (r : Req) (p : PartId) (refused : Option (Nat × Nat)) : Ans :=
  match refused with
  | some (st, d) => (s, some (st, d, []))
  | none =>
    if bitAt r.flags.toNat 0 then s.stageChange op r p
    else if (s.part p).running then s.no busy
    else s.applyDirect op r p
/-- The first refusal of a list of conditions. -/
def firstOf : List (Bool × Nat) → Option (Nat × Nat)
  | [] => none
  | (c, st) :: cs => if c then some (st, 0) else firstOf cs

end Sys2Proof.Machine
end

