-- ==== Sys2Proof/Machine/Loader.lean ====
section
/-!
DEFINITION. Pintle's loader: the checks and the taking of a manifest (R254, R255, R309, R310) and of a program set (R54, R55, R155, R195 to R199,
R277, R440).
-/

namespace Sys2Proof.Machine

/-! Checks. -/

/-- Refusals tried in turn. -/
def firstRefusal : List (Option (Nat × Nat)) → Option (Nat × Nat)
  | [] => none
  | some x :: _ => some x
  | none :: xs => firstRefusal xs
/-- Ranges of which no two meet. -/
def spansApart : List (Nat × Nat) → Bool
  | [] => true
  | x :: xs => (xs.all fun y => !rangesMeet x.1 x.2 y.1 y.2) && spansApart xs
/-- A refusal with class FC_MANIFEST_MISMATCH is recorded (R362). [DEDUCED, log entry 59] -/
def State.noteMismatch (s : State) (p : PartId) (d port : Nat) : State :=
  if d % 256 = 0x18 then s.unitFault (some p) { cls := 0x18, unit := 5, addr := d / 256 + 256 * port, clears := false } else s

/-! Manifests. -/

/-- A coordinate lies in a torus. -/
def coordIn (nx ny nz c : Nat) : Bool := c < 2 ^ 14 && bitsOf c 13 9 < nx && bitsOf c 8 4 < ny && bitsOf c 3 0 < nz
/-- The sections of a manifest: type, offset, length. -/
def sectionList (bs : Bytes) : List (Nat × Nat × Nat) :=
  (List.range (fieldAt bs 2 2)).map fun i => let o := 64 + 16 * i; (fieldAt bs o 2, fieldAt bs (o + 4) 4, fieldAt bs (o + 8) 4)
/-- The form of a manifest (R309, R310): reason 0x25, and 0x31 for zero fields. [DEDUCED, log entry 59] -/
def manifestForm (bs : Bytes) : Option (Nat × Nat) :=
  let n := fieldAt bs 2 2
  let secs := sectionList bs
  let dir := 64 + 16 * n
  let has := fun t => secs.any fun x => x.1 = t
  let eth := bitAt (fieldAt bs 44 4) 0
  let torus := fieldAt bs 30 2
  let size := (bitsOf torus 13 9 + 1) * (bitsOf torus 8 4 + 1) * (bitsOf torus 3 0 + 1)
  let st := ((manifestSection bs 1).getD (0, 0))
  let ranges := fieldAt bs (st.1 + 18) 2
  firstRefusal [
    checks [
      (64 ≤ bs.length, why 0x25)],
    if fieldAt bs 0 2 = 1 then none else some (versionMismatch, 0),
    checks [
      (1 ≤ n && n ≤ 8 && fieldAt bs 4 4 = bs.length && bs.length % 16 = 0 && dir ≤ bs.length, why 0x25),
      (secs.all fun x => 1 ≤ x.1 && x.1 ≤ 3 && x.2.1 % 16 = 0 && dir ≤ x.2.1 && x.2.1 + x.2.2 ≤ bs.length, why 0x25),
      (decide (secs.map (·.1)).Nodup && spansApart (secs.map (·.2)), why 0x25),
      (has 1 && has 2 && has 3 == eth, why 0x25),
      ((List.range n).all fun i => fieldAt bs (66 + 16 * i) 2 = 0 && fieldAt bs (76 + 16 * i) 4 = 0, why 0x31),
      (secs.all fun x => match x.1 with
        | 1 => 32 ≤ x.2.2 && x.2.2 = 32 + 16 * ranges
        | 2 => x.2.2 = 64
        | _ => x.2.2 = 4 * size, why 0x25),
      (torus < 2 ^ 14 && fieldAt bs 40 2 < 2 ^ 14 && fieldAt bs 44 4 ≤ 1 && zeroAt bs 60 4, why 0x31),
      (fieldAt bs (st.1 + 2) 1 < 8 && zeroAt bs (st.1 + 3) 1 && zeroAt bs (st.1 + 20) 12, why 0x31),
      (match manifestSection bs 3 with
        | some (o, k) => (List.range (k / 4)).all fun i => fieldAt bs (o + 4 * i) 4 / 2 ^ 18 % 2 ^ 13 = 0
        | none => true, why 0x31)]]
/-- The largest latch-frame latency measured on a job link that is admitted (R255, reason 0x24), with its port. -/
def State.slowLink (s : State) (p : PartId) (lat : Nat) : Option PortId :=
  ((s.part p).jobPorts.find? fun i => (s.port i).links.any fun x =>
    ((s.port i).link x).state = .admitted && lat < ((s.port i).link x).latchNs)
/-- The checks of values: R46, R49, R255, R310. [DEDUCED, log entry 59] -/
def State.manifestValues (s : State) (p : PartId) (bs : Bytes) (coord : Nat) : Option (Nat × Nat) :=
  let m := parseManifest bs (BitVec.ofNat 16 coord)
  let d := m.nx / 2 + m.ny / 2 + m.nz / 2
  checks [
    ((bs.drop 48).take 16 == (s.slot s.boot.slot).fw, 0x2618),
    (20 ≤ m.pUs && m.pUs ≤ 60000 && 1 ≤ m.s && m.s ≤ 4096, 0),
    (coordIn m.nx m.ny m.nz m.root.toNat && coordIn m.nx m.ny m.nz coord, 0),
    (m.ranges.length ≤ 8, 0),
    (1 ≤ m.k && m.k + 2 ≤ m.s, why 0x20),
    (200 + d * m.linkLat ≤ m.latchDue && d * m.linkLat ≤ m.breakNs && m.latchDue + m.breakNs + 2000 ≤ m.pUs * 1000 && m.linkLat ≤ 1500, why 0x21),
    (4 ≤ m.bucketMib && m.bucketMib ≤ 256, why 0x22),
    (m.ranges.all (fun r => 0 < r.2 && r.1 % 4096 = 0 && r.2 % 4096 = 0 && (s.part p).inRange r.1 r.2) && spansApart m.ranges, why 0x23),
    ((s.slowLink p m.linkLat).isNone, 0x2418)]
/-- MANIFEST_LOAD: the refusal of a manifest, if there is one. [DEDUCED, log entry 59] -/
def State.manifestRefusal (s : State) (p : PartId) (bs : Bytes) (coord : Nat) : Option (Nat × Nat) :=
  firstRefusal [manifestForm bs, s.manifestValues p bs coord]
/-- MANIFEST_LOAD (R255, R310). -/
def State.manifestLoad (s : State) (r : Req) (p : PartId) : Ans :=
  let a := rf r 8 8
  let k := rf r 16 4
  let bs := s.partRead p a k
  let u := s.pintleRead p a k
  if (s.part p).active then s.no busy
  else if !s.readable p a k then s.bad
  else match s.manifestRefusal p bs (rf r 2 2) with
    | some (st, d) =>
      let m := parseManifest bs 0
      let port := ((s.slowLink p m.linkLat).map (·.val)).getD 0xFF
      (u.noteMismatch p d (if d / 256 = 0x24 then port else 0xFF), some (st, d, []))
    | none =>
      let m := parseManifest bs (BitVec.ofNat 16 (rf r 2 2))
      (u.modPart p fun q => { q with manifest := some m }).yes m.digest

/-! Program sets. -/

/-- A join as the stream block spells it (R199). -/
def parseJoin (n : Nat) (bs : Bytes) (o : Nat) : Join :=
  let f := fun k => BitVec.ofNat 16 (fieldAt bs (o + k) 2)
  { n := n, steerUnit := byteAt bs o, slack0 := f 2, slack1 := f 4, c0a := f 6, c0b := f 8, c1a := f 10, c1b := f 12 }
/-- A tile program taken apart (R54, R155, R197, R440): the offsets of its blocks, and what they spell. -/
structure TileProg where
  n : Nat
  bytes : Bytes
  ob : Nat
  orr : Nat
  ost : Nat
  oc : Nat
  budget : Budget
  mask : Nat
  rings : List Ring
  carries : List Carry
  sport : Vector Context 16
  steer : Vector Steer 8
  joins : List Join
  deriving DecidableEq, Repr
/-- A tile program of a position. -/
def parseTile (n : Nat) (bs : Bytes) : TileProg :=
  let ob := fieldAt bs 0 4
  let orr := fieldAt bs 4 4
  let ost := fieldAt bs 8 4
  let rings := fieldAt bs (orr + 4) 2
  { n := n, bytes := bs, ob := ob, orr := orr, ost := ost, oc := fieldAt bs 12 4
    budget := { minClock := byteAt bs (ob + 6), spanNs := fieldAt bs (ob + 8) 4, headroomNs := fieldAt bs (ob + 12) 4
                capHeadroomNs := fieldAt bs (ob + 16) 4 }
    mask := fieldAt bs orr 4
    rings := (List.range rings).map fun i => parseRing bs (orr + 8 + 32 * i)
    carries := (List.range (fieldAt bs (orr + 6) 2)).map fun i => parseCarry bs (orr + 8 + 32 * rings + 16 * i)
    sport := Vector.ofFn fun i => parseContext bs (ost + 16 * i.val)
    steer := Vector.ofFn fun i => parseSteer bs (ost + 256 + 16 * i.val)
    joins := (List.range (fieldAt bs (ost + 384) 2)).map fun i => parseJoin n bs (ost + 392 + 16 * i) }
/-- Its blocks lie inside it, and its code fits IMEM (R440). -/
def TileProg.placed (x : TileProg) : Bool :=
  let k := x.bytes.length
  16 ≤ k && x.ob + 24 + 4 * fieldAt x.bytes (x.ob + 20) 4 ≤ k && x.orr + 8 + 32 * x.rings.length + 16 * x.carries.length ≤ k &&
    x.ost + 392 + 16 * x.joins.length ≤ k && x.oc ≤ k && k - x.oc ≤ 131072
/-- The beat budget block against the beat in force and the seams (R55). -/
def State.budgetRefusal (s : State) (p : PartId) (x : TileProg) : Option (Nat × Nat) :=
  let q := s.part p
  let (pUs, st) := match q.manifest with
    | some m => (m.pUs, m.s)
    | none => (100, 1)
  let b := x.budget
  let f := fieldAt x.bytes
  let seamOk := fun i =>
    let o := x.ob + 24 + 4 * i
    let id := f o 2
    s.member.seamIds.contains id && f (o + 2) 1 = (s.seam id).latP && f (o + 3) 1 = (s.seam id).latR
  checks [
    (f (x.ob + 7) 1 = 0, why 0x31),
    (b.minClock.toNat ≤ 1, 0),
    (f x.ob 4 = pUs && f (x.ob + 4) 2 = st, 0x0118),
    (64 + b.spanNs + b.headroomNs ≤ pUs * 1000, 0x0205),
    (1000 ≤ b.headroomNs && 20 * pUs ≤ b.headroomNs, 0x0305),
    (b.capHeadroomNs ≤ b.headroomNs, 0x0405),
    ((List.range (f (x.ob + 20) 4)).all seamOk, 0x0511),
    (b.minClock ≠ 0 || q.hdList.all fun hd => s.power.hd.toList.getD hd 2 ≠ 1, 0x0611)]
/-- Ring and carry entries in their ranges (R156, R162). -/
def ringOk (r : Ring) : Bool :=
  r.base.toNat % 64 = 0 && 1 ≤ r.slotWords.toNat && r.slotWords.toNat ≤ 1024 && 2 ≤ r.slots.toNat && r.slots.toNat ≤ 4096 &&
    1 ≤ r.prodEp.toNat && r.prodEp.toNat ≤ 5 && 1 ≤ r.consEp.toNat && r.consEp.toNat ≤ 5 && 1 ≤ r.tmo.toNat && inSpad r.base.toNat r.span
def carryOk (q : Part) (c : Carry) : Bool :=
  c.base.toNat % 4096 = 0 && c.size.toNat % 4096 = 0 && 4096 ≤ c.size.toNat && c.size.toNat ≤ 0x80000 && c.save.toNat % 4096 = 0 &&
    q.inRange c.save.toNat c.size.toNat && inSpad c.base.toNat (2 * c.size.toNat)
/-- What the region block claims of the scratchpad: the slots of its rings, enabled or not, and carry regions. -/
def TileProg.spans (x : TileProg) : List (Nat × Nat) :=
  ((x.rings.filter fun r => 0 < r.span).map fun r => (r.base.toNat, r.span)) ++ x.carries.map fun c => (c.base.toNat, 2 * c.size.toNat)
/-- The banks a run of words touches: 32 words in a row reach every bank of their group. -/
def Member.banksOf (m : Member) (x : Nat × Nat) : List Nat := (List.range (min 32 (x.2 / 64))).map fun i => m.bankOf (x.1 + 64 * i)
/-- A bank takes part in nothing: powered down, or going down. [DEDUCED, log entry 47] -/
def BankPower.down : BankPower → Bool
  | .off => true
  | .draining _ => true
  | _ => false
/-- The region block (R155). -/
def State.regionRefusal (s : State) (p : PartId) (x : TileProg) : Option (Nat × Nat) :=
  let m := s.member
  let zero := fun i => let o := x.orr + 8 + 32 * i; zeroAt x.bytes (o + 12) 4 && zeroAt x.bytes (o + 24) 8 && (byteAt x.bytes (o + 11)).toNat < 2
  let empty := fun i => zeroAt x.bytes (x.orr + 24 + 32 * i) 8
  let banks := x.spans.flatMap m.banksOf
  let up := match s.tileOfN p x.n with
    | some t => banks.all fun b => !((s.tile t).banks.toList.getD b .on).down
    | none => true
  checks [
    (x.rings.length ≤ 16 && x.carries.length ≤ 4, 0),
    ((List.range x.rings.length).all zero, why 0x31),
    ((x.rings.all fun r => !r.enabled || ringOk r) && ((List.range x.rings.length).all empty) && (x.carries.all (carryOk (s.part p))), 0),
    (spansApart x.spans, why 0x07),
    (!m.split || x.spans.all fun v => groupOf v.1 = groupOf (v.1 + v.2 - 1), why 0x07),
    ((banks.all (bitAt x.mask)) && up, why 0x07)]
/-- A context entry against the rings (R189, R198). -/
def TileProg.contextOk (x : TileProg) (k : Nat) : Bool :=
  let c := x.sport.toList.getD k {}
  let r := x.rings.getD c.ring.val {}
  let ep := if k < 8 then r.consEp else r.prodEp
  let step := 2 * r.slotWords.toNat
  !c.enabled || ((byteAt x.bytes (x.ost + 16 * k + 1)).toNat < 16 && r.enabled && ep = 5 && 1 ≤ c.flits.toNat && c.flits.toNat ≤ 2 ^ 24 &&
    c.flits.toNat % step = 0 && 1 ≤ c.actMod.toNat && c.actMod.toNat ≤ 4096 && c.actRem.toNat < c.actMod.toNat)
/-- The stream block without its routes (R189, R191, R197, R198, R199). -/
def TileProg.streamOk (x : TileProg) (circuits : Nat) : Bool :=
  let z := zeroAt x.bytes
  let named := ((x.sport.toList.filter (·.enabled)).map (·.ring))
  let circuit := fun (c : U16) => c.toNat < circuits
  let join := fun (i : Nat) =>
    let j := x.joins.getD i (parseJoin 0 [] 0)
    let u := j.steerUnit.toNat
    16 ≤ u && u < 24 && ((x.steer.toList.getD (u - 16) {}).kind ≠ 0) && circuit j.c0a && (circuit j.c0b || j.c0b = 0xFFFF) && circuit j.c1a &&
      (circuit j.c1b || j.c1b = 0xFFFF) && z (x.ost + 392 + 16 * i + 1) 1 && z (x.ost + 392 + 16 * i + 14) 2
  ((List.range 16).all fun k =>
    let o := x.ost + 16 * k
    (byteAt x.bytes o).toNat < 2 && z (o + 2) 2 && z (o + 12) 4 && x.contextOk k) && decide named.Nodup &&
  ((List.range 8).all fun k =>
    let o := x.ost + 256 + 16 * k
    (byteAt x.bytes o).toNat ≤ 4 && z (o + 1) 15) && z (x.ost + 386) 6 && x.joins.length ≤ 8 && (List.range x.joins.length).all join
/-- The circuit list from an offset on: circuits, and whether they lie inside the set. [DESIGN CHOICE, log entry 48] -/
def parseCircuits (bs : Bytes) : Nat → Nat → List Circuit × Bool
  | 0, _ => ([], true)
  | n + 1, o =>
    let h := (byteAt bs (o + 7)).toNat
    let c : Circuit := {
      slots := BitVec.ofNat 32 (fieldAt bs o 4), srcN := fieldAt bs (o + 4) 2, src := byteAt bs (o + 6)
      hops := (List.range h).map fun i => BitVec.ofNat 32 (fieldAt bs (o + 8 + 4 * i) 4) }
    if bs.length < o + 8 + 4 * h then ([], false)
    else
      let (cs, ok) := parseCircuits bs n (o + 8 + 4 * h)
      (c :: cs, ok)
/-- A facet declaration (R277). [DESIGN CHOICE, log entry 48] -/
def parseFacet (bs : Bytes) (o : Nat) : FacetDecl :=
  { tid := BitVec.ofNat 32 (fieldAt bs o 4), mode := byteAt bs (o + 4), addr := BitVec.ofNat 64 (fieldAt bs (o + 8) 8) }
/-- A program set taken apart (R440). -/
structure ParsedSet where
  tiles : List TileProg
  circuits : List Circuit
  circuitsIn : Bool
  facets : List FacetDecl
  deriving DecidableEq, Repr
/-- The set that a byte string spells. -/
def parseSet (bs : Bytes) : ParsedSet :=
  let oc := fieldAt bs 4 4
  let of_ := fieldAt bs 8 4
  let cs := parseCircuits bs (min 4096 (fieldAt bs oc 4)) (oc + 4)
  { tiles := (List.range (fieldAt bs 2 2)).map fun i =>
      let o := 80 + 16 * i
      parseTile (fieldAt bs o 2) ((bs.drop (fieldAt bs (o + 4) 4)).take (fieldAt bs (o + 8) 4))
    circuits := cs.1, circuitsIn := cs.2
    facets := (List.range (fieldAt bs of_ 4)).map fun i => parseFacet bs (of_ + 4 + 16 * i) }
/-- The directory (R440): reason 0x09. [DEDUCED, log entry 59] -/
def State.setForm (s : State) (p : PartId) (bs : Bytes) : Option (Nat × Nat) :=
  let t := fieldAt bs 2 2
  let oc := fieldAt bs 4 4
  let of_ := fieldAt bs 8 4
  let e := fun i k => fieldAt bs (80 + 16 * i + k)
  checks [
    (80 ≤ bs.length && fieldAt bs 0 2 = 1 && t = (s.nsOfPart p).length && 80 + 16 * t ≤ bs.length, why 0x09),
    (fieldAt bs 12 4 = 0 && (List.range t).all fun i => e i 2 2 = 0 && e i 12 4 = 0, why 0x31),
    ((bs.drop 16).take 64 == sha512 (bs.drop 80), why 0x09),
    (oc + 4 ≤ bs.length && of_ + 4 ≤ bs.length, why 0x09),
    (fieldAt bs oc 4 ≤ 4096, why 0x08),
    (fieldAt bs of_ 4 ≤ 16, 0),
    (of_ + 4 + 16 * fieldAt bs of_ 4 ≤ bs.length, why 0x09),
    ((List.range t).all fun i => e i 0 2 = (s.nsOfPart p).getD i 0 && e i 4 4 + e i 8 4 ≤ bs.length, why 0x09)]
/-- The facet block (R277). -/
def facetRefusal (q : Part) (bs : Bytes) (x : ParsedSet) : Option (Nat × Nat) :=
  let of_ := fieldAt bs 8 4
  checks [
    ((List.range x.facets.length).all fun i => zeroAt bs (of_ + 9 + 16 * i) 3 && (byteAt bs (of_ + 8 + 16 * i)).toNat < 8, why 0x31),
    (x.facets.all fun f => f.mode ≠ 0 && f.addr.toNat % 16 = 0 && q.inRange f.addr.toNat 16, 0)]
/-- Circuits and steering of the set (R198). -/
def State.streamRefusal (s : State) (p : PartId) (x : ParsedSet) : Option (Nat × Nat) :=
  let l := s.loadCircuits p x.circuits
  checks [
    (x.tiles.all fun t => t.streamOk x.circuits.length, why 0x08),
    (s.routesOk l, why 0x08),
    (x.tiles.all fun t => match s.tileOfN p t.n with
      | some u => l.tileFed x.circuits t.n (tileKey u) t.sport t.steer
      | none => true, why 0x08)]
/-- PROG_LOAD: the refusal of a program set, if there is one. [DEDUCED, log entry 59] -/
def State.setRefusal (s : State) (p : PartId) (bs : Bytes) : Option (Nat × Nat) :=
  let x := parseSet bs
  firstRefusal ([s.setForm p bs, facetRefusal (s.part p) bs x, checks [(x.circuitsIn && x.tiles.all TileProg.placed, why 0x09)]] ++
    x.tiles.flatMap (fun t => [s.budgetRefusal p t, s.regionRefusal p t]) ++ [s.streamRefusal p x])
/-- A tile loaded with its program, frozen before its first issue (PROG_LOAD, R94); a job program has no diagnostic mark (R144). -/
def Tile.loadProgram (v : Tile) (x : TileProg) : Tile :=
  let w := v.unprogram
  { w with
    ward := { w.ward with diag := false }
    imem := w.imem.put 0 (x.bytes.drop x.oc), rings := Vector.ofFn fun i => x.rings.getD i.val {}, carries := x.carries, sport := x.sport
    steer := x.steer, program := sha512 x.bytes, capHeadroom := x.budget.capHeadroomNs }
/-- The least beat budget over the tiles (R54, R63). [DEDUCED, log entry 59] -/
def leastBudget (xs : List TileProg) : Budget := match xs with
  | [] => {}
  | x :: ys => ys.foldl (fun (b : Budget) y => {
      minClock := if y.budget.minClock.toNat < b.minClock.toNat then y.budget.minClock else b.minClock
      spanNs := max b.spanNs y.budget.spanNs, headroomNs := min b.headroomNs y.budget.headroomNs
      capHeadroomNs := min b.capHeadroomNs y.budget.capHeadroomNs }) x.budget
/-- The windows that Pintle opens on a tile at program load (R176): each of the form that a WOPEN takes, or closed. [DESIGN CHOICE, log entry 90] -/
def State.loadWindows (s : State) (p : PartId) (t : TileId) : State :=
  let spec := fun (i : Fin 16) => Config.loadWindow s.draws (tileKey t) i.val
  let set : Vector Window 16 := Vector.ofFn fun i => if s.windowOk p (spec i) then parseWindow (spec i) else {}
  s.modTile t fun v => { v with windows := set }
/-- An entry of the channel table (R234). -/
def parseEnd (bs : Bytes) : Chan :=
  let f := fieldAt bs
  { role := byteAt bs 0, state := byteAt bs 1, flags := byteAt bs 2, ringLog2 := byteAt bs 3, epoch := BitVec.ofNat 16 (f 4 2)
    owner := BitVec.ofNat 16 (f 6 2), peer := BitVec.ofNat 32 (f 8 4), peerChan := BitVec.ofNat 32 (f 12 4), ringBase := BitVec.ofNat 64 (f 16 8)
    statusAddr := BitVec.ofNat 32 (f 24 4) }
/-- An end that Pintle may open for a job at program load (R236): of job class, free till now, of a position and channel of the partition. [DESIGN CHOICE, log entry 90] -/
def State.loadEndOk (s : State) (p : PartId) (x : Nat × Bytes) : Bool :=
  let q := s.part p
  let e := parseEnd x.2
  q.chanFirst ≤ x.1 && x.1 < q.chanFirst + q.chanCount && (s.chan x.1).state = chFree && (e.role = 1 || e.role = 2) && e.state = chOpen &&
    e.flags = 0 && (s.nsOfPart p).contains e.owner.toNat && e.peerChan.toNat < 2 ^ 20 && e.statusAddr.toNat % 8 = 0 &&
    inSpad e.statusAddr.toNat 8 && 9 ≤ e.ringLog2.toNat && e.ringLog2.toNat ≤ 20 &&
    (e.role = 1 || (e.ringBase.toNat % 64 = 0 && inSpad e.ringBase.toNat (2 ^ e.ringLog2.toNat)))
/-- The EPOCH of an end that Pintle opens: a receive end's own, and the same at the send end of the pair (R234); for a receive end of another
module it is the one that the load names. [DESIGN CHOICE, log entry 90] -/
def State.loadEpoch (s : State) (p : PartId) (e old : Chan) : U16 :=
  if e.role = 2 then old.epoch
  else if coordOf e.peer.toNat = (s.part p).coord.toNat % 2 ^ 14 then (s.chan e.peerChan.toNat).epoch
  else e.epoch
/-- What Pintle opens at program load (R176, R236), beyond what the set itself names. [DESIGN CHOICE, log entry 90] -/
def State.openLoaded (s : State) (p : PartId) : State :=
  let s1 := s.forTiles (s.holders p) fun s t => s.loadWindows p t
  let s2 := ((Config.loadEnds s.draws).filter (s.loadEndOk p)).foldl (fun s x => s.modChan x.1 fun e =>
    { parseEnd x.2 with epoch := s1.loadEpoch p (parseEnd x.2) e }) s1
  { s2 with draws := s.draws + 1 }
/-- A program set taken: every tile loaded and frozen, circuits laid, the partition active (R413, R440). -/
def State.takeSet (s : State) (p : PartId) (a k : Nat) (bs : Bytes) : State :=
  let x := parseSet bs
  let g : ProgramSet := {
    addr := BitVec.ofNat 64 a, length := BitVec.ofNat 64 k, digest := (bs.drop 16).take 64, budget := leastBudget x.tiles
    bankMask := BitVec.ofNat 32 (x.tiles.foldl (fun m t => m ||| t.mask) 0), circuits := x.circuits, joins := x.tiles.flatMap (·.joins)
    facets := x.facets, images := x.tiles.map fun t => (t.n, t.bytes.drop t.oc) }
  let s1 := x.tiles.foldl (fun s t => s.forTiles (s.tilesAt p t.n) fun s u => s.modTile u fun v => v.loadProgram t) s
  let s2 := s1.modPart p fun q => { q with
    active := true, freeze := some .loaded, program := some g, reload := false, released := false
    saveBase := 4096 * (Config.savePage s.draws % ((2 ^ 38 * q.hdList.length - 8192 * (s.nsOfPart p).length) / 4096 + 1)) }
  (s2.loadTables p).openLoaded p
/-- PROG_LOAD. -/
def State.progLoad (s : State) (r : Req) (p : PartId) : Ans :=
  let a := rf r 8 8
  let k := rf r 16 8
  let bs := s.partRead p a k
  let u := s.pintleRead p a k
  if (s.part p).active then s.no busy
  else if !s.readable p a k then s.bad
  else match s.setRefusal p bs with
    | some (st, d) => (u.noteMismatch p d 0xFF, some (st, d, []))
    | none => (u.takeSet p a k bs).yes []
/-- PROG_UNLOAD: an unload ends tests and drained jobs with it. -/
def State.progUnload (s : State) (_ : Req) (p : PartId) : Ans :=
  if (s.part p).running then s.no busy else (s.unloadPart p).yes []

/-- PROG_LOAD. -/
def execProgLoad (r : Req) (s : State) : Host.Outcome State Fault Refusal := .next (s.command 0x0401 r (onPart State.progLoad))
/-- PROG_UNLOAD. -/
def execProgUnload (r : Req) (s : State) : Host.Outcome State Fault Refusal := .next (s.command 0x0402 r (onPart State.progUnload))
/-- MANIFEST_LOAD. -/
def execManifestLoad (r : Req) (s : State) : Host.Outcome State Fault Refusal := .next (s.command 0x0601 r (onPart State.manifestLoad))

/-! Scans. -/

/-- SCAN (R208): the checks of its arguments; a scan-out of KIND 2 at once, any other at the next beat boundary. [DESIGN CHOICE, log entry 25] -/
def State.scan (s : State) (r : Req) (p : PartId) : Ans :=
  let op := rf r 1 1
  let a := rf r 8 8
  let k := imageSize op
  let inSpace := if rf r 4 1 = 1 then op ≠ 3 && inSpad a k else rf r 4 1 = 0 && s.readable p a k
  match (s.tileOfN p (rf r 2 2)).filter fun _ => (s.nsOfPart p).contains (rf r 2 2) with
  | none => s.bad
  | some t =>
    if (s.part p).freeze.isNone then s.no busy
    else if op = 0 || 3 < op || a % 64 ≠ 0 || !inSpace then s.bad
    else if op = 2 then (s.scanOutTo p (rf r 2 2) t r).yes []
    else (s.await 0x0408 r p 0).later
/-- SCAN. -/
def execScan (r : Req) (s : State) : Host.Outcome State Fault Refusal := .next (s.command 0x0408 r (onPart State.scan))

end Sys2Proof.Machine
end

