-- ==== Sys2Proof/Machine/Parts.lean ====
section
/-!
DEFINITION. Commands of identity, partitions, memory and windows (R403, R413, R473, and the tables of 16).
-/

namespace Sys2Proof.Machine

/-! Identity. -/

/-- IDENTIFY. -/
def State.identify (s : State) (_ : Req) : Ans :=
  s.yes (leBytes 2 Config.vendor.toNat ++ leBytes 2 Config.device.toNat ++ leBytes 1 s.member.code ++ [Config.hwRev] ++ leBytes 1 s.boot.slot ++
    leBytes 1 s.adminFn.val ++ leBytes 16 Config.serial.toNat ++ padTo 16 (s.slot s.boot.slot).fw ++
    leBytes 8 (s.bifur.1.toNat % 4 + 4 * (s.bifur.2.toNat % 4)) ++ s.fns.toList.map (·.gen))
/-- SET_BIFURCATION (R403). -/
def State.setBifurcation (s : State) (r : Req) : Ans :=
  let port := rf r 0 1
  let mode : Byte := BitVec.ofNat 8 (rf r 1 1)
  if 1 < port || 2 < mode.toNat then s.bad
  else if allParts.any fun p => (s.part p).present && (s.part p).active && fnEast (s.part p).owner = decide (port = 1) then s.no busy
  else ({ s with bifurNext := if port = 0 then (mode, s.bifurNext.2) else (s.bifurNext.1, mode) } : State).yes []

/-! Partitions. -/

/-- The half-dies of a mask form one rectangle of the half-die grid (R36). -/
def State.shapeOk (s : State) (hd : Nat) : Bool :=
  let hds := maskBits 16 hd
  let xs := hds.map fun i => (s.member.hdGrid i).1
  let ys := hds.map fun i => (s.member.hdGrid i).2
  let span := fun (l : List Nat) => l.foldl max 0 + 1 - l.foldl min 31
  !hds.isEmpty && (hds.all fun i => i < s.member.halfDies) && span xs * span ys = hds.length
/-- The placement and the twin marks of half-dies brought into line with their partition (R22, R347). -/
def State.replaceHds (s : State) (hds : List Nat) : State :=
  let s1 := s.replan (hds.foldl s.defaultMap s.placement)
  s1.forTiles (hds.flatMap s.member.tilesOf) fun s t => s.modTile t fun v => { v with ward := { v.ward with
    twin := s.pairedHd (s.member.hdOf t) && rowOf t % 2 = 1 && (s.heldKey { t with py := t.py - 1 }).isSome } }
/-- Rows of a paired half-die: both rows of a pair in one state (R347). -/
def State.pairRows (s : State) (hd : Nat) : State :=
  if s.pairedHd hd then (List.range 4).foldl (fun s i =>
    let bad := (s.row hd (2 * i)).kind = .degraded || (s.row hd (2 * i + 1)).kind = .degraded
    s.setRows hd (2 * i) (if bad then { kind := .degraded } else s.startRowState hd (2 * i))) s
  else s
/-- A tile zeroed for a new owner (R413, R473). -/
def Tile.zeroed (v : Tile) : Tile :=
  { v.levelFour with imem := {}, droop := v.droop, ward := { v.levelFour.ward with nfault := v.ward.nfault, last := v.ward.last } }
/-- The memory of half-dies zeroed (R167, R413, R473). [DEDUCED, log entry 66] -/
def State.zeroHds (s : State) (hds : List Nat) : State :=
  let s1 : State := { s with dram := s.dram.filter fun c => !hds.contains (c.1 / 2 ^ 38) }
  s1.forTiles (hds.flatMap s.member.tilesOf) fun s t => s.modTile t Tile.zeroed
/-- The refusals of PART_CREATE (R413). [DEDUCED, log entry 66] -/
def State.createRefusal (s : State) (r : Req) : Option (Nat × Nat) :=
  let p := rf r 0 1
  let fn := rf r 1 1
  let hd := rf r 4 2
  let hds := maskBits 16 hd
  let absent := match (List.finRange 8).find? fun f => f.val = fn with
    | some f => (s.fn f).gen = 0
    | none => true
  firstOf [
    (16 ≤ p || absent || !s.shapeOk hd, badArg),
    (allParts.any (fun q => (s.part q).present && (q.val = p || hds.any (s.part q).hasHd)), busy),
    (hds.any (fun i => s.retired.getLsbD i), noResource)]
/-- PART_CREATE (R167, R413). [DEDUCED, log entry 66] -/
def State.partCreate (s : State) (r : Req) : Ans :=
  let hds := maskBits 16 (rf r 4 2)
  let p : PartId := ⟨rf r 0 1 % 16, Nat.mod_lt _ (by decide)⟩
  match s.createRefusal r with
  | some (st, d) => (s, some (st, d, []))
  | none =>
    let s1 := (s.zeroHds hds).setPart p {
      present := true, owner := ⟨rf r 1 1 % 8, Nat.mod_lt _ (by decide)⟩, paired := bitAt (rf r 2 1) 0, hds := BitVec.ofNat 16 (rf r 4 2)
      faultFrom := s.faultHead }
    (((hds.foldl State.pairRows s1).replaceHds hds).rebeat p).yes []
/-- A channel range handed back, or zeroed to be handed out (R233). -/
def State.zeroChans (s : State) (first count : Nat) : State :=
  { s with channels := s.channels.filter fun c => !(first ≤ c.1 % 2 ^ 20 && c.1 % 2 ^ 20 < first + count) }
/-- The ports of a partition without it: their links leave the job. -/
def State.freePort (s : State) (i : PortId) : State :=
  ((s.port i).links.foldl (fun s x => s.removeLink i x) s).modPort i fun q => { q with part := none }
/-- PART_DESTROY (R413, R473). [DEDUCED, log entry 66] -/
def State.partDestroy (s : State) (_ : Req) (p : PartId) : Ans :=
  let q := s.part p
  if q.active || !q.applies.isEmpty then s.no busy
  else
    let mine := fun (m : List (Nat × U32)) => m.filter fun e => bitsOf e.2.toNat 30 27 ≠ p.val
    let s0 := (s.boundaryFences p).zeroChans q.chanFirst q.chanCount
    let s1 := ((List.finRange 16).filter fun i => (s.port i).part = some p).foldl State.freePort s0
    let s2 := s1.forTiles (s.tilesOfPart p) fun s t => s.modTile t Tile.unprogram
    let s3 : State := { s2 with bindings := s2.bindings.filter (fun b => b.2.part ≠ p), flatW := mine s2.flatW, flatE := mine s2.flatE }
    ((s3.setPart p {}).replaceHds q.hdList).yes []
/-- PART_QUERY. -/
def State.partQuery (s : State) (_ : Req) (p : PartId) : Ans :=
  let q := s.part p
  s.yes (leBytes 1 q.owner.val ++ leBytes 1 q.flagsByte ++ leBytes 6 q.hds.toNat ++ leBytes 8 q.jobTag.toNat ++ leBytes 8 q.step.toNat ++
    leBytes 8 q.attempt ++ leBytes 8 q.slot ++ leBytes 8 q.beat ++ leBytes 4 q.pUs ++ leBytes 2 q.s ++
    leBytes 2 (if q.job = .running then q.k else 0) ++ leBytes 8 0)
/-- PART_PARAMS. -/
def State.partParams (s : State) (r : Req) (p : PartId) : Ans :=
  let rate := rf r 2 1
  let us := rf r 4 4
  s.staged 0x0204 r p (firstOf [(48 < rate || (us ≠ 0 && (us < 100 || 1000000 < us)), badArg)])

/-! Memory. -/

/-- The regions that a range of partition addresses touches (R166, R171). -/
def Part.regionsOf (q : Part) (a k : Nat) : List Nat :=
  (List.range ((a % 2 ^ 33 + k + 2 ^ 33 - 1) / 2 ^ 33)).filterMap fun i => (q.dpa ((a / 2 ^ 33 + i) * 2 ^ 33)).map (· / 2 ^ 33)
/-- Regions that hold a carry save area or an open DRAM window of the partition, or the entry save areas that Pintle keeps for its program set
(R171, R206). [DESIGN CHOICE, log entry 25] -/
def State.regionsHeld (s : State) (p : PartId) : List Nat :=
  (if (s.part p).program.isSome then (s.part p).regionsOf (s.part p).saveBase (8192 * (s.nsOfPart p).length) else []) ++
    (s.holders p).flatMap fun t =>
      let v := s.tile t
      (v.carries.flatMap fun c => (s.part p).regionsOf c.save.toNat c.size.toNat) ++
        (v.windows.toList.filter fun w => w.isOpen && w.kind = 1).flatMap fun w => (s.part p).regionsOf w.base.toNat (64 * w.size64.toNat)
/-- The ranges of a binding (R442): rings, body area, parameter block, key-value range. -/
def SvcBinding.ranges (b : SvcBinding) : List (Nat × Nat) :=
  let f := fun o k => fieldAt b.body o k
  [(f 16 8, 2 ^ f 32 1), (f 24 8, 2 ^ f 32 1), (f 40 8, 8192 * f 36 4), (f 48 8, 64), (f 72 8, f 80 8)]
/-- Regions that a binding of the partition holds ON. -/
def State.regionsBound (s : State) (p : PartId) : List Nat :=
  (s.bindings.filter fun b => b.2.part = p && !b.2.ended).flatMap fun b => b.2.ranges.flatMap fun x => (s.part p).regionsOf x.1 x.2
/-- A range that Pintle holds meets a region (R171). -/
def pintleRegion (x : Nat) : Bool := Config.pintleRanges.any fun v => rangesMeet v.1 v.2 (x * 2 ^ 33) (2 ^ 33)
/-- REGION_STATE (R171). [DEDUCED, log entry 66] -/
def State.regionState (s : State) (r : Req) (p : PartId) : Ans :=
  let rs := (List.range (rf r 2 2)).map (rf r 4 4 + ·)
  s.staged 0x0301 r p (firstOf [
    (2 < rf r 1 1 || rf r 2 2 = 0 || 512 < rf r 2 2, badArg),
    (rs.any (fun x => !(s.part p).hasHd (x / 32)), denied),
    (rs.any (fun x => (s.regionsHeld p).contains x || pintleRegion x || (rf r 1 1 ≠ 0 && (s.regionsBound p).contains x)), busy)])
/-- Scratchpad ranges of the channel ends a tile listens or is open on (R253): ring of a job-class receive end, status word. -/
def State.chanSpans (s : State) (p : PartId) : List (Nat × Nat) :=
  let q := s.part p
  let mine := s.channels.filter fun c => c.1 < 2 ^ 20 && q.chanFirst ≤ c.1 && c.1 < q.chanFirst + q.chanCount &&
    (c.2.state = chListen || c.2.state = chOpen) && c.2.owner.toNat < 0xFF00
  mine.flatMap fun c => (c.2.statusAddr.toNat / 64 * 64, 64) ::
    if c.2.role = 2 && !bitAt c.2.flags.toNat 0 then [(c.2.ringBase.toNat, 2 ^ c.2.ringLog2.toNat)] else []
/-- What holds banks of a tile (R179): enabled rings, carry regions, open windows. -/
def Tile.bankSpans (v : Tile) : List (Nat × Nat) :=
  ((v.rings.toList.filter (·.enabled)).map fun r => (r.base.toNat, r.span)) ++ (v.carries.map fun c => (c.base.toNat, 2 * c.size.toNat)) ++
    (v.windows.toList.filter fun w => w.isOpen && w.kind = 0).map fun w => (w.base.toNat, 64 * w.size64.toNat)
/-- BANK_POWER (R179, R253). -/
def State.bankPower (s : State) (r : Req) (p : PartId) : Ans :=
  let off := rf r 4 4
  let mask := ((s.part p).program.map fun g => g.bankMask.toNat).getD 0
  let spans := s.chanSpans p ++ (s.holders p).flatMap fun t => (s.tile t).bankSpans
  let meets := fun (x : Nat × Nat) => (List.range ((x.2 + 63) / 64)).any fun i => bitAt off (s.member.bankOf (x.1 + 64 * i))
  s.staged 0x0302 r p (firstOf [(off &&& rf r 8 4 ≠ 0, badArg), (off &&& mask ≠ 0 || spans.any meets, busy)])
/-- ROW_REPAIR (R170). -/
def State.rowRepair (s : State) (_ : Req) (p : PartId) : Ans :=
  if (s.part p).running then s.no busy
  else
    let rows := (s.stacksOf p).flatMap s.stackRows
    let s1 := rows.foldl State.repairRow s
    let bad := s1.rowsBad.length - s.rowsBad.length
    s1.yes (leBytes 2 (rows.length - bad) ++ leBytes 2 bad)
/-- CHANNEL_RANGE (R233). [DEDUCED, log entry 66] -/
def State.channelRange (s : State) (r : Req) (p : PartId) : Ans :=
  let first := rf r 4 4
  let count := rf r 8 4
  if (s.part p).active then s.no busy
  else if 2 ^ 20 < first + count then s.bad
  else if allParts.any fun q => q ≠ p && (s.part q).present && rangesMeet first count (s.part q).chanFirst (s.part q).chanCount then s.no noResource
  else
    let old := s.part p
    (((s.zeroChans old.chanFirst old.chanCount).zeroChans first count).modPart p fun q => { q with
      chanFirst := if count = 0 then 0 else first, chanCount := count }).yes []
/-- FLAT_SET (R32 to R34). [DEDUCED, log entry 66] -/
def State.flatCommand (s : State) (r : Req) (p : PartId) : Ans :=
  let bad := fun (i : Nat) =>
    let e := rf r (12 + 8 * i) 4
    2 ^ 19 ≤ rf r (8 + 8 * i) 4 || (bitAt e 31 &&
      (bitsOf e 30 27 ≠ p.val || bitsOf e 2 0 < 3 || s.member.gx ≤ bitsOf e 12 8 || !(s.nsOfPart p).contains (bitsOf e 7 3 * s.member.gx + bitsOf e 12 8)))
  s.staged 0x0305 r p (firstOf [(rf r 2 2 = 0 || 252 < rf r 2 2 || (List.range (rf r 2 2)).any bad, badArg)])
/-- WINDOW_READ (R175, R177). -/
def State.windowRead (s : State) (r : Req) (p : PartId) : Ans :=
  match (s.tileOfN p (rf r 2 2)).filter fun _ => (s.nsOfPart p).contains (rf r 2 2) with
  | none => s.bad
  | some t =>
    let ws := (s.tile t).windows.toList
    s.yes (ws.flatMap Window.bytes ++ ws.flatMap fun w => leBytes 4 w.refused.toNat)

/-! The rows. -/

def execIdentify (r : Req) (s : State) : Host.Outcome State Fault Refusal := .next (s.command 0x0101 r State.identify)
def execSetBifurcation (r : Req) (s : State) : Host.Outcome State Fault Refusal := .next (s.command 0x0102 r State.setBifurcation)
def execPartCreate (r : Req) (s : State) : Host.Outcome State Fault Refusal := .next (s.command 0x0201 r State.partCreate)
def execPartDestroy (r : Req) (s : State) : Host.Outcome State Fault Refusal := .next (s.command 0x0202 r (onPart State.partDestroy))
def execPartQuery (r : Req) (s : State) : Host.Outcome State Fault Refusal := .next (s.command 0x0203 r (onPart State.partQuery))
def execPartParams (r : Req) (s : State) : Host.Outcome State Fault Refusal := .next (s.command 0x0204 r (onPart State.partParams))
def execRegionState (r : Req) (s : State) : Host.Outcome State Fault Refusal := .next (s.command 0x0301 r (onPart State.regionState))
def execBankPower (r : Req) (s : State) : Host.Outcome State Fault Refusal := .next (s.command 0x0302 r (onPart State.bankPower))
def execRowRepair (r : Req) (s : State) : Host.Outcome State Fault Refusal := .next (s.command 0x0303 r (onPart State.rowRepair))
def execChannelRange (r : Req) (s : State) : Host.Outcome State Fault Refusal := .next (s.command 0x0304 r (onPart State.channelRange))
def execFlatSet (r : Req) (s : State) : Host.Outcome State Fault Refusal := .next (s.command 0x0305 r (onPart State.flatCommand))
def execWindowRead (r : Req) (s : State) : Host.Outcome State Fault Refusal := .next (s.command 0x0306 r (onPart State.windowRead))

end Sys2Proof.Machine
end

