-- ==== Sys2Proof/Machine/Jobs.lean ====
section
/-!
DEFINITION. Commands of jobs, staging, time, seams and shadow mode (R44, R45, R60, R209, R210, R279 to R282, R323, R345, R425, R428 to R430, R443).
-/

namespace Sys2Proof.Machine

/-! Jobs. -/

/-- The power state of a half-die once the pending set has applied. -/
def State.hdAfter (s : State) (cs : List Change) (hd : Nat) : Nat :=
  cs.foldl (fun v c => if c.opcode = 0x0901 && bitAt (rf c.req 2 2) hd then rf c.req 1 1 else v) (s.power.hd.toList.getD hd 2)
/-- Some half-die of the partition is in IDLE (R447); a staged command counts the changes staged before it. [DEDUCED, log entry 67] -/
def State.anyIdle (s : State) (r : Req) (p : PartId) : Bool :=
  (s.part p).hdList.any fun hd => s.hdAfter (if bitAt r.flags.toNat 0 then (s.part p).pending else []) hd = 2
/-- Every port of the exit table is ADMITTED against the loaded manifest (JOB_START). [DEDUCED, log entry 67] -/
def State.exitsAdmitted (s : State) (p : PartId) : Bool :=
  (List.finRange 6).all fun d => (s.part p).exits[d].isNone || match s.exitLink p d with
    | some (i, x) => (s.link i x).state = .admitted && (s.link i x).under == (s.part p).digest
    | none => false
/-- A command of the opcode awaits its beat. [DEDUCED, log entry 67] -/
def Part.awaits (q : Part) (op : Nat) : Bool := q.applies.any fun a => a.changes.any fun c => c.opcode.toNat = op
/-- The refusals of JOB_START. [DEDUCED, log entry 67] -/
def State.startRefusal (s : State) (r : Req) (p : PartId) : Option (Nat × Nat) :=
  let q := s.part p
  firstOf [
    (q.running || q.awaits 0x0403, busy),
    (q.manifest.isNone || q.program.isNone || !q.active || q.reload || q.slowDue || q.resetDue, notReady),
    (!s.exitsAdmitted p || s.anyIdle r p, notReady)]
/-- JOB_START. [DEDUCED, log entry 67] -/
def State.jobStart (s : State) (r : Req) (p : PartId) : Ans := s.staged 0x0403 r p (s.startRefusal r p)
/-- JOB_DRAIN (R209): answered when the partition is frozen. -/
def State.jobDrain (s : State) (r : Req) (p : PartId) : Ans :=
  if (s.part p).running then ((s.modPart p fun q => { q with draining := true }).await 0x0404 r p 0).later else s.no busy
/-- JOB_ABANDON (R210). -/
def State.jobAbandon (s : State) (r : Req) (p : PartId) : Ans :=
  if !(s.part p).running then s.no busy
  else if !(s.part p).oneModule then s.no denied
  else ((s.modPart p fun q => { q with abandoning := true }).await 0x0405 r p 0).later
/-- The checks of R208 on the entry save areas of a partition's positions, of those that hold a tile (R209). [DEDUCED, log entry 25] -/
def State.resumeRefusal (s : State) (p : PartId) : Option (Nat × Nat) :=
  (s.nsOfPart p).findSome? fun n => (s.tileOfN p n).bind fun t => s.imageRefusal p n t (s.areaRead p (s.saveArea p n)).2
/-- JOB_RESUME (R209, R341). -/
def State.jobResumeCmd (s : State) (r : Req) (p : PartId) : Ans :=
  let q := s.part p
  s.staged 0x0406 r p ((firstOf [
    (q.reload || q.slowDue, notReady),
    (!(q.freeze = some .drained || q.freeze = some .abandoned) || q.awaits 0x0406, busy),
    (s.anyIdle r p, notReady)]).or (s.resumeRefusal p))
/-- DLIST_SET (R425). -/
def State.dlistCommand (s : State) (r : Req) (p : PartId) : Ans :=
  let lg := rf r 2 1
  let base := rf r 8 8
  s.staged 0x0407 r p (firstOf [
    (7 < rf r 1 1 || (lg ≠ 0 && (lg < 4 || 16 < lg || base % 4096 ≠ 0 || !(s.part p).inRange base (128 + 128 * 2 ^ lg))), badArg)])

/-! Staging. -/

/-- B suits a change (R443). -/
def Part.suits (q : Part) (b : Nat) (c : Change) : Bool :=
  let (_, _, st) := q.beatOf c.opcode.toNat
  match c.opcode.toNat with
  | 0x0403 => b % st = 0
  | 0x0406 => b % st = 0
  | 0x0606 => b = rf c.req 8 8 * st
  | _ => true
/-- APPLY of the pending set (R429, R443). -/
def State.applyPending (s : State) (r : Req) (p : PartId) : Ans :=
  let q := s.part p
  let b := rf r 8 6
  let a : Apply := {
    changes := q.pending, beat := b, req := r, opcode := 0x0501, direct := false, hold := bitAt r.flags.toNat 1, committed := false
    units := s.unitsOf p q.pending }
  if q.pending.isEmpty then s.no notReady
  else if !(q.pending.all (q.suits b)) || !s.windowOk429 p a then s.bad 0x33
  else (s.modPart p fun q => { q with apply := some a }).later
/-- APPLY (R429, R430): a second one with HOLD clear and the same B commits a prepared apply. -/
def State.applyCommand (s : State) (r : Req) (p : PartId) : Ans :=
  match (s.part p).apply with
  | some a =>
    if a.hold && !a.committed && !bitAt r.flags.toNat 1 && a.beat = rf r 8 6 then
      if a.held then (s.modPart p fun q => { q with apply := some { a with committed := true } }).yes [] else s.no notReady
    else s.no busy
  | none => s.applyPending r p
/-- STAGE_CANCEL. -/
def State.stageCancel (s : State) (_ : Req) (p : PartId) : Ans :=
  if (s.part p).apply.isSome then s.no busy else (s.modPart p fun q => { q with pending := [] }).yes []
/-- STAGE_READ. -/
def State.stageRead (s : State) (_ : Req) (p : PartId) : Ans :=
  let cs := (s.part p).pending
  s.yes (leBytes 8 cs.length ++ cs.flatMap fun c => leBytes 2 c.opcode.toNat)

/-! Seams and time. -/

/-- CLEAR records for the active SEAM records of a seam, which only its reset clears (R330, R333). [DEDUCED, log entry 44] -/
def State.clearSeamDefects (s : State) (id : Nat) : State :=
  (s.defects.filter fun d => d.kind = 6 && d.wher.toNat = id && s.defectActive d).foldl (fun s d =>
    s.logDefect { kind := 7, source := 4, wher := d.wher, detail := d.seq }) s
/-- SEAM_RESET (R60): the calibration of start-up on one seam; what it measures is open, and fits the byte that records it. [DESIGN CHOICE, log entry 44] -/
def State.seamReset (s : State) (r : Req) : Ans :=
  let id := rf r 0 2
  let m : SeamMeasure := {
    id := BitVec.ofNat 16 id, worstP := Config.seamDelay id s.draws false, worstR := Config.seamDelay id s.draws true
    marginPs := Config.seamMargin id s.draws, calibrated := true }
  if !s.member.seamIds.contains id || 1 < rf r 2 1 then s.bad
  else if (s.seamParts id).any fun p => (s.part p).active then s.no busy
  else
    let s1 := s.modSeam id fun x =>
      let y := x.calibrated m (rf r 2 1 = 1)
      { y with latP := min y.latP 255, latR := min y.latR 255, faults := 0 }
    (({ s1 with draws := s1.draws + 1 } : State).clearSeamDefects id).yes ((s1.seam id).bytes id)
/-- TIME_OFFSET (R45). [DEDUCED, log entry 42] -/
def State.timeOffset (s : State) (r : Req) (p : PartId) : Ans :=
  if (s.part p).running then s.no busy
  else ((s.modPart p fun q => { q with offset := signedOf 64 (rf r 8 8) }).beatNow p).yes []
/-- TSYNC (R44). [DEDUCED, log entry 45] -/
def State.tsync (s : State) (r : Req) : Ans :=
  let en := rf r 0 1 = 1
  if 1 < rf r 0 1 then s.bad
  else
    let s1 : State := { s with tsyncEn := en, tsyncCaptures := if en && !s.tsyncEn then 0 else s.tsyncCaptures }
    s1.yes (leBytes 8 s1.tsyncCapture.toNat ++ leBytes 4 s1.tsyncCaptures.toNat)

/-! Shadow mode. -/

/-- SHADOW_SET (R279, R280). [DEDUCED, log entry 67] -/
def State.shadowCommand (s : State) (r : Req) (p : PartId) : Ans :=
  let role := rf r 1 1
  let port : PortId := ⟨rf r 2 1 % 16, Nat.mod_lt _ (by decide)⟩
  let up := (s.port port).links.any fun x => ((s.port port).link x).state = .admitted
  s.staged 0x0602 r p (firstOf [
    (role = 0 || 2 < role || 16 ≤ rf r 2 1 || rf r 4 4 = 0 || 2 ^ 48 ≤ rf r 8 8, badArg),
    ((s.port port).part ≠ some p, denied),
    (!up, notReady),
    (role = 2 && (s.part p).running, busy)])
/-- SHADOW_STOP (R281). -/
def State.shadowStopCmd (s : State) (r : Req) (p : PartId) : Ans := s.staged 0x0603 r p none
/-- SHADOW_READ. -/
def State.shadowRead (s : State) (_ : Req) (p : PartId) : Ans :=
  match (s.part p).shadow with
  | some h => s.yes (leBytes 4 h.cleanRun ++ leBytes 4 h.target ++ [h.state])
  | none => s.yes (List.replicate 9 0)
/-- The updated manifest differs from the loaded one in one MEMBERS entry alone (R323): in R and S that of their own coordinate. -/
def memberDiff (m : Manifest) (own : Bool) (new : Bytes) : Bool :=
  match manifestSection m.bytes 3 with
  | none => false
  | some (o, k) =>
    let c := m.coord.toNat
    let mine := (bitsOf c 3 0 * m.ny + bitsOf c 8 4) * m.nx + bitsOf c 13 9
    let changed := (List.range (k / 4)).filter fun i => fieldAt new (o + 4 * i) 4 ≠ fieldAt m.bytes (o + 4 * i) 4
    new.length = m.bytes.length && new.take o == m.bytes.take o && new.drop (o + k) == m.bytes.drop (o + k) && changed.length ≤ 1 &&
      (changed.all fun i => fieldAt new (o + 4 * i) 4 / 2 ^ 18 = 2 ^ 13 && (!own || i = mine))
/-- Every other module of the torus is one hop away: whichever R is, it is a ring neighbour (R323). [DEDUCED, log entry 67] -/
def Manifest.nextToAll (m : Manifest) : Bool :=
  2 ≤ m.nx * m.ny * m.nz && (List.range m.nx).all fun x => (List.range m.ny).all fun y => (List.range m.nz).all fun z =>
    let c := x * 512 + y * 16 + z
    c = m.coord.toNat || (List.finRange 6).any fun d => m.hop d = c
/-- A link whose partner has asked to stand by for a member (R323), and that is neither a member's own since a promotion nor removed. [DEDUCED, log entry 67] -/
def Link.standsBy (l : Link) : Bool :=
  ((l.partner.map fun h => decide (h.role = 1)).getD false) && !l.removed && (l.standby || l.state ≠ .admitted)
/-- The refusals of PROMOTE (R282, R323): a standby port must be admitted against the job's manifest, and a module that is a neighbour of R,
whichever R is, must have one. [DEDUCED, log entry 67] -/
def State.promoteRefusal (s : State) (r : Req) (p : PartId) : Option (Nat × Nat) :=
  let q := s.part p
  let held := fun (i : PortId) => (s.port i).native.state = .admitted && (s.port i).native.under = q.digest
  let standbys := (List.finRange 16).filter fun i => (s.port i).part = some p && (s.port i).native.standsBy
  let a := rf r 16 8
  match q.manifest with
  | none => some (notReady, 0)
  | some m =>
    firstRefusal [
      firstOf [
        (!q.running, notReady),
        ((q.shadow.map fun h => (h.role = 1 && h.cleanRun < h.target) || h.state = 3).getD false, notReady),
        (!m.eth && a ≠ 0, badArg),
        (!m.eth && q.shadow.isNone && (standbys.any (fun i => !held i) || standbys = [] && m.nextToAll), notReady),
        (m.eth && a ≠ 0 && !s.readable p a m.bytes.length, badArg)],
      checks [(!m.eth || (a ≠ 0 && memberDiff m q.shadow.isSome (s.partRead p a m.bytes.length)), why 0x25)]]
/-- PROMOTE. -/
def State.promoteCommand (s : State) (r : Req) (p : PartId) : Ans := s.staged 0x0605 r p (s.promoteRefusal r p)
/-- INSERT (R345, R346). -/
def State.insertCommand (s : State) (r : Req) (p : PartId) : Ans :=
  let q := s.part p
  s.staged 0x0606 r p (firstOf [
    (rf r 1 1 = 0, badArg),
    (rf r 2 2 ≠ 0xFFFF && !q.tests.any (fun x => x.1 = rf r 2 2), denied),
    (bitAt (rf r 4 1) 0 && q.restoreRows.isEmpty, denied)])

/-! The rows. -/

def execJobStart (r : Req) (s : State) : Host.Outcome State Fault Refusal := .next (s.command 0x0403 r (onPart State.jobStart))
def execJobDrain (r : Req) (s : State) : Host.Outcome State Fault Refusal := .next (s.command 0x0404 r (onPart State.jobDrain))
def execJobAbandon (r : Req) (s : State) : Host.Outcome State Fault Refusal := .next (s.command 0x0405 r (onPart State.jobAbandon))
def execJobResume (r : Req) (s : State) : Host.Outcome State Fault Refusal := .next (s.command 0x0406 r (onPart State.jobResumeCmd))
def execDlistSet (r : Req) (s : State) : Host.Outcome State Fault Refusal := .next (s.command 0x0407 r (onPart State.dlistCommand))
def execApply (r : Req) (s : State) : Host.Outcome State Fault Refusal := .next (s.command 0x0501 r (onPart State.applyCommand))
def execStageCancel (r : Req) (s : State) : Host.Outcome State Fault Refusal := .next (s.command 0x0502 r (onPart State.stageCancel))
def execStageRead (r : Req) (s : State) : Host.Outcome State Fault Refusal := .next (s.command 0x0503 r (onPart State.stageRead))
def execSeamReset (r : Req) (s : State) : Host.Outcome State Fault Refusal := .next (s.command 0x0504 r State.seamReset)
def execTimeOffset (r : Req) (s : State) : Host.Outcome State Fault Refusal := .next (s.command 0x0505 r (onPart State.timeOffset))
def execTsync (r : Req) (s : State) : Host.Outcome State Fault Refusal := .next (s.command 0x0506 r State.tsync)
def execShadowSet (r : Req) (s : State) : Host.Outcome State Fault Refusal := .next (s.command 0x0602 r (onPart State.shadowCommand))
def execShadowStop (r : Req) (s : State) : Host.Outcome State Fault Refusal := .next (s.command 0x0603 r (onPart State.shadowStopCmd))
def execShadowRead (r : Req) (s : State) : Host.Outcome State Fault Refusal := .next (s.command 0x0604 r (onPart State.shadowRead))
def execPromote (r : Req) (s : State) : Host.Outcome State Fault Refusal := .next (s.command 0x0605 r (onPart State.promoteCommand))
def execInsert (r : Req) (s : State) : Host.Outcome State Fault Refusal := .next (s.command 0x0606 r (onPart State.insertCommand))

end Sys2Proof.Machine
end

