-- ==== Sys2Proof/Machine/LinkCommands.lean ====
section
/-!
DEFINITION. Commands of the link ports (R283, R284, R303, R304, R306, R312, R313, R316, R322, and the table of 16).
-/

namespace Sys2Proof.Machine

/-! Modes and configuration. -/

/-- An active partition names the port in its exit table, or holds a service binding on it (R284). -/
def State.portHeld (s : State) (i : PortId) : Bool :=
  (allParts.any fun p => (s.part p).active && (s.part p).jobPorts.contains i) ||
    s.bindings.any fun b => !b.2.ended && b.2.port = i && (s.part b.2.part).active
/-- The partition of a port, for an answer that waits. -/
def State.portPart (s : State) (i : PortId) : PartId := (s.port i).part.getD 0
/-- A port in a new mode trains again from nothing (R284, R295). -/
def Port.retrain (q : Port) (mode width : Byte) : Port :=
  { q with
    mode := mode, width := width, stored := (mode, width), lanes := Vector.replicate 9 {}, half := none, swapped := none, swap := []
    fullTrained := false, resetSeen := false, supplyTripped := false }
/-- PORT_MODE (R283, R284): answered when the port has trained, at once in OFF. [DEDUCED, log entry 68] -/
def State.portMode (s : State) (r : Req) (i : PortId) : Ans :=
  let mode := rf r 1 1
  let width := rf r 2 1
  if 6 < mode || 1 < width || (width = 1 && mode ≠ 3) then s.bad
  else if s.portHeld i || s.waiters.any (fun w => w.opcode = 0x0701 && !w.queued && w.key = i.val) then s.no busy
  else
    let s1 := (s.linksDown i .down).modPort i fun q => q.retrain (BitVec.ofNat 8 mode) (BitVec.ofNat 8 width)
    if mode = 0 then s1.yes (s1.port i).laneBytes else (s1.await 0x0701 r (s.portPart i) i.val).later
/-- A port assigned to a partition, or to none: its links and exits of before are gone. -/
def State.assignPort (s : State) (i : PortId) (p : Option PartId) : State :=
  if (s.port i).part = p then s
  else
    let s1 := match (s.port i).part with
      | some o => s.modPart o fun q => { q with exits := q.exits.map fun x => if x = some i then none else x }
      | none => s
    (s1.freePort i).modPort i fun q => { q with part := p }
/-- PORT_ASSIGN (R313). [DEDUCED, log entry 68] -/
def State.portAssign (s : State) (r : Req) : Ans :=
  match portNamed r.body with
  | none => s.bad
  | some i =>
    let old := (s.port i).part
    let live := fun (p : Option PartId) => (p.map fun p => (s.part p).active).getD false
    if rf r 1 1 = 0xFF then (if live old then s.no busy else (s.assignPort i none).yes [])
    else match s.named r.body 1 with
      | none => s.bad
      | some p =>
        if (old.map fun o => decide (o ≠ p)).getD false then s.no denied
        else if (s.part p).active || live old then s.no busy
        else (s.assignPort i (some p)).yes []
/-- EXIT_TABLE (R231, R313). [DEDUCED, log entry 68] -/
def State.exitCommand (s : State) (r : Req) (p : PartId) : Ans :=
  let bad := fun (d : Nat) =>
    let e := rf r (2 + d) 1
    bitAt e 7 && (List.finRange 16).any fun i => i.val = e % 16 && (s.port i).part ≠ some p
  s.staged 0x0703 r p (firstOf [((List.range 6).any bad, denied)])
/-- ETH_CONFIG. -/
def State.ethConfig (s : State) (r : Req) (i : PortId) : Ans :=
  let take := fun (o k : Nat) => (r.body.drop o).take k
  if s.portHeld i then s.no busy
  else (s.modPort i fun q => { q with eth := {
    ipv6 := bitAt (rf r 1 1) 0, udp := if rf r 2 2 = 0 then 50000 else BitVec.ofNat 16 (rf r 2 2), dscp := take 4 8, mac := take 12 6
    ip := take 20 16, nextHop := take 36 6 } }).yes []
/-- ETH_PEER: the sessions of the port, defined anew. [DESIGN CHOICE, log entry 40] -/
def State.ethPeer (s : State) (r : Req) (i : PortId) : Ans :=
  let n := rf r 2 2
  if n = 0 || 64 < n then s.bad
  else if s.portHeld i then s.no busy
  else
    let up := (s.port i).isEth && (s.port i).isUp
    let link := fun (k : Nat) => ({
      state := if up then .up else .down, devId := BitVec.ofNat 32 (rf r (8 + 24 * k) 4), ip := (r.body.drop (12 + 24 * k)).take 16 } : Link)
    let s1 := if (s.port i).isEth then s.linksDown i .down else s
    (s1.modPort i fun q => { q with sessions := (List.range n).map fun k => (k, link k) }).yes []

/-! Links. -/

/-- The session that a request names, if the port has that link: 0xFF the native port. -/
def State.linkNamed (s : State) (r : Req) (i : PortId) : Option Session :=
  let x := sessByte (rf r 1 1)
  if (rf r 1 1 < 64 || rf r 1 1 = 0xFF) && (s.port i).links.contains x then some x else none
/-- ADMIT (R306): from HELLO; answered when the link is ADMITTED or REFUSED. [DEDUCED, log entry 38; DEDUCED, log entry 68] -/
def State.admitCommand (s : State) (r : Req) (i : PortId) : Ans :=
  match s.linkNamed r i with
  | none => s.bad
  | some x =>
    let l := s.link i x
    let manifest := (((s.port i).part.bind fun p => (s.part p).manifest).isSome)
    if (!manifest && !(s.port i).isFlat) || l.state = .down then s.no notReady
    else if l.adm.isSome then s.no busy
    else ((s.admBegin i x).await 0x0706 r (s.portPart i) (linkKey i x)).later
/-- A change of a link: staged on the port's partition; at once on a port of none. -/
def State.linkChange (s : State) (op : Nat) (r : Req) (i : PortId) : Ans :=
  match s.linkNamed r i with
  | none => s.bad
  | some _ =>
    match (s.port i).part with
    | some p => s.staged op r p none
    | none => if bitAt r.flags.toNat 0 then s.bad 0x32 else (s.applyChange 0 0 { opcode := BitVec.ofNat 16 op, req := r }).yes []
/-- REMOVE (R322). [DEDUCED, log entry 68] -/
def State.removeCommand (s : State) (r : Req) (i : PortId) : Ans := s.linkChange 0x0707 r i
/-- PORT_CAPS (R316). [DEDUCED, log entry 68] -/
def State.capsCommand (s : State) (r : Req) (i : PortId) : Ans := s.linkChange 0x0708 r i
/-- PORT_READ. -/
def State.portRead (s : State) (r : Req) (i : PortId) : Ans :=
  match s.linkNamed r i with
  | none => s.bad
  | some x =>
    let l := s.link i x
    s.yes (leBytes 1 (linkStateCode l.state) ++ (s.port i).laneBytes ++ leBytes 6 l.reason.toNat ++
      leBytes 8 ((l.partner.map fun h => h.device.toNat).getD 0) ++ leBytes 4 l.latchNs ++ leBytes 4 (unsignedOf 32 l.offsetNs) ++
      leBytes 4 l.replays.toNat ++ leBytes 4 l.resets.toNat ++ leBytes 4 l.refusals.toNat ++ leBytes 4 l.protocol.toNat ++
      leBytes 4 l.lateHb.toNat)

/-! The rows. -/

def execPortMode (r : Req) (s : State) : Host.Outcome State Fault Refusal := .next (s.command 0x0701 r (onPort State.portMode))
def execPortAssign (r : Req) (s : State) : Host.Outcome State Fault Refusal := .next (s.command 0x0702 r State.portAssign)
def execExitTable (r : Req) (s : State) : Host.Outcome State Fault Refusal := .next (s.command 0x0703 r (onPart State.exitCommand))
def execEthConfig (r : Req) (s : State) : Host.Outcome State Fault Refusal := .next (s.command 0x0704 r (onPort State.ethConfig))
def execEthPeer (r : Req) (s : State) : Host.Outcome State Fault Refusal := .next (s.command 0x0705 r (onPort State.ethPeer))
def execAdmitPort (r : Req) (s : State) : Host.Outcome State Fault Refusal := .next (s.command 0x0706 r (onPort State.admitCommand))
def execRemove (r : Req) (s : State) : Host.Outcome State Fault Refusal := .next (s.command 0x0707 r (onPort State.removeCommand))
def execPortCaps (r : Req) (s : State) : Host.Outcome State Fault Refusal := .next (s.command 0x0708 r (onPort State.capsCommand))
def execPortRead (r : Req) (s : State) : Host.Outcome State Fault Refusal := .next (s.command 0x0709 r (onPort State.portRead))

end Sys2Proof.Machine
end

