-- ==== Sys2Proof/Machine/Health.lean ====
section
/-!
DEFINITION. Commands of health, test and fence (R120, R271, R278, R324, R327, R329, R334, R336, R344, R361, R366, R371, R380, R381, R400).
-/

namespace Sys2Proof.Machine

/-! Logs. -/

/-- A function may see a fault record (R361, R414, R473): the administrator all, an owner those of its partition since it was made. [DEDUCED, log entry 51] -/
def State.seesFault (s : State) (f : FnId) (k : Nat) (r : FaultRec) : Bool :=
  s.adminFn = f || (r.partv && s.owns f r.part && (s.part r.part).faultFrom ≤ k)
/-- FAULT_LOG (R361). [DEDUCED, log entry 69] -/
def State.faultLogRead (s : State) (r : Req) : Ans :=
  let first := rf r 4 4
  let seen := (s.faultLog.filter fun x => first ≤ x.1 && s.seesFault r.fn x.1 x.2).take 31
  let next := match seen.drop 30 with
    | x :: _ => x.1 + 1
    | [] => max first s.faultHead
  s.yes (leBytes 4 s.faultHead ++ leBytes 4 seen.length ++ leBytes 8 next ++ seen.flatMap fun x => x.2.bytes)
/-- The records of a log from a number on: what it holds, and how many it has ever held. [DEDUCED, log entry 69] -/
def logFrom {α : Type} (log : List α) (head first : Nat) : List α := log.drop (first - (head - log.length))
/-- STEP_LOG (R271). -/
def State.stepLogRead (s : State) (r : Req) (p : PartId) : Ans :=
  let q := s.part p
  let recs := (logFrom q.stepLog q.stepHead (rf r 4 4)).take 63
  s.yes (leBytes 4 q.stepHead ++ leBytes 4 recs.length ++ recs.flatMap StepRec.bytes)
/-- A facet log entry (R278). -/
def FacetEntry.bytes (e : FacetEntry) : Bytes :=
  leBytes 6 e.step.toNat ++ leBytes 1 e.facets.length ++ [e.attempt] ++ leBytes 8 e.slot.toNat ++
    e.facets.flatMap fun f => leBytes 8 f.1.toNat ++ leBytes 8 f.2.toNat
/-- Whole entries that fit a number of bytes. -/
def takeWhole : Nat → List Bytes → List Bytes
  | _, [] => []
  | room, b :: bs => if b.length ≤ room then b :: takeWhole (room - b.length) bs else []
/-- FACET_LOG (R278). -/
def State.facetLogRead (s : State) (r : Req) (p : PartId) : Ans :=
  let q := s.part p
  let recs := takeWhole 2032 ((logFrom q.facetLog q.facetHead (rf r 4 4)).map FacetEntry.bytes)
  s.yes (leBytes 4 q.facetHead ++ leBytes 4 recs.length ++ recs.flatten)

/-! Maps, seams, counters. -/

/-- A row's code (R334). -/
def rowCode : RowKind → Nat
  | .whole => 0
  | .shifted => 1
  | .noSpare => 2
  | .testing => 3
  | .degraded => 4
/-- The row states as MAP_READ gives them: shift column in [7:4], state in [2:0]. -/
def State.rowBytes (s : State) : Bytes :=
  (List.range 128).map fun i =>
    let x := s.row (i / 8) (i % 8)
    BitVec.ofNat 8 (rowCode x.kind + if x.kind = .shifted || x.kind = .testing then 16 * x.col else 0)
/-- MAP_READ (R23, R334, R342): row states for any function, entries of a partition for its owner and the administrator. [DEDUCED, log entry 69] -/
def State.mapRead (s : State) (r : Req) : Ans :=
  let n := rf r 4 2
  let entry := fun (k : Nat) => if rf r 1 1 = 0 then s.activeEntry k else ((kget k s.slowPlan).getD 0).toNat
  if 1 < rf r 1 1 || 956 < n then s.bad
  else if n = 0 then s.yes s.rowBytes
  else match s.named r.body 0 with
    | none => s.bad
    | some p =>
      let ns := s.nsOfPart p
      if !(s.owns r.fn p || s.adminFn = r.fn) then s.no denied
      else if s.member.gx * s.member.gy < rf r 2 2 + n then s.bad
      else s.yes (s.rowBytes ++ (List.range n).flatMap fun i =>
        let k := rf r 2 2 + i
        leBytes 2 (if ns.contains k then entry (s.keyOfN p k) else 0))
/-- SEAM_READ (R59). -/
def State.seamRead (s : State) (_ : Req) : Ans := s.yes (s.member.seamIds.flatMap fun id => (s.seam id).bytes id)
/-- A physical tile named by half-die, column and row. -/
def State.tileNamed (s : State) (hd c rr : Nat) : Option TileId :=
  if hd < s.member.halfDies && c < 9 && rr < 8 then some (s.member.tileAt hd c rr) else none
/-- A logical tile of a partition. -/
def State.position (s : State) (p : PartId) (n : Nat) : Option TileId :=
  (s.tileOfN p n).filter fun _ => (s.nsOfPart p).contains n
/-- COUNTERS (R120, R324, R390). -/
def State.countersRead (s : State) (r : Req) : Ans :=
  let physical := bitAt (rf r 1 1) 1
  let t := if physical then s.tileNamed (rf r 4 1) (rf r 5 1) (rf r 6 1) else (s.named r.body 0).bind fun p => s.position p (rf r 2 2)
  let owner := ((s.named r.body 0).map (s.owns r.fn)).getD false
  if s.adminFn ≠ r.fn && (physical || ((s.named r.body 0).isSome && !owner)) then s.no denied
  else match t with
    | none => s.bad
    | some t =>
      let v := s.tile t
      let s1 := if bitAt (rf r 1 1) 0 then s.modTile t fun v => { v with counters := {} } else s
      s1.yes (padTo 64 v.counters.bytes ++ leBytes 4 (wardWord v.ward (s.heldKey t).isSome) ++ leBytes 4 v.load.status.toNat)

/-! Objects. -/

/-- A record of the defect log (R329). -/
def Defect.bytes (d : Defect) : Bytes :=
  let b := [d.kind, d.source, d.cls, d.flags] ++ leBytes 4 d.seq.toNat ++ leBytes 4 d.boot.toNat ++ leBytes 4 d.seconds.toNat ++
    leBytes 8 d.wher.toNat ++ leBytes 4 d.detail.toNat
  b ++ leBytes 4 (crc32c b)
/-- The copy of the defect log in use (R329). -/
def State.defectBytes (s : State) : Bytes :=
  let h := leBytes 4 1 ++ leBytes 4 s.defects.length ++ leBytes 4 s.defectSeq.toNat ++ leBytes 4 s.defectGen.toNat ++ List.replicate 12 0
  h ++ leBytes 4 (crc32c h) ++ s.defects.flatMap Defect.bytes
/-- A record of the start log (R397). -/
def StartRec.bytes (x : StartRec) : Bytes :=
  let b := leBytes 4 x.boot.toNat ++ [x.strike, x.outcome, x.stage, x.reason] ++ leBytes 4 x.detail.toNat ++ leBytes 4 x.elapsedMs.toNat ++
    [x.slot, x.mode] ++ leBytes 2 x.retired.toNat ++ List.replicate 8 0
  b ++ leBytes 4 (crc32c b)
/-- RECORD_READ. -/
def State.recordRead (s : State) (r : Req) : Ans :=
  let o := rf r 0 1
  let off := rf r 4 4
  let k := rf r 8 2
  let obj := match o with
    | 1 => s.fuseBytes
    | 2 => s.defectBytes
    | 3 => s.boot.log.flatMap StartRec.bytes
    | 4 => s.boot.report
    | _ => s.testResults.flatMap BistRecord.bytes
  if o = 0 || 5 < o || k = 0 || 2032 < k then s.bad
  else if o ≤ 2 && s.adminFn ≠ r.fn then s.no denied
  else s.yes (leBytes 8 obj.length ++ (obj.drop off).take k)

/-! Tests and fences. -/

/-- Inserted slots that a test needs (R344): ceil((1,450 µs + P) / (S × P)). -/
def Part.testSlots (q : Part) : Nat := (1450 + q.pUs + q.s * q.pUs - 1) / (q.s * q.pUs)
/-- A test of a tile (R344): refused, at once, at the next beat boundary, or waiting for an insertion. [DEDUCED, log entry 54] -/
def State.placeTest (s : State) (t : TileId) (n : Nat) : Ans :=
  let s0 : State := { s with testResults := [] }
  if (s.tile t).ward.test then s.no busy
  else match s.partOf t with
    | none => if (s.heldKey t).isSome then (s0.fenceSoon t 4).yes [0] else (s0.modTile t Tile.startTest).yes [0]
    | some p =>
      let q := s.part p
      if (s.nOf t).isNone then (s0.modTile t Tile.startTest).yes [0]
      else if !q.running then (s0.fenceSoon t 4).yes [0]
      else if (s.row (s.member.hdOf t) (rowOf t)).kind ≠ .whole || s.rowPending t then s.no noResource
      else if !s.planOk p [s.shiftOf t 1 0 none] then s.no denied
      else (s0.modPart p fun q => { q with tests := (q.tests.filter fun x => x.1 ≠ n) ++ [(n, q.testSlots)] }).yes (leBytes 1 q.testSlots)
/-- The function may act on a tile: the owner of its partition, the administrator for a tile of none. -/
def State.ownsTile (s : State) (f : FnId) (t : TileId) : Bool := match s.partOf t with
  | some p => s.owns f p
  | none => s.adminFn = f
/-- TEST (R344). [DEDUCED, log entry 54] -/
def State.testCommand (s : State) (r : Req) : Ans :=
  if bitAt (rf r 1 1) 0 then (match s.tileNamed (rf r 4 1) (rf r 5 1) (rf r 6 1) with
    | none => s.bad
    | some t => if !s.ownsTile r.fn t then s.no denied else if (s.nOf t).isSome then s.bad else s.placeTest t 0xFFFF)
  else match s.named r.body 0 with
    | none => s.bad
    | some p =>
      if !s.owns r.fn p then s.no denied
      else match s.position p (rf r 2 2) with
        | none => s.bad
        | some t => s.placeTest t (rf r 2 2)
/-- A location word that names a row of this member (R328). -/
def State.rowWord (s : State) (w : Nat) : Bool := w / 2 ^ 59 < 2 * s.member.halfDies && w / 2 ^ 18 % 2 ^ 32 = 0
/-- FENCE of a tile (R336): answered when the fence acts. [DEDUCED, log entry 69] -/
def State.fenceTileCmd (s : State) (r : Req) (t : TileId) : Ans :=
  let s1 := s.tileDefect t 4 0 0 0
  match s.partOf t with
  | none => (s1.fenceIdle t false).yes []
  | some p =>
    if (s.nOf t).isSome && (s.part p).running then s.no busy
    else
      let wait := fun (code : Nat) => ((s1.fenceSoon t code).await 0x0809 r p (fenceKey t)).later
      match s.fencePlan t with
      | .keep => wait 1
      | .shift => if s.planOk p [s.shiftOf t 0 0 none] then wait 3 else s.no noResource
      | .slow => s.no noResource
/-- FENCE: LOC holds the Reserved bits of a location word in every form (R12, R328). [DEDUCED, log entry 69] -/
def State.fenceCommand (s : State) (r : Req) : Ans :=
  if bitsOf (rf r 8 8) 44 18 ≠ 0 then s.bad else
  match rf r 0 1 with
  | 1 => match s.tileNamed (rf r 4 1) (rf r 5 1) (rf r 6 1) with
    | some t => s.fenceTileCmd r t
    | none => s.bad
  | 2 => match (List.finRange 16).find? (fun i => i.val = rf r 4 1), (List.finRange 9).find? fun l => l.val = rf r 5 1 with
    | some i, some l => (s.laneFence i l 0 4).yes []
    | _, _ => s.bad
  | 3 =>
    let w : U64 := BitVec.ofNat 64 (rf r 8 8)
    if s.rowWord w.toNat then ((s.markRow w 0).logDefect { kind := 4, source := 4, wher := w }).yes [] else s.bad
  | _ => s.bad
/-- CLEAR_DEFECT (R330, R331). [DESIGN CHOICE, log entry 44] -/
def State.clearDefect (s : State) (r : Req) : Ans :=
  match s.defects.find? fun d => d.seq.toNat = rf r 4 4 && s.defectActive d with
  | some d => if d.kind = 6 then s.no denied else (s.logDefect { kind := 7, source := 4, wher := d.wher, detail := d.seq }).yes []
  | none => s.bad

/-! Resets and the start. -/

/-- The tile that a RESET of level 3 names. -/
def State.resetTile (s : State) (r : Req) : Option TileId :=
  if rf r 2 2 = 0xFFFF then s.tileNamed (rf r 4 1) (rf r 5 1) (rf r 6 1) else (s.named r.body 1).bind fun p => s.position p (rf r 2 2)
/-- RESET (R366, R371, R437): levels 3 to 5 are answered when done, level 6 before PWR_CYCLE_REQ# is asserted. [DEDUCED, log entry 69] -/
def State.resetCommand (s : State) (r : Req) : Ans :=
  match rf r 0 1 with
  | 3 => match s.resetTile r with
    | none => s.bad
    | some t => match s.partOf t with
      | some p =>
        if s.owns r.fn p then ((s.modTile t fun v => { v with resetDue := max 1 v.resetDue }).await 0x080B r p (tileResetKey t)).later
        else s.no denied
      | none => s.no denied
  | 4 => match s.named r.body 1 with
    | none => s.bad
    | some p =>
      if s.owns r.fn p then ((s.modPart p fun q => { q with resetDue := true }).await 0x080B r p (partResetKey p)).later else s.no denied
  | 5 =>
    if s.adminFn = r.fn then (({ s with boot := { s.boot with resetDue := true } } : State).await 0x080B r 0 deviceResetKey).later
    else s.no denied
  | 6 => if s.adminFn = r.fn then ({ s with power := { s.power with cycleDue := true } } : State).yes [] else s.no denied
  | _ => s.bad
/-- COLD_START (R381). -/
def State.coldStart (s : State) (r : Req) : Ans :=
  if 1 < rf r 0 1 then s.bad else ({ s with boot := { s.boot with cold := rf r 0 1 = 1 } } : State).yes []
/-- START_CLEAR (R400). -/
def State.startClear (s : State) (_ : Req) : Ans := ({ s with boot := { s.boot with strikes := 0 } } : State).yes []

/-! The rows. -/

def execFaultLog (r : Req) (s : State) : Host.Outcome State Fault Refusal := .next (s.command 0x0801 r State.faultLogRead)
def execStepLog (r : Req) (s : State) : Host.Outcome State Fault Refusal := .next (s.command 0x0802 r (onPart State.stepLogRead))
def execFacetLog (r : Req) (s : State) : Host.Outcome State Fault Refusal := .next (s.command 0x0803 r (onPart State.facetLogRead))
def execMapRead (r : Req) (s : State) : Host.Outcome State Fault Refusal := .next (s.command 0x0804 r State.mapRead)
def execSeamRead (r : Req) (s : State) : Host.Outcome State Fault Refusal := .next (s.command 0x0805 r State.seamRead)
def execCounters (r : Req) (s : State) : Host.Outcome State Fault Refusal := .next (s.command 0x0806 r State.countersRead)
def execRecordRead (r : Req) (s : State) : Host.Outcome State Fault Refusal := .next (s.command 0x0807 r State.recordRead)
def execTest (r : Req) (s : State) : Host.Outcome State Fault Refusal := .next (s.command 0x0808 r State.testCommand)
def execFence (r : Req) (s : State) : Host.Outcome State Fault Refusal := .next (s.command 0x0809 r State.fenceCommand)
def execClearDefect (r : Req) (s : State) : Host.Outcome State Fault Refusal := .next (s.command 0x080A r State.clearDefect)
def execReset (r : Req) (s : State) : Host.Outcome State Fault Refusal := .next (s.command 0x080B r State.resetCommand)
def execColdStart (r : Req) (s : State) : Host.Outcome State Fault Refusal := .next (s.command 0x080C r State.coldStart)
def execStartClear (r : Req) (s : State) : Host.Outcome State Fault Refusal := .next (s.command 0x080D r State.startClear)

end Sys2Proof.Machine
end

