-- ==== Sys2Proof/Machine/Service.lean ====
section
/-!
DEFINITION. Commands of power, firmware, security, telemetry and the resident service (R305, R412, R440 to R442, R446 to R448, R452, R458,
R462 to R470).
-/

namespace Sys2Proof.Machine

/-! Power states (R446 to R448). -/

/-- The start of an exit from RETAIN or DORMANT: a warm attempt from stage 2, or through the boot ROM where a new image waits. [DEDUCED, log entry 70] -/
def State.leaveIdle (s : State) (r : Req) (code : Nat) : State :=
  let s1 : State := { s with
    boot := { s.boot with leaving := some (s.power.modState, code) }
    power := { s.power with modState := 0 } }
  let s2 := (s1.await 0x0901 r 0 leaveKey).rerun false (s1.boot.active ≠ s1.boot.slot)
  if s2.attempting then { s2 with boot := { s2.boot with warm := true } } else s2
/-- RETAIN or DORMANT entered: the C-dies lose everything, link ports OFF; DRAM is kept in RETAIN; partitions, owners and the count stay. [DEDUCED, log entry 70] -/
def State.enterIdle (s : State) (code : Nat) : State :=
  let s1 := s.wiped true
  let s2 : State := { s1 with
    boot := s.boot, count := s.count, pllLocked := s.pllLocked, holdover := s.holdover, tsyncEn := s.tsyncEn, tsyncCapture := s.tsyncCapture
    tsyncCaptures := s.tsyncCaptures, tsyncPulses := s.tsyncPulses, retired := s.retired, rows := s.rows, regions := s.regions
    inbox := s.inbox, inboxLost := s.inboxLost, seams := s.seams
    sparesUsed := if code = 4 then [] else s.sparesUsed, rowsBad := if code = 4 then [] else s.rowsBad
    dram := if code = 4 then [] else s.dram
    faultLog := if code = 4 then [] else s.faultLog
    deviceEnergy := if code = 4 then [] else s.deviceEnergy
    power := { s1.power with modState := code } }
  allParts.foldl State.beatNow s2
/-- The seam verifications of a clock change of half-dies in no partition (R63): with less than 0.5 ns of margin the seam is marked and
FC_SEAM_CALIBRATION names it, and nothing changes. [DESIGN CHOICE, log entry 70] -/
def State.spareVerify (s : State) (code : Nat) (hds : List Nat) : State × Bool :=
  let turned := hds.filter fun hd => decide (code ≤ 1) && s.power.hd.toList.getD hd 0 ≠ code
  (s.member.seamIds.filter fun id => turned.any fun hd => (s.member.seamHds id).contains hd).foldl (fun x id =>
    let m := Config.seamMargin id x.1.draws
    let s1 := ({ x.1 with draws := x.1.draws + 1 } : State).modSeam id fun v => { v with marginPs := m }
    if 500 ≤ m.toNat then (s1, x.2)
    else ((s1.modSeam id fun v => { v with verifyFailed := true }).unitFault none {
      cls := 0x11, unit := 1, addr := id, bit := m.toNat, clears := false }, false)) (s, true)
/-- Half-dies of no partition change state at once, when the seams around a new clock verify (R63). -/
def State.spareHds (s : State) (r : Req) : Ans :=
  let hds := maskBits 16 (rf r 2 2)
  if hds.isEmpty || hds.any (fun hd => s.member.halfDies ≤ hd) then s.bad
  else if hds.any fun hd => allParts.any fun p => (s.part p).present && (s.part p).hasHd hd then s.no denied
  else if hds.any fun hd => s.retired.getLsbD hd then s.no noResource
  else
    let (s1, ok) := s.spareVerify (rf r 1 1) hds
    if ok then (s1.hdPower (rf r 1 1) (rf r 2 2)).yes [] else s1.no stageAborted
/-- POWER_STATE with PART 0xFF. [DEDUCED, log entry 70] -/
def State.modulePower (s : State) (r : Req) : Ans :=
  let code := rf r 1 1
  let now := s.power.modState
  if s.adminFn ≠ r.fn then s.no denied
  else if 4 < code then s.bad
  else if bitAt r.flags.toNat 0 then s.bad 0x32
  else if code ≤ 2 then (if now = 0 then s.spareHds r else (s.leaveIdle r code).later)
  else if rf r 2 2 ≠ 0 then s.bad
  else if allParts.any fun p => (s.part p).present && (s.part p).active then s.no busy
  else if now = code then s.yes []
  else if now = 4 then s.no notReady
  else (s.enterIdle code).yes []
/-- POWER_STATE (R63, R447). [DEDUCED, log entry 70] -/
def State.powerState (s : State) (r : Req) : Ans :=
  if rf r 0 1 = 0xFF then s.modulePower r
  else match s.named r.body 0 with
    | none => s.bad
    | some p =>
      let q := s.part p
      let code := rf r 1 1
      let hds := maskBits 16 (rf r 2 2)
      if !s.owns r.fn p then s.no denied
      else s.staged 0x0901 r p (firstOf [
        (2 < code || hds.isEmpty, badArg),
        (hds.any (fun hd => !q.hasHd hd), denied),
        (code = 2 && (q.running || q.awaits 0x0403), busy),
        (code = 2 && q.pending.any (fun c => c.opcode = 0x0403), notReady),
        (code = 1 && (q.program.map fun g => decide (g.budget.minClock = 0)).getD false, denied)])
/-- CAP_SET (R452). -/
def State.capSet (s : State) (r : Req) (p : PartId) : Ans :=
  let n := (s.part p).hdList.length
  s.staged 0x0902 r p (firstOf [(rf r 4 4 < 150 * n || 600 * n < rf r 4 4, badArg)])
/-- A ledger record (R458). -/
def EnergyRec.bytes (e : EnergyRec) : Bytes :=
  leBytes 6 e.beat.toNat ++ [e.attempt, e.flags] ++ leBytes 8 e.job.toNat ++ leBytes 4 e.energyUj.toNat ++ leBytes 2 e.peakW.toNat ++ [0, 0] ++
    leBytes 4 e.bubbleNs.toNat ++ leBytes 4 e.capW.toNat
/-- ENERGY_READ (R458). -/
def State.energyRead (s : State) (r : Req) : Ans :=
  let give := fun (l : List EnergyRec) =>
    let es := (l.filter fun e => rf r 8 8 ≤ e.beat.toNat).take 63
    s.yes (leBytes 8 es.length ++ es.flatMap EnergyRec.bytes)
  if rf r 0 1 = 0xFF then (if s.adminFn = r.fn then give s.deviceEnergy else s.no denied)
  else match s.named r.body 0 with
    | none => s.bad
    | some p => if s.owns r.fn p || s.adminFn = r.fn then give (s.part p).energy else s.no denied

/-! Firmware (R462 to R466). -/

/-- A firmware slot changed. -/
def Boot.setSlot (b : Boot) (k : Nat) (f : FwSlot) : Boot :=
  { b with slots := if k = 0 then b.slots.set 0 f else b.slots.set 1 f }
/-- FW_WRITE (R464): into the slot not booted; the first write clears its VALID and gives ACTIVE back to the booted slot. [DEDUCED, log entry 71] -/
def State.fwWrite (s : State) (r : Req) : Ans :=
  let k := 1 - s.boot.slot
  let o := rf r 4 4
  let bs := r.body.drop 8
  let f := s.slot k
  if o % 16 ≠ 0 || 67108864 < o + bs.length then s.bad
  else
    let f1 : FwSlot := { f with factory := false, valid := false, data := cellsPut (some 0) f.data o bs }
    ({ s with boot := { (s.boot.setSlot k f1) with active := s.boot.slot } } : State).yes []
/-- FW_COMMIT (R463, R465): one flash word sets VALID and ACTIVE and clears STRIKES. [DEDUCED, log entry 71] -/
def State.fwCommit (s : State) (r : Req) : Ans :=
  let k := 1 - s.boot.slot
  match s.fwCheck (s.slot k) (rf r 0 4) with
  | some st => s.no st
  | none =>
    ({ s with boot := { (s.boot.setSlot k { s.slot k with valid := true }) with active := k, strikes := 0 } } :
      State).yes []
/-- FW_STATUS. [DEDUCED, log entry 71] -/
def State.fwStatus (s : State) (_ : Req) : Ans :=
  s.yes (leBytes 1 s.boot.active ++ leBytes 1 s.boot.slot ++ [0, 0] ++ padTo 16 (s.slot 0).fw ++ padTo 16 (s.slot 1).fw ++
    leBytes 1 (b2n (s.slot 0).valid + 2 * b2n (s.slot 1).valid))

/-! SPDM (R467 to R472). -/

/-- The number of a transport's connection (R468). -/
def transportIndex : Transport → Nat
  | .host f => f.val
  | .i3c => 8
/-- The answer to an SPDM request, and the connection state after it. -/
def State.spdmReply (s : State) (tr : Transport) (msg : Bytes) : State × Bytes :=
  let k := transportIndex tr
  let st := (kget k s.sec.spdm).getD 0
  let answer := (Config.spdmAnswer msg st s.measurements s.drbg).take 2040
  ({ s with sec := { s.sec with spdm := kput k (Config.spdmNext st msg) s.sec.spdm }, drbg := s.drbg + 1 }, answer)
/-- SPDM (R468, R470, R472): a signed answer waits for the attestation engine. [PRESUMED, log entry 72] -/
def State.spdmCommand (s : State) (r : Req) : Ans :=
  let tr := Transport.host r.fn
  if Config.spdmSigned r.body then
    (if s.sec.debug then s.yes spdmError
    else ((s.await 0x0A04 r 0 0).sign { transport := tr, req := some r, msg := r.body }).later)
  else
    let (s1, answer) := s.spdmReply tr r.body
    s1.yes answer
/-- ADMIN_SET (R412). -/
def State.adminSet (s : State) (r : Req) : Ans :=
  match (List.finRange 8).find? fun f => f.val = rf r 0 1 with
  | some f => ({ s with adminNext := f } : State).yes []
  | none => s.bad
/-- TELEMETRY (R441). -/
def State.telemetryRead (s : State) (r : Req) : Ans :=
  if 3 < rf r 0 1 then s.bad else s.yes (takeWhole 2040 (s.telemetry r.fn (rf r 0 1))).flatten

/-! The resident service (R305, R442). -/

/-- A power of two from 16 to 2,048. -/
def pageKib (k : Nat) : Bool := (List.range 8).any fun i => k = 16 * 2 ^ i
/-- The fields of SVC_BIND that lie out of range: `b` the binding as asked for. -/
def State.bindBad (s : State) (p : PartId) (b : SvcBinding) : Bool :=
  let q := s.part p
  let inChans := fun (c : Nat) => q.chanFirst ≤ c && c < q.chanFirst + q.chanCount
  let tile := fun (n : Nat) => (s.nsOfPart p).contains n
  let status := fun (a : Nat) => a % 8 = 0 && a + 8 ≤ 2 ^ 22
  16 ≤ b.f 1 1 || !inChans b.inChan || !inChans b.outChan || b.inChan = b.outChan || !tile (b.f 12 2) || !tile (b.f 14 2) ||
    b.f 32 1 < 9 || 20 < b.f 32 1 || b.f 34 2 = 0 || 4096 < b.f 34 2 || b.f 40 8 % 4096 ≠ 0 || b.f 48 8 % 64 ≠ 0 || b.f 56 2 = 0 ||
    4096 < b.f 56 2 || !pageKib (b.f 58 2) || !status (b.f 60 4) || !status (b.f 64 4) || b.f 72 8 % 2 ^ 33 ≠ 0 || b.f 80 8 % 2 ^ 33 ≠ 0 ||
    b.ranges.any (fun x => x.2 ≠ 0 && !q.inRange x.1 x.2) || !spansApart b.ranges
/-- The number a new binding takes: the lowest that none in force has. [DEDUCED, log entry 78] -/
def State.freeBinding (s : State) : Option Nat :=
  (List.range 16).find? fun n => match kget n s.bindings with
    | some b => b.ended
    | none => true
/-- SVC_BIND. [DEDUCED, log entry 78] -/
def State.svcBind (s : State) (r : Req) (p : PartId) : Ans :=
  let port : PortId := ⟨rf r 1 1 % 16, Nat.mod_lt _ (by decide)⟩
  let b : SvcBinding := {
    part := p, port := port, udp := if rf r 2 2 = 0 then 50001 else BitVec.ofNat 16 (rf r 2 2), inChan := rf r 4 4, outChan := rf r 8 4
    body := r.body }
  if (s.part p).running then s.no busy
  else if s.bindBad p b then s.bad
  else if (s.port port).part ≠ some p || !(s.port port).isEth then s.no denied
  else match s.freeBinding with
    | none => s.no noResource
    | some n =>
      let s1 : State := { s with bindings := kput n b s.bindings }
      (s1.partWrite p (b.f 48 8) (leBytes 8 n ++ (r.body.drop 32).take 56)).yes (leBytes 2 n)
/-- A binding in force of a partition. -/
def State.bindingOf (s : State) (p : PartId) (n : Nat) : Option SvcBinding :=
  (kget n s.bindings).filter fun b => b.part = p && !b.ended
/-- SVC_UNBIND. -/
def State.svcUnbind (s : State) (r : Req) (p : PartId) : Ans :=
  s.staged 0x0C02 r p (firstOf [((s.bindingOf p (rf r 2 2)).isNone, badArg)])
/-- The client indexes of a binding once a SVC_CLIENTS has acted. -/
def clientsAfter (r : Req) (held : List Nat) : List Nat :=
  (List.range (rf r 4 2)).foldl (fun l i =>
    let k := rf r (8 + 24 * i) 2
    if bitAt (rf r (10 + 24 * i) 1) 1 then l.erase k else if l.contains k then l else k :: l) held
/-- SVC_CLIENTS (R305). -/
def State.svcClientsCmd (s : State) (r : Req) (p : PartId) : Ans :=
  let n := rf r 4 2
  match s.bindingOf p (rf r 2 2) with
  | none => s.bad
  | some b => s.staged 0x0C03 r p (firstOf [
      (n = 0 || 84 < n, badArg),
      (b.f 34 2 < (clientsAfter r (b.clients.map (·.1))).length, noResource)])
/-- SVC_STATS (R305). -/
def State.svcStats (s : State) (r : Req) (p : PartId) : Ans :=
  match s.bindingOf p (rf r 2 2) with
  | none => s.bad
  | some b => s.yes (leBytes 8 b.requests.toNat ++ leBytes 8 b.replies.toNat ++ b.refuse.flatMap (fun c => leBytes 4 c.toNat) ++
      leBytes 4 b.spillPeak.toNat)

/-! The rows. -/

def execPowerState (r : Req) (s : State) : Host.Outcome State Fault Refusal := .next (s.command 0x0901 r State.powerState)
def execCapSet (r : Req) (s : State) : Host.Outcome State Fault Refusal := .next (s.command 0x0902 r (onPart State.capSet))
def execEnergyRead (r : Req) (s : State) : Host.Outcome State Fault Refusal := .next (s.command 0x0903 r State.energyRead)
def execFwWrite (r : Req) (s : State) : Host.Outcome State Fault Refusal := .next (s.command 0x0A01 r State.fwWrite)
def execFwCommit (r : Req) (s : State) : Host.Outcome State Fault Refusal := .next (s.command 0x0A02 r State.fwCommit)
def execFwStatus (r : Req) (s : State) : Host.Outcome State Fault Refusal := .next (s.command 0x0A03 r State.fwStatus)
def execSpdm (r : Req) (s : State) : Host.Outcome State Fault Refusal := .next (s.command 0x0A04 r State.spdmCommand)
def execAdminSet (r : Req) (s : State) : Host.Outcome State Fault Refusal := .next (s.command 0x0A05 r State.adminSet)
def execTelemetry (r : Req) (s : State) : Host.Outcome State Fault Refusal := .next (s.command 0x0B01 r State.telemetryRead)
def execSvcBind (r : Req) (s : State) : Host.Outcome State Fault Refusal := .next (s.command 0x0C01 r (onPart State.svcBind))
def execSvcUnbind (r : Req) (s : State) : Host.Outcome State Fault Refusal := .next (s.command 0x0C02 r (onPart State.svcUnbind))
def execSvcClients (r : Req) (s : State) : Host.Outcome State Fault Refusal := .next (s.command 0x0C03 r (onPart State.svcClientsCmd))
def execSvcStats (r : Req) (s : State) : Host.Outcome State Fault Refusal := .next (s.command 0x0C04 r (onPart State.svcStats))

end Sys2Proof.Machine
end

