-- ==== Sys2Proof/Machine/Poll.lean ====
section
/-!
DEFINITION. Mailbox polling (R416 to R419, R433, R436, R437): bounds of the commands that wait, commands that waited for their turn, and
requests taken from mailboxes.
-/

namespace Sys2Proof.Machine

/-! What each opcode runs (R434). -/

/-- Commands of identity, partitions and memory. -/
def runsParts : List (Nat × (State → Req → Ans)) := [
  (0x0101, State.identify), (0x0102, State.setBifurcation), (0x0201, State.partCreate), (0x0202, onPart State.partDestroy),
  (0x0203, onPart State.partQuery), (0x0204, onPart State.partParams), (0x0301, onPart State.regionState),
  (0x0302, onPart State.bankPower), (0x0303, onPart State.rowRepair), (0x0304, onPart State.channelRange),
  (0x0305, onPart State.flatCommand), (0x0306, onPart State.windowRead)]
/-- Commands of programs, jobs, beat and manifest. -/
def runsJobs : List (Nat × (State → Req → Ans)) := [
  (0x0401, onPart State.progLoad), (0x0402, onPart State.progUnload), (0x0403, onPart State.jobStart), (0x0404, onPart State.jobDrain),
  (0x0405, onPart State.jobAbandon), (0x0406, onPart State.jobResumeCmd), (0x0407, onPart State.dlistCommand),
  (0x0408, onPart State.scan), (0x0501, onPart State.applyCommand), (0x0502, onPart State.stageCancel), (0x0503, onPart State.stageRead),
  (0x0504, State.seamReset), (0x0505, onPart State.timeOffset), (0x0506, State.tsync), (0x0601, onPart State.manifestLoad),
  (0x0602, onPart State.shadowCommand), (0x0603, onPart State.shadowStopCmd), (0x0604, onPart State.shadowRead),
  (0x0605, onPart State.promoteCommand), (0x0606, onPart State.insertCommand)]
/-- Commands of links. -/
def runsLinks : List (Nat × (State → Req → Ans)) := [
  (0x0701, onPort State.portMode), (0x0702, State.portAssign), (0x0703, onPart State.exitCommand), (0x0704, onPort State.ethConfig),
  (0x0705, onPort State.ethPeer), (0x0706, onPort State.admitCommand), (0x0707, onPort State.removeCommand), (0x0708, onPort State.capsCommand),
  (0x0709, onPort State.portRead)]
/-- Commands of health, test and fence. -/
def runsHealth : List (Nat × (State → Req → Ans)) := [
  (0x0801, State.faultLogRead), (0x0802, onPart State.stepLogRead), (0x0803, onPart State.facetLogRead), (0x0804, State.mapRead),
  (0x0805, State.seamRead), (0x0806, State.countersRead), (0x0807, State.recordRead), (0x0808, State.testCommand),
  (0x0809, State.fenceCommand), (0x080A, State.clearDefect), (0x080B, State.resetCommand), (0x080C, State.coldStart),
  (0x080D, State.startClear)]
/-- Commands of power, firmware, telemetry and services. -/
def runsOther : List (Nat × (State → Req → Ans)) := [
  (0x0901, State.powerState), (0x0902, onPart State.capSet), (0x0903, State.energyRead), (0x0A01, State.fwWrite),
  (0x0A02, State.fwCommit), (0x0A03, State.fwStatus), (0x0A04, State.spdmCommand), (0x0A05, State.adminSet),
  (0x0B01, State.telemetryRead), (0x0C01, onPart State.svcBind), (0x0C02, onPart State.svcUnbind), (0x0C03, onPart State.svcClientsCmd),
  (0x0C04, onPart State.svcStats)]
/-- What an opcode runs. -/
def runOf (op : Nat) : Option (State → Req → Ans) := kget op (runsParts ++ runsJobs ++ runsLinks ++ runsHealth ++ runsOther)

/-! Bounds (R436). -/

/-- The longer bounds of the entries, in ns; a drain adds its step slot. [DEDUCED, log entry 60] -/
def bounds : List (Nat × Nat) := [
  (0x0201, 100000000), (0x0303, 100000000), (0x0401, 200000000), (0x0504, 1000000), (0x0701, 3500000000), (0x0706, 2500000000),
  (0x080B, 10000000000), (0x0901, 10000000000), (0x0A02, 2000000000), (0x0A04, 34000000)]
/-- The bound of a command that waits; of a reset, 10 s at level 5 alone. [DEDUCED, log entry 60] -/
def State.boundOf (s : State) (w : Waiter) : Nat :=
  let q := s.part w.part
  let short := w.opcode = 0x080B && w.key ≠ deviceResetKey
  (if short then 10000000 else (kget w.opcode.toNat bounds).getD 10000000) + if w.opcode = 0x0404 then q.s * q.pUs * 1000 else 0
/-- The command has passed its bound. -/
def State.overdue (s : State) (w : Waiter) : Bool := w.since + s.boundOf w < s.now
/-- ST_TIMEOUT for what has passed its bound; what it has begun goes on. [DEDUCED, log entry 60] -/
def State.timeouts (s : State) : State := s.answer s.overdue timedOut 0 []

/-! Commands that waited for their turn (R419). -/

/-- The first queued command that none before it holds back. -/
def State.nextQueued (s : State) : Option Waiter :=
  s.waiters.find? fun w => w.queued && !({ s with waiters := s.waiters.takeWhile fun v => decide (v ≠ w) } : State).blocked w.part
/-- Answers owed to a request are discarded from now on (R406, R432). -/
def State.hushReq (s : State) (r : Req) : State :=
  let quiet := fun (a : Apply) => if a.req = r then { a with quiet := true } else a
  { s with
    waiters := s.waiters.map fun w => if w.req = r then { w with quiet := true } else w
    parts := s.parts.map fun q => { q with apply := q.apply.map quiet, direct := q.direct.map quiet } }
/-- A queued command run in its turn. It was accepted before any reset that waits for it (R437). [DEDUCED, log entry 60] -/
def State.runQueued (s : State) (w : Waiter) : State :=
  let s0 : State := { s with
    waiters := s.waiters.erase w
    boot := { s.boot with resetDue := false }
    power := { s.power with cycleDue := false } }
  let s1 := match runOf w.opcode.toNat with
    | some run => s0.runCommand w.opcode.toNat w.req run
    | none => s0.respond w.req badOpcode 0 []
  let s2 : State := { s1 with
    boot := { s1.boot with resetDue := s1.boot.resetDue || s.boot.resetDue }
    power := { s1.power with cycleDue := s1.power.cycleDue || s.power.cycleDue } }
  if w.quiet then (s2.modFn w.req.fn fun v => { v with mboxes := (s.fn w.req.fn).mboxes }).hushReq w.req else s2

/-! Mailboxes (R418). -/

/-- Bytes of a mailbox's request area. -/
def Mbox.bytes (m : Mbox) (o k : Nat) : Bytes := (List.range k).map fun i => (kget (o + i) m.request).getD 0
/-- A mailbox is polled: enabled, of a function that is served, and holds a request that has not been taken. -/
def State.hasRequest (s : State) (f : FnId) (m : MboxId) : Bool :=
  let x := s.mbox f m
  (s.fn f).mboxEn.getLsbD m.val && x.reqSeq ≠ x.rspSeq && x.acceptSeq = x.rspSeq && s.serves f
/-- A request taken from a mailbox. -/
def State.takeRequest (s : State) (f : FnId) (m : MboxId) : State :=
  let x := s.mbox f m
  let op := fieldAt (x.bytes 16 2) 0 2
  let len := fieldAt (x.bytes 20 2) 0 2
  let r : Req := {
    fn := f, mbox := m, flags := BitVec.ofNat 16 (fieldAt (x.bytes 18 2) 0 2), tag := BitVec.ofNat 16 (fieldAt (x.bytes 22 2) 0 2)
    body := x.bytes 24 (min len 2024) }
  match runOf op with
  | none => (s.accept r).respond r badOpcode 0 []
  | some run => if 2024 < len then (s.accept r).respond r badArg 0x3000 [] else s.command op r run
/-- One round of Pintle's polling, at one mailbox. [DEDUCED, log entry 60] -/
def State.poll (s : State) (f : FnId) (m : MboxId) : State :=
  let s1 := s.timeouts
  let s2 := match s1.nextQueued with
    | some w => s1.runQueued w
    | none => s1
  if s2.hasRequest f m then s2.takeRequest f m else s2
/-- MAILBOX_POLL (R418). -/
def execMailboxPoll (f : FnId) (m : MboxId) (s : State) : Host.Outcome State Fault Refusal :=
  .next (if s.pintleUp then s.poll f m else s)

end Sys2Proof.Machine
end

