-- ==== Sys2Proof/Machine/Supply.lean ====
section
/-!
DEFINITION. The 54 V input, droop and margin, capping, temperature and coolant (R445, R449 to R460, R482), and the cable connectors (R489).
-/

namespace Sys2Proof.Machine

/-! The input (R445, R375, R482). -/

/-- Power without warning lost: everything but flash, fuses and what the 54 V input itself holds. [DEDUCED, log entry 75] -/
def State.powerLost (s : State) : State :=
  let w := s.power
  let s1 := s.wiped false
  { s1 with
    fns := Vector.replicate 8 {}, resets := 0, ports := s1.ports.map fun q => { q with wire := [] }
    power := {
      converters := false, inputMv := w.inputMv, bothBlades := w.bothBlades, thermTrip := w.thermTrip, cycleReq := w.cycleReq, tripReg := w.tripReg
      flashRecords := w.flashRecords }
    sec := { debug := s.sec.debug, nonces := s.sec.nonces, fusedSvn := s.sec.fusedSvn, revoked := s.sec.revoked }
    boot := { s.boot with
      phase := 0, stage := 0, deviceReset := false, leaving := none, standby := false, standbyRuns := false, resetSince := none, cause := none
      fnsUp := false, adminBack := none
      resetDue := false, report := [], results := [], upNs := 0, unlogged := [] } }
/-- The running attempt's incomplete record takes reason POWER (R445, R398). -/
def State.markPower (s : State) : State :=
  if s.attempting then
    let mark := fun (r : StartRec) => if r.outcome = 3 then { r with reason := 9 } else r
    { s with boot := { s.boot with log := s.boot.log.dropLast ++ (s.boot.log.getLast?.map mark).toList } }
  else s
/-- What only the input power holds is released when it is removed (R370, R456, R472, R486). [DEDUCED, log entry 75] -/
def State.inputGone (s : State) : State :=
  { s with power := { s.power with thermTrip := false, cycleReq := false }, sec := { s.sec with debug := false } }
/-- The converters shut down: with the input out of its limits, or removed. [DEDUCED, log entry 75] -/
def State.shutDown (s : State) : State :=
  if s.power.inputMv = 0 then s.powerLost.inputGone else s.markPower.powerLost
/-- The input lies in the operating range. -/
def inRangeMv (mv : Nat) : Bool := 48000 ≤ mv && mv ≤ 59500
/-- The input lies within the transient limits. -/
def inBandMv (mv : Nat) : Bool := 46000 ≤ mv && mv ≤ 61000
/-- One sample. An excursion is reported when the input has come back, with its last sample and its length. [DEDUCED, log entry 75] -/
def State.inputSampled (s : State) (mv : Nat) (both : Bool) : State :=
  let old := s.power.inputMv
  let s1 : State := { s with power := { s.power with inputMv := mv, bothBlades := both } }
  if !s.power.converters then (if mv = 0 then s1.inputGone else s1)
  else if inRangeMv mv then (match s.power.bandSince with
    | some t =>
      ({ s1 with power := { s1.power with bandSince := none } } : State).postAdmin 7 6 (leBytes 4 old ++ leBytes 4 ((s.now - t) / 1000))
    | none => s1)
  else if inBandMv mv then { s1 with power := { s1.power with bandSince := some (s.power.bandSince.getD s.now) } }
  else s1.shutDown
/-- INPUT_SAMPLE (R445). [DEDUCED, log entry 75] -/
def execInputSample (r : InputReading) (s : State) : Host.Outcome State Fault Refusal := .next (s.inputSampled r.mv.toNat r.both)
/-- INPUT_TRANSIENT_EXPIRY (R445). -/
def execInputTransientExpiry (s : State) : Host.Outcome State Fault Refusal :=
  .next (match s.power.bandSince with
    | some t => (s.reach (t + 10000001 : Nat)).shutDown
    | none => s)
/-- CONVERTER_START (R481, R482), with input on both blades: the power-on that the administrator, the bifurcations and the power-on count wait for (R403, R412). [DEDUCED, log entry 75] -/
def execConverterStart (s : State) : Host.Outcome State Fault Refusal :=
  .next (if !s.power.converters && s.power.bothBlades && inRangeMv s.power.inputMv then
    { s with
      adminFn := s.adminNext, bifur := s.bifurNext
      power := { s.power with converters := true }
      boot := { s.boot with powerOns := s.boot.powerOns + 1 } }
  else s)

/-! Droop and margin (R449 to R451). -/

/-- The C-dies are powered. -/
def State.diesOn (s : State) : Bool := s.power.converters && !s.power.diesOff && s.power.modState = 0 && s.boot.phase ≠ 3
/-- An event at a powered tile. -/
def State.onPowered (s : State) (t : TileId) (f : State → State) : Host.Outcome State Fault Refusal :=
  if s.hasTile t then .next (if s.diesOn then f s else s) else .fault .noSuchUnit
/-- The lowest supply of an event: that seen so far in it, or the sample. -/
def Droop.low (d : Droop) (mv : U16) : U16 := if d.stretching && d.lowest.toNat ≤ mv.toNat then d.lowest else mv
/-- DROOP_LEVEL1 (R449): edges of the tile and its router are suppressed; no result changes. -/
def execDroopLevel1 (t : TileId) (mv : U16) (s : State) : Host.Outcome State Fault Refusal :=
  s.onPowered t fun s => s.modTile t fun v => { v with droop := { v.droop with stretching := true, lowest := v.droop.low mv } }
/-- The edges a droop event suppresses, at most 64. [DEDUCED, log entry 75] -/
def State.droopEdges (s : State) (t : TileId) : Nat := min 64 (Config.droopEdges (tileKey t) s.draws).toNat
/-- FC_DROOP_LIMIT (R450). -/
def State.droopLimit (s : State) (t : TileId) (mv vnom : U16) (edges : Nat) : State :=
  let low := (s.tile t).droop.low mv
  let s1 := s.tileFault t { cls := 0x12, addr := low.toNat + 65536 * vnom.toNat, bit := edges }
  ({ s1 with draws := s1.draws + 1 } : State).modTile t fun v => { v with droop := { v.droop with stretching := true, lowest := low, edges := edges } }
/-- DROOP_LEVEL2 (R449): below V_nom − 9 %, or an event that reaches 64 edges. -/
def execDroopLevel2 (t : TileId) (mv vnom : U16) (s : State) : Host.Outcome State Fault Refusal :=
  s.onPowered t fun s =>
    if 100 * mv.toNat < 91 * vnom.toNat then s.droopLimit t mv vnom (s.droopEdges t)
    else if (s.tile t).droop.stretching then s.droopLimit t mv vnom 64
    else s
/-- DROOP_STRETCH_END (R449). -/
def execDroopStretchEnd (t : TileId) (s : State) : Host.Outcome State Fault Refusal :=
  s.onPowered t fun s =>
    if (s.tile t).droop.stretching then
      ({ s with draws := s.draws + 1 } : State).modTile t fun v => { v with droop := { v.droop with stretching := false, edges := s.droopEdges t } }
    else s
/-- The core clock of a half-die, MHz (R446). -/
def State.clockMhz (s : State) (hd : Nat) : Nat := if s.power.hd.toList.getD hd 0 = 1 then 2400 else 3000
/-- An event of KIND 7 that names a tile's or half-die's partition, or none. [DEDUCED, log entry 77] -/
def State.postPower (s : State) (p : Option PartId) (code : Nat) (body : Bytes) : State := match p with
  | some p => s.postPart p 7 code body
  | none => s.postAdmin 7 code body
/-- A margin measured: the tenth low reading on end posts an event, at most once an hour. -/
def State.marginTaken (s : State) (t : TileId) (ps : Int) : State :=
  let d := (s.tile t).droop
  let low := if ps < 20 then min 10 (d.lowReadings + 1) else 0
  let s1 := s.modTile t fun v => { v with droop := { v.droop with lowReadings := low } }
  let rested := match d.lastEvent with
    | some at_ => decide (at_ + 3600000000000 ≤ s.now)
    | none => true
  if low = 10 && rested then
    let hd := s.member.hdOf t
    (s1.modTile t fun v => { v with droop := { v.droop with lastEvent := some s.now } }).postPower (s.partOf t) 3
      (leBytes 1 hd ++ leBytes 1 (colOf t) ++ leBytes 2 (rowOf t) ++ leBytes 4 (unsignedOf 32 ps) ++ leBytes 2 (s.clockMhz hd))
  else s1
/-- MARGIN_MEASURE (R451). -/
def execMarginMeasure (t : TileId) (marginPs : U32) (s : State) : Host.Outcome State Fault Refusal :=
  s.onPowered t fun s => s.marginTaken t marginPs.toInt

/-! Capping (R452 to R454, R459). -/

/-- The hard limit H, in W (R2). -/
def Member.hardLimit : Member → Nat
  | .zh8 => 7200
  | .zh4 => 3800
  | .zh2 => 2000
/-- 0.75 as a duty; duties are fractions of 2^32. [DEDUCED, log entry 76] -/
def dutyMost : Nat := 3 * 2 ^ 30
/-- The duty in force in the window that ends: the controller's own, or more after a window beyond H. [DEDUCED, log entry 76] -/
def State.dutyNow (s : State) (q : Part) : Nat :=
  let h := s.member.hardLimit
  if s.power.hardNow then min dutyMost (max q.duty ((s.power.inputW - h) * 2 ^ 34 / h)) else q.duty
/-- The duty for the next window (R453). [DEDUCED, log entry 76] -/
def nextDuty (d watts cap : Nat) : Nat :=
  let e : Int := ((watts : Int) - cap) * 2 ^ 31 / (cap : Int)
  min dutyMost ((d : Int) + e).toNat
/-- The MXE runs a pass. [DEDUCED, log entry 76] -/
def Tile.inPass (v : Tile) : Bool := match v.mxe.slots with
  | x :: _ => x.started
  | [] => false
/-- Bubble cycles that use up a tile's headroom. -/
def State.headroomCycles (s : State) (t : TileId) : Nat := ((s.tile t).capHeadroom * s.clockMhz (s.member.hdOf t) + 999) / 1000
/-- The bubbles of a tile in a window at duty d; headroom spent stops them, but in a hard-limit window. -/
def State.tileBubbles (d : Nat) (s : State) (t : TileId) : State :=
  let v := s.tile t
  if !v.inPass then s
  else
    let all_ := s.clockMhz (s.member.hdOf t) * d / 2 ^ 32
    let most := if s.power.hardNow then all_ else min all_ (s.headroomCycles t - v.bubbles)
    s.modTile t fun v => { v with bubbles := v.bubbles + most }
/-- Bubble time of a tile in the beat, in ns. -/
def State.bubbleNs (s : State) (t : TileId) : Nat := (s.tile t).bubbles * 1000 / s.clockMhz (s.member.hdOf t)
/-- A partition's window: its bubbles, energy and peak, and the controller's next duty. -/
def State.capPart (input : Nat) (watts : List Nat) (s : State) (p : PartId) : State :=
  let q := s.part p
  if !q.present then s
  else
    let s1 := (s.holders p).foldl (State.tileBubbles (s.dutyNow q)) s
    let w := watts.getD p.val 0
    let e := Config.inputEnergy w input
    let worst := (s.holders p).foldl (fun m t => max m (s1.bubbleNs t)) 0
    s1.modPart p fun q => { q with
      bubbles := max q.bubbles worst, powerW := w, energyUj := q.energyUj + e, energyTotal := q.energyTotal + e, peakW := max q.peakW w
      hardHit := q.hardHit || decide (s.member.hardLimit < input)
      duty := if q.dutyHeld then q.duty else nextDuty q.duty w (s.capOf q) }
/-- The window that ended (R453, R454): input energy not booked to partitions is the device's (R459). [DEDUCED, log entry 76] -/
def State.capWindow (s : State) (watts : List Nat) (input : Nat) : State :=
  let h := s.member.hardLimit
  let s1 := allParts.foldl (State.capPart input watts) s
  let booked := allParts.foldl (fun m p => m + if (s.part p).present then Config.inputEnergy (watts.getD p.val 0) input else 0) 0
  let w := s1.power
  let hit := decide (h < input)
  let due := hit && (match w.hardAt with
    | some t => decide (t + 100000000 ≤ s.now)
    | none => true)
  let s2 : State := { s1 with power := { w with
    hardNow := hit, inputW := input, inputMa := input * 1000000 / max 1 w.inputMv, energyUj := w.energyUj + (input - booked)
    energyTotal := w.energyTotal + (input - booked), peakW := max w.peakW input, hardAt := if due then some s.now else w.hardAt } }
  if due then s2.postAdmin 7 1 (leBytes 4 input ++ leBytes 4 h) else s2
/-- CAP_WINDOW (R452 to R454). -/
def execCapWindow (watts : List Nat) (inputW : Nat) (s : State) : Host.Outcome State Fault Refusal :=
  .next (if s.diesOn then s.capWindow watts inputW else s)
/-- Every tile of the partition has spent its headroom in this beat. -/
def State.headroomSpent (s : State) (p : PartId) : Bool :=
  (s.part p).live && (s.holders p).all fun t => s.headroomCycles t ≤ (s.tile t).bubbles
/-- HEADROOM_EXHAUSTED (R454): the duty is held until the next beat. -/
def State.headroomOut (s : State) (p : PartId) : State :=
  let q := s.part p
  let due := match q.headroomAt with
    | some t => decide (t + 100000000 ≤ s.now)
    | none => true
  let s1 := s.modPart p fun q => { q with dutyHeld := true, headroomHit := true, headroomAt := if due then some s.now else q.headroomAt }
  if due then s1.postPart p 7 2 (s1.energyRec (s1.part p)).bytes else s1
/-- HEADROOM_EXHAUSTED (R454). -/
def execHeadroomExhausted (p : PartId) (s : State) : Host.Outcome State Fault Refusal :=
  .next (if s.headroomSpent p then s.headroomOut p else s)

/-! Temperature and coolant (R455 to R457). -/

/-- ADDR of a sensor in FC_THERMAL. -/
def sensorAddr : Sensor → Nat
  | .halfDie hd i => i.val + 256 * hd.val
  | .ioDie east i => i.val + 256 * (if east then 0xFF else 0xFE)
/-- The partition a sensor's half-die belongs to. [DEDUCED, log entry 77] -/
def State.sensorPart (s : State) : Sensor → Option PartId
  | .halfDie hd _ => s.partOfHd hd.val
  | .ioDie _ _ => none
/-- The record of a sample. -/
def State.thermalRec (s : State) (x : Sensor) (c10 : Int) : FaultRec :=
  s.mkRecord (s.sensorPart x) none 0xFFFF { cls := 0x13, unit := 7, addr := sensorAddr x, bit := unsignedOf 32 c10, clears := false }
/-- A hot sample (R455). [DEDUCED, log entry 77] -/
def State.hotSample (s : State) (x : Sensor) (c10 : Int) : State :=
  let k := sensorAddr x
  let due := match kget k s.power.hotAt with
    | some t => decide (t + 100000000 ≤ s.now)
    | none => true
  if due then
    let r := s.thermalRec x c10
    let s1 : State := { s with power := { s.power with hotAt := kput k s.now s.power.hotAt } }
    let s2 := ((s1.toInbox r).countFault (s.sensorPart x)).postPower (s.sensorPart x) 4 r.bytes
    if s.attempting then s2.failAttempt 8 (unsignedOf 32 (c10 / 10)) else s2
  else s
/-- The attempt in progress fails with THERMAL (R456). -/
def State.tripAttempt (s : State) (c10 : Int) : State :=
  if s.attempting then s.logStart 1 8 (unsignedOf 32 (c10 / 10)) else s
/-- A trip by a C-die sensor (R456): C-dies and stacks off, Pintle goes on. [DEDUCED, log entry 77] -/
def State.dieTrip (s : State) (x : Sensor) (c10 : Int) : State :=
  let r := { s.thermalRec x c10 with severity := 4 }
  let s1 := ((s.tripAttempt c10).sendResets).wiped true
  let s2 : State := { s1 with
    count := s.count, pllLocked := s.pllLocked, holdover := s.holdover, dram := [], faultLog := [], deviceEnergy := []
    power := { s1.power with thermTrip := true, diesOff := true, flashRecords := s1.power.flashRecords ++ [r] }
    boot := { s1.boot with stage := 0, deviceReset := false, leaving := none, upNs := s.boot.upNs } }
  s2.logFault r
/-- A trip by an I/O-die sensor (R456): nothing in the package runs; the power controller keeps the sensor and temperature. [DEDUCED, log entry 77] -/
def State.packageTrip (s : State) (x : Sensor) (c10 : Int) : State :=
  let s1 := ((s.tripAttempt c10).sendResets).powerLost
  { s1 with power := { s1.power with
    converters := s.power.converters, thermTrip := true, diesOff := true, packageOff := true, tripReg := some (sensorAddr x, c10) } }
/-- A sample taken. [DEDUCED, log entry 77] -/
def State.sampled (s : State) (x : Sensor) (c10 : Int) : State :=
  let s1 : State := { s with power := { s.power with temps := kput (sensorAddr x) c10 s.power.temps } }
  if 1150 ≤ c10 then (match x with
    | .halfDie _ _ => s1.dieTrip x c10
    | .ioDie _ _ => s1.packageTrip x c10)
  else if 1050 < c10 then s1.hotSample x c10
  else s1
/-- The sensor's die is powered, and no trip has been taken. -/
def State.sensorLive (s : State) (x : Sensor) : Bool :=
  s.power.converters && !s.power.thermTrip && !s.power.packageOff && (match x with
    | .halfDie _ _ => s.diesOn
    | .ioDie _ _ => true)
/-- THERMAL_SAMPLE (R455, R456). -/
def execThermalSample (x : Sensor) (deciC : U32) (s : State) : Host.Outcome State Fault Refusal :=
  let fitted := match x with
    | .halfDie hd _ => decide (hd.val < s.member.halfDies)
    | .ioDie _ _ => true
  if fitted then .next (if s.sensorLive x then s.sampled x deciC.toInt else s) else .fault .noSuchUnit
/-- COOLANT_CHECK (R457). -/
def State.coolantTaken (s : State) (flow inlet outlet : U16) : State :=
  let poor := flow.toNat < 1200 || 350 < inlet.toInt
  let since := if poor then some (s.power.coolSince.getD s.now) else none
  let due := poor && !s.power.coolPosted && decide (s.power.coolSince.getD s.now + 1000000000 ≤ s.now)
  let s1 : State := { s with power := { s.power with
    flow := flow, inlet := inlet, outlet := outlet, coolSince := since, coolPosted := poor && (s.power.coolPosted || due) } }
  if due then s1.postAdmin 7 5 (leBytes 2 flow.toNat ++ leBytes 2 inlet.toNat ++ leBytes 2 outlet.toNat) else s1
/-- COOLANT_CHECK (R457). -/
def execCoolantCheck (flow inlet outlet : U16) (s : State) : Host.Outcome State Fault Refusal :=
  .next (if s.power.converters && !s.power.packageOff then s.coolantTaken flow inlet outlet else s)
/-- IDLE_EXIT_DONE (R446, R447). -/
def execIdleExitDone (hd : HdId) (s : State) : Host.Outcome State Fault Refusal :=
  if hd.val < s.member.halfDies then
    .next { s with power := { s.power with waking := s.power.waking &&& ~~~ BitVec.ofNat 16 (2 ^ hd.val) } }
  else .fault .noSuchUnit

/-! Cables (R489). -/

/-- CBL_3V3 of a port is on. -/
def Port.supplyOn (q : Port) : Bool := q.cable && q.mode ≠ 0 && !q.supplyTripped
/-- CBL_PRSNT_CHANGE (R489): a cable pulled takes the port down; one fitted trains afresh. -/
def execCblPrsntChange (port : PortId) (present : Bool) (s : State) : Host.Outcome State Fault Refusal :=
  .next (if (s.port port).cable = present then s
    else
      let s1 := if present then s else s.lanesLost port
      s1.modPort port fun q => { q with
        cable := present, fullTrained := false, lanes := q.lanes.map fun l => if l.state = .fenced then l else {} })
/-- CBL_SUPPLY_OVERCURRENT (R489): the supply stays off until the port's mode is set again; the lanes lose signal. -/
def execCblSupplyOvercurrent (port : PortId) (s : State) : Host.Outcome State Fault Refusal :=
  .next (if (s.port port).supplyOn then (s.modPort port fun q => { q with supplyTripped := true }).lanesLost port else s)

end Sys2Proof.Machine
end

