-- ==== Sys2Proof/Machine/Monitor.lean ====
section
/-!
DEFINITION. Debug scan, the attestation engine, and monitoring over MCTP, I3C and PLDM (R308, R467 to R476).
-/

namespace Sys2Proof.Machine

/-! The test access port (R471, R487). -/

/-- IDCODE of the test access port (R487): VER from HWREV, the member's part number, Henic's code. -/
def Member.idcode (m : Member) (rev : Byte) : U32 :=
  let part := match m with
    | .zh8 => 0x5A08
    | .zh4 => 0x5A04
    | .zh2 => 0x5A02
  BitVec.ofNat 32 (rev.toNat % 16 * 2 ^ 28 + part * 2 ^ 12 + 0x2E1 * 2 + 1)

/-! The attestation engine (R470). -/

/-- The signature that is made next: a host's where no admission waits or 16 have gone ahead, else the oldest admission's. [DEDUCED, log entry 74] -/
def Security.nextSignature (c : Security) : Option Attest :=
  let hosts := c.queue.filter fun a => a.link.isNone
  let links := c.queue.filter fun a => a.link.isSome
  match hosts, links with
  | h :: _, [] => some h
  | h :: _, l :: _ => some (if 16 ≤ c.ahead then h else l)
  | [], l :: _ => some l
  | [], [] => none
/-- The engine takes its next request. [DEDUCED, log entry 74] -/
def Security.advance (c : Security) : Security :=
  match c.nextSignature with
  | none => { c with current := none, ahead := 0 }
  | some a =>
    let rest := c.queue.erase a
    let waits := rest.any fun x => x.link.isNone
    { c with current := some a, queue := rest, ahead := if a.link.isSome && waits then c.ahead + 1 else 0 }
/-- A signed answer given: to a partner whose admission is still in AUTH, a response to a mailbox, or a message on MCTP. -/
def State.signed (s : State) (a : Attest) : State :=
  match a.link with
  | some (port, x) =>
    match (s.link port x).adm with
    | some d =>
      if d.stage = .auth then
        ({ s with drbg := s.drbg + 1 } : State).spdmGiven port x a.msg (Config.spdmAnswer a.msg d.conn s.measurements s.drbg)
      else s
    | none => s
  | none =>
    let (s1, e) := s.spdmReply a.transport a.msg
    match a.req with
    | some r => s1.answer (fun w => !w.queued && w.opcode = 0x0A04 && w.req = r) okStatus 0 e
    | none => { s1 with sec := { s1.sec with out := s1.sec.out ++ [(a.transport, e)] } }
/-- ATTESTATION_SIGN_DONE (R470). [DEDUCED, log entry 74] -/
def execAttestationSignDone (s : State) : Host.Outcome State Fault Refusal :=
  .next (match s.sec.current with
    | some a =>
      let s1 := s.signed a
      { s1 with sec := s1.sec.advance }
    | none => s)

/-! Debug scan (R471, R472). -/

/-- The 32-byte nonce of the unlock register. [DESIGN CHOICE, log entry 9; DESIGN CHOICE, log entry 73] -/
def State.nonce (s : State) : Bytes := (List.range 32).map fun i => Config.random (2 ^ 41 + s.sec.nonces) i
/-- Signatures owed when the engine's registers are zeroed: hosts get ERROR (R472, R477). -/
def State.dropSignatures (s : State) : State :=
  let owed := s.sec.current.toList ++ s.sec.queue
  let s1 := owed.foldl (fun s a => match a.link, a.req with
    | some _, _ => s
    | none, some r => s.answer (fun w => !w.queued && w.opcode = 0x0A04 && w.req = r) okStatus 0 spdmError
    | none, none => { s with sec := { s.sec with out := s.sec.out ++ [(a.transport, spdmError)] } }) s
  { s1 with sec := { s1.sec with current := none, queue := [], ahead := 0, spdm := [] } }
/-- Admissions in AUTH fail when the engine stops (R477). -/
def State.failAuths (s : State) : State :=
  (List.finRange 16).foldl (fun s i => (s.port i).links.foldl (fun s x =>
    if ((s.link i x).adm.map fun a => decide (a.stage = .auth)).getD false then s.admitFail i x 3 else s) s) s
/-- A valid token (R471). [PRESUMED, log entry 72; DESIGN CHOICE, log entry 73] -/
def State.unlock (s : State) : State :=
  let s1 := s.sendResets.dropSignatures.failAuths
  { s1 with sec := { s1.sec with debug := true } }
/-- DEBUG_UNLOCK (R471): a token that fails changes the nonce. -/
def execDebugUnlock (token : Bytes) (s : State) : Host.Outcome State Fault Refusal :=
  .next (if !s.power.converters || s.power.packageOff || s.sec.debug then s
    else if Config.tokenOk token s.nonce s.sec.revoked.toNat then s.unlock
    else { s with sec := { s.sec with nonces := s.sec.nonces + 1 } })

/-! MCTP, I3C and PLDM (R468, R474 to R476). -/

/-- A transport reaches the part (R475): I3C, or a trained host link; in minimal mode that of the one port that serves. -/
def State.answersOn (s : State) (tr : Transport) : Bool :=
  s.pintleUp && !s.power.packageOff && s.power.converters && (match tr with
    | .i3c => true
    | .host f => (s.fn f).gen ≠ 0 && s.serves f)
/-- A message sent back. -/
def State.sendOn (s : State) (tr : Transport) (msg : Bytes) : State := { s with sec := { s.sec with out := s.sec.out ++ [(tr, msg)] } }
/-- An answer that another standard lays out, with the bytes the manual gives it. [PRESUMED, log entry 72] -/
def State.standardReply (s : State) (tr : Transport) (request value : Bytes) : State :=
  ({ s with draws := s.draws + 1 } : State).sendOn tr (Config.standardAnswer request s.draws ++ value)
/-- A monitor's message, taken where it reaches the part. -/
def State.onTransport (s : State) (tr : Transport) (f : State → State) : Host.Outcome State Fault Refusal :=
  .next (if s.answersOn tr then f s else s)
/-- SPDM_MCTP (R468, R472). -/
def State.spdmMessage (s : State) (tr : Transport) (msg : Bytes) : State :=
  if Config.spdmSigned msg then (if s.sec.debug then s.sendOn tr spdmError else s.sign { transport := tr, msg := msg })
  else
    let (s1, answer) := s.spdmReply tr msg
    s1.sendOn tr answer
/-- SPDM_MCTP (R468). -/
def execSpdmMctp (tr : Transport) (msg : Bytes) (s : State) : Host.Outcome State Fault Refusal :=
  s.onTransport tr fun s => s.spdmMessage tr msg
/-- The endpoint ID that a control message assigns, PRESUMED as DSP0236 lays it out: command code 1 in byte 2, the ID in byte 4. [PRESUMED, log entry 72] -/
def assignedEid (msg : Bytes) : Option Byte := if fieldAt msg 2 1 = 1 && fieldAt msg 3 1 % 4 < 2 then some (byteAt msg 4) else none
/-- MCTP_CONTROL (R475): the bus owner assigns the endpoint ID. [PRESUMED, log entry 72] -/
def execMctpControl (tr : Transport) (msg : Bytes) (s : State) : Host.Outcome State Fault Refusal :=
  s.onTransport tr fun s =>
    let s1 : State := match assignedEid msg with
      | some e => { s with sec := { s.sec with eids := kput (transportIndex tr) e s.sec.eids } }
      | none => s
    s1.standardReply tr msg []
/-- I3C_SETDASA (R475): from the static address 0x52, while no dynamic address is held. [PRESUMED, log entry 72] -/
def execI3cSetdasa (static dynamic : BitVec 7) (s : State) : Host.Outcome State Fault Refusal :=
  s.onTransport .i3c fun s =>
    if static = 0x52 && !s.sec.i3cAssigned then { s with sec := { s.sec with i3cAddr := dynamic, i3cAssigned := true } } else s
/-- I3C_ENTDAA (R475): a target without a dynamic address takes the one given. -/
def execI3cEntdaa (dynamic : BitVec 7) (s : State) : Host.Outcome State Fault Refusal :=
  s.onTransport .i3c fun s =>
    if s.sec.i3cAssigned then s else { s with sec := { s.sec with i3cAddr := dynamic, i3cAssigned := true } }
/-- PLDM_TYPE0 (R476). -/
def execPldmType0 (tr : Transport) (msg : Bytes) (s : State) : Host.Outcome State Fault Refusal :=
  s.onTransport tr fun s => s.standardReply tr msg []
/-- A reading of the sensors that the mirror's last rewrite left: the numeric ones are the first 24, the state ones follow (R476). [PRESUMED, log entry 72] -/
def State.sensorReading (s : State) (sensor : U16) (state : Bool) : Bytes :=
  let k := Config.sensorIndex sensor.toNat
  if decide (24 ≤ k) = state then (match s.power.sensors[k]? with
    | some v => if state then leBytes 1 (unsignedOf 8 v) else leBytes 4 (unsignedOf 32 v)
    | none => [])
  else []
/-- GET_SENSOR_READING (R476). -/
def execGetSensorReading (tr : Transport) (sensor : U16) (s : State) : Host.Outcome State Fault Refusal :=
  s.onTransport tr fun s => s.standardReply tr (0x11 :: leBytes 2 sensor.toNat) (s.sensorReading sensor false)
/-- GET_STATE_SENSOR_READINGS (R476). -/
def execGetStateSensorReadings (tr : Transport) (sensor : U16) (s : State) : Host.Outcome State Fault Refusal :=
  s.onTransport tr fun s => s.standardReply tr (0x21 :: leBytes 2 sensor.toNat) (s.sensorReading sensor true)
/-- GET_PDR (R476). [PRESUMED, log entry 72] -/
def execGetPdr (tr : Transport) (handle : U32) (s : State) : Host.Outcome State Fault Refusal :=
  s.onTransport tr fun s => s.standardReply tr (0x51 :: leBytes 4 handle.toNat) []

end Sys2Proof.Machine
end

