-- ==== Sys2Proof/Machine/Dispatch.lean ====
section
/-!
DEFINITION. The dispatch of a command to its meaning: one arm per row of spec/opcode_table.json, in the table's order.
-/

namespace Sys2Proof.Machine

/-- The effect of a command on everything but the queue of waiting commands. [DESIGN CHOICE, log entry 5; DESIGN CHOICE, log entry 82] -/
def exec (i : Instr) (s : State) : Host.Outcome State Fault Refusal :=
  match i with
  | .tbRefLoss => Sys2Proof.Machine.execTbRefLoss s
  | .tsyncOutPulse => Sys2Proof.Machine.execTsyncOutPulse s
  | .tsyncInEdge => Sys2Proof.Machine.execTsyncInEdge s
  | .beatBoundary p bad => Sys2Proof.Machine.execBeatBoundary p bad s
  | .beatDeadline p => Sys2Proof.Machine.execBeatDeadline p s
  | .stageVote p u ready marginPs => Sys2Proof.Machine.execStageVote p u ready marginPs s
  | .voteDeadline p => Sys2Proof.Machine.execVoteDeadline p s
  | .seamTransfer seam reverse word => Sys2Proof.Machine.execSeamTransfer seam reverse word s
  | .seamCorrectedLimit seam => Sys2Proof.Machine.execSeamCorrectedLimit seam s
  | .seqInstruction t ecc => Sys2Proof.Machine.execSeqInstruction t ecc s
  | .zqEnq t e rd rs1 ecc => Sys2Proof.Machine.execZqEnq t e rd rs1 ecc s
  | .zqWait t e rs1 => Sys2Proof.Machine.execZqWait t e rs1 s
  | .zqWaitRetire t => Sys2Proof.Machine.execZqWaitRetire t s
  | .zqPoll t e rd => Sys2Proof.Machine.execZqPoll t e rd s
  | .zqBwait t => Sys2Proof.Machine.execZqBwait t s
  | .zqBwaitRetire t => Sys2Proof.Machine.execZqBwaitRetire t s
  | .zqBsync t => Sys2Proof.Machine.execZqBsync t s
  | .zqBsyncRetire t => Sys2Proof.Machine.execZqBsyncRetire t s
  | .mxePassStart t => Sys2Proof.Machine.execMxePassStart t s
  | .mxeAttemptEnd t ecc => Sys2Proof.Machine.execMxeAttemptEnd t ecc s
  | .mxePassComplete t => Sys2Proof.Machine.execMxePassComplete t s
  | .vxeElementwise t ecc => Sys2Proof.Machine.execVxeElementwise t ecc s
  | .vxeReduce t ecc => Sys2Proof.Machine.execVxeReduce t ecc s
  | .vxeCombine t ecc => Sys2Proof.Machine.execVxeCombine t ecc s
  | .vxeFacet t ecc => Sys2Proof.Machine.execVxeFacet t ecc s
  | .vxeTopk t ecc => Sys2Proof.Machine.execVxeTopk t ecc s
  | .vxeComplete t => Sys2Proof.Machine.execVxeComplete t s
  | .dmaCopy t ecc => Sys2Proof.Machine.execDmaCopy t ecc s
  | .dmaConvert t ecc => Sys2Proof.Machine.execDmaConvert t ecc s
  | .dmaWopen t ecc => Sys2Proof.Machine.execDmaWopen t ecc s
  | .dmaWclose t => Sys2Proof.Machine.execDmaWclose t s
  | .dmaComplete t => Sys2Proof.Machine.execDmaComplete t s
  | .msgListen t => Sys2Proof.Machine.execMsgListen t s
  | .msgOpen t => Sys2Proof.Machine.execMsgOpen t s
  | .msgSend t => Sys2Proof.Machine.execMsgSend t s
  | .msgSendAllot t chan ecc => Sys2Proof.Machine.execMsgSendAllot t chan ecc s
  | .msgRelease t => Sys2Proof.Machine.execMsgRelease t s
  | .msgClose t => Sys2Proof.Machine.execMsgClose t s
  | .msgUnitComplete t => Sys2Proof.Machine.execMsgUnitComplete t s
  | .ringStallTimeout t index => Sys2Proof.Machine.execRingStallTimeout t index s
  | .ringHeldWriteAccept t index ecc => Sys2Proof.Machine.execRingHeldWriteAccept t index ecc s
  | .carrySaveOverdue p => Sys2Proof.Machine.execCarrySaveOverdue p s
  | .patrolScrub dpa loc ecc => Sys2Proof.Machine.execPatrolScrub dpa loc ecc s
  | .dramRowRepair stack => Sys2Proof.Machine.execDramRowRepair stack s
  | .regionZeroingDone region => Sys2Proof.Machine.execRegionZeroingDone region s
  | .bankDrainDone t d => Sys2Proof.Machine.execBankDrainDone t d s
  | .bankDrainTimeout t bank => Sys2Proof.Machine.execBankDrainTimeout t bank s
  | .bankClearDone t bank => Sys2Proof.Machine.execBankClearDone t bank s
  | .streamSlot t ecc badFlit => Sys2Proof.Machine.execStreamSlot t ecc badFlit s
  | .steerToken t su => Sys2Proof.Machine.execSteerToken t su s
  | .packetInject src => Sys2Proof.Machine.execPacketInject src s
  | .packetRoute index word => Sys2Proof.Machine.execPacketRoute index word s
  | .fencedRequestRelease t index => Sys2Proof.Machine.execFencedRequestRelease t index s
  | .replyTimeout t tag => Sys2Proof.Machine.execReplyTimeout t tag s
  | .mcastCreditTimeout index => Sys2Proof.Machine.execMcastCreditTimeout index s
  | .writeRequest t pkt ecc => Sys2Proof.Machine.execWriteRequest t pkt ecc s
  | .readRequest t pkt ecc => Sys2Proof.Machine.execReadRequest t pkt ecc s
  | .msgArrival dest pkt => Sys2Proof.Machine.execMsgArrival dest pkt s
  | .msgctlOpen dest pkt => Sys2Proof.Machine.execMsgctlOpen dest pkt s
  | .msgctlOpenAck dest pkt => Sys2Proof.Machine.execMsgctlOpenAck dest pkt s
  | .msgctlCredit dest pkt => Sys2Proof.Machine.execMsgctlCredit dest pkt s
  | .msgctlClose dest pkt => Sys2Proof.Machine.execMsgctlClose dest pkt s
  | .mgmtWr t pkt => Sys2Proof.Machine.execMgmtWr t pkt s
  | .mgmtRd t pkt => Sys2Proof.Machine.execMgmtRd t pkt s
  | .image t pkt => Sys2Proof.Machine.execImage t pkt s
  | .notice t => Sys2Proof.Machine.execNotice t s
  | .cmpl t pkt => Sys2Proof.Machine.execCmpl t pkt s
  | .cmplD t pkt ecc => Sys2Proof.Machine.execCmplD t pkt ecc s
  | .resend t => Sys2Proof.Machine.execResend t s
  | .latchSample r => Sys2Proof.Machine.execLatchSample r s
  | .partitionBitFormed p => Sys2Proof.Machine.execPartitionBitFormed p s
  | .gatherFrame p port f => Sys2Proof.Machine.execGatherFrame p port f s
  | .gatherDeadline p => Sys2Proof.Machine.execGatherDeadline p s
  | .breakFrame p port f => Sys2Proof.Machine.execBreakFrame p port f s
  | .breakCutoff p => Sys2Proof.Machine.execBreakCutoff p s
  | .haltFrame p port f => Sys2Proof.Machine.execHaltFrame p port f s
  | .outcomeFrame p f => Sys2Proof.Machine.execOutcomeFrame p f s
  | .shadowFrame p f => Sys2Proof.Machine.execShadowFrame p f s
  | .haspFrameReceive port sess frame fecOk => Sys2Proof.Machine.execHaspFrameReceive port sess frame fecOk s
  | .replayTimeout port sess => Sys2Proof.Machine.execReplayTimeout port sess s
  | .linkReset port sess => Sys2Proof.Machine.execLinkReset port sess s
  | .controlReset port => Sys2Proof.Machine.execControlReset port s
  | .replay port sess seq => Sys2Proof.Machine.execReplay port sess seq s
  | .nak port msg => Sys2Proof.Machine.execNak port msg s
  | .heartbeatSend port sess => Sys2Proof.Machine.execHeartbeatSend port sess s
  | .heartbeat port sess hb => Sys2Proof.Machine.execHeartbeat port sess hb s
  | .heartbeatMiss port sess => Sys2Proof.Machine.execHeartbeatMiss port sess s
  | .lane port failed atSeq ack => Sys2Proof.Machine.execLane port failed atSeq ack s
  | .laneSwap port => Sys2Proof.Machine.execLaneSwap port s
  | .hello port sess h => Sys2Proof.Machine.execHello port sess h s
  | .admitFragment port sess kind index last data => Sys2Proof.Machine.execAdmitFragment port sess kind index last data s
  | .credits port sess returns => Sys2Proof.Machine.execCredits port sess returns s
  | .laneTrainingDone port l aligned delays device => Sys2Proof.Machine.execLaneTrainingDone port l aligned delays device s
  | .laneQualifyWindow port passed noUncorrectable => Sys2Proof.Machine.execLaneQualifyWindow port passed noUncorrectable s
  | .laneMonitorWindow port overLimit => Sys2Proof.Machine.execLaneMonitorWindow port overLimit s
  | .laneLockLoss port l => Sys2Proof.Machine.execLaneLockLoss port l s
  | .linkDown port => Sys2Proof.Machine.execLinkDown port s
  | .syncExchange port sess t1 t2 t3 t4 => Sys2Proof.Machine.execSyncExchange port sess t1 t2 t3 t4 s
  | .admissionStageTimeout port sess => Sys2Proof.Machine.execAdmissionStageTimeout port sess s
  | .admissionRevoke port sess => Sys2Proof.Machine.execAdmissionRevoke port sess s
  | .serviceRequest port ipv6 addr binding request client payload => Sys2Proof.Machine.execServiceRequest port ipv6 addr binding request client payload s
  | .faultInboxDrain => Sys2Proof.Machine.execFaultInboxDrain s
  | .partitionRelease p => Sys2Proof.Machine.execPartitionRelease p s
  | .fastPathAbandon p => Sys2Proof.Machine.execFastPathAbandon p s
  | .inFieldTestDone t results => Sys2Proof.Machine.execInFieldTestDone t results s
  | .defectLogAppend => Sys2Proof.Machine.execDefectLogAppend s
  | .hangWindowExpiry t => Sys2Proof.Machine.execHangWindowExpiry t s
  | .quiescenceCheck p notIdle stillBusy => Sys2Proof.Machine.execQuiescenceCheck p notIdle stillBusy s
  | .tileReset t wardAnswers => Sys2Proof.Machine.execTileReset t wardAnswers s
  | .clusterReset t wardAnswers => Sys2Proof.Machine.execClusterReset t wardAnswers s
  | .partitionReset p inTime => Sys2Proof.Machine.execPartitionReset p inTime s
  | .deviceReset => Sys2Proof.Machine.execDeviceReset s
  | .powerCycleRequest => Sys2Proof.Machine.execPowerCycleRequest s
  | .watchdogExpiry => Sys2Proof.Machine.execWatchdogExpiry s
  | .startAttempt => Sys2Proof.Machine.execStartAttempt s
  | .startStageComplete r => Sys2Proof.Machine.execStartStageComplete r s
  | .startStageTimeout => Sys2Proof.Machine.execStartStageTimeout s
  | .linkStagePortTimeout port => Sys2Proof.Machine.execLinkStagePortTimeout port s
  | .broadcastDeadline t => Sys2Proof.Machine.execBroadcastDeadline t s
  | .resendRoundTimeout t => Sys2Proof.Machine.execResendRoundTimeout t s
  | .imageDigestCheck t => Sys2Proof.Machine.execImageDigestCheck t s
  | .loadStatusCheck => Sys2Proof.Machine.execLoadStatusCheck s
  | .knownAnswerDone failed => Sys2Proof.Machine.execKnownAnswerDone failed s
  | .ready => Sys2Proof.Machine.execReady s
  | .attemptFailed reason detail => Sys2Proof.Machine.execAttemptFailed reason detail s
  | .perst portB => Sys2Proof.Machine.execPerst portB s
  | .flr f => Sys2Proof.Machine.execFlr f s
  | .pcieLinkDown f => Sys2Proof.Machine.execPcieLinkDown f s
  | .bar2Read f offset len ecc => Sys2Proof.Machine.execBar2Read f offset len ecc s
  | .bar2Write f offset data => Sys2Proof.Machine.execBar2Write f offset data s
  | .a2CtlWrite f v => Sys2Proof.Machine.execA2CtlWrite f v s
  | .evCtlWrite f v => Sys2Proof.Machine.execEvCtlWrite f v s
  | .evTailWrite f v => Sys2Proof.Machine.execEvTailWrite f v s
  | .countLoRead f => Sys2Proof.Machine.execCountLoRead f s
  | .registerWrite f offset v => Sys2Proof.Machine.execRegisterWrite f offset v s
  | .mailboxPoll f m => Sys2Proof.Machine.execMailboxPoll f m s
  | .msixModerationExpiry f => Sys2Proof.Machine.execMsixModerationExpiry f s
  | .telemetryRewrite => Sys2Proof.Machine.execTelemetryRewrite s
  | .identify r => Sys2Proof.Machine.execIdentify r s
  | .setBifurcation r => Sys2Proof.Machine.execSetBifurcation r s
  | .partCreate r => Sys2Proof.Machine.execPartCreate r s
  | .partDestroy r => Sys2Proof.Machine.execPartDestroy r s
  | .partQuery r => Sys2Proof.Machine.execPartQuery r s
  | .partParams r => Sys2Proof.Machine.execPartParams r s
  | .regionState r => Sys2Proof.Machine.execRegionState r s
  | .bankPower r => Sys2Proof.Machine.execBankPower r s
  | .rowRepair r => Sys2Proof.Machine.execRowRepair r s
  | .channelRange r => Sys2Proof.Machine.execChannelRange r s
  | .flatSet r => Sys2Proof.Machine.execFlatSet r s
  | .windowRead r => Sys2Proof.Machine.execWindowRead r s
  | .progLoad r => Sys2Proof.Machine.execProgLoad r s
  | .progUnload r => Sys2Proof.Machine.execProgUnload r s
  | .jobStart r => Sys2Proof.Machine.execJobStart r s
  | .jobDrain r => Sys2Proof.Machine.execJobDrain r s
  | .jobAbandon r => Sys2Proof.Machine.execJobAbandon r s
  | .jobResume r => Sys2Proof.Machine.execJobResume r s
  | .dlistSet r => Sys2Proof.Machine.execDlistSet r s
  | .scan r => Sys2Proof.Machine.execScan r s
  | .apply r => Sys2Proof.Machine.execApply r s
  | .stageCancel r => Sys2Proof.Machine.execStageCancel r s
  | .stageRead r => Sys2Proof.Machine.execStageRead r s
  | .seamReset r => Sys2Proof.Machine.execSeamReset r s
  | .timeOffset r => Sys2Proof.Machine.execTimeOffset r s
  | .tsync r => Sys2Proof.Machine.execTsync r s
  | .manifestLoad r => Sys2Proof.Machine.execManifestLoad r s
  | .shadowSet r => Sys2Proof.Machine.execShadowSet r s
  | .shadowStop r => Sys2Proof.Machine.execShadowStop r s
  | .shadowRead r => Sys2Proof.Machine.execShadowRead r s
  | .promote r => Sys2Proof.Machine.execPromote r s
  | .insert r => Sys2Proof.Machine.execInsert r s
  | .portMode r => Sys2Proof.Machine.execPortMode r s
  | .portAssign r => Sys2Proof.Machine.execPortAssign r s
  | .exitTable r => Sys2Proof.Machine.execExitTable r s
  | .ethConfig r => Sys2Proof.Machine.execEthConfig r s
  | .ethPeer r => Sys2Proof.Machine.execEthPeer r s
  | .admitPort r => Sys2Proof.Machine.execAdmitPort r s
  | .remove r => Sys2Proof.Machine.execRemove r s
  | .portCaps r => Sys2Proof.Machine.execPortCaps r s
  | .portRead r => Sys2Proof.Machine.execPortRead r s
  | .faultLog r => Sys2Proof.Machine.execFaultLog r s
  | .stepLog r => Sys2Proof.Machine.execStepLog r s
  | .facetLog r => Sys2Proof.Machine.execFacetLog r s
  | .mapRead r => Sys2Proof.Machine.execMapRead r s
  | .seamRead r => Sys2Proof.Machine.execSeamRead r s
  | .counters r => Sys2Proof.Machine.execCounters r s
  | .recordRead r => Sys2Proof.Machine.execRecordRead r s
  | .test r => Sys2Proof.Machine.execTest r s
  | .fence r => Sys2Proof.Machine.execFence r s
  | .clearDefect r => Sys2Proof.Machine.execClearDefect r s
  | .reset r => Sys2Proof.Machine.execReset r s
  | .coldStart r => Sys2Proof.Machine.execColdStart r s
  | .startClear r => Sys2Proof.Machine.execStartClear r s
  | .powerState r => Sys2Proof.Machine.execPowerState r s
  | .capSet r => Sys2Proof.Machine.execCapSet r s
  | .energyRead r => Sys2Proof.Machine.execEnergyRead r s
  | .fwWrite r => Sys2Proof.Machine.execFwWrite r s
  | .fwCommit r => Sys2Proof.Machine.execFwCommit r s
  | .fwStatus r => Sys2Proof.Machine.execFwStatus r s
  | .spdm r => Sys2Proof.Machine.execSpdm r s
  | .adminSet r => Sys2Proof.Machine.execAdminSet r s
  | .telemetry r => Sys2Proof.Machine.execTelemetry r s
  | .svcBind r => Sys2Proof.Machine.execSvcBind r s
  | .svcUnbind r => Sys2Proof.Machine.execSvcUnbind r s
  | .svcClients r => Sys2Proof.Machine.execSvcClients r s
  | .svcStats r => Sys2Proof.Machine.execSvcStats r s
  | .inputSample r => Sys2Proof.Machine.execInputSample r s
  | .inputTransientExpiry => Sys2Proof.Machine.execInputTransientExpiry s
  | .converterStart => Sys2Proof.Machine.execConverterStart s
  | .droopLevel1 t mv => Sys2Proof.Machine.execDroopLevel1 t mv s
  | .droopLevel2 t mv vnom => Sys2Proof.Machine.execDroopLevel2 t mv vnom s
  | .marginMeasure t marginPs => Sys2Proof.Machine.execMarginMeasure t marginPs s
  | .capWindow watts inputW => Sys2Proof.Machine.execCapWindow watts inputW s
  | .headroomExhausted p => Sys2Proof.Machine.execHeadroomExhausted p s
  | .thermalSample x deciC => Sys2Proof.Machine.execThermalSample x deciC s
  | .coolantCheck flow inlet outlet => Sys2Proof.Machine.execCoolantCheck flow inlet outlet s
  | .idleExitDone hd => Sys2Proof.Machine.execIdleExitDone hd s
  | .debugUnlock token => Sys2Proof.Machine.execDebugUnlock token s
  | .attestationSignDone => Sys2Proof.Machine.execAttestationSignDone s
  | .spdmMctp tr msg => Sys2Proof.Machine.execSpdmMctp tr msg s
  | .mctpControl tr msg => Sys2Proof.Machine.execMctpControl tr msg s
  | .i3cSetdasa static dynamic => Sys2Proof.Machine.execI3cSetdasa static dynamic s
  | .i3cEntdaa dynamic => Sys2Proof.Machine.execI3cEntdaa dynamic s
  | .pldmType0 tr msg => Sys2Proof.Machine.execPldmType0 tr msg s
  | .getSensorReading tr sensor => Sys2Proof.Machine.execGetSensorReading tr sensor s
  | .getStateSensorReadings tr sensor => Sys2Proof.Machine.execGetStateSensorReadings tr sensor s
  | .getPdr tr handle => Sys2Proof.Machine.execGetPdr tr handle s
  | .cblPrsntChange port present => Sys2Proof.Machine.execCblPrsntChange port present s
  | .cblSupplyOvercurrent port => Sys2Proof.Machine.execCblSupplyOvercurrent port s
  | .haspFrameSend port sess ecc => Sys2Proof.Machine.execHaspFrameSend port sess ecc s
  | .laneSignalDetect port l => Sys2Proof.Machine.execLaneSignalDetect port l s
  | .pcieLinkUp f gen => Sys2Proof.Machine.execPcieLinkUp f gen s
  | .droopStretchEnd t => Sys2Proof.Machine.execDroopStretchEnd t s
  | .hostReadCompletion f tag initiator data => Sys2Proof.Machine.execHostReadCompletion f tag initiator data s

end Sys2Proof.Machine
end

