-- ==== Sys2Proof/Machine/Ring.lean ====
section
/-!
DEFINITION. The reduction of a gradient bucket around a ring of modules (R272 to R276): the split into chunks, the block that a hop
passes on, and the mark byte. The vector engine's element-wise forms compute each step (R127, R131, R82); the planes of a block in
transit, its mark among them, are bytes of scratchpad that the program moves.
-/

namespace Sys2Proof.Machine

/-- The blocks of chunk `c` of `nb` blocks over `n` modules: the first, and the one after the last (R273). -/
def ringChunk (c nb n : Nat) : Nat × Nat := (c * nb / n, (c + 1) * nb / n)
/-- The home of a chunk; its owner is position `c` (R273). -/
def ringHomeOf (c n : Nat) : Nat := (c + 1) % n

/-- A block in transit: the Garnet16 codes, the exponent byte and the mark byte (R274). -/
structure RingBlock where
  codes : List Nat
  exponent : Nat
  mark : Nat
  deriving DecidableEq, Repr

/-- A block encoded by R82, with its mark. -/
def ringEncode (vs : List Val) (mark : Nat → Nat) : RingBlock :=
  let b := encodeGarnet vs
  ⟨b.codes, b.scale, mark b.scale⟩
/-- The mark after an adder that took a block at exponent `eIn` and passed it on at `eOut` (R275): ESC and the raise so far. A block that
becomes NaN has no exponent, and is not escalated (DEDUCED). [DESIGN CHOICE, log entry 36] -/
def ringMark (mark eIn eOut : Nat) : Nat :=
  if eIn < eOut && eOut ≠ 0xFF then 128 + min 127 (mark % 128 + (eOut - eIn)) else mark
/-- The block widened and combined with the local pairs, the accumulated value on the left (R274). -/
def ringSum (b : RingBlock) (pairs : List (Val × Val)) : List Val :=
  pairs.mapIdx fun i p =>
    let (s, e) := pairAdd (decodeBlockElem 0xD b.exponent i (b.codes.getD i 0), Val.zero) p
    fadd s e
/-- The home sends its own pairs with a clear mark (R274). -/
def ringStart (pairs : List (Val × Val)) : RingBlock := ringEncode (pairs.map fun p => fadd p.1 p.2) fun _ => 0
/-- A module between home and owner (R274). -/
def ringPass (b : RingBlock) (pairs : List (Val × Val)) : RingBlock :=
  ringEncode (ringSum b pairs) (ringMark b.mark b.exponent)
/-- The owner writes FP32 words and the final mark (R274). -/
def ringEnd (b : RingBlock) (pairs : List (Val × Val)) : List Nat × Nat := ((ringSum b pairs).map toF32, b.mark)
/-- A block along its whole path: home, the modules between, owner (R273, R274); with one module the owner holds the home's value. [DESIGN CHOICE, log entry 36] -/
def ringReduce (home : List (Val × Val)) (between : List (List (Val × Val))) (owner : List (Val × Val)) : List Nat × Nat :=
  ringEnd (between.foldl ringPass (ringStart home)) owner

end Sys2Proof.Machine
end

