-- ==== Sys2Proof/WellFormed.lean ====
section
/-!
DEFINITION. Which commands are well formed: the sizes of the byte strings and lists they carry, and the numbers that a narrower field of the
part holds. A command's meaning is given for every term; the bounds are the manual's.
-/

namespace Sys2Proof

/-- Whether a packet type carries no payload of its own: read requests and management reads (R213). -/
def Packet.bare (p : Packet) : Bool := p.type.toNat = 2 || p.type.toNat = 6 || p.type.toNat = 0x81
/-- A packet's LEN is 0 to 256, and its payload has LEN bytes where its type carries one (R211, R213). -/
def Packet.wf (p : Packet) : Bool := p.len.toNat ≤ 256 && p.payload.length = (if p.bare then 0 else p.len.toNat)
/-- A request body has at most 2,024 bytes (R416). -/
def Req.wf (r : Req) : Bool := r.body.length ≤ 2024

/-- The packet a command delivers. -/
def Instr.packet : Instr → Option Packet
  | .writeRequest _ p _ => some p
  | .readRequest _ p _ => some p
  | .msgArrival _ p => some p
  | .msgctlOpen _ p => some p
  | .msgctlOpenAck _ p => some p
  | .msgctlCredit _ p => some p
  | .msgctlClose _ p => some p
  | .mgmtWr _ p => some p
  | .mgmtRd _ p => some p
  | .image _ p => some p
  | .cmpl _ p => some p
  | .cmplD _ p _ => some p
  | _ => none

/-- The opcode of a mailbox command (chapter 16) and its request. -/
def Instr.request : Instr → Option (Nat × Req)
  | .identify r => some (0x0101, r)
  | .setBifurcation r => some (0x0102, r)
  | .partCreate r => some (0x0201, r)
  | .partDestroy r => some (0x0202, r)
  | .partQuery r => some (0x0203, r)
  | .partParams r => some (0x0204, r)
  | .regionState r => some (0x0301, r)
  | .bankPower r => some (0x0302, r)
  | .rowRepair r => some (0x0303, r)
  | .channelRange r => some (0x0304, r)
  | .flatSet r => some (0x0305, r)
  | .windowRead r => some (0x0306, r)
  | .progLoad r => some (0x0401, r)
  | .progUnload r => some (0x0402, r)
  | .jobStart r => some (0x0403, r)
  | .jobDrain r => some (0x0404, r)
  | .jobAbandon r => some (0x0405, r)
  | .jobResume r => some (0x0406, r)
  | .dlistSet r => some (0x0407, r)
  | .scan r => some (0x0408, r)
  | .apply r => some (0x0501, r)
  | .stageCancel r => some (0x0502, r)
  | .stageRead r => some (0x0503, r)
  | .seamReset r => some (0x0504, r)
  | .timeOffset r => some (0x0505, r)
  | .tsync r => some (0x0506, r)
  | .manifestLoad r => some (0x0601, r)
  | .shadowSet r => some (0x0602, r)
  | .shadowStop r => some (0x0603, r)
  | .shadowRead r => some (0x0604, r)
  | .promote r => some (0x0605, r)
  | .insert r => some (0x0606, r)
  | .portMode r => some (0x0701, r)
  | .portAssign r => some (0x0702, r)
  | .exitTable r => some (0x0703, r)
  | .ethConfig r => some (0x0704, r)
  | .ethPeer r => some (0x0705, r)
  | .admitPort r => some (0x0706, r)
  | .remove r => some (0x0707, r)
  | .portCaps r => some (0x0708, r)
  | .portRead r => some (0x0709, r)
  | .faultLog r => some (0x0801, r)
  | .stepLog r => some (0x0802, r)
  | .facetLog r => some (0x0803, r)
  | .mapRead r => some (0x0804, r)
  | .seamRead r => some (0x0805, r)
  | .counters r => some (0x0806, r)
  | .recordRead r => some (0x0807, r)
  | .test r => some (0x0808, r)
  | .fence r => some (0x0809, r)
  | .clearDefect r => some (0x080A, r)
  | .reset r => some (0x080B, r)
  | .coldStart r => some (0x080C, r)
  | .startClear r => some (0x080D, r)
  | .powerState r => some (0x0901, r)
  | .capSet r => some (0x0902, r)
  | .energyRead r => some (0x0903, r)
  | .fwWrite r => some (0x0A01, r)
  | .fwCommit r => some (0x0A02, r)
  | .fwStatus r => some (0x0A03, r)
  | .spdm r => some (0x0A04, r)
  | .adminSet r => some (0x0A05, r)
  | .telemetry r => some (0x0B01, r)
  | .svcBind r => some (0x0C01, r)
  | .svcUnbind r => some (0x0C02, r)
  | .svcClients r => some (0x0C03, r)
  | .svcStats r => some (0x0C04, r)
  | _ => none

/-- The command is well formed: its packet or request is, a native frame has 640 bytes (R286), a fragment at most 28 bytes of data and a CREDITS
message at most 7 returns (R291), a client address 4 or 16 bytes (R305), a host access at most 4,096 bytes and a completion at most 256
(R211, R404), a link generation is 5 to 7 (R402), and a power sample names at most the 16 half-dies (R18). -/
def Instr.wf (i : Instr) : Bool :=
  (i.packet.all Packet.wf) && (i.request.all fun r => r.2.wf) &&
  match i with
  | .haspFrameReceive _ x frame _ => x.isSome || frame.length = 640
  | .admitFragment _ _ _ _ _ data => data.length ≤ 28
  | .credits _ _ rs => rs.length ≤ 7
  | .serviceRequest _ ipv6 addr _ _ _ _ => addr.length = (if ipv6 then 16 else 4)
  | .bar2Read _ _ len _ => len.toNat ≤ 4096
  | .bar2Write _ _ data => data.length ≤ 4096
  | .hostReadCompletion _ _ _ data => data.length ≤ 256
  | .pcieLinkUp _ gen => 5 ≤ gen.toNat && gen.toNat ≤ 7
  | .capWindow watts _ => watts.length ≤ 16
  | _ => true

end Sys2Proof
end

