-- ==== Sys2Proof/Safety.lean ====
section
/-!
DEFINITION. What counts as a safe run: which commands name only units that the member carries, when a step goes on, and the facts about the
state that every step keeps.
-/

namespace Sys2Proof

/-- The tile that a command names, if it names one. -/
def Instr.tileNamed : Instr → Option TileId
  | .seqInstruction t _ => some t
  | .zqEnq t _ _ _ _ => some t
  | .zqWait t _ _ => some t
  | .zqWaitRetire t => some t
  | .zqPoll t _ _ => some t
  | .zqBwait t => some t
  | .zqBwaitRetire t => some t
  | .zqBsync t => some t
  | .zqBsyncRetire t => some t
  | .mxePassStart t => some t
  | .mxeAttemptEnd t _ => some t
  | .mxePassComplete t => some t
  | .vxeElementwise t _ => some t
  | .vxeReduce t _ => some t
  | .vxeCombine t _ => some t
  | .vxeFacet t _ => some t
  | .vxeTopk t _ => some t
  | .vxeComplete t => some t
  | .dmaCopy t _ => some t
  | .dmaConvert t _ => some t
  | .dmaWopen t _ => some t
  | .dmaWclose t => some t
  | .dmaComplete t => some t
  | .msgListen t => some t
  | .msgOpen t => some t
  | .msgSend t => some t
  | .msgSendAllot t _ _ => some t
  | .msgRelease t => some t
  | .msgClose t => some t
  | .msgUnitComplete t => some t
  | .ringStallTimeout t _ => some t
  | .ringHeldWriteAccept t _ _ => some t
  | .bankDrainDone t _ => some t
  | .bankDrainTimeout t _ => some t
  | .bankClearDone t _ => some t
  | .streamSlot t _ _ => some t
  | .steerToken t _ => some t
  | .fencedRequestRelease t _ => some t
  | .replyTimeout t _ => some t
  | .writeRequest t _ _ => some t
  | .readRequest t _ _ => some t
  | .mgmtWr t _ => some t
  | .mgmtRd t _ => some t
  | .image t _ => some t
  | .notice t => some t
  | .cmpl t _ => some t
  | .cmplD t _ _ => some t
  | .resend t => some t
  | .inFieldTestDone t _ => some t
  | .hangWindowExpiry t => some t
  | .tileReset t _ => some t
  | .clusterReset t _ => some t
  | .broadcastDeadline t => some t
  | .resendRoundTimeout t => some t
  | .imageDigestCheck t => some t
  | .droopLevel1 t _ => some t
  | .droopLevel2 t _ _ => some t
  | .marginMeasure t _ => some t
  | .droopStretchEnd t => some t
  | .packetInject (.tile t) => some t
  | .msgArrival (.tile t) _ => some t
  | .msgctlOpen (.tile t) _ => some t
  | .msgctlOpenAck (.tile t) _ => some t
  | .msgctlCredit (.tile t) _ => some t
  | .msgctlClose (.tile t) _ => some t
  | _ => none

end Sys2Proof

namespace Sys2Proof.Machine

/-- Every unit that the command names is one the member carries: tiles, seams, regions, stacks and half-dies (R1, R16 to R19, R58, R171). [DESIGN CHOICE, log entry 3] -/
def State.fits (s : State) (i : Instr) : Bool :=
  i.tileNamed.all s.hasTile &&
  match i with
  | .seamTransfer x _ _ => s.member.seamIds.contains x.toNat
  | .seamCorrectedLimit x => s.member.seamIds.contains x.toNat
  | .patrolScrub dpa _ _ => decide (dpa.toNat / 2 ^ 33 < s.member.regions)
  | .dramRowRepair stack => decide (stack.val < 2 * s.member.halfDies)
  | .regionZeroingDone r => decide (r.toNat < s.member.regions)
  | .thermalSample (.halfDie hd _) _ => decide (hd.val < s.member.halfDies)
  | .idleExitDone hd => decide (hd.val < s.member.halfDies)
  | _ => true

/-- A step that goes on. -/
def State.goesOn (s : State) : Prop := ∃ t, step s = .next t

/-- What every step keeps. The stores are in their one form: keys rise strictly, and device DRAM lists no zero byte. The tables of IO-W and IO-E
are the same (R34). The fault inbox holds at most 4,096 records and the fault log 16,384 (R361). -/
structure State.Sound (s : State) : Prop where
  tiles : kwf s.tiles = true
  seams : kwf s.seams = true
  regions : kwf s.regions = true
  channels : kwf s.channels = true
  bindings : kwf s.bindings = true
  rows : kwf s.rows = true
  dram : Memory.wf (some 0) s.dram = true
  flat : s.flatW = s.flatE
  inbox : s.inbox.length ≤ 4096
  faultLog : s.faultLog.length ≤ 16384

/-- A mailbox command is taken: Pintle serves mailboxes, the request passes the checks of R417 to R419, and no earlier command of its partition
holds it back. -/
def State.takes (s : State) (op : Nat) (r : Req) : Prop :=
  s.mboxFree r = true ∧ (s.accept r).refusal op r = none ∧ ∀ p, (s.accept r).reqPart op r = some p → (s.accept r).blocked p = false

end Sys2Proof.Machine
end

