-- ==== Sys2Proof/Certificates/Slice0/Obligations.lean ====
section
/-!
DEFINITION. The statements for the provers.
-/

open Sys2Proof Sys2Proof.Machine

/-- A step runs the command at the front of the queue (rests on parts of spec/00_scope.md). -/
def Obligations.StepRunsTheFrontCommand : Prop :=
  ∀ (c : Instr) (rest : List Instr) (s : State), s.pending = c :: rest → step s = exec c { s with pending := rest }

/-- With no command waiting, a step is one cycle of the time base (rests on parts of R41). -/
def Obligations.IdleStepCountsOneCycle : Prop :=
  (∀ s : State, s.pending = [] → s.pllLocked = true → step s = .next { s with count := s.count + 1 }) ∧
  (∀ s : State, s.pending = [] → s.pllLocked = false → step s = .next s)

/-- The state after reset has every store in its one form (rests on parts of R34, R361). -/
def Obligations.ResetStateIsSound : Prop :=
  State.reset.Sound

/-- Every step keeps the tables of the two I/O dies identical, the stores canonical and the fault queues within their sizes (rests on parts of
R34, R361). -/
def Obligations.EveryStepKeepsTheStateSound : Prop :=
  ∀ s t : State, s.Sound → step s = .next t → t.Sound

/-- Every step takes one command from the queue and never changes the member (rests on parts of R1). -/
def Obligations.EveryStepConsumesOneCommandAndKeepsTheMember : Prop :=
  ∀ s t : State, step s = .next t → t.pending = s.pending.tail ∧ t.member = s.member

/-- A command goes on exactly where the units it names are fitted, and is never refused (rests on parts of R1, R16, R17, R18, R58, R171). -/
def Obligations.CommandsGoOnExactlyWhereTheirUnitsAreFitted : Prop :=
  ∀ (c : Instr) (s : State), (s.fits c = true → ∃ t, exec c s = .next t) ∧ (s.fits c = false → exec c s = .fault .noSuchUnit)

/-- Reference loss, the TSYNC output pulse and the TSYNC input edge (rests on parts of R42, R44). -/
def Obligations.TimeBaseEvents : Prop :=
  (∀ s : State, s.holdover = false → exec .tbRefLoss s = .next (({ s with holdover := true } : State).postAdmin 6 1 [])) ∧
  (∀ s : State, s.holdover = true → exec .tbRefLoss s = .next s) ∧
  (∀ s : State, s.pllLocked = true → ∃ c : Nat, s.now ≤ c ∧ c < s.now + 2 ^ 20 ∧ c % 2 ^ 20 = 0 ∧
    exec .tsyncOutPulse s = .next { s with count := BitVec.ofNat 64 (c + 8), tsyncPulses := s.tsyncPulses + 1 }) ∧
  (∀ s : State, s.tsyncEn = true → exec .tsyncInEdge s = .next { s with tsyncCapture := s.count, tsyncCaptures := s.tsyncCaptures + 1 }) ∧
  (∀ s : State, s.tsyncEn = false → exec .tsyncInEdge s = .next s)

/-- The deadline evaluation, the boundary, votes and the vote deadline of a partition (rests on parts of R52, R56, R57, R61, R429, R430). -/
def Obligations.BeatEvents : Prop :=
  (∀ (p : PartId) (s : State), (s.part p).present = true → (s.part p).judged = false →
    ∃ u v w, u = s.reachJob p ((s.part p).t ((s.part p).beat + 1)) ∧ v = u.forTiles (u.holders p) (State.tileDeadline p) ∧
      w = (if (s.part p).paired && (s.part p).live then v.forTiles (v.primaries p) (State.pairCheck p) else v) ∧
      exec (.beatDeadline p) s = .next ((w.forTiles (u.holders p) fun x t => x.modTile t fun y => y.countStill (u.beatCounts p t)).modPart p fun q =>
        { q with judged := true })) ∧
  (∀ (p : PartId) (s u : State) (t : TileId), u = s.modTile t (fun v => v.idleProgress (s.part p).beatInStep) →
    (u.tileLive t = false ∨ (s.part p).mayIssue = false → State.tileDeadline p s t = u) ∧
    (u.tileLive t = true → (s.part p).mayIssue = true → (u.tile t).streamCheck (s.part p).beatInStep = none → (u.tile t).overrun = false →
      (u.tile t).boundStalls = [] →
      (∀ x, (u.tile t).bwaited = true → (u.tile t).stamp = some x → x ≤ (s.part p).t ((s.part p).beat + 1) → State.tileDeadline p s t = u) ∧
      (∀ x, (u.tile t).bwaited = true → (u.tile t).stamp = some x → (s.part p).t ((s.part p).beat + 1) < x →
        State.tileDeadline p s t = u.overran t (x - (s.part p).t ((s.part p).beat + 1)).toNat) ∧
      ((u.tile t).bwaited = false ∨ (u.tile t).stamp = none → State.tileDeadline p s t = u.overran t 0xFFFFFFFF))) ∧
  (∀ (p : PartId) (bad : List BoundaryEcc) (s : State), (s.part p).boundaryReady = true → exec (.beatBoundary p bad) s =
    .next (bad.foldl (fun s b => s.boundaryEcc p b) ((bad.foldl (fun s b => s.boundaryUpset b) s).boundary p))) ∧
  (∀ (p : PartId) (s : State) (q : Part), s.part p = q → q.boundaryReady = true → q.startDue = none → q.apply = none → q.direct = [] →
    q.fenceNext = [] → q.repairs = [] → q.slowDue = false → q.restoreRows = [] → q.dlists.toList.any Option.isSome = false →
    (∀ w ∈ s.waiters, w.opcode ≠ 0x0408) → (q.beat + 1) % q.s ≠ 0 →
    (q.job = .none ∨ (q.job = .running ∧ q.latch.halt = none ∧ q.beatInStep ≠ q.k ∧ q.abandoning = false)) →
    ∃ u v w, u = ((s.reachJob p (q.t (q.beat + 1) + 8)).slotZero p).forTiles (s.holders p) (fun s t => s.modTile t fun v =>
        { v with bsyncGo := decide (v.seq.run = SeqRun.stalled SeqWait.bsync) && v.bwaited && !v.overrun }) ∧
      v = (u.bookEnergy p q).modPart p (fun x => { x with beat := q.beat + 1, judged := false }) ∧
      w = (if q.job = .none then v.cleanBits p else v).modPart p (fun x => { x with mapRefused := x.mapRefused.filter fun b => decide (q.beat + 1 < b) }) ∧ (w.part p).beat = q.beat + 1 ∧ (w.part p).judged = false ∧
      exec (.beatBoundary p []) s = .next (w.forTiles (w.holders p) fun s t => s.modTile t fun x => x.beatBegins (s.part p).mayIssue)) ∧
  (∀ (p : PartId) (s : State) (a : Apply), (s.part p).boundaryReady = true → (s.part p).startDue = some a →
    ∃ t, exec (.beatBoundary p []) s = .next t ∧ (t.part p).judged = false) ∧
  (∀ (p : PartId) (s : State) (u : UnitName) (ready : Bool) (m : U16) (a : Apply) (put : Part → Apply → Part),
    (put = (fun q b => { q with apply := some b }) ∧ (s.part p).apply = some a ∨
      put = (fun q b => { q with direct := [b] }) ∧ (s.part p).apply = none ∧ (s.part p).direct = [a]) →
    a.outcome = none → a.refused = none → u ∈ a.units → u ∉ a.votes → s.jobTime p ≤ (s.part p).applyAt a - 1000 →
    (∀ v, ((∀ id, u ≠ .seam id) ∧ v = s ∨ ∃ id, u = .seam id ∧ 500 ≤ m.toNat ∧ v = s.modSeam id.toNat fun x => { x with marginPs := m }) →
      (ready = true → ∀ b, b = { a with votes := a.votes ++ [u] } →
        (a.hold = false ∨ b.allVoted = false ∨ a.held = true → exec (.stageVote p u ready m) s = .next (v.setPart p (put (s.part p) b))) ∧
        (a.hold = true → b.allVoted = true → a.held = false →
          exec (.stageVote p u ready m) s = .next ((v.setPart p (put (s.part p) { b with held := true })).answerApply a 0))) ∧
      (ready = false → exec (.stageVote p u ready m) s = .next (v.setPart p (put (s.part p) { a with refused := some u })))) ∧
    (∀ id, u = .seam id → m.toNat < 500 → ∃ v, v = ((s.modSeam id.toNat fun x => { x with marginPs := m }).modSeam id.toNat fun x => { x with verifyFailed := true }).unitFault (some p)
        { cls := 0x11, unit := 1, addr := id.toNat, bit := m.toNat, clears := false } ∧
      exec (.stageVote p u ready m) s = .next (v.setPart p (put (v.part p) { a with refused := some u })))) ∧
  (∀ (p : PartId) (s : State) (u : UnitName) (ready : Bool) (m : U16),
    (∀ a ∈ (s.part p).applies, a.outcome ≠ none ∨ a.refused ≠ none ∨ u ∉ a.units ∨ u ∈ a.votes ∨ (s.part p).applyAt a - 1000 < s.jobTime p) →
    (ready = true ∨ s.mapVote p u = none → exec (.stageVote p u ready m) s = .next s) ∧
    (∀ b, ready = false → s.mapVote p u = some b → exec (.stageVote p u ready m) s = .next (s.modPart p fun q => { q with mapRefused := some b }))) ∧
  (∀ (p : PartId) (s : State) (a : Apply), a.outcome = none → ((s.part p).apply = some a ∧ (s.part p).direct = [] ∧ a.direct = false ∨
      (s.part p).apply = none ∧ (s.part p).direct = [a] ∧ a.direct = true) →
    ∃ u pend, u = s.reachJob p ((s.part p).applyAt a - 999) ∧ pend = (if a.direct then (s.part p).pending else []) ∧
    (a.allVoted = true → (s.part p).promoteFits a = true → (a.hold = false ∨ a.committed = true) → exec (.voteDeadline p) s =
      .next (u.setPart p { s.part p with
        pending := pend, apply := if a.direct then none else some { a with outcome := some true }
        direct := if a.direct then [{ a with outcome := some true }] else [] })) ∧
    (∀ v, ((a.allVoted = true ∧ (s.part p).promoteFits a = true ∧ a.hold = true ∧ a.committed = false ∧ v = u) ∨
        ((a.allVoted = false ∨ (s.part p).promoteFits a = false) ∧ v = u.unitFault (some p) {
          cls := 0x17, unit := unitCode ((a.refused.or (a.units.find? fun x => !a.votes.contains x)).getD .partitionUnit)
          addr := a.req.tag.toNat + a.opcode.toNat * 65536, clears := false })) →
      ∃ w, w = v.setPart p { v.part p with pending := pend, apply := none, direct := [] } ∧
        (a.held = false → a.committed = false → exec (.voteDeadline p) s = .next (w.answerApply a 7)) ∧
        (a.held = true ∨ a.committed = true → exec (.voteDeadline p) s = .next w))) ∧
  (∀ (p : PartId) (s : State), (∀ a ∈ (s.part p).applies, a.outcome ≠ none) → exec (.voteDeadline p) s = .next s)

/-- What a word that crosses a seam does, and the corrected-word limit (rests on parts of R61). -/
def Obligations.SeamWordsAndTheirCounts : Prop :=
  ∀ (x : U16) (s : State), s.member.seamIds.contains x.toNat = true →
    (∀ rev, exec (.seamTransfer x rev .clean) s = .next s) ∧
    exec (.seamTransfer x false .corrected) s = .next (s.modSeam x.toNat fun y => { y with corrP := y.corrP + 1 }) ∧
    exec (.seamTransfer x true .corrected) s = .next (s.modSeam x.toNat fun y => { y with corrR := y.corrR + 1 }) ∧
    (∀ rev, exec (.seamTransfer x rev .uncorrectable) s =
      let t := s.seamFault x.toNat { cls := 2, addr := 4 * 2 ^ 60 + x.toNat, bit := 0xFFFF0000 + (Config.syndrome s.draws).toNat }
      .next { t with draws := s.draws + 1 }) ∧
    (256 < (s.seam x.toNat).corrP ∨ 256 < (s.seam x.toNat).corrR → (s.seam x.toNat).limitRecorded = false →
      exec (.seamCorrectedLimit x) s =
        .next ((s.modSeam x.toNat fun y => { y with limitRecorded := true }).seamFault x.toNat { cls := 0x0A, addr := x.toNat })) ∧
    ((s.seam x.toNat).limitRecorded = true → exec (.seamCorrectedLimit x) s = .next s)

/-- Patrol scrub, row repair, zeroing and an overdue carry save (rests on parts of R163, R168, R169, R170, R171, R268, R351). -/
def Obligations.DramControllerEvents : Prop :=
  (∀ (a : BitVec 42) (loc : U64) (e : Ecc) (s : State) (pin : Nat) (m : BitVec 18), a.toNat / 2 ^ 33 < s.member.regions →
    pin = bitsOf loc.toNat 49 45 % 18 → m = s.erasedSyms (s.dramLoc a.toNat) →
    (s.regionOn a.toNat = false → exec (.patrolScrub a loc e) s = .next s) ∧
    exec (.patrolScrub a loc .clean) s = .next s ∧
    (∀ w, s.regionOn a.toNat = true → m = 0 → exec (.patrolScrub a loc (.corrected w)) s = .next (s.corrected (s.dramLoc a.toNat) pin)) ∧
    (∀ w, s.regionOn a.toNat = true → m.getLsbD pin = true → exec (.patrolScrub a loc (.corrected w)) s = .next s) ∧
    (∀ w, s.regionOn a.toNat = true → m ≠ 0 → m.getLsbD pin = false →
      exec (.patrolScrub a loc (.corrected w)) s = exec (.patrolScrub a loc (.dram a (BitVec.ofNat 18 (2 ^ pin)))) s) ∧
    (∀ d sym, s.regionOn a.toNat = true → s.partOfHd (a.toNat / 2 ^ 38) = none → exec (.patrolScrub a loc (.dram d sym)) s =
      .next (((s.upsetDram a.toNat).unitFault none { cls := 1, unit := 4, addr := a.toNat, bit := (sym ||| m).toNat, clears := false }).markRow
        (s.dramLoc a.toNat) (sym ||| m) 1)) ∧
    (∀ d sym p, s.regionOn a.toNat = true → s.partOfHd (a.toNat / 2 ^ 38) = some p → exec (.patrolScrub a loc (.dram d sym)) s =
      .next ((((s.upsetDram a.toNat).unitFault (some p) { cls := 1, unit := 4, addr := a.toNat, bit := (sym ||| m).toNat }).markRow
        (s.dramLoc a.toNat) (sym ||| m) 1).clearPart p 1))) ∧
  (∀ (k : Fin 32) (s : State), k.val < 2 * s.member.halfDies → s.stackPart k.val = none →
    exec (.dramRowRepair k) s = .next ((takeRows [] (s.stackRows k.val)).foldl State.repairRow s)) ∧
  (∀ (k : Fin 32) (p : PartId) (s : State), k.val < 2 * s.member.halfDies → s.stackPart k.val = some p →
    ((s.part p).mayRepairRows = false → exec (.dramRowRepair k) s = .next s) ∧
    ((s.part p).mayRepairRows = true → exec (.dramRowRepair k) s =
      let rows := takeRows (if (s.part p).placing then (s.part p).frozenBanks else []) (s.stackRows k.val)
      .next ((rows.foldl State.repairRow s).modPart p fun q => { q with
        frozenBanks := if q.placing then q.frozenBanks ++ rows.map bankKey else [] }))) ∧
  (∀ (r : BitVec 9) (s : State), r.toNat < s.member.regions →
    (s.region r.toNat = .zeroing → exec (.regionZeroingDone r) s = .next { s with regions := kdel r.toNat s.regions }) ∧
    (s.region r.toNat ≠ .zeroing → exec (.regionZeroingDone r) s = .next s)) ∧
  (∀ (p : PartId) (s : State), (s.part p).attempting = true → (s.part p).carrySaving = true → (s.part p).latch.fixed = some true →
    (s.part p).judged = true → (s.part p).beatInStep + 1 = (s.part p).s →
    ∃ t, exec (.carrySaveOverdue p) s = .next t ∧ (t.part p).carrySaving = false ∧ (t.part p).latch.commitFault = true)

/-- What retiring a ZQ instruction does to the sequencer (rests on parts of R98, R102). -/
def Obligations.RetiringAnIssueInstruction : Prop :=
  ∀ (t : TileId) (rd : Nat) (w : U32) (s : State), rd < 32 → ∃ v, s.zqRetire t rd w = s.setTile t v ∧
    v = { s.tile t with seq := v.seq, progress := v.progress, issued := true } ∧ v.seq.pc = (s.tile t).seq.pc + 4 ∧ v.seq.run = .running ∧
    (∀ r, v.seq.x r = if r = rd ∧ r ≠ 0 then w else (s.tile t).seq.x r) ∧
    v.progress = { (s.tile t).progress with seq := (s.tile t).progress.seq + 1 }

/-- What the five issue instructions do on a tile whose sequencer executes (rests on parts of R97, R98, R99, R100, R101). -/
def Obligations.IssueInstructionsRunOrStall : Prop :=
  ∀ (t : TileId) (s : State), s.hasTile t = true → s.seqReady t = true →
    (∀ (e : Eng) (rd rs1 : BitVec 5) (ecc : Ecc), exec (.zqEnq t e rd rs1 ecc) s =
      .next ((s.seqEcc t ecc (s.tile t).seq.pc.toNat).zqEnq t e rd.toNat rs1.toNat)) ∧
    (∀ (e : Eng) (rd rs1 : BitVec 5), let v := s.tile t; let a := (v.seq.x rs1.toNat).toNat
      (a % 64 ≠ 0 ∨ inSeqSpad a 64 = false → exec (.zqEnq t e rd rs1 .clean) s = .next (s.seqTrap t 4 a)) ∧
      (a % 64 = 0 → inSeqSpad a 64 = true → v.clearing s.member (s.stepAt t) (a - 0x10000000) 64 = true →
        exec (.zqEnq t e rd rs1 .clean) s = .next s) ∧
      (a % 64 = 0 → inSeqSpad a 64 = true → v.clearing s.member (s.stepAt t) (a - 0x10000000) 64 = false → ∀ u : State,
        (match v.bankHit s.member (s.stepAt t) (· = .off) (a - 0x10000000) 64 with
          | none => u = s
          | some b => u = s.tileFault t { cls := 0x10, eng := 0, pc := v.seq.pc.toNat, addr := b }) →
        let d := s.spadRead t (a - 0x10000000) 64; let w := u.tile t
        (u.descOk t e d = false → exec (.zqEnq t e rd rs1 .clean) s = .next (u.seqTrap t 24 a)) ∧
        (u.descOk t e d = true → (v.q e).freeSlot = none →
          exec (.zqEnq t e rd rs1 .clean) s = .next (u.setTile t { w with seq := { w.seq with run := .stalled (.enq e rd rs1) } })) ∧
        (∀ i, u.descOk t e d = true → (v.q e).freeSlot = some i → ∃ b, exec (.zqEnq t e rd rs1 .clean) s =
          .next ((u.setTile t (w.setQ e { (w.q e) with
            enq := (v.q e).enq + 1
            slots := (w.q e).slots ++ [{ num := i, desc := d, ticket := (v.q e).enq + 1, pc := v.seq.pc.setWidth 17, binding := b }] })).zqRetire
              t rd.toNat ((v.q e).enq + 1)) ∧
          b = if isScheduled e d then (if v.bwaited then .held else .bound) else .unscheduled))) ∧
    (∀ (e : Eng) (rs1 : BitVec 5), let v := s.tile t; let k := v.seq.x rs1.toNat
      (0 ≤ ((v.q e).done - k).toInt → exec (.zqWait t e rs1) s = .next (s.zqRetire t 0 0)) ∧
      (((v.q e).done - k).toInt < 0 → exec (.zqWait t e rs1) s = .next (s.setTile t { v with seq := { v.seq with run := .stalled (.wait e k) } }))) ∧
    (∀ (e : Eng) (rd : BitVec 5), exec (.zqPoll t e rd) s = .next (s.zqRetire t rd.toNat ((s.tile t).q e).done)) ∧
    ((s.tile t).bwaited = true → exec (.zqBwait t) s = .next (s.zqRetire t 0 0) ∧
      exec (.zqBsync t) s = .next (s.setTile t { s.tile t with seq := { (s.tile t).seq with run := .stalled .bsync } })) ∧
    ((s.tile t).bwaited = false → s.beatDone t = true →
      exec (.zqBwait t) s = .next ((s.setTile t { s.tile t with bwaited := true, stamp := some (s.stampNow t) }).zqRetire t 0 0)) ∧
    ((s.tile t).bwaited = false → s.beatDone t = false →
      exec (.zqBwait t) s = .next (s.setTile t { s.tile t with seq := { (s.tile t).seq with run := .stalled .bwait } }))

/-- When the stalled ZQ.WAIT, ZQ.BWAIT and ZQ.BSYNC retire (rests on parts of R53, R100, R101). -/
def Obligations.StalledIssueInstructionsRetire : Prop :=
  ∀ (t : TileId) (s : State), s.hasTile t = true → s.tileLive t = true →
    (∀ e k, (s.tile t).seq.run = .stalled (.wait e k) → 0 ≤ (((s.tile t).q e).done - k).toInt →
      exec (.zqWaitRetire t) s = .next (s.zqRetire t 0 0)) ∧
    (∀ e k, (s.tile t).seq.run = .stalled (.wait e k) → (((s.tile t).q e).done - k).toInt < 0 → exec (.zqWaitRetire t) s = .next s) ∧
    ((s.tile t).seq.run = .stalled .bwait → (s.tile t).bwaited = false → s.beatDone t = true → exec (.zqBwaitRetire t) s =
      .next ((s.setTile t { s.tile t with bwaited := true, stamp := some (s.stampNow t) }).zqRetire t 0 0)) ∧
    ((s.tile t).seq.run = .stalled .bsync → (s.tile t).bwaited = false → s.beatDone t = true → exec (.zqBwaitRetire t) s =
      .next (s.setTile t { s.tile t with bwaited := true, stamp := some (s.stampNow t) })) ∧
    (∀ p, (s.tile t).seq.run = .stalled .bsync → (s.tile t).bsyncGo = true → (s.tile t).overrun = false → s.partOf t = some p →
      exec (.zqBsyncRetire t) s =
        .next (((s.reachJob p ((s.part p).t (s.part p).beat + 64)).modTile t fun v => { v with bsyncGo := false }).zqRetire t 0 0))

/-- The sequencer fetches and executes one RV32IMC instruction (rests on parts of R92, R93, R97). -/
def Obligations.SequencerRunsTheFetchedInstruction : Prop :=
  ∀ (t : TileId) (s : State), s.hasTile t = true → s.seqReady t = true →
    (∀ w : Nat, inImem (s.tile t).seq.pc.toNat 4 = true → leNat (s.imemRead t (s.tile t).seq.pc.toNat 2) % 4 = 3 →
      leNat (s.imemRead t (s.tile t).seq.pc.toNat 4) = w → exec (.seqInstruction t .clean) s = .next (s.seqExec t w 4 w)) ∧
    (∀ h w : Nat, inImem (s.tile t).seq.pc.toNat 2 = true → leNat (s.imemRead t (s.tile t).seq.pc.toNat 2) = h → h % 4 ≠ 3 →
      expandC h = some w → exec (.seqInstruction t .clean) s = .next (s.seqExec t w 2 h)) ∧
    (∀ h : Nat, inImem (s.tile t).seq.pc.toNat 2 = true → leNat (s.imemRead t (s.tile t).seq.pc.toNat 2) = h → h % 4 ≠ 3 →
      expandC h = none → exec (.seqInstruction t .clean) s = .next (s.seqTrap t 2 h)) ∧
    (inImem (s.tile t).seq.pc.toNat 2 = false → exec (.seqInstruction t .clean) s = .next (s.seqTrap t 1 (s.tile t).seq.pc.toNat))

/-- What the base, multiply and system instructions write (rests on parts of R92, R93, R97). -/
def Obligations.SequencerInstructionResults : Prop :=
  ∀ (t : TileId) (w len raw : Nat) (s : State), let q := (s.tile t).seq
    let rd := bitsOf w 11 7; let a := q.x (bitsOf w 19 15); let b := q.x (bitsOf w 24 20)
    (bitsOf w 6 0 = 0x33 → bitsOf w 14 12 = 0 →
      (bitsOf w 31 25 = 0 → s.seqExec t w len raw = s.seqNext t len rd (a + b)) ∧
      (bitsOf w 31 25 = 0x20 → s.seqExec t w len raw = s.seqNext t len rd (a - b)) ∧
      (bitsOf w 31 25 = 1 → s.seqExec t w len raw = s.seqNext t len rd (a * b))) ∧
    (bitsOf w 6 0 = 0x33 → bitsOf w 14 12 = 5 → bitsOf w 31 25 = 1 →
      s.seqExec t w len raw = s.seqNext t len rd (if b = 0 then 0xFFFFFFFF else BitVec.ofNat 32 (a.toNat / b.toNat))) ∧
    (bitsOf w 6 0 = 0x13 → bitsOf w 14 12 = 0 → s.seqExec t w len raw = s.seqNext t len rd (a + BitVec.ofInt 32 (immI w))) ∧
    (bitsOf w 6 0 = 0x37 → s.seqExec t w len raw = s.seqNext t len rd (BitVec.ofNat 32 (bitsOf w 31 12 * 4096))) ∧
    (bitsOf w 6 0 = 0x6F → s.seqExec t w len raw = s.setTile t { s.tile t with seq := {
      (q.setX rd (q.pc + BitVec.ofNat 32 len)) with pc := (q.pc + BitVec.ofInt 32 (immJ w)) &&& 0xFFFFFFFE } }) ∧
    (bitsOf w 6 0 = 0x63 → bitsOf w 14 12 = 0 → s.seqExec t w len raw =
      if a = b then s.setTile t { s.tile t with seq := { q with pc := q.pc + BitVec.ofInt 32 (immB w) } } else s.seqNext t len 0 0) ∧
    (w = 0x00000073 → s.seqExec t w len raw = s.setTile t { s.tile t with seq := { q with
      mepc := q.pc, mcause := 11, mtval := 0, pc := q.mtvec, mstatus := BitVec.ofNat 32 (0x1800 + b2n (q.mstatus.getLsbD 3) * 128) } }) ∧
    (w = 0x00100073 → s.seqExec t w len raw = s.setTile t { s.tile t with seq := { q with
      mepc := q.pc, mcause := 3, mtval := q.pc, pc := q.mtvec, mstatus := BitVec.ofNat 32 (0x1800 + b2n (q.mstatus.getLsbD 3) * 128) } }) ∧
    (w = 0x30200073 → s.seqExec t w len raw = s.setTile t { s.tile t with seq := { q with
      pc := q.mepc, mstatus := BitVec.ofNat 32 (0x1880 + b2n (q.mstatus.getLsbD 7) * 8) } })

/-- What the tensor engine does with the descriptor at the head of its queue (rests on parts of R110, R112, R114, R115, R117, R119). -/
def Obligations.TensorPassesStartRunAndComplete : Prop :=
  ∀ (t : TileId) (s : State) (x : Slot), s.hasTile t = true → s.headOf t .mxe = some x →
    (x.started = false → s.mayStart t x (depEngOf .mxe x.desc) (depTicketOf .mxe x.desc) = true →
      exec (.mxePassStart t) s = .next ((s.atWork t x).setTile t { (s.tile t).modSlot .mxe x.num (fun y => { y with started := true }) with pass := {} })) ∧
    (∀ ecc, x.started = true → x.finished = false → s.tileLive t = true →
      (∀ ps, (s.tile t).pass.flush = some ps → exec (.mxeAttemptEnd t ecc) s = .next (s.resumeOut t .mxe x ps ecc)) ∧
      ((s.tile t).pass.flush = none → exec (.mxeAttemptEnd t ecc) s = .next (s.mxeAttempt t x ecc))) ∧
    (∀ rc ls, s.readCheck t 1 (passArgs x.desc).reads = rc → rc.waits = false → rc.block = none → rc.off = none →
      (passArgs x.desc).acc = 0 → (passArgs x.desc).rnr = false →
      (passArgs x.desc).lanes (fun a => (s.tile t).byte s.member (tileKey t) (s.stepAt t) a) (s.drawAt t) 0 (s.tile t).pass.r false = ls →
      (s.tile t).pass.final = false →
      ((∃ l ∈ ls.flatten, l.ovf = true) → (s.tile t).pass.r < 3 → ∃ v, s.mxeAttempt t x .clean = s.setTile t v ∧
        v.pass = { (s.tile t).pass with r := (s.tile t).pass.r + 1 } ∧
        v.counters.mxeRetries = satAdd (s.tile t).counters.mxeRetries 1 ∧ v.spad = (s.tile t).spad) ∧
      ((∀ l ∈ ls.flatten, l.ovf = false) → ∃ v ps, s.mxeAttempt t x .clean = (s.setTile t v).writeOut t .mxe x ps ∧
        ps = (passArgs x.desc).flushOf ls ((passArgs x.desc).header (s.spadRead t (passArgs x.desc).dst 64) 0 (s.tile t).pass.r 0 x.ticket.toNat false
          (ls.flatten.any (·.nan)) (ls.flatten.any (·.inf))) ∧
        v.pass = { (s.tile t).pass with flush := some ps } ∧ v.spad = (s.tile t).spad)) ∧
    (x.finished = true → exec (.mxePassComplete t) s = .next (s.setTile t { (s.tile t).completeHead .mxe with
        pass := {}
        counters := { (s.tile t).counters with mxePasses := satAdd (s.tile t).counters.mxePasses 1 } }))

/-- What the vector engine does with the descriptor at the head of its queue (rests on parts of R126, R130, R138, R140, R143, R146). -/
def Obligations.VectorDescriptorsRunAndComplete : Prop :=
  ∀ (t : TileId) (s : State) (x : Slot), s.hasTile t = true → s.headOf t .vxe = some x →
    (∀ op c, (op, c) ∈ [(2, fun e => Instr.vxeElementwise t e), (3, fun e => .vxeReduce t e), (4, fun e => .vxeCombine t e),
        (5, fun e => .vxeFacet t e), (6, fun e => .vxeTopk t e)] →
      (∀ ecc, ctrlBits x.desc 31 28 ≠ op → exec (c ecc) s = .next s) ∧
      (∀ ecc, ctrlBits x.desc 31 28 = op → x.finished = false → x.started = false →
        s.mayStart t x (depEngOf .vxe x.desc) (depTicketOf .vxe x.desc) = true → exec (c ecc) s = .next ((s.atWork t x).vxeRun t x ecc)) ∧
      (∀ ecc ps, ctrlBits x.desc 31 28 = op → x.finished = false → x.started = true → s.tileLive t = true → (s.tile t).vout = some ps →
        exec (c ecc) s = .next (s.resumeOut t .vxe x ps ecc))) ∧
    (∀ g rc, vxeArgs x.desc = g → g.op = 5 → g.ska = 0 → g.badSource s.member (parseHeader (s.spadRead t g.a 64)) = none →
      s.readCheck t 2 (g.reads (parseHeader (s.spadRead t g.a 64))) = rc → rc.waits = false → rc.block = none → rc.off = none →
      ∃ v, s.vxeRun t x .clean = ({ s.setTile t v with draws := s.draws + 1 } : State).writeOut t .vxe x
          (s.vxeOut t g (parseHeader (s.spadRead t g.a 64))).pieces ∧ v.spad = (s.tile t).spad ∧ v.seq = (s.tile t).seq ∧
        v.vout = some (s.vxeOut t g (parseHeader (s.spadRead t g.a 64))).pieces) ∧
    (x.finished = true → exec (.vxeComplete t) s = .next (s.setTile t { (s.tile t).completeHead .vxe with vout := none }))

/-- What the DMA engine does with its descriptors (rests on parts of R172, R173, R174, R176, R178). -/
def Obligations.DmaDescriptorsMoveTheirBytes : Prop :=
  (∀ (t : TileId) (s : State) (ecc : Ecc), s.hasTile t = true →
    exec (.dmaCopy t ecc) s = .next { (s.dmaFront t).foldl (fun s num => s.dmaSlot t 1 num) (s.dmaEcc t 1 ecc) with
      draws := ((s.dmaFront t).foldl (fun s num => s.dmaSlot t 1 num) (s.dmaEcc t 1 ecc)).draws + 1 } ∧
    exec (.dmaConvert t ecc) s = .next { (s.dmaFront t).foldl (fun s num => s.dmaSlot t 2 num) (s.dmaEcc t 2 ecc) with
      draws := ((s.dmaFront t).foldl (fun s num => s.dmaSlot t 2 num) (s.dmaEcc t 2 ecc)).draws + 1 }) ∧
  (∀ (t : TileId) (p : PartId) (s : State) (x : Slot), s.hasTile t = true → s.partOf t = some p → (s.tile t).dma.slots = [x] →
    x.finished = false → x.started = false → s.mayStart t x (depEngOf .dma x.desc) (depTicketOf .dma x.desc) = true →
    ctrlBits x.desc 31 28 = 1 →
    ∃ u, u = State.dmaPieces t p x.num ((dmaArgs x.desc).total + 1) ((s.atWork t x).modSlot t .dma x.num fun y => { y with started := true }) ∧
      exec (.dmaCopy t .clean) s = .next { u with draws := u.draws + 1 }) ∧
  (∀ (t : TileId) (p : PartId) (s : State) (x : Slot) (num : Fin 8) (g : DmaArgs) (k : Nat) (rc : ReadCheck) (w : Wrote),
    s.slotOf t .dma num = some x → dmaArgs x.desc = g → g.op = 1 → g.ssp = 0 → g.dsp = 0 → x.pos < g.total → (s.tile t).tagFree .dma x = true →
    rangesMeet g.src g.len g.dst g.len = false → g.piece x.pos = k → s.readCheck t 3 [(g.src + x.pos, k)] = rc → rc.waits = false →
    rc.block = none → rc.off = none →
    ((s.tile t).modSlot .dma x.num fun y => { y with reads := (y.reads ++ rc.slots).eraseDups }).clearing s.member (s.stepAt t) (g.dst + x.pos) k = false →
    ((s.tile t).modSlot .dma x.num fun y => { y with reads := (y.reads ++ rc.slots).eraseDups }).writeRun s.member (s.stepAt t) 3 (g.dst + x.pos)
      ((List.range k).map fun i => (s.tile t).byte s.member (tileKey t) (s.stepAt t) (g.src + x.pos + i)) = w → w.block = none → w.refused = none →
    s.dmaPiece t p num = (s.setTile t (w.tile.modSlot .dma num fun y => { y with pos := y.pos + k, stall := none }), true)) ∧
  (∀ (t : TileId) (p : PartId) (s : State) (x : Slot), s.hasTile t = true → s.partOf t = some p →
    (s.dmaNext t 3 = some x → ∀ ecc, exec (.dmaWopen t ecc) s = .next ((if x.started then s else s.atWork t x).wopenSlot t p x ecc)) ∧
    (s.dmaNext t 4 = some x → exec (.dmaWclose t) s = .next ((s.atWork t x).setTile t
      (((s.tile t).modWindow (dmaArgs x.desc).win fun w => { w with isOpen := false }).modSlot .dma x.num fun y => { y with started := true, finished := true }))) ∧
    (s.headOf t .dma = some x → (s.tile t).dmaDone x = true → exec (.dmaComplete t) s = .next (s.dmaFinish t x)))

/-- What the message unit does with its next descriptor and with a SEND that has credit (rests on parts of R239, R243, R244, R247, R248, R252). -/
def Obligations.MessageUnitActsOnItsDescriptors : Prop :=
  ∀ (t : TileId) (p : PartId) (s : State) (x : Slot), s.hasTile t = true → s.partOf t = some p →
    (∀ c, x.f 4 4 = c → s.msgNext t 1 = some x → (s.chan c).state = chFree →
      exec (.msgListen t) s = .next (((s.atWork t x).setChan t c fun e => { e with
        role := 2, state := chListen, flags := 0, ringLog2 := BitVec.ofNat 8 (x.f 20 1), owner := BitVec.ofNat 16 ((s.nOf t).getD 0),
        peer := BitVec.ofNat 32 (x.f 24 4), peerChan := 0, ringBase := BitVec.ofNat 64 (x.f 8 8),
        statusAddr := BitVec.ofNat 32 (x.f 16 4) }).msgFinish t x stOk)) ∧
    (∀ c, x.f 4 4 = c → s.msgNext t 2 = some x → (s.chan c).state = chFree →
      exec (.msgOpen t) s = .next ((((s.atWork t x).setChan t c fun e => { e with
        role := 1, state := chOpening, flags := 0, owner := BitVec.ofNat 16 ((s.nOf t).getD 0), peer := BitVec.ofNat 32 (x.f 24 4),
        peerChan := BitVec.ofNat 32 (x.f 28 4), statusAddr := BitVec.ofNat 32 (x.f 16 4) }).msgStarted t x).msgAsk t p x 4
          (BitVec.ofNat 32 (x.f 24 4), 0) (x.f 28 4 % 2 ^ 20) (ctlPayload 1 0 0 c 0))) ∧
    (∀ c, x.f 4 4 = c → s.msgNext t 3 = some x → (s.chan c).state = chClosed → (s.chan c).role = 1 → s.ownsEnd t c = true →
      exec (.msgSend t) s = .next (((s.atWork t x).setChan t c fun e => { e with last := BitVec.ofNat 16 stChannelClosed, closedBit := true }).msgFinish t x
        stChannelClosed)) ∧
    (∀ c, x.f 4 4 = c → s.msgNext t 3 = some x → (s.chan c).role ≠ 1 ∨ s.ownsEnd t c = false →
      exec (.msgSend t) s = .next ((s.atWork t x).msgFinish t x stChannelClosed)) ∧
    (∀ c, x.f 4 4 = c → s.msgNext t 3 = some x → (s.chan c).role = 1 → s.ownsEnd t c = true → (s.chan c).state = chOpen →
      ((s.tile t).sending.filter fun y => y.f 4 4 = c).length < 8 → (s.tile t).sending.length < 16 →
      exec (.msgSend t) s = .next ((s.atWork t x).modSlot t .msg x.num fun y =>
        { y with started := true, deadline := (s.atWork t x).jobTime p + (s.part p).replyUs * 1000 })) ∧
    (∀ (c : BitVec 20) (e : Chan) (n : Nat) (ecc : Ecc) (a : U32 × U32) (rc : ReadCheck), ((s.tile t).sending.find? fun y => y.allot.isNone && y.f 4 4 = c.toNat) = some x →
      s.chan (x.f 4 4) = e → e.need e.bytes (x.f 21 1) = n → s.readCheck t 4 [(x.f 8 8, 8 * x.f 21 1)] = rc →
      (x.deadline < s.jobTime p → exec (.msgSendAllot t c ecc) s = .next (s.sendOverdue t p x)) ∧
      (s.jobTime p ≤ x.deadline → s.tileLive t = true → rc.waits = false → rc.block = none → (s.tile t).tagFree .msg x = true →
        ((s.tile t).ward.twin = true ∧ kget x.ticket.toNat (s.tile t).allots = some a ∨
          (s.tile t).ward.twin = false ∧ e.role = 1 ∧ s.ownsEnd t (x.f 4 4) = true ∧ e.state = chOpen ∧ (n : Int) ≤ e.credit ∧ a = (e.bytes, e.msgs)) →
        exec (.msgSendAllot t c ecc) s = .next ((((((s.upset t ecc).eccRead t 4 x.num.val x.pc.toNat ecc).bankFault t .msg x rc.off).takeAllot t x n a).modSlot t .msg x.num
            fun y => { y with reads := rc.slots }).msgAsk t p x 3 (s.chanDst e) (e.epoch.toNat * 2 ^ 48 + e.peerChan.toNat % 2 ^ 20)
          (recordHeader a.2 (x.f 21 1) 1 ++ leBytes 4 a.1.toNat ++ leBytes 4 0 ++ (s.upset t ecc).spadRead t (x.f 8 8) (8 * x.f 21 1)))) ∧
      (∀ u : State, (u.tile t).ward.twin = false → (u.tile (twinOf t)).ward.twin = false → u.takeAllot t x n a = (u.modChan (x.f 4 4) fun e => { e with
          bytes := e.bytes + BitVec.ofNat 32 n, msgs := e.msgs + 1 }).modSlot t .msg x.num fun y => { y with allot := some a, stall := none })) ∧
    (∀ (u : State) (c : Nat) (f : Chan → Chan), ((u.tile t).ward.twin = false → u.setChan t c f = u.modChan c f) ∧
      ((u.tile t).ward.twin = true → u.setChan t c f = u)) ∧
    (∀ c, x.f 4 4 = c → s.msgNext t 4 = some x → (s.chan c).role = 2 → s.ownsEnd t c = true → (s.chan c).state = chOpen → (s.chan c).job = false →
      exec (.msgRelease t) s = .next (((s.atWork t x).setChan t c fun e => { e with pend := e.clampRelease (BitVec.ofNat 32 (x.f 8 8)) }).msgFinish t x stOk)) ∧
    (∀ c, x.f 4 4 = c → s.msgNext t 5 = some x → (s.chan c).role = 2 → s.ownsEnd t c = true → (s.chan c).state = chOpen →
      exec (.msgClose t) s = .next (((s.atWork t x).setChan t c fun e => { e.zeroed with epoch := e.epoch + 1, state := chFree }).msgFinish t x stOk)) ∧
    (s.headOf t .msg = some x → (s.tile t).msgDone x = true → exec (.msgUnitComplete t) s = .next (s.msgComplete t x))

/-- Ring stalls at their deadlines, and held writes that find their slot (rests on parts of R160, R161). -/
def Obligations.RingStallsAndHeldWritesEnd : Prop :=
  (∀ (t : TileId) (p : PartId) (i : Nat) (s : State), s.hasTile t = true → s.partOf t = some p →
    (∀ e x st, (s.tile t).stalled[i]? = some (.desc e x st) → exec (.ringStallTimeout t i) s =
      .next ((s.reachJob p ((s.part p).t ((s.tile t).stallBeat (s.part p).beat (.desc e x st)) + 1)).abandon t e x st)) ∧
    (∀ h, (s.tile t).stalled[i]? = some (.write h) → exec (.ringStallTimeout t i) s =
      .next ((s.reachJob p ((s.part p).t (h.began + ((s.tile t).rings[h.ring]).tmo.toNat) + 1)).dropHeld t h))) ∧
  (∀ (t : TileId) (i : Nat) (ecc : Ecc) (s u : State) (h : HeldWrite) (w : Wrote), s.hasTile t = true → (s.tile t).ingress[i]? = some h →
    (s.upset t ecc).eccRead t 6 0 0 ecc = u → (u.tile t).writeRun u.member (u.stepAt t) 3 h.addr.toNat h.pkt.payload = w →
    (s.heldLate t h = true → exec (.ringHeldWriteAccept t i ecc) s = .next (s.dropHeld t h)) ∧
    (s.heldLate t h = false →
    (w.block = none → w.refused = none → exec (.ringHeldWriteAccept t i ecc) s =
      .next ((u.setTile t { w.tile with ingress := (u.tile t).ingress.erase h }).reply t h.pkt stOk [] false)) ∧
    (∀ b, w.block = some b → w.count = 0 → exec (.ringHeldWriteAccept t i ecc) s = .next s)))

/-- A bank drains, times out draining, and clears itself (rests on parts of R180, R182). -/
def Obligations.BankPowerEvents : Prop :=
  ∀ (t : TileId) (b : BankId) (s : State), s.hasTile t = true →
    (∀ since, (s.tile t).banks[b] = .draining since → ∀ ecc, exec (.bankDrainDone t ⟨b, ecc⟩) s = .next (s.bankDrained t b ecc) ∧
      ((s.tile t).writesOf s.member b = [] →
        s.bankDrained t b ecc = s.setTile t { s.tile t with banks := (s.tile t).banks.set b .off })) ∧
    (∀ since p, (s.tile t).banks[b] = .draining since → s.partOf t = some p →
      exec (.bankDrainTimeout t b) s = .next ((s.reachJob p (since + 2001)).bankDropped t b) ∧
      ∀ u, (s.reachJob p (since + 2001)) = u → (u.tile t).writesOf u.member b = [] →
        u.bankDropped t b = u.setTile t { u.tile t with banks := (u.tile t).banks.set b .off }) ∧
    ((s.tile t).banks[b] = .clearing → exec (.bankClearDone t b) s = .next (s.setTile t { s.tile t with
      banks := (s.tile t).banks.set b .on
      spad := ((s.tile t).clearWrites.filter fun w => s.member.bankOf w.1.toNat = b.val).foldl (fun st w => st.put w.1.toNat w.2)
        ((s.member.bankWords b.val).foldl (fun st a => st.put a (List.replicate 64 0)) (s.tile t).spad)
      clearWrites := (s.tile t).clearWrites.filter fun w => !decide (s.member.bankOf w.1.toNat = b.val) })) ∧
    ((s.tile t).banks[b] = .on ∨ (s.tile t).banks[b] = .off →
      (∀ ecc, exec (.bankDrainDone t ⟨b, ecc⟩) s = .next s) ∧ exec (.bankDrainTimeout t b) s = .next s ∧ exec (.bankClearDone t b) s = .next s)

/-- One slot of a stream router and its port, and one token of a steering unit (rests on parts of R183, R187, R192, R193). -/
def Obligations.StreamSlotsAndTokens : Prop :=
  (∀ (t : TileId) (p : PartId) (ecc : Ecc) (bad : Option (Fin 5)) (s : State), s.hasTile t = true → s.partOf t = some p → (s.tile t).ward.rfence = false →
    ((s.part p).judged = true → exec (.streamSlot t ecc bad) s = .next s) ∧ ((s.part p).judged = false →
    let u := s.reachJob p ((s.part p).t (s.part p).beat + 64)
    let w := ((u.portSlot t ecc).modTile t Tile.passSeams).routeSlot t bad
    exec (.streamSlot t ecc bad) s = .next (w.setTile t { w.tile t with router := { (w.tile t).router with slot := (w.tile t).router.slot + 1 } }) ∧
    (u.streamLive t = false → u.portSlot t ecc = u))) ∧
  (∀ (t : TileId) (su : Fin 8) (p : PartId) (s : State), s.hasTile t = true → s.partOf t = some p → (s.tile t).ward.rfence = false →
    ((s.tile t).steer[su]).kind ≠ 0 →
    ((s.part p).judged = true → exec (.steerToken t su) s = .next s) ∧ ((s.part p).judged = false → ∀ u : State,
    s.reachJob p ((s.part p).t (s.part p).beat + 64) = u →
    exec (.steerToken t su) s = .next (u.setTile t (Tile.steerRun su.val 65535 ((s.tile t).takeToken su.val))) ∧
    (∀ f rest, ((s.tile t).steer[su]).held = none → (s.tile t).steerQueue ((s.tile t).steer[su]).tok = f :: rest → bitsOf (f.toNat % 2 ^ 32) 23 8 = 0 →
      exec (.steerToken t su) s = .next (u.setTile t (((s.tile t).steerPop ((s.tile t).steer[su]).tok).modSteer su.val fun x => { x with held := none })))))

/-- Requests leave a tile, are held behind the fence, are released, and time out (rests on parts of R223, R225, R227). -/
def Obligations.RequestsAreInjectedHeldAndReleased : Prop :=
  (∀ (t : TileId) (p : PartId) (s : State) (w : Waiting), s.hasTile t = true → s.partOf t = some p →
    ((s.tile t).inject.find? fun w => s.mayInject t p w) = some w →
    let u := s.setTile t { s.tile t with inject := (s.tile t).inject.erase w }
    (w.pkt.fence = true → (u.tile t).fenced w = true →
      exec (.packetInject (.tile t)) s = .next (u.setTile t { u.tile t with held := (s.tile t).held ++ [w] })) ∧
    (w.pkt.fence = false → exec (.packetInject (.tile t)) s = .next (u.injectNow t p w)) ∧
    (∀ d, s.reachable p w.pkt = true → s.dphysOf p t w.pkt = some d → (s.part p).paired = false → (s.tile t).ward.twin = false → w.pkt.vc ≠ 1 →
      s.injectNow t p w = { s.setTile t { s.tile t with outstanding := (s.tile t).outstanding ++ [{
          pkt := { w.pkt with dphys := d }, deadline := s.jobTime p + (s.part p).replyUs * 1000, injected := w.stamp, order := w.order, ticket := w.ticket }] } with
        net := s.net ++ [{ pkt := { w.pkt with dphys := d }, loc := .router t 4, ready := some s.now }] })) ∧
  (∀ (t : TileId) (p : PartId) (i : Nat) (s : State) (w : Waiting), s.hasTile t = true → s.partOf t = some p → (s.tile t).held[i]? = some w →
    (s.tile t).fenced w = false → s.mayInject t p w = true →
    exec (.fencedRequestRelease t i) s = .next ((s.setTile t { s.tile t with held := (s.tile t).held.erase w }).injectNow t p w)) ∧
  (∀ (t : TileId) (p : PartId) (tag : U16) (s : State) (o : Outstanding), s.hasTile t = true → s.partOf t = some p →
    ((s.tile t).outstanding.find? fun o => o.pkt.tag = tag) = some o →
    exec (.replyTimeout t tag) s = .next ((s.reachJob p (o.deadline + 1)).noReply t p o)) ∧
  (∀ (src : InjectAt) (s : State) (x : InjectAt × Packet) (d : BitVec 16) (row : BitVec 5), (∀ t, src ≠ .tile t) →
    (s.ioQueue.find? fun x => x.1 = src) = some x → s.ioTarget (srcEast src) x.2 = some (d, row) →
    let u : State := { s.unitOverdue with ioQueue := s.ioQueue.erase x }
    let q : NetPkt := { pkt := { x.2 with dphys := d }, loc := .ioDie (srcEast src) row }
    (src ≠ .pintle ∨ x.2.mcast = true → exec (.packetInject src) s = .next { u with net := u.net ++ [q] }) ∧
    (src = .pintle → x.2.mcast = false → exec (.packetInject src) s = .next { u with
      mgmtOut := u.mgmtOut ++ [(x.2.tag, u.now + 2000000)], net := u.net ++ [q] })) ∧
  (∀ s : State, (∀ x ∈ s.mgmtOut, s.now ≤ x.2) → s.unitOverdue = s)

/-- A packet of the networks moves one hop, is delivered, or is refused; a multicast copy loses its wait (rests on parts of R217, R218, R222,
R224, R229). -/
def Obligations.PacketsMoveOneHop : Prop :=
  (∀ (i : Nat) (word : SeamWord) (s u : State) (k : NetPkt) (t : TileId) (inp : Fin 5) (room : Nat × TileId → Nat), s.noteReady = u → u.net[i]? = some k →
    k.loc = .router t inp → (u.tile t).ward.rfence = false →
    (room = fun o => if u.seamPaused (u.member.hdOf t) (u.member.hdOf o.2) then 0 else u.hopCredit o.2 (facing o.1) (u.seamHop t o.2) k.pkt) →
    (knownType k.pkt.type.toNat = false → exec (.packetRoute i word) s =
      .next ((u.lift k).setTile t { u.tile t with reservedTypes := (u.tile t).reservedTypes + 1 }).noteReady) ∧
    (knownType k.pkt.type.toNat = true → k.pkt.mcast = false →
      (u.goal k.pkt ≠ (t.px.toNat, t.py.toNat) →
        ∀ best, best = bestOutput room ((u.outputs t inp.val k.pkt).filter fun o => !u.routerFenced o.2) →
        (best = none → exec (.packetRoute i word) s = .next ((u.lift k).routerRefuse t k.pkt).noteReady) ∧
        (∀ o v, best = some o → pktFlits k.pkt ≤ room o →
          u.chosen t (pktIsReply k.pkt) o.1 = some (inp.val, k) → u.served t [o.1] inp.val k.pkt = v →
          (word ≠ .uncorrectable → exec (.packetRoute i word) s = .next (State.noteReady { v.lift k with
            net := (v.lift k).net ++ [{ k with loc := .router o.2 ⟨facing o.1 % 5, Nat.mod_lt _ (by decide)⟩, ready := none }] })) ∧
          (word = .uncorrectable → exec (.packetRoute i word) s = .next ((v.lift k).cross t { k with ready := none } o.1 o.2 .uncorrectable).noteReady)) ∧
        (∀ o, best = some o → room o < pktFlits k.pkt ∨
            u.chosen t (pktIsReply k.pkt) o.1 ≠ some (inp.val, k) → exec (.packetRoute i word) s = .next u.noteReady)) ∧
      (u.goal k.pkt = (t.px.toNat, t.py.toNat) → bitAt k.pkt.dphys.toNat 15 = false →
        (pktIsReply k.pkt = true ∨ u.localHeld t k.pkt.vc = false → u.chosen t (pktIsReply k.pkt) 4 = some (inp.val, k) →
          exec (.packetRoute i word) s = .next (((u.served t [4] inp.val k.pkt).lift k).deliver t k.pkt).noteReady) ∧
        (pktIsReply k.pkt = false ∧ u.localHeld t k.pkt.vc = true ∨ u.chosen t (pktIsReply k.pkt) 4 ≠ some (inp.val, k) →
          exec (.packetRoute i word) s = .next u.noteReady)))) ∧
  (∀ (s : State) (t : TileId) (rep : Bool) (o : Nat) (x : Nat × NetPkt), x ∈ s.readyFor t rep o → x.2.pkt.vc = 3 →
    (∀ y ∈ s.readyFor t rep o, y.2.pkt.vc ≠ 0) → ∃ y, s.chosen t rep o = some y ∧ y ∈ s.readyFor t rep o ∧ y.2.pkt.vc = 3) ∧
  (∀ (i : Nat) (s : State) (k : NetPkt) (t : TileId) (inp : Fin 5), s.net[i]? = some k → k.loc = .router t inp → k.pkt.mcast = true →
    (∃ o ∈ s.mcastOutputs t inp.val k, s.mcastReady t k o = false) →
    ∃ u, u = (((s.mcastOutputs t inp.val k).filter fun o => s.mcastReady t k o).foldl (fun s o => s.mcastTo t k o) (s.lift k)) ∧
      exec (.mcastCreditTimeout i) s = .next (u.setTile t { u.tile t with
        mcastDrops := (u.tile t).mcastDrops + BitVec.ofNat 32 ((s.mcastOutputs t inp.val k).filter fun o => !s.mcastReady t k o).length })) ∧
  (∀ (t : TileId) (q : Packet) (s : State), 2 ≤ q.vc.toNat → (s.tile (twinOf t)).ward.twin = false → twinOf t ≠ t →
    s.deliver t q = s.setTile t { s.tile t with arrivals := (s.tile t).arrivals ++ [q] })

/-- What a WRITE or READ request at a tile does (rests on parts of R177, R223). -/
def Obligations.WindowsAndStacksAnswerRequests : Prop :=
  ∀ (t : TileId) (q : Packet) (s u : State) (v : Tile), s.hasTile t = true → q ∈ (s.tile t).arrivals → s.genStale (.tile t) q = false →
    v = { s.tile t with arrivals := (s.tile t).arrivals.erase q } → u = s.setTile t v →
    (∀ p ecc, q.type = 1 → isDramReq q = true → pktPart q = some p →
      (s.rangeOn p q.addr.toNat q.payload.length = true → exec (.writeRequest t q ecc) s =
        .next ((u.partWrite p q.addr.toNat q.payload).reply t q stOk [] false)) ∧
      (s.rangeOn p q.addr.toNat q.payload.length = false → exec (.writeRequest t q ecc) s = .next (u.reply t q stRegionOff [] false))) ∧
    (∀ p, q.type = 2 → isDramReq q = true → pktPart q = some p →
      (s.rangeOn p q.addr.toNat q.len.toNat = true → s.retiredEcc p q.addr.toNat q.len.toNat .clean = .clean →
        exec (.readRequest t q .clean) s = .next (u.reply t q stOk (s.partRead p q.addr.toNat q.len.toNat) false)) ∧
      (s.rangeOn p q.addr.toNat q.len.toNat = false → exec (.readRequest t q .clean) s = .next (u.reply t q stRegionOff [] false))) ∧
    (∀ w : Window, (s.tile t).window (bitsOf q.addr.toNat 63 60) = w → isDramReq q = false →
      (∀ ecc, q.type = 1 →
        (w.isOpen = false ∨ w.shut = true ∨ bitAt w.flags.toNat 0 = false ∨ 64 * w.size64.toNat < q.addr.toNat % 2 ^ 60 + q.payload.length) →
        exec (.writeRequest t q ecc) s = .next (u.windowRefuse t q stWindow)) ∧
      (∀ ecc, q.type = 2 →
        (w.isOpen = false ∨ w.shut = true ∨ bitAt w.flags.toNat 1 = false ∨ 64 * w.size64.toNat < q.addr.toNat % 2 ^ 60 + q.len.toNat) →
        exec (.readRequest t q ecc) s = .next (u.windowRefuse t q stWindow)) ∧
      (∀ a, q.type = 1 → w.kind = 0 → w.check q true q.payload.length = (none, a) → s.writeWaits t q = false →
        (∀ x ∈ wordStarts a q.payload.length, (s.tile t).bankAt s.member (physAddr (s.tile t).carries (s.stepAt t) x) = .on) →
        let r := v.writeRun s.member (s.stepAt t) 3 a q.payload
        (r.block = none → exec (.writeRequest t q .clean) s = .next ((u.setTile t r.tile).reply t q stOk [] false)) ∧
        (∀ i b, r.block = some (i, b) → exec (.writeRequest t q .clean) s = .next (u.setTile t { r.tile with
          ingress := r.tile.ingress ++ [{
            pkt := { q with payload := q.payload.drop r.count }, ring := i, addr := BitVec.ofNat 22 (a + r.count), began := s.beatAt t }] }))) ∧
      (∀ a, q.type = 2 → w.kind = 0 → w.check q false q.len.toNat = (none, a) → s.readWaits t q = false →
        (∀ x ∈ wordStarts a q.len.toNat, (s.tile t).bankAt s.member (physAddr (s.tile t).carries (s.stepAt t) x) = .on) →
        exec (.readRequest t q .clean) s = .next (u.reply t q stOk (s.spadRead t a q.len.toNat) false)) ∧
      (∀ p a, q.type = 1 → w.kind = 1 → w.check q true q.payload.length = (none, a) → s.partOf t = some p →
        s.rangeOn p a q.payload.length = true → (s.part p).commitBlocked a q.payload.length = false →
        exec (.writeRequest t q .clean) s = .next ((if (s.tile t).ward.twin then u else u.partWrite p a q.payload).reply t q stOk [] false)) ∧
      (∀ p a, q.type = 2 → w.kind = 1 → w.check q false q.len.toNat = (none, a) → s.partOf t = some p → s.rangeOn p a q.len.toNat = true →
        s.retiredEcc p a q.len.toNat .clean = .clean →
        exec (.readRequest t q .clean) s = .next (u.reply t q stOk (s.partRead p a q.len.toNat) false)))

/-- What MSG, OPEN, OPEN_ACK, CREDIT and CLOSE do at a channel end (rests on parts of R235, R239, R245, R247, R248). -/
def Obligations.MessagesAndControlPacketsReachAnEnd : Prop :=
  ∀ (t : TileId) (p : PartId) (q : Packet) (s u : State) (c : Nat) (e : Chan), s.hasTile t = true → s.partOf t = some p → q ∈ (s.tile t).arrivals →
    s.genStale (.tile t) q = false →
    u = s.setTile t { s.tile t with arrivals := (s.tile t).arrivals.erase q } → c = q.addr.toNat % 2 ^ 20 → s.chan c = e →
    (s.ownsEnd t c = true →
      (q.type = 3 → (e.role ≠ 2 ∨ e.state ≠ chOpen ∨ e.epoch.toNat ≠ q.addr.toNat / 2 ^ 48) → exec (.msgArrival (.tile t) q) s =
        .next ((u.modChan c fun e => { e with refused := e.refused + 1 }).reply t q stChannelClosed [] false)) ∧
      (∀ pos v, q.type = 3 → e.role = 2 → e.state = chOpen → e.epoch.toNat = q.addr.toNat / 2 ^ 48 → q.src = e.peer → e.flags = 1 →
        BitVec.ofNat 32 (fieldAt q.payload 4 4) = e.msgs → BitVec.ofNat 32 (fieldAt q.payload 8 4) = pos → e.sizes = [] →
        (e.need pos (bitsOf (fieldAt q.payload 0 4) 7 4) : Int) ≤ (e.released + BitVec.ofNat 32 e.ring - pos).toInt →
        u.placeRecord (.tile t) (some p) e pos q = (v, stOk) →
        exec (.msgArrival (.tile t) q) s = .next ((v.modChan c fun e' => e'.mark e.msgs (e.need pos (bitsOf (fieldAt q.payload 0 4) 7 4))).reply t q
          stOk [] false)) ∧
      (isCtl q 1 = true → e.role = 2 → e.state = chListen → (e.peer = q.src ∨ e.peer = 0xFFFFFFFF) → ((s.tile t).writeBlock 4 e.statusAddr.toNat 8 = none →
        exec (.msgctlOpen (.tile t) q) s =
        let w := ((u.modChan c fun e => { e.zeroed with
          state := chOpen, peer := q.src, peerChan := BitVec.ofNat 32 (fieldAt q.payload 4 4 % 2 ^ 20), closedBit := false }).showRecv (.tile t) c).reply t q
            stOk [] false
        .next (w.forTiles (w.withTwin t) fun s u => s.unitRequest u p 4 q.src 0 (fieldAt q.payload 4 4 % 2 ^ 20) (ctlPayload 2 0 e.epoch c e.ringLog2.toNat))) ∧
        ((s.tile t).writeBlock 4 e.statusAddr.toNat 8 ≠ none → exec (.msgctlOpen (.tile t) q) s = .next s)) ∧
      (isCtl q 1 = true → e.state ≠ chListen → exec (.msgctlOpen (.tile t) q) s = .next (u.reply t q stChannelClosed [] false)) ∧
      (isCtl q 2 = true → e.role = 1 → e.state = chOpening → e.peer = q.src → ∀ w : State,
        w = (u.modChan c fun e => { e.zeroed with
          state := chOpen, epoch := BitVec.ofNat 16 (fieldAt q.payload 2 2), ringLog2 := BitVec.ofNat 8 (fieldAt q.payload 8 1),
          closedBit := false, last := 0, doneCount := 0 }).reply t q stOk [] false →
        exec (.msgctlOpenAck (.tile t) q) s = .next (w.forTiles (w.withTwin t) fun s u =>
          match (s.tile u).msg.slots.find? fun x => ctrlBits x.desc 31 28 = 2 && x.started && !x.finished && x.f 4 4 = c with
          | some x => s.msgFinish u x stOk
          | none => s)) ∧
      (isCtl q 3 = true → e.role = 1 → e.state = chOpen → (e.job = true → s.slotDiffers (some p) q = false) → e.epoch.toNat = fieldAt q.payload 2 2 →
        0 ≤ (e.bytes - BitVec.ofNat 32 (fieldAt q.payload 8 4)).toInt → exec (.msgctlCredit (.tile t) q) s =
        .next ((u.modChan c fun e => { e with released := BitVec.ofNat 32 (fieldAt q.payload 8 4) }).reply t q stOk [] false)) ∧
      (isCtl q 4 = true → e.role = 2 → e.state = chOpen → e.peer = q.src → ((s.tile t).writeBlock 4 e.statusAddr.toNat 8 = none → exec (.msgctlClose (.tile t) q) s =
        .next (((u.modChan c fun e => { e with state := chClosed, closedBit := true }).showRecv (.tile t) c).reply t q stOk [] false)) ∧
        ((s.tile t).writeBlock 4 e.statusAddr.toNat 8 ≠ none → exec (.msgctlClose (.tile t) q) s = .next s))) ∧
    (s.ownsEnd t c = false →
      (q.type = 3 → exec (.msgArrival (.tile t) q) s = .next (u.reply t q stChannelClosed [] false)) ∧
      (isCtl q 1 = true → exec (.msgctlOpen (.tile t) q) s = .next (u.reply t q stChannelClosed [] false)) ∧
      (isCtl q 2 = true → exec (.msgctlOpenAck (.tile t) q) s = .next (u.reply t q stChannelClosed [] false)) ∧
      (isCtl q 4 = true → exec (.msgctlClose (.tile t) q) s = .next (u.reply t q stChannelClosed [] false))) ∧
    (∀ (w : State) (f : State → TileId → State), ((w.tile (twinOf t)).ward.twin = false → w.forTiles (w.withTwin t) f = f w t) ∧
      ((w.tile (twinOf t)).ward.twin = true → w.forTiles (w.withTwin t) f = f (f w t) (twinOf t)))

/-- What MGMT_WR, MGMT_RD, IMAGE, NOTICE and RESEND do (rests on parts of R94, R213, R324, R325, R361, R390, R391). -/
def Obligations.ManagementRequestsAndNotices : Prop :=
  (∀ (t : TileId) (q : Packet) (s u : State), s.hasTile t = true → q ∈ (s.tile t).arrivals → s.genStale (.tile t) q = false →
    u = s.setTile t { s.tile t with arrivals := (s.tile t).arrivals.erase q } →
    (q.type = 5 → q.dst.toNat % 8 = 0 → q.addr.toNat < 0x20000 → exec (.mgmtWr t q) s =
      .next ((u.setTile t { u.tile t with imem := (s.tile t).imem.put q.addr.toNat q.payload }).reply t q stOk [] false)) ∧
    (q.type = 5 → q.dst.toNat % 8 = 6 → q.addr.toNat = 0 → bitAt (fieldAt q.payload 0 4) 30 = false → bitAt (fieldAt q.payload 0 4) 31 = false →
      exec (.mgmtWr t q) s = .next ((u.setTile t { u.tile t with ward := { (s.tile t).ward with
        rfence := false, tfence := false, diag := bitAt (fieldAt q.payload 0 4) 29, test := bitAt (fieldAt q.payload 0 4) 28
        twin := bitAt (fieldAt q.payload 0 4) 26 } }).reply t q stOk [] false)) ∧
    (q.type = 6 → q.dst.toNat % 8 = 0 → exec (.mgmtRd t q) s =
      .next (u.reply t q stOk ((List.range q.len.toNat).map fun i => (s.tile t).imem.get (tileKey t) (q.addr.toNat + i)) false)) ∧
    (∀ k, q.type = 7 → k = q.addr.toNat % 2 ^ 32 → (s.tile t).load.loading = true → (s.tile t).ward.tfence = false →
      q.addr.toNat / 2 ^ 48 = (s.tile t).load.image.toNat → k < (s.tile t).load.frags.toNat → k ∉ (s.tile t).load.got →
      ∃ w, w = u.setTile t { u.tile t with
        imem := (s.tile t).imem.put (256 * k) q.payload, load := { (s.tile t).load with got := (s.tile t).load.got ++ [k] } } ∧
      (q.mcast = true → exec (.image t q) s = .next w) ∧ (q.mcast = false → exec (.image t q) s = .next (w.reply t q stOk [] false)))) ∧
  (∀ (t : TileId) (s : State) (k : NetPkt), s.hasTile t = true → s.net = [k] → k.pkt.type = 8 → k.pkt.dstu = 1 → fieldAt k.pkt.payload 6 2 = t.px.toNat * 256 + t.py.toNat →
    (∀ row, k.loc = .ioDie false row → s.inbox.length < 4096 → ∃ a : Packet, a.type = 0x81 ∧ a.vc = k.pkt.vc ∧ a.tag = k.pkt.tag ∧ a.dphys = tilePlace t ∧
      exec (.notice t) s = .next { ({ s with net := [] } : State).toInbox (parseRecord k.pkt.payload) with net := [{ pkt := a, loc := .ioDie false t.py }] }) ∧
    (∀ row, k.loc = .ioDie false row → 4096 ≤ s.inbox.length → exec (.notice t) s = .next s) ∧
    (∀ r n, k.loc = .router r n → exec (.notice t) s = .next s)) ∧
  (∀ (t : TileId) (s : State), s.hasTile t = true →
    (∀ (k : NetPkt) (row : BitVec 5), s.net = [k] → k.pkt.type = 0x84 → k.pkt.tag.toNat = tileKey t → k.loc = .ioDie false row →
      exec (.resend t) s = .next (s.resendTaken t k)) ∧
    (s.net = [] → exec (.resend t) s = .next s))

/-- What CMPL and CMPL_D do at a tile (rests on parts of R214, R227, R363). -/
def Obligations.RepliesEndTheirRequests : Prop :=
  ∀ (t : TileId) (q : Packet) (s u : State), s.hasTile t = true → q ∈ (s.tile t).arrivals → s.genStale (.tile t) q = false →
    u = s.setTile t { s.tile t with arrivals := (s.tile t).arrivals.erase q } →
    (∀ o p, q.type = 0x81 → q.vc ≠ 3 → ((s.tile t).outstanding.find? fun o => o.pkt.tag = q.tag) = some o → s.partOf t = some p → o.deadline < s.jobTime p →
      exec (.cmpl t q) s = .next ((u.noReply t p o).stray t)) ∧
    (∀ w, q.type = 0x81 → q.vc = 3 → w = (s.tile t).ward → w.urgent = true → q.tag = w.tag → q.dphys = tilePlace t →
      exec (.cmpl t q) s = .next ((u.setTile t { u.tile t with ward := { w with queue := w.queue.tail, urgent := false } }).sendNotice t)) ∧
    (∀ o, q.type = 0x81 → q.vc ≠ 3 → ((s.tile t).outstanding.find? fun o => o.pkt.tag = q.tag) = some o → (∀ p, s.partOf t = some p → s.jobTime p ≤ o.deadline) →
      exec (.cmpl t q) s = .next ((u.setTile t { u.tile t with
        outstanding := (s.tile t).outstanding.erase o
        progress := if o.pkt.tag.toNat / 2 ^ 13 = 3 then (s.tile t).progress.bump .dma else (s.tile t).progress }).requestDone t o.pkt o.order o.ticket
          (q.addr.toNat % 2 ^ 16))) ∧
    (q.type = 0x81 → q.vc ≠ 3 → (∀ o ∈ (s.tile t).outstanding, o.pkt.tag ≠ q.tag) →
      exec (.cmpl t q) s = .next (u.setTile t { u.tile t with strayReplies := (s.tile t).strayReplies + 1 })) ∧
    (∀ o p ecc, q.type = 0x82 → ((s.tile t).outstanding.find? fun o => o.pkt.tag = q.tag) = some o → s.partOf t = some p → s.jobTime p ≤ o.deadline →
      (q.addr.toNat % 2 ^ 16 ≠ stOk → exec (.cmplD t q ecc) s = .next (u.replyDone t o (q.addr.toNat % 2 ^ 16))) ∧
      (∀ v, q.addr.toNat % 2 ^ 16 = stOk → ((u.upset t ecc).eccRead t 3 (bitsOf q.tag.toNat 12 8) ((s.tile t).pcOf .dma o.ticket) ecc).dataArrives t p q o = some v →
        exec (.cmplD t q ecc) s = .next v) ∧
      (q.addr.toNat % 2 ^ 16 = stOk → ((u.upset t ecc).eccRead t 3 (bitsOf q.tag.toNat 12 8) ((s.tile t).pcOf .dma o.ticket) ecc).dataArrives t p q o = none →
        exec (.cmplD t q ecc) s = .next (s.dataStalls t p q o))) ∧
    (∀ o p ecc, q.type = 0x82 → ((s.tile t).outstanding.find? fun o => o.pkt.tag = q.tag) = some o → s.partOf t = some p → o.deadline < s.jobTime p →
      exec (.cmplD t q ecc) s = .next ((u.noReply t p o).stray t)) ∧
    (∀ ecc, q.type = 0x82 → (∀ o ∈ (s.tile t).outstanding, o.pkt.tag ≠ q.tag) →
      exec (.cmplD t q ecc) s = .next (u.setTile t { u.tile t with strayReplies := (s.tile t).strayReplies + 1 }))

/-- Combining gather values gives the same result in whatever order the values meet (rests on parts of R262). -/
def Obligations.GatherValuesCombineInAnyOrder : Prop :=
  (∀ a b : GatherVal, a.combine b = b.combine a) ∧ (∀ a b c : GatherVal, (a.combine b).combine c = a.combine (b.combine c)) ∧
  (∀ (a : GatherVal) (xs ys : List GatherVal), xs.Perm ys → xs.foldl GatherVal.combine a = ys.foldl GatherVal.combine a) ∧
  (∀ a b : GatherVal, (a.combine b).clean = (a.clean && b.clean) ∧ (a.combine b).hold.toNat = max a.hold.toNat b.hold.toNat ∧
    (a.combine b).origin.toNat = min a.origin.toNat b.origin.toNat)

/-- The sample, the partition bit, gather frames and the gather deadline (rests on parts of R57, R256, R259, R260, R262, R263, R265). -/
def Obligations.TheLatchSamplesFormsAndGathers : Prop :=
  ∀ (p : PartId) (s : State) (m : Manifest), (s.part p).manifest = some m →
    (∀ port f l v, (s.port port).part = some p → f.kind = 1 → s.takeLatch port f = some (l, v) → v.part p = s.part p → (s.part p).isShadow = false → (s.part p).watching = true →
      ((s.part p).attempting = true → v.jobTime p ≤ (s.part p).tk + m.latchDue) →
      ((s.part p).sameAttempt f = false → f.stage.toNat < 3 → v.exitLink p (torusDir f.stage.toNat true) = some l →
        exec (.gatherFrame p port f) s = .next (v.split p l.1 f)) ∧
      ((s.part p).sameAttempt f = true → f.stage.toNat < 3 → v.exitLink p (torusDir f.stage.toNat true) = some l → 1 < m.ring f.stage.toNat →
        (s.part p).latch.formed = false → (s.part p).latch.got = [] →
        exec (.gatherFrame p port f) s = .next (v.gatherTaken p m (torusDir f.stage.toNat true) f))) ∧
   ((s.part p).attempting = true →
    ((s.part p).judged = true → (s.part p).beatInStep + 1 = (s.part p).k → (s.part p).latch.sampled = none →
      ∀ ecc, exec (.latchSample ⟨p, ecc⟩) s = .next (s.latchSample p ecc) ∧
      ∀ v u c, v = (s.reachJob p ((s.part p).t ((s.part p).beat + 1))).unitEcc p (s.facetEcc p ecc) → v.forTiles (v.holders p) State.lateWork = u →
        (u.contributors p).findSome? id = c → ((s.latchSample p ecc).part p).latch.sampled = some (c.isNone, c.getD 0)) ∧
    (∀ clean cause, (s.part p).latch.sampled = some (clean, cause) → (s.part p).beatInStep = (s.part p).k → (s.part p).latch.formed = false →
      exec (.partitionBitFormed p) s = .next ((s.reachJob p ((s.part p).tk + 200)).bitFormed p m clean cause)) ∧
    ((s.part p).latch.formed = true → (s.part p).latch.gatherJudged = false → (s.part p).shadow = none →
      exec (.gatherDeadline p) s = .next ((s.reachJob p ((s.part p).tk + m.latchDue + 1)).gatherDue p m) ∧
      ((s.part p).latch.stage = 3 →
        (s.reachJob p ((s.part p).tk + m.latchDue + 1)).gatherDue p m = (s.reachJob p ((s.part p).tk + m.latchDue + 1)).modLatch p fun l => { l with gatherJudged := true, tentative := some l.value.clean }) ∧
      ((s.part p).latch.stage < 3 → (((s.reachJob p ((s.part p).tk + m.latchDue + 1)).gatherDue p m).part p).latch.tentative = some false ∧
        (((s.reachJob p ((s.part p).tk + m.latchDue + 1)).gatherDue p m).part p).latch.breakSeen = true)))

/-- BREAK, the break cutoff, HALT, and the frames of shadow mode (rests on parts of R263, R264, R265, R266, R280, R281). -/
def Obligations.BreakHaltAndTheFixedOutcome : Prop :=
  (∀ (p : PartId) (s v : State) (port : PortId) (f : LatchFrame) (l : PortId × Session) (m : Manifest), (s.part p).watching = true → (s.part p).manifest = some m → (s.port port).part = some p →
    s.takeLatch port f = some (l, v) → v.part p = s.part p →
    ((s.part p).attempting = true → v.jobTime p ≤ (s.part p).tk + m.latchDue ∨
      ((s.part p).latch.gatherJudged = true ∧ v.jobTime p ≤ (s.part p).tk + m.latchDue + m.breakNs)) →
    (f.kind = 2 → (s.part p).isShadow = false → (s.part p).sameAttempt f = true → (s.part p).latch.fixed = none → (s.part p).latch.forwarded = false →
      exec (.breakFrame p port f) s = .next ((v.floodLatch p (some l) f).modLatch p fun x =>
        { x with forwarded := true, breakSeen := true, breakHold := holdMax x.breakHold f.hold })) ∧
    (f.kind = 2 → (s.part p).isShadow = false → ((s.part p).sameAttempt f = false ∨ (s.part p).latch.fixed ≠ none) → exec (.breakFrame p port f) s = .next (v.split p l.1 f)) ∧
    (f.kind = 3 → (s.part p).job = .running → f.job = (s.part p).jobTag → (s.part p).latch.halt = none → exec (.haltFrame p port f) s =
      .next ((v.modLatch p fun x => { x with halt := some (f.cause, f.origin) }).floodLatch p (some l) f)) ∧
    (f.kind = 3 → (s.part p).latch.halt ≠ none → exec (.haltFrame p port f) s = .next v) ∧
    (f.kind = 4 → (s.part p).attempting = true → v.jobTime p ≤ (s.part p).t ((s.part p).beat + 1) → (s.part p).mirrorPort 2 = some port → (s.part p).sameAttempt f = true → (s.part p).latch.formed = true → (s.part p).latch.fixed = none →
      exec (.outcomeFrame p f) s = .next (v.outcomeArrives p f)) ∧
    (f.kind = 5 → (s.part p).attempting = true → (s.part p).mirrorPort 1 = some port → (s.part p).sameAttempt f = true → (s.part p).latch.formed = true →
      (s.part p).latch.gatherJudged = false → (s.part p).latch.shadowReport = none → f.agree = (s.part p).latch.shadowValue →
      exec (.shadowFrame p f) s = .next (v.modLatch p fun l => { l with shadowReport := some (f.clean, f.agree) }))) ∧
  (∀ (p : PartId) (s : State) (m : Manifest), (s.part p).attempting = true → (s.part p).manifest = some m → (s.part p).shadow = none →
    (s.part p).latch.gatherJudged = true → (s.part p).latch.fixed = none → (s.part p).latch.lateClear = none →
    ∃ u, u = s.reachJob p ((s.part p).tk + m.latchDue + m.breakNs + 1) ∧ exec (.breakCutoff p) s = .next (u.modLatch p fun l => { l with
      fixed := some ((s.part p).latch.tentative = some true && !(s.part p).latch.breakSeen)
      outcome := some ((s.part p).latch.tentative = some true && !(s.part p).latch.breakSeen, holdMax l.value.hold l.breakHold) }))

/-- Frames, REPLAY, the replay timeout, link reset, RESET, NAK, CREDITS and loss of a link (rests on parts of R289, R290, R291, R315, R321). -/
def Obligations.LinkFramesReplayAndReset : Prop :=
  (∀ (port : PortId) (x : Session) (frame f : Bytes) (s : State), s.linkUp port x = true → s.unwrap port x frame = some f →
    (f.length = 640 → frameCrcOk f = true → fieldAt f 0 2 = (s.link port x).rxSeq.toNat →
      exec (.haspFrameReceive port x frame true) s = .next (s.frameTaken port x f)) ∧
    (f.length = 640 → frameCrcOk f = true → fieldAt f 0 2 ≠ (s.link port x).rxSeq.toNat → (s.link port x).resetSeenIn f = true →
      ((s.linkRestart port x).linkUp port x = true → exec (.haspFrameReceive port x frame true) s = .next ((s.linkRestart port x).frameTaken port x f)) ∧
      ((s.linkRestart port x).linkUp port x = false → exec (.haspFrameReceive port x frame true) s = .next (s.linkRestart port x))) ∧
    (∀ ok, (ok = false ∨ frameCrcOk f = false ∨ (fieldAt f 0 2 ≠ (s.link port x).rxSeq.toNat ∧ (s.link port x).resetSeenIn f = false)) →
      exec (.haspFrameReceive port x frame ok) s = .next (s.sendCtl port x 3 (leBytes 2 (s.link port x).rxSeq.toNat)))) ∧
  (∀ (port : PortId) (x : Session) (s : State), s.linkUp port x = true →
    (∀ seq ecc, (s.link port x).resend = some seq → exec (.haspFrameSend port x ecc) s = .next (s.sendAgain port x seq)) ∧
    (∀ ecc, (s.link port x).resend = none → exec (.haspFrameSend port x ecc) s = .next ((s.egressEcc port x ecc).sendNew port x)) ∧
    s.egressEcc port x .clean = s) ∧
  (∀ (port : PortId) (x : Session) (s : State),
    (∀ e rest, (s.link port x).replay = e :: rest → ∃ u, u = s.reach ((s.link port x).ackAt + 4000 : Nat) ∧
      exec (.replayTimeout port x) s = .next (u.modLink port x fun l => { l with resend := some e.1, ackAt := u.now })) ∧
    ((∃ e ∈ (s.link port x).replay, 8 ≤ e.2.1) → exec (.linkReset port x) s = .next (s.linkReset port x)) ∧
    (∀ seq v, s.takeCtl port x 3 (leBytes 2 seq.toNat) = some v →
      exec (.replay port x seq) s = .next (v.modLink port x fun l => { l with resend := some seq })) ∧
    (∀ rs v, s.takeCtl port x 9 (creditsBytes rs) = some v → rs.length ≤ 7 →
      exec (.credits port x rs) s = .next (rs.foldl (fun s r => s.modLink port x fun l => l.credited r.1.toNat r.2.toNat) v)) ∧
    (∀ m v, s.ctlSession port 4 (nakBytes m) = some x → s.takeCtl port x 4 (nakBytes m) = some v → exec (.nak port m) s = .next (v.nakTaken port m))) ∧
  (∀ (port : PortId) (s : State),
    (∀ y, (s.ctlIn.find? fun y => y.1 = port && y.2.2.1 = 1) = some y → exec (.controlReset port) s =
      .next ((((({ s with ctlIn := s.ctlIn.erase y } : State).linkLost port 2).modPort port fun q => { q with resetSeen := true })).linkDown port y.2.1 .up)) ∧
    ((∃ x ∈ (s.port port).links, (s.link port x).state ≠ .down) → (s.port port).resetSeen = false →
      exec (.linkDown port) s = .next (((s.linkLost port 1).modPort port fun q => { q with resetSeen := false }).portDown port 1)) ∧
    ((∀ x ∈ (s.port port).links, (s.link port x).state = .down) → exec (.linkDown port) s = .next s))

/-- HELLO, the admission stages, SYNC, revocation, and heartbeats (rests on parts of R306, R307, R311, R317, R319, R320). -/
def Obligations.AdmissionStagesAndHeartbeats : Prop :=
  (∀ (port : PortId) (x : Session) (h : Hello) (s v : State), s.takeCtl port x 7 (helloBytes h) = some v →
    (∀ a, (v.link port x).adm = some a → v.admLate a = true → exec (.hello port x h) s = .next (v.admitFail port x 8)) ∧
    (∀ a, (v.link port x).adm = some a → v.admLate a = false → a.stage ≠ .hello → exec (.hello port x h) s = .next (v.protocolError port x)) ∧
    (∀ a, (v.link port x).adm = some a → v.admLate a = false → a.stage = .hello → h.gen ≠ (v.ownHello port).gen → exec (.hello port x h) s = .next (v.admitFail port x 1)) ∧
    ((v.link port x).adm = none → (v.link port x).partner = none →
      exec (.hello port x h) s = .next (v.modLink port x fun l => { l with partner := some h }))) ∧
  (∀ (port : PortId) (x : Session) (kind index : Byte) (last : Bool) (data : Bytes) (s v : State),
    s.takeCtl port x 8 ([kind, index] ++ leBytes 1 (b2n last) ++ [0] ++ padTo 28 data) = some v →
    ((v.link port x).adm = none → exec (.admitFragment port x kind index last data) s = .next (v.protocolError port x)) ∧
    (∀ a, (v.link port x).adm = some a → v.admLate a = true → exec (.admitFragment port x kind index last data) s = .next (v.admitFail port x 8)) ∧
    (∀ a, (v.link port x).adm = some a → v.admLate a = false → kind = 1 → a.stage = .auth → last = false → exec (.admitFragment port x kind index last data) s =
      .next (v.modLink port x fun l => { l with adm := some { a with spdm := a.spdm ++ padTo 28 data } })) ∧
    (∀ a, (v.link port x).adm = some a → v.admLate a = false → kind = 2 → a.stage = .agree → last = false → exec (.admitFragment port x kind index last data) s =
      .next (v.modLink port x fun l => { l with adm := some { a with digest := a.digest ++ padTo 28 data } }))) ∧
  (∀ (port : PortId) (x : Session) (a : Admission) (s : State), (s.link port x).adm = some a →
    (∀ t1 t2 t3 t4, a.stage = .sync → s.admLate a = true → exec (.syncExchange port x t1 t2 t3 t4) s = .next (s.admitFail port x 8)) ∧
    (∀ t1 t2 t3 t4, a.stage = .sync → s.admLate a = false → exec (.syncExchange port x t1 t2 t3 t4) s = .next (s.syncTaken port x a t1 t2 t3 t4)) ∧
    (∀ t1 t2 t3 t4, a.stage ≠ .sync → exec (.syncExchange port x t1 t2 t3 t4) s = .next s) ∧
    exec (.admissionStageTimeout port x) s = .next ((s.reach ((min a.stageBy a.by_ : Nat) + 1)).admitFail port x 8)) ∧
  (∀ (port : PortId) (x : Session) (s : State),
    (16 ≤ (s.link port x).protoAt.length → (s.link port x).state = .admitted → exec (.admissionRevoke port x) s =
      .next ((((s.linkLost port 4).modLink port x fun l => { l with state := .refused, adm := none, protoAt := [] }).flushEgress port x).linkEvent port 4 4)) ∧
    ((s.link port x).protoAt.length < 16 → exec (.admissionRevoke port x) s = .next s)) ∧
  (∀ (port : PortId) (x : Session) (p : PartId) (s : State), (s.port port).part = some p →
    ((s.link port x).state = .admitted → exec (.heartbeatSend port x) s =
      .next ((s.reachJob p ((s.part p).t (s.part p).beat + 100)).sendCtl port x 5 (leBytes 6 (s.part p).beat))) ∧
    (∀ hb v, s.takeCtl port x 5 (hbBytes hb) = some v →
      ((s.link port x).state = .silent → exec (.heartbeat port x hb) s = .next (v.modLink port x fun l => { l with lateHb := l.lateHb + 1 })) ∧
      ((s.link port x).state = .admitted → exec (.heartbeat port x hb) s = .next (v.heartbeatTaken port x p hb))) ∧
    ((s.link port x).state = .admitted → (s.link port x).hbBeat = none → (s.link port x).missJudged = none → (s.link port x).missed < 7 →
      exec (.heartbeatMiss port x) s = .next ((s.reachJob p ((s.part p).t ((s.part p).beat + 1) + 1)).modLink port x fun l =>
        { l with missed := l.missed + 1, missJudged := some (s.part p).beat })))

/-- A lane sees signal, trains, is watched, and is swapped or fenced (rests on parts of R294, R295, R297, R298, R299, R300, R301). -/
def Obligations.LanesTrainSwapAndFail : Prop :=
  (∀ (port : PortId) (l : LaneId) (s : State), (s.port port).mode ≠ 0 →
    ((s.port port).lanes[l].state = .down ∨ (s.port port).lanes[l].state = .fenced ∧ (s.port port).isUp = false → ∀ fine, fine = (!(s.port port).fullTrained && (s.port port).settings.isSome && !s.coldLinks) →
      exec (.laneSignalDetect port l) s = .next (s.modPort port fun q => { q with lanes := q.lanes.set l { state := .train, fine := fine } })) ∧
    ((s.port port).lanes[l].state ≠ .down → ((s.port port).lanes[l].state = .fenced → (s.port port).isUp = true) → exec (.laneSignalDetect port l) s = .next s)) ∧
  (∀ (port : PortId) (l : LaneId) (d : AlignDelays) (dev : U64) (s : State), (s.port port).lanes[l].state = .train ∨ (s.port port).lanes[l].state = .align →
    (s.laneBad port l dev = false → exec (.laneTrainingDone port l true d dev) s = .next (s.modPort port fun q => { q with
      lanes := q.lanes.set l { q.lanes[l] with state := .qualify }, asymPs := halfAsymmetry d, device := dev })) ∧
    (s.laneBad port l dev = false → exec (.laneTrainingDone port l false d dev) s = .next (s.modPort port fun q => { q with
      lanes := q.lanes.set l { q.lanes[l] with state := .align }, device := dev })) ∧
    (s.laneBad port l dev = true → exec (.laneTrainingDone port l false d dev) s = .next (s.modPort port fun q => { q with
      lanes := q.lanes.set l { q.lanes[l] with state := .fenced }, device := dev }))) ∧
  (∀ (port : PortId) (passed : BitVec 9) (s : State), (∃ l : LaneId, (s.port port).lanes[l].state = .qualify) →
    (s.port port).isUp = false →
    ∀ half sw, (s.port port).qualified (fun l => passed.getLsbD l.val && (s.port port).lanes[l].state = .qualify) = some (half, sw) →
      exec (.laneQualifyWindow port passed true) s =
        .next (s.portUp port (fun l => passed.getLsbD l.val && (s.port port).lanes[l].state = .qualify) half sw)) ∧
  (∀ (port : PortId) (over_ : BitVec 9) (s : State), (∀ l : LaneId, (s.port port).lanes[l].bad < 2) →
    ∃ q, exec (.laneMonitorWindow port over_) s = .next (s.modPort port fun _ => { s.port port with lanes := q }) ∧
      ∀ l : LaneId, q[l] = if (s.port port).lanes[l].state = .up ∨ (s.port port).lanes[l].state = .spare then
        { (s.port port).lanes[l] with bad := if over_.getLsbD l.val then (s.port port).lanes[l].bad + 1 else 0 } else (s.port port).lanes[l]) ∧
  (∀ (port : PortId) (l : LaneId) (s : State),
    ((s.port port).lanes[l].state = .up ∨ (s.port port).lanes[l].state = .spare → exec (.laneLockLoss port l) s = .next (s.laneFence port l 1)) ∧
    ((s.port port).lanes[l].state = .train → exec (.laneLockLoss port l) s = .next s)) ∧
  (∀ (port : PortId) (l : LaneId) (seq : U16) (ack : Bool) (s v : State), s.takeCtl port none 6 (laneBytes l ack seq) = some v →
    exec (.lane port l seq ack) s = .next (if ack then v.modPort port fun q => { q with swap := (q.swap.filter fun y => y.1 ≠ l) ++ [(l, seq)] }
      else (v.modPort port fun q => { q with swap := (q.swap.filter fun y => y.1 ≠ l) ++ [(l, seq)] }).sendCtl port none 6 (laneBytes l true seq))) ∧
  (∀ (port : PortId) (l : LaneId) (seq : U16) (rest : List (LaneId × U16)) (s : State), (s.port port).swap = (l, seq) :: rest → (∀ y ∈ rest, y.1 ≠ l) →
    (∀ u, 0 ≤ ((s.port port).native.txSeq - seq).toInt ∨ 0 ≤ ((s.port port).native.rxSeq - seq).toInt →
      u = s.modPort port (fun q => { (q.modLane l fun v => { v with state := .fenced, bad := 0 }) with swap := rest }) →
      ((u.port port).spareReady = true → exec (.laneSwap port) s = .next (u.modPort port fun q =>
        { (q.modLane 8 fun v => { v with state := .up }) with swapped := some l })) ∧
      (∀ h, (u.port port).spareReady = false → (u.port port).wholeHalf = some h → ∃ v : State, exec (.laneSwap port) s = .next (v.linkEvent port 1 0) ∧
        (v.port port).half = some h ∧ (v.port port).swap = rest ∧ (v.port port).lanes[l].state = .fenced) ∧
      ((u.port port).spareReady = false → (u.port port).wholeHalf = none → exec (.laneSwap port) s = .next ((u.linkLost port 3).portDown port 3))) ∧
    (((s.port port).native.txSeq - seq).toInt < 0 → ((s.port port).native.rxSeq - seq).toInt < 0 → exec (.laneSwap port) s = .next s))

/-- Fault inbox, release of a partition, fast-path abandon, tests, the defect log, hangs and quiescence (rests on parts of R326, R329, R331,
R337, R340, R344, R358, R360, R361, R364, R369). -/
def Obligations.FaultsReachTheLogAndTheDefectLog : Prop :=
  (∀ s : State, s.pintleUp = true →
    (∀ r v u d, s.nextRecord = (some r, v) → v.decideFault r = (u, d) → exec .faultInboxDrain s =
      .next (u.logFault { r with severity := d.severity, action := d.action, level := d.level })) ∧
    (∀ r rest, s.faultHeld = [] → s.inbox = r :: rest → s.slotClosed r = none → exec .faultInboxDrain s =
      .next { s with inbox := rest, faultHeld := [r] }) ∧
    (s.faultHeld = [] → s.inbox = [] → exec .faultInboxDrain s = .next s)) ∧
  (∀ (s : State) (r : FaultRec), (s.logFault r).faultHead = s.faultHead + 1 ∧
    (s.faultLog.length < 16384 → (s.logFault r).faultLog = s.faultLog ++ [(s.faultHead, r)])) ∧
  (∀ (p : PartId) (s : State), (s.part p).placing = true → (∀ r ∈ (s.part p).repairs, r.kind ≠ 1) →
    exec (.partitionRelease p) s = .next (s.setPart p { s.part p with placing := false, repairs := (s.part p).repairs.filter fun r => !r.switched })) ∧
  (∀ (p : PartId) (s : State),
    ((∃ r ∈ (s.part p).repairs, r.kind = 0) → exec (.fastPathAbandon p) s = .next (s.fastAbandon p)) ∧
    ((s.part p).repairs = [] → exec (.fastPathAbandon p) s = .next s)) ∧
  (∀ (t : TileId) (rs : List BistRecord) (s : State), s.hasTile t = true →
    ((s.tile t).ward.test = true → (∀ b ∈ rs, b.result ≠ 1) → exec (.inFieldTestDone t rs) s =
      .next ({ s.modTile t Tile.endTest with testResults := s.testResults ++ rs }.testPassed t)) ∧
    ((s.tile t).ward.test = false → exec (.inFieldTestDone t rs) s = .next s)) ∧
  (∀ (d : Defect) (ds : List Defect) (s : State), s.defectQueue = d :: ds →
    (s.repairFreeze = true → exec .defectLogAppend s = .next s) ∧
    (s.repairFreeze = false → s.defects.length < 4095 → exec .defectLogAppend s = .next { s with
      defectQueue := ds, defects := s.defects ++ [{ d with seq := s.defectSeq }], defectSeq := s.defectSeq + 1 })) ∧
  (∀ (t : TileId) (p : PartId) (s : State), s.hasTile t = true → s.partOf t = some p → (s.nOf t).isSome = true →
    (s.hangOut p t = true → exec (.hangWindowExpiry t) s = .next (s.hangFault t)) ∧
    (s.hangOut p t = false → exec (.hangWindowExpiry t) s = .next s)) ∧
  (∀ (p : PartId) (a b : List (TileId × BitVec 3)) (s : State), (s.part p).present = true → (s.part p).judged = false → (s.part p).freeze ≠ none →
    exec (.quiescenceCheck p a b) s = .next (s.quiesceCheck p a b))

/-- The resets of a tile, a cluster, a partition and the device, the power cycle and the watchdog (rests on parts of R366, R367, R368, R369,
R370, R371, R372). -/
def Obligations.ResetsOfTileClusterPartitionAndDevice : Prop :=
  (∀ (t : TileId) (s : State), s.hasTile t = true →
    ((s.tile t).resetDue = 1 →
      let u := ((s.tileLost t).unplace t).modTile t fun v => { v.levelThree with ladder := some ⟨0x04, s.lostSeverity t, 3, s.now⟩ }
      exec (.tileReset t true) s = .next (u.resetAnswered t) ∧
      exec (.tileReset t false) s = .next (u.modTile t fun v => { v with resetDue := 2 })) ∧
    ((s.tile t).resetDue = 2 ∨ s.boot.phase = 2 → ∀ a, exec (.clusterReset t a) s = .next (s.clusterReset t a)) ∧
    ((s.tile t).resetDue = 0 → ∀ a, exec (.tileReset t a) s = .next s) ∧
    ((s.tile t).resetDue ≠ 2 → s.boot.phase ≠ 2 → ∀ a, exec (.clusterReset t a) s = .next s)) ∧
  (∀ (p : PartId) (s : State), (s.part p).present = true → (s.part p).resetDue = true → ∃ u, u = s.partHalt p ∧
    exec (.partitionReset p true) s = .next (u.partReset p) ∧
    exec (.partitionReset p false) s = .next { u.modPart p (fun q => { q with resetDue := false, ladder := some ⟨0x0C, 4, 5, s.now⟩ }) with boot := { u.boot with
      resetDue := true
      cause := ((s.faultLog.filter fun r => bitAt r.2.flags.toNat 1 && r.2.part = p).getLast?.map (·.2)).or u.boot.cause } }) ∧
  (∀ (p : PartId) (s : State), (s.part p).resetDue = false → ∀ b, exec (.partitionReset p b) s = .next s) ∧
  (∀ s u : State, s.boot.resetDue = true ∨ (s.boot.phase ≠ 0 ∧ s.power.cycleReq = false) → u = { s with boot := { s.boot with resetDue := true } } →
    ((∀ w ∈ s.waiters, w.opcode = 0x080B ∧ w.queued = false) → (∀ p, (s.part p).applies = []) → exec .deviceReset s = .next u.deviceReset) ∧
    (∀ w ∈ s.waiters, w.opcode ≠ 0x080B → exec .deviceReset s = .next u)) ∧
  (∀ s : State, s.boot.resetDue = false → (s.boot.phase = 0 ∨ s.power.cycleReq = true) → exec .deviceReset s = .next s) ∧
  (∀ s : State,
    (s.power.cycleDue = true → exec .powerCycleRequest s = .next s.powerCycle) ∧
    (s.power.cycleDue = false → s.boot.resetSince = none → exec .powerCycleRequest s = .next s) ∧
    (s.boot.stage ≠ 0 → exec .watchdogExpiry s = .next (s.failAttempt 0x05 0)) ∧
    (s.boot.stage = 0 → s.boot.phase ≠ 0 → s.boot.standbyRuns = false → exec .watchdogExpiry s = .next s.powerCycle) ∧
    (s.boot.stage = 0 → s.boot.phase ≠ 0 → s.boot.standbyRuns = true → ∃ u r, u = { s with boot := { s.boot with standby := true, standbyRuns := false } } ∧
      exec .watchdogExpiry s = .next ((u.logFault r).postAdmin 6 3 []) ∧
      r = { (u.mkRecord none none 0xFFFF { cls := 6, unit := 5, addr := 8, clears := false }) with action := 0x12 }))

/-- A start attempt, its stages and time limits, ports that miss the link stage, READY and failure (rests on parts of R378, R379, R380, R382,
R383, R386, R394, R396, R398, R399). -/
def Obligations.StartAttemptsAndTheirStages : Prop :=
  (∀ s : State,
    (s.boot.phase = 0 → s.boot.stage = 0 → s.powerGood = true → s.noteIncomplete.boot.strikes = 3 →
      exec .startAttempt s = .next s.noteIncomplete.thirdStrike) ∧
    (s.boot.phase = 0 → s.boot.stage = 0 → s.powerGood = true → s.noteIncomplete.boot.strikes ≠ 3 →
      exec .startAttempt s = .next (s.noteIncomplete.strike 1 false).loadImage) ∧
    (s.boot.stage ≠ 0 → exec .startAttempt s = .next s)) ∧
  (∀ (r : StageReport) (s : State),
    (s.boot.stage = 2 → r.pllLocked = false → exec (.startStageComplete r) s = .next (s.failAttempt 0x03 0)) ∧
    (∀ k b, s.boot.stage = k → k ≠ 0 → (k = 2 → r.pllLocked = true) → (k = 5 → s.boot.tilesTested = false) → ioDieFails r = some b →
      exec (.startStageComplete r) s = .next ((s.otherBist r).failAttempt 0x07 (13 + 256 * (b.wher.toNat % 256)))) ∧
    (∀ k, s.boot.stage = k → 1 ≤ k → k ≤ 4 → r.pllLocked = true → ioDieFails r = none → ∃ u, u = s.stageWork r ∧
      exec (.startStageComplete r) s = .next { u with boot := { u.boot with
        stage := k + 1, stageAt := u.now, began := u.now, results := u.boot.results ++ r.bist.filter (fun b => b.result ≠ 0)
        stageMs := u.boot.stageMs ++ [r.elapsedMs] } }) ∧
    (s.boot.stage = 5 → s.boot.tilesTested = true → exec (.startStageComplete r) s = .next s)) ∧
  (∀ s : State,
    (∀ k ms, s.boot.stage = k → (k, ms) ∈ [(1, 1000), (2, 100), (3, 4000), (5, 3000)] →
      exec .startStageTimeout s = .next ((s.reach (s.boot.began + ms * 1000000 + 1 : Nat)).failAttempt 0x04 k)) ∧
    (s.boot.stage = 4 → exec .startStageTimeout s = .next s) ∧
    (s.boot.stage = 5 → s.boot.tilesTested = true → (∀ t ∈ s.allHolders, (s.tile t).load.state = 2 ∧ (s.tile t).load.ka = 2) →
      s.anyLeft = true → exec .ready s = .next s.becomeReady) ∧
    (s.boot.stage = 0 → exec .ready s = .next s)) ∧
  (∀ (port : PortId) (s : State), s.boot.stage = 4 →
    ((s.port port).mode ≠ 0 → (s.port port).isUp = false →
      exec (.linkStagePortTimeout port) s = .next ((s.reach (s.boot.began + (s.port port).stageLimit : Nat)).portDown port 0)) ∧
    ((s.port port).isUp = true → exec (.linkStagePortTimeout port) s = .next s)) ∧
  (∀ (reason : Byte) (detail : U32) (s : State),
    (s.boot.stage ≠ 0 → exec (.attemptFailed reason detail) s = .next (s.failAttempt reason.toNat detail.toNat)) ∧
    (s.boot.stage = 0 → exec (.attemptFailed reason detail) s = .next s)) ∧
  (∀ (s : State) reason detail, (s.failAttempt reason detail).boot.phase = 0 ∧ (s.failAttempt reason detail).boot.stage = 0 ∧
    (s.failAttempt reason detail).boot.log = (s.boot.add (s.startRec 1 reason detail)).log)

/-- The broadcast deadline, resend rounds, the digest check, the load status check and the known-answer run (rests on parts of R389, R390, R391,
R392). -/
def Obligations.TileImagesLoadAndAreChecked : Prop :=
  (∀ (t : TileId) (l : Load) (s : State), s.hasTile t = true → (s.tile t).load = l → l.armed = true → l.state = 1 → l.missing ≠ [] →
    (l.rounds = 0 → l.gap = true → exec (.broadcastDeadline t) s = .next (s.nextRound t false)) ∧
    (l.rounds = 0 → l.gap = false → exec (.broadcastDeadline t) s = .next ((s.reach (s.deadlineCount l + 1)).nextRound t false)) ∧
    (l.rounds ≠ 0 → exec (.broadcastDeadline t) s = .next s ∧
      exec (.resendRoundTimeout t) s = .next ((s.reach (l.roundDeadline.toNat + 1 : Nat)).nextRound t false)) ∧
    (l.rounds = 0 → exec (.resendRoundTimeout t) s = .next s) ∧
    exec (.imageDigestCheck t) s = .next s) ∧
  (∀ (t : TileId) (v : Tile) (s : State), s.hasTile t = true → s.tile t = v → v.load.armed = true → v.load.state = 1 → v.load.missing = [] →
    (sha512 ((List.range v.load.length.toNat).map (v.imem.get (tileKey t))) = v.load.digest → exec (.imageDigestCheck t) s =
      .next (s.modTile t fun v => { v with load := { (v.load.mark 2 v.load.rounds 0) with doneAt := some s.now } })) ∧
    (sha512 ((List.range v.load.length.toNat).map (v.imem.get (tileKey t))) ≠ v.load.digest →
      exec (.imageDigestCheck t) s = .next (s.nextRound t true))) ∧
  (∀ (t : TileId) (l : Load) (s : State) (all_ : Bool), (s.tile t).load = l →
    (3 ≤ l.rounds → s.nextRound t all_ = s.modTile t fun v => { v with load := v.load.mark 3 l.rounds 0 }) ∧
    (l.rounds < 3 → ∃ pkt : Packet, (s.nextRound t all_).net = s.net ++ [{ pkt := pkt, loc := .router t 4, ready := some s.now }] ∧ pkt.type = 0x84 ∧
      pkt.payload = resendPayload l (l.rounds + 1) all_)) ∧
  (∀ s0 s : State, s = s0.unitOverdue → s0.boot.stage = 5 → s0.boot.tilesTested = true → s.boot.kaRounds < 2 →
    (∀ t ∈ s.allHolders, (s.tile t).load.state = 2) → (∃ t ∈ s.allHolders, (s.tile t).load.ka = 0) → ∃ u,
      u = s.allHolders.foldl (fun s t => if (s.tile t).load.ka = 0 then s.modTile t fun v => { v with load := v.load.mark 2 v.load.rounds 1 } else s) s ∧
      exec .loadStatusCheck s0 = .next { u with boot := { u.boot with kaRounds := u.boot.kaRounds + 1 } }) ∧
  (∀ s : State, s.boot.stage ≠ 5 → exec .loadStatusCheck s = .next s) ∧
  (∀ s : State, s.boot.stage = 5 → (∃ t ∈ s.allHolders, (s.tile t).load.ka = 1) → exec (.knownAnswerDone []) s =
    .next ((s.allHolders.filter fun t => (s.tile t).load.ka = 1).foldl (fun s t => s.modTile t fun v => { v with load := v.load.mark 2 v.load.rounds 2 }) s)) ∧
  (∀ s fs, s.boot.stage = 5 → (∃ t ∈ s.allHolders, (s.tile t).load.ka = 1) → exec (.knownAnswerDone fs) s = .next (s.knownAnswer fs)) ∧
  (∀ (s : State) fs, (∀ t ∈ s.allHolders, (s.tile t).load.ka ≠ 1) → exec (.knownAnswerDone fs) s = .next s)

/-- PERST, FLR, host links up and down, aperture reads and writes, and host read completions (rests on parts of R172, R404, R406, R410, R411). -/
def Obligations.HostLinksAndTheAperture : Prop :=
  (∀ (b : Bool) (f : FnId) (s : State),
    exec (.perst b) s = .next (((List.finRange 8).filter fun g => fnEast g = b).foldl State.fnGone s) ∧
    exec (.flr f) s = .next (s.hostReset f) ∧
    exec (.pcieLinkDown f) s = .next ((s.modFn f fun v => { v with gen := 0 }).hostReset f)) ∧
  (∀ (f : FnId) (gen : Byte) (s : State), s.power.converters = true → s.power.packageOff = false →
    (s.fnExists f = true → 5 ≤ gen.toNat → gen.toNat ≤ 7 → s.boot.phase ≠ 3 →
      exec (.pcieLinkUp f gen) s = .next (s.modFn f fun v => { v with gen := gen })) ∧
    (gen.toNat < 5 → exec (.pcieLinkUp f gen) s = .next s) ∧
    (s.fnExists f = false → exec (.pcieLinkUp f gen) s = .next s)) ∧
  (∀ (f : FnId) (offset : BitVec 36) (len : BitVec 13) (ecc : Ecc) (s : State), (s.fn f).gen ≠ 0 →
    (∀ a, s.aperture f offset.toNat len.toNat = some a → s.retiredEcc (s.fn f).a2Part a len.toNat ecc = .clean →
      exec (.bar2Read f offset len ecc) s =
        .next (s.modFn f fun v => { v with out := v.out ++ [.completion (s.partRead (s.fn f).a2Part a len.toNat) true] })) ∧
    (∀ a, s.aperture f offset.toNat len.toNat = some a → (∀ d m, s.retiredEcc (s.fn f).a2Part a len.toNat ecc ≠ .dram d m) →
      exec (.bar2Read f offset len ecc) s = .next ((s.correctDram (s.retiredEcc (s.fn f).a2Part a len.toNat ecc)).modFn f fun v =>
        { v with out := v.out ++ [.completion (s.partRead (s.fn f).a2Part a len.toNat) true] })) ∧
    (∀ a d m, s.aperture f offset.toNat len.toNat = some a → s.retiredEcc (s.fn f).a2Part a len.toNat ecc = .dram d m →
      exec (.bar2Read f offset len ecc) s = .next (((s.upsetDram d.toNat).hostEcc (s.fn f).a2Part (.dram d m)).modFn f fun v =>
        { v with out := v.out ++ [.completion ((s.upsetDram d.toNat).partRead (s.fn f).a2Part a len.toNat) true] })) ∧
    (s.aperture f offset.toNat len.toNat = none → exec (.bar2Read f offset len ecc) s =
      .next (s.modFn f fun v => { v with bar2Refused := v.bar2Refused + 1, aer := v.aer + 1, out := v.out ++ [.completion [] false] }))) ∧
  (∀ (f : FnId) (offset : BitVec 36) (data : Bytes) (s : State), (s.fn f).gen ≠ 0 →
    (∀ a, s.aperture f offset.toNat data.length = some a → (s.part (s.fn f).a2Part).shadow = none →
      exec (.bar2Write f offset data) s = .next (s.partWrite (s.fn f).a2Part a data)) ∧
    (∀ a, s.aperture f offset.toNat data.length = some a → exec (.bar2Write f offset data) s =
      .next ((cutPieces data.length a data).foldl (fun u x => u.mirror (s.fn f).a2Part (u.hostPacket f (s.fn f).a2Part x.1 x.2)) (s.partWrite (s.fn f).a2Part a data))) ∧
    (s.aperture f offset.toNat data.length = none → exec (.bar2Write f offset data) s =
      .next (s.modFn f fun v => { v with bar2Refused := v.bar2Refused + 1, aer := v.aer + 1 }))) ∧
  (∀ (f : FnId) (s : State), (s.fn f).gen = 0 → ∀ offset len ecc data,
    exec (.bar2Read f offset len ecc) s = .next s ∧ exec (.bar2Write f offset data) s = .next s) ∧
  (∀ (f : FnId) (offset k : Nat) (s : State),
    ((s.fn f).a2En = false → s.aperture f offset k = none) ∧
    ((s.part (s.fn f).a2Part).owner ≠ f → s.aperture f offset k = none) ∧
    (∀ a, s.aperture f offset k = some a → a = (s.fn f).a2Latched.toNat * 2 ^ 30 + offset ∧
      s.pintleOwns (s.fn f).a2Part a k = false ∧ s.rangeOn (s.fn f).a2Part a k = true)) ∧
  (∀ (f : FnId) (tag : U16) (i : U32) (data : Bytes) (s : State),
    (∀ q, ((s.fn f).reads.find? fun q => q.tag = tag && q.src = i && q.len.toNat = data.length) = some q →
      exec (.hostReadCompletion f tag i data) s =
        .next ((s.modFn f fun v => { v with reads := v.reads.erase q }).place (fnEast f) none (ioReply (fnUnit f) 0 q stOk data)).1) ∧
    ((∀ q ∈ (s.fn f).reads, q.tag ≠ tag) → exec (.hostReadCompletion f tag i data) s = .next s))

/-- A2_CTL, EV_CTL, EV_TAIL, COUNT_LO, BAR0 writes, mailbox polling, MSI-X, telemetry, service requests (rests on parts of R251, R305, R407,
R408, R409, R418, R421, R423, R424). -/
def Obligations.HostRegistersMailboxesAndServiceRequests : Prop :=
  (∀ (f : FnId) (v : U32) (s : State), s.boot.fnsUp = true →
    exec (.a2CtlWrite f v) s = .next (s.modFn f fun x => { x with
      a2En := v.getLsbD 31, a2Part := ⟨v.toNat % 16, Nat.mod_lt _ (by decide)⟩, a2Latched := x.a2Base }) ∧
    exec (.evTailWrite f v) s = .next (s.modFn f fun x => { x with evTail := v }) ∧
    exec (.countLoRead f) s = .next (s.modFn f fun x => { x with
      countHi := BitVec.ofNat 32 (s.now / 2 ^ 32), out := x.out ++ [.completion (leBytes 4 s.now) true] })) ∧
  (∀ (f : FnId) (v : U32) (s : State), s.boot.fnsUp = true → v.getLsbD 31 = true → (s.fn f).evEn = false →
    (6 ≤ (BitVec.ofNat 5 v.toNat).toNat → (BitVec.ofNat 5 v.toNat).toNat ≤ 16 → ∃ u, exec (.evCtlWrite f v) s = .next u ∧ (u.fn f).evEn = true ∧
      (u.fn f).evLog2 = BitVec.ofNat 5 v.toNat ∧ (u.fn f).evMsix = v.getLsbD 30 ∧ (u.fn f).evHead = 0 ∧ (u.fn f).evTail = 0 ∧ (u.fn f).evLost = 0) ∧
    ((BitVec.ofNat 5 v.toNat).toNat < 6 ∨ 16 < (BitVec.ofNat 5 v.toNat).toNat → ∃ u, exec (.evCtlWrite f v) s = .next u ∧ u.fn f = s.fn f)) ∧
  (∀ (f : FnId) (v : U32) (off : BitVec 22) (s : State), s.boot.fnsUp = false → exec (.a2CtlWrite f v) s = .next s ∧ exec (.evCtlWrite f v) s = .next s ∧
    exec (.evTailWrite f v) s = .next s ∧ exec (.countLoRead f) s = .next s ∧ exec (.registerWrite f off v) s = .next s) ∧
  (∀ (f : FnId) (v : U32) (s : State), s.boot.fnsUp = true →
    (∀ off : BitVec 22, off.toNat % 4 ≠ 0 → exec (.registerWrite f off v) s = .next s) ∧
    (∀ off : BitVec 22, off.toNat % 4 = 0 → 0x10000 ≤ off.toNat → off.toNat < 0x50000 → ∃ m : MboxId, m.val = (off.toNat - 0x10000) / 4096 ∧
      exec (.registerWrite f off v) s = .next (s.modMbox f m fun x => x.write (off.toNat % 4096) v)) ∧
    exec (.registerWrite f 0x108 v) s = exec (.a2CtlWrite f v) s ∧ exec (.registerWrite f 0x1008 v) s = exec (.evCtlWrite f v) s ∧
    exec (.registerWrite f 0x1014 v) s = exec (.evTailWrite f v) s ∧
    exec (.registerWrite f 0x100C v) s = .next (s.modFn f fun x => { x with evMod := BitVec.ofNat 16 v.toNat })) ∧
  (∀ (f : FnId) (m : MboxId) (s : State),
    (s.pintleUp = true → exec (.mailboxPoll f m) s = .next (s.poll f m)) ∧
    (s.pintleUp = false → exec (.mailboxPoll f m) s = .next s) ∧
    (s.timeouts = s → s.nextQueued = none → (s.hasRequest f m = false → s.poll f m = s) ∧
      (s.hasRequest f m = true → s.poll f m = s.takeRequest f m))) ∧
  (∀ (f : FnId) (t : Nat) (s : State), (s.fn f).lastMsix = some t →
    ((s.fn f).msixOwed = true → ∃ u, u = s.reach (t + (s.fn f).evMod.toNat * 1000 : Nat) ∧ exec (.msixModerationExpiry f) s =
      .next (u.modFn f fun x => if x.evHead = x.evTail then { x with msixOwed := false } else { x.signal u.now with msixOwed := false })) ∧
    ((s.fn f).msixOwed = false → exec (.msixModerationExpiry f) s = .next s)) ∧
  (∀ s : State, s.pintleUp = true → ∃ u, u = { s with power := { s.power with sensors := s.sensorValues } } ∧ exec .telemetryRewrite s =
    .next ((List.finRange 8).foldl (fun s f => s.modFn f fun v => { v with
      mirrorGen := v.mirrorGen + 2, mirrorCount := s.count, mirror := (s.telemetry f 0).flatten }) u)) ∧
  (∀ (port : PortId) (v6 : Bool) (addr : Bytes) (n : U16) (q : U32) (c : U16) (body : Bytes) (s : State),
    (kget n.toNat s.bindings = none → exec (.serviceRequest port v6 addr n q c body) s = .next s) ∧
    (∀ b, kget n.toNat s.bindings = some b → b.port = port →
      ((b.isOpen = false ∨ kget c.toNat b.clients = none) → exec (.serviceRequest port v6 addr n q c body) s =
        .next (s.svcRefuse n.toNat 1 b (sessionWord n.toNat c.toNat q.toNat))) ∧
      (∀ k, b.isOpen = true → kget c.toNat b.clients = some k →
        ((k.ipv6 ≠ v6 ∨ k.addr ≠ addr) → exec (.serviceRequest port v6 addr n q c body) s =
          .next (s.svcRefuse n.toNat 1 b (sessionWord n.toNat c.toNat q.toNat))) ∧
        (k.ipv6 = v6 → k.addr = addr → k.second = s.now / 1000000000 → k.rate.toNat ≤ k.made →
          exec (.serviceRequest port v6 addr n q c body) s = .next (s.svcRefuse n.toNat 2 b (sessionWord n.toNat c.toNat q.toNat))) ∧
        (k.ipv6 = v6 → k.addr = addr → k.second = s.now / 1000000000 → k.made < k.rate.toNat →
          (8192 < body.length → exec (.serviceRequest port v6 addr n q c body) s = .next (s.svcRefuse n.toNat 4 b (sessionWord n.toNat c.toNat q.toNat))) ∧
          (body.length ≤ 8192 → exec (.serviceRequest port v6 addr n q c body) s = .next ((s.modBinding n.toNat fun b =>
            { b with clients := kput c.toNat { k with second := s.now / 1000000000, made := k.made + 1 } b.clients }).svcTake n.toNat b
              (sessionWord n.toNat c.toNat q.toNat) body))))))

/-- The 54 V input, its transients and the converters; junction samples and trips; coolant; IDLE exits (rests on parts of R445, R446, R447, R455,
R456, R457, R481). -/
def Obligations.InputConvertersThermalAndCoolant : Prop :=
  (∀ (mv : U32) (both : Bool) (s : State), s.power.converters = true →
    (48000 ≤ mv.toNat → mv.toNat ≤ 59500 → s.power.bandSince = none →
      exec (.inputSample ⟨mv, both⟩) s = .next { s with power := { s.power with inputMv := mv.toNat, bothBlades := both } }) ∧
    (∀ t, 48000 ≤ mv.toNat → mv.toNat ≤ 59500 → s.power.bandSince = some t → ∃ u, u = { s with power := { s.power with inputMv := mv.toNat, bothBlades := both, bandSince := none } } ∧
      exec (.inputSample ⟨mv, both⟩) s = .next (u.postAdmin 7 6 (leBytes 4 s.power.inputMv ++ leBytes 4 ((s.now - t) / 1000)))) ∧
    ((46000 ≤ mv.toNat ∧ mv.toNat < 48000 ∨ 59500 < mv.toNat ∧ mv.toNat ≤ 61000) → exec (.inputSample ⟨mv, both⟩) s = .next { s with power := { s.power with
      inputMv := mv.toNat, bothBlades := both, bandSince := some (s.power.bandSince.getD s.now) } }) ∧
    ((mv.toNat < 46000 ∨ 61000 < mv.toNat) → ∃ u, u = { s with power := { s.power with inputMv := mv.toNat, bothBlades := both } } ∧ exec (.inputSample ⟨mv, both⟩) s = .next u.shutDown)) ∧
  (∀ s : State,
    (∀ t, s.power.bandSince = some t → exec .inputTransientExpiry s = .next (s.reach (t + 10000001 : Nat)).shutDown) ∧
    (s.power.bandSince = none → exec .inputTransientExpiry s = .next s) ∧
    (s.power.converters = false → s.power.bothBlades = true → 48000 ≤ s.power.inputMv → s.power.inputMv ≤ 59500 → exec .converterStart s = .next { s with
      adminFn := s.adminNext, bifur := s.bifurNext
      power := { s.power with converters := true }
      boot := { s.boot with powerOns := s.boot.powerOns + 1 } }) ∧
    (s.power.converters = true → exec .converterStart s = .next s) ∧
    (s.power.bothBlades = false → exec .converterStart s = .next s) ∧
    s.shutDown.power.converters = false ∧ s.shutDown.boot.phase = 0 ∧ s.shutDown.resets = 0) ∧
  (∀ (x : Sensor) (c : U32) (s : State), (∀ hd i, x = .halfDie hd i → hd.val < s.member.halfDies) → ∃ u,
    u = { s with power := { s.power with temps := kput (sensorAddr x) c.toInt s.power.temps } } ∧
    (s.sensorLive x = true → c.toInt ≤ 1050 → exec (.thermalSample x c) s = .next u) ∧
    (s.sensorLive x = true → 1050 < c.toInt → c.toInt < 1150 → exec (.thermalSample x c) s = .next (u.hotSample x c.toInt)) ∧
    (s.sensorLive x = true → 1150 ≤ c.toInt → (∀ hd i, x = .halfDie hd i → exec (.thermalSample x c) s = .next (u.dieTrip x c.toInt)) ∧
      (∀ e i, x = .ioDie e i → exec (.thermalSample x c) s = .next (u.packageTrip x c.toInt))) ∧
    (s.sensorLive x = false → exec (.thermalSample x c) s = .next s) ∧
    (u.dieTrip x c.toInt).power.thermTrip = true ∧ (u.packageTrip x c.toInt).power.thermTrip = true ∧ (u.packageTrip x c.toInt).power.packageOff = true) ∧
  (∀ (flow inlet outlet : U16) (s : State), s.power.converters = true → s.power.packageOff = false →
    (1200 ≤ flow.toNat → inlet.toInt ≤ 350 → exec (.coolantCheck flow inlet outlet) s = .next { s with power := { s.power with
      flow := flow, inlet := inlet, outlet := outlet, coolSince := none, coolPosted := false } }) ∧
    (∀ t, (flow.toNat < 1200 ∨ 350 < inlet.toInt) → s.power.coolSince = some t → s.power.coolPosted = false →
      (s.now < t + 1000000000 → exec (.coolantCheck flow inlet outlet) s = .next { s with power := { s.power with
        flow := flow, inlet := inlet, outlet := outlet, coolSince := some t, coolPosted := false } }) ∧
      (t + 1000000000 ≤ s.now → ∃ u, u = { s with power := { s.power with flow := flow, inlet := inlet, outlet := outlet, coolSince := some t, coolPosted := true } } ∧
        exec (.coolantCheck flow inlet outlet) s = .next (u.postAdmin 7 5 (leBytes 2 flow.toNat ++ leBytes 2 inlet.toNat ++ leBytes 2 outlet.toNat))))) ∧
  (∀ (hd : HdId) (s : State), hd.val < s.member.halfDies → exec (.idleExitDone hd) s =
    .next { s with power := { s.power with waking := s.power.waking &&& ~~~ BitVec.ofNat 16 (2 ^ hd.val) } })

/-- Droop detectors, margin monitors, cap windows and capping headroom (rests on parts of R449, R451, R453, R454, R459). -/
def Obligations.DroopMarginCapAndHeadroom : Prop :=
  (∀ (t : TileId) (s : State), s.hasTile t = true → s.diesOn = true →
    (∀ mv, exec (.droopLevel1 t mv) s = .next (s.modTile t fun v => { v with droop := { v.droop with stretching := true, lowest := v.droop.low mv } })) ∧
    (∀ mv vnom : U16, 100 * mv.toNat < 91 * vnom.toNat → exec (.droopLevel2 t mv vnom) s = .next (s.droopLimit t mv vnom (s.droopEdges t))) ∧
    (∀ mv vnom : U16, 91 * vnom.toNat ≤ 100 * mv.toNat →
      ((s.tile t).droop.stretching = true → exec (.droopLevel2 t mv vnom) s = .next (s.droopLimit t mv vnom 64)) ∧
      ((s.tile t).droop.stretching = false → exec (.droopLevel2 t mv vnom) s = .next s)) ∧
    ((s.tile t).droop.stretching = true → ∃ u, u = { s with draws := s.draws + 1 } ∧ exec (.droopStretchEnd t) s =
      .next (u.modTile t fun v => { v with droop := { v.droop with stretching := false, edges := s.droopEdges t } })) ∧
    ((s.tile t).droop.stretching = false → exec (.droopStretchEnd t) s = .next s) ∧
    (∀ ps : U32, 20 ≤ ps.toInt → exec (.marginMeasure t ps) s = .next (s.modTile t fun v => { v with droop := { v.droop with lowReadings := 0 } })) ∧
    (∀ ps : U32, ps.toInt < 20 → (s.tile t).droop.lowReadings < 9 → exec (.marginMeasure t ps) s =
      .next (s.modTile t fun v => { v with droop := { v.droop with lowReadings := (s.tile t).droop.lowReadings + 1 } })) ∧
    (∀ ps : U32, ps.toInt < 20 → 9 ≤ (s.tile t).droop.lowReadings → ∃ u,
      u = s.modTile t (fun v => { v with droop := { v.droop with lowReadings := 10 } }) ∧
      ((s.tile t).droop.lastEvent = none → exec (.marginMeasure t ps) s =
        .next ((u.modTile t fun v => { v with droop := { v.droop with lastEvent := some s.now } }).postPower (s.partOf t) 3
          (leBytes 1 (s.member.hdOf t) ++ leBytes 1 (colOf t) ++ leBytes 2 (rowOf t) ++ leBytes 4 (unsignedOf 32 ps.toInt) ++
            leBytes 2 (s.clockMhz (s.member.hdOf t))))) ∧
      (∀ at_, (s.tile t).droop.lastEvent = some at_ → s.now < at_ + 3600000000000 → exec (.marginMeasure t ps) s = .next u))) ∧
  (∀ (t : TileId) (s : State), s.hasTile t = true → s.diesOn = false → ∀ (mv vnom : U16) (ps : U32),
    exec (.droopLevel1 t mv) s = .next s ∧ exec (.droopLevel2 t mv vnom) s = .next s ∧ exec (.droopStretchEnd t) s = .next s ∧
    exec (.marginMeasure t ps) s = .next s) ∧
  (∀ (watts : List Nat) (input : Nat) (s : State),
    (s.diesOn = true → exec (.capWindow watts input) s = .next (s.capWindow watts input)) ∧
    (s.diesOn = false → exec (.capWindow watts input) s = .next s)) ∧
  (∀ (input : Nat) (watts : List Nat) (s : State) (p : PartId), (s.part p).present = false → State.capPart input watts s p = s) ∧
  (∀ d w cap : Nat, 4 * nextDuty d w cap ≤ 3 * 2 ^ 32) ∧ (∀ d w cap : Nat, 0 < cap → cap ≤ w → d ≤ dutyMost → d ≤ nextDuty d w cap) ∧
  (∀ (p : PartId) (s : State),
    (s.headroomSpent p = true → exec (.headroomExhausted p) s = .next (s.headroomOut p)) ∧
    (s.headroomSpent p = false → exec (.headroomExhausted p) s = .next s) ∧
    (∀ at_, (s.part p).headroomAt = some at_ → s.now < at_ + 100000000 →
      s.headroomOut p = s.modPart p fun q => { q with dutyHeld := true, headroomHit := true, headroomAt := q.headroomAt }))

/-- What an FC_DROOP_LIMIT record carries (R450). -/
def Obligations.DroopLimitRecord : Prop :=
  ∀ (t : TileId) (mv vnom : U16) (s : State), s.hasTile t = true → s.diesOn = true →
    (100 * mv.toNat < 91 * vnom.toNat ∨ (s.tile t).droop.stretching = true) → ∃ u r, exec (.droopLevel2 t mv vnom) s = .next u ∧
    (∃ sending num, (u.tile t).ward = { (s.tile t).ward.push r with urgent := sending, sent := num }) ∧ (∀ x, x ≠ t → (u.tile x).ward = (s.tile x).ward) ∧
    r.cls = 0x12 ∧ r.unit = 0 ∧ r.pcoord.toNat / 256 = t.px.toNat ∧ r.pcoord.toNat % 256 = t.py.toNat ∧
    r.addr.toNat % 2 ^ 16 = (if (s.tile t).droop.stretching then min (s.tile t).droop.lowest.toNat mv.toNat else mv.toNat) ∧
    r.addr.toNat / 2 ^ 16 = vnom.toNat ∧ r.bit.toNat = (u.tile t).droop.edges ∧ (u.tile t).droop.edges ≤ 64

/-- The debug unlock, the attestation engine, and a cable fitted, pulled or overloaded (rests on parts of R470, R471, R472, R489). -/
def Obligations.UnlockAttestationAndCables : Prop :=
  (∀ (token : Bytes) (s : State),
    (s.power.converters = true → s.power.packageOff = false → s.sec.debug = false →
      (Config.tokenOk token s.nonce s.sec.revoked.toNat = true → exec (.debugUnlock token) s = .next s.unlock) ∧
      (Config.tokenOk token s.nonce s.sec.revoked.toNat = false → exec (.debugUnlock token) s =
        .next { s with sec := { s.sec with nonces := s.sec.nonces + 1 } })) ∧
    (s.sec.debug = true → exec (.debugUnlock token) s = .next s)) ∧
  (∀ s : State, s.unlock.sec.debug = true) ∧
  (∀ s : State,
    (∀ a, s.sec.current = some a → ∃ u, u = s.signed a ∧ exec .attestationSignDone s = .next { u with sec := u.sec.advance }) ∧
    (s.sec.current = none → exec .attestationSignDone s = .next s)) ∧
  (∀ (c : Security) (a : Attest), c.nextSignature = some a →
    c.advance.current = some a ∧ c.advance.queue = c.queue.erase a ∧
    (16 ≤ c.ahead → (∃ x ∈ c.queue, x.link = none) → a.link = none) ∧
    (c.ahead < 16 → (∃ x ∈ c.queue, x.link ≠ none) → a.link ≠ none)) ∧
  (∀ (port : PortId) (s : State),
    (∀ b, (s.port port).cable = b → exec (.cblPrsntChange port b) s = .next s) ∧
    ((s.port port).cable = false → exec (.cblPrsntChange port true) s = .next (s.modPort port fun q => { q with
      cable := true, fullTrained := false, lanes := q.lanes.map fun l => if l.state = .fenced then l else {} })) ∧
    ((s.port port).cable = true → exec (.cblPrsntChange port false) s = .next ((s.lanesLost port).modPort port fun q => { q with
      cable := false, fullTrained := false, lanes := q.lanes.map fun l => if l.state = .fenced then l else {} })) ∧
    ((s.port port).supplyOn = true → exec (.cblSupplyOvercurrent port) s = .next ((s.modPort port fun q => { q with supplyTripped := true }).lanesLost port)) ∧
    ((s.port port).supplyOn = false → exec (.cblSupplyOvercurrent port) s = .next s))

/-- MCTP control, SPDM over MCTP, I3C addresses, and PLDM messages (rests on parts of R468, R472, R475, R476). -/
def Obligations.SidebandMessagesAreAnswered : Prop :=
  (∀ (tr : Transport) (s : State), s.answersOn tr = true →
    (∀ msg e, assignedEid msg = some e → ∃ u, u = { s with sec := { s.sec with eids := kput (transportIndex tr) e s.sec.eids } } ∧
      exec (.mctpControl tr msg) s = .next (u.standardReply tr msg [])) ∧
    (∀ msg, assignedEid msg = none → exec (.mctpControl tr msg) s = .next (s.standardReply tr msg [])) ∧
    (∀ msg, exec (.pldmType0 tr msg) s = .next (s.standardReply tr msg [])) ∧
    (∀ handle : U32, exec (.getPdr tr handle) s = .next (s.standardReply tr (0x51 :: leBytes 4 handle.toNat) [])) ∧
    (∀ (sensor : U16) v, s.power.sensors[Config.sensorIndex sensor.toNat]? = some v →
      (Config.sensorIndex sensor.toNat < 24 → exec (.getSensorReading tr sensor) s =
        .next (s.standardReply tr (0x11 :: leBytes 2 sensor.toNat) (leBytes 4 (unsignedOf 32 v)))) ∧
      (24 ≤ Config.sensorIndex sensor.toNat → exec (.getStateSensorReadings tr sensor) s =
        .next (s.standardReply tr (0x21 :: leBytes 2 sensor.toNat) (leBytes 1 (unsignedOf 8 v))))) ∧
    (∀ msg, Config.spdmSigned msg = true → s.sec.debug = false → exec (.spdmMctp tr msg) s = .next (s.sign { transport := tr, msg := msg })) ∧
    (∀ msg, Config.spdmSigned msg = true → s.sec.debug = true → exec (.spdmMctp tr msg) s = .next (s.sendOn tr spdmError)) ∧
    (∀ msg u a, Config.spdmSigned msg = false → s.spdmReply tr msg = (u, a) → exec (.spdmMctp tr msg) s = .next (u.sendOn tr a))) ∧
  (∀ (st dy : BitVec 7) (s : State), s.answersOn .i3c = true →
    (s.sec.i3cAssigned = false →
      exec (.i3cSetdasa 0x52 dy) s = .next { s with sec := { s.sec with i3cAddr := dy, i3cAssigned := true } } ∧
      exec (.i3cEntdaa dy) s = .next { s with sec := { s.sec with i3cAddr := dy, i3cAssigned := true } }) ∧
    (s.sec.i3cAssigned = true → exec (.i3cEntdaa dy) s = .next s ∧ exec (.i3cSetdasa st dy) s = .next s) ∧
    (st ≠ 0x52 → exec (.i3cSetdasa st dy) s = .next s)) ∧
  (∀ (tr : Transport) (s : State), s.answersOn tr = false → ∀ msg sensor handle,
    exec (.mctpControl tr msg) s = .next s ∧ exec (.pldmType0 tr msg) s = .next s ∧ exec (.getPdr tr handle) s = .next s ∧
    exec (.getSensorReading tr sensor) s = .next s ∧ exec (.getStateSensorReadings tr sensor) s = .next s ∧ exec (.spdmMctp tr msg) s = .next s)

/-- No PLDM or MCTP message changes power, partitions or firmware (R474). -/
def Obligations.MonitoringChangesNothingItDoesNotReport : Prop :=
  ∀ (c : Instr) (s : State),
    ((∃ tr msg, c = .mctpControl tr msg) ∨ (∃ tr msg, c = .spdmMctp tr msg) ∨ (∃ tr msg, c = .pldmType0 tr msg) ∨
      (∃ tr x, c = .getSensorReading tr x) ∨ (∃ tr x, c = .getStateSensorReadings tr x) ∨ (∃ tr x, c = .getPdr tr x) ∨
      (∃ st dy, c = .i3cSetdasa st dy) ∨ (∃ dy, c = .i3cEntdaa dy)) →
    ∃ x n d, exec c s = .next { s with sec := x, draws := n, drbg := d } ∧
      x.fusedSvn = s.sec.fusedSvn ∧ x.revoked = s.sec.revoked ∧ x.debug = s.sec.debug

/-- A mailbox command is taken, held behind an earlier one, or refused with no effect (rests on parts of R416, R417, R418, R419, R433, R434). -/
def Obligations.CommandsAreServedHeldOrRefused : Prop :=
  (∀ (op : Nat) (r : Req) (run : State → Req → Ans) (s : State),
    (s.mboxFree r = false → s.command op r run = s) ∧
    (s.boot.phase = 0 ∨ (s.mbox r.fn r.mbox).acceptSeq ≠ (s.mbox r.fn r.mbox).rspSeq → s.mboxFree r = false) ∧
    (∀ p a, s.mboxFree r = true → s.accept r = a → a.reqPart op r = some p → a.blocked p = true → s.command op r run = { a with waiters := a.waiters ++ [
      { opcode := BitVec.ofNat 16 op, req := r, part := p, since := a.now, queued := true }] }) ∧
    (∀ a st d, s.mboxFree r = true → s.accept r = a → (∀ p, a.reqPart op r = some p → a.blocked p = false) → a.refusal op r = some (st, d) →
      s.command op r run = a.respond r st d []) ∧
    (∀ a, s.takes op r → s.accept r = a → (∀ u st d body, run a r = (u, some (st, d, body)) → s.command op r run = u.respond r st d body) ∧
      (∀ u, run a r = (u, none) → s.command op r run = u))) ∧
  (∀ (r : Req) (s : State), exec (.partQuery r) s = .next (s.command 0x0203 r (onPart State.partQuery)) ∧
    exec (.jobDrain r) s = .next (s.command 0x0404 r (onPart State.jobDrain)) ∧ exec (.faultLog r) s = .next (s.command 0x0801 r State.faultLogRead) ∧
    exec (.fwStatus r) s = .next (s.command 0x0A03 r State.fwStatus)) ∧
  (∀ (r : Req) (s : State) st d body, ((s.respond r st d body).mbox r.fn r.mbox).rspSeq = (s.mbox r.fn r.mbox).acceptSeq ∧
    ((s.respond r st d body).mbox r.fn r.mbox).status = BitVec.ofNat 16 st ∧ ((s.respond r st d body).mbox r.fn r.mbox).rspTag = r.tag ∧
    ((s.respond r st d body).mbox r.fn r.mbox).response = body ∧ ((s.accept r).mbox r.fn r.mbox).acceptSeq = (s.mbox r.fn r.mbox).reqSeq)

/-- IDENTIFY, SET_BIFURCATION, PART_CREATE, PART_DESTROY, PART_QUERY, ROW_REPAIR, CHANNEL_RANGE, WINDOW_READ (rests on parts of R167, R170, R175,
R177, R233, R403, R413, R434). -/
def Obligations.IdentityPartitionAndMemoryCommands : Prop :=
  (∀ (r : Req) (s a : State), s.accept r = a →
    (s.takes 0x0101 r → exec (.identify r) s = .next (a.respond r 0 0 (leBytes 2 Config.vendor.toNat ++ leBytes 2 Config.device.toNat ++
      leBytes 1 a.member.code ++ [Config.hwRev] ++ leBytes 1 a.boot.slot ++ leBytes 1 a.adminFn.val ++ leBytes 16 Config.serial.toNat ++
      padTo 16 (a.slot a.boot.slot).fw ++ leBytes 8 (a.bifur.1.toNat % 4 + 4 * (a.bifur.2.toNat % 4)) ++ a.fns.toList.map (·.gen)))) ∧
    (s.takes 0x0102 r → rf r 1 1 ≤ 2 →
      (∀ q, (a.part q).present = true → (a.part q).active = false) →
      (rf r 0 1 = 0 → exec (.setBifurcation r) s = .next (({ a with bifurNext := (BitVec.ofNat 8 (rf r 1 1), a.bifurNext.2) } : State).respond r 0 0 [])) ∧
      (rf r 0 1 = 1 → exec (.setBifurcation r) s = .next (({ a with bifurNext := (a.bifurNext.1, BitVec.ofNat 8 (rf r 1 1)) } : State).respond r 0 0 []))) ∧
    (∀ (p : PartId) (f : FnId) hds, s.takes 0x0201 r → a.createRefusal r = none → rf r 0 1 = p.val → rf r 1 1 = f.val → maskBits 16 (rf r 4 2) = hds →
      exec (.partCreate r) s = .next ((((hds.foldl State.pairRows ((a.zeroHds hds).setPart p {
        present := true, owner := f, paired := bitAt (rf r 2 1) 0, hds := BitVec.ofNat 16 (rf r 4 2), faultFrom := a.faultHead })).replaceHds
          hds).rebeat p).respond r 0 0 []))) ∧
  (∀ (r : Req) (s a : State) (p : PartId), s.accept r = a → a.named r.body 0 = some p →
    (s.takes 0x0202 r → (a.part p).active = false → (a.part p).applies = [] →
      ∃ u v w : State, u = ((List.finRange 16).filter fun i => (a.port i).part = some p).foldl State.freePort
          ((a.boundaryFences p).zeroChans (a.part p).chanFirst (a.part p).chanCount) ∧
        v = u.forTiles (a.tilesOfPart p) (fun s t => s.modTile t Tile.unprogram) ∧
        w = { v with bindings := v.bindings.filter (fun b => b.2.part ≠ p), flatW := v.flatW.filter (fun e => bitsOf e.2.toNat 30 27 ≠ p.val)
                     flatE := v.flatE.filter fun e => bitsOf e.2.toNat 30 27 ≠ p.val } ∧
        exec (.partDestroy r) s = .next (((w.setPart p {}).replaceHds (a.part p).hdList).respond r 0 0 [])) ∧
    (s.takes 0x0203 r → exec (.partQuery r) s = .next (a.respond r 0 0 (leBytes 1 (a.part p).owner.val ++ leBytes 1 (a.part p).flagsByte ++
      leBytes 6 (a.part p).hds.toNat ++ leBytes 8 (a.part p).jobTag.toNat ++ leBytes 8 (a.part p).step.toNat ++ leBytes 8 (a.part p).attempt ++
      leBytes 8 (a.part p).slot ++ leBytes 8 (a.part p).beat ++ leBytes 4 (a.part p).pUs ++ leBytes 2 (a.part p).s ++
      leBytes 2 (if (a.part p).job = .running then (a.part p).k else 0) ++ leBytes 8 0))) ∧
    (s.takes 0x0303 r → (a.part p).running = false → ∃ rows u, rows = (a.stacksOf p).flatMap a.stackRows ∧ u = rows.foldl State.repairRow a ∧
      exec (.rowRepair r) s = .next (u.respond r 0 0 (leBytes 2 (rows.length - (u.rowsBad.length - a.rowsBad.length)) ++
        leBytes 2 (u.rowsBad.length - a.rowsBad.length)))) ∧
    (s.takes 0x0304 r → (a.part p).active = false → rf r 4 4 + rf r 8 4 ≤ 2 ^ 20 →
      (∀ q, q ≠ p → (a.part q).present = true → rangesMeet (rf r 4 4) (rf r 8 4) (a.part q).chanFirst (a.part q).chanCount = false) →
      exec (.channelRange r) s = .next ((((a.zeroChans (a.part p).chanFirst (a.part p).chanCount).zeroChans (rf r 4 4) (rf r 8 4)).modPart p fun q => { q with
        chanFirst := if rf r 8 4 = 0 then 0 else rf r 4 4, chanCount := rf r 8 4 }).respond r 0 0 [])) ∧
    (∀ t, s.takes 0x0306 r → a.tileOfN p (rf r 2 2) = some t → rf r 2 2 ∈ a.nsOfPart p → exec (.windowRead r) s =
      .next (a.respond r 0 0 ((a.tile t).windows.toList.flatMap Window.bytes ++ (a.tile t).windows.toList.flatMap fun w => leBytes 4 w.refused.toNat))))

/-- The commands marked S: with STAGE recorded in the pending set, without it applied at the first beat that suits (rests on parts of R171, R179,
R231, R323, R425, R428, R429, R435, R440, R442, R447, R452). -/
def Obligations.StagedCommandsAreRecordedOrAppliedAtABeat : Prop :=
  ∀ (c : Instr) (op : Nat) (r : Req) (s a : State) (p : PartId), s.accept r = a → s.takes op r →
    ((a.named r.body 0 = some p ∧ (
      (c = .partParams r ∧ op = 0x0204 ∧ rf r 2 1 ≤ 48 ∧ (rf r 4 4 = 0 ∨ 100 ≤ rf r 4 4 ∧ rf r 4 4 ≤ 1000000)) ∨
      (c = .regionState r ∧ op = 0x0301 ∧ rf r 1 1 ≤ 2 ∧ 1 ≤ rf r 2 2 ∧ rf r 2 2 ≤ 512 ∧ ∀ i, i < rf r 2 2 →
        (a.part p).hasHd ((rf r 4 4 + i) / 32) = true ∧ rf r 4 4 + i ∉ a.regionsHeld p ∧ pintleRegion (rf r 4 4 + i) = false ∧
        (rf r 1 1 = 0 ∨ rf r 4 4 + i ∉ a.regionsBound p)) ∨
      (c = .bankPower r ∧ op = 0x0302 ∧ rf r 4 4 &&& rf r 8 4 = 0 ∧ (∀ g, (a.part p).program = some g → rf r 4 4 &&& g.bankMask.toNat = 0) ∧
        ∀ x ∈ a.chanSpans p ++ (a.holders p).flatMap (fun t => (a.tile t).bankSpans), ∀ i, i < (x.2 + 63) / 64 →
          bitAt (rf r 4 4) (a.member.bankOf (x.1 + 64 * i)) = false) ∨
      (c = .flatSet r ∧ op = 0x0305 ∧ 1 ≤ rf r 2 2 ∧ rf r 2 2 ≤ 252 ∧ ∀ i, i < rf r 2 2 → rf r (8 + 8 * i) 4 < 2 ^ 19 ∧
        (bitAt (rf r (12 + 8 * i) 4) 31 = true → bitsOf (rf r (12 + 8 * i) 4) 30 27 = p.val ∧ 3 ≤ bitsOf (rf r (12 + 8 * i) 4) 2 0 ∧
          bitsOf (rf r (12 + 8 * i) 4) 12 8 < a.member.gx ∧
          bitsOf (rf r (12 + 8 * i) 4) 7 3 * a.member.gx + bitsOf (rf r (12 + 8 * i) 4) 12 8 ∈ a.nsOfPart p)) ∨
      (c = .jobStart r ∧ op = 0x0403 ∧ (a.part p).running = false ∧ (a.part p).awaits 0x0403 = false ∧ (a.part p).manifest ≠ none ∧
        (a.part p).program ≠ none ∧ (a.part p).active = true ∧ (a.part p).reload = false ∧ (a.part p).slowDue = false ∧ (a.part p).resetDue = false ∧
        a.exitsAdmitted p = true ∧ a.anyIdle r p = false) ∨
      (c = .jobResume r ∧ op = 0x0406 ∧ ((a.part p).freeze = some .drained ∨ (a.part p).freeze = some .abandoned) ∧ (a.part p).awaits 0x0406 = false ∧
        (a.part p).reload = false ∧ (a.part p).slowDue = false ∧ a.anyIdle r p = false ∧
        (∀ n ∈ a.nsOfPart p, ∀ t, a.tileOfN p n = some t → a.imageRefusal p n t (a.areaRead p (a.saveArea p n)).2 = none)) ∨
      (c = .dlistSet r ∧ op = 0x0407 ∧ rf r 1 1 ≤ 7 ∧ (rf r 2 1 = 0 ∨ 4 ≤ rf r 2 1 ∧ rf r 2 1 ≤ 16 ∧ rf r 8 8 % 4096 = 0 ∧
        (a.part p).inRange (rf r 8 8) (128 + 128 * 2 ^ rf r 2 1) = true)) ∨
      (∃ i : PortId, c = .shadowSet r ∧ op = 0x0602 ∧ rf r 2 1 = i.val ∧ (a.port i).part = some p ∧ rf r 4 4 ≠ 0 ∧ rf r 8 8 < 2 ^ 48 ∧
        (∃ x ∈ (a.port i).links, ((a.port i).link x).state = .admitted) ∧ (rf r 1 1 = 1 ∨ rf r 1 1 = 2 ∧ (a.part p).running = false)) ∨
      (c = .shadowStop r ∧ op = 0x0603) ∨ (c = .promote r ∧ op = 0x0605 ∧ a.promoteRefusal r p = none) ∨
      (c = .insert r ∧ op = 0x0606 ∧ rf r 1 1 ≠ 0 ∧ (rf r 2 2 = 0xFFFF ∨ ∃ x ∈ (a.part p).tests, x.1 = rf r 2 2) ∧
        (bitAt (rf r 4 1) 0 = true → (a.part p).restoreRows ≠ [])) ∨
      (c = .exitTable r ∧ op = 0x0703 ∧ ∀ d, d < 6 → bitAt (rf r (2 + d) 1) 7 = true → ∀ i : PortId, i.val = rf r (2 + d) 1 % 16 → (a.port i).part = some p) ∨
      (c = .powerState r ∧ op = 0x0901 ∧ rf r 0 1 ≠ 0xFF ∧ a.owns r.fn p = true ∧ rf r 1 1 ≤ 2 ∧ maskBits 16 (rf r 2 2) ≠ [] ∧
        (∀ hd ∈ maskBits 16 (rf r 2 2), (a.part p).hasHd hd = true) ∧
        (rf r 1 1 = 2 → (a.part p).running = false ∧ (a.part p).awaits 0x0403 = false ∧ ∀ x ∈ (a.part p).pending, x.opcode ≠ 0x0403) ∧
        (rf r 1 1 = 1 → ∀ g, (a.part p).program = some g → g.budget.minClock ≠ 0)) ∨
      (c = .capSet r ∧ op = 0x0902 ∧ 150 * (a.part p).hdList.length ≤ rf r 4 4 ∧ rf r 4 4 ≤ 600 * (a.part p).hdList.length) ∨
      (c = .svcUnbind r ∧ op = 0x0C02 ∧ a.bindingOf p (rf r 2 2) ≠ none) ∨
      (∃ b, c = .svcClients r ∧ op = 0x0C03 ∧ a.bindingOf p (rf r 2 2) = some b ∧ 1 ≤ rf r 4 2 ∧ rf r 4 2 ≤ 84 ∧
        (clientsAfter r (b.clients.map (·.1))).length ≤ b.f 34 2))) ∨
     (∃ i, portNamed r.body = some i ∧ (a.port i).part = some p ∧ a.linkNamed r i ≠ none ∧
      ((c = .remove r ∧ op = 0x0707) ∨ (c = .portCaps r ∧ op = 0x0708)))) →
    (bitAt r.flags.toNat 0 = true →
      ((a.part p).apply = none → (recordChange { opcode := BitVec.ofNat 16 op, req := r } (a.part p).pending).length ≤ 256 → exec c s =
        .next ((a.modPart p fun q => { q with pending := recordChange { opcode := BitVec.ofNat 16 op, req := r } q.pending }).respond r 0 0 [])) ∧
      ((a.part p).apply ≠ none → exec c s = .next (a.respond r busy 0 []))) ∧
    (bitAt r.flags.toNat 0 = false →
      (∀ y : Apply, (a.part p).running = false →
        y = { changes := [{ opcode := BitVec.ofNat 16 op, req := r }], beat := a.directBeat op r p, req := r, opcode := BitVec.ofNat 16 op, direct := true,
              hold := false, committed := false, units := a.unitsOf p [{ opcode := BitVec.ofNat 16 op, req := r }] } →
        a.windowOk429 p y = true → exec c s = .next (a.modPart p fun q => { q with direct := q.direct ++ [y] })) ∧
      ((a.part p).running = true → exec c s = .next (a.respond r busy 0 [])))

/-- What each change does in the boundary slot of the beat it applies at (rests on parts of R171, R231, R281, R316, R322, R425, R428, R447,
R452). -/
def Obligations.AppliedChangesTakeEffect : Prop :=
  (∀ (p : PartId) (B : Nat) (r : Req) (s : State),
    (rf r 1 1 ≠ 0 → rf r 2 1 ≠ 0 → rf r 4 4 ≠ 0 → State.applyChange p B s ⟨0x0204, r⟩ =
      s.modPart p fun q => { q with hangW := rf r 1 1, rate := rf r 2 1, replyUs := rf r 4 4 }) ∧
    (rf r 1 1 = 0 → rf r 2 1 = 0 → rf r 4 4 = 0 → State.applyChange p B s ⟨0x0204, r⟩ = s.modPart p fun q => q) ∧
    State.applyChange p B s ⟨0x0301, r⟩ = (List.range (rf r 2 2)).foldl (fun s i => s.setRegion (rf r 4 4 + i) (rf r 1 1)) s ∧
    State.applyChange p B s ⟨0x0302, r⟩ = s.forTiles (s.tilesOfPart p) (fun s t => s.modTile t fun v => v.bankPower (rf r 4 4) (rf r 8 4) ((s.part p).t B + 8)) ∧
    State.applyChange p B s ⟨0x0305, r⟩ = s.flatSet r ∧
    State.applyChange p B s ⟨0x0403, r⟩ = s.jobBegin p (rf r 8 6) B ∧
    State.applyChange p B s ⟨0x0406, r⟩ = s.jobResume p B ∧
    State.applyChange p B s ⟨0x0602, r⟩ = s.modPart p (fun q => q.shadowSet r) ∧
    State.applyChange p B s ⟨0x0603, r⟩ = s.shadowStop p ∧
    State.applyChange p B s ⟨0x0605, r⟩ = s.promoteApply p r ∧
    State.applyChange p B s ⟨0x0703, r⟩ = s.modPart p (fun q => q.exitSet r) ∧
    (∀ i : PortId, rf r 0 1 = i.val → State.applyChange p B s ⟨0x0707, r⟩ = s.removeLink i (sessByte (rf r 1 1)) ∧
      State.applyChange p B s ⟨0x0708, r⟩ = s.modLink i (sessByte (rf r 1 1)) fun l => { l with
        caps := (List.range 8).map fun k => BitVec.ofNat 32 (rf r (4 + 4 * k) 4) }) ∧
    State.applyChange p B s ⟨0x0901, r⟩ = s.hdPower (rf r 1 1) (rf r 2 2) ∧
    State.applyChange p B s ⟨0x0902, r⟩ = s.modPart p (fun q => { q with capW := rf r 4 4, capSet := true }) ∧
    State.applyChange p B s ⟨0x0C02, r⟩ = s.svcEnd (rf r 2 2) ∧
    State.applyChange p B s ⟨0x0C03, r⟩ = s.svcClients r ∧
    (∀ i : Fin 8, rf r 1 1 = i.val →
      (rf r 2 1 = 0 → State.applyChange p B s ⟨0x0407, r⟩ = s.modPart p fun q => { q with dlists := q.dlists.set i none }) ∧
      (rf r 2 1 ≠ 0 → State.applyChange p B s ⟨0x0407, r⟩ = s.modPart p fun q => { q with
        dlists := q.dlists.set i (some { base := BitVec.ofNat 64 (rf r 8 8), log2 := rf r 2 1 }) }))) ∧
  (∀ (x : Nat) (s : State),
    (s.setRegion x 2).dram = s.dram.filter (fun c => c.1 / 2 ^ 33 ≠ x) ∧ (s.setRegion x 2).region x = .off ∧
    (s.region x = .off → (s.setRegion x 0).region x = .zeroing) ∧ (s.region x = .selfRefresh → (s.setRegion x 0).regions = kdel x s.regions ∧ (s.setRegion x 0).dram = s.dram) ∧
    (s.setRegion x 1).region x = .selfRefresh) ∧
  (∀ (p : PartId) (h : Shadow) (s : State), (s.part p).shadow = some h →
    (h.role = 2 → s.shadowStop p = (s.stopTiles p).modPart p fun q => { q with shadow := some { h with state := 3 }, freeze := some .diverged }) ∧
    (h.role ≠ 2 → s.shadowStop p = s.modPart p fun q => { q with shadow := none }))

/-- PROG_LOAD, PROG_UNLOAD, JOB_DRAIN, JOB_ABANDON, SCAN, APPLY, STAGE_CANCEL, STAGE_READ, SEAM_RESET, TIME_OFFSET, TSYNC, MANIFEST_LOAD,
SHADOW_READ (rests on parts of R44, R45, R60, R208, R209, R210, R254, R281, R429, R430, R440, R443). -/
def Obligations.JobStagingTimeAndShadowCommands : Prop :=
  (∀ (r : Req) (s a : State) (p : PartId), s.accept r = a → a.named r.body 0 = some p →
    (∀ bs, s.takes 0x0401 r → (a.part p).active = false → a.readable p (rf r 8 8) (rf r 16 8) = true → a.partRead p (rf r 8 8) (rf r 16 8) = bs →
      a.setRefusal p bs = none → exec (.progLoad r) s = .next (((a.pintleRead p (rf r 8 8) (rf r 16 8)).takeSet p (rf r 8 8) (rf r 16 8) bs).respond r 0 0 [])) ∧
    (s.takes 0x0402 r → (a.part p).running = false → exec (.progUnload r) s = .next ((a.unloadPart p).respond r 0 0 [])) ∧
    (s.takes 0x0404 r → (a.part p).running = true → exec (.jobDrain r) s =
      .next ((a.modPart p fun q => { q with draining := true }).await 0x0404 r p 0)) ∧
    (s.takes 0x0405 r → (a.part p).running = true → (a.part p).oneModule = true → exec (.jobAbandon r) s =
      .next ((a.modPart p fun q => { q with abandoning := true }).await 0x0405 r p 0)) ∧
    (s.takes 0x0405 r → (a.part p).running = true → (a.part p).oneModule = false → exec (.jobAbandon r) s = .next (a.respond r denied 0 [])) ∧
    (s.takes 0x0502 r → (a.part p).apply = none → exec (.stageCancel r) s = .next ((a.modPart p fun q => { q with pending := [] }).respond r 0 0 [])) ∧
    (s.takes 0x0503 r → exec (.stageRead r) s =
      .next (a.respond r 0 0 (leBytes 8 (a.part p).pending.length ++ (a.part p).pending.flatMap fun c => leBytes 2 c.opcode.toNat))) ∧
    (s.takes 0x0505 r → (a.part p).running = false → exec (.timeOffset r) s =
      .next (((a.modPart p fun q => { q with offset := signedOf 64 (rf r 8 8) }).beatNow p).respond r 0 0 [])) ∧
    (∀ bs m, s.takes 0x0601 r → (a.part p).active = false → a.readable p (rf r 8 8) (rf r 16 4) = true → a.partRead p (rf r 8 8) (rf r 16 4) = bs →
      a.manifestRefusal p bs (rf r 2 2) = none → m = parseManifest bs (BitVec.ofNat 16 (rf r 2 2)) →
      exec (.manifestLoad r) s = .next (((a.pintleRead p (rf r 8 8) (rf r 16 4)).modPart p fun q => { q with manifest := some m }).respond r 0 0 m.digest)) ∧
    (∀ h, s.takes 0x0604 r → (a.part p).shadow = some h → exec (.shadowRead r) s =
      .next (a.respond r 0 0 (leBytes 4 h.cleanRun ++ leBytes 4 h.target ++ [h.state]))) ∧
    (s.takes 0x0604 r → (a.part p).shadow = none → exec (.shadowRead r) s = .next (a.respond r 0 0 (List.replicate 9 0)))) ∧
  (∀ (r : Req) (s a : State) (p : PartId), s.accept r = a → a.named r.body 0 = some p → s.takes 0x0501 r →
    (∀ y : Apply, (a.part p).apply = none → (a.part p).pending ≠ [] → (∀ x ∈ (a.part p).pending, (a.part p).suits (rf r 8 6) x = true) →
      y = { changes := (a.part p).pending, beat := rf r 8 6, req := r, opcode := 0x0501, direct := false, hold := bitAt r.flags.toNat 1, committed := false,
            units := a.unitsOf p (a.part p).pending } →
      a.windowOk429 p y = true → exec (.apply r) s = .next (a.modPart p fun q => { q with apply := some y })) ∧
    ((a.part p).apply = none → (a.part p).pending = [] → exec (.apply r) s = .next (a.respond r notReady 0 [])) ∧
    (∀ y, (a.part p).apply = some y → y.hold = true → y.committed = false → bitAt r.flags.toNat 1 = false → y.beat = rf r 8 6 → y.held = true →
      exec (.apply r) s = .next ((a.modPart p fun q => { q with apply := some { y with committed := true } }).respond r 0 0 []))) ∧
  (∀ (r : Req) (s a : State) (p : PartId) (t : TileId), s.accept r = a → a.named r.body 0 = some p → s.takes 0x0408 r →
    a.tileOfN p (rf r 2 2) = some t → rf r 2 2 ∈ a.nsOfPart p → (a.part p).freeze ≠ none → rf r 8 8 % 64 = 0 →
    (∀ k, (rf r 1 1 = 1 ∧ k = 8192 ∨ rf r 1 1 = 2 ∧ k = 98304) →
      ((rf r 4 1 = 0 ∧ a.readable p (rf r 8 8) k = true) ∨ (rf r 4 1 = 1 ∧ inSpad (rf r 8 8) k = true)) →
      (rf r 1 1 = 2 → exec (.scan r) s = .next ((a.scanOutTo p (rf r 2 2) t r).respond r 0 0 [])) ∧
      (rf r 1 1 = 1 → exec (.scan r) s = .next (a.await 0x0408 r p 0))) ∧
    (rf r 1 1 = 3 → rf r 4 1 = 0 → a.readable p (rf r 8 8) 8192 = true → exec (.scan r) s = .next (a.await 0x0408 r p 0))) ∧
  (∀ (r : Req) (b : State) (p : PartId) (t : TileId), b.tileOfN p (rf r 2 2) = some t → (b.part p).freeze ≠ none →
    (rf r 1 1 = 1 → b.scanServe p r = (b.scanOutTo p (rf r 2 2) t r, 0, 0)) ∧
    (∀ u bs, rf r 1 1 = 3 → b.areaRead p (rf r 8 8) = (u, bs) →
      (∀ st d, b.imageRefusal p (rf r 2 2) t bs = some (st, d) → b.scanServe p r = (u, st, d)) ∧
      (b.imageRefusal p (rf r 2 2) t bs = none → b.scanServe p r =
        ((u.forTiles (b.tilesAt p (rf r 2 2)) fun s x => s.modTile x fun v => v.reload (parseEntry (bs.getD []))).armGen p, 0, 0)) ∧
      (b.retiredEcc p (rf r 8 8) 8192 .clean = .clean → u = b ∧ bs = some (b.partRead p (rf r 8 8) 8192) ∧
        b.imageRefusal p (rf r 2 2) t bs = b.scanRefusal p (rf r 2 2) t (b.partRead p (rf r 8 8) 8192))) ∧
    (rf r 4 1 = 0 → b.scanOutTo p (rf r 2 2) t r = b.partWrite p (rf r 8 8) (b.scanOut p (rf r 2 2) t (rf r 1 1))) ∧
    (∀ w, rf r 4 1 = 1 → (b.tile t).placeRun b.member (b.stepAt t) 6 (rf r 8 8) (b.scanOut p (rf r 2 2) t (rf r 1 1)) = w →
      (w.2 = none → b.scanOutTo p (rf r 2 2) t r = b.setTile t w.1) ∧
      (∀ x, w.2 = some x → b.scanOutTo p (rf r 2 2) t r = (b.setTile t w.1).tileFault t { cls := 0x10, eng := 6, addr := x, clears := false }))) ∧
  (∀ (r : Req) (s a : State), s.accept r = a →
    (∀ m : SeamMeasure, s.takes 0x0504 r → rf r 0 2 ∈ a.member.seamIds → rf r 2 1 ≤ 1 → (∀ p ∈ a.seamParts (rf r 0 2), (a.part p).active = false) →
      m = { id := BitVec.ofNat 16 (rf r 0 2), worstP := Config.seamDelay (rf r 0 2) a.draws false, worstR := Config.seamDelay (rf r 0 2) a.draws true,
            marginPs := Config.seamMargin (rf r 0 2) a.draws, calibrated := true } →
      ∃ u, u = a.modSeam (rf r 0 2) (fun x => { x.calibrated m (rf r 2 1 = 1) with
          latP := min (x.calibrated m (rf r 2 1 = 1)).latP 255, latR := min (x.calibrated m (rf r 2 1 = 1)).latR 255, faults := 0 }) ∧
        exec (.seamReset r) s = .next ((({ u with draws := u.draws + 1 } : State).clearSeamDefects (rf r 0 2)).respond r 0 0 ((u.seam (rf r 0 2)).bytes (rf r 0 2)))) ∧
    (s.takes 0x0506 r → rf r 0 1 ≤ 1 → ∃ (n : U32) (u : State), n = (if rf r 0 1 = 1 ∧ a.tsyncEn = false then 0 else a.tsyncCaptures) ∧
      u = { a with tsyncEn := decide (rf r 0 1 = 1), tsyncCaptures := n } ∧
      exec (.tsync r) s = .next (u.respond r 0 0 (leBytes 8 a.tsyncCapture.toNat ++ leBytes 4 n.toNat))))

/-- PORT_MODE, PORT_ASSIGN, ETH_CONFIG, ETH_PEER, ADMIT, PORT_READ, and REMOVE and PORT_CAPS of a port of no partition (rests on parts of R283,
R284, R295, R303, R304, R306, R313, R316, R322). -/
def Obligations.PortCommands : Prop :=
  (∀ (r : Req) (s a : State) (i : PortId), s.accept r = a → portNamed r.body = some i →
    (∀ u, s.takes 0x0701 r → rf r 1 1 ≤ 6 → (rf r 2 1 = 0 ∨ rf r 2 1 = 1 ∧ rf r 1 1 = 3) → a.portHeld i = false →
      (∀ w ∈ a.waiters, w.opcode ≠ 0x0701) →
      u = (a.linksDown i .down).modPort i (fun q => q.retrain (BitVec.ofNat 8 (rf r 1 1)) (BitVec.ofNat 8 (rf r 2 1))) →
      (rf r 1 1 = 0 → exec (.portMode r) s = .next (u.respond r 0 0 (u.port i).laneBytes)) ∧
      (rf r 1 1 ≠ 0 → exec (.portMode r) s = .next (u.await 0x0701 r (a.portPart i) i.val))) ∧
    (s.takes 0x0701 r → rf r 1 1 ≤ 6 → rf r 2 1 = 0 → a.portHeld i = true → exec (.portMode r) s = .next (a.respond r busy 0 [])) ∧
    (s.takes 0x0702 r → rf r 1 1 = 0xFF → (∀ p, (a.port i).part = some p → (a.part p).active = false) →
      exec (.portAssign r) s = .next ((a.assignPort i none).respond r 0 0 [])) ∧
    (∀ p, s.takes 0x0702 r → rf r 1 1 ≠ 0xFF → a.named r.body 1 = some p → ((a.port i).part = none ∨ (a.port i).part = some p) → (a.part p).active = false →
      exec (.portAssign r) s = .next ((a.assignPort i (some p)).respond r 0 0 [])) ∧
    (s.takes 0x0704 r → a.portHeld i = false → exec (.ethConfig r) s = .next ((a.modPort i fun q => { q with eth := {
      ipv6 := bitAt (rf r 1 1) 0, udp := if rf r 2 2 = 0 then 50000 else BitVec.ofNat 16 (rf r 2 2), dscp := (r.body.drop 4).take 8
      mac := (r.body.drop 12).take 6, ip := (r.body.drop 20).take 16, nextHop := (r.body.drop 36).take 6 } }).respond r 0 0 [])) ∧
    (s.takes 0x0705 r → 1 ≤ rf r 2 2 → rf r 2 2 ≤ 64 → a.portHeld i = false → (a.port i).isEth = false → exec (.ethPeer r) s =
      .next ((a.modPort i fun q => { q with sessions := (List.range (rf r 2 2)).map fun k => (k, {
        state := .down, devId := BitVec.ofNat 32 (rf r (8 + 24 * k) 4), ip := (r.body.drop (12 + 24 * k)).take 16 }) }).respond r 0 0 [])) ∧
    (s.takes 0x0705 r → 1 ≤ rf r 2 2 → rf r 2 2 ≤ 64 → a.portHeld i = false → (a.port i).isEth = true → (a.port i).isUp = true →
      exec (.ethPeer r) s = .next (((a.linksDown i .down).modPort i fun q => { q with sessions := (List.range (rf r 2 2)).map fun k => (k, {
        state := .up, devId := BitVec.ofNat 32 (rf r (8 + 24 * k) 4), ip := (r.body.drop (12 + 24 * k)).take 16 }) }).respond r 0 0 [])) ∧
    (∀ x, a.linkNamed r i = some x →
      (s.takes 0x0706 r → (a.link i x).state ≠ .down → (a.link i x).adm = none → ((a.port i).isFlat = true ∨ ∃ p, (a.port i).part = some p ∧ (a.part p).manifest ≠ none) →
        exec (.admitPort r) s = .next ((a.admBegin i x).await 0x0706 r (a.portPart i) (linkKey i x))) ∧
      (s.takes 0x0706 r → (a.link i x).state = .down → exec (.admitPort r) s = .next (a.respond r notReady 0 [])) ∧
      (s.takes 0x0709 r → ∃ l, l = a.link i x ∧ exec (.portRead r) s = .next (a.respond r 0 0 (leBytes 1 (linkStateCode l.state) ++
        (a.port i).laneBytes ++ leBytes 6 l.reason.toNat ++ leBytes 8 ((l.partner.map fun h => h.device.toNat).getD 0) ++ leBytes 4 l.latchNs ++
        leBytes 4 (unsignedOf 32 l.offsetNs) ++ leBytes 4 l.replays.toNat ++ leBytes 4 l.resets.toNat ++ leBytes 4 l.refusals.toNat ++
        leBytes 4 l.protocol.toNat ++ leBytes 4 l.lateHb.toNat))) ∧
      (s.takes 0x0707 r → (a.port i).part = none → bitAt r.flags.toNat 0 = false →
        exec (.remove r) s = .next ((a.removeLink i (sessByte (rf r 1 1))).respond r 0 0 [])) ∧
      (s.takes 0x0708 r → (a.port i).part = none → bitAt r.flags.toNat 0 = false → exec (.portCaps r) s =
        .next ((a.modLink i (sessByte (rf r 1 1)) fun l => { l with caps := (List.range 8).map fun k => BitVec.ofNat 32 (rf r (4 + 4 * k) 4) }).respond r 0 0 []))))

/-- FAULT_LOG, STEP_LOG, FACET_LOG, MAP_READ, SEAM_READ, COUNTERS, RECORD_READ (rests on parts of R59, R120, R271, R278, R327, R329, R334, R342,
R361, R390, R414). -/
def Obligations.HealthReadCommands : Prop :=
  (∀ (r : Req) (s a : State), s.accept r = a →
    (∀ seen, s.takes 0x0801 r → seen = (a.faultLog.filter fun x => rf r 4 4 ≤ x.1 && a.seesFault r.fn x.1 x.2).take 31 → ∃ n,
      exec (.faultLog r) s = .next (a.respond r 0 0 (leBytes 4 a.faultHead ++ leBytes 4 seen.length ++ leBytes 8 n ++ seen.flatMap fun x => x.2.bytes)) ∧
      (seen.length < 31 → n = max (rf r 4 4) a.faultHead)) ∧
    (∀ p, s.takes 0x0802 r → a.named r.body 0 = some p → ∃ recs, recs = (logFrom (a.part p).stepLog (a.part p).stepHead (rf r 4 4)).take 63 ∧
      exec (.stepLog r) s = .next (a.respond r 0 0 (leBytes 4 (a.part p).stepHead ++ leBytes 4 recs.length ++ recs.flatMap StepRec.bytes))) ∧
    (∀ p, s.takes 0x0803 r → a.named r.body 0 = some p → ∃ recs,
      recs = takeWhole 2032 ((logFrom (a.part p).facetLog (a.part p).facetHead (rf r 4 4)).map FacetEntry.bytes) ∧
      exec (.facetLog r) s = .next (a.respond r 0 0 (leBytes 4 (a.part p).facetHead ++ leBytes 4 recs.length ++ recs.flatten))) ∧
    (s.takes 0x0804 r → rf r 1 1 ≤ 1 → rf r 4 2 = 0 → exec (.mapRead r) s = .next (a.respond r 0 0 a.rowBytes)) ∧
    (∀ p entry, s.takes 0x0804 r → rf r 1 1 ≤ 1 → rf r 4 2 ≠ 0 → rf r 4 2 ≤ 956 → a.named r.body 0 = some p →
      entry = (fun k => if rf r 1 1 = 0 then a.activeEntry k else ((kget k a.slowPlan).getD 0).toNat) →
      ((a.owns r.fn p = true ∨ a.adminFn = r.fn) → rf r 2 2 + rf r 4 2 ≤ a.member.gx * a.member.gy → exec (.mapRead r) s =
        .next (a.respond r 0 0 (a.rowBytes ++ (List.range (rf r 4 2)).flatMap fun i =>
          leBytes 2 (if (a.nsOfPart p).contains (rf r 2 2 + i) then entry (a.keyOfN p (rf r 2 2 + i)) else 0)))) ∧
      (a.owns r.fn p = false → a.adminFn ≠ r.fn → exec (.mapRead r) s = .next (a.respond r denied 0 []))) ∧
    (s.takes 0x0805 r → exec (.seamRead r) s = .next (a.respond r 0 0 (a.member.seamIds.flatMap fun id => (a.seam id).bytes id)))) ∧
  (∀ (r : Req) (s a : State) (t : TileId) (v : Tile), s.accept r = a → s.takes 0x0806 r → a.tile t = v →
    ((bitAt (rf r 1 1) 1 = true ∧ a.adminFn = r.fn ∧ a.tileNamed (rf r 4 1) (rf r 5 1) (rf r 6 1) = some t) ∨
      (bitAt (rf r 1 1) 1 = false ∧ ∃ p, a.named r.body 0 = some p ∧ a.position p (rf r 2 2) = some t ∧ (a.owns r.fn p = true ∨ a.adminFn = r.fn))) →
    (bitAt (rf r 1 1) 0 = false → exec (.counters r) s =
      .next (a.respond r 0 0 (padTo 64 v.counters.bytes ++ leBytes 4 (wardWord v.ward (a.heldKey t).isSome) ++ leBytes 4 v.load.status.toNat))) ∧
    (bitAt (rf r 1 1) 0 = true → exec (.counters r) s = .next ((a.modTile t fun v => { v with counters := {} }).respond r 0 0
      (padTo 64 v.counters.bytes ++ leBytes 4 (wardWord v.ward (a.heldKey t).isSome) ++ leBytes 4 v.load.status.toNat)))) ∧
  (∀ (r : Req) (s a : State) (obj : Bytes), s.accept r = a → s.takes 0x0807 r → 1 ≤ rf r 8 2 → rf r 8 2 ≤ 2032 →
    ((rf r 0 1 = 1 ∧ a.adminFn = r.fn ∧ obj = a.fuseBytes) ∨ (rf r 0 1 = 2 ∧ a.adminFn = r.fn ∧ obj = a.defectBytes) ∨
      (rf r 0 1 = 3 ∧ obj = a.boot.log.flatMap StartRec.bytes) ∨ (rf r 0 1 = 4 ∧ obj = a.boot.report) ∨
      (rf r 0 1 = 5 ∧ obj = a.testResults.flatMap BistRecord.bytes)) →
    exec (.recordRead r) s = .next (a.respond r 0 0 (leBytes 8 obj.length ++ (obj.drop (rf r 4 4)).take (rf r 8 2))))

/-- TEST, FENCE, CLEAR_DEFECT, RESET, COLD_START, START_CLEAR (rests on parts of R331, R336, R344, R366, R371, R381, R400, R437). -/
def Obligations.TestFenceDefectAndResetCommands : Prop :=
  (∀ (r : Req) (s a : State) (t : TileId), s.accept r = a →
    (s.takes 0x0808 r → bitAt (rf r 1 1) 0 = true → a.tileNamed (rf r 4 1) (rf r 5 1) (rf r 6 1) = some t → a.ownsTile r.fn t = true → a.nOf t = none →
      ((a.tile t).ward.test = true → exec (.test r) s = .next (a.respond r busy 0 [])) ∧
      ((a.tile t).ward.test = false → (a.heldKey t = none ∨ ∃ p, a.partOf t = some p) → ∃ u, u = { a with testResults := [] } ∧
        exec (.test r) s = .next ((u.modTile t Tile.startTest).respond r 0 0 [0]))) ∧
    (∀ p, s.takes 0x0808 r → bitAt (rf r 1 1) 0 = false → a.named r.body 0 = some p → a.owns r.fn p = true → a.position p (rf r 2 2) = some t →
      a.partOf t = some p → a.nOf t ≠ none → (a.part p).running = false → (a.tile t).ward.test = false → ∃ u, u = { a with testResults := [] } ∧
        exec (.test r) s = .next ((u.fenceSoon t 4).respond r 0 0 [0])) ∧
    (s.takes 0x0809 r → rf r 0 1 = 1 → bitsOf (rf r 8 8) 44 18 = 0 → a.tileNamed (rf r 4 1) (rf r 5 1) (rf r 6 1) = some t → a.partOf t = none →
      exec (.fence r) s = .next (((a.tileDefect t 4 0 0 0).fenceIdle t false).respond r 0 0 [])) ∧
    (∀ p, s.takes 0x0809 r → rf r 0 1 = 1 → bitsOf (rf r 8 8) 44 18 = 0 → a.tileNamed (rf r 4 1) (rf r 5 1) (rf r 6 1) = some t → a.partOf t = some p → a.nOf t ≠ none →
      (a.part p).running = true → exec (.fence r) s = .next (a.respond r busy 0 [])) ∧
    (∀ p, s.takes 0x080B r → rf r 0 1 = 3 → a.resetTile r = some t → a.partOf t = some p →
      (a.owns r.fn p = true → exec (.reset r) s =
        .next ((a.modTile t fun v => { v with resetDue := max 1 v.resetDue }).await 0x080B r p (tileResetKey t))) ∧
      (a.owns r.fn p = false → exec (.reset r) s = .next (a.respond r denied 0 [])))) ∧
  (∀ (r : Req) (s a : State), s.accept r = a →
    (∀ (i : PortId) (l : LaneId), s.takes 0x0809 r → rf r 0 1 = 2 → bitsOf (rf r 8 8) 44 18 = 0 → rf r 4 1 = i.val → rf r 5 1 = l.val →
      exec (.fence r) s = .next ((a.laneFence i l 0 4).respond r 0 0 [])) ∧
    (∀ w : U64, s.takes 0x0809 r → rf r 0 1 = 3 → bitsOf (rf r 8 8) 44 18 = 0 → w = BitVec.ofNat 64 (rf r 8 8) → a.rowWord w.toNat = true →
      exec (.fence r) s = .next (((a.markRow w 0).logDefect { kind := 4, source := 4, wher := w }).respond r 0 0 [])) ∧
    (s.takes 0x0809 r → bitsOf (rf r 8 8) 44 18 ≠ 0 → exec (.fence r) s = .next (a.respond r badArg 0 [])) ∧
    (∀ d, s.takes 0x080A r → (a.defects.find? fun d => d.seq.toNat = rf r 4 4 && a.defectActive d) = some d →
      (d.kind ≠ 6 → exec (.clearDefect r) s = .next ((a.logDefect { kind := 7, source := 4, wher := d.wher, detail := d.seq }).respond r 0 0 [])) ∧
      (d.kind = 6 → exec (.clearDefect r) s = .next (a.respond r denied 0 []))) ∧
    (s.takes 0x080A r → (∀ d ∈ a.defects, d.seq.toNat ≠ rf r 4 4) → exec (.clearDefect r) s = .next (a.respond r badArg 0 [])) ∧
    (∀ p, s.takes 0x080B r → rf r 0 1 = 4 → a.named r.body 1 = some p → a.owns r.fn p = true → exec (.reset r) s =
      .next ((a.modPart p fun q => { q with resetDue := true }).await 0x080B r p (partResetKey p))) ∧
    (s.takes 0x080B r → rf r 0 1 = 5 → a.adminFn = r.fn → ∃ u, u = { a with boot := { a.boot with resetDue := true } } ∧
      exec (.reset r) s = .next (u.await 0x080B r 0 deviceResetKey)) ∧
    (s.takes 0x080B r → rf r 0 1 = 6 → a.adminFn = r.fn → ∃ u, u = { a with power := { a.power with cycleDue := true } } ∧
      exec (.reset r) s = .next (u.respond r 0 0 [])) ∧
    (s.takes 0x080B r → (rf r 0 1 = 5 ∨ rf r 0 1 = 6) → a.adminFn ≠ r.fn → exec (.reset r) s = .next (a.respond r denied 0 [])) ∧
    (s.takes 0x080C r → rf r 0 1 ≤ 1 → ∃ u, u = { a with boot := { a.boot with cold := decide (rf r 0 1 = 1) } } ∧
      exec (.coldStart r) s = .next (u.respond r 0 0 [])) ∧
    (s.takes 0x080D r → ∃ u, u = { a with boot := { a.boot with strikes := 0 } } ∧ exec (.startClear r) s = .next (u.respond r 0 0 [])))

/-- POWER_STATE of the module, ENERGY_READ, FW_WRITE, FW_COMMIT, FW_STATUS, SPDM, ADMIN_SET, TELEMETRY, SVC_BIND, SVC_STATS (rests on parts of
R305, R412, R440, R441, R442, R446, R448, R458, R463, R464, R465, R468). -/
def Obligations.PowerFirmwareSecurityAndServiceCommands : Prop :=
  (∀ (r : Req) (s a : State), s.accept r = a →
    (∀ code, s.takes 0x0901 r → rf r 0 1 = 0xFF → a.adminFn = r.fn → rf r 1 1 = code → bitAt r.flags.toNat 0 = false →
      ((code = 3 ∨ code = 4) → rf r 2 2 = 0 → (∀ p, (a.part p).present = true → (a.part p).active = false) → a.power.modState ≠ code → a.power.modState ≠ 4 →
        exec (.powerState r) s = .next ((a.enterIdle code).respond r 0 0 [])) ∧
      ((code = 3 ∨ code = 4) → rf r 2 2 = 0 → (∃ p, (a.part p).present = true ∧ (a.part p).active = true) →
        exec (.powerState r) s = .next (a.respond r busy 0 [])) ∧
      (code ≤ 2 → a.power.modState ≠ 0 → exec (.powerState r) s = .next (a.leaveIdle r code)) ∧
      (code ≤ 2 → a.power.modState = 0 → maskBits 16 (rf r 2 2) ≠ [] → (∀ hd ∈ maskBits 16 (rf r 2 2), hd < a.member.halfDies ∧ a.retired.getLsbD hd = false ∧
          ∀ p, (a.part p).present = true → (a.part p).hasHd hd = false) →
        ∀ u, u = (a.spareVerify code (maskBits 16 (rf r 2 2))).1 →
        ((a.spareVerify code (maskBits 16 (rf r 2 2))).2 = true → exec (.powerState r) s = .next ((u.hdPower code (rf r 2 2)).respond r 0 0 [])) ∧
        ((a.spareVerify code (maskBits 16 (rf r 2 2))).2 = false → exec (.powerState r) s = .next (u.respond r 7 0 [])))) ∧
    (s.takes 0x0901 r → rf r 0 1 = 0xFF → a.adminFn ≠ r.fn → exec (.powerState r) s = .next (a.respond r denied 0 [])) ∧
    (∀ log es, s.takes 0x0903 r → ((rf r 0 1 = 0xFF ∧ a.adminFn = r.fn ∧ log = a.deviceEnergy) ∨
        (rf r 0 1 ≠ 0xFF ∧ ∃ p, a.named r.body 0 = some p ∧ (a.owns r.fn p = true ∨ a.adminFn = r.fn) ∧ log = (a.part p).energy)) →
      es = (log.filter fun e => rf r 8 8 ≤ e.beat.toNat).take 63 →
      exec (.energyRead r) s = .next (a.respond r 0 0 (leBytes 8 es.length ++ es.flatMap EnergyRec.bytes))) ∧
    (s.takes 0x0A01 r → rf r 4 4 % 16 = 0 → rf r 4 4 + (r.body.drop 8).length ≤ 67108864 → ∃ (f : FwSlot) (u : State),
      f = { a.slot (1 - a.boot.slot) with factory := false, valid := false, data := cellsPut (some 0) (a.slot (1 - a.boot.slot)).data (rf r 4 4) (r.body.drop 8) } ∧
      u = { a with boot := { a.boot.setSlot (1 - a.boot.slot) f with active := a.boot.slot } } ∧ exec (.fwWrite r) s = .next (u.respond r 0 0 [])) ∧
    (s.takes 0x0A02 r → a.fwCheck (a.slot (1 - a.boot.slot)) (rf r 0 4) = none → ∃ u : State,
      u = { a with boot := { a.boot.setSlot (1 - a.boot.slot) { a.slot (1 - a.boot.slot) with valid := true } with active := 1 - a.boot.slot, strikes := 0 } } ∧
      exec (.fwCommit r) s = .next (u.respond r 0 0 [])) ∧
    (∀ st, s.takes 0x0A02 r → a.fwCheck (a.slot (1 - a.boot.slot)) (rf r 0 4) = some st → exec (.fwCommit r) s = .next (a.respond r st 0 [])) ∧
    (s.takes 0x0A03 r → exec (.fwStatus r) s = .next (a.respond r 0 0 (leBytes 1 a.boot.active ++ leBytes 1 a.boot.slot ++ [0, 0] ++
      padTo 16 (a.slot 0).fw ++ padTo 16 (a.slot 1).fw ++ leBytes 1 (b2n (a.slot 0).valid + 2 * b2n (a.slot 1).valid)))) ∧
    (∀ u answer, s.takes 0x0A04 r → Config.spdmSigned r.body = false → a.spdmReply (.host r.fn) r.body = (u, answer) →
      exec (.spdm r) s = .next (u.respond r 0 0 answer)) ∧
    (s.takes 0x0A04 r → Config.spdmSigned r.body = true → a.sec.debug = false → exec (.spdm r) s =
      .next ((a.await 0x0A04 r 0 0).sign { transport := .host r.fn, req := some r, msg := r.body })) ∧
    (s.takes 0x0A04 r → Config.spdmSigned r.body = true → a.sec.debug = true → exec (.spdm r) s = .next (a.respond r 0 0 spdmError)) ∧
    (∀ f : FnId, s.takes 0x0A05 r → rf r 0 1 = f.val → ∃ u, u = { a with adminNext := f } ∧ exec (.adminSet r) s = .next (u.respond r 0 0 [])) ∧
    (s.takes 0x0B01 r → rf r 0 1 ≤ 3 → exec (.telemetry r) s = .next (a.respond r 0 0 (takeWhole 2040 (a.telemetry r.fn (rf r 0 1))).flatten))) ∧
  (∀ (r : Req) (s a : State) (p : PartId), s.accept r = a → a.named r.body 0 = some p →
    (∀ (i : PortId) (b : SvcBinding) n, s.takes 0x0C01 r → (a.part p).running = false → rf r 1 1 = i.val →
      b = { part := p, port := i, udp := if rf r 2 2 = 0 then 50001 else BitVec.ofNat 16 (rf r 2 2), inChan := rf r 4 4, outChan := rf r 8 4, body := r.body } →
      a.bindBad p b = false → (a.port i).part = some p → (a.port i).isEth = true → a.freeBinding = some n →
      ∃ u : State, u = { a with bindings := kput n b a.bindings } ∧
        exec (.svcBind r) s = .next ((u.partWrite p (b.f 48 8) (leBytes 8 n ++ (r.body.drop 32).take 56)).respond r 0 0 (leBytes 2 n))) ∧
    (∀ b, s.takes 0x0C04 r → a.bindingOf p (rf r 2 2) = some b → exec (.svcStats r) s = .next (a.respond r 0 0 (leBytes 8 b.requests.toNat ++
      leBytes 8 b.replies.toNat ++ b.refuse.flatMap (fun c => leBytes 4 c.toNat) ++ leBytes 4 b.spillPeak.toNat))))

/-- Half-die numbers, the half-die grid, and logical tile numbers of every member (R18, R22). -/
def Obligations.CoordinatesOfTilesAndPositions : Prop :=
  (∀ m : Member, ∃ w h, m.w = w ∧ m.h = h ∧
    (m = .zh8 → w = 4 ∧ h = 2 ∧ m.halfDies = 16 ∧ m.gx = 32) ∧ (m = .zh4 → w = 2 ∧ h = 2 ∧ m.halfDies = 8 ∧ m.gx = 16) ∧
    (m = .zh2 → w = 2 ∧ h = 1 ∧ m.halfDies = 4 ∧ m.gx = 16) ∧
    (∀ cx cy k, cx < w → cy < h → k < 2 → 2 * (w * cy + cx) + k < m.halfDies ∧ m.hdGrid (2 * (w * cy + cx) + k) = (cx, 2 * cy + k) ∧
      ∀ c r, c < 9 → r < 8 → ∃ t, t = m.tileAt (2 * (w * cy + cx) + k) c r ∧ t.px.toNat = 9 * cx + c ∧ t.py.toNat = 16 * cy + 8 * k + r ∧
        m.hdOf t = 2 * (w * cy + cx) + k ∧ colOf t = c ∧ rowOf t = r) ∧
    (∀ hd, hd < m.halfDies → (m.hdGrid hd).1 < w ∧ (m.hdGrid hd).2 < 2 * h) ∧
    (∀ lx ly, lx < m.gx → m.lx (ly * m.gx + lx) = lx ∧ m.ly (ly * m.gx + lx) = ly) ∧
    (∀ hd lc lr, hd < m.halfDies → lc < 8 → lr < 8 → m.hdOfN (m.nAt hd lc lr) = hd ∧ m.lx (m.nAt hd lc lr) % 8 = lc ∧ m.ly (m.nAt hd lc lr) % 8 = lr))

/-- The facet key of a tensor, and that no rounding draw uses its counter (R139). -/
def Obligations.FacetKeysAndRoundingCountersAreApart : Prop :=
  (facetPrime = 0xffffffffffffffc5) ∧
  (∀ (seed : U64) (tid : U32), ∃ q x, q = philox ⟨0, 0xffffffff, tid.toNat, 0x80000000⟩ (seed.toNat % 2 ^ 32) (seed.toNat / 2 ^ 32) ∧
    x = (q.c1 * 2 ^ 32 + q.c0) % facetPrime ∧ facetKey seed.toNat tid.toNat = (if x < 2 then 2 else x) ∧
    2 ≤ facetKey seed.toNat tid.toNat ∧ facetKey seed.toNat tid.toNat < facetPrime) ∧
  (∀ (d : Draw) (site pos : Nat), ∃ c : Quad, c.c3 < 0x10000 ∧ c.c3 ≠ 0x80000000 ∧ (∀ m : Member, d.n < m.gx * m.gy → c.c1 % 2 ^ 16 < 0x0400) ∧
    ∃ q, q = philox c (d.seed % 2 ^ 32) (d.seed / 2 ^ 32 % 2 ^ 32) ∧
      drawWord d site pos = (if pos % 4 = 0 then q.c0 else if pos % 4 = 1 then q.c1 else if pos % 4 = 2 then q.c2 else q.c3))

/-- Two MEANVAR records merge by the formula of R132 (R132). -/
def Obligations.MeanVarianceRecordsMerge : Prop :=
  ∀ (l r : Rec) (fl fr f d w mean m2 : Val), l.kind = 3 → r.kind = 3 → l.count ≠ 0 → r.count ≠ 0 →
    fl = ofInt .rne 0 l.count → fr = ofInt .rne 0 r.count → f = ofInt .rne 0 ((l.count + r.count : Nat) : Int) →
    d = fsub (ofF32 r.a) (ofF32 l.a) → w = fdiv fr f → mean = ffma d w (ofF32 l.a) →
    m2 = fadd (fadd (ofF32 l.b) (ofF32 r.b)) (fmul (fmul d d) (fmul fl w)) →
    (l.combine r).kind = 3 ∧ (l.combine r).count = (l.count + r.count) % 2 ^ 64 ∧ (l.combine r).a = toF32 mean ∧ (l.combine r).b = toF32 m2 ∧
    (l.combine r).fa = 0 ∧ (l.combine r).fb = 0

/-- DRAM, scratchpad and instruction memory: a byte written reads back, every other byte stays, the canonical form is kept (rests on parts of
R154, R165, R166, R384). -/
def Obligations.MemoriesHoldWhatWasWritten : Prop :=
  (∀ (s : State) (a : Nat) (bs : Bytes), Memory.wf (some 0) s.dram = true →
    (∀ i, (h : i < bs.length) → (s.dramPut a bs).dramByte (a + i) = bs[i]) ∧
    (∀ b, b < a ∨ a + bs.length ≤ b → (s.dramPut a bs).dramByte b = s.dramByte b) ∧ Memory.wf (some 0) (s.dramPut a bs).dram = true) ∧
  (∀ s u : State, Memory.wf (some 0) s.dram = true → Memory.wf (some 0) u.dram = true → (∀ a, s.dramByte a = u.dramByte a) → s.dram = u.dram) ∧
  (∀ (st : Store) (key a : Nat) (bs : Bytes), Memory.wf st.blank st.cells = true →
    (∀ i, (h : i < bs.length) → (st.put a bs).get key (a + i) = bs[i]) ∧
    (∀ b, b < a ∨ a + bs.length ≤ b → (st.put a bs).get key b = st.get key b) ∧ Memory.wf (st.put a bs).blank (st.put a bs).cells = true) ∧
  (∀ (st : Store) (key : Nat) (keep : List Nat), Memory.wf (st.forget key keep).blank (st.forget key keep).cells = true ∧
    ∀ b, b ∈ keep → (st.forget key keep).get key b = st.get key b)

/-- What an uncorrectable word of a scratchpad or of a stack reads as, and what records it (rests on parts of R6, R94, R153, R168, R169, R351). -/
def Obligations.UncorrectableWordsReadAsFreeBytes : Prop :=
  (∀ (t : TileId) (a : BitVec 22) (syn : U16) (s u : State) (w : Nat), Memory.wf (s.tile t).spad.blank (s.tile t).spad.cells = true →
    w = physAddr (s.tile t).carries (s.stepAt t) a.toNat / 8 * 8 → u = s.upset t (.scratchpad a syn) →
    (∀ k i : Nat, i < 8 → (u.tile t).spad.get k (w + i) = Config.upsetByte s.draws i) ∧
    (∀ k b : Nat, b < w ∨ w + 8 ≤ b → (u.tile t).spad.get k b = (s.tile t).spad.get k b) ∧
    u = { s.setTile t { s.tile t with spad := (u.tile t).spad } with draws := s.draws + 1 } ∧
    ∀ eng slot pc : Nat, s.eccRead t eng slot pc (.scratchpad a syn) = s.tileFault t
      { cls := 2, eng := eng, slot := slot, pc := pc, addr := physAddr (s.tile t).carries (s.stepAt t) a.toNat, bit := 0xFFFF0000 + syn.toNat }) ∧
  (∀ (t : TileId) (dpa : BitVec 42) (sym : BitVec 18) (s u : State) (w : Nat), Memory.wf (some 0) s.dram = true →
    w = dpa.toNat / 8 * 8 → u = s.upset t (.dram dpa sym) →
    (dpa.toNat / 2 ^ 33 < s.member.regions →
      (∀ i : Nat, i < 8 → u.dramByte (w + i) = Config.upsetByte s.draws i) ∧
      (∀ b : Nat, b < w ∨ w + 8 ≤ b → u.dramByte b = s.dramByte b) ∧
      u = { s with dram := u.dram, draws := s.draws + 1 }) ∧
    (s.member.regions ≤ dpa.toNat / 2 ^ 33 → u = s) ∧
    ∀ eng slot pc : Nat, s.eccRead t eng slot pc (.dram dpa sym) =
      ((s.unitFault (s.partOf t) { cls := 1, unit := 4, addr := dpa.toNat, bit := (sym ||| s.erasedSyms (s.dramLoc dpa.toNat)).toNat }).clearTile t 1).markRow
        (s.dramLoc dpa.toNat) (sym ||| s.erasedSyms (s.dramLoc dpa.toNat)) 1) ∧
  (∀ (t : TileId) (s : State), s.upset t .clean = s ∧ s.upset t (.corrected .scratchpad) = s ∧
    (∀ w, s.erasedEcc (.corrected w) = .corrected w → s.upset t (.corrected w) = s) ∧
    (∀ dpa pin m, m = s.erasedSyms (s.dramLoc dpa.toNat) → m ≠ 0 → m.getLsbD pin.val = false →
      s.upset t (.corrected (.dram dpa pin)) = s.upset t (.dram dpa (BitVec.ofNat 18 (2 ^ pin.val)))))
end

