-- ==== Sys2Proof/Laws/Bytes.lean ====
section
/-!
SUPPORT. Little-endian fields and the frame CRC: a field written reads back, and a CRC-32C fits its 4 bytes.
-/

namespace Sys2Proof.Machine

@[simp] theorem leBytes_length (k v : Nat) : (leBytes k v).length = k := by
  induction k generalizing v with
  | zero => rfl
  | succ k ih => simp [leBytes, ih]

/-- Reading the bytes of a number gives the number, cut to their width. -/
theorem leNat_leBytes (k v : Nat) : leNat (leBytes k v) = v % 256 ^ k := by
  induction k generalizing v with
  | zero => simp [leBytes, leNat, Nat.mod_one]
  | succ k ih =>
    simp only [leBytes, leNat, ih, BitVec.toNat_ofNat]
    have h := Nat.mod_mul (a := 256) (b := 256 ^ k) (x := v)
    rw [← Nat.pow_succ'] at h
    exact h.symm

theorem crc32cBits_lt (k c : Nat) (h : c < 2 ^ 32) : crc32cBits k c < 2 ^ 32 := by
  induction k generalizing c with
  | zero => exact h
  | succ k ih =>
    apply ih
    split
    · exact Nat.xor_lt_two_pow (by omega) (by decide)
    · omega

theorem crc32c_fold_lt (bs : Bytes) (c : Nat) (h : c < 2 ^ 32) : bs.foldl (fun c b => crc32cBits 8 (c ^^^ b.toNat)) c < 2 ^ 32 := by
  induction bs generalizing c with
  | nil => exact h
  | cons b bs ih => exact ih _ (crc32cBits_lt _ _ (Nat.xor_lt_two_pow h (Nat.lt_trans b.isLt (by decide))))

/-- A CRC-32C has 32 bits. -/
theorem crc32c_lt (bs : Bytes) : crc32c bs < 2 ^ 32 :=
  Nat.xor_lt_two_pow (crc32c_fold_lt bs _ (by decide)) (by decide)

/-- A frame whose CRC field holds the CRC of the frame with that field zero passes its check (R287). -/
theorem crcFrame (a b : Bytes) (h : a.length = 12) : frameCrcOk (a ++ leBytes 4 (crc32c (a ++ [0, 0, 0, 0] ++ b)) ++ b) = true := by
  have h1 : (a ++ leBytes 4 (crc32c (a ++ [0, 0, 0, 0] ++ b)) ++ b).take 12 = a := by
    rw [List.append_assoc, List.take_append_of_le_length (by omega), List.take_of_length_le (by omega)]
  have h2 : (a ++ leBytes 4 (crc32c (a ++ [0, 0, 0, 0] ++ b)) ++ b).drop 16 = b := by
    rw [List.drop_append_of_le_length (by simp [h]), List.drop_eq_nil_of_le (by simp [h]), List.nil_append]
  have h3 : fieldAt (a ++ leBytes 4 (crc32c (a ++ [0, 0, 0, 0] ++ b)) ++ b) 12 4 = leNat (leBytes 4 (crc32c (a ++ [0, 0, 0, 0] ++ b))) := by
    unfold fieldAt
    rw [List.append_assoc, List.drop_append_of_le_length (by omega), List.drop_eq_nil_of_le (by omega), List.nil_append,
      List.take_append_of_le_length (by simp), List.take_of_length_le (by simp)]
  unfold frameCrcOk
  rw [h1, h2, h3, leNat_leBytes, decide_eq_true_eq]
  exact Nat.mod_eq_of_lt (crc32c_lt _)

end Sys2Proof.Machine
end

