-- ==== Sys2Proof/Laws/Commands.lean ====
section
/-!
SUPPORT. What serving a mailbox command comes to: a command that is taken runs and its answer is written; one in any other case leaves no
effect beyond its acceptance. What a report of clean words comes to: nothing. And what reaching a time
changes: the device count.
-/

namespace Sys2Proof.Machine

/-- A command that is taken (`State.takes`) runs on the state in which it is accepted, and its answer is written (R417 to R419). -/
theorem State.command_takes {s : State} {op : Nat} {r : Req} {run : State → Req → Ans} {a : State} (h : s.takes op r) (ha : s.accept r = a) :
    s.command op r run = (run a r).write r := by
  subst ha
  obtain ⟨h1, h2, h3⟩ := h
  unfold State.command
  rw [if_neg (by simp [h1])]
  dsimp only
  split
  · rename_i p hp
    rw [if_neg (by simp [h3 p hp])]
    unfold State.runCommand
    rw [h2]
  · unfold State.runCommand
    rw [h2]

/-- Nothing is taken from a mailbox that is not free (R382, R400, R419). -/
theorem State.command_off {s : State} {op : Nat} {r : Req} {run : State → Req → Ans} (h : s.mboxFree r = false) : s.command op r run = s := by
  unfold State.command
  rw [if_pos (by simp [h])]

/-- A command of a partition runs on the partition that byte 0 of its body names. -/
theorem onPart_named {run : State → Req → PartId → Ans} {a : State} {r : Req} {p : PartId} (h : a.named r.body 0 = some p) : onPart run a r = run a r p := by
  unfold onPart
  rw [h]

/-- A command of a port runs on the port that byte 0 of its body names. -/
theorem onPort_named {run : State → Req → PortId → Ans} {a : State} {r : Req} {p : PortId} (h : portNamed r.body = some p) : onPort run a r = run a r p := by
  unfold onPort
  rw [h]

/-- Reaching a time moves the device count alone (R41). -/
theorem State.reach_eq (s : State) (t : Int) : ∃ c, s.reach t = { s with count := c } := by
  unfold State.reach
  split
  · exact ⟨_, rfl⟩
  · exact ⟨s.count, rfl⟩

/-- A descriptor that starts may move the device count to T(b) + 64, and nothing else (R52). -/
theorem State.atWork_eq (s : State) (t : TileId) (x : Slot) : ∃ c, s.atWork t x = { s with count := c } := by
  unfold State.atWork
  split
  · exact State.reach_eq s _
  · exact ⟨s.count, rfl⟩

/-- Clean words change no cell (R94). -/
@[simp] theorem State.upset_clean (s : State) (t : TileId) : s.upset t .clean = s := rfl
/-- Clean words raise no fault (R94). -/
@[simp] theorem State.eccRead_clean (s : State) (t : TileId) (e n a : Nat) : s.eccRead t e n a .clean = s := rfl
/-- Clean words leave the sequencer's read as it is (R94). -/
@[simp] theorem State.seqEcc_clean (s : State) (t : TileId) (a : Nat) : s.seqEcc t .clean a = s := rfl
/-- Clean words of a stack raise nothing (R153). -/
@[simp] theorem State.stackEcc_clean (s : State) (p : Option PartId) : s.stackEcc p .clean = s := rfl
/-- Clean accumulators hold what the pass accumulated (R94). -/
@[simp] theorem PassArgs.eccLanes_clean (g : PassArgs) (d : Nat) (ls : List (List Lane)) : g.eccLanes .clean d ls = ls := rfl

end Sys2Proof.Machine
end

