-- ==== Sys2Proof/Laws/Maps.lean ====
section
/-!
SUPPORT. Sorted maps and byte cells: what a read gives after a write, that every operation keeps the canonical form, and that nothing else is
touched.
-/

namespace Sys2Proof.Machine

variable {α : Type}

/-! Reading after writing. -/

@[simp] theorem kget_nil (k : Nat) : kget k ([] : List (Nat × α)) = none := rfl
theorem kget_cons (k j : Nat) (a : α) (m : List (Nat × α)) : kget k ((j, a) :: m) = if j = k then some a else kget k m := rfl

theorem kget_append (k : Nat) (m n : List (Nat × α)) : kget k (m ++ n) = (kget k m).or (kget k n) := by
  induction m with
  | nil => rfl
  | cons x m ih => rw [List.cons_append, kget_cons, kget_cons, ih]; split <;> rfl

@[simp] theorem kget_kput_self (k : Nat) (a : α) (m : List (Nat × α)) : kget k (kput k a m) = some a := by
  induction m with
  | nil => simp [kput, kget]
  | cons x m ih =>
    obtain ⟨j, b⟩ := x
    by_cases h1 : k < j
    · simp [kput, kget, h1]
    · by_cases h2 : k = j
      · simp [kput, kget, h2]
      · have h3 : ¬ j = k := fun h => h2 h.symm
        simp [kput, kget, h1, h2, h3, ih]

theorem kget_kput_ne (k j : Nat) (a : α) (m : List (Nat × α)) (h : j ≠ k) : kget j (kput k a m) = kget j m := by
  induction m with
  | nil => simp [kput, kget, Ne.symm h]
  | cons x m ih =>
    obtain ⟨i, b⟩ := x
    by_cases h1 : k < i
    · simp [kput, kget, h1, Ne.symm h]
    · by_cases h2 : k = i
      · subst h2; simp [kput, kget, Ne.symm h]
      · simp [kput, kget, h1, h2, ih]

theorem kget_kput (k j : Nat) (a : α) (m : List (Nat × α)) :
    kget j (kput k a m) = if j = k then some a else kget j m := by
  by_cases h : j = k
  · subst h; simp
  · simp [h, kget_kput_ne k j a m h]

theorem kget_kdel_ne (k j : Nat) (m : List (Nat × α)) (h : j ≠ k) : kget j (kdel k m) = kget j m := by
  induction m with
  | nil => rfl
  | cons x m ih =>
    obtain ⟨i, b⟩ := x
    by_cases h1 : i = k
    · subst h1; simp [kdel, kget, Ne.symm h]
    · simp [kdel, kget, h1, ih]

theorem kput_kput (k : Nat) (a b : α) (m : List (Nat × α)) : kput k a (kput k b m) = kput k a m := by
  induction m with
  | nil => simp [kput]
  | cons x m ih =>
    obtain ⟨j, c⟩ := x
    by_cases h1 : k < j
    · simp [kput, h1]
    · by_cases h2 : k = j
      · simp [kput, h2]
      · simp [kput, h1, h2, ih]

/-! The canonical form. -/

/-- The keys rise strictly, as a proposition. -/
theorem kwf_iff (m : List (Nat × α)) : kwf m = true ↔ (m.map Prod.fst).Pairwise (· < ·) := by simp [kwf]

@[simp] theorem kwf_nil : kwf ([] : List (Nat × α)) = true := rfl

theorem kwf_cons (x : Nat × α) (m : List (Nat × α)) :
    kwf (x :: m) = true ↔ (∀ y ∈ m, x.1 < y.1) ∧ kwf m = true := by
  simp [kwf_iff, List.pairwise_cons]

/-- Keys of a map with an entry set are the entry's or the map's. -/
theorem mem_kput (k : Nat) (a : α) (m : List (Nat × α)) (y : Nat × α) (h : y ∈ kput k a m) : y = (k, a) ∨ y ∈ m := by
  induction m with
  | nil => simpa [kput] using h
  | cons x m ih =>
    obtain ⟨j, b⟩ := x
    by_cases h1 : k < j
    · simpa [kput, h1] using h
    · by_cases h2 : k = j
      · rw [kput, if_neg h1, if_pos h2] at h
        exact (List.mem_cons.1 h).imp id (List.mem_cons_of_mem _)
      · rw [kput, if_neg h1, if_neg h2] at h
        rcases List.mem_cons.1 h with h | h
        · exact .inr (h ▸ List.mem_cons_self)
        · exact (ih h).imp id (List.mem_cons_of_mem _)

theorem mem_kdel (k : Nat) (m : List (Nat × α)) (y : Nat × α) (h : y ∈ kdel k m) : y ∈ m := by
  induction m with
  | nil => simp [kdel] at h
  | cons x m ih =>
    obtain ⟨j, b⟩ := x
    by_cases h1 : j = k
    · simp only [kdel, h1, if_true] at h; exact List.mem_cons_of_mem _ h
    · simp only [kdel, h1, if_false, List.mem_cons] at h ⊢
      exact h.imp id ih

/-- Setting an entry keeps a map canonical. -/
theorem kwf_kput (k : Nat) (a : α) (m : List (Nat × α)) (h : kwf m = true) : kwf (kput k a m) = true := by
  induction m with
  | nil => simp [kput, kwf]
  | cons x m ih =>
    obtain ⟨j, b⟩ := x
    obtain ⟨hlt, hm⟩ := (kwf_cons _ _).1 h
    by_cases h1 : k < j
    · simp only [kput, h1, if_true]
      refine (kwf_cons _ _).2 ⟨fun y hy => ?_, h⟩
      rcases List.mem_cons.1 hy with rfl | hy
      · exact h1
      · exact Nat.lt_trans h1 (hlt y hy)
    · by_cases h2 : k = j
      · subst h2
        simp only [kput, h1, if_true, if_false]
        exact (kwf_cons _ _).2 ⟨hlt, hm⟩
      · simp only [kput, h1, h2, if_false]
        refine (kwf_cons _ _).2 ⟨fun y hy => ?_, ih hm⟩
        rcases mem_kput k a m y hy with rfl | hy
        · show j < k; omega
        · exact hlt y hy

/-- Removing an entry keeps a map canonical. -/
theorem kwf_kdel (k : Nat) (m : List (Nat × α)) (h : kwf m = true) : kwf (kdel k m) = true := by
  induction m with
  | nil => exact h
  | cons x m ih =>
    obtain ⟨j, b⟩ := x
    obtain ⟨hlt, hm⟩ := (kwf_cons _ _).1 h
    by_cases h1 : j = k
    · simp only [kdel, h1, if_true]; exact hm
    · simp only [kdel, h1, if_false]
      exact (kwf_cons _ _).2 ⟨fun y hy => hlt y (mem_kdel k m y hy), ih hm⟩

/-- Dropping entries keeps a map canonical. -/
theorem kwf_filter (f : Nat × α → Bool) (m : List (Nat × α)) (h : kwf m = true) : kwf (m.filter f) = true := by
  rw [kwf_iff] at h ⊢
  exact h.sublist ((List.filter_sublist).map _)

/-- Changing values at their keys keeps a map canonical. -/
theorem kwf_map {β : Type} (f : Nat × α → β) (m : List (Nat × α)) (h : kwf m = true) :
    kwf (m.map fun x => (x.1, f x)) = true := by
  rw [kwf_iff] at h ⊢
  simpa [List.map_map, Function.comp_def] using h

/-- The same map written with a condition. -/
theorem kwf_map_if (c : Nat × α → Bool) (f : Nat × α → α) (m : List (Nat × α)) (h : kwf m = true) :
    kwf (m.map fun x => if c x then (x.1, f x) else x) = true := by
  have : (m.map fun x => if c x then (x.1, f x) else x) = m.map fun x => (x.1, if c x then f x else x.2) := by
    apply List.map_congr_left; intro x _; split <;> rfl
  rw [this]; exact kwf_map _ m h

/-! Cells. -/

/-- What a byte reads as after a byte is written: memory cells read the blank where nothing is listed. -/
theorem kget_cellPut (blank : Option Byte) (m : List Host.Cell) (a b : Nat) (v : Byte) (h : Memory.wf blank m = true) :
    (kget b (cellPut blank m a v)).or blank = if b = a then some v else (kget b m).or blank := by
  unfold cellPut
  by_cases hb : blank = some v
  · simp only [hb, if_true]
    by_cases hab : b = a
    · subst hab
      have hw : kwf m = true := by simp [Memory.wf] at h; exact h.1
      have : kget b (kdel b m) = none := by
        clear h
        induction m with
        | nil => rfl
        | cons x m ih =>
          obtain ⟨j, c⟩ := x
          obtain ⟨hlt, hm⟩ := (kwf_cons _ _).1 hw
          by_cases h1 : j = b
          · subst h1
            simp only [kdel, if_true]
            have : ∀ l : List Host.Cell, (∀ y ∈ l, j < y.1) → kget j l = none := by
              intro l hl
              induction l with
              | nil => rfl
              | cons z l il =>
                obtain ⟨i, d⟩ := z
                have := hl (i, d) List.mem_cons_self
                simp only [kget]
                rw [if_neg (by simp at this; omega)]
                exact il fun y hy => hl y (List.mem_cons_of_mem _ hy)
            exact this m hlt
          · simp [kdel, kget, h1, ih hm]
      simp [this]
    · simp [hab, kget_kdel_ne a b m hab]
  · simp only [hb, if_false, kget_kput]
    split <;> simp

/-- Writing a byte keeps the canonical form. -/
theorem wf_cellPut (blank : Option Byte) (m : List Host.Cell) (a : Nat) (v : Byte) (h : Memory.wf blank m = true) :
    Memory.wf blank (cellPut blank m a v) = true := by
  simp only [Memory.wf, Bool.and_eq_true, List.all_eq_true, decide_eq_true_eq] at h ⊢
  unfold cellPut
  by_cases hb : blank = some v
  · simp only [hb, if_true]
    refine ⟨kwf_kdel a m h.1, fun y hy => ?_⟩
    have := h.2 y (mem_kdel a m y hy)
    rwa [hb] at this
  · simp only [hb, if_false]
    refine ⟨kwf_kput a v m h.1, fun y hy => ?_⟩
    rcases mem_kput a v m y hy with rfl | hy
    · exact hb
    · exact h.2 y hy

/-- Writing bytes keeps the canonical form. -/
theorem wf_cellsPut (blank : Option Byte) (bs : Bytes) :
    ∀ (m : List Host.Cell) (a : Nat), Memory.wf blank m = true → Memory.wf blank (cellsPut blank m a bs) = true := by
  induction bs with
  | nil => intro m a h; exact h
  | cons b bs ih => intro m a h; exact ih _ _ (wf_cellPut blank m a b h)

/-- Dropping cells keeps the canonical form. -/
theorem wf_filter (blank : Option Byte) (f : Host.Cell → Bool) (m : List Host.Cell) (h : Memory.wf blank m = true) :
    Memory.wf blank (m.filter f) = true := by
  simp only [Memory.wf, Bool.and_eq_true, List.all_eq_true, decide_eq_true_eq] at h ⊢
  exact ⟨kwf_filter f m h.1, fun y hy => h.2 y (List.mem_filter.1 hy).1⟩

@[simp] theorem wf_nil (blank : Option Byte) : Memory.wf blank [] = true := rfl

/-- A byte outside those written reads as before. -/
theorem kget_cellsPut_other (blank : Option Byte) (bs : Bytes) :
    ∀ (m : List Host.Cell) (a b : Nat), Memory.wf blank m = true → (b < a ∨ a + bs.length ≤ b) →
      (kget b (cellsPut blank m a bs)).or blank = (kget b m).or blank := by
  induction bs with
  | nil => intro m a b _ _; rfl
  | cons c bs ih =>
    intro m a b h hb
    simp only [List.length_cons] at hb
    show (kget b (cellsPut blank (cellPut blank m a c) (a + 1) bs)).or blank = _
    rw [ih _ _ _ (wf_cellPut blank m a c h) (by omega), kget_cellPut blank m a b c h, if_neg (by omega)]

/-- A byte written reads as it was written. -/
theorem kget_cellsPut (blank : Option Byte) (bs : Bytes) :
    ∀ (m : List Host.Cell) (a i : Nat) (hi : i < bs.length), Memory.wf blank m = true →
      (kget (a + i) (cellsPut blank m a bs)).or blank = some bs[i] := by
  induction bs with
  | nil => intro m a i hi; simp at hi
  | cons c bs ih =>
    intro m a i hi h
    show (kget (a + i) (cellsPut blank (cellPut blank m a c) (a + 1) bs)).or blank = _
    cases i with
    | zero =>
      rw [kget_cellsPut_other blank bs _ _ _ (wf_cellPut blank m a c h) (by omega), kget_cellPut blank m a _ c h, if_pos (by omega)]
      rfl
    | succ i =>
      have := ih (cellPut blank m a c) (a + 1) i (by simpa using hi) (wf_cellPut blank m a c h)
      rw [show a + (i + 1) = a + 1 + i by omega, this]
      simp

end Sys2Proof.Machine
end

