-- ==== Sys2Proof/Laws/Evolves.lean ====
section
/-!
SUPPORT. How a command's work evolves the state: the member and the queue stay, and what State.Sound says is kept. Every operation has its own
lemma; a lemma about an operation that answers a state with something else speaks of that state.
-/

namespace Sys2Proof.Machine

/-- From a to b only the block's own work was done. -/
structure Evolves (a b : State) : Prop where
  member : b.member = a.member
  pending : b.pending = a.pending
  sound : a.Sound → b.Sound

/-- The state of an answer evolves. -/
structure EvolvesP {α : Type} (a : State) (x : State × α) : Prop where
  fst : Evolves a x.1
/-- Every next state evolves. -/
structure EvolvesO (a : State) (x : Host.Outcome State Fault Refusal) : Prop where
  out : ∀ t, x = .next t → Evolves a t
/-- Every state answered evolves. -/
structure EvolvesS (a : State) (x : Option State) : Prop where
  out : ∀ t, x = some t → Evolves a t

variable {a s t : State}

theorem Evolves.refl (a : State) : Evolves a a := ⟨rfl, rfl, id⟩
theorem Evolves.trans {b c : State} (h : Evolves a b) (g : Evolves b c) : Evolves a c :=
  ⟨g.member.trans h.member, g.pending.trans h.pending, fun x => g.sound (h.sound x)⟩

/-- Nothing that State.Sound speaks of was written. -/
theorem Evolves.upd (h : Evolves a s) (e0 : t.member = s.member) (e1 : t.pending = s.pending) (e2 : t.tiles = s.tiles)
    (e3 : t.seams = s.seams) (e4 : t.regions = s.regions) (e5 : t.channels = s.channels) (e6 : t.bindings = s.bindings)
    (e7 : t.rows = s.rows) (e8 : t.dram = s.dram) (e9 : t.flatW = s.flatW) (e10 : t.flatE = s.flatE)
    (e11 : t.inbox = s.inbox) (e12 : t.faultLog = s.faultLog) : Evolves a t :=
  ⟨e0.trans h.member, e1.trans h.pending, fun x => by
    have y := h.sound x
    exact ⟨e2 ▸ y.tiles, e3 ▸ y.seams, e4 ▸ y.regions, e5 ▸ y.channels, e6 ▸ y.bindings, e7 ▸ y.rows, e8 ▸ y.dram,
      by rw [e9, e10]; exact y.flat, e11 ▸ y.inbox, e12 ▸ y.faultLog⟩⟩

/-- A state written with only fields that State.Sound does not speak of changed. -/
theorem Evolves.lit {a s : State} {count : U64} {pllLocked : Bool} {holdover : Bool} {tsyncEn : Bool} {tsyncCapture : U64}
    {tsyncCaptures : U32} {tsyncPulses : Nat} {parts : Vector Part 16} {placement : List (Nat × U16)}
    {mapPend : List (Nat × U16)} {mapOld : List (Nat × Nat × U16)} {net : List NetPkt}
    {ioQueue : List (InjectAt × Packet)} {mgmtOut : List (U16 × Nat)} {rowsMarked : List U64} {rowSyms : List (Nat × BitVec 18 × Byte)} {rowsBad : List U64}
    {sparesUsed : List (Nat × Nat)} {corrections : List (U64 × Nat × Nat)} {pinsFailed : List U64} {pinRows : List (U64 × U64)}
    {fns : Vector HostFn 8} {inboxLost : List (Nat × Nat)} {faultHead : Nat} {faultHeld : List FaultRec} {resets : U16}
    {latchOut : List (PortId × Session × LatchFrame)} {adminFn : FnId} {adminNext : FnId} {waiters : List Waiter} {bifur : Byte × Byte}
    {bifurNext : Byte × Byte} {ports : Vector Port 16} {ctlIn : List (PortId × Session × Byte × Bytes)}
    {serviceOut : List (PortId × Bytes)} {retired : BitVec 16} {slowPlan : List (Nat × U16)} {fuses : Fuses} {defects : List Defect}
    {defectSeq : U32} {defectGen : U32} {defectOther : List Defect × U32 × U32} {defectQueue : List Defect}
    {testResults : List BistRecord} {boot : Boot} {power : Power} {sec : Security} {deviceEnergy : List EnergyRec} {drbg : Nat}
    {draws : Nat}
    (h : Evolves a s) : Evolves a ⟨s.member, count, pllLocked, holdover, tsyncEn, tsyncCapture, tsyncCaptures, tsyncPulses, s.tiles,
      parts, placement, mapPend, mapOld, s.seams, net, ioQueue, mgmtOut, s.dram, s.regions, rowsMarked, rowSyms, rowsBad, sparesUsed, corrections, pinsFailed,
      pinRows, s.channels, fns, s.inbox, inboxLost, s.faultLog, faultHead, faultHeld, resets, latchOut, adminFn, adminNext, waiters,
      bifur, bifurNext, ports, ctlIn, s.flatW, s.flatE, s.bindings, serviceOut, s.rows, retired, slowPlan, fuses, defects, defectSeq,
      defectGen, defectOther, defectQueue, testResults, boot, power, sec, deviceEnergy, drbg, draws, s.pending⟩ :=
  h.upd rfl rfl rfl rfl rfl rfl rfl rfl rfl rfl rfl rfl rfl

theorem Evolves.ite {c : Prop} [Decidable c] (h : c → Evolves a s) (g : ¬ c → Evolves a t) : Evolves a (if c then s else t) := by
  split
  · exact h ‹_›
  · exact g ‹_›

theorem EvolvesP.pair {α : Type} {x : α} (h : Evolves a s) : EvolvesP a (s, x) := ⟨h⟩
theorem EvolvesP.of {α : Type} {x : State × α} {y : α} (e : x = (s, y)) (h : EvolvesP a x) : Evolves a s := by
  subst e; exact h.fst
theorem EvolvesP.ite {α : Type} {c : Prop} [Decidable c] {x y : State × α} (h : c → EvolvesP a x) (g : ¬ c → EvolvesP a y) :
    EvolvesP a (if c then x else y) := by
  split
  · exact h ‹_›
  · exact g ‹_›
theorem EvolvesO.next (h : Evolves a s) : EvolvesO a (.next s) := ⟨fun _ e => by cases e; exact h⟩
theorem EvolvesO.fault (f : Fault) : EvolvesO a (.fault f) := ⟨fun _ e => by cases e⟩
theorem EvolvesO.ite {c : Prop} [Decidable c] {x y : Host.Outcome State Fault Refusal} (h : c → EvolvesO a x) (g : ¬ c → EvolvesO a y) :
    EvolvesO a (if c then x else y) := by
  split
  · exact h ‹_›
  · exact g ‹_›
theorem EvolvesS.put (h : Evolves a s) : EvolvesS a (some s) := ⟨fun _ e => by cases e; exact h⟩
theorem EvolvesS.none : EvolvesS a none := ⟨fun _ e => by cases e⟩
theorem EvolvesS.of {x : Option State} (e : x = some s) (h : EvolvesS a x) : Evolves a s := h.out s e
theorem EvolvesS.getD {x : Option State} (h : EvolvesS a x) (g : Evolves a s) : Evolves a (x.getD s) := by
  cases x with
  | none => exact g
  | some y => exact h.out y rfl
theorem EvolvesS.ite {c : Prop} [Decidable c] {x y : Option State} (h : c → EvolvesS a x) (g : ¬ c → EvolvesS a y) :
    EvolvesS a (if c then x else y) := by
  split
  · exact h ‹_›
  · exact g ‹_›

/-- A fold of steps that each evolve the state. -/
theorem Evolves.foldl {α : Type} {f : State → α → State} (xs : List α) (hf : ∀ s x, Evolves a s → Evolves a (f s x)) :
    ∀ {s : State}, Evolves a s → Evolves a (xs.foldl f s) := by
  induction xs with
  | nil => exact fun h => h
  | cons x xs ih => exact fun h => ih (hf _ _ h)
/-- A fold that carries something beside the state. -/
theorem EvolvesP.foldl {α β : Type} {f : State × β → α → State × β} (xs : List α)
    (hf : ∀ s b x, Evolves a s → EvolvesP a (f (s, b) x)) :
    ∀ {y : State × β}, EvolvesP a y → EvolvesP a (xs.foldl f y) := by
  induction xs with
  | nil => exact fun h => h
  | cons x xs ih => exact fun {y} h => ih (hf y.1 y.2 x h.fst)

end Sys2Proof.Machine
end

