-- ==== Sys2Proof/Laws/EvolvesTiles.lean ====
section
/-!
SUPPORT. The operations and meanings of tiles, their engines and streams evolve the state: one lemma for each.
-/

set_option linter.unusedTactic false
set_option linter.unreachableTactic false

namespace Sys2Proof.Machine

theorem State.setTile_ev {a s : State} (t : TileId) (v : Tile) (h : Evolves a s) : Evolves a (s.setTile t v) :=
  ⟨h.member, h.pending, fun x => let y := h.sound x
    ⟨kwf_kput _ _ _ y.tiles, y.seams, y.regions, y.channels, y.bindings, y.rows, y.dram, y.flat, y.inbox, y.faultLog⟩⟩
theorem State.modTile_ev {o₀ s : State} (t : TileId) (f : Tile → Tile) (hev : Evolves o₀ s) :
    Evolves o₀ (State.modTile s t f) := by
  unfold State.modTile
  try dsimp only
  repeat' first
    | with_reducible assumption | with_reducible apply State.setTile_ev
theorem State.setPart_ev {o₀ s : State} (p : PartId) (v : Part) (hev : Evolves o₀ s) :
    Evolves o₀ (State.setPart s p v) := by
  unfold State.setPart
  try dsimp only
  repeat' first
    | with_reducible assumption | fail_if_no_progress with_reducible apply Evolves.lit
theorem State.modPart_ev {o₀ s : State} (p : PartId) (f : Part → Part) (hev : Evolves o₀ s) :
    Evolves o₀ (State.modPart s p f) := by
  unfold State.modPart
  try dsimp only
  repeat' first
    | with_reducible assumption | with_reducible apply State.setPart_ev
theorem State.modFn_ev {o₀ s : State} (f : FnId) (g : HostFn → HostFn) (hev : Evolves o₀ s) :
    Evolves o₀ (State.modFn s f g) := by
  unfold State.modFn
  try dsimp only
  repeat' first
    | with_reducible assumption | fail_if_no_progress with_reducible apply Evolves.lit
theorem State.forTiles_ev {o₀ s : State} (ts : List TileId) (f : State → TileId → State)
    (h_f : ∀ s' x1', Evolves o₀ s' → Evolves o₀ (f s' x1')) (hev : Evolves o₀ s) :
    Evolves o₀ (State.forTiles s ts f) := by
  unfold State.forTiles
  try dsimp only
  repeat' first
    | with_reducible assumption | with_reducible apply h_f | with_reducible refine Evolves.foldl _ (fun _ _ _ => ?_) ?_
theorem State.tick_ev {o₀ s : State} (hev : Evolves o₀ s) :
    Evolves o₀ (State.tick s) := by
  unfold State.tick
  try dsimp only
  repeat' first
    | with_reducible assumption | with_reducible refine Evolves.ite (fun _ => ?_) (fun _ => ?_)
    | fail_if_no_progress with_reducible apply Evolves.lit
theorem State.reach_ev {o₀ s : State} (t : Int) (hev : Evolves o₀ s) :
    Evolves o₀ (State.reach s t) := by
  unfold State.reach
  try dsimp only
  repeat' first
    | with_reducible assumption | with_reducible refine Evolves.ite (fun _ => ?_) (fun _ => ?_)
    | fail_if_no_progress with_reducible apply Evolves.lit
theorem State.reachJob_ev {o₀ s : State} (p : PartId) (t : Int) (hev : Evolves o₀ s) :
    Evolves o₀ (State.reachJob s p t) := by
  unfold State.reachJob
  try dsimp only
  repeat' first
    | with_reducible assumption | with_reducible apply State.reach_ev
theorem State.dramPut_ev {a s : State} (dpa : Nat) (bs : Bytes) (h : Evolves a s) : Evolves a (s.dramPut dpa bs) :=
  ⟨h.member, h.pending, fun x => let y := h.sound x
    ⟨y.tiles, y.seams, y.regions, y.channels, y.bindings, y.rows, wf_cellsPut _ _ _ _ y.dram, y.flat, y.inbox, y.faultLog⟩⟩
theorem State.partWrite_ev {a : State} (p : PartId) (bs : Bytes) :
    ∀ {s : State} (x : Nat), Evolves a s → Evolves a (s.partWrite p x bs) := by
  induction bs with
  | nil => exact fun _ h => h | cons b bs ih =>
    intro s x h
    refine ih _ ?_
    split
    · exact State.dramPut_ev _ _ h
    · exact h
theorem State.postEvent_ev {o₀ s : State} (fid : FnId) (kind : Nat) (code : Nat) (part : Nat) (body : Bytes) (hev : Evolves o₀ s) :
    Evolves o₀ (State.postEvent s fid kind code part body) := by
  unfold State.postEvent
  try dsimp only
  repeat' first
    | with_reducible assumption | with_reducible apply State.modFn_ev | with_reducible refine Evolves.ite (fun _ => ?_) (fun _ => ?_)
theorem State.postPart_ev {o₀ s : State} (p : PartId) (kind : Nat) (code : Nat) (body : Bytes) (hev : Evolves o₀ s) :
    Evolves o₀ (State.postPart s p kind code body) := by
  unfold State.postPart
  try dsimp only
  repeat' first
    | with_reducible assumption | with_reducible apply State.postEvent_ev
theorem State.postAdmin_ev {o₀ s : State} (kind : Nat) (code : Nat) (body : Bytes) (hev : Evolves o₀ s) :
    Evolves o₀ (State.postAdmin s kind code body) := by
  unfold State.postAdmin
  try dsimp only
  repeat' first
    | with_reducible assumption | with_reducible apply State.postEvent_ev | with_reducible refine Evolves.ite (fun _ => ?_) (fun _ => ?_)
theorem State.toInbox_ev {a s : State} (r : FaultRec) (h : Evolves a s) : Evolves a (s.toInbox r) := by
  unfold State.toInbox
  split
  · refine ⟨h.member, h.pending, fun x => ?_⟩
    have y := h.sound x
    exact ⟨y.tiles, y.seams, y.regions, y.channels, y.bindings, y.rows, y.dram, y.flat, by simp; omega, y.faultLog⟩
  · exact h.upd rfl rfl rfl rfl rfl rfl rfl rfl rfl rfl rfl rfl rfl
theorem State.modPort_ev {o₀ s : State} (p : PortId) (f : Port → Port) (hev : Evolves o₀ s) :
    Evolves o₀ (State.modPort s p f) := by
  unfold State.modPort
  try dsimp only
  repeat' first
    | with_reducible assumption | fail_if_no_progress with_reducible apply Evolves.lit
theorem State.modLink_ev {o₀ s : State} (p : PortId) (x : Session) (f : Link → Link) (hev : Evolves o₀ s) :
    Evolves o₀ (State.modLink s p x f) := by
  unfold State.modLink
  try dsimp only
  repeat' first
    | with_reducible assumption | with_reducible apply State.modPort_ev
theorem State.sendLatch_ev {o₀ s : State} (l : PortId × Session) (f : LatchFrame) (hev : Evolves o₀ s) :
    Evolves o₀ (State.sendLatch s l f) := by
  unfold State.sendLatch
  try dsimp only
  repeat' first
    | with_reducible assumption | fail_if_no_progress with_reducible apply Evolves.lit
theorem State.floodLatch_ev {o₀ s : State} (p : PartId) (except : Option (PortId × Session)) (f : LatchFrame) (hev : Evolves o₀ s) :
    Evolves o₀ (State.floodLatch s p except f) := by
  unfold State.floodLatch
  try dsimp only
  repeat' first
    | with_reducible assumption | with_reducible intro _ | with_reducible apply State.sendLatch_ev
    | with_reducible refine Evolves.ite (fun _ => ?_) (fun _ => ?_) | with_reducible refine Evolves.foldl _ (fun _ _ _ => ?_) ?_
theorem State.sendHalt_ev {o₀ s : State} (p : PartId) (cls : Byte) (origin : U16) (except : Option (PortId × Session)) (hev : Evolves o₀ s) :
    Evolves o₀ (State.sendHalt s p cls origin except) := by
  unfold State.sendHalt
  try dsimp only
  repeat' first
    | with_reducible assumption | with_reducible apply State.floodLatch_ev | with_reducible apply State.modPart_ev
    | with_reducible refine Evolves.ite (fun _ => ?_) (fun _ => ?_)
theorem State.noteClear_ev {o₀ s : State} (p : PartId) (cls : Byte) (hev : Evolves o₀ s) :
    Evolves o₀ (State.noteClear s p cls) := by
  unfold State.noteClear
  try dsimp only
  repeat' first
    | with_reducible assumption | with_reducible apply State.modPart_ev | with_reducible apply State.sendHalt_ev | split
theorem State.clearTile_ev {o₀ s : State} (t : TileId) (cls : Byte) (hev : Evolves o₀ s) :
    Evolves o₀ (State.clearTile s t cls) := by
  unfold State.clearTile
  try dsimp only
  repeat' first
    | with_reducible assumption | with_reducible apply State.noteClear_ev | with_reducible apply State.modTile_ev | split
theorem State.clearPart_ev {o₀ s : State} (p : PartId) (cls : Byte) (hev : Evolves o₀ s) :
    Evolves o₀ (State.clearPart s p cls) := by
  unfold State.clearPart
  try dsimp only
  repeat' first
    | with_reducible assumption | with_reducible apply State.noteClear_ev | with_reducible apply State.modPart_ev
theorem State.countFault_ev {o₀ s : State} (pid : Option PartId) (hev : Evolves o₀ s) :
    Evolves o₀ (State.countFault s pid) := by
  unfold State.countFault
  try dsimp only
  repeat' first
    | with_reducible assumption | with_reducible apply State.modPart_ev | split
theorem State.enter_ev {o₀ s : State} (q : Packet) (t : TileId) (hev : Evolves o₀ s) :
    Evolves o₀ (State.enter s q t) := by
  unfold State.enter
  try dsimp only
  repeat' first
    | with_reducible assumption | with_reducible intro _ | with_reducible refine Evolves.ite (fun _ => ?_) (fun _ => ?_)
    | fail_if_no_progress with_reducible apply Evolves.lit
theorem State.sendNotice_ev {o₀ s : State} (t : TileId) (hev : Evolves o₀ s) :
    Evolves o₀ (State.sendNotice s t) := by
  unfold State.sendNotice
  try dsimp only
  repeat' first
    | with_reducible assumption | with_reducible intro _ | with_reducible apply State.enter_ev | with_reducible apply State.modTile_ev
    | with_reducible refine Evolves.ite (fun _ => ?_) (fun _ => ?_) | fail_if_no_progress with_reducible apply Evolves.lit
    | refine EvolvesP.of (by with_reducible assumption) ?_ | refine EvolvesS.of (by with_reducible assumption) ?_
    | with_reducible refine EvolvesS.ite (fun _ => ?_) (fun _ => ?_) | exact EvolvesS.none | with_reducible refine EvolvesS.put ?_ | split
theorem State.tileRecord_ev {o₀ s : State} (t : TileId) (a : FaultArgs) (hev : Evolves o₀ s) :
    Evolves o₀ (State.tileRecord s t a) := by
  unfold State.tileRecord
  try dsimp only
  repeat' first
    | with_reducible assumption | with_reducible intro _ | with_reducible apply State.sendNotice_ev | with_reducible apply State.modTile_ev
    | with_reducible apply State.countFault_ev
theorem State.tileFault_ev {o₀ s : State} (t : TileId) (a : FaultArgs) (hev : Evolves o₀ s) :
    Evolves o₀ (State.tileFault s t a) := by
  unfold State.tileFault
  try dsimp only
  repeat' first
    | with_reducible assumption | with_reducible intro _ | with_reducible apply State.clearTile_ev
    | with_reducible apply State.tileRecord_ev | with_reducible refine Evolves.ite (fun _ => ?_) (fun _ => ?_)
theorem State.unitFault_ev {o₀ s : State} (pid : Option PartId) (a : FaultArgs) (hev : Evolves o₀ s) :
    Evolves o₀ (State.unitFault s pid a) := by
  unfold State.unitFault
  try dsimp only
  repeat' first
    | with_reducible assumption | with_reducible apply State.toInbox_ev | with_reducible apply State.countFault_ev
theorem State.partFault_ev {o₀ s : State} (p : PartId) (a : FaultArgs) (hev : Evolves o₀ s) :
    Evolves o₀ (State.partFault s p a) := by
  unfold State.partFault
  try dsimp only
  repeat' first
    | with_reducible assumption | with_reducible apply State.unitFault_ev | with_reducible apply State.clearPart_ev
    | with_reducible refine Evolves.ite (fun _ => ?_) (fun _ => ?_)
theorem State.modSeam_ev {a s : State} (id : Nat) (f : Seam → Seam) (h : Evolves a s) : Evolves a (s.modSeam id f) :=
  ⟨h.member, h.pending, fun x => let y := h.sound x
    ⟨y.tiles, kwf_kput _ _ _ y.seams, y.regions, y.channels, y.bindings, y.rows, y.dram, y.flat, y.inbox, y.faultLog⟩⟩
theorem State.clearSeam_ev {o₀ s : State} (id : Nat) (cls : Byte) (hev : Evolves o₀ s) :
    Evolves o₀ (State.clearSeam s id cls) := by
  unfold State.clearSeam
  try dsimp only
  repeat' first
    | with_reducible assumption | with_reducible apply State.noteClear_ev | with_reducible apply State.modSeam_ev
    | with_reducible refine Evolves.foldl _ (fun _ _ _ => ?_) ?_
theorem State.atWork_ev {o₀ s : State} (t : TileId) (x : Slot) (hev : Evolves o₀ s) :
    Evolves o₀ (State.atWork s t x) := by
  unfold State.atWork
  try dsimp only
  repeat' first
    | with_reducible assumption | with_reducible intro _ | with_reducible apply State.reachJob_ev
    | with_reducible refine Evolves.ite (fun _ => ?_) (fun _ => ?_) | fail_if_no_progress with_reducible apply Evolves.lit
    | refine EvolvesP.of (by with_reducible assumption) ?_ | refine EvolvesS.of (by with_reducible assumption) ?_
    | with_reducible refine EvolvesS.ite (fun _ => ?_) (fun _ => ?_) | exact EvolvesS.none | with_reducible refine EvolvesS.put ?_ | split
theorem State.engFault_ev {o₀ s : State} (t : TileId) (e : Eng) (x : Slot) (cls : Nat) (addr : Nat) (bit : Nat) (clears : Bool)
    (hev : Evolves o₀ s) :
    Evolves o₀ (State.engFault s t e x cls addr bit clears) := by
  unfold State.engFault
  try dsimp only
  repeat' first
    | with_reducible assumption | with_reducible apply State.tileFault_ev
theorem State.bankFault_ev {o₀ s : State} (t : TileId) (e : Eng) (x : Slot) (hit : Option Nat) (hev : Evolves o₀ s) :
    Evolves o₀ (State.bankFault s t e x hit) := by
  unfold State.bankFault
  try dsimp only
  repeat' first
    | with_reducible assumption | with_reducible apply State.engFault_ev | split
theorem State.noteSyms_ev {o₀ s : State} (loc : U64) (sym : BitVec 18) (cls : Byte) (hev : Evolves o₀ s) :
    Evolves o₀ (State.noteSyms s loc sym cls) := by
  unfold State.noteSyms
  try dsimp only
  repeat' first
    | with_reducible assumption | with_reducible intro _ | with_reducible refine Evolves.ite (fun _ => ?_) (fun _ => ?_)
    | fail_if_no_progress with_reducible apply Evolves.lit
theorem State.markRow_ev {o₀ s : State} (loc : U64) (sym : BitVec 18) (cls : Byte) (hev : Evolves o₀ s) :
    Evolves o₀ (State.markRow s loc sym cls) := by
  unfold State.markRow
  try dsimp only
  repeat' first
    | with_reducible assumption | with_reducible intro _ | with_reducible apply State.noteSyms_ev
    | with_reducible refine Evolves.ite (fun _ => ?_) (fun _ => ?_) | fail_if_no_progress with_reducible apply Evolves.lit
theorem State.logDefect_ev {o₀ s : State} (d : Defect) (hev : Evolves o₀ s) :
    Evolves o₀ (State.logDefect s d) := by
  unfold State.logDefect
  try dsimp only
  repeat' first
    | with_reducible assumption | fail_if_no_progress with_reducible apply Evolves.lit
theorem State.dramEvent_ev {o₀ s : State} (code : Nat) (stack : Nat) (loc : U64) (hev : Evolves o₀ s) :
    Evolves o₀ (State.dramEvent s code stack loc) := by
  unfold State.dramEvent
  try dsimp only
  repeat' first
    | with_reducible assumption | with_reducible apply State.postAdmin_ev | with_reducible apply State.postPart_ev | split
theorem State.pinFail_ev {o₀ s : State} (row : U64) (pin : Nat) (hev : Evolves o₀ s) :
    Evolves o₀ (State.pinFail s row pin) := by
  unfold State.pinFail
  try dsimp only
  repeat' first
    | with_reducible assumption | with_reducible apply State.logDefect_ev | with_reducible apply State.dramEvent_ev
    | with_reducible refine Evolves.ite (fun _ => ?_) (fun _ => ?_) | fail_if_no_progress with_reducible apply Evolves.lit
theorem State.corrected_ev {o₀ s : State} (row : U64) (pin : Nat) (hev : Evolves o₀ s) :
    Evolves o₀ (State.corrected s row pin) := by
  unfold State.corrected
  try dsimp only
  repeat' first
    | with_reducible assumption | with_reducible intro _ | with_reducible apply State.noteSyms_ev | with_reducible apply State.pinFail_ev
    | with_reducible apply State.markRow_ev | with_reducible refine Evolves.ite (fun _ => ?_) (fun _ => ?_)
    | fail_if_no_progress with_reducible apply Evolves.lit
theorem State.correct_ev {o₀ s : State} (t : TileId) (w : Corrected) (hev : Evolves o₀ s) :
    Evolves o₀ (State.correct s t w) := by
  unfold State.correct
  try dsimp only
  repeat' first
    | with_reducible assumption | with_reducible intro _ | with_reducible apply State.corrected_ev | with_reducible apply State.modTile_ev
    | with_reducible refine Evolves.ite (fun _ => ?_) (fun _ => ?_) | fail_if_no_progress with_reducible apply Evolves.lit
    | refine EvolvesP.of (by with_reducible assumption) ?_ | refine EvolvesS.of (by with_reducible assumption) ?_
    | with_reducible refine EvolvesS.ite (fun _ => ?_) (fun _ => ?_) | exact EvolvesS.none | with_reducible refine EvolvesS.put ?_ | split
theorem State.correctDram_ev {o₀ s : State} (ecc : Ecc) (hev : Evolves o₀ s) :
    Evolves o₀ (State.correctDram s ecc) := by
  unfold State.correctDram
  try dsimp only
  repeat' first
    | with_reducible assumption | with_reducible intro _ | with_reducible apply State.corrected_ev
    | with_reducible refine Evolves.ite (fun _ => ?_) (fun _ => ?_) | fail_if_no_progress with_reducible apply Evolves.lit
    | refine EvolvesP.of (by with_reducible assumption) ?_ | refine EvolvesS.of (by with_reducible assumption) ?_
    | with_reducible refine EvolvesS.ite (fun _ => ?_) (fun _ => ?_) | exact EvolvesS.none | with_reducible refine EvolvesS.put ?_ | split
theorem State.upsetDram_ev {o₀ s : State} (dpa : Nat) (hev : Evolves o₀ s) :
    Evolves o₀ (State.upsetDram s dpa) := by
  unfold State.upsetDram
  try dsimp only
  repeat' first
    | with_reducible assumption
    | with_reducible apply State.dramPut_ev
    | with_reducible refine Evolves.ite (fun _ => ?_) (fun _ => ?_)
    | split
    | fail_if_no_progress with_reducible apply Evolves.lit
theorem State.upset_ev {o₀ s : State} (t : TileId) (ecc : Ecc) (hev : Evolves o₀ s) :
    Evolves o₀ (State.upset s t ecc) := by
  unfold State.upset
  try dsimp only
  repeat' first
    | with_reducible assumption
    | with_reducible apply State.upsetDram_ev
    | with_reducible apply State.modTile_ev
    | with_reducible refine Evolves.ite (fun _ => ?_) (fun _ => ?_)
    | split
    | fail_if_no_progress with_reducible apply Evolves.lit
theorem State.eccRead_ev {o₀ s : State} (t : TileId) (eng : Nat) (slot : Nat) (pc : Nat) (ecc : Ecc) (hev : Evolves o₀ s) :
    Evolves o₀ (State.eccRead s t eng slot pc ecc) := by
  unfold State.eccRead
  try dsimp only
  repeat' first
    | with_reducible assumption | with_reducible intro _ | with_reducible apply State.tileFault_ev | with_reducible apply State.corrected_ev
    | with_reducible apply State.clearTile_ev | with_reducible apply State.markRow_ev | with_reducible apply State.correct_ev
    | with_reducible apply State.unitFault_ev | with_reducible refine Evolves.ite (fun _ => ?_) (fun _ => ?_)
    | fail_if_no_progress with_reducible apply Evolves.lit | refine EvolvesP.of (by with_reducible assumption) ?_
    | refine EvolvesS.of (by with_reducible assumption) ?_ | with_reducible refine EvolvesS.ite (fun _ => ?_) (fun _ => ?_)
    | exact EvolvesS.none | with_reducible refine EvolvesS.put ?_ | split
theorem State.modSeq_ev {o₀ s : State} (t : TileId) (f : Seq → Seq) (hev : Evolves o₀ s) :
    Evolves o₀ (State.modSeq s t f) := by
  unfold State.modSeq
  try dsimp only
  repeat' first
    | with_reducible assumption | with_reducible apply State.modTile_ev
theorem State.seqTrap_ev {o₀ s : State} (t : TileId) (cause : Nat) (tval : Nat) (hev : Evolves o₀ s) :
    Evolves o₀ (State.seqTrap s t cause tval) := by
  unfold State.seqTrap
  try dsimp only
  repeat' first
    | with_reducible assumption | with_reducible apply State.modSeq_ev
theorem State.seqNext_ev {o₀ s : State} (t : TileId) (len : Nat) (rd : Nat) (w : U32) (hev : Evolves o₀ s) :
    Evolves o₀ (State.seqNext s t len rd w) := by
  unfold State.seqNext
  try dsimp only
  repeat' first
    | with_reducible assumption | with_reducible apply State.modSeq_ev
theorem State.seqBankFault_ev {o₀ s : State} (t : TileId) (pc : Nat) (hit : Option Nat) (hev : Evolves o₀ s) :
    Evolves o₀ (State.seqBankFault s t pc hit) := by
  unfold State.seqBankFault
  try dsimp only
  repeat' first
    | with_reducible assumption | with_reducible apply State.tileFault_ev | split
theorem State.zqRetire_ev {o₀ s : State} (t : TileId) (rd : Nat) (w : U32) (hev : Evolves o₀ s) :
    Evolves o₀ (State.zqRetire s t rd w) := by
  unfold State.zqRetire
  try dsimp only
  repeat' first
    | with_reducible assumption | with_reducible apply State.modTile_ev | with_reducible apply State.modSeq_ev
theorem State.zqStall_ev {o₀ s : State} (t : TileId) (w : SeqWait) (hev : Evolves o₀ s) :
    Evolves o₀ (State.zqStall s t w) := by
  unfold State.zqStall
  try dsimp only
  repeat' first
    | with_reducible assumption | with_reducible apply State.modSeq_ev
theorem State.zqEnq_ev {o₀ s : State} (t : TileId) (e : Eng) (rd : Nat) (rs1 : Nat) (hev : Evolves o₀ s) :
    Evolves o₀ (State.zqEnq s t e rd rs1) := by
  unfold State.zqEnq
  try dsimp only
  repeat' first
    | with_reducible assumption | with_reducible intro _ | with_reducible apply State.zqStall_ev
    | with_reducible apply State.seqBankFault_ev | with_reducible apply State.seqTrap_ev | with_reducible apply State.zqRetire_ev
    | with_reducible apply State.modTile_ev | with_reducible refine Evolves.ite (fun _ => ?_) (fun _ => ?_)
    | fail_if_no_progress with_reducible apply Evolves.lit | refine EvolvesP.of (by with_reducible assumption) ?_
    | refine EvolvesS.of (by with_reducible assumption) ?_ | with_reducible refine EvolvesS.ite (fun _ => ?_) (fun _ => ?_)
    | exact EvolvesS.none | with_reducible refine EvolvesS.put ?_ | split
theorem State.zqWait_ev {o₀ s : State} (t : TileId) (e : Eng) (rs1 : Nat) (hev : Evolves o₀ s) :
    Evolves o₀ (State.zqWait s t e rs1) := by
  unfold State.zqWait
  try dsimp only
  repeat' first
    | with_reducible assumption | with_reducible apply State.zqStall_ev | with_reducible apply State.zqRetire_ev
    | with_reducible refine Evolves.ite (fun _ => ?_) (fun _ => ?_)
theorem State.zqPoll_ev {o₀ s : State} (t : TileId) (e : Eng) (rd : Nat) (hev : Evolves o₀ s) :
    Evolves o₀ (State.zqPoll s t e rd) := by
  unfold State.zqPoll
  try dsimp only
  repeat' first
    | with_reducible assumption | with_reducible apply State.zqRetire_ev
theorem State.beatWaited_ev {o₀ s : State} (t : TileId) (hev : Evolves o₀ s) :
    Evolves o₀ (State.beatWaited s t) := by
  unfold State.beatWaited
  try dsimp only
  repeat' first
    | with_reducible assumption | with_reducible apply State.modTile_ev
theorem State.zqBwait_ev {o₀ s : State} (t : TileId) (hev : Evolves o₀ s) :
    Evolves o₀ (State.zqBwait s t) := by
  unfold State.zqBwait
  try dsimp only
  repeat' first
    | with_reducible assumption | with_reducible apply State.zqStall_ev | with_reducible apply State.zqRetire_ev
    | with_reducible apply State.beatWaited_ev | with_reducible refine Evolves.ite (fun _ => ?_) (fun _ => ?_)
theorem State.zqBsync_ev {o₀ s : State} (t : TileId) (hev : Evolves o₀ s) :
    Evolves o₀ (State.zqBsync s t) := by
  unfold State.zqBsync
  try dsimp only
  repeat' first
    | with_reducible assumption | with_reducible apply State.zqStall_ev | with_reducible apply State.beatWaited_ev
    | with_reducible refine Evolves.ite (fun _ => ?_) (fun _ => ?_)
theorem State.zqWord_ev {o₀ s : State} (t : TileId) (w : Nat) (hev : Evolves o₀ s) :
    Evolves o₀ (State.zqWord s t w) := by
  unfold State.zqWord
  try dsimp only
  repeat' first
    | with_reducible assumption | with_reducible apply State.zqPoll_ev | with_reducible apply State.zqEnq_ev
    | with_reducible apply State.zqWait_ev | with_reducible apply State.zqBsync_ev | with_reducible apply State.zqBwait_ev
    | with_reducible apply State.seqTrap_ev | split
theorem State.seqLoad_ev {o₀ s : State} (t : TileId) (len : Nat) (rd : Nat) (a : Nat) (k : Nat) (sign : Bool) (hev : Evolves o₀ s) :
    Evolves o₀ (State.seqLoad s t len rd a k sign) := by
  unfold State.seqLoad
  try dsimp only
  repeat' first
    | with_reducible assumption | with_reducible apply State.seqBankFault_ev | with_reducible apply State.seqNext_ev
    | with_reducible apply State.seqTrap_ev | with_reducible refine Evolves.ite (fun _ => ?_) (fun _ => ?_)
theorem State.seqStore_ev {o₀ s : State} (t : TileId) (len : Nat) (a : Nat) (k : Nat) (w : U32) (hev : Evolves o₀ s) :
    Evolves o₀ (State.seqStore s t len a k w) := by
  unfold State.seqStore
  try dsimp only
  repeat' first
    | with_reducible assumption | with_reducible apply State.setTile_ev | with_reducible apply State.seqBankFault_ev
    | with_reducible apply State.seqNext_ev | with_reducible apply State.seqTrap_ev
    | with_reducible refine Evolves.ite (fun _ => ?_) (fun _ => ?_)
theorem State.seqCsr_ev {o₀ s : State} (t : TileId) (w : Nat) (len : Nat) (hev : Evolves o₀ s) :
    Evolves o₀ (State.seqCsr s t w len) := by
  unfold State.seqCsr
  try dsimp only
  repeat' first
    | with_reducible assumption | with_reducible apply State.seqNext_ev | with_reducible apply State.modSeq_ev
    | with_reducible apply State.seqTrap_ev | split
theorem State.seqExec_ev {o₀ s : State} (t : TileId) (w : Nat) (len : Nat) (raw : Nat) (hev : Evolves o₀ s) :
    Evolves o₀ (State.seqExec s t w len raw) := by
  unfold State.seqExec
  try dsimp only
  repeat' first
    | with_reducible assumption | with_reducible apply State.zqWord_ev | with_reducible apply State.seqStore_ev
    | with_reducible apply State.seqNext_ev | with_reducible apply State.seqLoad_ev | with_reducible apply State.modSeq_ev
    | with_reducible apply State.seqCsr_ev | with_reducible apply State.seqTrap_ev | split
theorem State.seqEcc_ev {o₀ s : State} (t : TileId) (ecc : Ecc) (pc : Nat) (hev : Evolves o₀ s) :
    Evolves o₀ (State.seqEcc s t ecc pc) := by
  unfold State.seqEcc
  try dsimp only
  repeat' first
    | with_reducible assumption | with_reducible apply State.upset_ev
     | with_reducible apply State.upsetDram_ev | with_reducible apply State.modTile_ev | with_reducible apply State.eccRead_ev | split
theorem State.seqStep_ev {o₀ s : State} (t : TileId) (ecc : Ecc) (hev : Evolves o₀ s) :
    Evolves o₀ (State.seqStep s t ecc) := by
  unfold State.seqStep
  try dsimp only
  repeat' first
    | with_reducible assumption | with_reducible apply State.modSeq_ev | with_reducible apply State.seqExec_ev
    | with_reducible apply State.seqEcc_ev | with_reducible apply State.seqTrap_ev | split
theorem State.onTile_ev {o₀ s : State} (t : TileId) (f : State → State) (h_f : ∀ s', Evolves o₀ s' → Evolves o₀ (f s')) (hev : Evolves o₀ s) :
    EvolvesO o₀ (State.onTile s t f) := by
  unfold State.onTile
  try dsimp only
  repeat' first
    | with_reducible assumption | with_reducible apply h_f | with_reducible refine EvolvesO.ite (fun _ => ?_) (fun _ => ?_)
    | refine EvolvesO.next ?_ | exact EvolvesO.fault _
theorem execSeqInstruction_ev {o₀ s : State} (t : TileId) (ecc : Ecc) (hev : Evolves o₀ s) :
    EvolvesO o₀ (execSeqInstruction t ecc s) := by
  unfold execSeqInstruction
  try dsimp only
  repeat' first
    | with_reducible assumption | with_reducible intro _ | with_reducible apply State.onTile_ev | with_reducible apply State.seqStep_ev
    | with_reducible refine Evolves.ite (fun _ => ?_) (fun _ => ?_)
theorem execZqEnq_ev {o₀ s : State} (t : TileId) (e : Eng) (rd : BitVec 5) (rs1 : BitVec 5) (ecc : Ecc) (hev : Evolves o₀ s) :
    EvolvesO o₀ (execZqEnq t e rd rs1 ecc s) := by
  unfold execZqEnq
  try dsimp only
  repeat' first
    | with_reducible assumption | with_reducible apply State.seqEcc_ev | with_reducible intro _ | with_reducible apply State.onTile_ev | with_reducible apply State.zqEnq_ev
    | with_reducible refine Evolves.ite (fun _ => ?_) (fun _ => ?_)
theorem execZqWait_ev {o₀ s : State} (t : TileId) (e : Eng) (rs1 : BitVec 5) (hev : Evolves o₀ s) :
    EvolvesO o₀ (execZqWait t e rs1 s) := by
  unfold execZqWait
  try dsimp only
  repeat' first
    | with_reducible assumption | with_reducible intro _ | with_reducible apply State.onTile_ev | with_reducible apply State.zqWait_ev
    | with_reducible refine Evolves.ite (fun _ => ?_) (fun _ => ?_)
theorem execZqWaitRetire_ev {o₀ s : State} (t : TileId) (hev : Evolves o₀ s) :
    EvolvesO o₀ (execZqWaitRetire t s) := by
  unfold execZqWaitRetire
  try dsimp only
  repeat' first
    | with_reducible assumption | with_reducible intro _ | with_reducible apply State.onTile_ev | with_reducible apply State.zqRetire_ev
    | split
theorem execZqPoll_ev {o₀ s : State} (t : TileId) (e : Eng) (rd : BitVec 5) (hev : Evolves o₀ s) :
    EvolvesO o₀ (execZqPoll t e rd s) := by
  unfold execZqPoll
  try dsimp only
  repeat' first
    | with_reducible assumption | with_reducible intro _ | with_reducible apply State.zqPoll_ev | with_reducible apply State.onTile_ev
    | with_reducible refine Evolves.ite (fun _ => ?_) (fun _ => ?_)
theorem execZqBwait_ev {o₀ s : State} (t : TileId) (hev : Evolves o₀ s) :
    EvolvesO o₀ (execZqBwait t s) := by
  unfold execZqBwait
  try dsimp only
  repeat' first
    | with_reducible assumption | with_reducible intro _ | with_reducible apply State.onTile_ev | with_reducible apply State.zqBwait_ev
    | with_reducible refine Evolves.ite (fun _ => ?_) (fun _ => ?_)
theorem execZqBwaitRetire_ev {o₀ s : State} (t : TileId) (hev : Evolves o₀ s) :
    EvolvesO o₀ (execZqBwaitRetire t s) := by
  unfold execZqBwaitRetire
  try dsimp only
  repeat' first
    | with_reducible assumption | with_reducible intro _ | with_reducible apply State.onTile_ev | with_reducible apply State.zqRetire_ev
    | with_reducible apply State.beatWaited_ev | split
theorem execZqBsync_ev {o₀ s : State} (t : TileId) (hev : Evolves o₀ s) :
    EvolvesO o₀ (execZqBsync t s) := by
  unfold execZqBsync
  try dsimp only
  repeat' first
    | with_reducible assumption | with_reducible intro _ | with_reducible apply State.zqBsync_ev | with_reducible apply State.onTile_ev
    | with_reducible refine Evolves.ite (fun _ => ?_) (fun _ => ?_)
theorem execZqBsyncRetire_ev {o₀ s : State} (t : TileId) (hev : Evolves o₀ s) :
    EvolvesO o₀ (execZqBsyncRetire t s) := by
  unfold execZqBsyncRetire
  try dsimp only
  repeat' first
    | with_reducible assumption | with_reducible intro _ | with_reducible apply State.onTile_ev | with_reducible apply State.zqRetire_ev
    | with_reducible apply State.reachJob_ev | with_reducible apply State.modTile_ev | split
theorem State.writeOut_ev {o₀ s : State} (t : TileId) (e : Eng) (x : Slot) (ps : List (Nat × Bytes)) (hev : Evolves o₀ s) :
    Evolves o₀ (State.writeOut s t e x ps) := by
  unfold State.writeOut
  try dsimp only
  repeat' first
    | with_reducible assumption | with_reducible apply State.setTile_ev | with_reducible apply State.bankFault_ev
    | with_reducible refine Evolves.ite (fun _ => ?_) (fun _ => ?_)
theorem State.resumeOut_ev {o₀ s : State} (t : TileId) (e : Eng) (x : Slot) (ps : List (Nat × Bytes)) (ecc : Ecc) (hev : Evolves o₀ s) :
    Evolves o₀ (State.resumeOut s t e x ps ecc) := by
  unfold State.resumeOut
  try dsimp only
  repeat' first
    | with_reducible assumption | with_reducible intro _ | with_reducible apply State.upset_ev | with_reducible apply State.writeOut_ev
    | with_reducible apply State.eccRead_ev | with_reducible refine Evolves.ite (fun _ => ?_) (fun _ => ?_)
theorem State.mxeAttempt_ev {o₀ s : State} (t : TileId) (x : Slot) (ecc : Ecc) (hev : Evolves o₀ s) :
    Evolves o₀ (State.mxeAttempt s t x ecc) := by
  unfold State.mxeAttempt
  try dsimp only
  repeat' first
    | with_reducible assumption | with_reducible apply State.upset_ev
     | with_reducible apply State.upsetDram_ev | with_reducible apply State.eccRead_ev | with_reducible apply State.engFault_ev
    | with_reducible apply State.writeOut_ev | with_reducible apply State.modTile_ev | with_reducible apply State.bankFault_ev | split
theorem execMxePassStart_ev {o₀ s : State} (t : TileId) (hev : Evolves o₀ s) :
    EvolvesO o₀ (execMxePassStart t s) := by
  unfold execMxePassStart
  try dsimp only
  repeat' first
    | with_reducible assumption | with_reducible intro _ | with_reducible apply State.onTile_ev | with_reducible apply State.atWork_ev
    | with_reducible apply State.modTile_ev | with_reducible refine EvolvesO.ite (fun _ => ?_) (fun _ => ?_) | refine EvolvesO.next ?_
    | exact EvolvesO.fault _ | with_reducible refine Evolves.ite (fun _ => ?_) (fun _ => ?_)
    | fail_if_no_progress with_reducible apply Evolves.lit | refine EvolvesP.of (by with_reducible assumption) ?_
    | refine EvolvesS.of (by with_reducible assumption) ?_ | with_reducible refine EvolvesS.ite (fun _ => ?_) (fun _ => ?_)
    | exact EvolvesS.none | with_reducible refine EvolvesS.put ?_ | split
theorem execMxeAttemptEnd_ev {o₀ s : State} (t : TileId) (ecc : Ecc) (hev : Evolves o₀ s) :
    EvolvesO o₀ (execMxeAttemptEnd t ecc s) := by
  unfold execMxeAttemptEnd
  try dsimp only
  repeat' first
    | with_reducible assumption | with_reducible intro _ | with_reducible apply State.mxeAttempt_ev
    | with_reducible apply State.resumeOut_ev | with_reducible apply State.onTile_ev
    | with_reducible refine EvolvesO.ite (fun _ => ?_) (fun _ => ?_) | refine EvolvesO.next ?_ | exact EvolvesO.fault _
    | with_reducible refine Evolves.ite (fun _ => ?_) (fun _ => ?_) | fail_if_no_progress with_reducible apply Evolves.lit
    | refine EvolvesP.of (by with_reducible assumption) ?_ | refine EvolvesS.of (by with_reducible assumption) ?_
    | with_reducible refine EvolvesS.ite (fun _ => ?_) (fun _ => ?_) | exact EvolvesS.none | with_reducible refine EvolvesS.put ?_ | split
theorem execMxePassComplete_ev {o₀ s : State} (t : TileId) (hev : Evolves o₀ s) :
    EvolvesO o₀ (execMxePassComplete t s) := by
  unfold execMxePassComplete
  try dsimp only
  repeat' first
    | with_reducible assumption | with_reducible intro _ | with_reducible apply State.onTile_ev | with_reducible apply State.modTile_ev
    | split
theorem State.vxeRun_ev {o₀ s : State} (t : TileId) (x : Slot) (ecc : Ecc) (hev : Evolves o₀ s) :
    Evolves o₀ (State.vxeRun s t x ecc) := by
  unfold State.vxeRun
  try dsimp only
  repeat' first
    | with_reducible assumption | with_reducible apply State.upset_ev
     | with_reducible apply State.upsetDram_ev | with_reducible apply State.bankFault_ev | with_reducible apply State.modTile_ev
    | with_reducible apply State.eccRead_ev | with_reducible apply State.engFault_ev | with_reducible apply State.writeOut_ev
    | fail_if_no_progress with_reducible apply Evolves.lit | split
theorem State.vxeCommand_ev {o₀ s : State} (t : TileId) (op : Nat) (ecc : Ecc) (hev : Evolves o₀ s) :
    Evolves o₀ (State.vxeCommand s t op ecc) := by
  unfold State.vxeCommand
  try dsimp only
  repeat' first
    | with_reducible assumption | with_reducible intro _ | with_reducible apply State.atWork_ev | with_reducible apply State.resumeOut_ev
    | with_reducible apply State.vxeRun_ev | with_reducible refine Evolves.ite (fun _ => ?_) (fun _ => ?_)
    | fail_if_no_progress with_reducible apply Evolves.lit | refine EvolvesP.of (by with_reducible assumption) ?_
    | refine EvolvesS.of (by with_reducible assumption) ?_ | with_reducible refine EvolvesS.ite (fun _ => ?_) (fun _ => ?_)
    | exact EvolvesS.none | with_reducible refine EvolvesS.put ?_ | split
theorem execVxeElementwise_ev {o₀ s : State} (t : TileId) (ecc : Ecc) (hev : Evolves o₀ s) :
    EvolvesO o₀ (execVxeElementwise t ecc s) := by
  unfold execVxeElementwise
  try dsimp only
  repeat' first
    | with_reducible assumption | with_reducible intro _ | with_reducible apply State.onTile_ev | with_reducible apply State.vxeCommand_ev
theorem execVxeReduce_ev {o₀ s : State} (t : TileId) (ecc : Ecc) (hev : Evolves o₀ s) :
    EvolvesO o₀ (execVxeReduce t ecc s) := by
  unfold execVxeReduce
  try dsimp only
  repeat' first
    | with_reducible assumption | with_reducible intro _ | with_reducible apply State.onTile_ev | with_reducible apply State.vxeCommand_ev
theorem execVxeCombine_ev {o₀ s : State} (t : TileId) (ecc : Ecc) (hev : Evolves o₀ s) :
    EvolvesO o₀ (execVxeCombine t ecc s) := by
  unfold execVxeCombine
  try dsimp only
  repeat' first
    | with_reducible assumption | with_reducible intro _ | with_reducible apply State.onTile_ev | with_reducible apply State.vxeCommand_ev
theorem execVxeFacet_ev {o₀ s : State} (t : TileId) (ecc : Ecc) (hev : Evolves o₀ s) :
    EvolvesO o₀ (execVxeFacet t ecc s) := by
  unfold execVxeFacet
  try dsimp only
  repeat' first
    | with_reducible assumption | with_reducible intro _ | with_reducible apply State.onTile_ev | with_reducible apply State.vxeCommand_ev
theorem execVxeTopk_ev {o₀ s : State} (t : TileId) (ecc : Ecc) (hev : Evolves o₀ s) :
    EvolvesO o₀ (execVxeTopk t ecc s) := by
  unfold execVxeTopk
  try dsimp only
  repeat' first
    | with_reducible assumption | with_reducible intro _ | with_reducible apply State.onTile_ev | with_reducible apply State.vxeCommand_ev
theorem execVxeComplete_ev {o₀ s : State} (t : TileId) (hev : Evolves o₀ s) :
    EvolvesO o₀ (execVxeComplete t s) := by
  unfold execVxeComplete
  try dsimp only
  repeat' first
    | with_reducible assumption | with_reducible intro _ | with_reducible apply State.onTile_ev | with_reducible apply State.modTile_ev
    | split
theorem State.modSlot_ev {o₀ s : State} (t : TileId) (e : Eng) (num : Fin 8) (f : Slot → Slot) (hev : Evolves o₀ s) :
    Evolves o₀ (State.modSlot s t e num f) := by
  unfold State.modSlot
  try dsimp only
  repeat' first
    | with_reducible assumption | with_reducible apply State.modTile_ev
theorem State.dmaAsk_ev {o₀ s : State} (t : TileId) (x : Slot) (pkt : Packet) (order : Nat) (hev : Evolves o₀ s) :
    Evolves o₀ (State.dmaAsk s t x pkt order) := by
  unfold State.dmaAsk
  try dsimp only
  repeat' first
    | with_reducible assumption | with_reducible apply State.modTile_ev
theorem State.tileDramPut_ev {o₀ s : State} (t : TileId) (p : PartId) (a : Nat) (bs : Bytes) (hev : Evolves o₀ s) :
    Evolves o₀ (State.tileDramPut s t p a bs) := by
  unfold State.tileDramPut
  try dsimp only
  repeat' first
    | with_reducible assumption | with_reducible intro _ | with_reducible apply State.partWrite_ev
    | with_reducible refine Evolves.ite (fun _ => ?_) (fun _ => ?_)
theorem State.dmaStore_ev {o₀ s : State} (t : TileId) (p : PartId) (x : Slot) (g : DmaArgs) (pos : Nat) (bs : Bytes) (hev : Evolves o₀ s) :
    EvolvesP o₀ (State.dmaStore s t p x g pos bs) := by
  unfold State.dmaStore
  try dsimp only
  repeat' first
    | with_reducible assumption | with_reducible intro _ | with_reducible apply State.tileDramPut_ev | with_reducible apply State.dmaAsk_ev
    | with_reducible apply State.setTile_ev | with_reducible apply State.modSlot_ev | with_reducible apply State.bankFault_ev
    | with_reducible refine EvolvesP.ite (fun _ => ?_) (fun _ => ?_) | with_reducible refine Evolves.ite (fun _ => ?_) (fun _ => ?_)
    | fail_if_no_progress with_reducible apply Evolves.lit | refine EvolvesP.of (by with_reducible assumption) ?_
    | refine EvolvesS.of (by with_reducible assumption) ?_ | with_reducible refine EvolvesS.ite (fun _ => ?_) (fun _ => ?_)
    | exact EvolvesS.none | with_reducible refine EvolvesS.put ?_ | split | with_reducible refine EvolvesP.pair ?_
theorem State.dmaFetch_ev {o₀ s : State} (t : TileId) (p : PartId) (x : Slot) (g : DmaArgs) (pos : Nat) (k : Nat) (hev : Evolves o₀ s) :
    EvolvesP o₀ (State.dmaFetch s t p x g pos k) := by
  unfold State.dmaFetch
  try dsimp only
  repeat' first
    | with_reducible assumption | with_reducible apply State.upset_ev
     | with_reducible apply State.upsetDram_ev | with_reducible apply State.dmaAsk_ev | with_reducible apply State.modSlot_ev
    | with_reducible apply State.eccRead_ev | with_reducible apply State.bankFault_ev | split | with_reducible refine EvolvesP.pair ?_
theorem State.dmaConvert_ev {o₀ s : State} (t : TileId) (x : Slot) (g : DmaArgs) (hev : Evolves o₀ s) :
    EvolvesP o₀ (State.dmaConvert s t x g) := by
  unfold State.dmaConvert
  try dsimp only
  repeat' first
    | with_reducible assumption | with_reducible apply State.modSlot_ev | with_reducible apply State.modTile_ev
    | with_reducible apply State.bankFault_ev | split | with_reducible refine EvolvesP.pair ?_
theorem State.dmaPiece_ev {o₀ s : State} (t : TileId) (p : PartId) (num : Fin 8) (hev : Evolves o₀ s) :
    EvolvesP o₀ (State.dmaPiece s t p num) := by
  unfold State.dmaPiece
  try dsimp only
  repeat' first
    | with_reducible assumption | with_reducible intro _ | with_reducible apply State.dmaStore_ev | with_reducible apply State.dmaFetch_ev
    | with_reducible apply State.modSlot_ev | with_reducible refine (State.dmaStore_ev _ _ _ _ _ _ ?_).fst
    | with_reducible refine (State.dmaFetch_ev _ _ _ _ _ _ ?_).fst | with_reducible refine EvolvesP.ite (fun _ => ?_) (fun _ => ?_)
    | with_reducible refine Evolves.ite (fun _ => ?_) (fun _ => ?_) | fail_if_no_progress with_reducible apply Evolves.lit
    | refine EvolvesP.of (by with_reducible assumption) ?_ | refine EvolvesS.of (by with_reducible assumption) ?_
    | with_reducible refine EvolvesS.ite (fun _ => ?_) (fun _ => ?_) | exact EvolvesS.none | with_reducible refine EvolvesS.put ?_ | split
    | with_reducible refine EvolvesP.pair ?_
theorem State.dmaPieces_ev {o₀ : State} (t : TileId) (p : PartId) (num : Fin 8) (fuel : Nat) : ∀ {s : State} , Evolves o₀ s → Evolves o₀
    (State.dmaPieces t p num fuel s) := by
  induction fuel with
  | zero => exact fun hev => hev | succ fuel ih =>
    intro s hev
    unfold State.dmaPieces
    try dsimp only
    repeat' first
      | with_reducible assumption | with_reducible apply ih | with_reducible refine Evolves.ite (fun _ => ?_) (fun _ => ?_)
      | with_reducible refine (State.dmaPiece_ev _ _ _ ?_).fst
theorem State.dmaSlot_ev {o₀ s : State} (t : TileId) (op : Nat) (num : Fin 8) (hev : Evolves o₀ s) :
    Evolves o₀ (State.dmaSlot s t op num) := by
  unfold State.dmaSlot
  try dsimp only
  repeat' first
    | with_reducible assumption | with_reducible apply State.dmaConvert_ev | with_reducible apply State.dmaPieces_ev
    | with_reducible apply State.modSlot_ev | with_reducible apply State.atWork_ev
    | with_reducible refine Evolves.ite (fun _ => ?_) (fun _ => ?_) | refine EvolvesP.of (by with_reducible assumption) ?_ | split
theorem State.dmaEcc_ev {o₀ s : State} (t : TileId) (op : Nat) (ecc : Ecc) (hev : Evolves o₀ s) :
    Evolves o₀ (State.dmaEcc s t op ecc) := by
  unfold State.dmaEcc
  try dsimp only
  repeat' first
    | with_reducible assumption | with_reducible apply State.upset_ev
     | with_reducible apply State.upsetDram_ev | with_reducible apply State.eccRead_ev | split
theorem State.dmaCommand_ev {o₀ s : State} (t : TileId) (op : Nat) (ecc : Ecc) (hev : Evolves o₀ s) :
    Evolves o₀ (State.dmaCommand s t op ecc) := by
  unfold State.dmaCommand
  try dsimp only
  repeat' first
    | with_reducible assumption | with_reducible apply State.dmaSlot_ev | with_reducible apply State.dmaEcc_ev
    | with_reducible refine Evolves.foldl _ (fun _ _ _ => ?_) ?_ | fail_if_no_progress with_reducible apply Evolves.lit
theorem State.wopenSlot_ev {o₀ s : State} (t : TileId) (p : PartId) (x : Slot) (ecc : Ecc) (hev : Evolves o₀ s) :
    Evolves o₀ (State.wopenSlot s t p x ecc) := by
  unfold State.wopenSlot
  try dsimp only
  repeat' first
    | with_reducible assumption | with_reducible apply State.upset_ev
     | with_reducible apply State.upsetDram_ev
     | with_reducible apply State.eccRead_ev | with_reducible apply State.bankFault_ev | with_reducible apply State.modSlot_ev
    | with_reducible apply State.modTile_ev | split
theorem State.wcloseSlot_ev {o₀ s : State} (t : TileId) (x : Slot) (hev : Evolves o₀ s) :
    Evolves o₀ (State.wcloseSlot s t x) := by
  unfold State.wcloseSlot
  try dsimp only
  repeat' first
    | with_reducible assumption | with_reducible apply State.modTile_ev
theorem State.putStatus_ev {o₀ s : State} (t : TileId) (e : Eng) (x : Slot) (a : Nat) (hev : Evolves o₀ s) :
    Evolves o₀ (State.putStatus s t e x a) := by
  unfold State.putStatus
  try dsimp only
  repeat' first
    | with_reducible assumption | with_reducible intro _ | with_reducible apply State.setTile_ev | with_reducible apply State.bankFault_ev
    | with_reducible refine Evolves.ite (fun _ => ?_) (fun _ => ?_)
theorem State.statusRecord_ev {o₀ s : State} (t : TileId) (e : Eng) (x : Slot) (bit : Nat) (hev : Evolves o₀ s) :
    Evolves o₀ (State.statusRecord s t e x bit) := by
  unfold State.statusRecord
  try dsimp only
  repeat' first
    | with_reducible assumption | with_reducible apply State.engFault_ev | split
theorem State.dmaFinish_ev {o₀ s : State} (t : TileId) (x : Slot) (hev : Evolves o₀ s) :
    Evolves o₀ (State.dmaFinish s t x) := by
  unfold State.dmaFinish
  try dsimp only
  repeat' first
    | with_reducible assumption | with_reducible intro _ | with_reducible apply State.putStatus_ev
    | with_reducible apply State.statusRecord_ev | with_reducible apply State.modTile_ev | with_reducible apply State.modSlot_ev
    | with_reducible refine Evolves.ite (fun _ => ?_) (fun _ => ?_) | fail_if_no_progress with_reducible apply Evolves.lit
    | refine EvolvesP.of (by with_reducible assumption) ?_ | refine EvolvesS.of (by with_reducible assumption) ?_
    | with_reducible refine EvolvesS.ite (fun _ => ?_) (fun _ => ?_) | exact EvolvesS.none | with_reducible refine EvolvesS.put ?_ | split
theorem execDmaCopy_ev {o₀ s : State} (t : TileId) (ecc : Ecc) (hev : Evolves o₀ s) :
    EvolvesO o₀ (execDmaCopy t ecc s) := by
  unfold execDmaCopy
  try dsimp only
  repeat' first
    | with_reducible assumption | with_reducible intro _ | with_reducible apply State.onTile_ev | with_reducible apply State.dmaCommand_ev
theorem execDmaConvert_ev {o₀ s : State} (t : TileId) (ecc : Ecc) (hev : Evolves o₀ s) :
    EvolvesO o₀ (execDmaConvert t ecc s) := by
  unfold execDmaConvert
  try dsimp only
  repeat' first
    | with_reducible assumption | with_reducible intro _ | with_reducible apply State.onTile_ev | with_reducible apply State.dmaCommand_ev
theorem execDmaWopen_ev {o₀ s : State} (t : TileId) (ecc : Ecc) (hev : Evolves o₀ s) :
    EvolvesO o₀ (execDmaWopen t ecc s) := by
  unfold execDmaWopen
  try dsimp only
  repeat' first
    | with_reducible assumption | with_reducible intro _ | with_reducible apply State.onTile_ev | with_reducible apply State.atWork_ev
    | with_reducible apply State.wopenSlot_ev | with_reducible refine EvolvesO.ite (fun _ => ?_) (fun _ => ?_) | refine EvolvesO.next ?_
    | exact EvolvesO.fault _ | with_reducible refine Evolves.ite (fun _ => ?_) (fun _ => ?_)
    | fail_if_no_progress with_reducible apply Evolves.lit | refine EvolvesP.of (by with_reducible assumption) ?_
    | refine EvolvesS.of (by with_reducible assumption) ?_ | with_reducible refine EvolvesS.ite (fun _ => ?_) (fun _ => ?_)
    | exact EvolvesS.none | with_reducible refine EvolvesS.put ?_ | split
theorem execDmaWclose_ev {o₀ s : State} (t : TileId) (hev : Evolves o₀ s) :
    EvolvesO o₀ (execDmaWclose t s) := by
  unfold execDmaWclose
  try dsimp only
  repeat' first
    | with_reducible assumption | with_reducible intro _ | with_reducible apply State.wcloseSlot_ev | with_reducible apply State.onTile_ev
    | with_reducible apply State.atWork_ev | with_reducible refine EvolvesO.ite (fun _ => ?_) (fun _ => ?_) | refine EvolvesO.next ?_
    | exact EvolvesO.fault _ | with_reducible refine Evolves.ite (fun _ => ?_) (fun _ => ?_)
    | fail_if_no_progress with_reducible apply Evolves.lit | refine EvolvesP.of (by with_reducible assumption) ?_
    | refine EvolvesS.of (by with_reducible assumption) ?_ | with_reducible refine EvolvesS.ite (fun _ => ?_) (fun _ => ?_)
    | exact EvolvesS.none | with_reducible refine EvolvesS.put ?_ | split
theorem execDmaComplete_ev {o₀ s : State} (t : TileId) (hev : Evolves o₀ s) :
    EvolvesO o₀ (execDmaComplete t s) := by
  unfold execDmaComplete
  try dsimp only
  repeat' first
    | with_reducible assumption | with_reducible intro _ | with_reducible apply State.onTile_ev | with_reducible apply State.dmaFinish_ev
    | split
theorem State.abandon_ev {o₀ s : State} (t : TileId) (e : Eng) (x : Slot) (st : Stall) (hev : Evolves o₀ s) :
    Evolves o₀ (State.abandon s t e x st) := by
  unfold State.abandon
  try dsimp only
  repeat' first
    | with_reducible assumption | with_reducible apply State.modTile_ev | with_reducible apply State.putStatus_ev
    | with_reducible apply State.engFault_ev | with_reducible refine Evolves.ite (fun _ => ?_) (fun _ => ?_)
theorem State.reply_ev {o₀ s : State} (t : TileId) (q : Packet) (status : Nat) (data : Bytes) (ue : Bool) (hev : Evolves o₀ s) :
    Evolves o₀ (State.reply s t q status data ue) := by
  unfold State.reply
  try dsimp only
  repeat' first
    | with_reducible assumption | with_reducible intro _ | with_reducible apply State.enter_ev
    | with_reducible refine Evolves.ite (fun _ => ?_) (fun _ => ?_) | fail_if_no_progress with_reducible apply Evolves.lit
    | refine EvolvesP.of (by with_reducible assumption) ?_ | refine EvolvesS.of (by with_reducible assumption) ?_
    | with_reducible refine EvolvesS.ite (fun _ => ?_) (fun _ => ?_) | exact EvolvesS.none | with_reducible refine EvolvesS.put ?_ | split
theorem State.dropHeld_ev {o₀ s : State} (t : TileId) (h : HeldWrite) (hev : Evolves o₀ s) :
    Evolves o₀ (State.dropHeld s t h) := by
  unfold State.dropHeld
  try dsimp only
  repeat' first
    | with_reducible assumption | with_reducible apply State.reply_ev | with_reducible apply State.tileFault_ev
    | with_reducible apply State.modTile_ev
theorem execRingStallTimeout_ev {o₀ s : State} (t : TileId) (index : Nat) (hev : Evolves o₀ s) :
    EvolvesO o₀ (execRingStallTimeout t index s) := by
  unfold execRingStallTimeout
  try dsimp only
  repeat' first
    | with_reducible assumption | with_reducible intro _ | with_reducible apply State.onTile_ev | with_reducible apply State.dropHeld_ev
    | with_reducible apply State.abandon_ev | with_reducible apply State.reachJob_ev | split
theorem State.acceptHeld_ev {o₀ s : State} (t : TileId) (h : HeldWrite) (ecc : Ecc) (hev : Evolves o₀ s) :
    Evolves o₀ (State.acceptHeld s t h ecc) := by
  unfold State.acceptHeld
  try dsimp only
  repeat' first
    | with_reducible assumption | with_reducible apply State.upset_ev
     | with_reducible apply State.upsetDram_ev
     | with_reducible apply State.eccRead_ev | with_reducible apply State.setTile_ev | with_reducible apply State.reply_ev | split
theorem execRingHeldWriteAccept_ev {o₀ s : State} (t : TileId) (index : Nat) (ecc : Ecc) (hev : Evolves o₀ s) :
    EvolvesO o₀ (execRingHeldWriteAccept t index ecc s) := by
  unfold execRingHeldWriteAccept
  try dsimp only
  repeat' first
    | with_reducible assumption | with_reducible intro _ | with_reducible apply State.dropHeld_ev | with_reducible apply State.onTile_ev
    | with_reducible apply State.acceptHeld_ev | with_reducible refine EvolvesO.ite (fun _ => ?_) (fun _ => ?_) | refine EvolvesO.next ?_
    | exact EvolvesO.fault _ | with_reducible refine Evolves.ite (fun _ => ?_) (fun _ => ?_)
    | fail_if_no_progress with_reducible apply Evolves.lit | refine EvolvesP.of (by with_reducible assumption) ?_
    | refine EvolvesS.of (by with_reducible assumption) ?_ | with_reducible refine EvolvesS.ite (fun _ => ?_) (fun _ => ?_)
    | exact EvolvesS.none | with_reducible refine EvolvesS.put ?_ | split
theorem State.bankDrained_ev {o₀ s : State} (t : TileId) (b : BankId) (ecc : Ecc) (hev : Evolves o₀ s) :
    Evolves o₀ (State.bankDrained s t b ecc) := by
  unfold State.bankDrained
  try dsimp only
  repeat' first
    | with_reducible assumption | with_reducible intro _ | with_reducible apply State.upset_ev | with_reducible apply State.modTile_ev
    | with_reducible apply State.eccRead_ev | with_reducible apply State.reply_ev
    | with_reducible refine Evolves.ite (fun _ => ?_) (fun _ => ?_) | with_reducible refine Evolves.foldl _ (fun _ _ _ => ?_) ?_
theorem execBankDrainDone_ev {o₀ s : State} (t : TileId) (d : BankDrain) (hev : Evolves o₀ s) :
    EvolvesO o₀ (execBankDrainDone t d s) := by
  unfold execBankDrainDone
  try dsimp only
  repeat' first
    | with_reducible assumption | with_reducible intro _ | with_reducible apply State.onTile_ev | with_reducible apply State.bankDrained_ev
    | with_reducible refine EvolvesO.ite (fun _ => ?_) (fun _ => ?_) | refine EvolvesO.next ?_ | exact EvolvesO.fault _
    | with_reducible refine Evolves.ite (fun _ => ?_) (fun _ => ?_) | fail_if_no_progress with_reducible apply Evolves.lit
    | refine EvolvesP.of (by with_reducible assumption) ?_ | refine EvolvesS.of (by with_reducible assumption) ?_
    | with_reducible refine EvolvesS.ite (fun _ => ?_) (fun _ => ?_) | exact EvolvesS.none | with_reducible refine EvolvesS.put ?_ | split
theorem State.bankDropped_ev {o₀ s : State} (t : TileId) (b : BankId) (hev : Evolves o₀ s) :
    Evolves o₀ (State.bankDropped s t b) := by
  unfold State.bankDropped
  try dsimp only
  repeat' first
    | with_reducible assumption | with_reducible apply State.reply_ev | with_reducible apply State.modTile_ev
    | with_reducible refine Evolves.foldl _ (fun _ _ _ => ?_) ?_
theorem execBankDrainTimeout_ev {o₀ s : State} (t : TileId) (bank : BankId) (hev : Evolves o₀ s) :
    EvolvesO o₀ (execBankDrainTimeout t bank s) := by
  unfold execBankDrainTimeout
  try dsimp only
  repeat' first
    | with_reducible assumption | with_reducible intro _ | with_reducible apply State.onTile_ev | with_reducible apply State.reachJob_ev
    | with_reducible apply State.bankDropped_ev | split
theorem State.bankCleared_ev {o₀ s : State} (t : TileId) (b : BankId) (hev : Evolves o₀ s) :
    Evolves o₀ (State.bankCleared s t b) := by
  unfold State.bankCleared
  try dsimp only
  repeat' first
    | with_reducible assumption | with_reducible apply State.modTile_ev
theorem execBankClearDone_ev {o₀ s : State} (t : TileId) (bank : BankId) (hev : Evolves o₀ s) :
    EvolvesO o₀ (execBankClearDone t bank s) := by
  unfold execBankClearDone
  try dsimp only
  repeat' first
    | with_reducible assumption | with_reducible intro _ | with_reducible apply State.bankCleared_ev | with_reducible apply State.onTile_ev
    | with_reducible refine Evolves.ite (fun _ => ?_) (fun _ => ?_)
theorem State.modChan_ev {o₀ s : State} (c : Nat) (f : Chan → Chan) (hev : Evolves o₀ s) : Evolves o₀ (s.modChan c f) :=
  ⟨hev.member, hev.pending, fun x => let y := hev.sound x
    ⟨y.tiles, y.seams, y.regions, kwf_kput _ _ _ y.channels, y.bindings, y.rows, y.dram, y.flat, y.inbox, y.faultLog⟩⟩
theorem State.setChan_ev {o₀ s : State} (t : TileId) (c : Nat) (f : Chan → Chan) (hev : Evolves o₀ s) :
    Evolves o₀ (State.setChan s t c f) := by
  unfold State.setChan
  try dsimp only
  repeat' first
    | with_reducible assumption | with_reducible intro _ | with_reducible apply State.modChan_ev
    | with_reducible refine Evolves.ite (fun _ => ?_) (fun _ => ?_)
theorem State.putWord_ev {o₀ s : State} (t : TileId) (a : Nat) (bs : Bytes) (hev : Evolves o₀ s) :
    Evolves o₀ (State.putWord s t a bs) := by
  unfold State.putWord
  try dsimp only
  repeat' first
    | with_reducible assumption | with_reducible intro _ | with_reducible apply State.setTile_ev | with_reducible apply State.tileFault_ev
    | with_reducible refine Evolves.ite (fun _ => ?_) (fun _ => ?_) | fail_if_no_progress with_reducible apply Evolves.lit
    | refine EvolvesP.of (by with_reducible assumption) ?_ | refine EvolvesS.of (by with_reducible assumption) ?_
    | with_reducible refine EvolvesS.ite (fun _ => ?_) (fun _ => ?_) | exact EvolvesS.none | with_reducible refine EvolvesS.put ?_ | split
theorem State.unitRequest_ev {o₀ s : State} (t : TileId) (p : PartId) (type : Nat) (dst : U32) (dstu : Nat) (addr : Nat) (payload : Bytes)
    (hev : Evolves o₀ s) :
    Evolves o₀ (State.unitRequest s t p type dst dstu addr payload) := by
  unfold State.unitRequest
  try dsimp only
  repeat' first
    | with_reducible assumption | with_reducible apply State.modTile_ev
theorem State.sendClosed_ev {o₀ s : State} (t : TileId) (c : Nat) (hev : Evolves o₀ s) :
    Evolves o₀ (State.sendClosed s t c) := by
  unfold State.sendClosed
  try dsimp only
  repeat' first
    | with_reducible assumption | with_reducible intro _ | with_reducible apply State.setChan_ev
    | with_reducible refine Evolves.ite (fun _ => ?_) (fun _ => ?_)
theorem State.msgFinishAt_ev {o₀ s : State} (t : TileId) (x : Slot) (status : Nat) (addr : Nat) (hev : Evolves o₀ s) :
    Evolves o₀ (State.msgFinishAt s t x status addr) := by
  unfold State.msgFinishAt
  try dsimp only
  repeat' first
    | with_reducible assumption | with_reducible intro _ | with_reducible apply State.modSlot_ev
theorem State.msgFinish_ev {o₀ s : State} (t : TileId) (x : Slot) (status : Nat) (hev : Evolves o₀ s) :
    Evolves o₀ (State.msgFinish s t x status) := by
  unfold State.msgFinish
  try dsimp only
  repeat' first
    | with_reducible assumption | with_reducible intro _ | with_reducible apply State.msgFinishAt_ev
theorem State.msgStarted_ev {o₀ s : State} (t : TileId) (x : Slot) (hev : Evolves o₀ s) :
    Evolves o₀ (State.msgStarted s t x) := by
  unfold State.msgStarted
  try dsimp only
  repeat' first
    | with_reducible assumption | with_reducible apply State.modSlot_ev
theorem State.msgAsk_ev {o₀ s : State} (t : TileId) (p : PartId) (x : Slot) (type : Nat) (dst : U32 × Nat) (addr : Nat) (payload : Bytes)
    (hev : Evolves o₀ s) :
    Evolves o₀ (State.msgAsk s t p x type dst addr payload) := by
  unfold State.msgAsk
  try dsimp only
  repeat' first
    | with_reducible assumption | with_reducible apply State.modTile_ev
theorem State.msgListen_ev {o₀ s : State} (t : TileId) (x : Slot) (hev : Evolves o₀ s) :
    Evolves o₀ (State.msgListen s t x) := by
  unfold State.msgListen
  try dsimp only
  repeat' first
    | with_reducible assumption | with_reducible intro _ | with_reducible apply State.setChan_ev | with_reducible apply State.msgFinish_ev
    | with_reducible refine Evolves.ite (fun _ => ?_) (fun _ => ?_)
theorem State.msgOpen_ev {o₀ s : State} (t : TileId) (p : PartId) (x : Slot) (hev : Evolves o₀ s) :
    Evolves o₀ (State.msgOpen s t p x) := by
  unfold State.msgOpen
  try dsimp only
  repeat' first
    | with_reducible assumption | with_reducible intro _ | with_reducible apply State.msgAsk_ev | with_reducible apply State.setChan_ev
    | with_reducible apply State.msgFinish_ev | with_reducible apply State.msgStarted_ev
    | with_reducible refine Evolves.ite (fun _ => ?_) (fun _ => ?_)
theorem State.msgSend_ev {o₀ s : State} (t : TileId) (p : PartId) (x : Slot) (hev : Evolves o₀ s) :
    Evolves o₀ (State.msgSend s t p x) := by
  unfold State.msgSend
  try dsimp only
  repeat' first
    | with_reducible assumption | with_reducible intro _ | with_reducible apply State.sendClosed_ev
    | with_reducible apply State.msgFinish_ev | with_reducible apply State.modSlot_ev
    | with_reducible refine Evolves.ite (fun _ => ?_) (fun _ => ?_)
theorem State.takeAllot_ev {o₀ s : State} (t : TileId) (x : Slot) (need : Nat) (a : U32 × U32) (hev : Evolves o₀ s) :
    Evolves o₀ (State.takeAllot s t x need a) := by
  unfold State.takeAllot
  try dsimp only
  repeat' first
    | with_reducible assumption | with_reducible intro _ | with_reducible apply State.modTile_ev | with_reducible apply State.setChan_ev
    | with_reducible apply State.modSlot_ev | with_reducible refine Evolves.ite (fun _ => ?_) (fun _ => ?_)
theorem State.msgAllot_ev {o₀ s : State} (t : TileId) (p : PartId) (x : Slot) (ecc : Ecc) (hev : Evolves o₀ s) :
    Evolves o₀ (State.msgAllot s t p x ecc) := by
  unfold State.msgAllot
  try dsimp only
  repeat' first
    | with_reducible assumption | with_reducible intro _ | with_reducible apply State.upset_ev | with_reducible apply State.sendClosed_ev
    | with_reducible apply State.msgAsk_ev | with_reducible apply State.eccRead_ev | with_reducible apply State.modSlot_ev
    | with_reducible apply State.msgFinish_ev | with_reducible apply State.bankFault_ev | with_reducible apply State.takeAllot_ev
    | with_reducible refine Evolves.ite (fun _ => ?_) (fun _ => ?_) | fail_if_no_progress with_reducible apply Evolves.lit
    | refine EvolvesP.of (by with_reducible assumption) ?_ | refine EvolvesS.of (by with_reducible assumption) ?_
    | with_reducible refine EvolvesS.ite (fun _ => ?_) (fun _ => ?_) | exact EvolvesS.none | with_reducible refine EvolvesS.put ?_ | split
theorem State.msgRelease_ev {o₀ s : State} (t : TileId) (p : PartId) (x : Slot) (hev : Evolves o₀ s) :
    Evolves o₀ (State.msgRelease s t p x) := by
  unfold State.msgRelease
  try dsimp only
  repeat' first
    | with_reducible assumption | with_reducible intro _ | with_reducible apply State.msgAsk_ev | with_reducible apply State.setChan_ev
    | with_reducible apply State.msgFinish_ev | with_reducible refine Evolves.ite (fun _ => ?_) (fun _ => ?_)
theorem State.msgClose_ev {o₀ s : State} (t : TileId) (p : PartId) (x : Slot) (hev : Evolves o₀ s) :
    Evolves o₀ (State.msgClose s t p x) := by
  unfold State.msgClose
  try dsimp only
  repeat' first
    | with_reducible assumption | with_reducible intro _ | with_reducible apply State.msgAsk_ev | with_reducible apply State.setChan_ev
    | with_reducible apply State.msgFinish_ev | with_reducible refine Evolves.ite (fun _ => ?_) (fun _ => ?_)
theorem State.msgReplied_ev {o₀ s : State} (t : TileId) (x : Slot) (status : Nat) (addr : Nat) (hev : Evolves o₀ s) :
    Evolves o₀ (State.msgReplied s t x status addr) := by
  unfold State.msgReplied
  try dsimp only
  repeat' first
    | with_reducible assumption | with_reducible intro _ | with_reducible apply State.engFault_ev
    | with_reducible apply State.msgFinishAt_ev | with_reducible apply State.setChan_ev
    | with_reducible refine Evolves.ite (fun _ => ?_) (fun _ => ?_) | fail_if_no_progress with_reducible apply Evolves.lit
    | refine EvolvesP.of (by with_reducible assumption) ?_ | refine EvolvesS.of (by with_reducible assumption) ?_
    | with_reducible refine EvolvesS.ite (fun _ => ?_) (fun _ => ?_) | exact EvolvesS.none | with_reducible refine EvolvesS.put ?_ | split
theorem State.showSend_ev {o₀ s : State} (t : TileId) (x : Slot) (hev : Evolves o₀ s) :
    Evolves o₀ (State.showSend s t x) := by
  unfold State.showSend
  try dsimp only
  repeat' first
    | with_reducible assumption | with_reducible intro _ | with_reducible apply State.putWord_ev | with_reducible apply State.modChan_ev
    | with_reducible apply State.forTiles_ev | with_reducible refine Evolves.ite (fun _ => ?_) (fun _ => ?_)
theorem State.msgComplete_ev {o₀ s : State} (t : TileId) (x : Slot) (hev : Evolves o₀ s) :
    Evolves o₀ (State.msgComplete s t x) := by
  unfold State.msgComplete
  try dsimp only
  repeat' first
    | with_reducible assumption | with_reducible intro _ | with_reducible apply State.putStatus_ev
    | with_reducible apply State.statusRecord_ev | with_reducible apply State.modTile_ev | with_reducible apply State.modSlot_ev
    | with_reducible apply State.showSend_ev | with_reducible refine Evolves.ite (fun _ => ?_) (fun _ => ?_)
    | fail_if_no_progress with_reducible apply Evolves.lit | refine EvolvesP.of (by with_reducible assumption) ?_
    | refine EvolvesS.of (by with_reducible assumption) ?_ | with_reducible refine EvolvesS.ite (fun _ => ?_) (fun _ => ?_)
    | exact EvolvesS.none | with_reducible refine EvolvesS.put ?_ | split
theorem State.hangReply_ev {o₀ s : State} (t : TileId) (p : PartId) (tag : U16) (pc : Nat) (from_ : Int) (to_ : Int) (hev : Evolves o₀ s) :
    Evolves o₀ (State.hangReply s t p tag pc from_ to_) := by
  unfold State.hangReply
  try dsimp only
  repeat' first
    | with_reducible assumption | with_reducible apply State.tileFault_ev | with_reducible apply State.modTile_ev
theorem State.sendOverdue_ev {o₀ s : State} (t : TileId) (p : PartId) (x : Slot) (hev : Evolves o₀ s) :
    Evolves o₀ (State.sendOverdue s t p x) := by
  unfold State.sendOverdue
  try dsimp only
  repeat' first
    | with_reducible assumption | with_reducible apply State.msgReplied_ev | with_reducible apply State.hangReply_ev
theorem State.onMsg_ev {o₀ s : State} (t : TileId) (op : Nat) (f : State → PartId → Slot → State)
    (h_f : ∀ s' x1' x2', Evolves o₀ s' → Evolves o₀ (f s' x1' x2')) (hev : Evolves o₀ s) :
    EvolvesO o₀ (State.onMsg s t op f) := by
  unfold State.onMsg
  try dsimp only
  repeat' first
    | with_reducible assumption | with_reducible intro _ | with_reducible apply h_f | with_reducible apply State.onTile_ev
    | with_reducible apply State.atWork_ev | with_reducible refine EvolvesO.ite (fun _ => ?_) (fun _ => ?_) | refine EvolvesO.next ?_
    | exact EvolvesO.fault _ | with_reducible refine Evolves.ite (fun _ => ?_) (fun _ => ?_)
    | fail_if_no_progress with_reducible apply Evolves.lit | refine EvolvesP.of (by with_reducible assumption) ?_
    | refine EvolvesS.of (by with_reducible assumption) ?_ | with_reducible refine EvolvesS.ite (fun _ => ?_) (fun _ => ?_)
    | exact EvolvesS.none | with_reducible refine EvolvesS.put ?_ | split
theorem execMsgListen_ev {o₀ s : State} (t : TileId) (hev : Evolves o₀ s) :
    EvolvesO o₀ (execMsgListen t s) := by
  unfold execMsgListen
  try dsimp only
  repeat' first
    | with_reducible assumption | with_reducible intro _ | with_reducible apply State.onMsg_ev | with_reducible apply State.msgListen_ev
theorem execMsgOpen_ev {o₀ s : State} (t : TileId) (hev : Evolves o₀ s) :
    EvolvesO o₀ (execMsgOpen t s) := by
  unfold execMsgOpen
  try dsimp only
  repeat' first
    | with_reducible assumption | with_reducible intro _ | with_reducible apply State.msgOpen_ev | with_reducible apply State.onMsg_ev
theorem execMsgSend_ev {o₀ s : State} (t : TileId) (hev : Evolves o₀ s) :
    EvolvesO o₀ (execMsgSend t s) := by
  unfold execMsgSend
  try dsimp only
  repeat' first
    | with_reducible assumption | with_reducible intro _ | with_reducible apply State.msgSend_ev | with_reducible apply State.onMsg_ev
theorem execMsgSendAllot_ev {o₀ s : State} (t : TileId) (chan : BitVec 20) (ecc : Ecc) (hev : Evolves o₀ s) :
    EvolvesO o₀ (execMsgSendAllot t chan ecc s) := by
  unfold execMsgSendAllot
  try dsimp only
  repeat' first
    | with_reducible assumption | with_reducible intro _ | with_reducible apply State.msgAllot_ev
    | with_reducible apply State.sendOverdue_ev | with_reducible apply State.onTile_ev
    | with_reducible refine EvolvesO.ite (fun _ => ?_) (fun _ => ?_) | refine EvolvesO.next ?_ | exact EvolvesO.fault _
    | with_reducible refine Evolves.ite (fun _ => ?_) (fun _ => ?_) | fail_if_no_progress with_reducible apply Evolves.lit
    | refine EvolvesP.of (by with_reducible assumption) ?_ | refine EvolvesS.of (by with_reducible assumption) ?_
    | with_reducible refine EvolvesS.ite (fun _ => ?_) (fun _ => ?_) | exact EvolvesS.none | with_reducible refine EvolvesS.put ?_ | split
theorem execMsgRelease_ev {o₀ s : State} (t : TileId) (hev : Evolves o₀ s) :
    EvolvesO o₀ (execMsgRelease t s) := by
  unfold execMsgRelease
  try dsimp only
  repeat' first
    | with_reducible assumption | with_reducible intro _ | with_reducible apply State.msgRelease_ev | with_reducible apply State.onMsg_ev
theorem execMsgClose_ev {o₀ s : State} (t : TileId) (hev : Evolves o₀ s) :
    EvolvesO o₀ (execMsgClose t s) := by
  unfold execMsgClose
  try dsimp only
  repeat' first
    | with_reducible assumption | with_reducible intro _ | with_reducible apply State.msgClose_ev | with_reducible apply State.onMsg_ev
theorem execMsgUnitComplete_ev {o₀ s : State} (t : TileId) (hev : Evolves o₀ s) :
    EvolvesO o₀ (execMsgUnitComplete t s) := by
  unfold execMsgUnitComplete
  try dsimp only
  repeat' first
    | with_reducible assumption | with_reducible intro _ | with_reducible apply State.onTile_ev | with_reducible apply State.msgComplete_ev
    | split
theorem State.atEnd_ev {o₀ s : State} (d : EndAt) (f : State → State) (h_f : ∀ s', Evolves o₀ s' → Evolves o₀ (f s')) (hev : Evolves o₀ s) :
    EvolvesO o₀ (State.atEnd s d f) := by
  unfold State.atEnd
  try dsimp only
  repeat' first
    | with_reducible assumption | with_reducible apply h_f | with_reducible apply State.onTile_ev | refine EvolvesO.next ?_ | split
theorem State.endReply_ev {o₀ s : State} (d : EndAt) (q : Packet) (status : Nat) (hev : Evolves o₀ s) :
    Evolves o₀ (State.endReply s d q status) := by
  unfold State.endReply
  try dsimp only
  repeat' first
    | with_reducible assumption | with_reducible apply State.reply_ev | fail_if_no_progress with_reducible apply Evolves.lit | split
theorem State.takeAt_ev {o₀ s : State} (d : EndAt) (q : Packet) (hev : Evolves o₀ s) :
    Evolves o₀ (State.takeAt s d q) := by
  unfold State.takeAt
  try dsimp only
  repeat' first
    | with_reducible assumption | with_reducible apply State.modTile_ev | fail_if_no_progress with_reducible apply Evolves.lit | split
theorem State.chanFault_ev {o₀ s : State} (d : EndAt) (p : Option PartId) (c : Nat) (clears : Bool) (hev : Evolves o₀ s) :
    Evolves o₀ (State.chanFault s d p c clears) := by
  unfold State.chanFault
  try dsimp only
  repeat' first
    | with_reducible assumption | with_reducible apply State.unitFault_ev | with_reducible apply State.tileFault_ev | split
theorem State.showRecv_ev {o₀ s : State} (d : EndAt) (c : Nat) (hev : Evolves o₀ s) :
    Evolves o₀ (State.showRecv s d c) := by
  unfold State.showRecv
  try dsimp only
  repeat' first
    | with_reducible assumption | with_reducible intro _ | with_reducible apply State.putWord_ev | with_reducible apply State.forTiles_ev
    | with_reducible refine Evolves.ite (fun _ => ?_) (fun _ => ?_) | with_reducible refine Evolves.foldl _ (fun _ _ _ => ?_) ?_
    | with_reducible refine EvolvesP.foldl _ (fun _ _ _ _ => ?_) ?_ | fail_if_no_progress with_reducible apply Evolves.lit
    | refine EvolvesP.of (by with_reducible assumption) ?_ | refine EvolvesS.of (by with_reducible assumption) ?_
    | with_reducible refine EvolvesS.ite (fun _ => ?_) (fun _ => ?_) | exact EvolvesS.none | with_reducible refine EvolvesS.put ?_ | split
theorem State.ringPut_ev {o₀ s : State} (d : EndAt) (p : Option PartId) (e : Chan) (off : Nat) (bs : Bytes) (hev : Evolves o₀ s) :
    EvolvesP o₀ (State.ringPut s d p e off bs) := by
  unfold State.ringPut
  try dsimp only
  repeat' first
    | with_reducible assumption | with_reducible intro _ | with_reducible apply State.partWrite_ev | with_reducible apply State.setTile_ev
    | with_reducible apply State.forTiles_ev | with_reducible refine EvolvesP.ite (fun _ => ?_) (fun _ => ?_)
    | with_reducible refine Evolves.ite (fun _ => ?_) (fun _ => ?_) | with_reducible refine Evolves.foldl _ (fun _ _ _ => ?_) ?_
    | with_reducible refine EvolvesP.foldl _ (fun _ _ _ _ => ?_) ?_ | fail_if_no_progress with_reducible apply Evolves.lit
    | refine EvolvesP.of (by with_reducible assumption) ?_ | refine EvolvesS.of (by with_reducible assumption) ?_
    | with_reducible refine EvolvesS.ite (fun _ => ?_) (fun _ => ?_) | exact EvolvesS.none | with_reducible refine EvolvesS.put ?_ | split
    | with_reducible refine EvolvesP.pair ?_
theorem State.placeRecord_ev {o₀ s : State} (d : EndAt) (p : Option PartId) (e : Chan) (pos : U32) (q : Packet) (hev : Evolves o₀ s) :
    EvolvesP o₀ (State.placeRecord s d p e pos q) := by
  unfold State.placeRecord
  try dsimp only
  repeat' first
    | with_reducible assumption | with_reducible refine (State.ringPut_ev _ _ _ _ _ ?_).fst | split | with_reducible refine EvolvesP.pair ?_
theorem State.msgArrives_ev {o₀ s : State} (d : EndAt) (q : Packet) (hev : Evolves o₀ s) :
    Evolves o₀ (State.msgArrives s d q) := by
  unfold State.msgArrives
  try dsimp only
  repeat' first
    | with_reducible assumption | with_reducible apply State.placeRecord_ev | with_reducible apply State.modChan_ev
    | with_reducible apply State.chanFault_ev | with_reducible apply State.endReply_ev | with_reducible apply State.showRecv_ev
    | refine EvolvesP.of (by with_reducible assumption) ?_ | split
theorem State.openArrives_ev {o₀ s : State} (d : EndAt) (q : Packet) (hev : Evolves o₀ s) :
    Evolves o₀ (State.openArrives s d q) := by
  unfold State.openArrives
  try dsimp only
  repeat' first
    | with_reducible assumption | with_reducible intro _ | with_reducible apply State.endReply_ev | with_reducible apply State.showRecv_ev
    | with_reducible apply State.unitRequest_ev | with_reducible apply State.modChan_ev | with_reducible apply State.forTiles_ev
    | with_reducible refine Evolves.ite (fun _ => ?_) (fun _ => ?_) | with_reducible refine Evolves.foldl _ (fun _ _ _ => ?_) ?_
    | with_reducible refine EvolvesP.foldl _ (fun _ _ _ _ => ?_) ?_ | fail_if_no_progress with_reducible apply Evolves.lit
    | refine EvolvesP.of (by with_reducible assumption) ?_ | refine EvolvesS.of (by with_reducible assumption) ?_
    | with_reducible refine EvolvesS.ite (fun _ => ?_) (fun _ => ?_) | exact EvolvesS.none | with_reducible refine EvolvesS.put ?_ | split
theorem State.openAckArrives_ev {o₀ s : State} (d : EndAt) (q : Packet) (hev : Evolves o₀ s) :
    Evolves o₀ (State.openAckArrives s d q) := by
  unfold State.openAckArrives
  try dsimp only
  repeat' first
    | with_reducible assumption | with_reducible intro _ | with_reducible apply State.endReply_ev | with_reducible apply State.modChan_ev
    | with_reducible apply State.msgFinish_ev | with_reducible apply State.forTiles_ev
    | with_reducible refine Evolves.ite (fun _ => ?_) (fun _ => ?_) | with_reducible refine Evolves.foldl _ (fun _ _ _ => ?_) ?_
    | with_reducible refine EvolvesP.foldl _ (fun _ _ _ _ => ?_) ?_ | fail_if_no_progress with_reducible apply Evolves.lit
    | refine EvolvesP.of (by with_reducible assumption) ?_ | refine EvolvesS.of (by with_reducible assumption) ?_
    | with_reducible refine EvolvesS.ite (fun _ => ?_) (fun _ => ?_) | exact EvolvesS.none | with_reducible refine EvolvesS.put ?_ | split
theorem State.creditArrives_ev {o₀ s : State} (d : EndAt) (q : Packet) (hev : Evolves o₀ s) :
    Evolves o₀ (State.creditArrives s d q) := by
  unfold State.creditArrives
  try dsimp only
  repeat' first
    | with_reducible assumption | with_reducible apply State.modChan_ev | with_reducible apply State.endReply_ev
    | with_reducible refine Evolves.ite (fun _ => ?_) (fun _ => ?_)
theorem State.closeArrives_ev {o₀ s : State} (d : EndAt) (q : Packet) (hev : Evolves o₀ s) :
    Evolves o₀ (State.closeArrives s d q) := by
  unfold State.closeArrives
  try dsimp only
  repeat' first
    | with_reducible assumption | with_reducible apply State.modChan_ev | with_reducible apply State.endReply_ev
    | with_reducible apply State.showRecv_ev | with_reducible refine Evolves.ite (fun _ => ?_) (fun _ => ?_)
theorem State.atArrival_ev {o₀ s : State} (d : EndAt) (q : Packet) (ok : Bool) (f : State → State)
    (h_f : ∀ s', Evolves o₀ s' → Evolves o₀ (f s')) (hev : Evolves o₀ s) :
    EvolvesO o₀ (State.atArrival s d q ok f) := by
  unfold State.atArrival
  try dsimp only
  repeat' first
    | with_reducible assumption | with_reducible intro _ | with_reducible apply h_f | with_reducible apply State.atEnd_ev
    | with_reducible apply State.takeAt_ev | with_reducible refine Evolves.ite (fun _ => ?_) (fun _ => ?_)
theorem execMsgArrival_ev {o₀ s : State} (d : EndAt) (q : Packet) (hev : Evolves o₀ s) :
    EvolvesO o₀ (execMsgArrival d q s) := by
  unfold execMsgArrival
  try dsimp only
  repeat' first
    | with_reducible assumption | with_reducible intro _ | with_reducible apply State.msgArrives_ev
    | with_reducible apply State.atArrival_ev
theorem execMsgctlOpen_ev {o₀ s : State} (d : EndAt) (q : Packet) (hev : Evolves o₀ s) :
    EvolvesO o₀ (execMsgctlOpen d q s) := by
  unfold execMsgctlOpen
  try dsimp only
  repeat' first
    | with_reducible assumption | with_reducible intro _ | with_reducible apply State.atArrival_ev
    | with_reducible apply State.openArrives_ev
theorem execMsgctlOpenAck_ev {o₀ s : State} (d : EndAt) (q : Packet) (hev : Evolves o₀ s) :
    EvolvesO o₀ (execMsgctlOpenAck d q s) := by
  unfold execMsgctlOpenAck
  try dsimp only
  repeat' first
    | with_reducible assumption | with_reducible intro _ | with_reducible apply State.openAckArrives_ev
    | with_reducible apply State.atArrival_ev
theorem execMsgctlCredit_ev {o₀ s : State} (d : EndAt) (q : Packet) (hev : Evolves o₀ s) :
    EvolvesO o₀ (execMsgctlCredit d q s) := by
  unfold execMsgctlCredit
  try dsimp only
  repeat' first
    | with_reducible assumption | with_reducible intro _ | with_reducible apply State.creditArrives_ev
    | with_reducible apply State.atArrival_ev
theorem execMsgctlClose_ev {o₀ s : State} (d : EndAt) (q : Packet) (hev : Evolves o₀ s) :
    EvolvesO o₀ (execMsgctlClose d q s) := by
  unfold execMsgctlClose
  try dsimp only
  repeat' first
    | with_reducible assumption | with_reducible intro _ | with_reducible apply State.closeArrives_ev
    | with_reducible apply State.atArrival_ev
theorem State.linkFault_ev {o₀ s : State} (t u : TileId) (plane o : Nat) (hev : Evolves o₀ s) :
    Evolves o₀ (State.linkFault s t u plane o) := by
  unfold State.linkFault
  try dsimp only
  repeat' first
    | with_reducible assumption
    | with_reducible apply State.tileFault_ev
    | with_reducible refine Evolves.ite (fun _ => ?_) (fun _ => ?_)
    | split
    | fail_if_no_progress with_reducible apply Evolves.lit
theorem State.sendFlit_ev {o₀ s : State} (t : TileId) (o : Nat) (dq : Nat) (f : Flit) (bad : Option (Fin 5)) (hev : Evolves o₀ s) :
    Evolves o₀ (State.sendFlit s t o dq f bad) := by
  unfold State.sendFlit
  try dsimp only
  repeat' first
    | with_reducible assumption | with_reducible apply State.linkFault_ev
    | with_reducible apply State.modTile_ev | split | fail_if_no_progress with_reducible apply Evolves.lit
theorem State.moveGroup_ev {o₀ s : State} (t : TileId) (g : Nat × Nat) (fs : List RouteField) (bad : Option (Fin 5)) (hev : Evolves o₀ s) :
    Evolves o₀ (State.moveGroup s t g fs bad) := by
  unfold State.moveGroup
  try dsimp only
  repeat' first
    | with_reducible assumption | with_reducible apply State.sendFlit_ev | with_reducible apply State.modTile_ev
    | with_reducible refine Evolves.foldl _ (fun _ _ _ => ?_) ?_ | split
theorem State.routeSlot_ev {o₀ s : State} (t : TileId) (bad : Option (Fin 5)) (hev : Evolves o₀ s) :
    Evolves o₀ (State.routeSlot s t bad) := by
  unfold State.routeSlot
  try dsimp only
  repeat' first
    | with_reducible assumption | with_reducible apply State.moveGroup_ev | with_reducible refine Evolves.foldl _ (fun _ _ _ => ?_) ?_
theorem State.egressFlit_ev {o₀ s : State} (t : TileId) (k : Nat) (ecc : Ecc) (hev : Evolves o₀ s) :
    EvolvesP o₀ (State.egressFlit s t k ecc) := by
  unfold State.egressFlit
  try dsimp only
  repeat' first
    | with_reducible assumption | with_reducible intro _ | with_reducible apply State.upset_ev | with_reducible apply State.tileFault_ev
    | with_reducible apply State.setTile_ev | with_reducible apply State.eccRead_ev | with_reducible apply State.modTile_ev
    | with_reducible refine EvolvesP.ite (fun _ => ?_) (fun _ => ?_) | with_reducible refine Evolves.ite (fun _ => ?_) (fun _ => ?_)
    | fail_if_no_progress with_reducible apply Evolves.lit | refine EvolvesP.of (by with_reducible assumption) ?_
    | refine EvolvesS.of (by with_reducible assumption) ?_ | with_reducible refine EvolvesS.ite (fun _ => ?_) (fun _ => ?_)
    | exact EvolvesS.none | with_reducible refine EvolvesS.put ?_ | split | with_reducible refine EvolvesP.pair ?_
theorem State.ingressWord_ev {o₀ s : State} (t : TileId) (k : Nat) (hev : Evolves o₀ s) :
    EvolvesP o₀ (State.ingressWord s t k) := by
  unfold State.ingressWord
  try dsimp only
  repeat' first
    | with_reducible assumption | with_reducible intro _ | with_reducible apply State.tileFault_ev | with_reducible apply State.setTile_ev
    | with_reducible apply State.modTile_ev | with_reducible refine EvolvesP.ite (fun _ => ?_) (fun _ => ?_)
    | with_reducible refine Evolves.ite (fun _ => ?_) (fun _ => ?_) | fail_if_no_progress with_reducible apply Evolves.lit
    | refine EvolvesP.of (by with_reducible assumption) ?_ | refine EvolvesS.of (by with_reducible assumption) ?_
    | with_reducible refine EvolvesS.ite (fun _ => ?_) (fun _ => ?_) | exact EvolvesS.none | with_reducible refine EvolvesS.put ?_ | split
    | with_reducible refine EvolvesP.pair ?_
theorem State.firstMove_ev {o₀ : State} (f : State → Nat → State × Bool) (h_f : ∀ s k, Evolves o₀ s → EvolvesP o₀ (f s k)) :
    ∀ (ks : List Nat) {s : State}, Evolves o₀ s → Evolves o₀ (State.firstMove f ks s)
  | [], _, h => h
  | k :: ks, s, h => by
    rw [State.firstMove]
    exact Evolves.ite (fun _ => (h_f s k h).fst) fun _ => State.firstMove_ev f h_f ks (h_f s k h).fst
theorem State.portSlot_ev {o₀ s : State} (t : TileId) (ecc : Ecc) (hev : Evolves o₀ s) : Evolves o₀ (s.portSlot t ecc) :=
  Evolves.ite (fun _ => State.firstMove_ev _ (fun _ _ h => State.egressFlit_ev t _ ecc h) _
    (State.firstMove_ev _ (fun _ _ h => State.ingressWord_ev t _ h) _ hev)) fun _ => hev
theorem State.streamSlot_ev {o₀ s : State} (t : TileId) (ecc : Ecc) (bad : Option (Fin 5)) (hev : Evolves o₀ s) :
    Evolves o₀ (State.streamSlot s t ecc bad) := by
  unfold State.streamSlot
  try dsimp only
  repeat' first
    | with_reducible assumption | with_reducible apply State.portSlot_ev | with_reducible apply State.routeSlot_ev
    | with_reducible apply State.modTile_ev | with_reducible apply State.reachJob_ev | split
theorem execStreamSlot_ev {o₀ s : State} (t : TileId) (ecc : Ecc) (bad : Option (Fin 5)) (hev : Evolves o₀ s) :
    EvolvesO o₀ (execStreamSlot t ecc bad s) := by
  unfold execStreamSlot
  try dsimp only
  repeat' first
    | with_reducible assumption | with_reducible intro _ | with_reducible apply State.onTile_ev | with_reducible apply State.streamSlot_ev
theorem State.steerToken_ev {o₀ s : State} (t : TileId) (su : Fin 8) (hev : Evolves o₀ s) :
    Evolves o₀ (State.steerToken s t su) := by
  unfold State.steerToken
  try dsimp only
  repeat' first
    | with_reducible assumption | with_reducible intro _ | with_reducible apply State.reachJob_ev | with_reducible apply State.modTile_ev
    | with_reducible refine Evolves.ite (fun _ => ?_) (fun _ => ?_) | fail_if_no_progress with_reducible apply Evolves.lit
    | refine EvolvesP.of (by with_reducible assumption) ?_ | refine EvolvesS.of (by with_reducible assumption) ?_
    | with_reducible refine EvolvesS.ite (fun _ => ?_) (fun _ => ?_) | exact EvolvesS.none | with_reducible refine EvolvesS.put ?_ | split
theorem execSteerToken_ev {o₀ s : State} (t : TileId) (su : Fin 8) (hev : Evolves o₀ s) :
    EvolvesO o₀ (execSteerToken t su s) := by
  unfold execSteerToken
  try dsimp only
  repeat' first
    | with_reducible assumption | with_reducible intro _ | with_reducible apply State.steerToken_ev | with_reducible apply State.onTile_ev

end Sys2Proof.Machine
end

