-- ==== Sys2Proof/Laws/EvolvesLinks.lean ====
section
/-!
SUPPORT. The operations and meanings of the packet networks and the link ports evolve the state: one lemma for each.
-/

set_option linter.unusedTactic false
set_option linter.unreachableTactic false

namespace Sys2Proof.Machine

theorem State.requestDone_ev {o₀ s : State} (t : TileId) (q : Packet) (order : Nat) (ticket : Option U32) (status : Nat) (hev : Evolves o₀ s) :
    Evolves o₀ (State.requestDone s t q order ticket status) := by
  unfold State.requestDone
  try dsimp only
  repeat' first
    | with_reducible assumption | with_reducible apply State.msgReplied_ev | with_reducible apply State.modSlot_ev | split
theorem State.injectNow_ev {o₀ s : State} (t : TileId) (p : PartId) (w : Waiting) (hev : Evolves o₀ s) :
    Evolves o₀ (State.injectNow s t p w) := by
  unfold State.injectNow
  try dsimp only
  repeat' first
    | with_reducible assumption | with_reducible intro _ | with_reducible apply State.enter_ev | with_reducible apply State.modTile_ev
    | with_reducible apply State.requestDone_ev | with_reducible refine Evolves.ite (fun _ => ?_) (fun _ => ?_)
    | fail_if_no_progress with_reducible apply Evolves.lit | refine EvolvesP.of (by with_reducible assumption) ?_
    | refine EvolvesS.of (by with_reducible assumption) ?_ | with_reducible refine EvolvesS.ite (fun _ => ?_) (fun _ => ?_)
    | exact EvolvesS.none | with_reducible refine EvolvesS.put ?_ | split
theorem State.injectTile_ev {o₀ s : State} (t : TileId) (hev : Evolves o₀ s) :
    Evolves o₀ (State.injectTile s t) := by
  unfold State.injectTile
  try dsimp only
  repeat' first
    | with_reducible assumption | with_reducible apply State.injectNow_ev | with_reducible apply State.modTile_ev | split
theorem State.unitOverdue_ev {o₀ s : State} (hev : Evolves o₀ s) :
    Evolves o₀ (State.unitOverdue s) := by
  unfold State.unitOverdue
  try dsimp only
  repeat' first
    | with_reducible assumption | with_reducible intro _ | with_reducible apply State.unitFault_ev
    | with_reducible refine Evolves.ite (fun _ => ?_) (fun _ => ?_) | with_reducible refine Evolves.foldl _ (fun _ _ _ => ?_) ?_
    | with_reducible refine EvolvesP.foldl _ (fun _ _ _ _ => ?_) ?_ | fail_if_no_progress with_reducible apply Evolves.lit
theorem State.unitAsked_ev {o₀ s : State} (src : InjectAt) (q : Packet) (hev : Evolves o₀ s) :
    Evolves o₀ (State.unitAsked s src q) := by
  unfold State.unitAsked
  try dsimp only
  repeat' first
    | with_reducible assumption | with_reducible intro _ | with_reducible refine Evolves.ite (fun _ => ?_) (fun _ => ?_)
    | fail_if_no_progress with_reducible apply Evolves.lit
theorem State.injectIo_ev {o₀ s : State} (src : InjectAt) (hev : Evolves o₀ s) :
    Evolves o₀ (State.injectIo s src) := by
  unfold State.injectIo
  try dsimp only
  repeat' first
    | with_reducible assumption | with_reducible intro _ | with_reducible apply State.unitAsked_ev
    | with_reducible apply State.unitOverdue_ev | with_reducible refine Evolves.ite (fun _ => ?_) (fun _ => ?_)
    | fail_if_no_progress with_reducible apply Evolves.lit | refine EvolvesP.of (by with_reducible assumption) ?_
    | refine EvolvesS.of (by with_reducible assumption) ?_ | with_reducible refine EvolvesS.ite (fun _ => ?_) (fun _ => ?_)
    | exact EvolvesS.none | with_reducible refine EvolvesS.put ?_ | split
theorem execPacketInject_ev {o₀ s : State} (src : InjectAt) (hev : Evolves o₀ s) :
    EvolvesO o₀ (execPacketInject src s) := by
  unfold execPacketInject
  try dsimp only
  repeat' first
    | with_reducible assumption | with_reducible intro _ | with_reducible apply State.injectIo_ev | with_reducible apply State.onTile_ev
    | with_reducible apply State.injectTile_ev | refine EvolvesO.next ?_ | split
theorem execFencedRequestRelease_ev {o₀ s : State} (t : TileId) (index : Nat) (hev : Evolves o₀ s) :
    EvolvesO o₀ (execFencedRequestRelease t index s) := by
  unfold execFencedRequestRelease
  try dsimp only
  repeat' first
    | with_reducible assumption | with_reducible intro _ | with_reducible apply State.injectNow_ev | with_reducible apply State.onTile_ev
    | with_reducible apply State.modTile_ev | split
theorem State.noReply_ev {o₀ s : State} (t : TileId) (p : PartId) (o : Outstanding) (hev : Evolves o₀ s) :
    Evolves o₀ (State.noReply s t p o) := by
  unfold State.noReply
  try dsimp only
  repeat' first
    | with_reducible assumption | with_reducible apply State.requestDone_ev | with_reducible apply State.hangReply_ev
    | with_reducible apply State.modTile_ev
theorem execReplyTimeout_ev {o₀ s : State} (t : TileId) (tag : U16) (hev : Evolves o₀ s) :
    EvolvesO o₀ (execReplyTimeout t tag s) := by
  unfold execReplyTimeout
  try dsimp only
  repeat' first
    | with_reducible assumption | with_reducible intro _ | with_reducible apply State.sendOverdue_ev | with_reducible apply State.onTile_ev
    | with_reducible apply State.noReply_ev | with_reducible apply State.reachJob_ev | split
theorem State.windowRefuse_ev {o₀ s : State} (t : TileId) (q : Packet) (status : Nat) (hev : Evolves o₀ s) :
    Evolves o₀ (State.windowRefuse s t q status) := by
  unfold State.windowRefuse
  try dsimp only
  repeat' first
    | with_reducible assumption | with_reducible apply State.reply_ev | with_reducible apply State.modTile_ev
theorem State.stackEcc_ev {o₀ s : State} (p : Option PartId) (ecc : Ecc) (hev : Evolves o₀ s) :
    Evolves o₀ (State.stackEcc s p ecc) := by
  unfold State.stackEcc
  try dsimp only
  repeat' first
    | with_reducible assumption | with_reducible intro _ | with_reducible apply State.correctDram_ev | with_reducible apply State.markRow_ev
    | with_reducible apply State.unitFault_ev | with_reducible refine Evolves.ite (fun _ => ?_) (fun _ => ?_)
    | fail_if_no_progress with_reducible apply Evolves.lit | refine EvolvesP.of (by with_reducible assumption) ?_
    | refine EvolvesS.of (by with_reducible assumption) ?_ | with_reducible refine EvolvesS.ite (fun _ => ?_) (fun _ => ?_)
    | exact EvolvesS.none | with_reducible refine EvolvesS.put ?_ | split
theorem State.writeSpad_ev {o₀ s : State} (t : TileId) (q : Packet) (a : Nat) (ecc : Ecc) (hev : Evolves o₀ s) :
    Evolves o₀ (State.writeSpad s t q a ecc) := by
  unfold State.writeSpad
  try dsimp only
  repeat' first
    | with_reducible assumption | with_reducible apply State.upset_ev | with_reducible apply State.setTile_ev | with_reducible apply State.reply_ev
    | with_reducible apply State.windowRefuse_ev | with_reducible apply State.modTile_ev | with_reducible apply State.eccRead_ev | split
theorem State.writeArrives_ev {o₀ s : State} (t : TileId) (q : Packet) (ecc : Ecc) (hev : Evolves o₀ s) :
    Evolves o₀ (State.writeArrives s t q ecc) := by
  unfold State.writeArrives
  try dsimp only
  repeat' first
    | with_reducible assumption | with_reducible intro _ | with_reducible apply State.partWrite_ev
    | with_reducible apply State.tileDramPut_ev | with_reducible apply State.writeSpad_ev | with_reducible apply State.windowRefuse_ev
    | with_reducible apply State.reply_ev | with_reducible refine Evolves.ite (fun _ => ?_) (fun _ => ?_)
    | fail_if_no_progress with_reducible apply Evolves.lit | refine EvolvesP.of (by with_reducible assumption) ?_
    | refine EvolvesS.of (by with_reducible assumption) ?_ | with_reducible refine EvolvesS.ite (fun _ => ?_) (fun _ => ?_)
    | exact EvolvesS.none | with_reducible refine EvolvesS.put ?_ | split
theorem execWriteRequest_ev {o₀ s : State} (t : TileId) (q : Packet) (ecc : Ecc) (hev : Evolves o₀ s) :
    EvolvesO o₀ (execWriteRequest t q ecc s) := by
  unfold execWriteRequest
  try dsimp only
  repeat' first
    | with_reducible assumption | with_reducible intro _ | with_reducible apply State.writeArrives_ev
    | with_reducible apply State.atArrival_ev
theorem State.readArrives_ev {o₀ s : State} (t : TileId) (q : Packet) (ecc : Ecc) (hev : Evolves o₀ s) :
    Evolves o₀ (State.readArrives s t q ecc) := by
  unfold State.readArrives
  try dsimp only
  repeat' first
    | with_reducible assumption | with_reducible apply State.upset_ev | with_reducible apply State.reply_ev | with_reducible apply State.windowRefuse_ev
    | with_reducible apply State.stackEcc_ev | with_reducible apply State.eccRead_ev | split
theorem execReadRequest_ev {o₀ s : State} (t : TileId) (q : Packet) (ecc : Ecc) (hev : Evolves o₀ s) :
    EvolvesO o₀ (execReadRequest t q ecc s) := by
  unfold execReadRequest
  try dsimp only
  repeat' first
    | with_reducible assumption | with_reducible intro _ | with_reducible apply State.readArrives_ev
    | with_reducible apply State.atArrival_ev
theorem State.stray_ev {o₀ s : State} (t : TileId) (hev : Evolves o₀ s) :
    Evolves o₀ (State.stray s t) := by
  unfold State.stray
  try dsimp only
  repeat' first
    | with_reducible assumption | with_reducible apply State.modTile_ev
theorem State.replyDone_ev {o₀ s : State} (t : TileId) (o : Outstanding) (status : Nat) (hev : Evolves o₀ s) :
    Evolves o₀ (State.replyDone s t o status) := by
  unfold State.replyDone
  try dsimp only
  repeat' first
    | with_reducible assumption | with_reducible apply State.requestDone_ev | with_reducible apply State.modTile_ev
theorem State.inTime_ev {o₀ s : State} (t : TileId) (q : Packet) (hev : Evolves o₀ s) :
    EvolvesP o₀ (State.inTime s t q) := by
  unfold State.inTime
  try dsimp only
  repeat' first
    | with_reducible assumption | with_reducible intro _ | with_reducible apply State.noReply_ev
    | with_reducible refine EvolvesP.ite (fun _ => ?_) (fun _ => ?_) | with_reducible refine Evolves.ite (fun _ => ?_) (fun _ => ?_)
    | fail_if_no_progress with_reducible apply Evolves.lit | refine EvolvesP.of (by with_reducible assumption) ?_
    | refine EvolvesS.of (by with_reducible assumption) ?_ | with_reducible refine EvolvesS.ite (fun _ => ?_) (fun _ => ?_)
    | exact EvolvesS.none | with_reducible refine EvolvesS.put ?_ | split | with_reducible refine EvolvesP.pair ?_
theorem State.noticeDone_ev {o₀ s : State} (t : TileId) (q : Packet) (hev : Evolves o₀ s) :
    Evolves o₀ (State.noticeDone s t q) := by
  unfold State.noticeDone
  try dsimp only
  repeat' first
    | with_reducible assumption | with_reducible intro _ | with_reducible apply State.sendNotice_ev | with_reducible apply State.stray_ev
    | with_reducible apply State.modTile_ev | with_reducible refine Evolves.ite (fun _ => ?_) (fun _ => ?_)
theorem execCmpl_ev {o₀ s : State} (t : TileId) (q : Packet) (hev : Evolves o₀ s) :
    EvolvesO o₀ (execCmpl t q s) := by
  unfold execCmpl
  try dsimp only
  repeat' first
    | with_reducible assumption | with_reducible intro _ | with_reducible apply State.inTime_ev | with_reducible apply State.replyDone_ev
    | with_reducible apply State.noticeDone_ev | with_reducible apply State.atArrival_ev | with_reducible apply State.stray_ev
    | with_reducible refine (State.inTime_ev _ _ ?_).fst | with_reducible refine EvolvesO.ite (fun _ => ?_) (fun _ => ?_)
    | refine EvolvesO.next ?_ | exact EvolvesO.fault _ | with_reducible refine Evolves.ite (fun _ => ?_) (fun _ => ?_)
    | fail_if_no_progress with_reducible apply Evolves.lit | refine EvolvesP.of (by with_reducible assumption) ?_
    | refine EvolvesS.of (by with_reducible assumption) ?_ | with_reducible refine EvolvesS.ite (fun _ => ?_) (fun _ => ?_)
    | exact EvolvesS.none | with_reducible refine EvolvesS.put ?_ | split
theorem State.dataArrives_ev {o₀ s : State} (t : TileId) (p : PartId) (q : Packet) (o : Outstanding) (hev : Evolves o₀ s) :
    EvolvesS o₀ (State.dataArrives s t p q o) := by
  unfold State.dataArrives
  try dsimp only
  repeat' first
    | with_reducible assumption | with_reducible intro _ | with_reducible apply State.engFault_ev | with_reducible apply State.dmaStore_ev
    | with_reducible apply State.clearTile_ev | with_reducible apply State.replyDone_ev
    | with_reducible refine (State.dmaStore_ev _ _ _ _ _ _ ?_).fst | with_reducible refine EvolvesS.ite (fun _ => ?_) (fun _ => ?_)
    | refine EvolvesS.put ?_ | exact EvolvesS.none | with_reducible refine Evolves.ite (fun _ => ?_) (fun _ => ?_)
    | fail_if_no_progress with_reducible apply Evolves.lit | refine EvolvesP.of (by with_reducible assumption) ?_
    | refine EvolvesS.of (by with_reducible assumption) ?_ | with_reducible refine EvolvesS.ite (fun _ => ?_) (fun _ => ?_)
    | exact EvolvesS.none | with_reducible refine EvolvesS.put ?_ | split
theorem State.dataStalls_ev {o₀ s : State} (t : TileId) (p : PartId) (q : Packet) (o : Outstanding) (hev : Evolves o₀ s) :
    Evolves o₀ (State.dataStalls s t p q o) := by
  unfold State.dataStalls
  try dsimp only
  repeat' first
    | with_reducible assumption | with_reducible apply State.modSlot_ev | split
theorem execCmplD_ev {o₀ s : State} (t : TileId) (q : Packet) (ecc : Ecc) (hev : Evolves o₀ s) :
    EvolvesO o₀ (execCmplD t q ecc s) := by
  unfold execCmplD
  try dsimp only
  repeat' first
    | with_reducible assumption | with_reducible intro _ | with_reducible apply State.upset_ev | with_reducible apply State.onTile_ev
    | with_reducible apply State.dataArrives_ev | with_reducible apply State.inTime_ev | with_reducible apply State.takeAt_ev
    | with_reducible apply State.eccRead_ev | with_reducible apply State.replyDone_ev | with_reducible apply State.dataStalls_ev
    | with_reducible apply State.stray_ev | with_reducible refine (State.inTime_ev _ _ ?_).fst
    | with_reducible refine EvolvesO.ite (fun _ => ?_) (fun _ => ?_) | refine EvolvesO.next ?_ | exact EvolvesO.fault _
    | with_reducible refine Evolves.ite (fun _ => ?_) (fun _ => ?_) | fail_if_no_progress with_reducible apply Evolves.lit
    | refine EvolvesP.of (by with_reducible assumption) ?_ | refine EvolvesS.of (by with_reducible assumption) ?_
    | with_reducible refine EvolvesS.ite (fun _ => ?_) (fun _ => ?_) | exact EvolvesS.none | with_reducible refine EvolvesS.put ?_ | split
theorem State.mgmtEnq_ev {o₀ s : State} (t : TileId) (e : Eng) (d : Bytes) (hev : Evolves o₀ s) :
    Evolves o₀ (State.mgmtEnq s t e d) := by
  unfold State.mgmtEnq
  try dsimp only
  repeat' first
    | with_reducible assumption | with_reducible intro _ | with_reducible apply State.modTile_ev
    | with_reducible refine Evolves.ite (fun _ => ?_) (fun _ => ?_)
theorem State.mgmtWrite_ev {o₀ s : State} (t : TileId) (q : Packet) (hev : Evolves o₀ s) :
    Evolves o₀ (State.mgmtWrite s t q) := by
  unfold State.mgmtWrite
  try dsimp only
  repeat' first
    | with_reducible assumption | with_reducible apply State.mgmtEnq_ev | with_reducible apply State.modTile_ev
    | fail_if_no_progress with_reducible apply Evolves.lit | split
theorem execMgmtWr_ev {o₀ s : State} (t : TileId) (q : Packet) (hev : Evolves o₀ s) :
    EvolvesO o₀ (execMgmtWr t q s) := by
  unfold execMgmtWr
  try dsimp only
  repeat' first
    | with_reducible assumption | with_reducible intro _ | with_reducible apply State.mgmtWrite_ev | with_reducible apply State.reply_ev
    | with_reducible apply State.atArrival_ev
theorem execMgmtRd_ev {o₀ s : State} (t : TileId) (q : Packet) (hev : Evolves o₀ s) :
    EvolvesO o₀ (execMgmtRd t q s) := by
  unfold execMgmtRd
  try dsimp only
  repeat' first
    | with_reducible assumption | with_reducible intro _ | with_reducible apply State.reply_ev | with_reducible apply State.atArrival_ev
theorem State.noticeTaken_ev {o₀ s : State} (t : TileId) (k : NetPkt) (hev : Evolves o₀ s) :
    Evolves o₀ (State.noticeTaken s t k) := by
  unfold State.noticeTaken
  try dsimp only
  repeat' first
    | with_reducible assumption | with_reducible intro _ | with_reducible apply State.toInbox_ev
    | with_reducible refine Evolves.ite (fun _ => ?_) (fun _ => ?_) | fail_if_no_progress with_reducible apply Evolves.lit
theorem execNotice_ev {o₀ s : State} (t : TileId) (hev : Evolves o₀ s) :
    EvolvesO o₀ (execNotice t s) := by
  unfold execNotice
  try dsimp only
  repeat' first
    | with_reducible assumption | with_reducible intro _ | with_reducible apply State.onTile_ev | with_reducible apply State.noticeTaken_ev
    | with_reducible refine EvolvesO.ite (fun _ => ?_) (fun _ => ?_) | refine EvolvesO.next ?_ | exact EvolvesO.fault _
    | with_reducible refine Evolves.ite (fun _ => ?_) (fun _ => ?_) | fail_if_no_progress with_reducible apply Evolves.lit
    | refine EvolvesP.of (by with_reducible assumption) ?_ | refine EvolvesS.of (by with_reducible assumption) ?_
    | with_reducible refine EvolvesS.ite (fun _ => ?_) (fun _ => ?_) | exact EvolvesS.none | with_reducible refine EvolvesS.put ?_ | split
theorem State.clearPort_ev {o₀ s : State} (port : PortId) (cls : Byte) (hev : Evolves o₀ s) :
    Evolves o₀ (State.clearPort s port cls) := by
  unfold State.clearPort
  try dsimp only
  repeat' first
    | with_reducible assumption | with_reducible apply State.noteClear_ev | with_reducible apply State.modPort_ev | split
theorem State.portFault_ev {o₀ s : State} (port : PortId) (a : FaultArgs) (hev : Evolves o₀ s) :
    Evolves o₀ (State.portFault s port a) := by
  unfold State.portFault
  try dsimp only
  repeat' first
    | with_reducible assumption | with_reducible apply State.unitFault_ev | with_reducible apply State.clearPort_ev
    | with_reducible refine Evolves.ite (fun _ => ?_) (fun _ => ?_)
theorem State.linkEvent_ev {o₀ s : State} (port : PortId) (code : Nat) (arg : Nat) (hev : Evolves o₀ s) :
    Evolves o₀ (State.linkEvent s port code arg) := by
  unfold State.linkEvent
  try dsimp only
  repeat' first
    | with_reducible assumption | with_reducible apply State.postPart_ev | with_reducible apply State.postAdmin_ev | split
theorem State.linkLost_ev {o₀ s : State} (port : PortId) (cause : Nat) (hev : Evolves o₀ s) :
    Evolves o₀ (State.linkLost s port cause) := by
  unfold State.linkLost
  try dsimp only
  repeat' first
    | with_reducible assumption | with_reducible apply State.sendHalt_ev | with_reducible apply State.portFault_ev | split
theorem State.sendCtl_ev {o₀ s : State} (port : PortId) (x : Session) (kind : Byte) (bs : Bytes) (hev : Evolves o₀ s) :
    Evolves o₀ (State.sendCtl s port x kind bs) := by
  unfold State.sendCtl
  try dsimp only
  repeat' first
    | with_reducible assumption | with_reducible apply State.modLink_ev
theorem State.takeCtl_ev {o₀ s : State} (port : PortId) (x : Session) (kind : Byte) (bs : Bytes) (hev : Evolves o₀ s) :
    EvolvesS o₀ (State.takeCtl s port x kind bs) := by
  unfold State.takeCtl
  try dsimp only
  repeat' first
    | with_reducible assumption | with_reducible refine EvolvesS.ite (fun _ => ?_) (fun _ => ?_) | refine EvolvesS.put ?_
    | exact EvolvesS.none | fail_if_no_progress with_reducible apply Evolves.lit
theorem State.protocolError_ev {o₀ s : State} (port : PortId) (x : Session) (hev : Evolves o₀ s) :
    Evolves o₀ (State.protocolError s port x) := by
  unfold State.protocolError
  try dsimp only
  repeat' first
    | with_reducible assumption | with_reducible apply State.modLink_ev
theorem State.countRemoved_ev {o₀ s : State} (port : PortId) (x : Session) (hev : Evolves o₀ s) :
    Evolves o₀ (State.countRemoved s port x) := by
  unfold State.countRemoved
  try dsimp only
  repeat' first
    | with_reducible assumption | with_reducible intro _ | with_reducible apply State.modLink_ev
theorem State.readAnswered_ev {o₀ s : State} (q : Packet) (hev : Evolves o₀ s) :
    Evolves o₀ (State.readAnswered s q) := by
  unfold State.readAnswered
  try dsimp only
  repeat' first
    | with_reducible assumption | with_reducible intro _ | with_reducible refine Evolves.ite (fun _ => ?_) (fun _ => ?_)
    | fail_if_no_progress with_reducible apply Evolves.lit
theorem State.toExit_go_ev {o₀ s : State} (port : PortId) (arrived : Option (Fin 6)) (q : Packet) (v : Port) (hev : Evolves o₀ s) :
    EvolvesP o₀ (State.toExit.go port arrived q s v) := by
  unfold State.toExit.go
  dsimp only
  split
  · exact .pair hev
  · refine EvolvesP.ite (fun _ => .pair (State.countRemoved_ev _ _ hev)) (fun _ => EvolvesP.ite (fun _ => .pair hev) fun _ => ?_)
    generalize Port.take _ _ _ _ = o
    cases o
    · exact .pair hev
    · exact .pair (State.modPort_ev _ _ hev)
theorem State.toExit_ev {o₀ s : State} (port : PortId) (arrived : Option (Fin 6)) (q : Packet) (hev : Evolves o₀ s) :
    EvolvesP o₀ (s.toExit port arrived q) := by
  have h1 := State.readAnswered_ev q hev
  unfold State.toExit
  extract_lets s1 v pid
  refine EvolvesP.ite (fun _ => ?_) (fun _ => ?_)
  · refine EvolvesP.ite (fun _ => .pair (State.countRemoved_ev _ _ h1)) (fun _ => EvolvesP.ite (fun _ => .pair h1) fun _ => ?_)
    generalize Port.take _ _ _ _ = o
    cases o
    · exact .pair h1
    · exact .pair (State.modPort_ev _ _ h1)
  · split
    · exact EvolvesP.ite (fun _ => .pair (State.modPart_ev _ _ h1)) fun _ => State.toExit_go_ev _ _ _ _ h1
    · exact State.toExit_go_ev _ _ _ _ h1
theorem State.unitReplied_ev {o₀ s : State} (q : Packet) (hev : Evolves o₀ s) :
    Evolves o₀ (State.unitReplied s q) := by
  unfold State.unitReplied
  try dsimp only
  repeat' first
    | with_reducible assumption | with_reducible intro _ | with_reducible apply State.unitOverdue_ev
    | with_reducible refine Evolves.ite (fun _ => ?_) (fun _ => ?_) | fail_if_no_progress with_reducible apply Evolves.lit
theorem State.place_ev {o₀ s : State} (east : Bool) (arrived : Option (Fin 6)) (q : Packet) (hev : Evolves o₀ s) :
    EvolvesP o₀ (State.place s east arrived q) := by
  unfold State.place
  try dsimp only
  repeat' first
    | with_reducible assumption | with_reducible intro _ | with_reducible apply State.toExit_ev | with_reducible apply State.unitReplied_ev
    | with_reducible refine (State.toExit_ev _ _ _ ?_).fst | with_reducible refine EvolvesP.ite (fun _ => ?_) (fun _ => ?_)
    | with_reducible refine Evolves.ite (fun _ => ?_) (fun _ => ?_) | fail_if_no_progress with_reducible apply Evolves.lit
    | refine EvolvesP.of (by with_reducible assumption) ?_ | refine EvolvesS.of (by with_reducible assumption) ?_
    | with_reducible refine EvolvesS.ite (fun _ => ?_) (fun _ => ?_) | exact EvolvesS.none | with_reducible refine EvolvesS.put ?_ | split
    | with_reducible refine EvolvesP.pair ?_
theorem State.refuseAt_ev {o₀ s : State} (unit : Nat) (port : Nat) (east : Bool) (q : Packet) (status : Nat) (hev : Evolves o₀ s) :
    Evolves o₀ (State.refuseAt s unit port east q status) := by
  unfold State.refuseAt
  try dsimp only
  repeat' first
    | with_reducible assumption | with_reducible intro _ | with_reducible apply State.place_ev
    | with_reducible refine (State.place_ev _ _ _ ?_).fst | with_reducible refine Evolves.ite (fun _ => ?_) (fun _ => ?_)
theorem State.fromDie_ev {o₀ s : State} (port : PortId) (arrived : Option (Fin 6)) (q : Packet) (hev : Evolves o₀ s) :
    Evolves o₀ (State.fromDie s port arrived q) := by
  unfold State.fromDie
  try dsimp only
  repeat' first
    | with_reducible assumption | with_reducible intro _ | with_reducible apply State.refuseAt_ev | with_reducible apply State.place_ev
    | with_reducible refine (State.place_ev _ _ _ ?_).fst | with_reducible refine Evolves.ite (fun _ => ?_) (fun _ => ?_)
    | fail_if_no_progress with_reducible apply Evolves.lit | refine EvolvesP.of (by with_reducible assumption) ?_
    | refine EvolvesS.of (by with_reducible assumption) ?_ | with_reducible refine EvolvesS.ite (fun _ => ?_) (fun _ => ?_)
    | exact EvolvesS.none | with_reducible refine EvolvesS.put ?_ | split
theorem State.flushEgress_ev {o₀ s : State} (port : PortId) (x : Session) (hev : Evolves o₀ s) :
    Evolves o₀ (State.flushEgress s port x) := by
  unfold State.flushEgress
  try dsimp only
  repeat' first
    | with_reducible assumption | with_reducible intro _ | with_reducible apply State.modPort_ev | with_reducible apply State.refuseAt_ev
    | with_reducible refine Evolves.ite (fun _ => ?_) (fun _ => ?_) | with_reducible refine Evolves.foldl _ (fun _ _ _ => ?_) ?_
theorem State.mirror_ev {o₀ s : State} (p : PartId) (q : Packet) (hev : Evolves o₀ s) :
    Evolves o₀ (State.mirror s p q) := by
  unfold State.mirror
  try dsimp only
  repeat' first
    | with_reducible assumption | with_reducible apply State.modPort_ev | split
theorem State.sendNak_ev {o₀ s : State} (port : PortId) (x : Session) (q : Packet) (reason : Nat) (hev : Evolves o₀ s) :
    Evolves o₀ (State.sendNak s port x q reason) := by
  unfold State.sendNak
  try dsimp only
  repeat' first
    | with_reducible assumption | with_reducible apply State.modLink_ev | with_reducible apply State.sendCtl_ev
theorem State.inbound_ev {o₀ s : State} (port : PortId) (x : Session) (q : Packet) (hev : Evolves o₀ s) :
    Evolves o₀ (State.inbound s port x q) := by
  unfold State.inbound
  try dsimp only
  repeat' first
    | with_reducible assumption | with_reducible intro _ | with_reducible apply State.sendNak_ev | with_reducible apply State.mirror_ev
    | with_reducible apply State.modLink_ev | with_reducible apply State.fromDie_ev | with_reducible apply State.protocolError_ev
    | with_reducible refine Evolves.ite (fun _ => ?_) (fun _ => ?_) | fail_if_no_progress with_reducible apply Evolves.lit
    | refine EvolvesP.of (by with_reducible assumption) ?_ | refine EvolvesS.of (by with_reducible assumption) ?_
    | with_reducible refine EvolvesS.ite (fun _ => ?_) (fun _ => ?_) | exact EvolvesS.none | with_reducible refine EvolvesS.put ?_ | split
theorem State.nextCtl_ev {o₀ s : State} (port : PortId) (x : Session) (hev : Evolves o₀ s) :
    EvolvesP o₀ (State.nextCtl s port x) := by
  unfold State.nextCtl
  try dsimp only
  repeat' first
    | with_reducible assumption | with_reducible apply State.modLink_ev | with_reducible refine Evolves.foldl _ (fun _ _ _ => ?_) ?_
    | fail_if_no_progress with_reducible apply Evolves.lit | split | with_reducible refine EvolvesP.pair ?_
theorem State.putFrame_ev {o₀ s : State} (port : PortId) (x : Session) (f : Bytes) (hev : Evolves o₀ s) :
    Evolves o₀ (State.putFrame s port x f) := by
  unfold State.putFrame
  try dsimp only
  repeat' first
    | with_reducible assumption | with_reducible intro _ | with_reducible apply State.modPort_ev
    | with_reducible refine Evolves.ite (fun _ => ?_) (fun _ => ?_) | fail_if_no_progress with_reducible apply Evolves.lit
    | refine EvolvesP.of (by with_reducible assumption) ?_ | refine EvolvesS.of (by with_reducible assumption) ?_
    | with_reducible refine EvolvesS.ite (fun _ => ?_) (fun _ => ?_) | exact EvolvesS.none | with_reducible refine EvolvesS.put ?_ | split
theorem State.sendAgain_ev {o₀ s : State} (port : PortId) (x : Session) (seq : U16) (hev : Evolves o₀ s) :
    Evolves o₀ (State.sendAgain s port x seq) := by
  unfold State.sendAgain
  try dsimp only
  repeat' first
    | with_reducible assumption | with_reducible intro _ | with_reducible apply State.modLink_ev | with_reducible apply State.putFrame_ev
    | with_reducible refine Evolves.ite (fun _ => ?_) (fun _ => ?_) | fail_if_no_progress with_reducible apply Evolves.lit
    | refine EvolvesP.of (by with_reducible assumption) ?_ | refine EvolvesS.of (by with_reducible assumption) ?_
    | with_reducible refine EvolvesS.ite (fun _ => ?_) (fun _ => ?_) | exact EvolvesS.none | with_reducible refine EvolvesS.put ?_ | split
theorem State.sendNew_ev {o₀ s : State} (port : PortId) (x : Session) (hev : Evolves o₀ s) :
    Evolves o₀ (State.sendNew s port x) := by
  unfold State.sendNew
  try dsimp only
  repeat' first
    | with_reducible assumption | with_reducible intro _ | with_reducible apply State.nextCtl_ev | with_reducible apply State.modPort_ev
    | with_reducible apply State.modLink_ev | with_reducible apply State.putFrame_ev | with_reducible refine (State.nextCtl_ev _ _ ?_).fst
    | with_reducible refine Evolves.ite (fun _ => ?_) (fun _ => ?_)
theorem State.egressEcc_ev {o₀ s : State} (port : PortId) (x : Session) (ecc : Ecc) (hev : Evolves o₀ s) :
    Evolves o₀ (State.egressEcc s port x ecc) := by
  unfold State.egressEcc
  try dsimp only
  repeat' first
    | with_reducible assumption | with_reducible intro _ | with_reducible apply State.clearPart_ev | with_reducible apply State.modPort_ev
    | with_reducible apply State.markRow_ev | with_reducible apply State.correctDram_ev | with_reducible apply State.unitFault_ev
    | with_reducible refine Evolves.ite (fun _ => ?_) (fun _ => ?_) | fail_if_no_progress with_reducible apply Evolves.lit
    | refine EvolvesP.of (by with_reducible assumption) ?_ | refine EvolvesS.of (by with_reducible assumption) ?_
    | with_reducible refine EvolvesS.ite (fun _ => ?_) (fun _ => ?_) | exact EvolvesS.none | with_reducible refine EvolvesS.put ?_ | split
theorem execHaspFrameSend_ev {o₀ s : State} (port : PortId) (x : Session) (ecc : Ecc) (hev : Evolves o₀ s) :
    EvolvesO o₀ (execHaspFrameSend port x ecc s) := by
  unfold execHaspFrameSend
  try dsimp only
  repeat' first
    | with_reducible assumption | with_reducible apply State.egressEcc_ev | with_reducible apply State.sendAgain_ev | with_reducible apply State.sendNew_ev | refine EvolvesO.next ?_
    | split
theorem State.frameTaken_ev {o₀ s : State} (port : PortId) (x : Session) (f : Bytes) (hev : Evolves o₀ s) :
    Evolves o₀ (State.frameTaken s port x f) := by
  unfold State.frameTaken
  try dsimp only
  repeat' first
    | with_reducible assumption | with_reducible apply State.modLink_ev | with_reducible apply State.protocolError_ev
    | with_reducible apply State.inbound_ev | with_reducible refine Evolves.ite (fun _ => ?_) (fun _ => ?_)
    | with_reducible refine Evolves.foldl _ (fun _ _ _ => ?_) ?_ | fail_if_no_progress with_reducible apply Evolves.lit
theorem State.sendHello_ev {o₀ s : State} (port : PortId) (x : Session) (hev : Evolves o₀ s) :
    Evolves o₀ (State.sendHello s port x) := by
  unfold State.sendHello
  try dsimp only
  repeat' first
    | with_reducible assumption | with_reducible intro _ | with_reducible apply State.sendCtl_ev
theorem State.modMbox_ev {o₀ s : State} (f : FnId) (m : MboxId) (g : Mbox → Mbox) (hev : Evolves o₀ s) :
    Evolves o₀ (State.modMbox s f m g) := by
  unfold State.modMbox
  try dsimp only
  repeat' first
    | with_reducible assumption | with_reducible apply State.modFn_ev
theorem State.respond_ev {o₀ s : State} (r : Req) (status : Nat) (detail : Nat) (body : Bytes) (hev : Evolves o₀ s) :
    Evolves o₀ (State.respond s r status detail body) := by
  unfold State.respond
  try dsimp only
  repeat' first
    | with_reducible assumption | with_reducible apply State.modMbox_ev
theorem State.answer_ev {o₀ s : State} (which : Waiter → Bool) (status : Nat) (detail : Nat) (body : Bytes) (hev : Evolves o₀ s) :
    Evolves o₀ (State.answer s which status detail body) := by
  unfold State.answer
  try dsimp only
  repeat' first
    | with_reducible assumption | with_reducible apply State.respond_ev | with_reducible refine Evolves.ite (fun _ => ?_) (fun _ => ?_)
    | with_reducible refine Evolves.foldl _ (fun _ _ _ => ?_) ?_ | fail_if_no_progress with_reducible apply Evolves.lit
theorem State.await_ev {o₀ s : State} (opcode : Nat) (r : Req) (p : PartId) (key : Nat) (hev : Evolves o₀ s) :
    Evolves o₀ (State.await s opcode r p key) := by
  unfold State.await
  try dsimp only
  repeat' first
    | with_reducible assumption | fail_if_no_progress with_reducible apply Evolves.lit
theorem State.linkDown_ev {o₀ s : State} (port : PortId) (x : Session) (st : LinkState) (hev : Evolves o₀ s) :
    Evolves o₀ (State.linkDown s port x st) := by
  unfold State.linkDown
  try dsimp only
  repeat' first
    | with_reducible assumption | with_reducible intro _ | with_reducible apply State.flushEgress_ev | with_reducible apply State.modLink_ev
    | with_reducible refine Evolves.ite (fun _ => ?_) (fun _ => ?_) | fail_if_no_progress with_reducible apply Evolves.lit
theorem State.linksDown_ev {o₀ s : State} (port : PortId) (st : LinkState) (hev : Evolves o₀ s) :
    Evolves o₀ (State.linksDown s port st) := by
  unfold State.linksDown
  try dsimp only
  repeat' first
    | with_reducible assumption | with_reducible intro _ | with_reducible apply State.linkDown_ev
    | with_reducible refine Evolves.ite (fun _ => ?_) (fun _ => ?_) | with_reducible refine Evolves.foldl _ (fun _ _ _ => ?_) ?_
    | with_reducible refine EvolvesP.foldl _ (fun _ _ _ _ => ?_) ?_ | fail_if_no_progress with_reducible apply Evolves.lit
theorem State.portSettled_ev {o₀ s : State} (port : PortId) (hev : Evolves o₀ s) :
    Evolves o₀ (State.portSettled s port) := by
  unfold State.portSettled
  try dsimp only
  repeat' first
    | with_reducible assumption | with_reducible apply State.answer_ev
theorem State.portDown_ev {o₀ s : State} (port : PortId) (arg : Nat) (hev : Evolves o₀ s) :
    Evolves o₀ (State.portDown s port arg) := by
  unfold State.portDown
  try dsimp only
  repeat' first
    | with_reducible assumption | with_reducible apply State.linksDown_ev | with_reducible apply State.portSettled_ev
    | with_reducible apply State.modPort_ev | with_reducible apply State.linkEvent_ev
theorem execReplay_ev {o₀ s : State} (port : PortId) (x : Session) (seq : U16) (hev : Evolves o₀ s) :
    EvolvesO o₀ (execReplay port x seq s) := by
  unfold execReplay
  try dsimp only
  repeat' first
    | with_reducible assumption | with_reducible apply State.modLink_ev | with_reducible apply State.takeCtl_ev | refine EvolvesO.next ?_
    | refine EvolvesS.of (by with_reducible assumption) ?_ | split
theorem execReplayTimeout_ev {o₀ s : State} (port : PortId) (x : Session) (hev : Evolves o₀ s) :
    EvolvesO o₀ (execReplayTimeout port x s) := by
  unfold execReplayTimeout
  try dsimp only
  repeat' first
    | with_reducible assumption | with_reducible apply State.modLink_ev | with_reducible apply State.reach_ev | refine EvolvesO.next ?_
    | split
theorem State.linkRestart_ev {o₀ s : State} (port : PortId) (x : Session) (hev : Evolves o₀ s) :
    Evolves o₀ (State.linkRestart s port x) := by
  unfold State.linkRestart
  try dsimp only
  repeat' first
    | with_reducible assumption | with_reducible intro _ | with_reducible apply State.portDown_ev | with_reducible apply State.modLink_ev
    | with_reducible apply State.sendHello_ev | with_reducible apply State.linkLost_ev
    | with_reducible refine Evolves.ite (fun _ => ?_) (fun _ => ?_)
theorem State.linkReset_ev {o₀ s : State} (port : PortId) (x : Session) (hev : Evolves o₀ s) :
    Evolves o₀ (State.linkReset s port x) := by
  unfold State.linkReset
  try dsimp only
  repeat' first
    | with_reducible assumption | with_reducible intro _ | with_reducible apply State.portFault_ev
    | with_reducible apply State.linkRestart_ev
theorem execLinkReset_ev {o₀ s : State} (port : PortId) (x : Session) (hev : Evolves o₀ s) :
    EvolvesO o₀ (execLinkReset port x s) := by
  unfold execLinkReset
  try dsimp only
  repeat' first
    | with_reducible assumption | with_reducible apply State.linkReset_ev | refine EvolvesO.next ?_
    | with_reducible refine Evolves.ite (fun _ => ?_) (fun _ => ?_)
theorem execHaspFrameReceive_ev {o₀ s : State} (port : PortId) (x : Session) (frame : Bytes) (fecOk : Bool) (hev : Evolves o₀ s) :
    EvolvesO o₀ (execHaspFrameReceive port x frame fecOk s) := by
  unfold execHaspFrameReceive
  try dsimp only
  repeat' first
    | with_reducible assumption | with_reducible intro _ | with_reducible apply State.sendCtl_ev | with_reducible apply State.frameTaken_ev
    | with_reducible apply State.linkRestart_ev | with_reducible refine EvolvesO.ite (fun _ => ?_) (fun _ => ?_) | refine EvolvesO.next ?_
    | exact EvolvesO.fault _ | with_reducible refine Evolves.ite (fun _ => ?_) (fun _ => ?_)
    | fail_if_no_progress with_reducible apply Evolves.lit | refine EvolvesP.of (by with_reducible assumption) ?_
    | refine EvolvesS.of (by with_reducible assumption) ?_ | with_reducible refine EvolvesS.ite (fun _ => ?_) (fun _ => ?_)
    | exact EvolvesS.none | with_reducible refine EvolvesS.put ?_ | split
theorem execControlReset_ev {o₀ s : State} (port : PortId) (hev : Evolves o₀ s) :
    EvolvesO o₀ (execControlReset port s) := by
  unfold execControlReset
  try dsimp only
  repeat' first
    | with_reducible assumption | with_reducible intro _ | with_reducible apply State.modPort_ev | with_reducible apply State.linkDown_ev
    | with_reducible apply State.linkLost_ev | with_reducible refine EvolvesO.ite (fun _ => ?_) (fun _ => ?_) | refine EvolvesO.next ?_
    | exact EvolvesO.fault _ | with_reducible refine Evolves.ite (fun _ => ?_) (fun _ => ?_)
    | fail_if_no_progress with_reducible apply Evolves.lit | refine EvolvesP.of (by with_reducible assumption) ?_
    | refine EvolvesS.of (by with_reducible assumption) ?_ | with_reducible refine EvolvesS.ite (fun _ => ?_) (fun _ => ?_)
    | exact EvolvesS.none | with_reducible refine EvolvesS.put ?_ | split
theorem State.lanesLost_ev {o₀ s : State} (port : PortId) (hev : Evolves o₀ s) :
    Evolves o₀ (State.lanesLost s port) := by
  unfold State.lanesLost
  try dsimp only
  repeat' first
    | with_reducible assumption | with_reducible apply State.portDown_ev | with_reducible apply State.linkLost_ev
    | with_reducible apply State.modPort_ev | with_reducible refine Evolves.ite (fun _ => ?_) (fun _ => ?_)
theorem execLinkDown_ev {o₀ s : State} (port : PortId) (hev : Evolves o₀ s) :
    EvolvesO o₀ (execLinkDown port s) := by
  unfold execLinkDown
  try dsimp only
  repeat' first
    | with_reducible assumption | with_reducible apply State.lanesLost_ev | refine EvolvesO.next ?_
theorem State.nakTaken_ev {o₀ s : State} (port : PortId) (m : NakMsg) (hev : Evolves o₀ s) :
    Evolves o₀ (State.nakTaken s port m) := by
  unfold State.nakTaken
  try dsimp only
  repeat' first
    | with_reducible assumption | with_reducible intro _ | with_reducible apply State.place_ev
    | with_reducible refine (State.place_ev _ _ _ ?_).fst | with_reducible refine Evolves.ite (fun _ => ?_) (fun _ => ?_)
    | fail_if_no_progress with_reducible apply Evolves.lit | refine EvolvesP.of (by with_reducible assumption) ?_
    | refine EvolvesS.of (by with_reducible assumption) ?_ | with_reducible refine EvolvesS.ite (fun _ => ?_) (fun _ => ?_)
    | exact EvolvesS.none | with_reducible refine EvolvesS.put ?_ | split
theorem execNak_ev {o₀ s : State} (port : PortId) (m : NakMsg) (hev : Evolves o₀ s) :
    EvolvesO o₀ (execNak port m s) := by
  unfold execNak
  try dsimp only
  repeat' first
    | with_reducible assumption | with_reducible intro _ | with_reducible apply State.nakTaken_ev | with_reducible apply State.takeCtl_ev
    | with_reducible refine EvolvesO.ite (fun _ => ?_) (fun _ => ?_) | refine EvolvesO.next ?_ | exact EvolvesO.fault _
    | with_reducible refine Evolves.ite (fun _ => ?_) (fun _ => ?_) | fail_if_no_progress with_reducible apply Evolves.lit
    | refine EvolvesP.of (by with_reducible assumption) ?_ | refine EvolvesS.of (by with_reducible assumption) ?_
    | with_reducible refine EvolvesS.ite (fun _ => ?_) (fun _ => ?_) | exact EvolvesS.none | with_reducible refine EvolvesS.put ?_ | split
theorem execCredits_ev {o₀ s : State} (port : PortId) (x : Session) (rs : List (Byte × U16)) (hev : Evolves o₀ s) :
    EvolvesO o₀ (execCredits port x rs s) := by
  unfold execCredits
  try dsimp only
  repeat' first
    | with_reducible assumption | with_reducible apply State.modLink_ev | with_reducible apply State.takeCtl_ev | refine EvolvesO.next ?_
    | with_reducible refine Evolves.foldl _ (fun _ _ _ => ?_) ?_ | refine EvolvesS.of (by with_reducible assumption) ?_ | split
theorem State.laneReplace_ev {o₀ s : State} (port : PortId) (l : LaneId) (hev : Evolves o₀ s) :
    Evolves o₀ (State.laneReplace s port l) := by
  unfold State.laneReplace
  try dsimp only
  repeat' first
    | with_reducible assumption | with_reducible apply State.portDown_ev | with_reducible apply State.sendCtl_ev
    | with_reducible apply State.linkLost_ev | with_reducible refine Evolves.ite (fun _ => ?_) (fun _ => ?_)
theorem State.laneFence_ev {o₀ s : State} (port : PortId) (l : LaneId) (cause : Nat) (source : Byte) (cls : Byte) (hev : Evolves o₀ s) :
    Evolves o₀ (State.laneFence s port l cause source cls) := by
  unfold State.laneFence
  try dsimp only
  repeat' first
    | with_reducible assumption | with_reducible intro _ | with_reducible apply State.logDefect_ev | with_reducible apply State.modPort_ev
    | with_reducible apply State.laneReplace_ev | with_reducible refine Evolves.ite (fun _ => ?_) (fun _ => ?_)
theorem execLaneSignalDetect_ev {o₀ s : State} (port : PortId) (l : LaneId) (hev : Evolves o₀ s) :
    EvolvesO o₀ (execLaneSignalDetect port l s) := by
  unfold execLaneSignalDetect
  try dsimp only
  repeat' first
    | with_reducible assumption | with_reducible apply State.modPort_ev | refine EvolvesO.next ?_
    | with_reducible refine Evolves.ite (fun _ => ?_) (fun _ => ?_)
theorem execLaneTrainingDone_ev {o₀ s : State} (port : PortId) (l : LaneId) (aligned : Bool) (d : AlignDelays) (device : U64)
    (hev : Evolves o₀ s) :
    EvolvesO o₀ (execLaneTrainingDone port l aligned d device s) := by
  unfold execLaneTrainingDone
  try dsimp only
  repeat' first
    | with_reducible assumption | with_reducible intro _ | with_reducible apply State.modPort_ev
    | with_reducible refine EvolvesO.ite (fun _ => ?_) (fun _ => ?_) | refine EvolvesO.next ?_ | exact EvolvesO.fault _
    | with_reducible refine Evolves.ite (fun _ => ?_) (fun _ => ?_)
theorem State.admBegin_ev {o₀ s : State} (port : PortId) (x : Session) (hev : Evolves o₀ s) :
    Evolves o₀ (State.admBegin s port x) := by
  unfold State.admBegin
  try dsimp only
  repeat' first
    | with_reducible assumption | with_reducible intro _ | with_reducible apply State.sendHello_ev | with_reducible apply State.modLink_ev
theorem State.admitAll_ev {o₀ s : State} (port : PortId) (hev : Evolves o₀ s) :
    Evolves o₀ (State.admitAll s port) := by
  unfold State.admitAll
  try dsimp only
  repeat' first
    | with_reducible assumption | with_reducible intro _ | with_reducible apply State.admBegin_ev
    | with_reducible refine Evolves.ite (fun _ => ?_) (fun _ => ?_) | with_reducible refine Evolves.foldl _ (fun _ _ _ => ?_) ?_
theorem State.portUp_ev {o₀ s : State} (port : PortId) (ok : LaneId → Bool) (half : Option Bool) (sw : Option LaneId) (hev : Evolves o₀ s) :
    Evolves o₀ (State.portUp s port ok half sw) := by
  unfold State.portUp
  try dsimp only
  repeat' first
    | with_reducible assumption | with_reducible intro _ | with_reducible apply State.modPort_ev | with_reducible apply State.laneFence_ev
    | with_reducible apply State.admitAll_ev | with_reducible apply State.modLink_ev | with_reducible apply State.linkEvent_ev
    | with_reducible apply State.portSettled_ev | with_reducible refine Evolves.ite (fun _ => ?_) (fun _ => ?_)
    | with_reducible refine Evolves.foldl _ (fun _ _ _ => ?_) ?_ | with_reducible refine EvolvesP.foldl _ (fun _ _ _ _ => ?_) ?_
    | fail_if_no_progress with_reducible apply Evolves.lit
theorem execLaneQualifyWindow_ev {o₀ s : State} (port : PortId) (passed : BitVec 9) (clean : Bool) (hev : Evolves o₀ s) :
    EvolvesO o₀ (execLaneQualifyWindow port passed clean s) := by
  unfold execLaneQualifyWindow
  try dsimp only
  repeat' first
    | with_reducible assumption | with_reducible apply State.portDown_ev | with_reducible apply State.portUp_ev
    | with_reducible apply State.modPort_ev | refine EvolvesO.next ?_ | split
theorem execLaneMonitorWindow_ev {o₀ s : State} (port : PortId) (overLimit : BitVec 9) (hev : Evolves o₀ s) :
    EvolvesO o₀ (execLaneMonitorWindow port overLimit s) := by
  unfold execLaneMonitorWindow
  try dsimp only
  repeat' first
    | with_reducible assumption | with_reducible apply State.laneFence_ev | with_reducible apply State.modPort_ev | refine EvolvesO.next ?_
    | with_reducible refine Evolves.ite (fun _ => ?_) (fun _ => ?_) | with_reducible refine Evolves.foldl _ (fun _ _ _ => ?_) ?_
theorem execLaneLockLoss_ev {o₀ s : State} (port : PortId) (l : LaneId) (hev : Evolves o₀ s) :
    EvolvesO o₀ (execLaneLockLoss port l s) := by
  unfold execLaneLockLoss
  try dsimp only
  repeat' first
    | with_reducible assumption | with_reducible apply State.laneFence_ev | refine EvolvesO.next ?_
    | with_reducible refine Evolves.ite (fun _ => ?_) (fun _ => ?_)
theorem execLane_ev {o₀ s : State} (port : PortId) (failed : LaneId) (atSeq : U16) (ack : Bool) (hev : Evolves o₀ s) :
    EvolvesO o₀ (execLane port failed atSeq ack s) := by
  unfold execLane
  try dsimp only
  repeat' first
    | with_reducible assumption | with_reducible apply State.takeCtl_ev | with_reducible apply State.sendCtl_ev
    | with_reducible apply State.modPort_ev | refine EvolvesO.next ?_ | refine EvolvesS.of (by with_reducible assumption) ?_ | split
theorem State.laneSwap_ev {o₀ s : State} (port : PortId) (l : LaneId) (hev : Evolves o₀ s) :
    Evolves o₀ (State.laneSwap s port l) := by
  unfold State.laneSwap
  try dsimp only
  repeat' first
    | with_reducible assumption | with_reducible apply State.portDown_ev | with_reducible apply State.linkLost_ev
    | with_reducible apply State.modPort_ev | with_reducible apply State.linkEvent_ev | split
theorem execLaneSwap_ev {o₀ s : State} (port : PortId) (hev : Evolves o₀ s) :
    EvolvesO o₀ (execLaneSwap port s) := by
  unfold execLaneSwap
  try dsimp only
  repeat' first
    | with_reducible assumption | with_reducible apply State.laneSwap_ev | refine EvolvesO.next ?_ | split
theorem State.admitFail_ev {o₀ s : State} (port : PortId) (x : Session) (reason : Nat) (hev : Evolves o₀ s) :
    Evolves o₀ (State.admitFail s port x reason) := by
  unfold State.admitFail
  try dsimp only
  repeat' first
    | with_reducible assumption | with_reducible apply State.flushEgress_ev | with_reducible apply State.modLink_ev
    | with_reducible apply State.answer_ev | with_reducible apply State.linkEvent_ev
theorem State.admitMismatch_ev {o₀ s : State} (port : PortId) (reason : Nat) (hev : Evolves o₀ s) :
    Evolves o₀ (State.admitMismatch s port reason) := by
  unfold State.admitMismatch
  try dsimp only
  repeat' first
    | with_reducible assumption | with_reducible apply State.portFault_ev
theorem State.admStage_ev {o₀ s : State} (port : PortId) (x : Session) (st : AdmStage) (hev : Evolves o₀ s) :
    Evolves o₀ (State.admStage s port x st) := by
  unfold State.admStage
  try dsimp only
  repeat' first
    | with_reducible assumption | with_reducible apply State.modLink_ev
theorem State.admitted_ev {o₀ s : State} (port : PortId) (x : Session) (hev : Evolves o₀ s) :
    Evolves o₀ (State.admitted s port x) := by
  unfold State.admitted
  try dsimp only
  repeat' first
    | with_reducible assumption | with_reducible apply State.modLink_ev | with_reducible apply State.answer_ev
    | with_reducible apply State.linkEvent_ev
theorem State.sign_ev {o₀ s : State} (a : Attest) (hev : Evolves o₀ s) :
    Evolves o₀ (State.sign s a) := by
  unfold State.sign
  try dsimp only
  repeat' first
    | with_reducible assumption | with_reducible refine Evolves.ite (fun _ => ?_) (fun _ => ?_)
    | fail_if_no_progress with_reducible apply Evolves.lit
theorem State.sendSpdm_ev {o₀ s : State} (port : PortId) (x : Session) (msg : Bytes) (hev : Evolves o₀ s) :
    Evolves o₀ (State.sendSpdm s port x msg) := by
  unfold State.sendSpdm
  try dsimp only
  repeat' first
    | with_reducible assumption | with_reducible intro _ | with_reducible apply State.sendCtl_ev
    | with_reducible refine Evolves.ite (fun _ => ?_) (fun _ => ?_) | with_reducible refine Evolves.foldl _ (fun _ _ _ => ?_) ?_
theorem State.helloTaken_ev {o₀ s : State} (port : PortId) (x : Session) (h : Hello) (hev : Evolves o₀ s) :
    Evolves o₀ (State.helloTaken s port x h) := by
  unfold State.helloTaken
  try dsimp only
  repeat' first
    | with_reducible assumption | with_reducible intro _ | with_reducible apply State.linkDown_ev | with_reducible apply State.sendSpdm_ev
    | with_reducible apply State.modLink_ev | with_reducible apply State.admitted_ev | with_reducible apply State.admStage_ev
    | with_reducible apply State.admitFail_ev | with_reducible apply State.linkLost_ev | with_reducible apply State.protocolError_ev
    | with_reducible refine Evolves.ite (fun _ => ?_) (fun _ => ?_) | fail_if_no_progress with_reducible apply Evolves.lit
    | refine EvolvesP.of (by with_reducible assumption) ?_ | refine EvolvesS.of (by with_reducible assumption) ?_
    | with_reducible refine EvolvesS.ite (fun _ => ?_) (fun _ => ?_) | exact EvolvesS.none | with_reducible refine EvolvesS.put ?_ | split
theorem execHello_ev {o₀ s : State} (port : PortId) (x : Session) (h : Hello) (hev : Evolves o₀ s) :
    EvolvesO o₀ (execHello port x h s) := by
  unfold execHello
  try dsimp only
  repeat' first
    | with_reducible assumption | with_reducible apply State.helloTaken_ev | with_reducible apply State.takeCtl_ev | refine EvolvesO.next ?_
    | refine EvolvesS.of (by with_reducible assumption) ?_ | split
theorem State.authAdvance_ev {o₀ s : State} (port : PortId) (x : Session) (hev : Evolves o₀ s) :
    Evolves o₀ (State.authAdvance s port x) := by
  unfold State.authAdvance
  try dsimp only
  repeat' first
    | with_reducible assumption | with_reducible intro _ | with_reducible apply State.sendCtl_ev | with_reducible apply State.admStage_ev
    | with_reducible refine Evolves.ite (fun _ => ?_) (fun _ => ?_) | with_reducible refine Evolves.foldl _ (fun _ _ _ => ?_) ?_
    | with_reducible refine EvolvesP.foldl _ (fun _ _ _ _ => ?_) ?_ | fail_if_no_progress with_reducible apply Evolves.lit
    | refine EvolvesP.of (by with_reducible assumption) ?_ | refine EvolvesS.of (by with_reducible assumption) ?_
    | with_reducible refine EvolvesS.ite (fun _ => ?_) (fun _ => ?_) | exact EvolvesS.none | with_reducible refine EvolvesS.put ?_ | split
theorem State.authDone_ev {o₀ s : State} (port : PortId) (x : Session) (ev : Bytes) (hev : Evolves o₀ s) :
    Evolves o₀ (State.authDone s port x ev) := by
  unfold State.authDone
  try dsimp only
  repeat' first
    | with_reducible assumption | with_reducible intro _ | with_reducible apply State.authAdvance_ev | with_reducible apply State.modLink_ev
    | with_reducible apply State.admitFail_ev | with_reducible refine Evolves.ite (fun _ => ?_) (fun _ => ?_)
theorem State.spdmGiven_ev {o₀ s : State} (port : PortId) (x : Session) (request : Bytes) (answer : Bytes) (hev : Evolves o₀ s) :
    Evolves o₀ (State.spdmGiven s port x request answer) := by
  unfold State.spdmGiven
  try dsimp only
  repeat' first
    | with_reducible assumption | with_reducible intro _ | with_reducible apply State.authAdvance_ev | with_reducible apply State.modLink_ev
    | with_reducible apply State.sendSpdm_ev
theorem State.spdmTaken_ev {o₀ s : State} (port : PortId) (x : Session) (a : Admission) (msg : Bytes) (hev : Evolves o₀ s) :
    Evolves o₀ (State.spdmTaken s port x a msg) := by
  unfold State.spdmTaken
  try dsimp only
  repeat' first
    | with_reducible assumption | with_reducible intro _ | with_reducible apply State.sign_ev | with_reducible apply State.authDone_ev
    | with_reducible apply State.modLink_ev | with_reducible apply State.sendSpdm_ev | with_reducible apply State.spdmGiven_ev
    | with_reducible refine Evolves.ite (fun _ => ?_) (fun _ => ?_) | fail_if_no_progress with_reducible apply Evolves.lit
theorem State.fragmentTaken_ev {o₀ s : State} (port : PortId) (x : Session) (kind : Nat) (last : Bool) (data : Bytes) (hev : Evolves o₀ s) :
    Evolves o₀ (State.fragmentTaken s port x kind last data) := by
  unfold State.fragmentTaken
  try dsimp only
  repeat' first
    | with_reducible assumption | with_reducible intro _ | with_reducible apply State.admitMismatch_ev
    | with_reducible apply State.admStage_ev | with_reducible apply State.modLink_ev | with_reducible apply State.admitFail_ev
    | with_reducible apply State.spdmTaken_ev | with_reducible apply State.protocolError_ev
    | with_reducible refine Evolves.ite (fun _ => ?_) (fun _ => ?_) | fail_if_no_progress with_reducible apply Evolves.lit
    | refine EvolvesP.of (by with_reducible assumption) ?_ | refine EvolvesS.of (by with_reducible assumption) ?_
    | with_reducible refine EvolvesS.ite (fun _ => ?_) (fun _ => ?_) | exact EvolvesS.none | with_reducible refine EvolvesS.put ?_ | split
theorem execAdmitFragment_ev {o₀ s : State} (port : PortId) (x : Session) (kind : Byte) (index : Byte) (last : Bool) (data : Bytes)
    (hev : Evolves o₀ s) :
    EvolvesO o₀ (execAdmitFragment port x kind index last data s) := by
  unfold execAdmitFragment
  try dsimp only
  repeat' first
    | with_reducible assumption | with_reducible apply State.fragmentTaken_ev | with_reducible apply State.takeCtl_ev
    | refine EvolvesO.next ?_ | refine EvolvesS.of (by with_reducible assumption) ?_ | split
theorem State.syncTaken_ev {o₀ s : State} (port : PortId) (x : Session) (a : Admission) (t1 : U64) (t2 : U64) (t3 : U64) (t4 : U64)
    (hev : Evolves o₀ s) :
    Evolves o₀ (State.syncTaken s port x a t1 t2 t3 t4) := by
  unfold State.syncTaken
  try dsimp only
  repeat' first
    | with_reducible assumption | with_reducible apply State.admitFail_ev | with_reducible apply State.modLink_ev
    | with_reducible apply State.admitted_ev | with_reducible apply State.admitMismatch_ev | split
theorem execSyncExchange_ev {o₀ s : State} (port : PortId) (x : Session) (t1 : U64) (t2 : U64) (t3 : U64) (t4 : U64) (hev : Evolves o₀ s) :
    EvolvesO o₀ (execSyncExchange port x t1 t2 t3 t4 s) := by
  unfold execSyncExchange
  try dsimp only
  repeat' first
    | with_reducible assumption | with_reducible intro _ | with_reducible apply State.syncTaken_ev | with_reducible apply State.admitFail_ev
    | with_reducible refine EvolvesO.ite (fun _ => ?_) (fun _ => ?_) | refine EvolvesO.next ?_ | exact EvolvesO.fault _
    | with_reducible refine Evolves.ite (fun _ => ?_) (fun _ => ?_) | fail_if_no_progress with_reducible apply Evolves.lit
    | refine EvolvesP.of (by with_reducible assumption) ?_ | refine EvolvesS.of (by with_reducible assumption) ?_
    | with_reducible refine EvolvesS.ite (fun _ => ?_) (fun _ => ?_) | exact EvolvesS.none | with_reducible refine EvolvesS.put ?_ | split
theorem execAdmissionStageTimeout_ev {o₀ s : State} (port : PortId) (x : Session) (hev : Evolves o₀ s) :
    EvolvesO o₀ (execAdmissionStageTimeout port x s) := by
  unfold execAdmissionStageTimeout
  try dsimp only
  repeat' first
    | with_reducible assumption | with_reducible apply State.reach_ev | with_reducible apply State.admitFail_ev | refine EvolvesO.next ?_
    | split
theorem execAdmissionRevoke_ev {o₀ s : State} (port : PortId) (x : Session) (hev : Evolves o₀ s) :
    EvolvesO o₀ (execAdmissionRevoke port x s) := by
  unfold execAdmissionRevoke
  try dsimp only
  repeat' first
    | with_reducible assumption | with_reducible apply State.flushEgress_ev | with_reducible apply State.modLink_ev
    | with_reducible apply State.linkLost_ev | with_reducible apply State.linkEvent_ev | refine EvolvesO.next ?_
    | with_reducible refine Evolves.ite (fun _ => ?_) (fun _ => ?_)
theorem execHeartbeatSend_ev {o₀ s : State} (port : PortId) (x : Session) (hev : Evolves o₀ s) :
    EvolvesO o₀ (execHeartbeatSend port x s) := by
  unfold execHeartbeatSend
  try dsimp only
  repeat' first
    | with_reducible assumption | with_reducible apply State.sendCtl_ev | with_reducible apply State.reachJob_ev | refine EvolvesO.next ?_
    | split
theorem State.servo_ev {o₀ s : State} (p : PartId) (port : PortId) (errPs : Int) (hev : Evolves o₀ s) :
    Evolves o₀ (State.servo s p port errPs) := by
  unfold State.servo
  try dsimp only
  repeat' first
    | with_reducible assumption | with_reducible apply State.modPart_ev | with_reducible apply State.portFault_ev
    | with_reducible refine Evolves.ite (fun _ => ?_) (fun _ => ?_)
theorem State.heartbeatTaken_ev {o₀ s : State} (port : PortId) (x : Session) (p : PartId) (hb : Heartbeat) (hev : Evolves o₀ s) :
    Evolves o₀ (State.heartbeatTaken s port x p hb) := by
  unfold State.heartbeatTaken
  try dsimp only
  repeat' first
    | with_reducible assumption | with_reducible apply State.modLink_ev | with_reducible apply State.servo_ev
    | with_reducible apply State.portFault_ev | with_reducible refine Evolves.ite (fun _ => ?_) (fun _ => ?_)
theorem execHeartbeat_ev {o₀ s : State} (port : PortId) (x : Session) (hb : Heartbeat) (hev : Evolves o₀ s) :
    EvolvesO o₀ (execHeartbeat port x hb s) := by
  unfold execHeartbeat
  try dsimp only
  repeat' first
    | with_reducible assumption | with_reducible apply State.modLink_ev | with_reducible apply State.takeCtl_ev
    | with_reducible apply State.heartbeatTaken_ev | refine EvolvesO.next ?_ | refine EvolvesS.of (by with_reducible assumption) ?_ | split
theorem State.heartbeatMiss_ev {o₀ s : State} (port : PortId) (x : Session) (p : PartId) (hev : Evolves o₀ s) :
    Evolves o₀ (State.heartbeatMiss s port x p) := by
  unfold State.heartbeatMiss
  try dsimp only
  repeat' first
    | with_reducible assumption | with_reducible apply State.modLink_ev | with_reducible apply State.reachJob_ev
    | with_reducible apply State.linkEvent_ev | with_reducible apply State.portFault_ev
    | with_reducible refine Evolves.ite (fun _ => ?_) (fun _ => ?_)
theorem execHeartbeatMiss_ev {o₀ s : State} (port : PortId) (x : Session) (hev : Evolves o₀ s) :
    EvolvesO o₀ (execHeartbeatMiss port x s) := by
  unfold execHeartbeatMiss
  try dsimp only
  repeat' first
    | with_reducible assumption | with_reducible apply State.heartbeatMiss_ev | refine EvolvesO.next ?_ | split
theorem State.modBinding_ev {o₀ s : State} (n : Nat) (f : SvcBinding → SvcBinding) (hev : Evolves o₀ s) : Evolves o₀ (s.modBinding n f) := by
  unfold State.modBinding
  split
  · exact ⟨hev.member, hev.pending, fun x => let y := hev.sound x
      ⟨y.tiles, y.seams, y.regions, y.channels, kwf_kput _ _ _ y.bindings, y.rows, y.dram, y.flat, y.inbox, y.faultLog⟩⟩
  · exact hev
theorem State.datagram_ev {o₀ s : State} (b : SvcBinding) (n : Nat) (op : Nat) (reason : Nat) (session : Bytes) (body : Bytes)
    (hev : Evolves o₀ s) :
    Evolves o₀ (State.datagram s b n op reason session body) := by
  unfold State.datagram
  try dsimp only
  repeat' first
    | with_reducible assumption | fail_if_no_progress with_reducible apply Evolves.lit
theorem State.svcRefuse_ev {o₀ s : State} (n : Nat) (reason : Nat) (b : SvcBinding) (session : Bytes) (hev : Evolves o₀ s) :
    Evolves o₀ (State.svcRefuse s n reason b session) := by
  unfold State.svcRefuse
  try dsimp only
  repeat' first
    | with_reducible assumption | with_reducible apply State.datagram_ev | with_reducible apply State.modBinding_ev
theorem State.svcPlace_ev {o₀ s : State} (b : SvcBinding) (ws : Bytes) (hev : Evolves o₀ s) :
    EvolvesS o₀ (State.svcPlace s b ws) := by
  unfold State.svcPlace
  try dsimp only
  repeat' first
    | with_reducible assumption | with_reducible apply State.modChan_ev | with_reducible apply State.partWrite_ev
    | with_reducible refine EvolvesS.ite (fun _ => ?_) (fun _ => ?_) | refine EvolvesS.put ?_ | exact EvolvesS.none
    | with_reducible refine Evolves.ite (fun _ => ?_) (fun _ => ?_)
theorem State.svcDrain_ev {o₀ : State} (n : Nat) (fuel : Nat) : ∀ {s : State}, Evolves o₀ s → Evolves o₀ (State.svcDrain n fuel s) := by
  induction fuel with
  | zero => exact fun hev => hev | succ fuel ih =>
    intro s hev
    unfold State.svcDrain
    try dsimp only
    repeat' first
      | with_reducible assumption | with_reducible apply ih | with_reducible apply State.modBinding_ev
      | refine EvolvesS.of (by with_reducible assumption) (State.svcPlace_ev _ _ ?_) | split
theorem State.svcTake_ev {o₀ s : State} (n : Nat) (b : SvcBinding) (session : Bytes) (body : Bytes) (hev : Evolves o₀ s) :
    Evolves o₀ (State.svcTake s n b session body) := by
  unfold State.svcTake
  try dsimp only
  repeat' first
    | with_reducible assumption | with_reducible apply State.svcRefuse_ev | with_reducible apply State.partWrite_ev
    | with_reducible apply State.svcPlace_ev | with_reducible apply State.modBinding_ev
    | refine EvolvesS.of (by with_reducible assumption) ?_ | exact EvolvesS.none | split
theorem execServiceRequest_ev {o₀ s : State} (port : PortId) (ipv6 : Bool) (addr : Bytes) (binding : U16) (request : U32) (client : U16)
    (payload : Bytes) (hev : Evolves o₀ s) :
    EvolvesO o₀ (execServiceRequest port ipv6 addr binding request client payload s) := by
  unfold execServiceRequest
  try dsimp only
  repeat' first
    | with_reducible assumption | with_reducible apply State.svcRefuse_ev | with_reducible apply State.modBinding_ev
    | with_reducible apply State.svcTake_ev | refine EvolvesO.next ?_ | split
theorem State.routerRefuse_ev {o₀ s : State} (t : TileId) (q : Packet) (hev : Evolves o₀ s) :
    Evolves o₀ (State.routerRefuse s t q) := by
  unfold State.routerRefuse
  try dsimp only
  repeat' first
    | with_reducible assumption | with_reducible intro _ | with_reducible apply State.enter_ev
    | with_reducible refine Evolves.ite (fun _ => ?_) (fun _ => ?_) | fail_if_no_progress with_reducible apply Evolves.lit
    | refine EvolvesP.of (by with_reducible assumption) ?_ | refine EvolvesS.of (by with_reducible assumption) ?_
    | with_reducible refine EvolvesS.ite (fun _ => ?_) (fun _ => ?_) | exact EvolvesS.none | with_reducible refine EvolvesS.put ?_ | split
theorem State.atTile_ev {o₀ s : State} (t : TileId) (q : Packet) (hev : Evolves o₀ s) :
    Evolves o₀ (State.atTile s t q) := by
  unfold State.atTile
  try dsimp only
  repeat' first
    | with_reducible assumption | with_reducible apply State.modTile_ev | with_reducible refine Evolves.ite (fun _ => ?_) (fun _ => ?_)
theorem State.deliver_ev {o₀ s : State} (t : TileId) (q : Packet) (hev : Evolves o₀ s) :
    Evolves o₀ (State.deliver s t q) := by
  unfold State.deliver
  try dsimp only
  repeat' first
    | with_reducible assumption | with_reducible intro _ | with_reducible apply State.enter_ev | with_reducible apply State.atTile_ev
    | with_reducible apply State.routerRefuse_ev | with_reducible refine Evolves.ite (fun _ => ?_) (fun _ => ?_)
    | fail_if_no_progress with_reducible apply Evolves.lit | refine EvolvesP.of (by with_reducible assumption) ?_
    | refine EvolvesS.of (by with_reducible assumption) ?_ | with_reducible refine EvolvesS.ite (fun _ => ?_) (fun _ => ?_)
    | exact EvolvesS.none | with_reducible refine EvolvesS.put ?_ | split
theorem State.toHost_ev {o₀ s : State} (east : Bool) (q : Packet) (hev : Evolves o₀ s) :
    Evolves o₀ (State.toHost s east q) := by
  unfold State.toHost
  try dsimp only
  repeat' first
    | with_reducible assumption | with_reducible apply State.modFn_ev | with_reducible apply State.refuseAt_ev
    | with_reducible refine (State.place_ev _ _ _ ?_).fst | with_reducible refine Evolves.ite (fun _ => ?_) (fun _ => ?_)
theorem State.atDie_ev {o₀ s : State} (east : Bool) (k : NetPkt) (hev : Evolves o₀ s) :
    EvolvesS o₀ (State.atDie s east k) := by
  unfold State.atDie
  try dsimp only
  repeat' first
    | with_reducible assumption | with_reducible intro _ | with_reducible apply State.toHost_ev | with_reducible apply State.refuseAt_ev
    | with_reducible apply State.toExit_ev | with_reducible apply State.unitReplied_ev
    | with_reducible refine (State.toExit_ev _ _ _ ?_).fst | with_reducible refine EvolvesS.ite (fun _ => ?_) (fun _ => ?_)
    | refine EvolvesS.put ?_ | exact EvolvesS.none | with_reducible refine Evolves.ite (fun _ => ?_) (fun _ => ?_)
    | fail_if_no_progress with_reducible apply Evolves.lit | refine EvolvesP.of (by with_reducible assumption) ?_
    | refine EvolvesS.of (by with_reducible assumption) ?_ | with_reducible refine EvolvesS.ite (fun _ => ?_) (fun _ => ?_)
    | exact EvolvesS.none | with_reducible refine EvolvesS.put ?_ | split
theorem State.lift_ev {o₀ s : State} (k : NetPkt) (hev : Evolves o₀ s) :
    Evolves o₀ (State.lift s k) := by
  unfold State.lift
  try dsimp only
  repeat' first
    | with_reducible assumption | fail_if_no_progress with_reducible apply Evolves.lit
theorem State.drop_ev {o₀ s : State} (k : NetPkt) (loc : Loc) (hev : Evolves o₀ s) :
    Evolves o₀ (State.drop s k loc) := by
  unfold State.drop
  try dsimp only
  repeat' first
    | with_reducible assumption | fail_if_no_progress with_reducible apply Evolves.lit
theorem State.mcastTo_ev {o₀ s : State} (t : TileId) (k : NetPkt) (o : Nat × Option TileId) (hev : Evolves o₀ s) :
    Evolves o₀ (State.mcastTo s t k o) := by
  unfold State.mcastTo
  try dsimp only
  repeat' first
    | with_reducible assumption | with_reducible apply State.drop_ev | with_reducible apply State.modTile_ev | split
theorem State.cross_ev {o₀ s : State} (t : TileId) (k : NetPkt) (o : Nat) (u : TileId) (word : SeamWord) (hev : Evolves o₀ s) :
    Evolves o₀ (State.cross s t k o u word) := by
  unfold State.cross
  try dsimp only
  repeat' first
    | with_reducible assumption
    | with_reducible apply State.drop_ev
    | with_reducible apply State.linkFault_ev
    | with_reducible refine Evolves.ite (fun _ => ?_) (fun _ => ?_)
    | split
    | fail_if_no_progress with_reducible apply Evolves.lit
theorem State.mcastSend_ev {o₀ s : State} (t : TileId) (inPort : Nat) (k : NetPkt) (word : SeamWord) (hev : Evolves o₀ s) :
    Evolves o₀ (State.mcastSend s t inPort k word) := by
  unfold State.mcastSend
  try dsimp only
  repeat' first
    | with_reducible assumption | with_reducible intro _ | with_reducible apply State.cross_ev | with_reducible apply State.lift_ev
    | with_reducible apply State.mcastTo_ev | with_reducible refine Evolves.ite (fun _ => ?_) (fun _ => ?_)
    | with_reducible refine Evolves.foldl _ (fun _ _ _ => ?_) ?_ | with_reducible refine EvolvesP.foldl _ (fun _ _ _ _ => ?_) ?_
    | fail_if_no_progress with_reducible apply Evolves.lit | refine EvolvesP.of (by with_reducible assumption) ?_
    | refine EvolvesS.of (by with_reducible assumption) ?_ | with_reducible refine EvolvesS.ite (fun _ => ?_) (fun _ => ?_)
    | exact EvolvesS.none | with_reducible refine EvolvesS.put ?_ | split
theorem State.served_ev {o₀ s : State} (t : TileId) (outs : List Nat) (i : Nat) (q : Packet) (hev : Evolves o₀ s) :
    Evolves o₀ (State.served s t outs i q) := by
  unfold State.served
  try dsimp only
  repeat' first
    | with_reducible assumption | with_reducible intro _ | with_reducible apply State.modTile_ev
    | with_reducible refine Evolves.ite (fun _ => ?_) (fun _ => ?_) | with_reducible refine Evolves.foldl _ (fun _ _ _ => ?_) ?_
theorem State.noteReady_ev {o₀ s : State} (hev : Evolves o₀ s) :
    Evolves o₀ (State.noteReady s) := by
  unfold State.noteReady
  try dsimp only
  repeat' first
    | with_reducible assumption | with_reducible intro _ | with_reducible refine Evolves.ite (fun _ => ?_) (fun _ => ?_)
    | fail_if_no_progress with_reducible apply Evolves.lit
theorem State.advance_ev {o₀ s : State} (t : TileId) (inPort : Nat) (k : NetPkt) (outs : List Nat) (hop : Option (Nat × TileId))
    (word : SeamWord) (hev : Evolves o₀ s) :
    Evolves o₀ (State.advance s t inPort k outs hop word) := by
  unfold State.advance
  try dsimp only
  repeat' first
    | with_reducible assumption | with_reducible intro _ | with_reducible apply State.deliver_ev | with_reducible apply State.cross_ev
    | with_reducible apply State.served_ev | with_reducible apply State.lift_ev | with_reducible apply State.drop_ev
    | with_reducible apply State.mcastSend_ev | with_reducible refine Evolves.ite (fun _ => ?_) (fun _ => ?_)
    | fail_if_no_progress with_reducible apply Evolves.lit | refine EvolvesP.of (by with_reducible assumption) ?_
    | refine EvolvesS.of (by with_reducible assumption) ?_ | with_reducible refine EvolvesS.ite (fun _ => ?_) (fun _ => ?_)
    | exact EvolvesS.none | with_reducible refine EvolvesS.put ?_ | split
theorem State.routerHop_ev {o₀ s : State} (t : TileId) (inPort : Nat) (k : NetPkt) (word : SeamWord) (hev : Evolves o₀ s) :
    Evolves o₀ (State.routerHop s t inPort k word) := by
  unfold State.routerHop
  try dsimp only
  repeat' first
    | with_reducible assumption | with_reducible intro _ | with_reducible apply State.routerRefuse_ev
    | with_reducible apply State.advance_ev | with_reducible apply State.lift_ev | with_reducible apply State.modTile_ev
    | with_reducible refine Evolves.ite (fun _ => ?_) (fun _ => ?_) | fail_if_no_progress with_reducible apply Evolves.lit
    | refine EvolvesP.of (by with_reducible assumption) ?_ | refine EvolvesS.of (by with_reducible assumption) ?_
    | with_reducible refine EvolvesS.ite (fun _ => ?_) (fun _ => ?_) | exact EvolvesS.none | with_reducible refine EvolvesS.put ?_ | split
theorem State.dieRefuse_ev {o₀ s : State} (east : Bool) (q : Packet) (hev : Evolves o₀ s) :
    Evolves o₀ (State.dieRefuse s east q) := by
  unfold State.dieRefuse
  try dsimp only
  repeat' first
    | with_reducible assumption | with_reducible intro _ | with_reducible apply State.refuseAt_ev
theorem State.dieHop_ev {o₀ s : State} (east : Bool) (row : BitVec 5) (k : NetPkt) (hev : Evolves o₀ s) :
    Evolves o₀ (State.dieHop s east row k) := by
  unfold State.dieHop
  try dsimp only
  repeat' first
    | with_reducible assumption | with_reducible intro _ | with_reducible apply State.atDie_ev | with_reducible apply State.lift_ev
    | with_reducible apply State.drop_ev | with_reducible apply State.dieRefuse_ev
    | with_reducible refine Evolves.ite (fun _ => ?_) (fun _ => ?_) | fail_if_no_progress with_reducible apply Evolves.lit
    | refine EvolvesP.of (by with_reducible assumption) ?_ | refine EvolvesS.of (by with_reducible assumption) ?_
    | with_reducible refine EvolvesS.ite (fun _ => ?_) (fun _ => ?_) | exact EvolvesS.none | with_reducible refine EvolvesS.put ?_ | split
theorem execPacketRoute_ev {o₀ s : State} (index : Nat) (word : SeamWord) (hev : Evolves o₀ s) :
    EvolvesO o₀ (execPacketRoute index word s) := by
  unfold execPacketRoute
  try dsimp only
  repeat' first
    | with_reducible assumption | with_reducible intro _ | with_reducible apply State.routerHop_ev | with_reducible apply State.dieHop_ev
    | with_reducible apply State.noteReady_ev | with_reducible refine EvolvesO.ite (fun _ => ?_) (fun _ => ?_) | refine EvolvesO.next ?_
    | exact EvolvesO.fault _ | with_reducible refine Evolves.ite (fun _ => ?_) (fun _ => ?_)
    | fail_if_no_progress with_reducible apply Evolves.lit | refine EvolvesP.of (by with_reducible assumption) ?_
    | refine EvolvesS.of (by with_reducible assumption) ?_ | with_reducible refine EvolvesS.ite (fun _ => ?_) (fun _ => ?_)
    | exact EvolvesS.none | with_reducible refine EvolvesS.put ?_ | split
theorem State.mcastDrop_ev {o₀ s : State} (t : TileId) (inPort : Nat) (k : NetPkt) (hev : Evolves o₀ s) :
    Evolves o₀ (State.mcastDrop s t inPort k) := by
  unfold State.mcastDrop
  try dsimp only
  repeat' first
    | with_reducible assumption | with_reducible intro _ | with_reducible apply State.lift_ev | with_reducible apply State.modTile_ev
    | with_reducible apply State.mcastTo_ev | with_reducible refine Evolves.ite (fun _ => ?_) (fun _ => ?_)
    | with_reducible refine Evolves.foldl _ (fun _ _ _ => ?_) ?_
theorem execMcastCreditTimeout_ev {o₀ s : State} (index : Nat) (hev : Evolves o₀ s) :
    EvolvesO o₀ (execMcastCreditTimeout index s) := by
  unfold execMcastCreditTimeout
  try dsimp only
  repeat' first
    | with_reducible assumption | with_reducible intro _ | with_reducible apply State.mcastDrop_ev
    | with_reducible refine EvolvesO.ite (fun _ => ?_) (fun _ => ?_) | refine EvolvesO.next ?_ | exact EvolvesO.fault _
    | with_reducible refine Evolves.ite (fun _ => ?_) (fun _ => ?_) | fail_if_no_progress with_reducible apply Evolves.lit
    | refine EvolvesP.of (by with_reducible assumption) ?_ | refine EvolvesS.of (by with_reducible assumption) ?_
    | with_reducible refine EvolvesS.ite (fun _ => ?_) (fun _ => ?_) | exact EvolvesS.none | with_reducible refine EvolvesS.put ?_ | split

end Sys2Proof.Machine
end

