-- ==== Sys2Proof/Laws/EvolvesBeats.lean ====
section
/-!
SUPPORT. The operations and meanings of the latch, staged changes, deadlines, repairs, entry images and beat boundaries evolve the state: one lemma for each.
-/

set_option linter.unusedTactic false
set_option linter.unreachableTactic false

namespace Sys2Proof.Machine

theorem State.modLatch_ev {o₀ s : State} (p : PartId) (f : Latch → Latch) (hev : Evolves o₀ s) :
    Evolves o₀ (State.modLatch s p f) := by
  unfold State.modLatch
  try dsimp only
  repeat' first
    | with_reducible assumption | with_reducible apply State.modPart_ev
theorem State.lateWork_ev {o₀ s : State} (t : TileId) (hev : Evolves o₀ s) :
    Evolves o₀ (State.lateWork s t) := by
  unfold State.lateWork
  try dsimp only
  repeat' first
    | with_reducible assumption | with_reducible apply State.tileFault_ev | with_reducible refine Evolves.ite (fun _ => ?_) (fun _ => ?_)
    | with_reducible refine Evolves.foldl _ (fun _ _ _ => ?_) ?_
theorem State.unitEcc_ev {o₀ s : State} (p : PartId) (ecc : Ecc) (hev : Evolves o₀ s) :
    Evolves o₀ (State.unitEcc s p ecc) := by
  unfold State.unitEcc
  try dsimp only
  repeat' first
    | with_reducible assumption | with_reducible intro _ | with_reducible apply State.clearPart_ev | with_reducible apply State.upsetDram_ev
    | with_reducible apply State.markRow_ev | with_reducible apply State.correctDram_ev | with_reducible apply State.unitFault_ev
    | with_reducible refine Evolves.ite (fun _ => ?_) (fun _ => ?_) | fail_if_no_progress with_reducible apply Evolves.lit
    | refine EvolvesP.of (by with_reducible assumption) ?_ | refine EvolvesS.of (by with_reducible assumption) ?_
    | with_reducible refine EvolvesS.ite (fun _ => ?_) (fun _ => ?_) | exact EvolvesS.none | with_reducible refine EvolvesS.put ?_ | split
theorem State.unitRead_ev {o₀ s : State} (p : PartId) (a k : Nat) (hev : Evolves o₀ s) : Evolves o₀ (s.unitRead p a k) :=
  State.unitEcc_ev p _ hev
theorem State.pintleRead_ev {o₀ s : State} (p : PartId) (a : Nat) (k : Nat) (hev : Evolves o₀ s) :
    Evolves o₀ (State.pintleRead s p a k) := by
  unfold State.pintleRead
  try dsimp only
  repeat' first
    | with_reducible assumption | with_reducible intro _ | with_reducible apply State.unitEcc_ev
    | with_reducible refine Evolves.ite (fun _ => ?_) (fun _ => ?_) | fail_if_no_progress with_reducible apply Evolves.lit
theorem State.latchSample_ev {o₀ s : State} (p : PartId) (ecc : Ecc) (hev : Evolves o₀ s) :
    Evolves o₀ (State.latchSample s p ecc) := by
  unfold State.latchSample
  try dsimp only
  repeat' first
    | with_reducible assumption | with_reducible intro _ | with_reducible apply State.modLatch_ev | with_reducible apply State.lateWork_ev
    | with_reducible apply State.forTiles_ev | with_reducible apply State.reachJob_ev | with_reducible apply State.unitEcc_ev
theorem execLatchSample_ev {o₀ s : State} (r : FacetRead) (hev : Evolves o₀ s) :
    EvolvesO o₀ (execLatchSample r s) := by
  unfold execLatchSample
  try dsimp only
  repeat' first
    | with_reducible assumption | with_reducible intro _ | with_reducible apply State.latchSample_ev
    | with_reducible refine EvolvesO.ite (fun _ => ?_) (fun _ => ?_) | refine EvolvesO.next ?_ | exact EvolvesO.fault _
    | with_reducible refine Evolves.ite (fun _ => ?_) (fun _ => ?_)
theorem State.combineFrame_ev {o₀ s : State} (p : PartId) (f : LatchFrame) (hev : Evolves o₀ s) :
    Evolves o₀ (State.combineFrame s p f) := by
  unfold State.combineFrame
  try dsimp only
  repeat' first
    | with_reducible assumption | with_reducible apply State.partFault_ev | with_reducible apply State.modLatch_ev
    | with_reducible refine Evolves.ite (fun _ => ?_) (fun _ => ?_)
theorem State.sendGather_ev {o₀ s : State} (p : PartId) (stage : Nat) (dir : Fin 6) (ttl : Nat) (hev : Evolves o₀ s) :
    Evolves o₀ (State.sendGather s p stage dir ttl) := by
  unfold State.sendGather
  try dsimp only
  repeat' first
    | with_reducible assumption | with_reducible apply State.sendLatch_ev | split
theorem State.runStages_ev {o₀ : State} (p : PartId) (m : Manifest) (fuel : Nat) : ∀ {s : State} , Evolves o₀ s → Evolves o₀
    (State.runStages p m fuel s) := by
  induction fuel with
  | zero => exact fun hev => hev | succ fuel ih =>
    intro s hev
    unfold State.runStages
    try dsimp only
    repeat' first
      | with_reducible assumption | with_reducible apply ih | with_reducible apply State.modLatch_ev
      | with_reducible apply State.sendGather_ev | with_reducible apply State.combineFrame_ev
      | with_reducible refine Evolves.ite (fun _ => ?_) (fun _ => ?_) | with_reducible refine Evolves.foldl _ (fun _ _ _ => ?_) ?_
theorem State.sendBreak_ev {o₀ s : State} (p : PartId) (hev : Evolves o₀ s) :
    Evolves o₀ (State.sendBreak s p) := by
  unfold State.sendBreak
  try dsimp only
  repeat' first
    | with_reducible assumption | with_reducible apply State.floodLatch_ev | with_reducible apply State.modLatch_ev
theorem State.askBreak_ev {o₀ s : State} (p : PartId) (hold : Nat) (hev : Evolves o₀ s) :
    Evolves o₀ (State.askBreak s p hold) := by
  unfold State.askBreak
  try dsimp only
  repeat' first
    | with_reducible assumption | with_reducible apply State.modLatch_ev | with_reducible apply State.sendBreak_ev
    | with_reducible refine Evolves.ite (fun _ => ?_) (fun _ => ?_)
theorem State.bitFormed_ev {o₀ s : State} (p : PartId) (m : Manifest) (clean : Bool) (cause : Byte) (hev : Evolves o₀ s) :
    Evolves o₀ (State.bitFormed s p m clean cause) := by
  unfold State.bitFormed
  try dsimp only
  repeat' first
    | with_reducible assumption | with_reducible apply State.modLatch_ev | with_reducible apply State.runStages_ev
    | with_reducible apply State.sendBreak_ev | with_reducible apply State.sendLatch_ev | split
theorem execPartitionBitFormed_ev {o₀ s : State} (p : PartId) (hev : Evolves o₀ s) :
    EvolvesO o₀ (execPartitionBitFormed p s) := by
  unfold execPartitionBitFormed
  try dsimp only
  repeat' first
    | with_reducible assumption | with_reducible apply State.bitFormed_ev | with_reducible apply State.reachJob_ev | refine EvolvesO.next ?_
    | split
theorem State.takeLatch_ev {o₀ s s1 : State} {l : PortId × Session} (port : PortId) (f : LatchFrame) (hev : Evolves o₀ s)
    (e : s.takeLatch port f = some (l, s1)) : Evolves o₀ s1 := by
  unfold State.takeLatch at e
  split at e
  · cases e
    exact Evolves.lit hev
  · cases e
theorem State.split_ev {o₀ s : State} (p : PartId) (port : PortId) (f : LatchFrame) (hev : Evolves o₀ s) :
    Evolves o₀ (State.split s p port f) := by
  unfold State.split
  try dsimp only
  repeat' first
    | with_reducible assumption | with_reducible apply State.partFault_ev | with_reducible apply State.sendHalt_ev
theorem State.gatherTaken_ev {o₀ s : State} (p : PartId) (m : Manifest) (from_ : Fin 6) (f : LatchFrame) (hev : Evolves o₀ s) :
    Evolves o₀ (State.gatherTaken s p m from_ f) := by
  unfold State.gatherTaken
  try dsimp only
  repeat' first
    | with_reducible assumption | with_reducible apply State.modLatch_ev | with_reducible apply State.runStages_ev
    | with_reducible apply State.combineFrame_ev | with_reducible apply State.sendLatch_ev | split
theorem State.gatherArrives_ev {o₀ s : State} (p : PartId) (m : Manifest) (l : PortId × Session) (f : LatchFrame) (hev : Evolves o₀ s) :
    Evolves o₀ (State.gatherArrives s p m l f) := by
  unfold State.gatherArrives
  try dsimp only
  repeat' first
    | with_reducible assumption | with_reducible apply State.gatherTaken_ev | with_reducible apply State.split_ev | split
theorem State.onLatchFrame_ev {o₀ s : State} (p : PartId) (port : PortId) (f : LatchFrame) (kind : Byte)
    (g : State → PortId × Session → State) (h_g : ∀ s' l, Evolves o₀ s' → Evolves o₀ (g s' l)) (hev : Evolves o₀ s) :
    Evolves o₀ (s.onLatchFrame p port f kind g) := by
  unfold State.onLatchFrame
  split
  · exact hev
  · split
    · exact h_g _ _ (State.takeLatch_ev _ _ hev (by assumption))
    · exact hev
theorem State.shadowRun_ev {o₀ s : State} (p : PartId) (run : Nat) (code : Option Nat) (hev : Evolves o₀ s) :
    Evolves o₀ (State.shadowRun s p run code) := by
  unfold State.shadowRun
  try dsimp only
  repeat' first
    | with_reducible assumption | with_reducible apply State.modPart_ev | with_reducible apply State.postPart_ev | split
theorem State.gatherDue_ev {o₀ s : State} (p : PartId) (m : Manifest) (hev : Evolves o₀ s) :
    Evolves o₀ (State.gatherDue s p m) := by
  unfold State.gatherDue
  try dsimp only
  repeat' first
    | with_reducible assumption | with_reducible apply State.partFault_ev | with_reducible apply State.modLatch_ev
    | with_reducible apply State.shadowRun_ev | with_reducible apply State.sendBreak_ev
    | with_reducible refine Evolves.ite (fun _ => ?_) (fun _ => ?_)
theorem execGatherDeadline_ev {o₀ s : State} (p : PartId) (hev : Evolves o₀ s) :
    EvolvesO o₀ (execGatherDeadline p s) := by
  unfold execGatherDeadline
  try dsimp only
  repeat' first
    | with_reducible assumption | with_reducible apply State.gatherDue_ev | with_reducible apply State.reachJob_ev | refine EvolvesO.next ?_
    | split
theorem State.breakArrives_ev {o₀ s : State} (p : PartId) (l : PortId × Session) (f : LatchFrame) (hev : Evolves o₀ s) :
    Evolves o₀ (State.breakArrives s p l f) := by
  unfold State.breakArrives
  try dsimp only
  repeat' first
    | with_reducible assumption | with_reducible apply State.floodLatch_ev | with_reducible apply State.modLatch_ev
    | with_reducible apply State.split_ev | with_reducible refine Evolves.ite (fun _ => ?_) (fun _ => ?_)
theorem execHaltFrame_ev {o₀ s : State} (p : PartId) (port : PortId) (f : LatchFrame) (hev : Evolves o₀ s) :
    EvolvesO o₀ (execHaltFrame p port f s) := by
  unfold execHaltFrame
  try dsimp only
  repeat' first
    | with_reducible assumption | with_reducible intro _ | with_reducible apply State.modLatch_ev | with_reducible apply State.floodLatch_ev
    | with_reducible apply State.onLatchFrame_ev | refine EvolvesO.next ?_ | with_reducible refine Evolves.ite (fun _ => ?_) (fun _ => ?_)
theorem State.shadowJudge_ev {o₀ s : State} (p : PartId) (closed : Bool) (hev : Evolves o₀ s) :
    Evolves o₀ (State.shadowJudge s p closed) := by
  unfold State.shadowJudge
  try dsimp only
  repeat' first
    | with_reducible assumption | with_reducible apply State.shadowRun_ev | split
theorem State.cutoff_ev {o₀ s : State} (p : PartId) (hev : Evolves o₀ s) :
    Evolves o₀ (State.cutoff s p) := by
  unfold State.cutoff
  try dsimp only
  repeat' first
    | with_reducible assumption | with_reducible apply State.shadowJudge_ev | with_reducible apply State.modLatch_ev
    | with_reducible apply State.sendLatch_ev | with_reducible apply State.sendHalt_ev | split
theorem State.judgeLate_ev {o₀ s : State} (p : PartId) (m : Manifest) (hev : Evolves o₀ s) :
    Evolves o₀ (State.judgeLate s p m) := by
  unfold State.judgeLate
  try dsimp only
  repeat' first
    | with_reducible assumption | with_reducible intro _ | with_reducible apply State.gatherDue_ev | with_reducible apply State.cutoff_ev
    | with_reducible refine Evolves.ite (fun _ => ?_) (fun _ => ?_)
theorem execGatherFrame_ev {o₀ s : State} (p : PartId) (port : PortId) (f : LatchFrame) (hev : Evolves o₀ s) :
    EvolvesO o₀ (execGatherFrame p port f s) := by
  unfold execGatherFrame
  try dsimp only
  repeat' first
    | with_reducible assumption | with_reducible intro _ | with_reducible apply State.onLatchFrame_ev
    | with_reducible apply State.judgeLate_ev | with_reducible apply State.gatherArrives_ev
    | with_reducible refine EvolvesO.ite (fun _ => ?_) (fun _ => ?_) | refine EvolvesO.next ?_ | exact EvolvesO.fault _
    | with_reducible refine Evolves.ite (fun _ => ?_) (fun _ => ?_) | fail_if_no_progress with_reducible apply Evolves.lit
    | refine EvolvesP.of (by with_reducible assumption) ?_ | refine EvolvesS.of (by with_reducible assumption) ?_
    | with_reducible refine EvolvesS.ite (fun _ => ?_) (fun _ => ?_) | exact EvolvesS.none | with_reducible refine EvolvesS.put ?_ | split
theorem execBreakFrame_ev {o₀ s : State} (p : PartId) (port : PortId) (f : LatchFrame) (hev : Evolves o₀ s) :
    EvolvesO o₀ (execBreakFrame p port f s) := by
  unfold execBreakFrame
  try dsimp only
  repeat' first
    | with_reducible assumption | with_reducible intro _ | with_reducible apply State.breakArrives_ev
    | with_reducible apply State.onLatchFrame_ev | with_reducible apply State.judgeLate_ev
    | with_reducible refine EvolvesO.ite (fun _ => ?_) (fun _ => ?_) | refine EvolvesO.next ?_ | exact EvolvesO.fault _
    | with_reducible refine Evolves.ite (fun _ => ?_) (fun _ => ?_) | fail_if_no_progress with_reducible apply Evolves.lit
    | refine EvolvesP.of (by with_reducible assumption) ?_ | refine EvolvesS.of (by with_reducible assumption) ?_
    | with_reducible refine EvolvesS.ite (fun _ => ?_) (fun _ => ?_) | exact EvolvesS.none | with_reducible refine EvolvesS.put ?_ | split
theorem execBreakCutoff_ev {o₀ s : State} (p : PartId) (hev : Evolves o₀ s) :
    EvolvesO o₀ (execBreakCutoff p s) := by
  unfold execBreakCutoff
  try dsimp only
  repeat' first
    | with_reducible assumption | with_reducible apply State.cutoff_ev | with_reducible apply State.reachJob_ev | refine EvolvesO.next ?_
    | split
theorem State.outcomeArrives_ev {o₀ s : State} (p : PartId) (f : LatchFrame) (hev : Evolves o₀ s) :
    Evolves o₀ (State.outcomeArrives s p f) := by
  unfold State.outcomeArrives
  try dsimp only
  repeat' first
    | with_reducible assumption | with_reducible apply State.partFault_ev | with_reducible apply State.modLatch_ev
    | with_reducible apply State.modPart_ev | with_reducible refine Evolves.ite (fun _ => ?_) (fun _ => ?_)
theorem execOutcomeFrame_ev {o₀ s : State} (p : PartId) (f : LatchFrame) (hev : Evolves o₀ s) :
    EvolvesO o₀ (execOutcomeFrame p f s) := by
  unfold execOutcomeFrame
  try dsimp only
  repeat' first
    | with_reducible assumption | with_reducible intro _ | with_reducible apply State.onLatchFrame_ev
    | with_reducible apply State.outcomeArrives_ev | refine EvolvesO.next ?_ | split
theorem execShadowFrame_ev {o₀ s : State} (p : PartId) (f : LatchFrame) (hev : Evolves o₀ s) :
    EvolvesO o₀ (execShadowFrame p f s) := by
  unfold execShadowFrame
  try dsimp only
  repeat' first
    | with_reducible assumption | with_reducible intro _ | with_reducible apply State.modLatch_ev
    | with_reducible apply State.onLatchFrame_ev | with_reducible apply State.judgeLate_ev | with_reducible apply State.shadowRun_ev
    | with_reducible refine EvolvesO.ite (fun _ => ?_) (fun _ => ?_) | refine EvolvesO.next ?_ | exact EvolvesO.fault _
    | with_reducible refine Evolves.ite (fun _ => ?_) (fun _ => ?_) | fail_if_no_progress with_reducible apply Evolves.lit
    | refine EvolvesP.of (by with_reducible assumption) ?_ | refine EvolvesS.of (by with_reducible assumption) ?_
    | with_reducible refine EvolvesS.ite (fun _ => ?_) (fun _ => ?_) | exact EvolvesS.none | with_reducible refine EvolvesS.put ?_ | split
theorem State.pendTables_ev {o₀ s : State} (p : PartId) (m : List (Nat × U16)) (hev : Evolves o₀ s) :
    Evolves o₀ (State.pendTables s p m) := by
  unfold State.pendTables
  try dsimp only
  repeat' first
    | with_reducible assumption | with_reducible intro _ | with_reducible apply State.modTile_ev | with_reducible apply State.forTiles_ev
    | with_reducible refine Evolves.ite (fun _ => ?_) (fun _ => ?_) | with_reducible refine Evolves.foldl _ (fun _ _ _ => ?_) ?_
    | with_reducible refine EvolvesP.foldl _ (fun _ _ _ _ => ?_) ?_ | fail_if_no_progress with_reducible apply Evolves.lit
    | refine EvolvesP.of (by with_reducible assumption) ?_ | refine EvolvesS.of (by with_reducible assumption) ?_
    | with_reducible refine EvolvesS.ite (fun _ => ?_) (fun _ => ?_) | exact EvolvesS.none | with_reducible refine EvolvesS.put ?_ | split
theorem State.putTables_ev {o₀ s : State} (p : PartId) (hev : Evolves o₀ s) :
    Evolves o₀ (State.putTables s p) := by
  unfold State.putTables
  try dsimp only
  repeat' first
    | with_reducible assumption | with_reducible intro _ | with_reducible apply State.modTile_ev | with_reducible apply State.forTiles_ev
    | split
theorem State.loadTables_ev {o₀ s : State} (p : PartId) (hev : Evolves o₀ s) :
    Evolves o₀ (State.loadTables s p) := by
  unfold State.loadTables
  try dsimp only
  repeat' first
    | with_reducible assumption | with_reducible intro _ | with_reducible apply State.putTables_ev
    | with_reducible apply State.pendTables_ev
theorem State.areaRead_ev {o₀ s : State} (p : PartId) (a : Nat) (hev : Evolves o₀ s) :
    EvolvesP o₀ (State.areaRead s p a) := by
  unfold State.areaRead
  try dsimp only
  repeat' first
    | with_reducible assumption | with_reducible intro _ | with_reducible apply State.markRow_ev | with_reducible apply State.unitFault_ev
    | with_reducible apply State.upsetDram_ev | with_reducible refine EvolvesP.ite (fun _ => ?_) (fun _ => ?_)
    | with_reducible refine Evolves.ite (fun _ => ?_) (fun _ => ?_) | fail_if_no_progress with_reducible apply Evolves.lit
    | refine EvolvesP.of (by with_reducible assumption) ?_ | refine EvolvesS.of (by with_reducible assumption) ?_
    | with_reducible refine EvolvesS.ite (fun _ => ?_) (fun _ => ?_) | exact EvolvesS.none | with_reducible refine EvolvesS.put ?_ | split
    | with_reducible refine EvolvesP.pair ?_
theorem State.areaReads_ev {o₀ s : State} (p : PartId) (ns : List Nat) (hev : Evolves o₀ s) :
    Evolves o₀ (State.areaReads s p ns) := by
  unfold State.areaReads
  try dsimp only
  repeat' first
    | with_reducible assumption | with_reducible intro _ | with_reducible apply State.areaRead_ev
    | with_reducible refine (State.areaRead_ev _ _ ?_).fst | with_reducible refine Evolves.ite (fun _ => ?_) (fun _ => ?_)
    | with_reducible refine Evolves.foldl _ (fun _ _ _ => ?_) ?_
theorem State.entryCopy_ev {o₀ s : State} (p : PartId) (t : TileId) (hev : Evolves o₀ s) :
    Evolves o₀ (State.entryCopy s p t) := by
  unfold State.entryCopy
  try dsimp only
  repeat' first
    | with_reducible assumption | with_reducible intro _ | with_reducible apply State.partWrite_ev | with_reducible apply State.modTile_ev
    | with_reducible apply State.tileFault_ev | with_reducible refine Evolves.ite (fun _ => ?_) (fun _ => ?_)
    | fail_if_no_progress with_reducible apply Evolves.lit | refine EvolvesP.of (by with_reducible assumption) ?_
    | refine EvolvesS.of (by with_reducible assumption) ?_ | with_reducible refine EvolvesS.ite (fun _ => ?_) (fun _ => ?_)
    | exact EvolvesS.none | with_reducible refine EvolvesS.put ?_ | split
theorem State.carryLoad_ev {o₀ s : State} (p : PartId) (t : TileId) (hev : Evolves o₀ s) :
    Evolves o₀ (State.carryLoad s p t) := by
  unfold State.carryLoad
  try dsimp only
  repeat' first
    | with_reducible assumption | with_reducible apply State.unitRead_ev | with_reducible apply State.modTile_ev
    | with_reducible refine Evolves.foldl _ (fun _ _ _ => ?_) ?_
theorem State.carrySave_ev {o₀ s : State} (p : PartId) (t : TileId) (hev : Evolves o₀ s) :
    Evolves o₀ (State.carrySave s p t) := by
  unfold State.carrySave
  try dsimp only
  repeat' first
    | with_reducible assumption | with_reducible apply State.partWrite_ev | with_reducible refine Evolves.ite (fun _ => ?_) (fun _ => ?_)
    | with_reducible refine Evolves.foldl _ (fun _ _ _ => ?_) ?_
theorem State.setRow_ev {o₀ s : State} (hd r : Nat) (x : Row) (hev : Evolves o₀ s) : Evolves o₀ (s.setRow hd r x) :=
  ⟨hev.member, hev.pending, fun x => let y := hev.sound x
    ⟨y.tiles, y.seams, y.regions, y.channels, y.bindings, kwf_kput _ _ _ y.rows, y.dram, y.flat, y.inbox, y.faultLog⟩⟩
theorem State.setRows_ev {o₀ s : State} (hd : Nat) (r : Nat) (x : Row) (hev : Evolves o₀ s) :
    Evolves o₀ (State.setRows s hd r x) := by
  unfold State.setRows
  try dsimp only
  repeat' first
    | with_reducible assumption | with_reducible apply State.setRow_ev | with_reducible refine Evolves.ite (fun _ => ?_) (fun _ => ?_)
theorem State.replan_ev {o₀ s : State} (m : List (Nat × U16)) (hev : Evolves o₀ s) :
    Evolves o₀ (State.replan s m) := by
  unfold State.replan
  try dsimp only
  repeat' first
    | with_reducible assumption | with_reducible intro _ | with_reducible refine Evolves.ite (fun _ => ?_) (fun _ => ?_)
    | with_reducible refine Evolves.foldl _ (fun _ _ _ => ?_) ?_ | with_reducible refine EvolvesP.foldl _ (fun _ _ _ _ => ?_) ?_
    | fail_if_no_progress with_reducible apply Evolves.lit
theorem State.armGen_ev {o₀ s : State} (p : PartId) (hev : Evolves o₀ s) :
    Evolves o₀ (State.armGen s p) := by
  unfold State.armGen
  try dsimp only
  repeat' first
    | with_reducible assumption | with_reducible intro _ | with_reducible apply State.forTiles_ev | with_reducible apply State.modTile_ev
theorem State.clearStreams_ev {o₀ s : State} (p : PartId) (hev : Evolves o₀ s) :
    Evolves o₀ (State.clearStreams s p) := by
  unfold State.clearStreams
  try dsimp only
  repeat' first
    | with_reducible assumption | with_reducible intro _ | with_reducible apply State.forTiles_ev | with_reducible apply State.modTile_ev
theorem State.writePend_ev {o₀ s : State} (p : PartId) (m : List (Nat × U16)) (hev : Evolves o₀ s) :
    Evolves o₀ (State.writePend s p m) := by
  unfold State.writePend
  try dsimp only
  repeat' first
    | with_reducible assumption | with_reducible intro _ | with_reducible apply State.pendTables_ev | with_reducible apply State.modTile_ev
    | with_reducible apply State.forTiles_ev | with_reducible refine Evolves.ite (fun _ => ?_) (fun _ => ?_)
    | with_reducible refine Evolves.foldl _ (fun _ _ _ => ?_) ?_ | with_reducible refine EvolvesP.foldl _ (fun _ _ _ _ => ?_) ?_
    | fail_if_no_progress with_reducible apply Evolves.lit
theorem State.loadMoved_ev {o₀ s : State} (p : PartId) (m : List (Nat × U16)) (hev : Evolves o₀ s) :
    Evolves o₀ (State.loadMoved s p m) := by
  unfold State.loadMoved
  try dsimp only
  repeat' first
    | with_reducible assumption | with_reducible intro _ | with_reducible apply State.modTile_ev
    | with_reducible refine Evolves.ite (fun _ => ?_) (fun _ => ?_) | with_reducible refine Evolves.foldl _ (fun _ _ _ => ?_) ?_
theorem State.switchCopies_ev {o₀ s : State} (p : PartId) (hev : Evolves o₀ s) :
    Evolves o₀ (State.switchCopies s p) := by
  unfold State.switchCopies
  try dsimp only
  repeat' first
    | with_reducible assumption | with_reducible intro _ | with_reducible apply State.modTile_ev | with_reducible apply State.forTiles_ev
    | with_reducible refine Evolves.ite (fun _ => ?_) (fun _ => ?_) | with_reducible refine Evolves.foldl _ (fun _ _ _ => ?_) ?_
    | with_reducible refine EvolvesP.foldl _ (fun _ _ _ _ => ?_) ?_ | fail_if_no_progress with_reducible apply Evolves.lit
theorem State.switchMap_ev {o₀ s : State} (p : PartId) (hev : Evolves o₀ s) :
    Evolves o₀ (State.switchMap s p) := by
  unfold State.switchMap
  try dsimp only
  repeat' first
    | with_reducible assumption | with_reducible intro _ | with_reducible apply State.putTables_ev
    | with_reducible apply State.clearStreams_ev | with_reducible apply State.armGen_ev | with_reducible apply State.modTile_ev
    | with_reducible apply State.switchCopies_ev | with_reducible apply State.carryLoad_ev | with_reducible apply State.forTiles_ev
    | with_reducible apply State.areaReads_ev | with_reducible refine Evolves.ite (fun _ => ?_) (fun _ => ?_)
    | with_reducible refine Evolves.foldl _ (fun _ _ _ => ?_) ?_
theorem State.bindOpen_ev {o₀ s : State} (n : Nat) (hev : Evolves o₀ s) :
    Evolves o₀ (State.bindOpen s n) := by
  unfold State.bindOpen
  try dsimp only
  repeat' first
    | with_reducible assumption | with_reducible apply State.modChan_ev | with_reducible apply State.modBinding_ev | split
theorem State.jobBegin_ev {o₀ s : State} (p : PartId) (step : Nat) (B : Nat) (hev : Evolves o₀ s) :
    Evolves o₀ (State.jobBegin s p step B) := by
  unfold State.jobBegin
  try dsimp only
  repeat' first
    | with_reducible assumption | with_reducible intro _ | with_reducible apply State.modPart_ev
    | with_reducible apply State.clearStreams_ev | with_reducible apply State.modTile_ev | with_reducible apply State.bindOpen_ev
    | with_reducible apply State.carryLoad_ev | with_reducible apply State.forTiles_ev
    | with_reducible refine Evolves.ite (fun _ => ?_) (fun _ => ?_) | with_reducible refine Evolves.foldl _ (fun _ _ _ => ?_) ?_
    | with_reducible refine EvolvesP.foldl _ (fun _ _ _ _ => ?_) ?_ | fail_if_no_progress with_reducible apply Evolves.lit
    | refine EvolvesP.of (by with_reducible assumption) ?_ | refine EvolvesS.of (by with_reducible assumption) ?_
    | with_reducible refine EvolvesS.ite (fun _ => ?_) (fun _ => ?_) | exact EvolvesS.none | with_reducible refine EvolvesS.put ?_ | split
theorem State.jobResume_ev {o₀ s : State} (p : PartId) (B : Nat) (hev : Evolves o₀ s) :
    Evolves o₀ (State.jobResume s p B) := by
  unfold State.jobResume
  try dsimp only
  repeat' first
    | with_reducible assumption | with_reducible intro _ | with_reducible apply State.modPart_ev | with_reducible apply State.loadTables_ev
    | with_reducible apply State.armGen_ev | with_reducible apply State.clearStreams_ev | with_reducible apply State.modTile_ev
    | with_reducible apply State.carryLoad_ev | with_reducible apply State.forTiles_ev | with_reducible apply State.areaReads_ev
theorem State.setRegion_ev {o₀ s : State} (r code : Nat) (hev : Evolves o₀ s) : Evolves o₀ (s.setRegion r code) := by
  refine ⟨?_, ?_, fun x => ?_⟩
  · unfold State.setRegion; dsimp only; repeat' split
    all_goals exact hev.member
  · unfold State.setRegion; dsimp only; repeat' split
    all_goals exact hev.pending
  · have y := hev.sound x
    unfold State.setRegion
    extract_lets old new s1
    have hr : kwf s1.regions = true := by
      dsimp only [s1]; split
      · exact kwf_kdel _ _ y.regions
      · exact kwf_kput _ _ _ y.regions
    split
    · exact ⟨y.tiles, y.seams, hr, y.channels, y.bindings, y.rows, wf_filter _ _ _ y.dram, y.flat, y.inbox, y.faultLog⟩
    · exact ⟨y.tiles, y.seams, hr, y.channels, y.bindings, y.rows, y.dram, y.flat, y.inbox, y.faultLog⟩
theorem State.flatSet_ev {o₀ s : State} (r : Req) (hev : Evolves o₀ s) : Evolves o₀ (s.flatSet r) := by
  unfold State.flatSet
  refine Evolves.foldl _ (fun s i hs => ?_) hev
  refine ⟨hs.member, hs.pending, fun x => ?_⟩
  have y := hs.sound x
  exact ⟨y.tiles, y.seams, y.regions, y.channels, y.bindings, y.rows, y.dram, by dsimp only; rw [y.flat], y.inbox, y.faultLog⟩
theorem State.newMembers_ev {o₀ s : State} (p : PartId) (r : Req) (hev : Evolves o₀ s) :
    Evolves o₀ (State.newMembers s p r) := by
  unfold State.newMembers
  try dsimp only
  repeat' first
    | with_reducible assumption | with_reducible intro _ | with_reducible apply State.modPart_ev | with_reducible apply State.modLink_ev
    | with_reducible apply State.pintleRead_ev | with_reducible refine Evolves.ite (fun _ => ?_) (fun _ => ?_)
    | with_reducible refine Evolves.foldl _ (fun _ _ _ => ?_) ?_
theorem State.turnExits_ev {o₀ s : State} (p : PartId) (hev : Evolves o₀ s) :
    Evolves o₀ (State.turnExits s p) := by
  unfold State.turnExits
  try dsimp only
  repeat' first
    | with_reducible assumption | with_reducible apply State.modLink_ev | with_reducible apply State.modPart_ev
    | with_reducible refine Evolves.foldl _ (fun _ _ _ => ?_) ?_
theorem State.stopTiles_ev {o₀ s : State} (p : PartId) (hev : Evolves o₀ s) :
    Evolves o₀ (State.stopTiles s p) := by
  unfold State.stopTiles
  try dsimp only
  repeat' first
    | with_reducible assumption | with_reducible intro _ | with_reducible apply State.modTile_ev | with_reducible apply State.forTiles_ev
theorem State.promoteApply_ev {o₀ s : State} (p : PartId) (r : Req) (hev : Evolves o₀ s) :
    Evolves o₀ (State.promoteApply s p r) := by
  unfold State.promoteApply
  try dsimp only
  repeat' first
    | with_reducible assumption | with_reducible apply State.modPart_ev | with_reducible apply State.turnExits_ev
    | with_reducible apply State.stopTiles_ev | with_reducible apply State.newMembers_ev | split
theorem State.shadowStop_ev {o₀ s : State} (p : PartId) (hev : Evolves o₀ s) :
    Evolves o₀ (State.shadowStop s p) := by
  unfold State.shadowStop
  try dsimp only
  repeat' first
    | with_reducible assumption | with_reducible apply State.modPart_ev | with_reducible apply State.stopTiles_ev | split
theorem State.removeLink_ev {o₀ s : State} (port : PortId) (x : Session) (hev : Evolves o₀ s) :
    Evolves o₀ (State.removeLink s port x) := by
  unfold State.removeLink
  try dsimp only
  repeat' first
    | with_reducible assumption | with_reducible apply State.flushEgress_ev | with_reducible apply State.modLink_ev
theorem State.realign_ev {o₀ s : State} (hd : Nat) (hev : Evolves o₀ s) :
    Evolves o₀ (State.realign s hd) := by
  unfold State.realign
  try dsimp only
  repeat' first
    | with_reducible assumption | with_reducible intro _ | with_reducible apply State.modSeam_ev
    | with_reducible refine Evolves.ite (fun _ => ?_) (fun _ => ?_) | with_reducible refine Evolves.foldl _ (fun _ _ _ => ?_) ?_
theorem State.hdPower_ev {o₀ s : State} (code : Nat) (mask : Nat) (hev : Evolves o₀ s) :
    Evolves o₀ (State.hdPower s code mask) := by
  unfold State.hdPower
  try dsimp only
  repeat' first
    | with_reducible assumption | with_reducible intro _ | with_reducible apply State.realign_ev
    | with_reducible refine Evolves.ite (fun _ => ?_) (fun _ => ?_) | with_reducible refine Evolves.foldl _ (fun _ _ _ => ?_) ?_
    | with_reducible refine EvolvesP.foldl _ (fun _ _ _ _ => ?_) ?_ | fail_if_no_progress with_reducible apply Evolves.lit | split
theorem State.svcClients_ev {o₀ s : State} (r : Req) (hev : Evolves o₀ s) :
    Evolves o₀ (State.svcClients s r) := by
  unfold State.svcClients
  try dsimp only
  repeat' first
    | with_reducible assumption | with_reducible apply State.modBinding_ev | with_reducible refine Evolves.foldl _ (fun _ _ _ => ?_) ?_
theorem State.svcEnd_ev {o₀ s : State} (n : Nat) (hev : Evolves o₀ s) :
    Evolves o₀ (State.svcEnd s n) := by
  unfold State.svcEnd
  try dsimp only
  repeat' first
    | with_reducible assumption | with_reducible apply State.modChan_ev | with_reducible apply State.modBinding_ev | split
theorem State.applyChange_ev {o₀ s : State} (p : PartId) (B : Nat) (c : Change) (hev : Evolves o₀ s) :
    Evolves o₀ (State.applyChange p B s c) := by
  unfold State.applyChange
  try dsimp only
  repeat' first
    | with_reducible assumption | with_reducible intro _ | with_reducible apply State.svcEnd_ev | with_reducible apply State.hdPower_ev
    | with_reducible apply State.setRegion_ev | with_reducible apply State.svcClients_ev | with_reducible apply State.modLink_ev
    | with_reducible apply State.modPart_ev | with_reducible apply State.jobBegin_ev | with_reducible apply State.modTile_ev
    | with_reducible apply State.forTiles_ev | with_reducible apply State.removeLink_ev | with_reducible apply State.shadowStop_ev
    | with_reducible apply State.promoteApply_ev | with_reducible apply State.flatSet_ev | with_reducible apply State.jobResume_ev
    | with_reducible refine Evolves.foldl _ (fun _ _ _ => ?_) ?_ | split
theorem State.overran_ev {o₀ s : State} (t : TileId) (late : Nat) (hev : Evolves o₀ s) :
    Evolves o₀ (State.overran s t late) := by
  unfold State.overran
  try dsimp only
  repeat' first
    | with_reducible assumption | with_reducible apply State.tileFault_ev | with_reducible apply State.modTile_ev
theorem State.tileDeadline_ev {o₀ s : State} (p : PartId) (t : TileId) (hev : Evolves o₀ s) :
    Evolves o₀ (State.tileDeadline p s t) := by
  unfold State.tileDeadline
  try dsimp only
  repeat' first
    | with_reducible assumption | with_reducible intro _ | with_reducible apply State.tileFault_ev | with_reducible apply State.abandon_ev
    | with_reducible apply State.overran_ev | with_reducible apply State.modTile_ev | with_reducible apply State.modPart_ev
    | with_reducible refine Evolves.ite (fun _ => ?_) (fun _ => ?_) | with_reducible refine Evolves.foldl _ (fun _ _ _ => ?_) ?_
    | with_reducible refine EvolvesP.foldl _ (fun _ _ _ _ => ?_) ?_ | fail_if_no_progress with_reducible apply Evolves.lit
    | refine EvolvesP.of (by with_reducible assumption) ?_ | refine EvolvesS.of (by with_reducible assumption) ?_
    | with_reducible refine EvolvesS.ite (fun _ => ?_) (fun _ => ?_) | exact EvolvesS.none | with_reducible refine EvolvesS.put ?_ | split
theorem State.pairCheck_ev {o₀ s : State} (p : PartId) (t : TileId) (hev : Evolves o₀ s) :
    Evolves o₀ (State.pairCheck p s t) := by
  unfold State.pairCheck
  try dsimp only
  repeat' first
    | with_reducible assumption | with_reducible apply State.modPart_ev | with_reducible apply State.tileFault_ev
    | with_reducible apply State.modTile_ev | split
theorem State.deadline_ev {o₀ s : State} (p : PartId) (hev : Evolves o₀ s) :
    Evolves o₀ (State.deadline s p) := by
  unfold State.deadline
  try dsimp only
  repeat' first
    | with_reducible assumption | with_reducible intro _ | with_reducible apply State.modPart_ev | with_reducible apply State.pairCheck_ev
    | with_reducible apply State.tileDeadline_ev | with_reducible apply State.modTile_ev | with_reducible apply State.reachJob_ev
    | with_reducible apply State.forTiles_ev | with_reducible refine Evolves.ite (fun _ => ?_) (fun _ => ?_)
theorem execBeatDeadline_ev {o₀ s : State} (p : PartId) (hev : Evolves o₀ s) :
    EvolvesO o₀ (execBeatDeadline p s) := by
  unfold execBeatDeadline
  try dsimp only
  repeat' first
    | with_reducible assumption | with_reducible apply State.deadline_ev | refine EvolvesO.next ?_
    | with_reducible refine Evolves.ite (fun _ => ?_) (fun _ => ?_)
theorem State.answerApply_ev {o₀ s : State} (a : Apply) (status : Nat) (hev : Evolves o₀ s) :
    Evolves o₀ (State.answerApply s a status) := by
  unfold State.answerApply
  try dsimp only
  repeat' first
    | with_reducible assumption | with_reducible apply State.respond_ev | with_reducible refine Evolves.ite (fun _ => ?_) (fun _ => ?_)
theorem State.seamVerify_ev {o₀ s : State} (p : PartId) (u : UnitName) (marginPs : U16) (hev : Evolves o₀ s) :
    EvolvesP o₀ (State.seamVerify s p u marginPs) := by
  unfold State.seamVerify
  try dsimp only
  repeat' first
    | with_reducible assumption | with_reducible apply State.unitFault_ev | with_reducible apply State.modSeam_ev | split
    | with_reducible refine EvolvesP.pair ?_
theorem State.stageVote_ev {o₀ s : State} (p : PartId) (u : UnitName) (ready : Bool) (marginPs : U16) (hev : Evolves o₀ s) :
    Evolves o₀ (State.stageVote s p u ready marginPs) := by
  unfold State.stageVote
  try dsimp only
  repeat' first
    | with_reducible assumption | with_reducible apply State.modPart_ev | with_reducible apply State.answerApply_ev
    | with_reducible refine (State.seamVerify_ev _ _ _ ?_).fst | split
theorem execStageVote_ev {o₀ s : State} (p : PartId) (u : UnitName) (ready : Bool) (marginPs : U16) (hev : Evolves o₀ s) :
    EvolvesO o₀ (execStageVote p u ready marginPs s) := by
  unfold execStageVote
  try dsimp only
  repeat' first
    | with_reducible assumption | with_reducible apply State.stageVote_ev | refine EvolvesO.next ?_
theorem State.judgeApply_ev {o₀ s : State} (p : PartId) (a : Apply) (hev : Evolves o₀ s) :
    Evolves o₀ (State.judgeApply s p a) := by
  unfold State.judgeApply
  try dsimp only
  repeat' first
    | with_reducible assumption | with_reducible apply State.modPart_ev | with_reducible apply State.unitFault_ev
    | with_reducible apply State.answerApply_ev | with_reducible apply State.reachJob_ev
    | with_reducible refine Evolves.ite (fun _ => ?_) (fun _ => ?_)
theorem execVoteDeadline_ev {o₀ s : State} (p : PartId) (hev : Evolves o₀ s) :
    EvolvesO o₀ (execVoteDeadline p s) := by
  unfold execVoteDeadline
  try dsimp only
  repeat' first
    | with_reducible assumption | with_reducible apply State.judgeApply_ev | refine EvolvesO.next ?_ | split
theorem execTbRefLoss_ev {o₀ s : State} (hev : Evolves o₀ s) :
    EvolvesO o₀ (execTbRefLoss s) := by
  unfold execTbRefLoss
  try dsimp only
  repeat' first
    | with_reducible assumption | with_reducible apply State.postAdmin_ev | refine EvolvesO.next ?_
    | with_reducible refine Evolves.ite (fun _ => ?_) (fun _ => ?_) | fail_if_no_progress with_reducible apply Evolves.lit
theorem execTsyncOutPulse_ev {o₀ s : State} (hev : Evolves o₀ s) :
    EvolvesO o₀ (execTsyncOutPulse s) := by
  unfold execTsyncOutPulse
  try dsimp only
  repeat' first
    | with_reducible assumption | with_reducible apply State.reach_ev | refine EvolvesO.next ?_
    | with_reducible refine Evolves.ite (fun _ => ?_) (fun _ => ?_) | fail_if_no_progress with_reducible apply Evolves.lit
theorem execTsyncInEdge_ev {o₀ s : State} (hev : Evolves o₀ s) :
    EvolvesO o₀ (execTsyncInEdge s) := by
  unfold execTsyncInEdge
  try dsimp only
  repeat' first
    | with_reducible assumption | refine EvolvesO.next ?_ | with_reducible refine Evolves.ite (fun _ => ?_) (fun _ => ?_)
    | fail_if_no_progress with_reducible apply Evolves.lit
theorem State.seamFault_ev {o₀ s : State} (id : Nat) (a : FaultArgs) (hev : Evolves o₀ s) :
    Evolves o₀ (State.seamFault s id a) := by
  unfold State.seamFault
  try dsimp only
  repeat' first
    | with_reducible assumption | with_reducible intro _ | with_reducible apply State.logDefect_ev | with_reducible apply State.clearSeam_ev
    | with_reducible apply State.modSeam_ev | with_reducible apply State.unitFault_ev
    | with_reducible refine Evolves.ite (fun _ => ?_) (fun _ => ?_)
theorem State.seamWord_ev {o₀ s : State} (id : Nat) (reverse : Bool) (w : SeamWord) (hev : Evolves o₀ s) :
    Evolves o₀ (State.seamWord s id reverse w) := by
  unfold State.seamWord
  try dsimp only
  repeat' first
    | with_reducible assumption | with_reducible apply State.modSeam_ev | with_reducible apply State.seamFault_ev
    | fail_if_no_progress with_reducible apply Evolves.lit | split
theorem execSeamTransfer_ev {o₀ s : State} (seam : U16) (reverse : Bool) (w : SeamWord) (hev : Evolves o₀ s) :
    EvolvesO o₀ (execSeamTransfer seam reverse w s) := by
  unfold execSeamTransfer
  try dsimp only
  repeat' first
    | with_reducible assumption | with_reducible apply State.seamWord_ev | with_reducible refine EvolvesO.ite (fun _ => ?_) (fun _ => ?_)
    | refine EvolvesO.next ?_ | exact EvolvesO.fault _
theorem execSeamCorrectedLimit_ev {o₀ s : State} (seam : U16) (hev : Evolves o₀ s) :
    EvolvesO o₀ (execSeamCorrectedLimit seam s) := by
  unfold execSeamCorrectedLimit
  try dsimp only
  repeat' first
    | with_reducible assumption | with_reducible apply State.modSeam_ev | with_reducible apply State.seamFault_ev
    | with_reducible refine EvolvesO.ite (fun _ => ?_) (fun _ => ?_) | refine EvolvesO.next ?_ | exact EvolvesO.fault _
    | with_reducible refine Evolves.ite (fun _ => ?_) (fun _ => ?_)
theorem execCarrySaveOverdue_ev {o₀ s : State} (p : PartId) (hev : Evolves o₀ s) :
    EvolvesO o₀ (execCarrySaveOverdue p s) := by
  unfold execCarrySaveOverdue
  try dsimp only
  repeat' first
    | with_reducible assumption | with_reducible apply State.modPart_ev | with_reducible apply State.sendHalt_ev
    | with_reducible apply State.reachJob_ev | refine EvolvesO.next ?_ | with_reducible refine Evolves.ite (fun _ => ?_) (fun _ => ?_)
    | fail_if_no_progress with_reducible apply Evolves.lit
theorem State.scrubBad_ev {o₀ s : State} (dpa : BitVec 42) (sym : BitVec 18) (hev : Evolves o₀ s) : Evolves o₀ (s.scrubBad dpa sym) := by
  have h := State.markRow_ev (s.dramLoc dpa.toNat) sym 1 (State.unitFault_ev (s.partOfHd (dpa.toNat / 2 ^ 38))
    { cls := 1, unit := 4, addr := dpa.toNat, bit := sym.toNat, clears := (s.partOfHd (dpa.toNat / 2 ^ 38)).isSome }
    (State.upsetDram_ev dpa.toNat hev))
  unfold State.scrubBad
  dsimp only
  split
  · exact State.clearPart_ev _ _ h
  · exact h
theorem execPatrolScrub_ev {o₀ s : State} (dpa : BitVec 42) (loc : U64) (ecc : Ecc) (hev : Evolves o₀ s) :
    EvolvesO o₀ (execPatrolScrub dpa loc ecc s) := by
  unfold execPatrolScrub
  try dsimp only
  repeat' first
    | with_reducible assumption | with_reducible apply State.scrubBad_ev | with_reducible apply State.corrected_ev
    | with_reducible refine EvolvesO.ite (fun _ => ?_) (fun _ => ?_) | refine EvolvesO.next ?_ | exact EvolvesO.fault _
    | with_reducible refine Evolves.ite (fun _ => ?_) (fun _ => ?_) | fail_if_no_progress with_reducible apply Evolves.lit
    | refine EvolvesP.of (by with_reducible assumption) ?_ | refine EvolvesS.of (by with_reducible assumption) ?_
    | with_reducible refine EvolvesS.ite (fun _ => ?_) (fun _ => ?_) | exact EvolvesS.none | with_reducible refine EvolvesS.put ?_ | split
theorem State.repairRow_ev {o₀ s : State} (row : U64) (hev : Evolves o₀ s) :
    Evolves o₀ (State.repairRow s row) := by
  unfold State.repairRow
  try dsimp only
  repeat' first
    | with_reducible assumption | with_reducible apply State.logDefect_ev | with_reducible refine Evolves.ite (fun _ => ?_) (fun _ => ?_)
    | fail_if_no_progress with_reducible apply Evolves.lit
theorem execDramRowRepair_ev {o₀ s : State} (stack : Fin 32) (hev : Evolves o₀ s) :
    EvolvesO o₀ (execDramRowRepair stack s) := by
  unfold execDramRowRepair
  try dsimp only
  repeat' first
    | with_reducible assumption | with_reducible apply State.modPart_ev | with_reducible apply State.repairRow_ev | refine EvolvesO.next ?_
    | exact EvolvesO.fault _ | with_reducible refine Evolves.foldl _ (fun _ _ _ => ?_) ?_ | split
theorem execRegionZeroingDone_ev {o₀ s : State} (region : BitVec 9) (hev : Evolves o₀ s) : EvolvesO o₀ (execRegionZeroingDone region s) := by
  unfold execRegionZeroingDone
  split
  · exact EvolvesO.fault _
  · refine EvolvesO.next ?_
    split
    · exact ⟨hev.member, hev.pending, fun x => let y := hev.sound x
        ⟨y.tiles, y.seams, kwf_kdel _ _ y.regions, y.channels, y.bindings, y.rows, y.dram, y.flat, y.inbox, y.faultLog⟩⟩
    · exact hev
theorem State.freezePart_ev {o₀ s : State} (p : PartId) (why : Freeze) (hev : Evolves o₀ s) :
    Evolves o₀ (State.freezePart s p why) := by
  unfold State.freezePart
  try dsimp only
  repeat' first
    | with_reducible assumption | with_reducible intro _ | with_reducible apply State.modPart_ev
    | with_reducible apply State.clearStreams_ev | with_reducible apply State.modTile_ev | with_reducible apply State.answer_ev
    | with_reducible apply State.forTiles_ev
theorem State.modChans_ev {o₀ s : State} (p : PartId) (f : Nat → Chan → Chan) (hev : Evolves o₀ s) : Evolves o₀ (s.modChans p f) :=
  ⟨hev.member, hev.pending, fun x => let y := hev.sound x
    ⟨y.tiles, y.seams, y.regions, kwf_map_if _ (fun x => f x.1 x.2) _ y.channels, y.bindings, y.rows, y.dram, y.flat, y.inbox, y.faultLog⟩⟩
theorem State.persistRollback_ev {o₀ s : State} (p : PartId) (hev : Evolves o₀ s) :
    Evolves o₀ (State.persistRollback s p) := by
  unfold State.persistRollback
  try dsimp only
  repeat' first
    | with_reducible assumption | with_reducible apply State.modChans_ev
theorem State.serviceReply_ev {o₀ s : State} (n : Nat) (b : SvcBinding) (rec_ : Bytes) (hev : Evolves o₀ s) :
    Evolves o₀ (State.serviceReply s n b rec_) := by
  unfold State.serviceReply
  try dsimp only
  repeat' first
    | with_reducible assumption | with_reducible apply State.datagram_ev | with_reducible apply State.modBinding_ev
    | with_reducible refine Evolves.ite (fun _ => ?_) (fun _ => ?_)
theorem State.commitOut_ev {o₀ s : State} (n : Nat) (b : SvcBinding) (hev : Evolves o₀ s) :
    Evolves o₀ (State.commitOut s n b) := by
  unfold State.commitOut
  try dsimp only
  repeat' first
    | with_reducible assumption | with_reducible intro _ | with_reducible apply State.serviceReply_ev
    | with_reducible apply State.tileFault_ev | with_reducible apply State.modChan_ev | with_reducible apply State.markRow_ev
    | with_reducible refine Evolves.ite (fun _ => ?_) (fun _ => ?_) | with_reducible refine Evolves.foldl _ (fun _ _ _ => ?_) ?_
    | with_reducible refine EvolvesP.foldl _ (fun _ _ _ _ => ?_) ?_ | fail_if_no_progress with_reducible apply Evolves.lit
    | refine EvolvesP.of (by with_reducible assumption) ?_ | refine EvolvesS.of (by with_reducible assumption) ?_
    | with_reducible refine EvolvesS.ite (fun _ => ?_) (fun _ => ?_) | exact EvolvesS.none | with_reducible refine EvolvesS.put ?_ | split
theorem State.persistCommit_ev {o₀ s : State} (p : PartId) (hev : Evolves o₀ s) :
    Evolves o₀ (State.persistCommit s p) := by
  unfold State.persistCommit
  try dsimp only
  repeat' first
    | with_reducible assumption | with_reducible apply State.svcDrain_ev | with_reducible apply State.commitOut_ev
    | with_reducible apply State.modChans_ev | with_reducible refine Evolves.foldl _ (fun _ _ _ => ?_) ?_
theorem State.fenceTile_ev {o₀ s : State} (t : TileId) (router : Bool) (hev : Evolves o₀ s) :
    Evolves o₀ (State.fenceTile s t router) := by
  unfold State.fenceTile
  try dsimp only
  repeat' first
    | with_reducible assumption | with_reducible apply State.modTile_ev
theorem State.placeNow_ev {o₀ s : State} (p : PartId) (r : Repair) (hev : Evolves o₀ s) :
    Evolves o₀ (State.placeNow s p r) := by
  unfold State.placeNow
  try dsimp only
  repeat' first
    | with_reducible assumption | with_reducible intro _ | with_reducible apply State.writePend_ev | with_reducible apply State.setRows_ev
    | with_reducible apply State.switchMap_ev
theorem State.excludeRows_ev {o₀ s : State} (rows : List (Nat × Nat)) (hev : Evolves o₀ s) :
    Evolves o₀ (State.excludeRows s rows) := by
  unfold State.excludeRows
  try dsimp only
  repeat' first
    | with_reducible assumption | with_reducible apply State.setRows_ev | with_reducible refine Evolves.ite (fun _ => ?_) (fun _ => ?_)
    | with_reducible refine Evolves.foldl _ (fun _ _ _ => ?_) ?_ | fail_if_no_progress with_reducible apply Evolves.lit
theorem State.logHalted_ev {o₀ s : State} (p : PartId) (cls : Byte) (outcome : Nat) (hev : Evolves o₀ s) :
    Evolves o₀ (State.logHalted s p cls outcome) := by
  unfold State.logHalted
  try dsimp only
  repeat' first
    | with_reducible assumption | with_reducible apply State.modPart_ev | with_reducible refine Evolves.ite (fun _ => ?_) (fun _ => ?_)
theorem State.slowFreeze_ev {o₀ s : State} (p : PartId) (hd : Nat) (cls : Byte) (hev : Evolves o₀ s) :
    Evolves o₀ (State.slowFreeze s p hd cls) := by
  unfold State.slowFreeze
  try dsimp only
  repeat' first
    | with_reducible assumption | with_reducible apply State.persistRollback_ev | with_reducible apply State.logHalted_ev
    | with_reducible apply State.postPart_ev | with_reducible apply State.sendHalt_ev | with_reducible apply State.freezePart_ev
    | with_reducible refine Evolves.ite (fun _ => ?_) (fun _ => ?_)
theorem State.slowPath_ev {o₀ s : State} (p : PartId) (rows : List (Nat × Nat)) (hd : Nat) (cls : Byte) (hev : Evolves o₀ s) :
    Evolves o₀ (State.slowPath s p rows hd cls) := by
  unfold State.slowPath
  try dsimp only
  repeat' first
    | with_reducible assumption | with_reducible intro _ | with_reducible apply State.modPart_ev | with_reducible apply State.excludeRows_ev
    | with_reducible apply State.writePend_ev | with_reducible apply State.slowFreeze_ev
    | with_reducible refine Evolves.ite (fun _ => ?_) (fun _ => ?_) | fail_if_no_progress with_reducible apply Evolves.lit
theorem State.logFault_ev {o₀ s : State} (r : FaultRec) (hev : Evolves o₀ s) : Evolves o₀ (s.logFault r) := by
  unfold State.logFault
  extract_lets s1
  have h1 : Evolves o₀ s1 := ⟨hev.member, hev.pending, fun x => by
    have y := hev.sound x
    exact ⟨y.tiles, y.seams, y.regions, y.channels, y.bindings, y.rows, y.dram, y.flat, y.inbox, by simp [s1]; omega⟩⟩
  clear_value s1
  split
  · exact State.postPart_ev _ _ _ _ h1
  · exact State.postAdmin_ev _ _ _ h1
theorem State.placeLater_ev {o₀ s : State} (p : PartId) (t : TileId) (hev : Evolves o₀ s) :
    Evolves o₀ (State.placeLater s p t) := by
  unfold State.placeLater
  try dsimp only
  repeat' first
    | with_reducible assumption | with_reducible apply State.modPart_ev
theorem State.fastAbandon_ev {o₀ s : State} (p : PartId) (hev : Evolves o₀ s) :
    Evolves o₀ (State.fastAbandon s p) := by
  unfold State.fastAbandon
  try dsimp only
  repeat' first
    | with_reducible assumption | with_reducible apply State.modPart_ev | with_reducible apply State.logFault_ev
    | with_reducible apply State.slowFreeze_ev | with_reducible apply State.placeLater_ev | with_reducible apply State.slowPath_ev
    | with_reducible refine Evolves.foldl _ (fun _ _ _ => ?_) ?_ | split
theorem State.holdRepeat_ev {o₀ s : State} (p : PartId) (hold : Nat) (hev : Evolves o₀ s) :
    Evolves o₀ (State.holdRepeat s p hold) := by
  unfold State.holdRepeat
  try dsimp only
  repeat' first
    | with_reducible assumption | with_reducible apply State.askBreak_ev | with_reducible apply State.modPart_ev | split
theorem State.fastPath_ev {o₀ s : State} (p : PartId) (new : List Repair) (hev : Evolves o₀ s) :
    EvolvesP o₀ (State.fastPath s p new) := by
  unfold State.fastPath
  try dsimp only
  repeat' first
    | with_reducible assumption | with_reducible apply State.modPart_ev | with_reducible apply State.fastAbandon_ev
    | with_reducible apply State.holdRepeat_ev | with_reducible apply State.slowPath_ev
    | with_reducible refine EvolvesP.ite (fun _ => ?_) (fun _ => ?_) | with_reducible refine Evolves.ite (fun _ => ?_) (fun _ => ?_)
    | with_reducible refine EvolvesP.pair ?_
theorem State.fenceRepairs_ev {o₀ s : State} (p : PartId) (hev : Evolves o₀ s) :
    Evolves o₀ (State.fenceRepairs s p) := by
  unfold State.fenceRepairs
  try dsimp only
  repeat' first
    | with_reducible assumption | with_reducible intro _ | with_reducible apply State.modPart_ev | with_reducible apply State.loadMoved_ev
    | with_reducible apply State.fenceTile_ev | with_reducible apply State.writePend_ev
    | with_reducible refine Evolves.ite (fun _ => ?_) (fun _ => ?_) | with_reducible refine Evolves.foldl _ (fun _ _ _ => ?_) ?_
theorem State.insertAborted_ev {o₀ s : State} (p : PartId) (due : List Repair) (hev : Evolves o₀ s) :
    Evolves o₀ (State.insertAborted s p due) := by
  unfold State.insertAborted
  try dsimp only
  repeat' first
    | with_reducible assumption | with_reducible intro _ | with_reducible apply State.modPart_ev | with_reducible apply State.unitFault_ev
theorem State.switchRepairs_ev {o₀ s : State} (p : PartId) (hev : Evolves o₀ s) :
    Evolves o₀ (State.switchRepairs s p) := by
  unfold State.switchRepairs
  try dsimp only
  repeat' first
    | with_reducible assumption | with_reducible intro _ | with_reducible apply State.modPart_ev
    | with_reducible apply State.insertAborted_ev | with_reducible apply State.setRows_ev | with_reducible apply State.switchMap_ev
    | with_reducible apply State.fastAbandon_ev | with_reducible refine Evolves.ite (fun _ => ?_) (fun _ => ?_)
    | with_reducible refine Evolves.foldl _ (fun _ _ _ => ?_) ?_
theorem State.scanOutTo_ev {o₀ s : State} (p : PartId) (n : Nat) (t : TileId) (r : Req) (hev : Evolves o₀ s) :
    Evolves o₀ (State.scanOutTo s p n t r) := by
  unfold State.scanOutTo
  try dsimp only
  repeat' first
    | with_reducible assumption | with_reducible intro _ | with_reducible apply State.partWrite_ev | with_reducible apply State.setTile_ev
    | with_reducible apply State.tileFault_ev | with_reducible refine Evolves.ite (fun _ => ?_) (fun _ => ?_)
    | fail_if_no_progress with_reducible apply Evolves.lit | refine EvolvesP.of (by with_reducible assumption) ?_
    | refine EvolvesS.of (by with_reducible assumption) ?_ | with_reducible refine EvolvesS.ite (fun _ => ?_) (fun _ => ?_)
    | exact EvolvesS.none | with_reducible refine EvolvesS.put ?_ | split
theorem State.scanServe_ev {o₀ s : State} (p : PartId) (r : Req) (hev : Evolves o₀ s) :
    EvolvesP o₀ (State.scanServe s p r) := by
  unfold State.scanServe
  try dsimp only
  repeat' first
    | with_reducible assumption | with_reducible intro _ | with_reducible apply State.armGen_ev | with_reducible apply State.modTile_ev
    | with_reducible apply State.areaRead_ev | with_reducible apply State.forTiles_ev | with_reducible apply State.scanOutTo_ev
    | with_reducible refine (State.areaRead_ev _ _ ?_).fst | with_reducible refine EvolvesP.ite (fun _ => ?_) (fun _ => ?_)
    | with_reducible refine Evolves.ite (fun _ => ?_) (fun _ => ?_) | with_reducible refine Evolves.foldl _ (fun _ _ _ => ?_) ?_
    | with_reducible refine EvolvesP.foldl _ (fun _ _ _ _ => ?_) ?_ | fail_if_no_progress with_reducible apply Evolves.lit
    | refine EvolvesP.of (by with_reducible assumption) ?_ | refine EvolvesS.of (by with_reducible assumption) ?_
    | with_reducible refine EvolvesS.ite (fun _ => ?_) (fun _ => ?_) | exact EvolvesS.none | with_reducible refine EvolvesS.put ?_ | split
    | with_reducible refine EvolvesP.pair ?_
theorem State.serveScans_ev {o₀ s : State} (p : PartId) (hev : Evolves o₀ s) :
    Evolves o₀ (State.serveScans s p) := by
  unfold State.serveScans
  try dsimp only
  repeat' first
    | with_reducible assumption | with_reducible intro _ | with_reducible apply State.scanServe_ev
    | with_reducible apply State.clearStreams_ev | with_reducible apply State.answer_ev
    | with_reducible refine (State.scanServe_ev _ _ ?_).fst | with_reducible refine Evolves.ite (fun _ => ?_) (fun _ => ?_)
    | fail_if_no_progress with_reducible apply Evolves.lit | refine EvolvesP.of (by with_reducible assumption) ?_
    | refine EvolvesS.of (by with_reducible assumption) ?_ | with_reducible refine EvolvesS.ite (fun _ => ?_) (fun _ => ?_)
    | exact EvolvesS.none | with_reducible refine EvolvesS.put ?_ | split
theorem State.slotChannels_ev {o₀ s : State} (p : PartId) (newStep : Bool) (hev : Evolves o₀ s) :
    Evolves o₀ (State.slotChannels s p newStep) := by
  unfold State.slotChannels
  try dsimp only
  repeat' first
    | with_reducible assumption | with_reducible apply State.putWord_ev | with_reducible apply State.modChans_ev
    | with_reducible refine Evolves.foldl _ (fun _ _ _ => ?_) ?_ | split
theorem State.slotStart_ev {o₀ s : State} (p : PartId) (newStep : Bool) (hev : Evolves o₀ s) :
    Evolves o₀ (State.slotStart s p newStep) := by
  unfold State.slotStart
  try dsimp only
  repeat' first
    | with_reducible assumption | with_reducible intro _ | with_reducible apply State.slotChannels_ev
    | with_reducible apply State.modTile_ev | with_reducible apply State.forTiles_ev
theorem State.seamSlot_ev {o₀ s : State} (p : PartId) (hev : Evolves o₀ s) :
    Evolves o₀ (State.seamSlot s p) := by
  unfold State.seamSlot
  try dsimp only
  repeat' first
    | with_reducible assumption | with_reducible apply State.modSeam_ev | with_reducible refine Evolves.foldl _ (fun _ _ _ => ?_) ?_
theorem State.cleanBits_ev {o₀ s : State} (p : PartId) (hev : Evolves o₀ s) :
    Evolves o₀ (State.cleanBits s p) := by
  unfold State.cleanBits
  try dsimp only
  repeat' first
    | with_reducible assumption | with_reducible intro _ | with_reducible apply State.modPart_ev | with_reducible apply State.modSeam_ev
    | with_reducible apply State.modPort_ev | with_reducible apply State.modTile_ev | with_reducible apply State.forTiles_ev
    | with_reducible refine Evolves.foldl _ (fun _ _ _ => ?_) ?_
theorem State.attemptStart_ev {o₀ s : State} (p : PartId) (hev : Evolves o₀ s) :
    Evolves o₀ (State.attemptStart s p) := by
  unfold State.attemptStart
  try dsimp only
  repeat' first
    | with_reducible assumption | with_reducible intro _ | with_reducible apply State.modPart_ev | with_reducible apply State.cleanBits_ev
    | with_reducible apply State.modTile_ev | with_reducible apply State.forTiles_ev
theorem State.repeatTile_ev {o₀ s : State} (t : TileId) (hev : Evolves o₀ s) :
    Evolves o₀ (State.repeatTile s t) := by
  unfold State.repeatTile
  try dsimp only
  repeat' first
    | with_reducible assumption | with_reducible apply State.tileFault_ev | with_reducible apply State.modTile_ev | split
theorem State.dropEgress_ev {o₀ s : State} (p : PartId) (hev : Evolves o₀ s) :
    Evolves o₀ (State.dropEgress s p) := by
  unfold State.dropEgress
  try dsimp only
  repeat' first
    | with_reducible assumption | with_reducible apply State.modPort_ev | with_reducible refine Evolves.ite (fun _ => ?_) (fun _ => ?_)
    | with_reducible refine Evolves.foldl _ (fun _ _ _ => ?_) ?_
theorem State.repeatBegin_ev {o₀ s : State} (p : PartId) (hev : Evolves o₀ s) :
    Evolves o₀ (State.repeatBegin s p) := by
  unfold State.repeatBegin
  try dsimp only
  repeat' first
    | with_reducible assumption | with_reducible intro _ | with_reducible apply State.attemptStart_ev
    | with_reducible apply State.dropEgress_ev | with_reducible apply State.repeatTile_ev | with_reducible apply State.forTiles_ev
    | with_reducible apply State.armGen_ev | with_reducible apply State.modTile_ev | with_reducible apply State.modPart_ev
theorem State.stepBegin_ev {o₀ s : State} (p : PartId) (hev : Evolves o₀ s) :
    Evolves o₀ (State.stepBegin s p) := by
  unfold State.stepBegin
  try dsimp only
  repeat' first
    | with_reducible assumption | with_reducible intro _ | with_reducible apply State.modPart_ev
    | with_reducible apply State.attemptStart_ev | with_reducible apply State.entryCopy_ev | with_reducible apply State.modSeam_ev
    | with_reducible apply State.forTiles_ev | with_reducible refine Evolves.foldl _ (fun _ _ _ => ?_) ?_
theorem State.writeLists_ev {o₀ s : State} (p : PartId) (hev : Evolves o₀ s) :
    Evolves o₀ (State.writeLists s p) := by
  unfold State.writeLists
  try dsimp only
  repeat' first
    | with_reducible assumption | with_reducible apply State.partWrite_ev | with_reducible refine Evolves.foldl _ (fun _ _ _ => ?_) ?_
    | split
theorem State.commitStep_ev {o₀ s : State} (p : PartId) (hev : Evolves o₀ s) :
    Evolves o₀ (State.commitStep s p) := by
  unfold State.commitStep
  try dsimp only
  repeat' first
    | with_reducible assumption | with_reducible intro _ | with_reducible apply State.modPart_ev | with_reducible apply State.writeLists_ev
    | with_reducible apply State.carrySave_ev | with_reducible apply State.persistCommit_ev | with_reducible apply State.forTiles_ev
theorem State.haltFreeze_ev {o₀ s : State} (p : PartId) (q : Part) (cls : Byte) (hev : Evolves o₀ s) :
    Evolves o₀ (State.haltFreeze s p q cls) := by
  unfold State.haltFreeze
  try dsimp only
  repeat' first
    | with_reducible assumption | with_reducible apply State.persistRollback_ev | with_reducible apply State.modPart_ev
    | with_reducible apply State.postPart_ev | with_reducible apply State.placeLater_ev | with_reducible apply State.freezePart_ev
    | with_reducible refine Evolves.ite (fun _ => ?_) (fun _ => ?_) | with_reducible refine Evolves.foldl _ (fun _ _ _ => ?_) ?_
theorem State.outcomeActs_ev {o₀ s : State} (p : PartId) (q : Part) (hev : Evolves o₀ s) :
    Evolves o₀ (State.outcomeActs s p q) := by
  unfold State.outcomeActs
  try dsimp only
  repeat' first
    | with_reducible assumption | with_reducible apply State.persistRollback_ev | with_reducible apply State.modPart_ev
    | with_reducible apply State.placeLater_ev | with_reducible apply State.freezePart_ev | with_reducible apply State.commitStep_ev
    | with_reducible refine Evolves.ite (fun _ => ?_) (fun _ => ?_) | with_reducible refine Evolves.foldl _ (fun _ _ _ => ?_) ?_
theorem State.abandonActs_ev {o₀ s : State} (p : PartId) (q : Part) (hev : Evolves o₀ s) :
    Evolves o₀ (State.abandonActs s p q) := by
  unfold State.abandonActs
  try dsimp only
  repeat' first
    | with_reducible assumption | with_reducible apply State.persistRollback_ev | with_reducible apply State.modPart_ev
    | with_reducible apply State.freezePart_ev | with_reducible refine Evolves.ite (fun _ => ?_) (fun _ => ?_)
theorem State.latchResults_ev {o₀ s : State} (p : PartId) (q : Part) (hev : Evolves o₀ s) :
    Evolves o₀ (State.latchResults s p q) := by
  unfold State.latchResults
  try dsimp only
  repeat' first
    | with_reducible assumption | with_reducible apply State.abandonActs_ev | with_reducible apply State.outcomeActs_ev
    | with_reducible apply State.haltFreeze_ev | split
theorem State.drainFreeze_ev {o₀ s : State} (p : PartId) (attempt : Nat) (hev : Evolves o₀ s) :
    Evolves o₀ (State.drainFreeze s p attempt) := by
  unfold State.drainFreeze
  try dsimp only
  repeat' first
    | with_reducible assumption | with_reducible apply State.freezePart_ev | with_reducible apply State.modPart_ev
    | with_reducible apply State.postPart_ev
theorem State.noteInsert_ev {o₀ s : State} (p : PartId) (r : Req) (hev : Evolves o₀ s) :
    Evolves o₀ (State.noteInsert p s r) := by
  unfold State.noteInsert
  try dsimp only
  repeat' first
    | with_reducible assumption | with_reducible apply State.modPart_ev
theorem State.noteInserts_ev {o₀ s : State} (p : PartId) (at_ : Int) (hev : Evolves o₀ s) :
    Evolves o₀ (State.noteInserts s p at_) := by
  unfold State.noteInserts
  try dsimp only
  repeat' first
    | with_reducible assumption | with_reducible apply State.noteInsert_ev | with_reducible refine Evolves.foldl _ (fun _ _ _ => ?_) ?_
theorem State.beginInsert_ev {o₀ s : State} (p : PartId) (hev : Evolves o₀ s) :
    Evolves o₀ (State.beginInsert s p) := by
  unfold State.beginInsert
  try dsimp only
  repeat' first
    | with_reducible assumption | with_reducible intro _ | with_reducible apply State.modPart_ev | with_reducible apply State.loadMoved_ev
    | with_reducible apply State.writePend_ev | with_reducible refine Evolves.ite (fun _ => ?_) (fun _ => ?_)
theorem State.jobSlot_ev {o₀ s : State} (p : PartId) (q : Part) (hev : Evolves o₀ s) :
    Evolves o₀ (State.jobSlot s p q) := by
  unfold State.jobSlot
  try dsimp only
  repeat' first
    | with_reducible assumption | with_reducible apply State.modPart_ev | with_reducible apply State.drainFreeze_ev
    | with_reducible apply State.beginInsert_ev | with_reducible apply State.fastAbandon_ev | with_reducible apply State.slotStart_ev
    | with_reducible apply State.postPart_ev | with_reducible apply State.stepBegin_ev | with_reducible apply State.repeatBegin_ev
    | with_reducible apply State.freezePart_ev | split
theorem State.slotBoundary_ev {o₀ s : State} (p : PartId) (q : Part) (hev : Evolves o₀ s) :
    Evolves o₀ (State.slotBoundary s p q) := by
  unfold State.slotBoundary
  try dsimp only
  repeat' first
    | with_reducible assumption | with_reducible apply State.jobSlot_ev | with_reducible apply State.seamSlot_ev
    | with_reducible apply State.slotStart_ev | with_reducible refine Evolves.ite (fun _ => ?_) (fun _ => ?_)
theorem State.applyOne_ev {o₀ s : State} (p : PartId) (a : Apply) (hev : Evolves o₀ s) :
    Evolves o₀ (State.applyOne p s a) := by
  unfold State.applyOne
  try dsimp only
  repeat' first
    | with_reducible assumption | with_reducible apply State.slotChannels_ev | with_reducible apply State.modPart_ev
    | with_reducible apply State.attemptStart_ev | with_reducible apply State.answerApply_ev | with_reducible apply State.applyChange_ev
    | with_reducible refine Evolves.ite (fun _ => ?_) (fun _ => ?_) | with_reducible refine Evolves.foldl _ (fun _ _ _ => ?_) ?_
theorem State.applyDue_ev {o₀ s : State} (p : PartId) (at_ : Int) (hev : Evolves o₀ s) :
    Evolves o₀ (State.applyDue s p at_) := by
  unfold State.applyDue
  try dsimp only
  repeat' first
    | with_reducible assumption | with_reducible apply State.applyOne_ev | with_reducible refine Evolves.foldl _ (fun _ _ _ => ?_) ?_
theorem State.shiftRefused_ev {o₀ s : State} (p : PartId) (f : TileId × Nat) (hev : Evolves o₀ s) :
    Evolves o₀ (State.shiftRefused s p f) := by
  unfold State.shiftRefused
  try dsimp only
  repeat' first
    | with_reducible assumption | with_reducible intro _ | with_reducible apply State.modPart_ev | with_reducible apply State.fenceTile_ev
    | with_reducible refine Evolves.ite (fun _ => ?_) (fun _ => ?_)
theorem State.applyFenceOne_ev {o₀ s : State} (p : PartId) (f : TileId × Nat) (hev : Evolves o₀ s) :
    Evolves o₀ (State.applyFenceOne p s f) := by
  unfold State.applyFenceOne
  try dsimp only
  repeat' first
    | with_reducible assumption | with_reducible apply State.placeNow_ev | with_reducible apply State.setRows_ev
    | with_reducible apply State.modTile_ev | with_reducible apply State.fenceTile_ev | split
theorem State.applyFence_ev {o₀ s : State} (p : PartId) (refused : Bool) (f : TileId × Nat) (hev : Evolves o₀ s) :
    Evolves o₀ (State.applyFence p refused s f) := by
  unfold State.applyFence
  try dsimp only
  repeat' first
    | with_reducible assumption | with_reducible intro _ | with_reducible apply State.shiftRefused_ev | with_reducible apply State.answer_ev
    | with_reducible apply State.applyFenceOne_ev | with_reducible refine Evolves.ite (fun _ => ?_) (fun _ => ?_)
theorem State.restoreIdle_ev {o₀ s : State} (p : PartId) (hev : Evolves o₀ s) :
    Evolves o₀ (State.restoreIdle s p) := by
  unfold State.restoreIdle
  try dsimp only
  repeat' first
    | with_reducible assumption | with_reducible apply State.placeNow_ev | with_reducible apply State.modPart_ev
    | with_reducible refine Evolves.ite (fun _ => ?_) (fun _ => ?_) | with_reducible refine Evolves.foldl _ (fun _ _ _ => ?_) ?_
theorem State.applySlow_ev {o₀ s : State} (p : PartId) (hev : Evolves o₀ s) :
    Evolves o₀ (State.applySlow s p) := by
  unfold State.applySlow
  try dsimp only
  repeat' first
    | with_reducible assumption | with_reducible intro _ | with_reducible apply State.modPart_ev | with_reducible apply State.writePend_ev
    | with_reducible apply State.switchMap_ev | with_reducible refine Evolves.ite (fun _ => ?_) (fun _ => ?_)
    | fail_if_no_progress with_reducible apply Evolves.lit
theorem State.boundaryFences_ev {o₀ s : State} (p : PartId) (hev : Evolves o₀ s) :
    Evolves o₀ (State.boundaryFences s p) := by
  unfold State.boundaryFences
  try dsimp only
  repeat' first
    | with_reducible assumption | with_reducible intro _ | with_reducible apply State.modPart_ev
    | with_reducible apply State.switchRepairs_ev | with_reducible apply State.fenceRepairs_ev | with_reducible apply State.applyFence_ev
    | with_reducible apply State.restoreIdle_ev | with_reducible apply State.applySlow_ev
    | with_reducible refine Evolves.ite (fun _ => ?_) (fun _ => ?_) | with_reducible refine Evolves.foldl _ (fun _ _ _ => ?_) ?_
theorem State.listReads_ev {o₀ s : State} (p : PartId) (hev : Evolves o₀ s) : Evolves o₀ (s.listReads p) :=
  Evolves.foldl _ (fun _ _ h => Evolves.foldl _ (fun _ _ h' => State.unitRead_ev _ _ _ h') (State.unitRead_ev _ _ _ h)) hev
theorem State.listRefused_ev {o₀ s : State} (p : PartId) (addr : Nat) (hev : Evolves o₀ s) :
    Evolves o₀ (State.listRefused s p addr) := by
  unfold State.listRefused
  try dsimp only
  repeat' first
    | with_reducible assumption | with_reducible apply State.partFault_ev
theorem State.deliverEntry_ev {o₀ s : State} (p : PartId) (e : DEntry) (hev : Evolves o₀ s) :
    Evolves o₀ (State.deliverEntry s p e) := by
  unfold State.deliverEntry
  try dsimp only
  repeat' first
    | with_reducible assumption | with_reducible apply State.partFault_ev | with_reducible apply State.setTile_ev
    | with_reducible apply State.listRefused_ev | with_reducible apply State.modTile_ev | split
theorem State.walkList_ev {o₀ : State} (p : PartId) (i : Fin 8) (fuel : Nat) :
    ∀ {x : Nat × State}, Evolves o₀ x.2 → Evolves o₀ (State.walkList p i fuel x).2 := by
  induction fuel with
  | zero => exact fun h => h | succ fuel ih =>
    rintro ⟨left, s⟩ hev
    have hev : Evolves o₀ s := hev
    have hd : ∀ e, Evolves o₀ (s.deliverEntry p e) := fun e => State.deliverEntry_ev p e hev
    unfold State.walkList
    dsimp only
    split
    · exact hev
    · split
      · exact hev
      · split
        · exact hev
        · refine ih ?_; dsimp only; exact State.modPart_ev _ _ hev
        · split
          · exact hev
          · refine ih ?_; dsimp only; exact State.modPart_ev _ _ (hd _)
theorem State.runLists_ev {o₀ s : State} (p : PartId) (hev : Evolves o₀ s) : Evolves o₀ (s.runLists p) := by
  have fold : ∀ (xs : List (Fin 8)) (x : Nat × State), Evolves o₀ x.2 →
      Evolves o₀ (xs.foldl (fun x i => State.walkList p i 64 x) x).2 := by
    intro xs
    induction xs with
    | nil => exact fun _ h => h | cons i xs ih => exact fun x h => ih _ (State.walkList_ev p i 64 h)
  unfold State.runLists
  extract_lets q r s0 still s1 s2
  split
  · exact hev
  · have h0 : Evolves o₀ s0 := State.modPart_ev _ _ (State.listReads_ev p hev)
    have h1 : Evolves o₀ s1 := by
      dsimp only [s1]
      split
      · exact h0
      · exact fold _ _ h0
    exact State.writeLists_ev _ (State.modPart_ev _ _ h1)
theorem State.bookEnergy_ev {o₀ s : State} (p : PartId) (q : Part) (hev : Evolves o₀ s) :
    Evolves o₀ (State.bookEnergy s p q) := by
  unfold State.bookEnergy
  try dsimp only
  repeat' first
    | with_reducible assumption | with_reducible apply State.modPart_ev | with_reducible refine Evolves.ite (fun _ => ?_) (fun _ => ?_)
    | fail_if_no_progress with_reducible apply Evolves.lit
theorem State.slotZero_ev {o₀ s : State} (p : PartId) (hev : Evolves o₀ s) :
    Evolves o₀ (State.slotZero s p) := by
  unfold State.slotZero
  try dsimp only
  repeat' first
    | with_reducible assumption | with_reducible intro _ | with_reducible apply State.forTiles_ev | with_reducible apply State.modTile_ev
theorem State.boundary_ev {o₀ s : State} (p : PartId) (hev : Evolves o₀ s) :
    Evolves o₀ (State.boundary s p) := by
  unfold State.boundary
  try dsimp only
  repeat' first
    | with_reducible assumption | with_reducible intro _ | with_reducible apply State.noteInserts_ev
    | with_reducible apply State.slotStart_ev | with_reducible apply State.applyDue_ev | with_reducible apply State.entryCopy_ev
    | with_reducible apply State.seamSlot_ev | with_reducible apply State.slotZero_ev | with_reducible apply State.attemptStart_ev
    | with_reducible apply State.latchResults_ev | with_reducible apply State.forTiles_ev | with_reducible apply State.reachJob_ev
    | with_reducible apply State.serveScans_ev | with_reducible apply State.runLists_ev | with_reducible apply State.modTile_ev
    | with_reducible apply State.boundaryFences_ev | with_reducible apply State.slotBoundary_ev | with_reducible apply State.modPart_ev
    | with_reducible apply State.bookEnergy_ev | with_reducible apply State.cleanBits_ev
    | with_reducible refine Evolves.ite (fun _ => ?_) (fun _ => ?_) | with_reducible refine Evolves.foldl _ (fun _ _ _ => ?_) ?_
    | with_reducible refine EvolvesP.foldl _ (fun _ _ _ _ => ?_) ?_ | fail_if_no_progress with_reducible apply Evolves.lit
    | refine EvolvesP.of (by with_reducible assumption) ?_ | refine EvolvesS.of (by with_reducible assumption) ?_
    | with_reducible refine EvolvesS.ite (fun _ => ?_) (fun _ => ?_) | exact EvolvesS.none | with_reducible refine EvolvesS.put ?_ | split
theorem State.boundaryUpset_ev {o₀ s : State} (b : BoundaryEcc) (hev : Evolves o₀ s) :
    Evolves o₀ (State.boundaryUpset s b) := by
  unfold State.boundaryUpset
  try dsimp only
  repeat' first
    | with_reducible assumption
    | with_reducible apply State.upset_ev
    | with_reducible apply State.upsetDram_ev
    | with_reducible refine Evolves.ite (fun _ => ?_) (fun _ => ?_)
    | split
    | fail_if_no_progress with_reducible apply Evolves.lit
theorem State.boundaryDram_ev {o₀ s : State} (p : PartId) (dpa : BitVec 42) (sym : BitVec 18) (hev : Evolves o₀ s) :
    Evolves o₀ (s.boundaryDram p dpa sym) :=
  State.markRow_ev _ _ _ (State.clearPart_ev _ _ (State.unitFault_ev _ _ hev))
theorem State.boundaryEcc_ev {o₀ s : State} (p : PartId) (b : BoundaryEcc) (hev : Evolves o₀ s) :
    Evolves o₀ (State.boundaryEcc s p b) := by
  unfold State.boundaryEcc
  try dsimp only
  repeat' first
    | with_reducible assumption | with_reducible intro _ | with_reducible apply State.corrected_ev | with_reducible apply State.clearPart_ev
    | with_reducible apply State.correct_ev | with_reducible apply State.tileFault_ev | with_reducible apply State.tileRecord_ev
    | with_reducible apply State.boundaryDram_ev | with_reducible apply State.carrySave_ev
    | with_reducible refine Evolves.ite (fun _ => ?_) (fun _ => ?_) | fail_if_no_progress with_reducible apply Evolves.lit
    | refine EvolvesP.of (by with_reducible assumption) ?_ | refine EvolvesS.of (by with_reducible assumption) ?_
    | with_reducible refine EvolvesS.ite (fun _ => ?_) (fun _ => ?_) | exact EvolvesS.none | with_reducible refine EvolvesS.put ?_ | split
theorem execBeatBoundary_ev {o₀ s : State} (p : PartId) (bad : List BoundaryEcc) (hev : Evolves o₀ s) :
    EvolvesO o₀ (execBeatBoundary p bad s) := by
  unfold execBeatBoundary
  try dsimp only
  repeat' first
    | with_reducible assumption | with_reducible apply State.boundaryEcc_ev
     | with_reducible apply State.boundaryUpset_ev | with_reducible apply State.boundary_ev | refine EvolvesO.next ?_
    | with_reducible refine Evolves.ite (fun _ => ?_) (fun _ => ?_)
    | with_reducible refine Evolves.foldl _ (fun _ _ _ => ?_) ?_

end Sys2Proof.Machine
end

