-- ==== Sys2Proof/Laws/EvolvesFaults.lean ====
section
/-!
SUPPORT. The operations and meanings of fault verdicts, resets and start-up evolve the state: one lemma for each.
-/

set_option linter.unusedTactic false
set_option linter.unreachableTactic false

namespace Sys2Proof.Machine

theorem State.nextRecord_ev {o₀ s : State} (hev : Evolves o₀ s) : Evolves o₀ s.nextRecord.2 := by
  unfold State.nextRecord
  dsimp only
  split
  · exact Evolves.lit hev
  · split
    · exact hev
    · have h : ∀ held rs r, s.inbox = r :: rs → Evolves o₀ { s with inbox := rs, faultHeld := held } := fun held rs r e =>
        ⟨hev.member, hev.pending, fun x => by
          have y := hev.sound x
          have hi := y.inbox
          rw [e] at hi
          exact ⟨y.tiles, y.seams, y.regions, y.channels, y.bindings, y.rows, y.dram, y.flat,
            by simp only [List.length_cons] at hi ⊢; omega, y.faultLog⟩⟩
      split
      · exact h _ _ _ (by assumption)
      · exact h _ _ _ (by assumption)
theorem State.shiftIdle_ev {o₀ s : State} (t : TileId) (hev : Evolves o₀ s) :
    Evolves o₀ (State.shiftIdle s t) := by
  unfold State.shiftIdle
  try dsimp only
  repeat' first
    | with_reducible assumption | with_reducible intro _ | with_reducible apply State.replan_ev | with_reducible apply State.excludeRows_ev
    | with_reducible apply State.setRows_ev | with_reducible refine Evolves.ite (fun _ => ?_) (fun _ => ?_)
theorem State.leaveIdleTile_ev {o₀ s : State} (t : TileId) (hev : Evolves o₀ s) :
    Evolves o₀ (State.leaveIdleTile s t) := by
  unfold State.leaveIdleTile
  try dsimp only
  repeat' first
    | with_reducible assumption | with_reducible intro _ | with_reducible apply State.shiftIdle_ev
    | with_reducible refine Evolves.ite (fun _ => ?_) (fun _ => ?_)
theorem State.fenceIdle_ev {o₀ s : State} (t : TileId) (router : Bool) (hev : Evolves o₀ s) :
    Evolves o₀ (State.fenceIdle s t router) := by
  unfold State.fenceIdle
  try dsimp only
  repeat' first
    | with_reducible assumption | with_reducible apply State.fenceTile_ev | with_reducible apply State.shiftIdle_ev
theorem State.fenceSoon_ev {o₀ s : State} (t : TileId) (code : Nat) (hev : Evolves o₀ s) :
    Evolves o₀ (State.fenceSoon s t code) := by
  unfold State.fenceSoon
  try dsimp only
  repeat' first
    | with_reducible assumption | with_reducible intro _ | with_reducible apply State.modPart_ev | with_reducible apply State.modTile_ev
    | with_reducible apply State.fenceIdle_ev | with_reducible apply State.leaveIdleTile_ev
    | with_reducible refine Evolves.ite (fun _ => ?_) (fun _ => ?_) | fail_if_no_progress with_reducible apply Evolves.lit
    | refine EvolvesP.of (by with_reducible assumption) ?_ | refine EvolvesS.of (by with_reducible assumption) ?_
    | with_reducible refine EvolvesS.ite (fun _ => ?_) (fun _ => ?_) | exact EvolvesS.none | with_reducible refine EvolvesS.put ?_ | split
theorem State.slowRow_ev {o₀ s : State} (p : PartId) (t : TileId) (cls : Byte) (hev : Evolves o₀ s) :
    Evolves o₀ (State.slowRow s p t cls) := by
  unfold State.slowRow
  try dsimp only
  repeat' first
    | with_reducible assumption | with_reducible apply State.logFault_ev | with_reducible apply State.fenceSoon_ev
    | with_reducible apply State.slowPath_ev | with_reducible refine Evolves.foldl _ (fun _ _ _ => ?_) ?_
theorem State.fenceFor_ev {o₀ s : State} (t : TileId) (cls : Byte) (orig : Option FaultRec) (commit : Bool) (hev : Evolves o₀ s) :
    EvolvesP o₀ (State.fenceFor s t cls orig commit) := by
  unfold State.fenceFor
  try dsimp only
  repeat' first
    | with_reducible assumption | with_reducible apply State.fenceIdle_ev | with_reducible apply State.slowRow_ev
    | with_reducible apply State.placeLater_ev | with_reducible apply State.fenceSoon_ev
    | with_reducible refine (State.fastPath_ev _ _ ?_).fst | split | with_reducible refine EvolvesP.pair ?_
theorem State.tileDefect_ev {o₀ s : State} (t : TileId) (source : Nat) (cls : Nat) (flags : Nat) (addr : Nat) (hev : Evolves o₀ s) :
    Evolves o₀ (State.tileDefect s t source cls flags addr) := by
  unfold State.tileDefect
  try dsimp only
  repeat' first
    | with_reducible assumption | with_reducible apply State.logDefect_ev
theorem State.routerFence_ev {o₀ s : State} (t : TileId) (cls : Byte) (hev : Evolves o₀ s) :
    Evolves o₀ (State.routerFence s t cls) := by
  unfold State.routerFence
  try dsimp only
  repeat' first
    | with_reducible assumption | with_reducible apply State.fenceSoon_ev | with_reducible apply State.slowPath_ev
    | with_reducible refine Evolves.foldl _ (fun _ _ _ => ?_) ?_ | fail_if_no_progress with_reducible apply Evolves.lit
theorem State.fencePair_ev {o₀ s : State} (t : TileId) (r : FaultRec) (hev : Evolves o₀ s) :
    EvolvesP o₀ (State.fencePair s t r) := by
  unfold State.fencePair
  try dsimp only
  repeat' first
    | with_reducible assumption | with_reducible apply State.slowRow_ev | with_reducible apply State.placeLater_ev
    | with_reducible apply State.fenceSoon_ev | with_reducible apply State.tileDefect_ev
    | with_reducible refine (State.fastPath_ev _ _ ?_).fst | split | with_reducible refine EvolvesP.pair ?_
theorem State.decideFault_ev {o₀ s : State} (r : FaultRec) (hev : Evolves o₀ s) :
    EvolvesP o₀ (State.decideFault s r) := by
  unfold State.decideFault
  try dsimp only
  repeat' first
    | with_reducible assumption | with_reducible intro _ | with_reducible apply State.logDefect_ev | with_reducible apply State.fencePair_ev
    | with_reducible apply State.fenceFor_ev | with_reducible apply State.routerFence_ev | with_reducible apply State.tileDefect_ev
    | with_reducible refine (State.fencePair_ev _ _ ?_).fst | with_reducible refine (State.fenceFor_ev _ _ _ _ ?_).fst
    | with_reducible refine EvolvesP.ite (fun _ => ?_) (fun _ => ?_) | with_reducible refine Evolves.ite (fun _ => ?_) (fun _ => ?_)
    | fail_if_no_progress with_reducible apply Evolves.lit | refine EvolvesP.of (by with_reducible assumption) ?_
    | refine EvolvesS.of (by with_reducible assumption) ?_ | with_reducible refine EvolvesS.ite (fun _ => ?_) (fun _ => ?_)
    | exact EvolvesS.none | with_reducible refine EvolvesS.put ?_ | split | with_reducible refine EvolvesP.pair ?_
theorem State.takeRecord_ev {o₀ s : State} (r : FaultRec) (hev : Evolves o₀ s) :
    Evolves o₀ (State.takeRecord s r) := by
  unfold State.takeRecord
  try dsimp only
  repeat' first
    | with_reducible assumption | with_reducible apply State.logFault_ev | with_reducible refine (State.decideFault_ev _ ?_).fst
theorem execFaultInboxDrain_ev {o₀ s : State} (hev : Evolves o₀ s) : EvolvesO o₀ (execFaultInboxDrain s) := by
  unfold execFaultInboxDrain
  refine EvolvesO.next ?_
  have h : Evolves o₀ s.nextRecord.2 := State.nextRecord_ev hev
  split
  · split
    · rename_i e; rw [e] at h; exact State.takeRecord_ev _ h
    · rename_i e; rw [e] at h; exact h
  · exact hev
theorem execPartitionRelease_ev {o₀ s : State} (p : PartId) (hev : Evolves o₀ s) :
    EvolvesO o₀ (execPartitionRelease p s) := by
  unfold execPartitionRelease
  try dsimp only
  repeat' first
    | with_reducible assumption | with_reducible intro _ | with_reducible apply State.modPart_ev | with_reducible apply State.modTile_ev
    | with_reducible apply State.forTiles_ev | refine EvolvesO.next ?_ | with_reducible refine Evolves.ite (fun _ => ?_) (fun _ => ?_)
theorem execFastPathAbandon_ev {o₀ s : State} (p : PartId) (hev : Evolves o₀ s) :
    EvolvesO o₀ (execFastPathAbandon p s) := by
  unfold execFastPathAbandon
  try dsimp only
  repeat' first
    | with_reducible assumption | with_reducible apply State.fastAbandon_ev | refine EvolvesO.next ?_
    | with_reducible refine Evolves.ite (fun _ => ?_) (fun _ => ?_)
theorem State.testPassed_ev {o₀ s : State} (t : TileId) (hev : Evolves o₀ s) :
    Evolves o₀ (State.testPassed s t) := by
  unfold State.testPassed
  try dsimp only
  repeat' first
    | with_reducible assumption | with_reducible intro _ | with_reducible apply State.modPart_ev | with_reducible apply State.logDefect_ev
    | with_reducible apply State.replan_ev | with_reducible apply State.setRows_ev | with_reducible apply State.fenceSoon_ev
    | with_reducible refine Evolves.ite (fun _ => ?_) (fun _ => ?_) | with_reducible refine Evolves.foldl _ (fun _ _ _ => ?_) ?_
    | with_reducible refine EvolvesP.foldl _ (fun _ _ _ _ => ?_) ?_ | fail_if_no_progress with_reducible apply Evolves.lit
    | refine EvolvesP.of (by with_reducible assumption) ?_ | refine EvolvesS.of (by with_reducible assumption) ?_
    | with_reducible refine EvolvesS.ite (fun _ => ?_) (fun _ => ?_) | exact EvolvesS.none | with_reducible refine EvolvesS.put ?_ | split
theorem State.testFailed_ev {o₀ s : State} (t : TileId) (b : BistRecord) (hev : Evolves o₀ s) :
    Evolves o₀ (State.testFailed s t b) := by
  unfold State.testFailed
  try dsimp only
  repeat' first
    | with_reducible assumption | with_reducible apply State.setRows_ev | with_reducible apply State.tileFault_ev
    | with_reducible apply State.tileDefect_ev | with_reducible refine (State.fenceFor_ev _ _ _ _ ?_).fst
    | with_reducible refine Evolves.ite (fun _ => ?_) (fun _ => ?_)
theorem State.testDone_ev {o₀ s : State} (t : TileId) (rs : List BistRecord) (hev : Evolves o₀ s) :
    Evolves o₀ (State.testDone s t rs) := by
  unfold State.testDone
  try dsimp only
  repeat' first
    | with_reducible assumption | with_reducible intro _ | with_reducible apply State.testFailed_ev
    | with_reducible apply State.testPassed_ev | with_reducible apply State.modTile_ev | with_reducible apply State.tileFault_ev
    | with_reducible refine Evolves.ite (fun _ => ?_) (fun _ => ?_) | with_reducible refine Evolves.foldl _ (fun _ _ _ => ?_) ?_
    | with_reducible refine EvolvesP.foldl _ (fun _ _ _ _ => ?_) ?_ | fail_if_no_progress with_reducible apply Evolves.lit
    | refine EvolvesP.of (by with_reducible assumption) ?_ | refine EvolvesS.of (by with_reducible assumption) ?_
    | with_reducible refine EvolvesS.ite (fun _ => ?_) (fun _ => ?_) | exact EvolvesS.none | with_reducible refine EvolvesS.put ?_ | split
theorem execInFieldTestDone_ev {o₀ s : State} (t : TileId) (results : List BistRecord) (hev : Evolves o₀ s) :
    EvolvesO o₀ (execInFieldTestDone t results s) := by
  unfold execInFieldTestDone
  try dsimp only
  repeat' first
    | with_reducible assumption | with_reducible apply State.testDone_ev | with_reducible refine EvolvesO.ite (fun _ => ?_) (fun _ => ?_)
    | refine EvolvesO.next ?_ | exact EvolvesO.fault _ | with_reducible refine Evolves.ite (fun _ => ?_) (fun _ => ?_)
theorem State.compactDefects_ev {o₀ s : State} (hev : Evolves o₀ s) :
    Evolves o₀ (State.compactDefects s) := by
  unfold State.compactDefects
  try dsimp only
  repeat' first
    | with_reducible assumption | fail_if_no_progress with_reducible apply Evolves.lit
theorem State.appendDefect_ev {o₀ s : State} (d : Defect) (hev : Evolves o₀ s) :
    Evolves o₀ (State.appendDefect s d) := by
  unfold State.appendDefect
  try dsimp only
  repeat' first
    | with_reducible assumption | with_reducible apply State.compactDefects_ev | with_reducible apply State.postAdmin_ev
    | with_reducible refine Evolves.ite (fun _ => ?_) (fun _ => ?_) | fail_if_no_progress with_reducible apply Evolves.lit
theorem execDefectLogAppend_ev {o₀ s : State} (hev : Evolves o₀ s) :
    EvolvesO o₀ (execDefectLogAppend s) := by
  unfold execDefectLogAppend
  try dsimp only
  repeat' first
    | with_reducible assumption | with_reducible apply State.appendDefect_ev | refine EvolvesO.next ?_
    | fail_if_no_progress with_reducible apply Evolves.lit | split
theorem State.hangFault_ev {o₀ s : State} (t : TileId) (hev : Evolves o₀ s) :
    Evolves o₀ (State.hangFault s t) := by
  unfold State.hangFault
  try dsimp only
  repeat' first
    | with_reducible assumption | with_reducible apply State.tileFault_ev | with_reducible apply State.modTile_ev
theorem execHangWindowExpiry_ev {o₀ s : State} (t : TileId) (hev : Evolves o₀ s) :
    EvolvesO o₀ (execHangWindowExpiry t s) := by
  unfold execHangWindowExpiry
  try dsimp only
  repeat' first
    | with_reducible assumption | with_reducible apply State.hangFault_ev | refine EvolvesO.next ?_ | exact EvolvesO.fault _ | split
theorem State.resetChans_ev {o₀ s : State} (p : PartId) (which : Nat → Chan → Bool) (hev : Evolves o₀ s) :
    Evolves o₀ (State.resetChans s p which) := by
  unfold State.resetChans
  try dsimp only
  repeat' first
    | with_reducible assumption | with_reducible apply State.modChans_ev
theorem State.endBindings_ev {o₀ s : State} (p : PartId) (hev : Evolves o₀ s) :
    Evolves o₀ (State.endBindings s p) := by
  unfold State.endBindings
  try dsimp only
  repeat' first
    | with_reducible assumption | with_reducible apply State.svcEnd_ev | with_reducible refine Evolves.foldl _ (fun _ _ _ => ?_) ?_
theorem State.rebeat_ev {o₀ s : State} (p : PartId) (hev : Evolves o₀ s) :
    Evolves o₀ (State.rebeat s p) := by
  unfold State.rebeat
  try dsimp only
  repeat' first
    | with_reducible assumption | with_reducible apply State.modPart_ev
theorem State.answerHeld_ev {o₀ s : State} (t : TileId) (hev : Evolves o₀ s) :
    Evolves o₀ (State.answerHeld s t) := by
  unfold State.answerHeld
  try dsimp only
  repeat' first
    | with_reducible assumption | with_reducible intro _ | with_reducible apply State.reply_ev
    | with_reducible refine Evolves.ite (fun _ => ?_) (fun _ => ?_) | with_reducible refine Evolves.foldl _ (fun _ _ _ => ?_) ?_
theorem State.unloadPart_ev {o₀ s : State} (p : PartId) (hev : Evolves o₀ s) :
    Evolves o₀ (State.unloadPart s p) := by
  unfold State.unloadPart
  try dsimp only
  repeat' first
    | with_reducible assumption | with_reducible intro _ | with_reducible apply State.modPart_ev | with_reducible apply State.answerHeld_ev
    | with_reducible apply State.rebeat_ev | with_reducible apply State.modTile_ev | with_reducible apply State.resetChans_ev
    | with_reducible apply State.forTiles_ev | with_reducible apply State.endBindings_ev
theorem State.abortApplies_ev {o₀ s : State} (p : PartId) (hev : Evolves o₀ s) :
    Evolves o₀ (State.abortApplies s p) := by
  unfold State.abortApplies
  try dsimp only
  repeat' first
    | with_reducible assumption | with_reducible apply State.modPart_ev | with_reducible apply State.answerApply_ev
    | with_reducible refine Evolves.foldl _ (fun _ _ _ => ?_) ?_
theorem State.resetFreeze_ev {o₀ s : State} (p : PartId) (cls : Byte) (hev : Evolves o₀ s) :
    Evolves o₀ (State.resetFreeze s p cls) := by
  unfold State.resetFreeze
  try dsimp only
  repeat' first
    | with_reducible assumption | with_reducible apply State.persistRollback_ev | with_reducible apply State.logHalted_ev
    | with_reducible apply State.postPart_ev | with_reducible apply State.sendHalt_ev | with_reducible apply State.freezePart_ev
    | with_reducible refine Evolves.ite (fun _ => ?_) (fun _ => ?_)
theorem State.tileLost_ev {o₀ s : State} (t : TileId) (hev : Evolves o₀ s) :
    Evolves o₀ (State.tileLost s t) := by
  unfold State.tileLost
  try dsimp only
  repeat' first
    | with_reducible assumption | with_reducible apply State.resetFreeze_ev | with_reducible apply State.resetChans_ev | split
theorem State.engineReset_ev {o₀ s : State} (p : PartId) (x : TileId × BitVec 3) (hev : Evolves o₀ s) :
    Evolves o₀ (State.engineReset p s x) := by
  unfold State.engineReset
  try dsimp only
  repeat' first
    | with_reducible assumption | with_reducible intro _ | with_reducible apply State.tileLost_ev | with_reducible apply State.clearTile_ev
    | with_reducible apply State.modTile_ev | with_reducible refine Evolves.ite (fun _ => ?_) (fun _ => ?_)
theorem State.quiesceCheck_ev {o₀ s : State} (p : PartId) (notIdle : List (TileId × BitVec 3)) (stillBusy : List (TileId × BitVec 3))
    (hev : Evolves o₀ s) :
    Evolves o₀ (State.quiesceCheck s p notIdle stillBusy) := by
  unfold State.quiesceCheck
  try dsimp only
  repeat' first
    | with_reducible assumption | with_reducible intro _ | with_reducible apply State.engineReset_ev | with_reducible apply State.modTile_ev
    | with_reducible apply State.reachJob_ev | with_reducible apply State.forTiles_ev
    | with_reducible refine Evolves.foldl _ (fun _ _ _ => ?_) ?_
theorem execQuiescenceCheck_ev {o₀ s : State} (p : PartId) (notIdle : List (TileId × BitVec 3)) (stillBusy : List (TileId × BitVec 3))
    (hev : Evolves o₀ s) :
    EvolvesO o₀ (execQuiescenceCheck p notIdle stillBusy s) := by
  unfold execQuiescenceCheck
  try dsimp only
  repeat' first
    | with_reducible assumption | with_reducible apply State.quiesceCheck_ev | refine EvolvesO.next ?_
    | with_reducible refine Evolves.ite (fun _ => ?_) (fun _ => ?_)
theorem State.resetAnswered_ev {o₀ s : State} (t : TileId) (hev : Evolves o₀ s) :
    Evolves o₀ (State.resetAnswered s t) := by
  unfold State.resetAnswered
  try dsimp only
  repeat' first
    | with_reducible assumption | with_reducible apply State.answer_ev
theorem State.unplace_ev {o₀ s : State} (t : TileId) (hev : Evolves o₀ s) :
    Evolves o₀ (State.unplace s t) := by
  unfold State.unplace
  try dsimp only
  repeat' first
    | with_reducible assumption | with_reducible intro _ | with_reducible apply State.slowPath_ev | with_reducible apply State.fenceSoon_ev
    | with_reducible apply State.leaveIdleTile_ev | with_reducible refine Evolves.ite (fun _ => ?_) (fun _ => ?_)
    | fail_if_no_progress with_reducible apply Evolves.lit | refine EvolvesP.of (by with_reducible assumption) ?_
    | refine EvolvesS.of (by with_reducible assumption) ?_ | with_reducible refine EvolvesS.ite (fun _ => ?_) (fun _ => ?_)
    | exact EvolvesS.none | with_reducible refine EvolvesS.put ?_ | split
theorem State.tileReset_ev {o₀ s : State} (t : TileId) (answers : Bool) (hev : Evolves o₀ s) :
    Evolves o₀ (State.tileReset s t answers) := by
  unfold State.tileReset
  try dsimp only
  repeat' first
    | with_reducible assumption | with_reducible apply State.tileLost_ev | with_reducible apply State.unplace_ev
    | with_reducible apply State.modTile_ev | with_reducible apply State.resetAnswered_ev
    | with_reducible refine Evolves.ite (fun _ => ?_) (fun _ => ?_)
theorem execTileReset_ev {o₀ s : State} (t : TileId) (wardAnswers : Bool) (hev : Evolves o₀ s) :
    EvolvesO o₀ (execTileReset t wardAnswers s) := by
  unfold execTileReset
  try dsimp only
  repeat' first
    | with_reducible assumption | with_reducible apply State.tileReset_ev | with_reducible refine EvolvesO.ite (fun _ => ?_) (fun _ => ?_)
    | refine EvolvesO.next ?_ | exact EvolvesO.fault _ | with_reducible refine Evolves.ite (fun _ => ?_) (fun _ => ?_)
theorem State.clusterReset_ev {o₀ s : State} (t : TileId) (answers : Bool) (hev : Evolves o₀ s) :
    Evolves o₀ (State.clusterReset s t answers) := by
  unfold State.clusterReset
  try dsimp only
  repeat' first
    | with_reducible assumption | with_reducible intro _ | with_reducible apply State.modPart_ev
    | with_reducible apply State.resetAnswered_ev | with_reducible apply State.routerFence_ev | with_reducible apply State.tileLost_ev
    | with_reducible apply State.unplace_ev | with_reducible apply State.modTile_ev | with_reducible apply State.fenceTile_ev
    | with_reducible apply State.forTiles_ev | with_reducible refine Evolves.foldl _ (fun _ _ _ => ?_) ?_
    | fail_if_no_progress with_reducible apply Evolves.lit | split
theorem execClusterReset_ev {o₀ s : State} (t : TileId) (wardAnswers : Bool) (hev : Evolves o₀ s) :
    EvolvesO o₀ (execClusterReset t wardAnswers s) := by
  unfold execClusterReset
  try dsimp only
  repeat' first
    | with_reducible assumption | with_reducible apply State.clusterReset_ev
    | with_reducible refine EvolvesO.ite (fun _ => ?_) (fun _ => ?_) | refine EvolvesO.next ?_ | exact EvolvesO.fault _
    | with_reducible refine Evolves.ite (fun _ => ?_) (fun _ => ?_)
theorem State.partHalt_ev {o₀ s : State} (p : PartId) (hev : Evolves o₀ s) :
    Evolves o₀ (State.partHalt s p) := by
  unfold State.partHalt
  try dsimp only
  repeat' first
    | with_reducible assumption | with_reducible apply State.removeLink_ev | with_reducible apply State.resetFreeze_ev
    | with_reducible apply State.sendHalt_ev | with_reducible refine Evolves.ite (fun _ => ?_) (fun _ => ?_)
    | with_reducible refine Evolves.foldl _ (fun _ _ _ => ?_) ?_
theorem State.partReset_ev {o₀ s : State} (p : PartId) (hev : Evolves o₀ s) :
    Evolves o₀ (State.partReset s p) := by
  unfold State.partReset
  try dsimp only
  repeat' first
    | with_reducible assumption | with_reducible intro _ | with_reducible apply State.modPart_ev
    | with_reducible apply State.abortApplies_ev | with_reducible apply State.unloadPart_ev | with_reducible apply State.modTile_ev
    | with_reducible apply State.answer_ev | with_reducible apply State.forTiles_ev
theorem execPartitionReset_ev {o₀ s : State} (p : PartId) (inTime : Bool) (hev : Evolves o₀ s) :
    EvolvesO o₀ (execPartitionReset p inTime s) := by
  unfold execPartitionReset
  try dsimp only
  repeat' first
    | with_reducible assumption | with_reducible apply State.modPart_ev | with_reducible apply State.partReset_ev
    | with_reducible apply State.partHalt_ev | refine EvolvesO.next ?_ | with_reducible refine Evolves.ite (fun _ => ?_) (fun _ => ?_)
    | fail_if_no_progress with_reducible apply Evolves.lit
theorem State.wiped_ev {o₀ s : State} (keep : Bool) (hev : Evolves o₀ s) : Evolves o₀ (s.wiped keep) :=
  ⟨hev.member, hev.pending, fun x => by
    have y := hev.sound x
    cases keep
    · exact ⟨rfl, rfl, rfl, rfl, rfl, rfl, rfl, rfl, Nat.zero_le _, Nat.zero_le _⟩
    · exact ⟨rfl, rfl, rfl, kwf_map (fun x : Nat × Chan => if x.2.state = chFree then x.2 else x.2.afterReset) s.channels y.channels, rfl, rfl, y.dram, rfl,
        Nat.zero_le _, y.faultLog⟩⟩
theorem State.beatNow_ev {o₀ s : State} (p : PartId) (hev : Evolves o₀ s) :
    Evolves o₀ (State.beatNow s p) := by
  unfold State.beatNow
  try dsimp only
  repeat' first
    | with_reducible assumption | with_reducible apply State.modPart_ev
theorem State.sendResets_ev {o₀ s : State} (hev : Evolves o₀ s) :
    Evolves o₀ (State.sendResets s) := by
  unfold State.sendResets
  try dsimp only
  repeat' first
    | with_reducible assumption | with_reducible intro _ | with_reducible apply State.sendCtl_ev | with_reducible apply State.sendNew_ev
    | with_reducible apply State.admitted_ev | with_reducible apply State.modLink_ev
    | with_reducible refine Evolves.ite (fun _ => ?_) (fun _ => ?_) | with_reducible refine Evolves.foldl _ (fun _ _ _ => ?_) ?_
theorem State.logStart_ev {o₀ s : State} (outcome : Nat) (reason : Nat) (detail : Nat) (hev : Evolves o₀ s) :
    Evolves o₀ (State.logStart s outcome reason detail) := by
  unfold State.logStart
  try dsimp only
  repeat' first
    | with_reducible assumption | fail_if_no_progress with_reducible apply Evolves.lit
theorem State.noteIncomplete_ev {o₀ s : State} (hev : Evolves o₀ s) :
    Evolves o₀ (State.noteIncomplete s) := by
  unfold State.noteIncomplete
  try dsimp only
  repeat' first
    | with_reducible assumption | fail_if_no_progress with_reducible apply Evolves.lit | split
theorem State.recallRecords_ev {o₀ s : State} (hev : Evolves o₀ s) :
    Evolves o₀ (State.recallRecords s) := by
  unfold State.recallRecords
  try dsimp only
  repeat' first
    | with_reducible assumption | with_reducible intro _ | with_reducible apply State.logFault_ev
    | with_reducible refine Evolves.ite (fun _ => ?_) (fun _ => ?_) | with_reducible refine Evolves.foldl _ (fun _ _ _ => ?_) ?_
theorem State.enterMinimal_ev {o₀ s : State} (reason : Nat) (detail : Nat) (hev : Evolves o₀ s) :
    Evolves o₀ (State.enterMinimal s reason detail) := by
  unfold State.enterMinimal
  try dsimp only
  repeat' first
    | with_reducible assumption | with_reducible intro _ | with_reducible apply State.logStart_ev | with_reducible apply State.wiped_ev
    | with_reducible apply State.recallRecords_ev | with_reducible refine Evolves.ite (fun _ => ?_) (fun _ => ?_)
    | fail_if_no_progress with_reducible apply Evolves.lit
theorem State.strike_ev {o₀ s : State} (stage : Nat) (deviceReset : Bool) (hev : Evolves o₀ s) :
    Evolves o₀ (State.strike s stage deviceReset) := by
  unfold State.strike
  try dsimp only
  repeat' first
    | with_reducible assumption | with_reducible apply State.logStart_ev | fail_if_no_progress with_reducible apply Evolves.lit
theorem State.loadImage_ev {o₀ s : State} (hev : Evolves o₀ s) :
    Evolves o₀ (State.loadImage s) := by
  unfold State.loadImage
  try dsimp only
  repeat' first
    | with_reducible assumption | with_reducible apply State.enterMinimal_ev | fail_if_no_progress with_reducible apply Evolves.lit | split
theorem State.thirdStrike_ev {o₀ s : State} (hev : Evolves o₀ s) :
    Evolves o₀ (State.thirdStrike s) := by
  unfold State.thirdStrike
  try dsimp only
  repeat' first
    | with_reducible assumption | with_reducible intro _ | with_reducible apply State.enterMinimal_ev
    | with_reducible refine Evolves.ite (fun _ => ?_) (fun _ => ?_) | fail_if_no_progress with_reducible apply Evolves.lit
theorem State.startAttempt_ev {o₀ s : State} (hev : Evolves o₀ s) :
    Evolves o₀ (State.startAttempt s) := by
  unfold State.startAttempt
  try dsimp only
  repeat' first
    | with_reducible assumption | with_reducible intro _ | with_reducible apply State.loadImage_ev | with_reducible apply State.strike_ev
    | with_reducible apply State.thirdStrike_ev | with_reducible apply State.noteIncomplete_ev
    | with_reducible refine Evolves.ite (fun _ => ?_) (fun _ => ?_)
theorem execStartAttempt_ev {o₀ s : State} (hev : Evolves o₀ s) :
    EvolvesO o₀ (execStartAttempt s) := by
  unfold execStartAttempt
  try dsimp only
  repeat' first
    | with_reducible assumption | with_reducible apply State.startAttempt_ev | refine EvolvesO.next ?_
    | with_reducible refine Evolves.ite (fun _ => ?_) (fun _ => ?_)
theorem State.failAttempt_ev {o₀ s : State} (reason : Nat) (detail : Nat) (hev : Evolves o₀ s) :
    Evolves o₀ (State.failAttempt s reason detail) := by
  unfold State.failAttempt
  try dsimp only
  repeat' first
    | with_reducible assumption | with_reducible apply State.wiped_ev | with_reducible apply State.logStart_ev
    | fail_if_no_progress with_reducible apply Evolves.lit
theorem execAttemptFailed_ev {o₀ s : State} (reason : Byte) (detail : U32) (hev : Evolves o₀ s) :
    EvolvesO o₀ (execAttemptFailed reason detail s) := by
  unfold execAttemptFailed
  try dsimp only
  repeat' first
    | with_reducible assumption | with_reducible apply State.failAttempt_ev | refine EvolvesO.next ?_
    | with_reducible refine Evolves.ite (fun _ => ?_) (fun _ => ?_)
theorem execStartStageTimeout_ev {o₀ s : State} (hev : Evolves o₀ s) :
    EvolvesO o₀ (execStartStageTimeout s) := by
  unfold execStartStageTimeout
  try dsimp only
  repeat' first
    | with_reducible assumption | with_reducible apply State.failAttempt_ev | refine EvolvesO.next ?_ | with_reducible apply State.reach_ev
    | with_reducible refine Evolves.ite (fun _ => ?_) (fun _ => ?_)
theorem State.bistFault_ev {o₀ s : State} (tile : Option TileId) (unit : Nat) (b : BistRecord) (hev : Evolves o₀ s) :
    Evolves o₀ (State.bistFault s tile unit b) := by
  unfold State.bistFault
  try dsimp only
  repeat' first
    | with_reducible assumption | with_reducible apply State.toInbox_ev
theorem State.conflict_ev {o₀ s : State} (kind : Byte) (wher : U64) (hev : Evolves o₀ s) :
    Evolves o₀ (State.conflict s kind wher) := by
  unfold State.conflict
  try dsimp only
  repeat' first
    | with_reducible assumption | with_reducible apply State.unitFault_ev | with_reducible apply State.logDefect_ev
    | with_reducible refine Evolves.ite (fun _ => ?_) (fun _ => ?_)
theorem State.resolveBad_ev {o₀ s : State} (kind : Byte) (wher : U64) (fails : List BistRecord) (hev : Evolves o₀ s) :
    Evolves o₀ (State.resolveBad s kind wher fails) := by
  unfold State.resolveBad
  try dsimp only
  repeat' first
    | with_reducible assumption | with_reducible intro _ | with_reducible apply State.conflict_ev
    | with_reducible refine Evolves.ite (fun _ => ?_) (fun _ => ?_)
theorem State.resolveUnit_ev {o₀ s : State} (kind : Byte) (t : TileId) (bad : Bool) (fails : List BistRecord) (hev : Evolves o₀ s) :
    EvolvesP o₀ (State.resolveUnit s kind t bad fails) := by
  unfold State.resolveUnit
  try dsimp only
  repeat' first
    | with_reducible assumption | with_reducible intro _ | with_reducible apply State.logDefect_ev | with_reducible apply State.bistFault_ev
    | with_reducible apply State.resolveBad_ev | with_reducible refine Evolves.foldl _ (fun _ _ _ => ?_) ?_ | with_reducible refine EvolvesP.ite (fun _ => ?_) (fun _ => ?_)
    | with_reducible refine Evolves.ite (fun _ => ?_) (fun _ => ?_) | fail_if_no_progress with_reducible apply Evolves.lit
    | refine EvolvesP.of (by with_reducible assumption) ?_ | refine EvolvesS.of (by with_reducible assumption) ?_
    | with_reducible refine EvolvesS.ite (fun _ => ?_) (fun _ => ?_) | exact EvolvesS.none | with_reducible refine EvolvesS.put ?_ | split
    | with_reducible refine EvolvesP.pair ?_
theorem State.retire_ev {o₀ s : State} (hds : List Nat) (why : Nat) (hev : Evolves o₀ s) :
    Evolves o₀ (State.retire s hds why) := by
  unfold State.retire
  try dsimp only
  repeat' first
    | with_reducible assumption | with_reducible refine Evolves.ite (fun _ => ?_) (fun _ => ?_)
    | fail_if_no_progress with_reducible apply Evolves.lit
theorem State.seamStage_ev {o₀ s : State} (m : SeamMeasure) (hev : Evolves o₀ s) :
    Evolves o₀ (State.seamStage s m) := by
  unfold State.seamStage
  try dsimp only
  repeat' first
    | with_reducible assumption | with_reducible apply State.logDefect_ev | with_reducible apply State.modSeam_ev
    | with_reducible apply State.retire_ev | with_reducible refine Evolves.ite (fun _ => ?_) (fun _ => ?_)
theorem State.routerStage_ev {o₀ s : State} (fails : List BistRecord) (t : TileId) (hev : Evolves o₀ s) :
    Evolves o₀ (State.routerStage fails s t) := by
  unfold State.routerStage
  try dsimp only
  repeat' first
    | with_reducible assumption | with_reducible apply State.retire_ev | with_reducible apply State.modTile_ev
    | with_reducible refine (State.resolveUnit_ev _ _ _ _ ?_).fst | with_reducible refine Evolves.ite (fun _ => ?_) (fun _ => ?_)
theorem State.meshStage_ev {o₀ s : State} (r : StageReport) (hev : Evolves o₀ s) :
    Evolves o₀ (State.meshStage s r) := by
  unfold State.meshStage
  try dsimp only
  repeat' first
    | with_reducible assumption | with_reducible intro _ | with_reducible apply State.seamStage_ev
    | with_reducible apply State.routerStage_ev | with_reducible refine Evolves.ite (fun _ => ?_) (fun _ => ?_)
    | with_reducible refine Evolves.foldl _ (fun _ _ _ => ?_) ?_ | with_reducible refine EvolvesP.foldl _ (fun _ _ _ _ => ?_) ?_
    | fail_if_no_progress with_reducible apply Evolves.lit
theorem State.stackDefect_ev {o₀ s : State} (b : BistRecord) (hev : Evolves o₀ s) :
    Evolves o₀ (State.stackDefect s b) := by
  unfold State.stackDefect
  try dsimp only
  repeat' first
    | with_reducible assumption | with_reducible intro _ | with_reducible apply State.logDefect_ev | with_reducible apply State.bistFault_ev
    | with_reducible apply State.markRow_ev | with_reducible refine Evolves.ite (fun _ => ?_) (fun _ => ?_)
    | fail_if_no_progress with_reducible apply Evolves.lit
theorem State.startRow_ev {o₀ s : State} (lost : List U64) (row : U64) (hev : Evolves o₀ s) :
    Evolves o₀ (State.startRow lost s row) := by
  unfold State.startRow
  try dsimp only
  repeat' first
    | with_reducible assumption | with_reducible apply State.logDefect_ev | with_reducible apply State.dramEvent_ev
    | with_reducible refine Evolves.ite (fun _ => ?_) (fun _ => ?_) | fail_if_no_progress with_reducible apply Evolves.lit
theorem State.fullMemory_ev {o₀ s : State} (r : StageReport) (hev : Evolves o₀ s) :
    Evolves o₀ (State.fullMemory s r) := by
  unfold State.fullMemory
  try dsimp only
  repeat' first
    | with_reducible assumption | with_reducible apply State.startRow_ev | with_reducible apply State.retire_ev
    | with_reducible apply State.stackDefect_ev | with_reducible refine Evolves.foldl _ (fun _ _ _ => ?_) ?_
    | fail_if_no_progress with_reducible apply Evolves.lit
theorem State.stackRetrained_ev {o₀ s : State} (stack : Nat) (hev : Evolves o₀ s) :
    Evolves o₀ (State.stackRetrained s stack) := by
  unfold State.stackRetrained
  try dsimp only
  repeat' first
    | with_reducible assumption | with_reducible intro _ | with_reducible apply State.postAdmin_ev
    | with_reducible refine Evolves.ite (fun _ => ?_) (fun _ => ?_) | fail_if_no_progress with_reducible apply Evolves.lit
theorem State.rebuilt_ev {o₀ s : State} (lost : List Nat) (hev : Evolves o₀ s) : Evolves o₀ (s.rebuilt lost) := by
  unfold State.rebuilt
  refine Evolves.ite (fun _ => ⟨hev.member, hev.pending, fun x => ?_⟩) fun _ => hev
  have y := hev.sound x
  exact ⟨y.tiles, y.seams, y.regions, y.channels, y.bindings, y.rows, y.dram, y.flat, y.inbox, Nat.zero_le _⟩
theorem State.memoryStage_ev {o₀ s : State} (r : StageReport) (hev : Evolves o₀ s) : Evolves o₀ (s.memoryStage r) := by
  unfold State.memoryStage
  extract_lets retain lost s1
  have h1 : Evolves o₀ s1 := by
    dsimp only [s1]
    split
    · exact State.retire_ev _ _ (Evolves.foldl _ (fun _ k h => State.stackRetrained_ev k h) (State.rebuilt_ev _ (Evolves.lit hev)))
    · exact State.fullMemory_ev _ hev
  split
  · exact h1
  · exact ⟨h1.member, h1.pending, fun x => let y := h1.sound x
      ⟨y.tiles, y.seams, rfl, y.channels, y.bindings, y.rows, rfl, y.flat, y.inbox, y.faultLog⟩⟩
theorem State.linkStage_ev {o₀ s : State} (r : StageReport) (hev : Evolves o₀ s) :
    Evolves o₀ (State.linkStage s r) := by
  unfold State.linkStage
  try dsimp only
  repeat' first
    | with_reducible assumption | with_reducible intro _ | with_reducible apply State.modPort_ev
    | with_reducible refine Evolves.ite (fun _ => ?_) (fun _ => ?_) | with_reducible refine Evolves.foldl _ (fun _ _ _ => ?_) ?_
theorem execLinkStagePortTimeout_ev {o₀ s : State} (port : PortId) (hev : Evolves o₀ s) :
    EvolvesO o₀ (execLinkStagePortTimeout port s) := by
  unfold execLinkStagePortTimeout
  try dsimp only
  repeat' first
    | with_reducible assumption | with_reducible intro _ | with_reducible apply State.reach_ev | with_reducible apply State.portDown_ev
    | with_reducible refine EvolvesO.ite (fun _ => ?_) (fun _ => ?_) | refine EvolvesO.next ?_ | exact EvolvesO.fault _
    | with_reducible refine Evolves.ite (fun _ => ?_) (fun _ => ?_)
theorem State.placeAll_ev {o₀ s : State} (hev : Evolves o₀ s) :
    Evolves o₀ (State.placeAll s) := by
  unfold State.placeAll
  try dsimp only
  repeat' first
    | with_reducible assumption | with_reducible intro _ | with_reducible apply State.retire_ev | with_reducible apply State.replan_ev
    | with_reducible apply State.setRow_ev | with_reducible refine Evolves.ite (fun _ => ?_) (fun _ => ?_)
    | with_reducible refine Evolves.foldl _ (fun _ _ _ => ?_) ?_
theorem State.markTwins_ev {o₀ s : State} (hev : Evolves o₀ s) :
    Evolves o₀ (State.markTwins s) := by
  unfold State.markTwins
  try dsimp only
  repeat' first
    | with_reducible assumption | with_reducible apply State.modTile_ev | with_reducible refine Evolves.foldl _ (fun _ _ _ => ?_) ?_
theorem State.tileStage_ev {o₀ s : State} (fails : List BistRecord) (t : TileId) (hev : Evolves o₀ s) :
    Evolves o₀ (State.tileStage fails s t) := by
  unfold State.tileStage
  try dsimp only
  repeat' first
    | with_reducible assumption | with_reducible apply State.modTile_ev | with_reducible refine (State.resolveUnit_ev _ _ _ _ ?_).fst
    | with_reducible refine Evolves.ite (fun _ => ?_) (fun _ => ?_)
theorem State.resolveLane_ev {o₀ s : State} (fails : List BistRecord) (port : PortId) (l : LaneId) (hev : Evolves o₀ s) :
    Evolves o₀ (s.resolveLane fails port l) := by
  unfold State.resolveLane
  refine Evolves.ite (fun _ => State.modPort_ev _ _ (State.resolveBad_ev _ _ _ hev)) fun _ => ?_
  exact Evolves.ite (fun _ => hev) fun _ =>
    State.laneFence_ev _ _ _ _ _ (Evolves.foldl _ (fun _ _ h => State.bistFault_ev _ _ _ h) hev)
theorem State.laneStage_ev {o₀ s : State} (r : StageReport) (hev : Evolves o₀ s) :
    Evolves o₀ (State.laneStage s r) := by
  unfold State.laneStage
  try dsimp only
  repeat' first
    | with_reducible assumption | with_reducible intro _ | with_reducible apply State.resolveLane_ev
    | with_reducible refine Evolves.ite (fun _ => ?_) (fun _ => ?_) | with_reducible refine Evolves.foldl _ (fun _ _ _ => ?_) ?_
theorem State.pintleSend_ev {o₀ s : State} (p : Packet) (hev : Evolves o₀ s) :
    Evolves o₀ (State.pintleSend s p) := by
  unfold State.pintleSend
  try dsimp only
  repeat' first
    | with_reducible assumption | with_reducible intro _ | with_reducible refine Evolves.ite (fun _ => ?_) (fun _ => ?_)
    | fail_if_no_progress with_reducible apply Evolves.lit
theorem State.pintleSends_ev {o₀ s : State} (ps : List Packet) (hev : Evolves o₀ s) :
    Evolves o₀ (State.pintleSends s ps) := by
  unfold State.pintleSends
  try dsimp only
  repeat' first
    | with_reducible assumption | with_reducible intro _ | with_reducible apply State.pintleSend_ev
    | with_reducible refine Evolves.ite (fun _ => ?_) (fun _ => ?_) | with_reducible refine Evolves.foldl _ (fun _ _ _ => ?_) ?_
theorem State.markDiag_ev {o₀ s : State} (t : TileId) (hev : Evolves o₀ s) :
    Evolves o₀ (State.markDiag s t) := by
  unfold State.markDiag
  try dsimp only
  repeat' first
    | with_reducible assumption | with_reducible intro _ | with_reducible apply State.modTile_ev
theorem State.broadcast_ev {o₀ s : State} (hev : Evolves o₀ s) :
    Evolves o₀ (State.broadcast s) := by
  unfold State.broadcast
  try dsimp only
  repeat' first
    | with_reducible assumption | with_reducible intro _ | with_reducible apply State.forTiles_ev | with_reducible apply State.markDiag_ev
    | with_reducible apply State.pintleSends_ev
theorem State.unicastLoad_ev {o₀ s : State} (t : TileId) (hev : Evolves o₀ s) :
    Evolves o₀ (State.unicastLoad s t) := by
  unfold State.unicastLoad
  try dsimp only
  repeat' first
    | with_reducible assumption | with_reducible intro _ | with_reducible apply State.markDiag_ev
    | with_reducible apply State.pintleSends_ev
theorem execImage_ev {o₀ s : State} (t : TileId) (pkt : Packet) (hev : Evolves o₀ s) :
    EvolvesO o₀ (execImage t pkt s) := by
  unfold execImage
  try dsimp only
  repeat' first
    | with_reducible assumption | with_reducible intro _ | with_reducible apply State.reply_ev | with_reducible apply State.modTile_ev
    | with_reducible apply State.atArrival_ev | with_reducible refine EvolvesO.ite (fun _ => ?_) (fun _ => ?_) | refine EvolvesO.next ?_
    | exact EvolvesO.fault _ | with_reducible refine Evolves.ite (fun _ => ?_) (fun _ => ?_)
theorem State.nextRound_ev {o₀ s : State} (t : TileId) (all_ : Bool) (hev : Evolves o₀ s) :
    Evolves o₀ (State.nextRound s t all_) := by
  unfold State.nextRound
  try dsimp only
  repeat' first
    | with_reducible assumption | with_reducible intro _ | with_reducible apply State.enter_ev | with_reducible apply State.modTile_ev
    | with_reducible refine Evolves.ite (fun _ => ?_) (fun _ => ?_)
theorem execBroadcastDeadline_ev {o₀ s : State} (t : TileId) (hev : Evolves o₀ s) :
    EvolvesO o₀ (execBroadcastDeadline t s) := by
  unfold execBroadcastDeadline
  try dsimp only
  repeat' first
    | with_reducible assumption | with_reducible apply State.nextRound_ev | with_reducible apply State.reach_ev
    | with_reducible refine EvolvesO.ite (fun _ => ?_) (fun _ => ?_) | refine EvolvesO.next ?_ | exact EvolvesO.fault _
    | with_reducible refine Evolves.ite (fun _ => ?_) (fun _ => ?_)
theorem execResendRoundTimeout_ev {o₀ s : State} (t : TileId) (hev : Evolves o₀ s) :
    EvolvesO o₀ (execResendRoundTimeout t s) := by
  unfold execResendRoundTimeout
  try dsimp only
  repeat' first
    | with_reducible assumption | with_reducible apply State.nextRound_ev | with_reducible apply State.reach_ev
    | with_reducible refine EvolvesO.ite (fun _ => ?_) (fun _ => ?_) | refine EvolvesO.next ?_ | exact EvolvesO.fault _
    | with_reducible refine Evolves.ite (fun _ => ?_) (fun _ => ?_)
theorem State.resendTaken_ev {o₀ s : State} (t : TileId) (k : NetPkt) (hev : Evolves o₀ s) :
    Evolves o₀ (State.resendTaken s t k) := by
  unfold State.resendTaken
  try dsimp only
  repeat' first
    | with_reducible assumption | with_reducible apply State.pintleSends_ev | with_reducible apply State.lift_ev
theorem execResend_ev {o₀ s : State} (t : TileId) (hev : Evolves o₀ s) :
    EvolvesO o₀ (execResend t s) := by
  unfold execResend
  try dsimp only
  repeat' first
    | with_reducible assumption | with_reducible apply State.resendTaken_ev | refine EvolvesO.next ?_ | exact EvolvesO.fault _ | split
theorem execImageDigestCheck_ev {o₀ s : State} (t : TileId) (hev : Evolves o₀ s) :
    EvolvesO o₀ (execImageDigestCheck t s) := by
  unfold execImageDigestCheck
  try dsimp only
  repeat' first
    | with_reducible assumption | with_reducible apply State.nextRound_ev | with_reducible apply State.modTile_ev
    | with_reducible refine EvolvesO.ite (fun _ => ?_) (fun _ => ?_) | refine EvolvesO.next ?_ | exact EvolvesO.fault _
    | with_reducible refine Evolves.ite (fun _ => ?_) (fun _ => ?_)
theorem State.replace_ev {o₀ s : State} (bad : List TileId) (hev : Evolves o₀ s) :
    Evolves o₀ (State.replace s bad) := by
  unfold State.replace
  try dsimp only
  repeat' first
    | with_reducible assumption | with_reducible apply State.unicastLoad_ev | with_reducible apply State.markTwins_ev
    | with_reducible apply State.placeAll_ev | with_reducible apply State.modTile_ev
    | with_reducible refine Evolves.foldl _ (fun _ _ _ => ?_) ?_
theorem State.orNoHalfDie_ev {o₀ s : State} (hev : Evolves o₀ s) :
    Evolves o₀ (State.orNoHalfDie s) := by
  unfold State.orNoHalfDie
  try dsimp only
  repeat' first
    | with_reducible assumption | with_reducible apply State.failAttempt_ev | with_reducible refine Evolves.ite (fun _ => ?_) (fun _ => ?_)
theorem State.incomplete_ev {o₀ s : State} (t : TileId) (hev : Evolves o₀ s) :
    Evolves o₀ (State.incomplete s t) := by
  unfold State.incomplete
  try dsimp only
  repeat' first
    | with_reducible assumption | with_reducible apply State.unitFault_ev
theorem State.statusCheck_ev {o₀ s : State} (hev : Evolves o₀ s) :
    Evolves o₀ (State.statusCheck s) := by
  unfold State.statusCheck
  try dsimp only
  repeat' first
    | with_reducible assumption | with_reducible apply State.orNoHalfDie_ev | with_reducible apply State.incomplete_ev
    | with_reducible apply State.modTile_ev | with_reducible apply State.replace_ev
    | with_reducible refine Evolves.ite (fun _ => ?_) (fun _ => ?_) | with_reducible refine Evolves.foldl _ (fun _ _ _ => ?_) ?_
    | fail_if_no_progress with_reducible apply Evolves.lit
theorem execLoadStatusCheck_ev {o₀ s : State} (hev : Evolves o₀ s) :
    EvolvesO o₀ (execLoadStatusCheck s) := by
  unfold execLoadStatusCheck
  try dsimp only
  repeat' first
    | with_reducible assumption | with_reducible intro _ | with_reducible apply State.statusCheck_ev
    | with_reducible apply State.unitOverdue_ev | with_reducible apply State.reach_ev
    | with_reducible refine EvolvesO.ite (fun _ => ?_) (fun _ => ?_) | refine EvolvesO.next ?_ | exact EvolvesO.fault _
    | with_reducible refine Evolves.ite (fun _ => ?_) (fun _ => ?_)
theorem State.knownAnswer_ev {o₀ s : State} (failed : List (TileId × U64 × U32)) (hev : Evolves o₀ s) :
    Evolves o₀ (State.knownAnswer s failed) := by
  unfold State.knownAnswer
  try dsimp only
  repeat' first
    | with_reducible assumption | with_reducible apply State.orNoHalfDie_ev | with_reducible apply State.logDefect_ev
    | with_reducible apply State.toInbox_ev | with_reducible apply State.modTile_ev | with_reducible apply State.replace_ev
    | with_reducible refine Evolves.ite (fun _ => ?_) (fun _ => ?_) | with_reducible refine Evolves.foldl _ (fun _ _ _ => ?_) ?_
    | fail_if_no_progress with_reducible apply Evolves.lit
theorem execKnownAnswerDone_ev {o₀ s : State} (failed : List (TileId × U64 × U32)) (hev : Evolves o₀ s) :
    EvolvesO o₀ (execKnownAnswerDone failed s) := by
  unfold execKnownAnswerDone
  try dsimp only
  repeat' first
    | with_reducible assumption | with_reducible apply State.knownAnswer_ev | refine EvolvesO.next ?_
    | with_reducible refine Evolves.ite (fun _ => ?_) (fun _ => ?_)
theorem State.raiseSvn_ev {o₀ s : State} (hev : Evolves o₀ s) :
    Evolves o₀ (State.raiseSvn s) := by
  unfold State.raiseSvn
  try dsimp only
  repeat' first
    | with_reducible assumption | fail_if_no_progress with_reducible apply Evolves.lit | split
theorem State.becomeReady_ev {o₀ s : State} (hev : Evolves o₀ s) :
    Evolves o₀ (State.becomeReady s) := by
  unfold State.becomeReady
  try dsimp only
  repeat' first
    | with_reducible assumption | with_reducible apply State.logStart_ev | with_reducible apply State.postEvent_ev
    | with_reducible apply State.raiseSvn_ev | with_reducible apply State.answer_ev
    | with_reducible refine Evolves.foldl _ (fun _ _ _ => ?_) ?_ | fail_if_no_progress with_reducible apply Evolves.lit
theorem execReady_ev {o₀ s : State} (hev : Evolves o₀ s) :
    EvolvesO o₀ (execReady s) := by
  unfold execReady
  try dsimp only
  repeat' first
    | with_reducible assumption | with_reducible apply State.becomeReady_ev | refine EvolvesO.next ?_
    | with_reducible refine Evolves.ite (fun _ => ?_) (fun _ => ?_)
theorem State.ioDieBist_ev {o₀ s : State} (b : BistRecord) (hev : Evolves o₀ s) :
    Evolves o₀ (State.ioDieBist s b) := by
  unfold State.ioDieBist
  try dsimp only
  repeat' first
    | with_reducible assumption | with_reducible intro _ | with_reducible apply State.bistFault_ev | with_reducible apply State.portDown_ev
    | with_reducible apply State.modPort_ev | with_reducible refine Evolves.ite (fun _ => ?_) (fun _ => ?_)
    | fail_if_no_progress with_reducible apply Evolves.lit | refine EvolvesP.of (by with_reducible assumption) ?_
    | refine EvolvesS.of (by with_reducible assumption) ?_ | with_reducible refine EvolvesS.ite (fun _ => ?_) (fun _ => ?_)
    | exact EvolvesS.none | with_reducible refine EvolvesS.put ?_ | split
theorem State.otherBist_ev {o₀ s : State} (r : StageReport) (hev : Evolves o₀ s) :
    Evolves o₀ (State.otherBist s r) := by
  unfold State.otherBist
  try dsimp only
  repeat' first
    | with_reducible assumption | with_reducible intro _ | with_reducible apply State.bistFault_ev | with_reducible apply State.ioDieBist_ev
    | with_reducible refine Evolves.ite (fun _ => ?_) (fun _ => ?_) | with_reducible refine Evolves.foldl _ (fun _ _ _ => ?_) ?_
theorem State.stageWork_ev {o₀ s0 : State} (r : StageReport) (hev : Evolves o₀ s0) :
    Evolves o₀ (State.stageWork s0 r) := by
  unfold State.stageWork
  try dsimp only
  repeat' first
    | with_reducible assumption | with_reducible intro _ | with_reducible apply State.placeAll_ev | with_reducible apply State.meshStage_ev
    | with_reducible apply State.markTwins_ev | with_reducible apply State.laneStage_ev | with_reducible apply State.tileStage_ev
    | with_reducible apply State.linkStage_ev | with_reducible apply State.otherBist_ev | with_reducible apply State.recallRecords_ev
    | with_reducible apply State.broadcast_ev | with_reducible apply State.memoryStage_ev | with_reducible apply State.postAdmin_ev
    | with_reducible refine Evolves.ite (fun _ => ?_) (fun _ => ?_) | with_reducible refine Evolves.foldl _ (fun _ _ _ => ?_) ?_
    | with_reducible refine EvolvesP.foldl _ (fun _ _ _ _ => ?_) ?_ | fail_if_no_progress with_reducible apply Evolves.lit
    | refine EvolvesP.of (by with_reducible assumption) ?_ | refine EvolvesS.of (by with_reducible assumption) ?_
    | with_reducible refine EvolvesS.ite (fun _ => ?_) (fun _ => ?_) | exact EvolvesS.none | with_reducible refine EvolvesS.put ?_ | split
theorem State.stageDone_ev {o₀ s : State} (r : StageReport) (hev : Evolves o₀ s) :
    Evolves o₀ (State.stageDone s r) := by
  unfold State.stageDone
  try dsimp only
  repeat' first
    | with_reducible assumption | with_reducible intro _ | with_reducible apply State.stageWork_ev
    | with_reducible apply State.orNoHalfDie_ev | with_reducible apply State.failAttempt_ev | with_reducible apply State.otherBist_ev
    | with_reducible refine Evolves.ite (fun _ => ?_) (fun _ => ?_) | fail_if_no_progress with_reducible apply Evolves.lit
    | refine EvolvesP.of (by with_reducible assumption) ?_ | refine EvolvesS.of (by with_reducible assumption) ?_
    | with_reducible refine EvolvesS.ite (fun _ => ?_) (fun _ => ?_) | exact EvolvesS.none | with_reducible refine EvolvesS.put ?_ | split
theorem execStartStageComplete_ev {o₀ s : State} (r : StageReport) (hev : Evolves o₀ s) :
    EvolvesO o₀ (execStartStageComplete r s) := by
  unfold execStartStageComplete
  try dsimp only
  repeat' first
    | with_reducible assumption | with_reducible apply State.stageDone_ev | refine EvolvesO.next ?_
    | with_reducible refine Evolves.ite (fun _ => ?_) (fun _ => ?_)
theorem State.rerun_ev {o₀ s : State} (deviceReset : Bool) (throughRom : Bool) (hev : Evolves o₀ s) :
    Evolves o₀ (State.rerun s deviceReset throughRom) := by
  unfold State.rerun
  try dsimp only
  repeat' first
    | with_reducible assumption | with_reducible intro _ | with_reducible apply State.loadImage_ev | with_reducible apply State.strike_ev
    | with_reducible apply State.thirdStrike_ev | with_reducible refine Evolves.ite (fun _ => ?_) (fun _ => ?_)
    | fail_if_no_progress with_reducible apply Evolves.lit
theorem State.abandonAttempt_ev {o₀ s : State} (hev : Evolves o₀ s) : Evolves o₀ s.abandonAttempt :=
  Evolves.ite (fun _ => Evolves.lit (State.logStart_ev 2 0 0 hev)) fun _ => hev
theorem State.deviceReset_ev {o₀ s : State} (hev : Evolves o₀ s) :
    Evolves o₀ (State.deviceReset s) := by
  unfold State.deviceReset
  try dsimp only
  repeat' first
    | with_reducible assumption | with_reducible apply State.rerun_ev | with_reducible apply State.abandonAttempt_ev
    | with_reducible apply State.sendResets_ev | with_reducible apply State.wiped_ev
    | with_reducible refine Evolves.ite (fun _ => ?_) (fun _ => ?_) | fail_if_no_progress with_reducible apply Evolves.lit
theorem execDeviceReset_ev {o₀ s : State} (hev : Evolves o₀ s) :
    EvolvesO o₀ (execDeviceReset s) := by
  unfold execDeviceReset
  try dsimp only
  repeat' first
    | with_reducible assumption | with_reducible intro _ | with_reducible apply State.deviceReset_ev
    | with_reducible refine EvolvesO.ite (fun _ => ?_) (fun _ => ?_) | refine EvolvesO.next ?_ | exact EvolvesO.fault _
    | with_reducible refine Evolves.ite (fun _ => ?_) (fun _ => ?_) | fail_if_no_progress with_reducible apply Evolves.lit
theorem State.powerCycle_ev {o₀ s : State} (hev : Evolves o₀ s) :
    Evolves o₀ (State.powerCycle s) := by
  unfold State.powerCycle
  try dsimp only
  repeat' first
    | with_reducible assumption | with_reducible apply State.wiped_ev | with_reducible apply State.sendResets_ev
    | with_reducible apply State.abandonAttempt_ev | with_reducible refine Evolves.ite (fun _ => ?_) (fun _ => ?_)
    | fail_if_no_progress with_reducible apply Evolves.lit
theorem State.saveCause_ev {o₀ s : State} (hev : Evolves o₀ s) :
    Evolves o₀ (State.saveCause s) := by
  unfold State.saveCause
  try dsimp only
  repeat' first
    | with_reducible assumption | fail_if_no_progress with_reducible apply Evolves.lit | split
theorem execPowerCycleRequest_ev {o₀ s : State} (hev : Evolves o₀ s) :
    EvolvesO o₀ (execPowerCycleRequest s) := by
  unfold execPowerCycleRequest
  try dsimp only
  repeat' first
    | with_reducible assumption | with_reducible intro _ | with_reducible apply State.saveCause_ev
    | with_reducible apply State.powerCycle_ev | with_reducible apply State.reach_ev
    | with_reducible refine EvolvesO.ite (fun _ => ?_) (fun _ => ?_) | refine EvolvesO.next ?_ | exact EvolvesO.fault _
    | with_reducible refine Evolves.ite (fun _ => ?_) (fun _ => ?_) | fail_if_no_progress with_reducible apply Evolves.lit
    | refine EvolvesP.of (by with_reducible assumption) ?_ | refine EvolvesS.of (by with_reducible assumption) ?_
    | with_reducible refine EvolvesS.ite (fun _ => ?_) (fun _ => ?_) | exact EvolvesS.none | with_reducible refine EvolvesS.put ?_ | split
theorem execWatchdogExpiry_ev {o₀ s : State} (hev : Evolves o₀ s) :
    EvolvesO o₀ (execWatchdogExpiry s) := by
  unfold execWatchdogExpiry
  try dsimp only
  repeat' first
    | with_reducible assumption | with_reducible apply State.failAttempt_ev | with_reducible apply State.logFault_ev
    | with_reducible apply State.postAdmin_ev | with_reducible apply State.powerCycle_ev | refine EvolvesO.next ?_
    | with_reducible refine Evolves.ite (fun _ => ?_) (fun _ => ?_) | fail_if_no_progress with_reducible apply Evolves.lit

end Sys2Proof.Machine
end

