-- ==== Sys2Proof/Laws/EvolvesCommands.lean ====
section
/-!
SUPPORT. The operations and meanings of host functions and the commands of partitions, jobs and links evolve the state: one lemma for each.
-/

set_option linter.unusedTactic false
set_option linter.unreachableTactic false

namespace Sys2Proof.Machine

theorem State.dropReads_ev {o₀ s : State} (f : FnId) (hev : Evolves o₀ s) :
    Evolves o₀ (State.dropReads s f) := by
  unfold State.dropReads
  try dsimp only
  repeat' first
    | with_reducible assumption | with_reducible apply State.modFn_ev | with_reducible apply State.refuseAt_ev
    | with_reducible refine Evolves.foldl _ (fun _ _ _ => ?_) ?_
theorem State.hushFn_ev {o₀ s : State} (f : FnId) (hev : Evolves o₀ s) :
    Evolves o₀ (State.hushFn s f) := by
  unfold State.hushFn
  try dsimp only
  repeat' first
    | with_reducible assumption | fail_if_no_progress with_reducible apply Evolves.lit
theorem State.hostReset_ev {o₀ s : State} (f : FnId) (hev : Evolves o₀ s) :
    Evolves o₀ (State.hostReset s f) := by
  unfold State.hostReset
  try dsimp only
  repeat' first
    | with_reducible assumption | with_reducible apply State.hushFn_ev | with_reducible apply State.modFn_ev
    | with_reducible apply State.dropReads_ev
theorem State.fnGone_ev {o₀ s : State} (f : FnId) (hev : Evolves o₀ s) :
    Evolves o₀ (State.fnGone s f) := by
  unfold State.fnGone
  try dsimp only
  repeat' first
    | with_reducible assumption | with_reducible apply State.hostReset_ev | with_reducible apply State.modFn_ev
theorem execPerst_ev {o₀ s : State} (portB : Bool) (hev : Evolves o₀ s) :
    EvolvesO o₀ (execPerst portB s) := by
  unfold execPerst
  try dsimp only
  repeat' first
    | with_reducible assumption | with_reducible apply State.fnGone_ev | refine EvolvesO.next ?_
    | with_reducible refine Evolves.foldl _ (fun _ _ _ => ?_) ?_
theorem execFlr_ev {o₀ s : State} (f : FnId) (hev : Evolves o₀ s) :
    EvolvesO o₀ (execFlr f s) := by
  unfold execFlr
  try dsimp only
  repeat' first
    | with_reducible assumption | with_reducible apply State.hostReset_ev | refine EvolvesO.next ?_
theorem execPcieLinkDown_ev {o₀ s : State} (f : FnId) (hev : Evolves o₀ s) :
    EvolvesO o₀ (execPcieLinkDown f s) := by
  unfold execPcieLinkDown
  try dsimp only
  repeat' first
    | with_reducible assumption | with_reducible apply State.fnGone_ev | refine EvolvesO.next ?_
theorem State.minimalUp_ev {o₀ s : State} (f : FnId) (hev : Evolves o₀ s) :
    Evolves o₀ (State.minimalUp s f) := by
  unfold State.minimalUp
  try dsimp only
  repeat' first
    | with_reducible assumption | with_reducible refine Evolves.ite (fun _ => ?_) (fun _ => ?_)
    | fail_if_no_progress with_reducible apply Evolves.lit
theorem execPcieLinkUp_ev {o₀ s : State} (f : FnId) (gen : Byte) (hev : Evolves o₀ s) :
    EvolvesO o₀ (execPcieLinkUp f gen s) := by
  unfold execPcieLinkUp
  try dsimp only
  repeat' first
    | with_reducible assumption | with_reducible apply State.minimalUp_ev | with_reducible apply State.modFn_ev | refine EvolvesO.next ?_
    | with_reducible refine Evolves.ite (fun _ => ?_) (fun _ => ?_)
theorem execHostReadCompletion_ev {o₀ s : State} (f : FnId) (tag : U16) (initiator : U32) (data : Bytes) (hev : Evolves o₀ s) :
    EvolvesO o₀ (execHostReadCompletion f tag initiator data s) := by
  unfold execHostReadCompletion
  try dsimp only
  repeat' first
    | with_reducible assumption | with_reducible apply State.modFn_ev | with_reducible refine (State.place_ev _ _ _ ?_).fst
    | refine EvolvesO.next ?_ | split
theorem State.hostEcc_ev {o₀ s : State} (p : PartId) (ecc : Ecc) (hev : Evolves o₀ s) :
    Evolves o₀ (State.hostEcc s p ecc) := by
  unfold State.hostEcc
  try dsimp only
  repeat' first
    | with_reducible assumption | with_reducible intro _ | with_reducible apply State.clearPart_ev
    | with_reducible apply State.takeRecord_ev | with_reducible apply State.markRow_ev | with_reducible apply State.countFault_ev
    | with_reducible apply State.correctDram_ev | with_reducible refine Evolves.ite (fun _ => ?_) (fun _ => ?_)
    | fail_if_no_progress with_reducible apply Evolves.lit | refine EvolvesP.of (by with_reducible assumption) ?_
    | refine EvolvesS.of (by with_reducible assumption) ?_ | with_reducible refine EvolvesS.ite (fun _ => ?_) (fun _ => ?_)
    | exact EvolvesS.none | with_reducible refine EvolvesS.put ?_ | split
theorem execBar2Read_ev {o₀ s : State} (f : FnId) (offset : BitVec 36) (len : BitVec 13) (ecc : Ecc) (hev : Evolves o₀ s) :
    EvolvesO o₀ (execBar2Read f offset len ecc s) := by
  unfold execBar2Read
  try dsimp only
  repeat' first
    | with_reducible assumption | with_reducible apply State.upsetDram_ev | with_reducible apply State.hostEcc_ev | with_reducible apply State.modFn_ev | refine EvolvesO.next ?_
    | split
theorem execBar2Write_ev {o₀ s : State} (f : FnId) (offset : BitVec 36) (data : Bytes) (hev : Evolves o₀ s) :
    EvolvesO o₀ (execBar2Write f offset data s) := by
  unfold execBar2Write
  try dsimp only
  repeat' first
    | with_reducible assumption | with_reducible apply State.mirror_ev | with_reducible apply State.modFn_ev
    | with_reducible apply State.partWrite_ev | refine EvolvesO.next ?_ | with_reducible refine Evolves.foldl _ (fun _ _ _ => ?_) ?_ | split
theorem State.onBar0_ev {o₀ s : State} (f : FnId) (g : HostFn → HostFn) (hev : Evolves o₀ s) :
    Evolves o₀ (State.onBar0 s f g) := by
  unfold State.onBar0
  try dsimp only
  repeat' first
    | with_reducible assumption | with_reducible intro _ | with_reducible apply State.modFn_ev
    | with_reducible refine Evolves.ite (fun _ => ?_) (fun _ => ?_)
theorem execA2CtlWrite_ev {o₀ s : State} (f : FnId) (v : U32) (hev : Evolves o₀ s) :
    EvolvesO o₀ (execA2CtlWrite f v s) := by
  unfold execA2CtlWrite
  try dsimp only
  repeat' first
    | with_reducible assumption | with_reducible intro _ | with_reducible apply State.onBar0_ev
    | with_reducible refine EvolvesO.ite (fun _ => ?_) (fun _ => ?_) | refine EvolvesO.next ?_
theorem execEvCtlWrite_ev {o₀ s : State} (f : FnId) (v : U32) (hev : Evolves o₀ s) :
    EvolvesO o₀ (execEvCtlWrite f v s) := by
  unfold execEvCtlWrite
  try dsimp only
  repeat' first
    | with_reducible assumption | with_reducible intro _ | with_reducible apply State.onBar0_ev
    | with_reducible refine EvolvesO.ite (fun _ => ?_) (fun _ => ?_) | refine EvolvesO.next ?_
theorem execEvTailWrite_ev {o₀ s : State} (f : FnId) (v : U32) (hev : Evolves o₀ s) :
    EvolvesO o₀ (execEvTailWrite f v s) := by
  unfold execEvTailWrite
  try dsimp only
  repeat' first
    | with_reducible assumption | with_reducible intro _ | with_reducible apply State.onBar0_ev
    | with_reducible refine EvolvesO.ite (fun _ => ?_) (fun _ => ?_) | refine EvolvesO.next ?_
theorem execCountLoRead_ev {o₀ s : State} (f : FnId) (hev : Evolves o₀ s) :
    EvolvesO o₀ (execCountLoRead f s) := by
  unfold execCountLoRead
  try dsimp only
  repeat' first
    | with_reducible assumption | with_reducible intro _ | with_reducible apply State.onBar0_ev
    | with_reducible refine EvolvesO.ite (fun _ => ?_) (fun _ => ?_) | refine EvolvesO.next ?_
theorem State.bar0Write_ev {o₀ s : State} (f : FnId) (offset : Nat) (v : U32) (hev : Evolves o₀ s) :
    Evolves o₀ (State.bar0Write s f offset v) := by
  unfold State.bar0Write
  try dsimp only
  repeat' first
    | with_reducible assumption | with_reducible apply State.modFn_ev | with_reducible apply State.modMbox_ev
    | with_reducible refine Evolves.ite (fun _ => ?_) (fun _ => ?_)
theorem execRegisterWrite_ev {o₀ s : State} (f : FnId) (offset : BitVec 22) (v : U32) (hev : Evolves o₀ s) :
    EvolvesO o₀ (execRegisterWrite f offset v s) := by
  unfold execRegisterWrite
  try dsimp only
  repeat' first
    | with_reducible assumption | with_reducible intro _ | with_reducible apply State.bar0Write_ev
    | with_reducible refine EvolvesO.ite (fun _ => ?_) (fun _ => ?_) | refine EvolvesO.next ?_ | exact EvolvesO.fault _
    | with_reducible refine Evolves.ite (fun _ => ?_) (fun _ => ?_)
theorem execMsixModerationExpiry_ev {o₀ s : State} (f : FnId) (hev : Evolves o₀ s) :
    EvolvesO o₀ (execMsixModerationExpiry f s) := by
  unfold execMsixModerationExpiry
  try dsimp only
  repeat' first
    | with_reducible assumption | with_reducible apply State.modFn_ev | with_reducible apply State.reach_ev | refine EvolvesO.next ?_
    | split
theorem execTelemetryRewrite_ev {o₀ s : State} (hev : Evolves o₀ s) :
    EvolvesO o₀ (execTelemetryRewrite s) := by
  unfold execTelemetryRewrite
  try dsimp only
  repeat' first
    | with_reducible assumption | with_reducible apply State.modFn_ev | refine EvolvesO.next ?_
    | with_reducible refine Evolves.ite (fun _ => ?_) (fun _ => ?_) | with_reducible refine Evolves.foldl _ (fun _ _ _ => ?_) ?_
    | fail_if_no_progress with_reducible apply Evolves.lit
theorem State.no_ev {o₀ s : State} (status : Nat) (hev : Evolves o₀ s) :
    EvolvesP o₀ (State.no s status) := by
  unfold State.no
  try dsimp only
  repeat' first
    | with_reducible assumption | with_reducible refine EvolvesP.pair ?_
theorem State.bad_ev {o₀ s : State} (reason : Nat) (cls : Nat) (hev : Evolves o₀ s) :
    EvolvesP o₀ (State.bad s reason cls) := by
  unfold State.bad
  try dsimp only
  repeat' first
    | with_reducible assumption | with_reducible refine EvolvesP.pair ?_
theorem State.yes_ev {o₀ s : State} (body : Bytes) (hev : Evolves o₀ s) :
    EvolvesP o₀ (State.yes s body) := by
  unfold State.yes
  try dsimp only
  repeat' first
    | with_reducible assumption | with_reducible refine EvolvesP.pair ?_
theorem State.later_ev {o₀ s : State} (hev : Evolves o₀ s) :
    EvolvesP o₀ (State.later s) := by
  unfold State.later
  try dsimp only
  repeat' first
    | with_reducible assumption | with_reducible refine EvolvesP.pair ?_
theorem Ans.write_ev {o₀ : State} {a : Ans} (r : Req) (h : EvolvesP o₀ a) : Evolves o₀ (Ans.write a r) := by
  unfold Ans.write
  split
  · exact State.respond_ev _ _ _ _ h.fst
  · exact h.fst
theorem State.accept_ev {o₀ s : State} (r : Req) (hev : Evolves o₀ s) :
    Evolves o₀ (State.accept s r) := by
  unfold State.accept
  try dsimp only
  repeat' first
    | with_reducible assumption | with_reducible apply State.modMbox_ev
theorem State.runCommand_ev {o₀ s : State} (op : Nat) (r : Req) (run : State → Req → Ans)
    (h_run : ∀ s' x1', Evolves o₀ s' → EvolvesP o₀ (run s' x1')) (hev : Evolves o₀ s) :
    Evolves o₀ (State.runCommand s op r run) := by
  unfold State.runCommand
  try dsimp only
  repeat' first
    | with_reducible assumption | with_reducible apply h_run | with_reducible apply State.respond_ev | with_reducible apply Ans.write_ev
    | split
theorem State.command_ev {o₀ s : State} (op : Nat) (r : Req) (run : State → Req → Ans)
    (h_run : ∀ s' x1', Evolves o₀ s' → EvolvesP o₀ (run s' x1')) (hev : Evolves o₀ s) :
    Evolves o₀ (State.command s op r run) := by
  unfold State.command
  try dsimp only
  repeat' first
    | with_reducible assumption | with_reducible apply State.runCommand_ev | with_reducible apply State.accept_ev
    | fail_if_no_progress with_reducible apply Evolves.lit | split
theorem onPart_ev {o₀ s : State} (run : State → Req → PartId → Ans) (r : Req)
    (h_run : ∀ s' x1' x2', Evolves o₀ s' → EvolvesP o₀ (run s' x1' x2')) (hev : Evolves o₀ s) :
    EvolvesP o₀ (onPart run s r) := by
  unfold onPart
  try dsimp only
  repeat' first
    | with_reducible assumption | with_reducible apply h_run | with_reducible apply State.bad_ev | split
theorem onPort_ev {o₀ s : State} (run : State → Req → PortId → Ans) (r : Req)
    (h_run : ∀ s' x1' x2', Evolves o₀ s' → EvolvesP o₀ (run s' x1' x2')) (hev : Evolves o₀ s) :
    EvolvesP o₀ (onPort run s r) := by
  unfold onPort
  try dsimp only
  repeat' first
    | with_reducible assumption | with_reducible apply h_run | with_reducible apply State.bad_ev | split
theorem State.stageChange_ev {o₀ s : State} (op : Nat) (r : Req) (p : PartId) (hev : Evolves o₀ s) :
    EvolvesP o₀ (State.stageChange s op r p) := by
  unfold State.stageChange
  try dsimp only
  repeat' first
    | with_reducible assumption | with_reducible apply State.modPart_ev | with_reducible apply State.no_ev
    | with_reducible apply State.yes_ev | with_reducible refine EvolvesP.ite (fun _ => ?_) (fun _ => ?_)
theorem State.applyDirect_ev {o₀ s : State} (op : Nat) (r : Req) (p : PartId) (hev : Evolves o₀ s) :
    EvolvesP o₀ (State.applyDirect s op r p) := by
  unfold State.applyDirect
  try dsimp only
  repeat' first
    | with_reducible assumption | with_reducible apply State.modPart_ev | with_reducible apply State.later_ev
    | with_reducible apply State.bad_ev | with_reducible refine EvolvesP.ite (fun _ => ?_) (fun _ => ?_)
theorem State.staged_ev {o₀ s : State} (op : Nat) (r : Req) (p : PartId) (refused : Option (Nat × Nat)) (hev : Evolves o₀ s) :
    EvolvesP o₀ (State.staged s op r p refused) := by
  unfold State.staged
  try dsimp only
  repeat' first
    | with_reducible assumption | with_reducible apply State.no_ev | with_reducible apply State.stageChange_ev
    | with_reducible apply State.applyDirect_ev | split | with_reducible refine EvolvesP.pair ?_
theorem State.noteMismatch_ev {o₀ s : State} (p : PartId) (d : Nat) (port : Nat) (hev : Evolves o₀ s) :
    Evolves o₀ (State.noteMismatch s p d port) := by
  unfold State.noteMismatch
  try dsimp only
  repeat' first
    | with_reducible assumption | with_reducible apply State.unitFault_ev | with_reducible refine Evolves.ite (fun _ => ?_) (fun _ => ?_)
theorem State.manifestLoad_ev {o₀ s : State} (r : Req) (p : PartId) (hev : Evolves o₀ s) :
    EvolvesP o₀ (State.manifestLoad s r p) := by
  unfold State.manifestLoad
  try dsimp only
  repeat' first
    | with_reducible assumption | with_reducible intro _ | with_reducible apply State.modPart_ev
    | with_reducible apply State.noteMismatch_ev | with_reducible apply State.bad_ev | with_reducible apply State.yes_ev
    | with_reducible apply State.no_ev | with_reducible apply State.pintleRead_ev | with_reducible refine (State.bad_ev _ _ ?_).fst
    | with_reducible refine (State.yes_ev _ ?_).fst | with_reducible refine (State.no_ev _ ?_).fst
    | with_reducible refine EvolvesP.ite (fun _ => ?_) (fun _ => ?_) | with_reducible refine Evolves.ite (fun _ => ?_) (fun _ => ?_)
    | fail_if_no_progress with_reducible apply Evolves.lit | refine EvolvesP.of (by with_reducible assumption) ?_
    | refine EvolvesS.of (by with_reducible assumption) ?_ | with_reducible refine EvolvesS.ite (fun _ => ?_) (fun _ => ?_)
    | exact EvolvesS.none | with_reducible refine EvolvesS.put ?_ | split | with_reducible refine EvolvesP.pair ?_
theorem State.loadWindows_ev {o₀ s : State} (p : PartId) (t : TileId) (hev : Evolves o₀ s) :
    Evolves o₀ (State.loadWindows s p t) := by
  unfold State.loadWindows
  try dsimp only
  repeat' first
    | with_reducible assumption | with_reducible intro _ | with_reducible apply State.modTile_ev
theorem State.openLoaded_ev {o₀ s : State} (p : PartId) (hev : Evolves o₀ s) :
    Evolves o₀ (State.openLoaded s p) := by
  unfold State.openLoaded
  try dsimp only
  repeat' first
    | with_reducible assumption | with_reducible intro _ | with_reducible apply State.modChan_ev | with_reducible apply State.forTiles_ev
    | with_reducible apply State.loadWindows_ev | with_reducible refine Evolves.ite (fun _ => ?_) (fun _ => ?_)
    | with_reducible refine Evolves.foldl _ (fun _ _ _ => ?_) ?_ | with_reducible refine EvolvesP.foldl _ (fun _ _ _ _ => ?_) ?_
    | fail_if_no_progress with_reducible apply Evolves.lit
theorem State.takeSet_ev {o₀ s : State} (p : PartId) (a : Nat) (k : Nat) (bs : Bytes) (hev : Evolves o₀ s) :
    Evolves o₀ (State.takeSet s p a k bs) := by
  unfold State.takeSet
  try dsimp only
  repeat' first
    | with_reducible assumption | with_reducible intro _ | with_reducible apply State.modPart_ev | with_reducible apply State.loadTables_ev
    | with_reducible apply State.openLoaded_ev | with_reducible apply State.modTile_ev | with_reducible apply State.drop_ev
    | with_reducible apply State.forTiles_ev | with_reducible refine Evolves.ite (fun _ => ?_) (fun _ => ?_)
    | with_reducible refine Evolves.foldl _ (fun _ _ _ => ?_) ?_
theorem State.progLoad_ev {o₀ s : State} (r : Req) (p : PartId) (hev : Evolves o₀ s) :
    EvolvesP o₀ (State.progLoad s r p) := by
  unfold State.progLoad
  try dsimp only
  repeat' first
    | with_reducible assumption | with_reducible intro _ | with_reducible apply State.noteMismatch_ev | with_reducible apply State.bad_ev
    | with_reducible apply State.yes_ev | with_reducible apply State.takeSet_ev | with_reducible apply State.no_ev
    | with_reducible apply State.pintleRead_ev | with_reducible refine (State.bad_ev _ _ ?_).fst
    | with_reducible refine (State.yes_ev _ ?_).fst | with_reducible refine (State.no_ev _ ?_).fst
    | with_reducible refine EvolvesP.ite (fun _ => ?_) (fun _ => ?_) | with_reducible refine Evolves.ite (fun _ => ?_) (fun _ => ?_)
    | fail_if_no_progress with_reducible apply Evolves.lit | refine EvolvesP.of (by with_reducible assumption) ?_
    | refine EvolvesS.of (by with_reducible assumption) ?_ | with_reducible refine EvolvesS.ite (fun _ => ?_) (fun _ => ?_)
    | exact EvolvesS.none | with_reducible refine EvolvesS.put ?_ | split | with_reducible refine EvolvesP.pair ?_
theorem State.progUnload_ev {o₀ s : State} (_x1 : Req) (p : PartId) (hev : Evolves o₀ s) :
    EvolvesP o₀ (State.progUnload s _x1 p) := by
  unfold State.progUnload
  try dsimp only
  repeat' first
    | with_reducible assumption | with_reducible apply State.no_ev | with_reducible apply State.yes_ev
    | with_reducible apply State.unloadPart_ev | with_reducible refine EvolvesP.ite (fun _ => ?_) (fun _ => ?_)
theorem execProgLoad_ev {o₀ s : State} (r : Req) (hev : Evolves o₀ s) :
    EvolvesO o₀ (execProgLoad r s) := by
  unfold execProgLoad
  try dsimp only
  repeat' first
    | with_reducible assumption | with_reducible intro _ | with_reducible apply State.progLoad_ev | with_reducible apply State.command_ev
    | with_reducible apply onPart_ev | refine EvolvesO.next ?_
theorem execProgUnload_ev {o₀ s : State} (r : Req) (hev : Evolves o₀ s) :
    EvolvesO o₀ (execProgUnload r s) := by
  unfold execProgUnload
  try dsimp only
  repeat' first
    | with_reducible assumption | with_reducible intro _ | with_reducible apply State.progUnload_ev | with_reducible apply State.command_ev
    | with_reducible apply onPart_ev | refine EvolvesO.next ?_
theorem execManifestLoad_ev {o₀ s : State} (r : Req) (hev : Evolves o₀ s) :
    EvolvesO o₀ (execManifestLoad r s) := by
  unfold execManifestLoad
  try dsimp only
  repeat' first
    | with_reducible assumption | with_reducible intro _ | with_reducible apply State.manifestLoad_ev
    | with_reducible apply State.command_ev | with_reducible apply onPart_ev | refine EvolvesO.next ?_
theorem State.scan_ev {o₀ s : State} (r : Req) (p : PartId) (hev : Evolves o₀ s) :
    EvolvesP o₀ (State.scan s r p) := by
  unfold State.scan
  try dsimp only
  repeat' first
    | with_reducible assumption | with_reducible intro _ | with_reducible apply State.yes_ev | with_reducible apply State.scanOutTo_ev
    | with_reducible apply State.no_ev | with_reducible apply State.await_ev | with_reducible apply State.bad_ev
    | with_reducible apply State.later_ev | with_reducible refine (State.yes_ev _ ?_).fst | with_reducible refine (State.no_ev _ ?_).fst
    | with_reducible refine (State.bad_ev _ _ ?_).fst | with_reducible refine (State.later_ev ?_).fst
    | with_reducible refine EvolvesP.ite (fun _ => ?_) (fun _ => ?_) | with_reducible refine Evolves.ite (fun _ => ?_) (fun _ => ?_)
    | fail_if_no_progress with_reducible apply Evolves.lit | refine EvolvesP.of (by with_reducible assumption) ?_
    | refine EvolvesS.of (by with_reducible assumption) ?_ | with_reducible refine EvolvesS.ite (fun _ => ?_) (fun _ => ?_)
    | exact EvolvesS.none | with_reducible refine EvolvesS.put ?_ | split
theorem execScan_ev {o₀ s : State} (r : Req) (hev : Evolves o₀ s) :
    EvolvesO o₀ (execScan r s) := by
  unfold execScan
  try dsimp only
  repeat' first
    | with_reducible assumption | with_reducible intro _ | with_reducible apply State.scan_ev | with_reducible apply State.command_ev
    | with_reducible apply onPart_ev | refine EvolvesO.next ?_
theorem State.identify_ev {o₀ s : State} (_x1 : Req) (hev : Evolves o₀ s) :
    EvolvesP o₀ (State.identify s _x1) := by
  unfold State.identify
  try dsimp only
  repeat' first
    | with_reducible assumption | with_reducible apply State.yes_ev
theorem State.setBifurcation_ev {o₀ s : State} (r : Req) (hev : Evolves o₀ s) :
    EvolvesP o₀ (State.setBifurcation s r) := by
  unfold State.setBifurcation
  try dsimp only
  repeat' first
    | with_reducible assumption | with_reducible apply State.no_ev | with_reducible apply State.yes_ev | with_reducible apply State.bad_ev
    | with_reducible refine EvolvesP.ite (fun _ => ?_) (fun _ => ?_) | fail_if_no_progress with_reducible apply Evolves.lit
theorem State.replaceHds_ev {o₀ s : State} (hds : List Nat) (hev : Evolves o₀ s) :
    Evolves o₀ (State.replaceHds s hds) := by
  unfold State.replaceHds
  try dsimp only
  repeat' first
    | with_reducible assumption | with_reducible intro _ | with_reducible apply State.replan_ev | with_reducible apply State.modTile_ev
    | with_reducible apply State.forTiles_ev
theorem State.pairRows_ev {o₀ s : State} (hd : Nat) (hev : Evolves o₀ s) :
    Evolves o₀ (State.pairRows s hd) := by
  unfold State.pairRows
  try dsimp only
  repeat' first
    | with_reducible assumption | with_reducible apply State.setRows_ev | with_reducible refine Evolves.ite (fun _ => ?_) (fun _ => ?_)
    | with_reducible refine Evolves.foldl _ (fun _ _ _ => ?_) ?_
theorem State.zeroHds_ev {o₀ s : State} (hds : List Nat) (hev : Evolves o₀ s) : Evolves o₀ (s.zeroHds hds) := by
  unfold State.zeroHds
  extract_lets s1
  have h1 : Evolves o₀ s1 := ⟨hev.member, hev.pending, fun x => let y := hev.sound x
    ⟨y.tiles, y.seams, y.regions, y.channels, y.bindings, y.rows, wf_filter _ _ _ y.dram, y.flat, y.inbox, y.faultLog⟩⟩
  exact State.forTiles_ev _ _ (fun _ _ h => State.modTile_ev _ _ h) h1
theorem State.partCreate_ev {o₀ s : State} (r : Req) (hev : Evolves o₀ s) :
    EvolvesP o₀ (State.partCreate s r) := by
  unfold State.partCreate
  try dsimp only
  repeat' first
    | with_reducible assumption | with_reducible apply State.replaceHds_ev | with_reducible apply State.yes_ev
    | with_reducible apply State.rebeat_ev | with_reducible apply State.zeroHds_ev | with_reducible apply State.pairRows_ev
    | with_reducible apply State.setPart_ev | with_reducible refine Evolves.foldl _ (fun _ _ _ => ?_) ?_ | split
    | with_reducible refine EvolvesP.pair ?_
theorem State.zeroChans_ev {o₀ s : State} (first count : Nat) (hev : Evolves o₀ s) : Evolves o₀ (s.zeroChans first count) :=
  ⟨hev.member, hev.pending, fun x => let y := hev.sound x
    ⟨y.tiles, y.seams, y.regions, kwf_filter _ _ y.channels, y.bindings, y.rows, y.dram, y.flat, y.inbox, y.faultLog⟩⟩
theorem State.freePort_ev {o₀ s : State} (i : PortId) (hev : Evolves o₀ s) :
    Evolves o₀ (State.freePort s i) := by
  unfold State.freePort
  try dsimp only
  repeat' first
    | with_reducible assumption | with_reducible apply State.removeLink_ev | with_reducible apply State.modPort_ev
    | with_reducible refine Evolves.foldl _ (fun _ _ _ => ?_) ?_
theorem State.partDestroy_ev {o₀ s : State} (r : Req) (p : PartId) (hev : Evolves o₀ s) : EvolvesP o₀ (s.partDestroy r p) := by
  unfold State.partDestroy
  extract_lets q mine s0 s1 s2 s3
  with_reducible refine EvolvesP.ite (fun _ => State.no_ev _ hev) (fun _ => ?_)
  have h2 : Evolves o₀ s2 := State.forTiles_ev _ _ (fun _ _ h => State.modTile_ev _ _ h)
    (Evolves.foldl _ (fun _ _ h => State.freePort_ev _ h) (State.zeroChans_ev _ _ (State.boundaryFences_ev _ hev)))
  have h3 : Evolves o₀ s3 := ⟨h2.member, h2.pending, fun x => by
    have y := h2.sound x
    exact ⟨y.tiles, y.seams, y.regions, y.channels, kwf_filter _ _ y.bindings, y.rows, y.dram,
      by simp only [s3, y.flat], y.inbox, y.faultLog⟩⟩
  exact State.yes_ev _ (State.replaceHds_ev _ (State.setPart_ev _ _ h3))
theorem State.partQuery_ev {o₀ s : State} (_x1 : Req) (p : PartId) (hev : Evolves o₀ s) :
    EvolvesP o₀ (State.partQuery s _x1 p) := by
  unfold State.partQuery
  try dsimp only
  repeat' first
    | with_reducible assumption | with_reducible apply State.yes_ev
theorem State.partParams_ev {o₀ s : State} (r : Req) (p : PartId) (hev : Evolves o₀ s) :
    EvolvesP o₀ (State.partParams s r p) := by
  unfold State.partParams
  try dsimp only
  repeat' first
    | with_reducible assumption | with_reducible apply State.staged_ev
theorem State.regionState_ev {o₀ s : State} (r : Req) (p : PartId) (hev : Evolves o₀ s) :
    EvolvesP o₀ (State.regionState s r p) := by
  unfold State.regionState
  try dsimp only
  repeat' first
    | with_reducible assumption | with_reducible apply State.staged_ev
theorem State.bankPower_ev {o₀ s : State} (r : Req) (p : PartId) (hev : Evolves o₀ s) :
    EvolvesP o₀ (State.bankPower s r p) := by
  unfold State.bankPower
  try dsimp only
  repeat' first
    | with_reducible assumption | with_reducible apply State.staged_ev
theorem State.rowRepair_ev {o₀ s : State} (_x1 : Req) (p : PartId) (hev : Evolves o₀ s) :
    EvolvesP o₀ (State.rowRepair s _x1 p) := by
  unfold State.rowRepair
  try dsimp only
  repeat' first
    | with_reducible assumption | with_reducible apply State.no_ev | with_reducible apply State.yes_ev
    | with_reducible apply State.repairRow_ev | with_reducible refine EvolvesP.ite (fun _ => ?_) (fun _ => ?_)
    | with_reducible refine Evolves.foldl _ (fun _ _ _ => ?_) ?_
theorem State.channelRange_ev {o₀ s : State} (r : Req) (p : PartId) (hev : Evolves o₀ s) :
    EvolvesP o₀ (State.channelRange s r p) := by
  unfold State.channelRange
  try dsimp only
  repeat' first
    | with_reducible assumption | with_reducible apply State.modPart_ev | with_reducible apply State.no_ev
    | with_reducible apply State.zeroChans_ev | with_reducible apply State.yes_ev | with_reducible apply State.bad_ev
    | with_reducible refine EvolvesP.ite (fun _ => ?_) (fun _ => ?_)
theorem State.flatCommand_ev {o₀ s : State} (r : Req) (p : PartId) (hev : Evolves o₀ s) :
    EvolvesP o₀ (State.flatCommand s r p) := by
  unfold State.flatCommand
  try dsimp only
  repeat' first
    | with_reducible assumption | with_reducible apply State.staged_ev
theorem State.windowRead_ev {o₀ s : State} (r : Req) (p : PartId) (hev : Evolves o₀ s) :
    EvolvesP o₀ (State.windowRead s r p) := by
  unfold State.windowRead
  try dsimp only
  repeat' first
    | with_reducible assumption | with_reducible apply State.yes_ev | with_reducible apply State.bad_ev | split
theorem execIdentify_ev {o₀ s : State} (r : Req) (hev : Evolves o₀ s) :
    EvolvesO o₀ (execIdentify r s) := by
  unfold execIdentify
  try dsimp only
  repeat' first
    | with_reducible assumption | with_reducible apply State.identify_ev | with_reducible apply State.command_ev | refine EvolvesO.next ?_
theorem execSetBifurcation_ev {o₀ s : State} (r : Req) (hev : Evolves o₀ s) :
    EvolvesO o₀ (execSetBifurcation r s) := by
  unfold execSetBifurcation
  try dsimp only
  repeat' first
    | with_reducible assumption | with_reducible apply State.setBifurcation_ev | with_reducible apply State.command_ev
    | refine EvolvesO.next ?_
theorem execPartCreate_ev {o₀ s : State} (r : Req) (hev : Evolves o₀ s) :
    EvolvesO o₀ (execPartCreate r s) := by
  unfold execPartCreate
  try dsimp only
  repeat' first
    | with_reducible assumption | with_reducible apply State.command_ev | with_reducible apply State.partCreate_ev | refine EvolvesO.next ?_
theorem execPartDestroy_ev {o₀ s : State} (r : Req) (hev : Evolves o₀ s) :
    EvolvesO o₀ (execPartDestroy r s) := by
  unfold execPartDestroy
  try dsimp only
  repeat' first
    | with_reducible assumption | with_reducible intro _ | with_reducible apply State.partDestroy_ev | with_reducible apply State.command_ev
    | with_reducible apply onPart_ev | refine EvolvesO.next ?_
theorem execPartQuery_ev {o₀ s : State} (r : Req) (hev : Evolves o₀ s) :
    EvolvesO o₀ (execPartQuery r s) := by
  unfold execPartQuery
  try dsimp only
  repeat' first
    | with_reducible assumption | with_reducible intro _ | with_reducible apply State.command_ev | with_reducible apply onPart_ev
    | with_reducible apply State.partQuery_ev | refine EvolvesO.next ?_
theorem execPartParams_ev {o₀ s : State} (r : Req) (hev : Evolves o₀ s) :
    EvolvesO o₀ (execPartParams r s) := by
  unfold execPartParams
  try dsimp only
  repeat' first
    | with_reducible assumption | with_reducible intro _ | with_reducible apply State.partParams_ev | with_reducible apply State.command_ev
    | with_reducible apply onPart_ev | refine EvolvesO.next ?_
theorem execRegionState_ev {o₀ s : State} (r : Req) (hev : Evolves o₀ s) :
    EvolvesO o₀ (execRegionState r s) := by
  unfold execRegionState
  try dsimp only
  repeat' first
    | with_reducible assumption | with_reducible intro _ | with_reducible apply State.regionState_ev | with_reducible apply State.command_ev
    | with_reducible apply onPart_ev | refine EvolvesO.next ?_
theorem execBankPower_ev {o₀ s : State} (r : Req) (hev : Evolves o₀ s) :
    EvolvesO o₀ (execBankPower r s) := by
  unfold execBankPower
  try dsimp only
  repeat' first
    | with_reducible assumption | with_reducible intro _ | with_reducible apply State.bankPower_ev | with_reducible apply State.command_ev
    | with_reducible apply onPart_ev | refine EvolvesO.next ?_
theorem execRowRepair_ev {o₀ s : State} (r : Req) (hev : Evolves o₀ s) :
    EvolvesO o₀ (execRowRepair r s) := by
  unfold execRowRepair
  try dsimp only
  repeat' first
    | with_reducible assumption | with_reducible intro _ | with_reducible apply State.rowRepair_ev | with_reducible apply State.command_ev
    | with_reducible apply onPart_ev | refine EvolvesO.next ?_
theorem execChannelRange_ev {o₀ s : State} (r : Req) (hev : Evolves o₀ s) :
    EvolvesO o₀ (execChannelRange r s) := by
  unfold execChannelRange
  try dsimp only
  repeat' first
    | with_reducible assumption | with_reducible intro _ | with_reducible apply State.channelRange_ev
    | with_reducible apply State.command_ev | with_reducible apply onPart_ev | refine EvolvesO.next ?_
theorem execFlatSet_ev {o₀ s : State} (r : Req) (hev : Evolves o₀ s) :
    EvolvesO o₀ (execFlatSet r s) := by
  unfold execFlatSet
  try dsimp only
  repeat' first
    | with_reducible assumption | with_reducible intro _ | with_reducible apply State.flatCommand_ev | with_reducible apply State.command_ev
    | with_reducible apply onPart_ev | refine EvolvesO.next ?_
theorem execWindowRead_ev {o₀ s : State} (r : Req) (hev : Evolves o₀ s) :
    EvolvesO o₀ (execWindowRead r s) := by
  unfold execWindowRead
  try dsimp only
  repeat' first
    | with_reducible assumption | with_reducible intro _ | with_reducible apply State.windowRead_ev | with_reducible apply State.command_ev
    | with_reducible apply onPart_ev | refine EvolvesO.next ?_
theorem State.jobStart_ev {o₀ s : State} (r : Req) (p : PartId) (hev : Evolves o₀ s) :
    EvolvesP o₀ (State.jobStart s r p) := by
  unfold State.jobStart
  try dsimp only
  repeat' first
    | with_reducible assumption | with_reducible apply State.staged_ev
theorem State.jobDrain_ev {o₀ s : State} (r : Req) (p : PartId) (hev : Evolves o₀ s) :
    EvolvesP o₀ (State.jobDrain s r p) := by
  unfold State.jobDrain
  try dsimp only
  repeat' first
    | with_reducible assumption | with_reducible apply State.modPart_ev | with_reducible apply State.no_ev
    | with_reducible apply State.later_ev | with_reducible apply State.await_ev
    | with_reducible refine EvolvesP.ite (fun _ => ?_) (fun _ => ?_)
theorem State.jobAbandon_ev {o₀ s : State} (r : Req) (p : PartId) (hev : Evolves o₀ s) :
    EvolvesP o₀ (State.jobAbandon s r p) := by
  unfold State.jobAbandon
  try dsimp only
  repeat' first
    | with_reducible assumption | with_reducible apply State.modPart_ev | with_reducible apply State.no_ev
    | with_reducible apply State.later_ev | with_reducible apply State.await_ev
    | with_reducible refine EvolvesP.ite (fun _ => ?_) (fun _ => ?_)
theorem State.jobResumeCmd_ev {o₀ s : State} (r : Req) (p : PartId) (hev : Evolves o₀ s) :
    EvolvesP o₀ (State.jobResumeCmd s r p) := by
  unfold State.jobResumeCmd
  try dsimp only
  repeat' first
    | with_reducible assumption | with_reducible apply State.staged_ev
theorem State.dlistCommand_ev {o₀ s : State} (r : Req) (p : PartId) (hev : Evolves o₀ s) :
    EvolvesP o₀ (State.dlistCommand s r p) := by
  unfold State.dlistCommand
  try dsimp only
  repeat' first
    | with_reducible assumption | with_reducible apply State.staged_ev
theorem State.applyPending_ev {o₀ s : State} (r : Req) (p : PartId) (hev : Evolves o₀ s) :
    EvolvesP o₀ (State.applyPending s r p) := by
  unfold State.applyPending
  try dsimp only
  repeat' first
    | with_reducible assumption | with_reducible apply State.modPart_ev | with_reducible apply State.no_ev
    | with_reducible apply State.later_ev | with_reducible apply State.bad_ev
    | with_reducible refine EvolvesP.ite (fun _ => ?_) (fun _ => ?_)
theorem State.applyCommand_ev {o₀ s : State} (r : Req) (p : PartId) (hev : Evolves o₀ s) :
    EvolvesP o₀ (State.applyCommand s r p) := by
  unfold State.applyCommand
  try dsimp only
  repeat' first
    | with_reducible assumption | with_reducible apply State.modPart_ev | with_reducible apply State.applyPending_ev
    | with_reducible apply State.no_ev | with_reducible apply State.yes_ev | split
theorem State.stageCancel_ev {o₀ s : State} (_x1 : Req) (p : PartId) (hev : Evolves o₀ s) :
    EvolvesP o₀ (State.stageCancel s _x1 p) := by
  unfold State.stageCancel
  try dsimp only
  repeat' first
    | with_reducible assumption | with_reducible apply State.no_ev | with_reducible apply State.yes_ev
    | with_reducible apply State.modPart_ev | with_reducible refine EvolvesP.ite (fun _ => ?_) (fun _ => ?_)
theorem State.stageRead_ev {o₀ s : State} (_x1 : Req) (p : PartId) (hev : Evolves o₀ s) :
    EvolvesP o₀ (State.stageRead s _x1 p) := by
  unfold State.stageRead
  try dsimp only
  repeat' first
    | with_reducible assumption | with_reducible apply State.yes_ev
theorem State.clearSeamDefects_ev {o₀ s : State} (id : Nat) (hev : Evolves o₀ s) :
    Evolves o₀ (State.clearSeamDefects s id) := by
  unfold State.clearSeamDefects
  try dsimp only
  repeat' first
    | with_reducible assumption | with_reducible intro _ | with_reducible apply State.logDefect_ev
    | with_reducible refine Evolves.ite (fun _ => ?_) (fun _ => ?_) | with_reducible refine Evolves.foldl _ (fun _ _ _ => ?_) ?_
theorem State.seamReset_ev {o₀ s : State} (r : Req) (hev : Evolves o₀ s) :
    EvolvesP o₀ (State.seamReset s r) := by
  unfold State.seamReset
  try dsimp only
  repeat' first
    | with_reducible assumption | with_reducible intro _ | with_reducible apply State.modSeam_ev | with_reducible apply State.bad_ev
    | with_reducible apply State.yes_ev | with_reducible apply State.clearSeamDefects_ev | with_reducible apply State.no_ev
    | with_reducible refine (State.bad_ev _ _ ?_).fst | with_reducible refine (State.yes_ev _ ?_).fst
    | with_reducible refine (State.no_ev _ ?_).fst | with_reducible refine EvolvesP.ite (fun _ => ?_) (fun _ => ?_)
    | with_reducible refine Evolves.ite (fun _ => ?_) (fun _ => ?_) | fail_if_no_progress with_reducible apply Evolves.lit
theorem State.timeOffset_ev {o₀ s : State} (r : Req) (p : PartId) (hev : Evolves o₀ s) :
    EvolvesP o₀ (State.timeOffset s r p) := by
  unfold State.timeOffset
  try dsimp only
  repeat' first
    | with_reducible assumption | with_reducible apply State.beatNow_ev | with_reducible apply State.modPart_ev
    | with_reducible apply State.no_ev | with_reducible apply State.yes_ev | with_reducible refine EvolvesP.ite (fun _ => ?_) (fun _ => ?_)
theorem State.tsync_ev {o₀ s : State} (r : Req) (hev : Evolves o₀ s) :
    EvolvesP o₀ (State.tsync s r) := by
  unfold State.tsync
  try dsimp only
  repeat' first
    | with_reducible assumption | with_reducible apply State.yes_ev | with_reducible apply State.bad_ev
    | with_reducible refine EvolvesP.ite (fun _ => ?_) (fun _ => ?_) | fail_if_no_progress with_reducible apply Evolves.lit
theorem State.shadowCommand_ev {o₀ s : State} (r : Req) (p : PartId) (hev : Evolves o₀ s) :
    EvolvesP o₀ (State.shadowCommand s r p) := by
  unfold State.shadowCommand
  try dsimp only
  repeat' first
    | with_reducible assumption | with_reducible apply State.staged_ev
theorem State.shadowStopCmd_ev {o₀ s : State} (r : Req) (p : PartId) (hev : Evolves o₀ s) :
    EvolvesP o₀ (State.shadowStopCmd s r p) := by
  unfold State.shadowStopCmd
  try dsimp only
  repeat' first
    | with_reducible assumption | with_reducible apply State.staged_ev
theorem State.shadowRead_ev {o₀ s : State} (_x1 : Req) (p : PartId) (hev : Evolves o₀ s) :
    EvolvesP o₀ (State.shadowRead s _x1 p) := by
  unfold State.shadowRead
  try dsimp only
  repeat' first
    | with_reducible assumption | with_reducible apply State.yes_ev | split
theorem State.promoteCommand_ev {o₀ s : State} (r : Req) (p : PartId) (hev : Evolves o₀ s) :
    EvolvesP o₀ (State.promoteCommand s r p) := by
  unfold State.promoteCommand
  try dsimp only
  repeat' first
    | with_reducible assumption | with_reducible apply State.staged_ev
theorem State.insertCommand_ev {o₀ s : State} (r : Req) (p : PartId) (hev : Evolves o₀ s) :
    EvolvesP o₀ (State.insertCommand s r p) := by
  unfold State.insertCommand
  try dsimp only
  repeat' first
    | with_reducible assumption | with_reducible apply State.staged_ev
theorem execJobStart_ev {o₀ s : State} (r : Req) (hev : Evolves o₀ s) :
    EvolvesO o₀ (execJobStart r s) := by
  unfold execJobStart
  try dsimp only
  repeat' first
    | with_reducible assumption | with_reducible intro _ | with_reducible apply State.jobStart_ev | with_reducible apply State.command_ev
    | with_reducible apply onPart_ev | refine EvolvesO.next ?_
theorem execJobDrain_ev {o₀ s : State} (r : Req) (hev : Evolves o₀ s) :
    EvolvesO o₀ (execJobDrain r s) := by
  unfold execJobDrain
  try dsimp only
  repeat' first
    | with_reducible assumption | with_reducible intro _ | with_reducible apply State.jobDrain_ev | with_reducible apply State.command_ev
    | with_reducible apply onPart_ev | refine EvolvesO.next ?_
theorem execJobAbandon_ev {o₀ s : State} (r : Req) (hev : Evolves o₀ s) :
    EvolvesO o₀ (execJobAbandon r s) := by
  unfold execJobAbandon
  try dsimp only
  repeat' first
    | with_reducible assumption | with_reducible intro _ | with_reducible apply State.jobAbandon_ev | with_reducible apply State.command_ev
    | with_reducible apply onPart_ev | refine EvolvesO.next ?_
theorem execJobResume_ev {o₀ s : State} (r : Req) (hev : Evolves o₀ s) :
    EvolvesO o₀ (execJobResume r s) := by
  unfold execJobResume
  try dsimp only
  repeat' first
    | with_reducible assumption | with_reducible intro _ | with_reducible apply State.jobResumeCmd_ev
    | with_reducible apply State.command_ev | with_reducible apply onPart_ev | refine EvolvesO.next ?_
theorem execDlistSet_ev {o₀ s : State} (r : Req) (hev : Evolves o₀ s) :
    EvolvesO o₀ (execDlistSet r s) := by
  unfold execDlistSet
  try dsimp only
  repeat' first
    | with_reducible assumption | with_reducible intro _ | with_reducible apply State.dlistCommand_ev
    | with_reducible apply State.command_ev | with_reducible apply onPart_ev | refine EvolvesO.next ?_
theorem execApply_ev {o₀ s : State} (r : Req) (hev : Evolves o₀ s) :
    EvolvesO o₀ (execApply r s) := by
  unfold execApply
  try dsimp only
  repeat' first
    | with_reducible assumption | with_reducible intro _ | with_reducible apply State.command_ev
    | with_reducible apply State.applyCommand_ev | with_reducible apply onPart_ev | refine EvolvesO.next ?_
theorem execStageCancel_ev {o₀ s : State} (r : Req) (hev : Evolves o₀ s) :
    EvolvesO o₀ (execStageCancel r s) := by
  unfold execStageCancel
  try dsimp only
  repeat' first
    | with_reducible assumption | with_reducible intro _ | with_reducible apply State.stageCancel_ev | with_reducible apply State.command_ev
    | with_reducible apply onPart_ev | refine EvolvesO.next ?_
theorem execStageRead_ev {o₀ s : State} (r : Req) (hev : Evolves o₀ s) :
    EvolvesO o₀ (execStageRead r s) := by
  unfold execStageRead
  try dsimp only
  repeat' first
    | with_reducible assumption | with_reducible intro _ | with_reducible apply State.stageRead_ev | with_reducible apply State.command_ev
    | with_reducible apply onPart_ev | refine EvolvesO.next ?_
theorem execSeamReset_ev {o₀ s : State} (r : Req) (hev : Evolves o₀ s) :
    EvolvesO o₀ (execSeamReset r s) := by
  unfold execSeamReset
  try dsimp only
  repeat' first
    | with_reducible assumption | with_reducible apply State.seamReset_ev | with_reducible apply State.command_ev | refine EvolvesO.next ?_
theorem execTimeOffset_ev {o₀ s : State} (r : Req) (hev : Evolves o₀ s) :
    EvolvesO o₀ (execTimeOffset r s) := by
  unfold execTimeOffset
  try dsimp only
  repeat' first
    | with_reducible assumption | with_reducible intro _ | with_reducible apply State.timeOffset_ev | with_reducible apply State.command_ev
    | with_reducible apply onPart_ev | refine EvolvesO.next ?_
theorem execTsync_ev {o₀ s : State} (r : Req) (hev : Evolves o₀ s) :
    EvolvesO o₀ (execTsync r s) := by
  unfold execTsync
  try dsimp only
  repeat' first
    | with_reducible assumption | with_reducible apply State.tsync_ev | with_reducible apply State.command_ev | refine EvolvesO.next ?_
theorem execShadowSet_ev {o₀ s : State} (r : Req) (hev : Evolves o₀ s) :
    EvolvesO o₀ (execShadowSet r s) := by
  unfold execShadowSet
  try dsimp only
  repeat' first
    | with_reducible assumption | with_reducible intro _ | with_reducible apply State.shadowCommand_ev
    | with_reducible apply State.command_ev | with_reducible apply onPart_ev | refine EvolvesO.next ?_
theorem execShadowStop_ev {o₀ s : State} (r : Req) (hev : Evolves o₀ s) :
    EvolvesO o₀ (execShadowStop r s) := by
  unfold execShadowStop
  try dsimp only
  repeat' first
    | with_reducible assumption | with_reducible intro _ | with_reducible apply State.shadowStopCmd_ev
    | with_reducible apply State.command_ev | with_reducible apply onPart_ev | refine EvolvesO.next ?_
theorem execShadowRead_ev {o₀ s : State} (r : Req) (hev : Evolves o₀ s) :
    EvolvesO o₀ (execShadowRead r s) := by
  unfold execShadowRead
  try dsimp only
  repeat' first
    | with_reducible assumption | with_reducible intro _ | with_reducible apply State.command_ev | with_reducible apply onPart_ev
    | with_reducible apply State.shadowRead_ev | refine EvolvesO.next ?_
theorem execPromote_ev {o₀ s : State} (r : Req) (hev : Evolves o₀ s) :
    EvolvesO o₀ (execPromote r s) := by
  unfold execPromote
  try dsimp only
  repeat' first
    | with_reducible assumption | with_reducible intro _ | with_reducible apply State.command_ev
    | with_reducible apply State.promoteCommand_ev | with_reducible apply onPart_ev | refine EvolvesO.next ?_
theorem execInsert_ev {o₀ s : State} (r : Req) (hev : Evolves o₀ s) :
    EvolvesO o₀ (execInsert r s) := by
  unfold execInsert
  try dsimp only
  repeat' first
    | with_reducible assumption | with_reducible intro _ | with_reducible apply State.insertCommand_ev
    | with_reducible apply State.command_ev | with_reducible apply onPart_ev | refine EvolvesO.next ?_
theorem State.portMode_ev {o₀ s : State} (r : Req) (i : PortId) (hev : Evolves o₀ s) :
    EvolvesP o₀ (State.portMode s r i) := by
  unfold State.portMode
  try dsimp only
  repeat' first
    | with_reducible assumption | with_reducible apply State.linksDown_ev | with_reducible apply State.no_ev
    | with_reducible apply State.yes_ev | with_reducible apply State.later_ev | with_reducible apply State.await_ev
    | with_reducible apply State.modPort_ev | with_reducible apply State.bad_ev
    | with_reducible refine EvolvesP.ite (fun _ => ?_) (fun _ => ?_)
theorem State.assignPort_ev {o₀ s : State} (i : PortId) (p : Option PartId) (hev : Evolves o₀ s) :
    Evolves o₀ (State.assignPort s i p) := by
  unfold State.assignPort
  try dsimp only
  repeat' first
    | with_reducible assumption | with_reducible apply State.modPart_ev | with_reducible apply State.freePort_ev
    | with_reducible apply State.modPort_ev | split
theorem State.portAssign_ev {o₀ s : State} (r : Req) (hev : Evolves o₀ s) :
    EvolvesP o₀ (State.portAssign s r) := by
  unfold State.portAssign
  try dsimp only
  repeat' first
    | with_reducible assumption | with_reducible apply State.no_ev | with_reducible apply State.yes_ev
    | with_reducible apply State.assignPort_ev | with_reducible apply State.bad_ev | split
theorem State.exitCommand_ev {o₀ s : State} (r : Req) (p : PartId) (hev : Evolves o₀ s) :
    EvolvesP o₀ (State.exitCommand s r p) := by
  unfold State.exitCommand
  try dsimp only
  repeat' first
    | with_reducible assumption | with_reducible apply State.staged_ev
theorem State.ethConfig_ev {o₀ s : State} (r : Req) (i : PortId) (hev : Evolves o₀ s) :
    EvolvesP o₀ (State.ethConfig s r i) := by
  unfold State.ethConfig
  try dsimp only
  repeat' first
    | with_reducible assumption | with_reducible apply State.no_ev | with_reducible apply State.yes_ev
    | with_reducible apply State.modPort_ev | with_reducible refine EvolvesP.ite (fun _ => ?_) (fun _ => ?_)
theorem State.ethPeer_ev {o₀ s : State} (r : Req) (i : PortId) (hev : Evolves o₀ s) :
    EvolvesP o₀ (State.ethPeer s r i) := by
  unfold State.ethPeer
  try dsimp only
  repeat' first
    | with_reducible assumption | with_reducible apply State.linksDown_ev | with_reducible apply State.no_ev
    | with_reducible apply State.yes_ev | with_reducible apply State.modPort_ev | with_reducible apply State.bad_ev
    | with_reducible refine EvolvesP.ite (fun _ => ?_) (fun _ => ?_) | with_reducible refine Evolves.ite (fun _ => ?_) (fun _ => ?_)
theorem State.admitCommand_ev {o₀ s : State} (r : Req) (i : PortId) (hev : Evolves o₀ s) :
    EvolvesP o₀ (State.admitCommand s r i) := by
  unfold State.admitCommand
  try dsimp only
  repeat' first
    | with_reducible assumption | with_reducible apply State.admBegin_ev | with_reducible apply State.no_ev
    | with_reducible apply State.later_ev | with_reducible apply State.await_ev | with_reducible apply State.bad_ev | split
theorem State.linkChange_ev {o₀ s : State} (op : Nat) (r : Req) (i : PortId) (hev : Evolves o₀ s) :
    EvolvesP o₀ (State.linkChange s op r i) := by
  unfold State.linkChange
  try dsimp only
  repeat' first
    | with_reducible assumption | with_reducible apply State.staged_ev | with_reducible apply State.yes_ev
    | with_reducible apply State.bad_ev | with_reducible apply State.applyChange_ev | split
theorem State.removeCommand_ev {o₀ s : State} (r : Req) (i : PortId) (hev : Evolves o₀ s) :
    EvolvesP o₀ (State.removeCommand s r i) := by
  unfold State.removeCommand
  try dsimp only
  repeat' first
    | with_reducible assumption | with_reducible apply State.linkChange_ev
theorem State.capsCommand_ev {o₀ s : State} (r : Req) (i : PortId) (hev : Evolves o₀ s) :
    EvolvesP o₀ (State.capsCommand s r i) := by
  unfold State.capsCommand
  try dsimp only
  repeat' first
    | with_reducible assumption | with_reducible apply State.linkChange_ev
theorem State.portRead_ev {o₀ s : State} (r : Req) (i : PortId) (hev : Evolves o₀ s) :
    EvolvesP o₀ (State.portRead s r i) := by
  unfold State.portRead
  try dsimp only
  repeat' first
    | with_reducible assumption | with_reducible apply State.yes_ev | with_reducible apply State.bad_ev | split
theorem execPortMode_ev {o₀ s : State} (r : Req) (hev : Evolves o₀ s) :
    EvolvesO o₀ (execPortMode r s) := by
  unfold execPortMode
  try dsimp only
  repeat' first
    | with_reducible assumption | with_reducible intro _ | with_reducible apply onPort_ev | with_reducible apply State.command_ev
    | with_reducible apply State.portMode_ev | refine EvolvesO.next ?_
theorem execPortAssign_ev {o₀ s : State} (r : Req) (hev : Evolves o₀ s) :
    EvolvesO o₀ (execPortAssign r s) := by
  unfold execPortAssign
  try dsimp only
  repeat' first
    | with_reducible assumption | with_reducible apply State.portAssign_ev | with_reducible apply State.command_ev | refine EvolvesO.next ?_
theorem execExitTable_ev {o₀ s : State} (r : Req) (hev : Evolves o₀ s) :
    EvolvesO o₀ (execExitTable r s) := by
  unfold execExitTable
  try dsimp only
  repeat' first
    | with_reducible assumption | with_reducible intro _ | with_reducible apply State.exitCommand_ev | with_reducible apply State.command_ev
    | with_reducible apply onPart_ev | refine EvolvesO.next ?_
theorem execEthConfig_ev {o₀ s : State} (r : Req) (hev : Evolves o₀ s) :
    EvolvesO o₀ (execEthConfig r s) := by
  unfold execEthConfig
  try dsimp only
  repeat' first
    | with_reducible assumption | with_reducible intro _ | with_reducible apply State.ethConfig_ev | with_reducible apply onPort_ev
    | with_reducible apply State.command_ev | refine EvolvesO.next ?_
theorem execEthPeer_ev {o₀ s : State} (r : Req) (hev : Evolves o₀ s) :
    EvolvesO o₀ (execEthPeer r s) := by
  unfold execEthPeer
  try dsimp only
  repeat' first
    | with_reducible assumption | with_reducible intro _ | with_reducible apply State.ethPeer_ev | with_reducible apply onPort_ev
    | with_reducible apply State.command_ev | refine EvolvesO.next ?_
theorem execAdmitPort_ev {o₀ s : State} (r : Req) (hev : Evolves o₀ s) :
    EvolvesO o₀ (execAdmitPort r s) := by
  unfold execAdmitPort
  try dsimp only
  repeat' first
    | with_reducible assumption | with_reducible intro _ | with_reducible apply State.admitCommand_ev | with_reducible apply onPort_ev
    | with_reducible apply State.command_ev | refine EvolvesO.next ?_
theorem execRemove_ev {o₀ s : State} (r : Req) (hev : Evolves o₀ s) :
    EvolvesO o₀ (execRemove r s) := by
  unfold execRemove
  try dsimp only
  repeat' first
    | with_reducible assumption | with_reducible intro _ | with_reducible apply onPort_ev | with_reducible apply State.command_ev
    | with_reducible apply State.removeCommand_ev | refine EvolvesO.next ?_
theorem execPortCaps_ev {o₀ s : State} (r : Req) (hev : Evolves o₀ s) :
    EvolvesO o₀ (execPortCaps r s) := by
  unfold execPortCaps
  try dsimp only
  repeat' first
    | with_reducible assumption | with_reducible intro _ | with_reducible apply State.capsCommand_ev | with_reducible apply onPort_ev
    | with_reducible apply State.command_ev | refine EvolvesO.next ?_
theorem execPortRead_ev {o₀ s : State} (r : Req) (hev : Evolves o₀ s) :
    EvolvesO o₀ (execPortRead r s) := by
  unfold execPortRead
  try dsimp only
  repeat' first
    | with_reducible assumption | with_reducible intro _ | with_reducible apply onPort_ev | with_reducible apply State.command_ev
    | with_reducible apply State.portRead_ev | refine EvolvesO.next ?_

end Sys2Proof.Machine
end

