-- ==== Sys2Proof/Laws/EvolvesServices.lean ====
section
/-!
SUPPORT. The operations and meanings of health, power, firmware and service commands, the poll, supplies and monitors evolve the state: one lemma for each.
-/

set_option linter.unusedTactic false
set_option linter.unreachableTactic false

namespace Sys2Proof.Machine

theorem State.faultLogRead_ev {o₀ s : State} (r : Req) (hev : Evolves o₀ s) :
    EvolvesP o₀ (State.faultLogRead s r) := by
  unfold State.faultLogRead
  try dsimp only
  repeat' first
    | with_reducible assumption | with_reducible apply State.yes_ev
theorem State.stepLogRead_ev {o₀ s : State} (r : Req) (p : PartId) (hev : Evolves o₀ s) :
    EvolvesP o₀ (State.stepLogRead s r p) := by
  unfold State.stepLogRead
  try dsimp only
  repeat' first
    | with_reducible assumption | with_reducible apply State.yes_ev
theorem State.facetLogRead_ev {o₀ s : State} (r : Req) (p : PartId) (hev : Evolves o₀ s) :
    EvolvesP o₀ (State.facetLogRead s r p) := by
  unfold State.facetLogRead
  try dsimp only
  repeat' first
    | with_reducible assumption | with_reducible apply State.yes_ev
theorem State.mapRead_ev {o₀ s : State} (r : Req) (hev : Evolves o₀ s) :
    EvolvesP o₀ (State.mapRead s r) := by
  unfold State.mapRead
  try dsimp only
  repeat' first
    | with_reducible assumption | with_reducible apply State.no_ev | with_reducible apply State.yes_ev | with_reducible apply State.bad_ev
    | split
theorem State.seamRead_ev {o₀ s : State} (_x1 : Req) (hev : Evolves o₀ s) :
    EvolvesP o₀ (State.seamRead s _x1) := by
  unfold State.seamRead
  try dsimp only
  repeat' first
    | with_reducible assumption | with_reducible apply State.yes_ev
theorem State.countersRead_ev {o₀ s : State} (r : Req) (hev : Evolves o₀ s) :
    EvolvesP o₀ (State.countersRead s r) := by
  unfold State.countersRead
  try dsimp only
  repeat' first
    | with_reducible assumption | with_reducible apply State.no_ev | with_reducible apply State.yes_ev
    | with_reducible apply State.modTile_ev | with_reducible apply State.bad_ev | split
theorem State.recordRead_ev {o₀ s : State} (r : Req) (hev : Evolves o₀ s) :
    EvolvesP o₀ (State.recordRead s r) := by
  unfold State.recordRead
  try dsimp only
  repeat' first
    | with_reducible assumption | with_reducible apply State.no_ev | with_reducible apply State.yes_ev | with_reducible apply State.bad_ev
    | with_reducible refine EvolvesP.ite (fun _ => ?_) (fun _ => ?_)
theorem State.placeTest_ev {o₀ s : State} (t : TileId) (n : Nat) (hev : Evolves o₀ s) :
    EvolvesP o₀ (State.placeTest s t n) := by
  unfold State.placeTest
  try dsimp only
  repeat' first
    | with_reducible assumption | with_reducible apply State.modPart_ev | with_reducible apply State.no_ev
    | with_reducible apply State.yes_ev | with_reducible apply State.fenceSoon_ev | with_reducible apply State.modTile_ev
    | fail_if_no_progress with_reducible apply Evolves.lit | split
theorem State.testCommand_ev {o₀ s : State} (r : Req) (hev : Evolves o₀ s) :
    EvolvesP o₀ (State.testCommand s r) := by
  unfold State.testCommand
  try dsimp only
  repeat' first
    | with_reducible assumption | with_reducible apply State.no_ev | with_reducible apply State.placeTest_ev
    | with_reducible apply State.bad_ev | split
theorem State.fenceTileCmd_ev {o₀ s : State} (r : Req) (t : TileId) (hev : Evolves o₀ s) :
    EvolvesP o₀ (State.fenceTileCmd s r t) := by
  unfold State.fenceTileCmd
  try dsimp only
  repeat' first
    | with_reducible assumption | with_reducible apply State.fenceIdle_ev | with_reducible apply State.no_ev
    | with_reducible apply State.yes_ev | with_reducible apply State.later_ev | with_reducible apply State.await_ev
    | with_reducible apply State.fenceSoon_ev | with_reducible apply State.tileDefect_ev | split
theorem State.fenceCommand_ev {o₀ s : State} (r : Req) (hev : Evolves o₀ s) :
    EvolvesP o₀ (State.fenceCommand s r) := by
  unfold State.fenceCommand
  try dsimp only
  repeat' first
    | with_reducible assumption | with_reducible apply State.fenceTileCmd_ev | with_reducible apply State.markRow_ev
    | with_reducible apply State.yes_ev | with_reducible apply State.logDefect_ev | with_reducible apply State.laneFence_ev
    | with_reducible apply State.bad_ev | split
theorem State.clearDefect_ev {o₀ s : State} (r : Req) (hev : Evolves o₀ s) :
    EvolvesP o₀ (State.clearDefect s r) := by
  unfold State.clearDefect
  try dsimp only
  repeat' first
    | with_reducible assumption | with_reducible intro _ | with_reducible apply State.logDefect_ev | with_reducible apply State.bad_ev
    | with_reducible apply State.yes_ev | with_reducible apply State.no_ev | with_reducible refine (State.bad_ev _ _ ?_).fst
    | with_reducible refine (State.yes_ev _ ?_).fst | with_reducible refine (State.no_ev _ ?_).fst
    | with_reducible refine EvolvesP.ite (fun _ => ?_) (fun _ => ?_) | with_reducible refine Evolves.ite (fun _ => ?_) (fun _ => ?_)
    | fail_if_no_progress with_reducible apply Evolves.lit | refine EvolvesP.of (by with_reducible assumption) ?_
    | refine EvolvesS.of (by with_reducible assumption) ?_ | with_reducible refine EvolvesS.ite (fun _ => ?_) (fun _ => ?_)
    | exact EvolvesS.none | with_reducible refine EvolvesS.put ?_ | split
theorem State.resetCommand_ev {o₀ s : State} (r : Req) (hev : Evolves o₀ s) :
    EvolvesP o₀ (State.resetCommand s r) := by
  unfold State.resetCommand
  try dsimp only
  repeat' first
    | with_reducible assumption | with_reducible apply State.modPart_ev | with_reducible apply State.no_ev
    | with_reducible apply State.yes_ev | with_reducible apply State.later_ev | with_reducible apply State.await_ev
    | with_reducible apply State.modTile_ev | with_reducible apply State.bad_ev | fail_if_no_progress with_reducible apply Evolves.lit
    | split
theorem State.coldStart_ev {o₀ s : State} (r : Req) (hev : Evolves o₀ s) :
    EvolvesP o₀ (State.coldStart s r) := by
  unfold State.coldStart
  try dsimp only
  repeat' first
    | with_reducible assumption | with_reducible apply State.yes_ev | with_reducible apply State.bad_ev
    | with_reducible refine EvolvesP.ite (fun _ => ?_) (fun _ => ?_) | fail_if_no_progress with_reducible apply Evolves.lit
theorem State.startClear_ev {o₀ s : State} (_x1 : Req) (hev : Evolves o₀ s) :
    EvolvesP o₀ (State.startClear s _x1) := by
  unfold State.startClear
  try dsimp only
  repeat' first
    | with_reducible assumption | with_reducible apply State.yes_ev | fail_if_no_progress with_reducible apply Evolves.lit
theorem execFaultLog_ev {o₀ s : State} (r : Req) (hev : Evolves o₀ s) :
    EvolvesO o₀ (execFaultLog r s) := by
  unfold execFaultLog
  try dsimp only
  repeat' first
    | with_reducible assumption | with_reducible apply State.faultLogRead_ev | with_reducible apply State.command_ev
    | refine EvolvesO.next ?_
theorem execStepLog_ev {o₀ s : State} (r : Req) (hev : Evolves o₀ s) :
    EvolvesO o₀ (execStepLog r s) := by
  unfold execStepLog
  try dsimp only
  repeat' first
    | with_reducible assumption | with_reducible intro _ | with_reducible apply State.stepLogRead_ev | with_reducible apply State.command_ev
    | with_reducible apply onPart_ev | refine EvolvesO.next ?_
theorem execFacetLog_ev {o₀ s : State} (r : Req) (hev : Evolves o₀ s) :
    EvolvesO o₀ (execFacetLog r s) := by
  unfold execFacetLog
  try dsimp only
  repeat' first
    | with_reducible assumption | with_reducible intro _ | with_reducible apply State.command_ev
    | with_reducible apply State.facetLogRead_ev | with_reducible apply onPart_ev | refine EvolvesO.next ?_
theorem execMapRead_ev {o₀ s : State} (r : Req) (hev : Evolves o₀ s) :
    EvolvesO o₀ (execMapRead r s) := by
  unfold execMapRead
  try dsimp only
  repeat' first
    | with_reducible assumption | with_reducible apply State.mapRead_ev | with_reducible apply State.command_ev | refine EvolvesO.next ?_
theorem execSeamRead_ev {o₀ s : State} (r : Req) (hev : Evolves o₀ s) :
    EvolvesO o₀ (execSeamRead r s) := by
  unfold execSeamRead
  try dsimp only
  repeat' first
    | with_reducible assumption | with_reducible apply State.seamRead_ev | with_reducible apply State.command_ev | refine EvolvesO.next ?_
theorem execCounters_ev {o₀ s : State} (r : Req) (hev : Evolves o₀ s) :
    EvolvesO o₀ (execCounters r s) := by
  unfold execCounters
  try dsimp only
  repeat' first
    | with_reducible assumption | with_reducible apply State.countersRead_ev | with_reducible apply State.command_ev
    | refine EvolvesO.next ?_
theorem execRecordRead_ev {o₀ s : State} (r : Req) (hev : Evolves o₀ s) :
    EvolvesO o₀ (execRecordRead r s) := by
  unfold execRecordRead
  try dsimp only
  repeat' first
    | with_reducible assumption | with_reducible apply State.recordRead_ev | with_reducible apply State.command_ev | refine EvolvesO.next ?_
theorem execTest_ev {o₀ s : State} (r : Req) (hev : Evolves o₀ s) :
    EvolvesO o₀ (execTest r s) := by
  unfold execTest
  try dsimp only
  repeat' first
    | with_reducible assumption | with_reducible apply State.command_ev | with_reducible apply State.testCommand_ev
    | refine EvolvesO.next ?_
theorem execFence_ev {o₀ s : State} (r : Req) (hev : Evolves o₀ s) :
    EvolvesO o₀ (execFence r s) := by
  unfold execFence
  try dsimp only
  repeat' first
    | with_reducible assumption | with_reducible apply State.command_ev | with_reducible apply State.fenceCommand_ev
    | refine EvolvesO.next ?_
theorem execClearDefect_ev {o₀ s : State} (r : Req) (hev : Evolves o₀ s) :
    EvolvesO o₀ (execClearDefect r s) := by
  unfold execClearDefect
  try dsimp only
  repeat' first
    | with_reducible assumption | with_reducible apply State.clearDefect_ev | with_reducible apply State.command_ev
    | refine EvolvesO.next ?_
theorem execReset_ev {o₀ s : State} (r : Req) (hev : Evolves o₀ s) :
    EvolvesO o₀ (execReset r s) := by
  unfold execReset
  try dsimp only
  repeat' first
    | with_reducible assumption | with_reducible apply State.resetCommand_ev | with_reducible apply State.command_ev
    | refine EvolvesO.next ?_
theorem execColdStart_ev {o₀ s : State} (r : Req) (hev : Evolves o₀ s) :
    EvolvesO o₀ (execColdStart r s) := by
  unfold execColdStart
  try dsimp only
  repeat' first
    | with_reducible assumption | with_reducible apply State.coldStart_ev | with_reducible apply State.command_ev | refine EvolvesO.next ?_
theorem execStartClear_ev {o₀ s : State} (r : Req) (hev : Evolves o₀ s) :
    EvolvesO o₀ (execStartClear r s) := by
  unfold execStartClear
  try dsimp only
  repeat' first
    | with_reducible assumption | with_reducible apply State.startClear_ev | with_reducible apply State.command_ev | refine EvolvesO.next ?_
theorem State.leaveIdle_ev {o₀ s : State} (r : Req) (code : Nat) (hev : Evolves o₀ s) :
    Evolves o₀ (State.leaveIdle s r code) := by
  unfold State.leaveIdle
  try dsimp only
  repeat' first
    | with_reducible assumption | with_reducible apply State.rerun_ev | with_reducible apply State.await_ev
    | with_reducible refine Evolves.ite (fun _ => ?_) (fun _ => ?_) | fail_if_no_progress with_reducible apply Evolves.lit
theorem State.enterIdle_ev {o₀ s : State} (code : Nat) (hev : Evolves o₀ s) : Evolves o₀ (s.enterIdle code) := by
  have h1 : Evolves o₀ (s.wiped true) := State.wiped_ev true hev
  unfold State.enterIdle
  refine Evolves.foldl _ (fun _ _ h => State.beatNow_ev _ h) ⟨h1.member, h1.pending, fun x => ?_⟩
  have y := hev.sound x
  have z := h1.sound x
  refine ⟨z.tiles, y.seams, y.regions, z.channels, z.bindings, y.rows, ?_, z.flat, y.inbox, ?_⟩
  all_goals by_cases h : code = 4 <;> simp only [h, if_true, if_false]
  · rfl
  · exact y.dram
  · exact Nat.zero_le _
  · exact y.faultLog
theorem State.spareVerify_ev {o₀ s : State} (code : Nat) (hds : List Nat) (hev : Evolves o₀ s) :
    EvolvesP o₀ (State.spareVerify s code hds) := by
  unfold State.spareVerify
  try dsimp only
  repeat' first
    | with_reducible assumption | with_reducible intro _ | with_reducible apply State.modSeam_ev | with_reducible apply State.unitFault_ev
    | with_reducible refine EvolvesP.ite (fun _ => ?_) (fun _ => ?_) | with_reducible refine Evolves.ite (fun _ => ?_) (fun _ => ?_)
    | with_reducible refine Evolves.foldl _ (fun _ _ _ => ?_) ?_ | with_reducible refine EvolvesP.foldl _ (fun _ _ _ _ => ?_) ?_
    | fail_if_no_progress with_reducible apply Evolves.lit | refine EvolvesP.of (by with_reducible assumption) ?_
    | refine EvolvesS.of (by with_reducible assumption) ?_ | with_reducible refine EvolvesS.ite (fun _ => ?_) (fun _ => ?_)
    | exact EvolvesS.none | with_reducible refine EvolvesS.put ?_ | split | with_reducible refine EvolvesP.pair ?_
theorem State.spareHds_ev {o₀ s : State} (r : Req) (hev : Evolves o₀ s) :
    EvolvesP o₀ (State.spareHds s r) := by
  unfold State.spareHds
  try dsimp only
  repeat' first
    | with_reducible assumption | with_reducible intro _ | with_reducible apply State.bad_ev | with_reducible apply State.yes_ev
    | with_reducible apply State.hdPower_ev | with_reducible apply State.spareVerify_ev | with_reducible apply State.no_ev
    | with_reducible refine (State.bad_ev _ _ ?_).fst | with_reducible refine (State.yes_ev _ ?_).fst
    | with_reducible refine (State.spareVerify_ev _ _ ?_).fst | with_reducible refine (State.no_ev _ ?_).fst
    | with_reducible refine EvolvesP.ite (fun _ => ?_) (fun _ => ?_)
theorem State.modulePower_ev {o₀ s : State} (r : Req) (hev : Evolves o₀ s) :
    EvolvesP o₀ (State.modulePower s r) := by
  unfold State.modulePower
  try dsimp only
  repeat' first
    | with_reducible assumption | with_reducible apply State.enterIdle_ev | with_reducible apply State.leaveIdle_ev
    | with_reducible apply State.no_ev | with_reducible apply State.yes_ev | with_reducible apply State.later_ev
    | with_reducible apply State.spareHds_ev | with_reducible apply State.bad_ev
    | with_reducible refine EvolvesP.ite (fun _ => ?_) (fun _ => ?_)
theorem State.powerState_ev {o₀ s : State} (r : Req) (hev : Evolves o₀ s) :
    EvolvesP o₀ (State.powerState s r) := by
  unfold State.powerState
  try dsimp only
  repeat' first
    | with_reducible assumption | with_reducible apply State.staged_ev | with_reducible apply State.no_ev
    | with_reducible apply State.modulePower_ev | with_reducible apply State.bad_ev | split
theorem State.capSet_ev {o₀ s : State} (r : Req) (p : PartId) (hev : Evolves o₀ s) :
    EvolvesP o₀ (State.capSet s r p) := by
  unfold State.capSet
  try dsimp only
  repeat' first
    | with_reducible assumption | with_reducible apply State.staged_ev
theorem State.energyRead_ev {o₀ s : State} (r : Req) (hev : Evolves o₀ s) :
    EvolvesP o₀ (State.energyRead s r) := by
  unfold State.energyRead
  try dsimp only
  repeat' first
    | with_reducible assumption | with_reducible apply State.no_ev | with_reducible apply State.yes_ev | with_reducible apply State.bad_ev
    | split
theorem State.fwWrite_ev {o₀ s : State} (r : Req) (hev : Evolves o₀ s) :
    EvolvesP o₀ (State.fwWrite s r) := by
  unfold State.fwWrite
  try dsimp only
  repeat' first
    | with_reducible assumption | with_reducible apply State.yes_ev | with_reducible apply State.bad_ev
    | with_reducible refine EvolvesP.ite (fun _ => ?_) (fun _ => ?_) | fail_if_no_progress with_reducible apply Evolves.lit
theorem State.fwCommit_ev {o₀ s : State} (r : Req) (hev : Evolves o₀ s) :
    EvolvesP o₀ (State.fwCommit s r) := by
  unfold State.fwCommit
  try dsimp only
  repeat' first
    | with_reducible assumption | with_reducible apply State.no_ev | with_reducible apply State.yes_ev
    | fail_if_no_progress with_reducible apply Evolves.lit | split
theorem State.fwStatus_ev {o₀ s : State} (_x1 : Req) (hev : Evolves o₀ s) :
    EvolvesP o₀ (State.fwStatus s _x1) := by
  unfold State.fwStatus
  try dsimp only
  repeat' first
    | with_reducible assumption | with_reducible apply State.yes_ev
theorem State.spdmReply_ev {o₀ s : State} (tr : Transport) (msg : Bytes) (hev : Evolves o₀ s) :
    EvolvesP o₀ (State.spdmReply s tr msg) := by
  unfold State.spdmReply
  try dsimp only
  repeat' first
    | with_reducible assumption | fail_if_no_progress with_reducible apply Evolves.lit | with_reducible refine EvolvesP.pair ?_
theorem State.spdmCommand_ev {o₀ s : State} (r : Req) (hev : Evolves o₀ s) :
    EvolvesP o₀ (State.spdmCommand s r) := by
  unfold State.spdmCommand
  try dsimp only
  repeat' first
    | with_reducible assumption | with_reducible apply State.sign_ev | with_reducible apply State.yes_ev
    | with_reducible apply State.later_ev | with_reducible apply State.await_ev | with_reducible refine (State.spdmReply_ev _ _ ?_).fst
    | with_reducible refine EvolvesP.ite (fun _ => ?_) (fun _ => ?_)
theorem State.adminSet_ev {o₀ s : State} (r : Req) (hev : Evolves o₀ s) :
    EvolvesP o₀ (State.adminSet s r) := by
  unfold State.adminSet
  try dsimp only
  repeat' first
    | with_reducible assumption | with_reducible apply State.yes_ev | with_reducible apply State.bad_ev
    | fail_if_no_progress with_reducible apply Evolves.lit | split
theorem State.telemetryRead_ev {o₀ s : State} (r : Req) (hev : Evolves o₀ s) :
    EvolvesP o₀ (State.telemetryRead s r) := by
  unfold State.telemetryRead
  try dsimp only
  repeat' first
    | with_reducible assumption | with_reducible apply State.yes_ev | with_reducible apply State.bad_ev
    | with_reducible refine EvolvesP.ite (fun _ => ?_) (fun _ => ?_)
theorem State.svcBind_ev {o₀ s : State} (r : Req) (p : PartId) (hev : Evolves o₀ s) : EvolvesP o₀ (s.svcBind r p) := by
  unfold State.svcBind
  extract_lets port b
  with_reducible refine EvolvesP.ite (fun _ => State.no_ev _ hev) (fun _ => ?_)
  with_reducible refine EvolvesP.ite (fun _ => State.bad_ev _ _ hev) (fun _ => ?_)
  with_reducible refine EvolvesP.ite (fun _ => State.no_ev _ hev) (fun _ => ?_)
  split
  · exact State.no_ev _ hev
  · exact State.yes_ev _ (State.partWrite_ev _ _ _ ⟨hev.member, hev.pending, fun x => let y := hev.sound x
      ⟨y.tiles, y.seams, y.regions, y.channels, kwf_kput _ _ _ y.bindings, y.rows, y.dram, y.flat, y.inbox, y.faultLog⟩⟩)
theorem State.svcUnbind_ev {o₀ s : State} (r : Req) (p : PartId) (hev : Evolves o₀ s) :
    EvolvesP o₀ (State.svcUnbind s r p) := by
  unfold State.svcUnbind
  try dsimp only
  repeat' first
    | with_reducible assumption | with_reducible apply State.staged_ev
theorem State.svcClientsCmd_ev {o₀ s : State} (r : Req) (p : PartId) (hev : Evolves o₀ s) :
    EvolvesP o₀ (State.svcClientsCmd s r p) := by
  unfold State.svcClientsCmd
  try dsimp only
  repeat' first
    | with_reducible assumption | with_reducible apply State.staged_ev | with_reducible apply State.bad_ev | split
theorem State.svcStats_ev {o₀ s : State} (r : Req) (p : PartId) (hev : Evolves o₀ s) :
    EvolvesP o₀ (State.svcStats s r p) := by
  unfold State.svcStats
  try dsimp only
  repeat' first
    | with_reducible assumption | with_reducible apply State.yes_ev | with_reducible apply State.bad_ev | split
theorem execPowerState_ev {o₀ s : State} (r : Req) (hev : Evolves o₀ s) :
    EvolvesO o₀ (execPowerState r s) := by
  unfold execPowerState
  try dsimp only
  repeat' first
    | with_reducible assumption | with_reducible apply State.powerState_ev | with_reducible apply State.command_ev | refine EvolvesO.next ?_
theorem execCapSet_ev {o₀ s : State} (r : Req) (hev : Evolves o₀ s) :
    EvolvesO o₀ (execCapSet r s) := by
  unfold execCapSet
  try dsimp only
  repeat' first
    | with_reducible assumption | with_reducible intro _ | with_reducible apply State.capSet_ev | with_reducible apply State.command_ev
    | with_reducible apply onPart_ev | refine EvolvesO.next ?_
theorem execEnergyRead_ev {o₀ s : State} (r : Req) (hev : Evolves o₀ s) :
    EvolvesO o₀ (execEnergyRead r s) := by
  unfold execEnergyRead
  try dsimp only
  repeat' first
    | with_reducible assumption | with_reducible apply State.energyRead_ev | with_reducible apply State.command_ev | refine EvolvesO.next ?_
theorem execFwWrite_ev {o₀ s : State} (r : Req) (hev : Evolves o₀ s) :
    EvolvesO o₀ (execFwWrite r s) := by
  unfold execFwWrite
  try dsimp only
  repeat' first
    | with_reducible assumption | with_reducible apply State.fwWrite_ev | with_reducible apply State.command_ev | refine EvolvesO.next ?_
theorem execFwCommit_ev {o₀ s : State} (r : Req) (hev : Evolves o₀ s) :
    EvolvesO o₀ (execFwCommit r s) := by
  unfold execFwCommit
  try dsimp only
  repeat' first
    | with_reducible assumption | with_reducible apply State.fwCommit_ev | with_reducible apply State.command_ev | refine EvolvesO.next ?_
theorem execFwStatus_ev {o₀ s : State} (r : Req) (hev : Evolves o₀ s) :
    EvolvesO o₀ (execFwStatus r s) := by
  unfold execFwStatus
  try dsimp only
  repeat' first
    | with_reducible assumption | with_reducible apply State.fwStatus_ev | with_reducible apply State.command_ev | refine EvolvesO.next ?_
theorem execSpdm_ev {o₀ s : State} (r : Req) (hev : Evolves o₀ s) :
    EvolvesO o₀ (execSpdm r s) := by
  unfold execSpdm
  try dsimp only
  repeat' first
    | with_reducible assumption | with_reducible apply State.command_ev | with_reducible apply State.spdmCommand_ev
    | refine EvolvesO.next ?_
theorem execAdminSet_ev {o₀ s : State} (r : Req) (hev : Evolves o₀ s) :
    EvolvesO o₀ (execAdminSet r s) := by
  unfold execAdminSet
  try dsimp only
  repeat' first
    | with_reducible assumption | with_reducible apply State.adminSet_ev | with_reducible apply State.command_ev | refine EvolvesO.next ?_
theorem execTelemetry_ev {o₀ s : State} (r : Req) (hev : Evolves o₀ s) :
    EvolvesO o₀ (execTelemetry r s) := by
  unfold execTelemetry
  try dsimp only
  repeat' first
    | with_reducible assumption | with_reducible apply State.telemetryRead_ev | with_reducible apply State.command_ev
    | refine EvolvesO.next ?_
theorem execSvcBind_ev {o₀ s : State} (r : Req) (hev : Evolves o₀ s) :
    EvolvesO o₀ (execSvcBind r s) := by
  unfold execSvcBind
  try dsimp only
  repeat' first
    | with_reducible assumption | with_reducible intro _ | with_reducible apply State.svcBind_ev | with_reducible apply State.command_ev
    | with_reducible apply onPart_ev | refine EvolvesO.next ?_
theorem execSvcUnbind_ev {o₀ s : State} (r : Req) (hev : Evolves o₀ s) :
    EvolvesO o₀ (execSvcUnbind r s) := by
  unfold execSvcUnbind
  try dsimp only
  repeat' first
    | with_reducible assumption | with_reducible intro _ | with_reducible apply State.svcUnbind_ev | with_reducible apply State.command_ev
    | with_reducible apply onPart_ev | refine EvolvesO.next ?_
theorem execSvcClients_ev {o₀ s : State} (r : Req) (hev : Evolves o₀ s) :
    EvolvesO o₀ (execSvcClients r s) := by
  unfold execSvcClients
  try dsimp only
  repeat' first
    | with_reducible assumption | with_reducible intro _ | with_reducible apply State.svcClientsCmd_ev
    | with_reducible apply State.command_ev | with_reducible apply onPart_ev | refine EvolvesO.next ?_
theorem execSvcStats_ev {o₀ s : State} (r : Req) (hev : Evolves o₀ s) :
    EvolvesO o₀ (execSvcStats r s) := by
  unfold execSvcStats
  try dsimp only
  repeat' first
    | with_reducible assumption | with_reducible intro _ | with_reducible apply State.svcStats_ev | with_reducible apply State.command_ev
    | with_reducible apply onPart_ev | refine EvolvesO.next ?_
/-- Every entry of a table of commands evolves the state. -/
structure RunsEvolve (a : State) (table : List (Nat × (State → Req → Ans))) : Prop where
  entry : ∀ op run, kget op table = some run → ∀ s r, Evolves a s → EvolvesP a (run s r)
theorem RunsEvolve.done {a : State} : RunsEvolve a [] := ⟨fun _ _ e => nomatch e⟩
theorem RunsEvolve.add {a : State} {op : Nat} {run : State → Req → Ans} {table : List (Nat × (State → Req → Ans))}
    (h : ∀ s r, Evolves a s → EvolvesP a (run s r)) (t : RunsEvolve a table) : RunsEvolve a ((op, run) :: table) where
  entry o g e := by
    rw [kget_cons] at e
    split at e
    · exact Option.some.inj e ▸ h
    · exact t.entry o g e
theorem RunsEvolve.addPart {a : State} {op : Nat} {run : State → Req → PartId → Ans} {table : List (Nat × (State → Req → Ans))}
    (h : ∀ s r p, Evolves a s → EvolvesP a (run s r p)) (t : RunsEvolve a table) : RunsEvolve a ((op, onPart run) :: table) :=
  .add (fun _ r hev => onPart_ev run r h hev) t
theorem RunsEvolve.addPort {a : State} {op : Nat} {run : State → Req → PortId → Ans} {table : List (Nat × (State → Req → Ans))}
    (h : ∀ s r i, Evolves a s → EvolvesP a (run s r i)) (t : RunsEvolve a table) : RunsEvolve a ((op, onPort run) :: table) :=
  .add (fun _ r hev => onPort_ev run r h hev) t
theorem RunsEvolve.append {a : State} {x y : List (Nat × (State → Req → Ans))} (hx : RunsEvolve a x) (hy : RunsEvolve a y) :
    RunsEvolve a (x ++ y) where
  entry o g e := by
    rw [kget_append] at e
    cases f : kget o x with
    | none => exact hy.entry o g (by rwa [f] at e)
    | some v => exact hx.entry o g (by rwa [f, Option.some_or, ← f] at e)
theorem runsParts_ev (a : State) : RunsEvolve a runsParts :=
  .add (fun _ r => State.identify_ev r) <|
  .add (fun _ r => State.setBifurcation_ev r) <|
  .add (fun _ r => State.partCreate_ev r) <|
  .addPart (fun _ r p => State.partDestroy_ev r p) <|
  .addPart (fun _ r p => State.partQuery_ev r p) <|
  .addPart (fun _ r p => State.partParams_ev r p) <|
  .addPart (fun _ r p => State.regionState_ev r p) <|
  .addPart (fun _ r p => State.bankPower_ev r p) <|
  .addPart (fun _ r p => State.rowRepair_ev r p) <|
  .addPart (fun _ r p => State.channelRange_ev r p) <|
  .addPart (fun _ r p => State.flatCommand_ev r p) <|
  .addPart (fun _ r p => State.windowRead_ev r p) <|
  .done
theorem runsJobs_ev (a : State) : RunsEvolve a runsJobs :=
  .addPart (fun _ r p => State.progLoad_ev r p) <|
  .addPart (fun _ r p => State.progUnload_ev r p) <|
  .addPart (fun _ r p => State.jobStart_ev r p) <|
  .addPart (fun _ r p => State.jobDrain_ev r p) <|
  .addPart (fun _ r p => State.jobAbandon_ev r p) <|
  .addPart (fun _ r p => State.jobResumeCmd_ev r p) <|
  .addPart (fun _ r p => State.dlistCommand_ev r p) <|
  .addPart (fun _ r p => State.scan_ev r p) <|
  .addPart (fun _ r p => State.applyCommand_ev r p) <|
  .addPart (fun _ r p => State.stageCancel_ev r p) <|
  .addPart (fun _ r p => State.stageRead_ev r p) <|
  .add (fun _ r => State.seamReset_ev r) <|
  .addPart (fun _ r p => State.timeOffset_ev r p) <|
  .add (fun _ r => State.tsync_ev r) <|
  .addPart (fun _ r p => State.manifestLoad_ev r p) <|
  .addPart (fun _ r p => State.shadowCommand_ev r p) <|
  .addPart (fun _ r p => State.shadowStopCmd_ev r p) <|
  .addPart (fun _ r p => State.shadowRead_ev r p) <|
  .addPart (fun _ r p => State.promoteCommand_ev r p) <|
  .addPart (fun _ r p => State.insertCommand_ev r p) <|
  .done
theorem runsLinks_ev (a : State) : RunsEvolve a runsLinks :=
  .addPort (fun _ r i => State.portMode_ev r i) <|
  .add (fun _ r => State.portAssign_ev r) <|
  .addPart (fun _ r p => State.exitCommand_ev r p) <|
  .addPort (fun _ r i => State.ethConfig_ev r i) <|
  .addPort (fun _ r i => State.ethPeer_ev r i) <|
  .addPort (fun _ r i => State.admitCommand_ev r i) <|
  .addPort (fun _ r i => State.removeCommand_ev r i) <|
  .addPort (fun _ r i => State.capsCommand_ev r i) <|
  .addPort (fun _ r i => State.portRead_ev r i) <|
  .done
theorem runsHealth_ev (a : State) : RunsEvolve a runsHealth :=
  .add (fun _ r => State.faultLogRead_ev r) <|
  .addPart (fun _ r p => State.stepLogRead_ev r p) <|
  .addPart (fun _ r p => State.facetLogRead_ev r p) <|
  .add (fun _ r => State.mapRead_ev r) <|
  .add (fun _ r => State.seamRead_ev r) <|
  .add (fun _ r => State.countersRead_ev r) <|
  .add (fun _ r => State.recordRead_ev r) <|
  .add (fun _ r => State.testCommand_ev r) <|
  .add (fun _ r => State.fenceCommand_ev r) <|
  .add (fun _ r => State.clearDefect_ev r) <|
  .add (fun _ r => State.resetCommand_ev r) <|
  .add (fun _ r => State.coldStart_ev r) <|
  .add (fun _ r => State.startClear_ev r) <|
  .done
theorem runsOther_ev (a : State) : RunsEvolve a runsOther :=
  .add (fun _ r => State.powerState_ev r) <|
  .addPart (fun _ r p => State.capSet_ev r p) <|
  .add (fun _ r => State.energyRead_ev r) <|
  .add (fun _ r => State.fwWrite_ev r) <|
  .add (fun _ r => State.fwCommit_ev r) <|
  .add (fun _ r => State.fwStatus_ev r) <|
  .add (fun _ r => State.spdmCommand_ev r) <|
  .add (fun _ r => State.adminSet_ev r) <|
  .add (fun _ r => State.telemetryRead_ev r) <|
  .addPart (fun _ r p => State.svcBind_ev r p) <|
  .addPart (fun _ r p => State.svcUnbind_ev r p) <|
  .addPart (fun _ r p => State.svcClientsCmd_ev r p) <|
  .addPart (fun _ r p => State.svcStats_ev r p) <|
  .done
theorem runOf_ev {o₀ : State} {op : Nat} {run : State → Req → Ans} (e : runOf op = some run) (s : State) (r : Req)
    (hev : Evolves o₀ s) : EvolvesP o₀ (run s r) :=
  (((((runsParts_ev o₀).append (runsJobs_ev o₀)).append (runsLinks_ev o₀)).append (runsHealth_ev o₀)).append
    (runsOther_ev o₀)).entry op run e s r hev
theorem State.timeouts_ev {o₀ s : State} (hev : Evolves o₀ s) :
    Evolves o₀ (State.timeouts s) := by
  unfold State.timeouts
  try dsimp only
  repeat' first
    | with_reducible assumption | with_reducible apply State.answer_ev
theorem State.hushReq_ev {o₀ s : State} (r : Req) (hev : Evolves o₀ s) :
    Evolves o₀ (State.hushReq s r) := by
  unfold State.hushReq
  try dsimp only
  repeat' first
    | with_reducible assumption | fail_if_no_progress with_reducible apply Evolves.lit
theorem State.runQueued_ev {o₀ s : State} (w : Waiter) (hev : Evolves o₀ s) :
    Evolves o₀ (State.runQueued s w) := by
  unfold State.runQueued
  try dsimp only
  repeat' first
    | with_reducible assumption | with_reducible intro _ | with_reducible refine runOf_ev (by with_reducible assumption) _ _ ?_
    | with_reducible apply State.runCommand_ev | with_reducible apply State.respond_ev | with_reducible apply State.modFn_ev
    | with_reducible apply State.hushReq_ev | fail_if_no_progress with_reducible apply Evolves.lit | split
theorem State.takeRequest_ev {o₀ s : State} (f : FnId) (m : MboxId) (hev : Evolves o₀ s) : Evolves o₀ (s.takeRequest f m) := by
  unfold State.takeRequest
  extract_lets x op len r
  split
  · exact State.respond_ev _ _ _ _ (State.accept_ev _ hev)
  · split
    · exact State.respond_ev _ _ _ _ (State.accept_ev _ hev)
    · exact State.command_ev _ _ _ (fun _ _ h => runOf_ev (by assumption) _ _ h) hev
theorem State.poll_ev {o₀ s : State} (f : FnId) (m : MboxId) (hev : Evolves o₀ s) :
    Evolves o₀ (State.poll s f m) := by
  unfold State.poll
  try dsimp only
  repeat' first
    | with_reducible assumption | with_reducible apply State.runQueued_ev | with_reducible apply State.timeouts_ev
    | with_reducible apply State.takeRequest_ev | split
theorem execMailboxPoll_ev {o₀ s : State} (f : FnId) (m : MboxId) (hev : Evolves o₀ s) :
    EvolvesO o₀ (execMailboxPoll f m s) := by
  unfold execMailboxPoll
  try dsimp only
  repeat' first
    | with_reducible assumption | with_reducible apply State.poll_ev | refine EvolvesO.next ?_
    | with_reducible refine Evolves.ite (fun _ => ?_) (fun _ => ?_)
theorem State.powerLost_ev {o₀ s : State} (hev : Evolves o₀ s) :
    Evolves o₀ (State.powerLost s) := by
  unfold State.powerLost
  try dsimp only
  repeat' first
    | with_reducible assumption | with_reducible apply State.wiped_ev | fail_if_no_progress with_reducible apply Evolves.lit
theorem State.markPower_ev {o₀ s : State} (hev : Evolves o₀ s) :
    Evolves o₀ (State.markPower s) := by
  unfold State.markPower
  try dsimp only
  repeat' first
    | with_reducible assumption | with_reducible refine Evolves.ite (fun _ => ?_) (fun _ => ?_)
    | fail_if_no_progress with_reducible apply Evolves.lit
theorem State.inputGone_ev {o₀ s : State} (hev : Evolves o₀ s) :
    Evolves o₀ (State.inputGone s) := by
  unfold State.inputGone
  try dsimp only
  repeat' first
    | with_reducible assumption | fail_if_no_progress with_reducible apply Evolves.lit
theorem State.shutDown_ev {o₀ s : State} (hev : Evolves o₀ s) :
    Evolves o₀ (State.shutDown s) := by
  unfold State.shutDown
  try dsimp only
  repeat' first
    | with_reducible assumption | with_reducible apply State.inputGone_ev | with_reducible apply State.markPower_ev
    | with_reducible apply State.powerLost_ev | with_reducible refine Evolves.ite (fun _ => ?_) (fun _ => ?_)
theorem State.inputSampled_ev {o₀ s : State} (mv : Nat) (both : Bool) (hev : Evolves o₀ s) :
    Evolves o₀ (State.inputSampled s mv both) := by
  unfold State.inputSampled
  try dsimp only
  repeat' first
    | with_reducible assumption | with_reducible intro _ | with_reducible apply State.inputGone_ev | with_reducible apply State.shutDown_ev
    | with_reducible apply State.postAdmin_ev | with_reducible refine Evolves.ite (fun _ => ?_) (fun _ => ?_)
    | fail_if_no_progress with_reducible apply Evolves.lit | refine EvolvesP.of (by with_reducible assumption) ?_
    | refine EvolvesS.of (by with_reducible assumption) ?_ | with_reducible refine EvolvesS.ite (fun _ => ?_) (fun _ => ?_)
    | exact EvolvesS.none | with_reducible refine EvolvesS.put ?_ | split
theorem execInputSample_ev {o₀ s : State} (r : InputReading) (hev : Evolves o₀ s) :
    EvolvesO o₀ (execInputSample r s) := by
  unfold execInputSample
  try dsimp only
  repeat' first
    | with_reducible assumption | with_reducible intro _ | with_reducible apply State.inputSampled_ev
    | with_reducible refine EvolvesO.ite (fun _ => ?_) (fun _ => ?_) | refine EvolvesO.next ?_
theorem execInputTransientExpiry_ev {o₀ s : State} (hev : Evolves o₀ s) :
    EvolvesO o₀ (execInputTransientExpiry s) := by
  unfold execInputTransientExpiry
  try dsimp only
  repeat' first
    | with_reducible assumption | with_reducible apply State.reach_ev | with_reducible apply State.shutDown_ev | refine EvolvesO.next ?_
    | split
theorem execConverterStart_ev {o₀ s : State} (hev : Evolves o₀ s) :
    EvolvesO o₀ (execConverterStart s) := by
  unfold execConverterStart
  try dsimp only
  repeat' first
    | with_reducible assumption | refine EvolvesO.next ?_ | with_reducible refine Evolves.ite (fun _ => ?_) (fun _ => ?_)
    | fail_if_no_progress with_reducible apply Evolves.lit
theorem State.onPowered_ev {o₀ s : State} (t : TileId) (f : State → State) (h_f : ∀ s', Evolves o₀ s' → Evolves o₀ (f s')) (hev : Evolves o₀ s) :
    EvolvesO o₀ (State.onPowered s t f) := by
  unfold State.onPowered
  try dsimp only
  repeat' first
    | with_reducible assumption | with_reducible apply h_f | with_reducible refine EvolvesO.ite (fun _ => ?_) (fun _ => ?_)
    | refine EvolvesO.next ?_ | exact EvolvesO.fault _ | with_reducible refine Evolves.ite (fun _ => ?_) (fun _ => ?_)
theorem execDroopLevel1_ev {o₀ s : State} (t : TileId) (mv : U16) (hev : Evolves o₀ s) :
    EvolvesO o₀ (execDroopLevel1 t mv s) := by
  unfold execDroopLevel1
  try dsimp only
  repeat' first
    | with_reducible assumption | with_reducible intro _ | with_reducible apply State.modTile_ev | with_reducible apply State.onPowered_ev
theorem State.droopLimit_ev {o₀ s : State} (t : TileId) (mv : U16) (vnom : U16) (edges : Nat) (hev : Evolves o₀ s) :
    Evolves o₀ (State.droopLimit s t mv vnom edges) := by
  unfold State.droopLimit
  try dsimp only
  repeat' first
    | with_reducible assumption | with_reducible apply State.tileFault_ev | with_reducible apply State.modTile_ev
    | fail_if_no_progress with_reducible apply Evolves.lit
theorem execDroopLevel2_ev {o₀ s : State} (t : TileId) (mv : U16) (vnom : U16) (hev : Evolves o₀ s) :
    EvolvesO o₀ (execDroopLevel2 t mv vnom s) := by
  unfold execDroopLevel2
  try dsimp only
  repeat' first
    | with_reducible assumption | with_reducible intro _ | with_reducible apply State.droopLimit_ev
    | with_reducible apply State.onPowered_ev | with_reducible refine Evolves.ite (fun _ => ?_) (fun _ => ?_)
theorem execDroopStretchEnd_ev {o₀ s : State} (t : TileId) (hev : Evolves o₀ s) :
    EvolvesO o₀ (execDroopStretchEnd t s) := by
  unfold execDroopStretchEnd
  try dsimp only
  repeat' first
    | with_reducible assumption | with_reducible intro _ | with_reducible apply State.modTile_ev | with_reducible apply State.onPowered_ev
    | with_reducible refine Evolves.ite (fun _ => ?_) (fun _ => ?_) | fail_if_no_progress with_reducible apply Evolves.lit
theorem State.postPower_ev {o₀ s : State} (p : Option PartId) (code : Nat) (body : Bytes) (hev : Evolves o₀ s) :
    Evolves o₀ (State.postPower s p code body) := by
  unfold State.postPower
  try dsimp only
  repeat' first
    | with_reducible assumption | with_reducible apply State.postAdmin_ev | with_reducible apply State.postPart_ev | split
theorem State.marginTaken_ev {o₀ s : State} (t : TileId) (ps : Int) (hev : Evolves o₀ s) :
    Evolves o₀ (State.marginTaken s t ps) := by
  unfold State.marginTaken
  try dsimp only
  repeat' first
    | with_reducible assumption | with_reducible apply State.postPower_ev | with_reducible apply State.modTile_ev
    | with_reducible refine Evolves.ite (fun _ => ?_) (fun _ => ?_)
theorem execMarginMeasure_ev {o₀ s : State} (t : TileId) (marginPs : U32) (hev : Evolves o₀ s) :
    EvolvesO o₀ (execMarginMeasure t marginPs s) := by
  unfold execMarginMeasure
  try dsimp only
  repeat' first
    | with_reducible assumption | with_reducible intro _ | with_reducible apply State.marginTaken_ev
    | with_reducible apply State.onPowered_ev
theorem State.tileBubbles_ev {o₀ s : State} (d : Nat) (t : TileId) (hev : Evolves o₀ s) :
    Evolves o₀ (State.tileBubbles d s t) := by
  unfold State.tileBubbles
  try dsimp only
  repeat' first
    | with_reducible assumption | with_reducible apply State.modTile_ev | with_reducible refine Evolves.ite (fun _ => ?_) (fun _ => ?_)
theorem State.capPart_ev {o₀ s : State} (input : Nat) (watts : List Nat) (p : PartId) (hev : Evolves o₀ s) :
    Evolves o₀ (State.capPart input watts s p) := by
  unfold State.capPart
  try dsimp only
  repeat' first
    | with_reducible assumption | with_reducible apply State.modPart_ev | with_reducible apply State.tileBubbles_ev
    | with_reducible refine Evolves.ite (fun _ => ?_) (fun _ => ?_) | with_reducible refine Evolves.foldl _ (fun _ _ _ => ?_) ?_
theorem State.capWindow_ev {o₀ s : State} (watts : List Nat) (input : Nat) (hev : Evolves o₀ s) :
    Evolves o₀ (State.capWindow s watts input) := by
  unfold State.capWindow
  try dsimp only
  repeat' first
    | with_reducible assumption | with_reducible apply State.postAdmin_ev | with_reducible apply State.capPart_ev
    | with_reducible refine Evolves.ite (fun _ => ?_) (fun _ => ?_) | with_reducible refine Evolves.foldl _ (fun _ _ _ => ?_) ?_
    | fail_if_no_progress with_reducible apply Evolves.lit
theorem execCapWindow_ev {o₀ s : State} (watts : List Nat) (inputW : Nat) (hev : Evolves o₀ s) :
    EvolvesO o₀ (execCapWindow watts inputW s) := by
  unfold execCapWindow
  try dsimp only
  repeat' first
    | with_reducible assumption | with_reducible apply State.capWindow_ev | refine EvolvesO.next ?_
    | with_reducible refine Evolves.ite (fun _ => ?_) (fun _ => ?_)
theorem State.headroomOut_ev {o₀ s : State} (p : PartId) (hev : Evolves o₀ s) :
    Evolves o₀ (State.headroomOut s p) := by
  unfold State.headroomOut
  try dsimp only
  repeat' first
    | with_reducible assumption | with_reducible apply State.modPart_ev | with_reducible apply State.postPart_ev
    | with_reducible refine Evolves.ite (fun _ => ?_) (fun _ => ?_)
theorem execHeadroomExhausted_ev {o₀ s : State} (p : PartId) (hev : Evolves o₀ s) :
    EvolvesO o₀ (execHeadroomExhausted p s) := by
  unfold execHeadroomExhausted
  try dsimp only
  repeat' first
    | with_reducible assumption | with_reducible apply State.headroomOut_ev | refine EvolvesO.next ?_
    | with_reducible refine Evolves.ite (fun _ => ?_) (fun _ => ?_)
theorem State.hotSample_ev {o₀ s : State} (x : Sensor) (c10 : Int) (hev : Evolves o₀ s) :
    Evolves o₀ (State.hotSample s x c10) := by
  unfold State.hotSample
  try dsimp only
  repeat' first
    | with_reducible assumption | with_reducible intro _ | with_reducible apply State.toInbox_ev | with_reducible apply State.failAttempt_ev
    | with_reducible apply State.countFault_ev | with_reducible apply State.postPower_ev
    | with_reducible refine Evolves.ite (fun _ => ?_) (fun _ => ?_) | fail_if_no_progress with_reducible apply Evolves.lit
theorem State.tripAttempt_ev {o₀ s : State} (c10 : Int) (hev : Evolves o₀ s) :
    Evolves o₀ (State.tripAttempt s c10) := by
  unfold State.tripAttempt
  try dsimp only
  repeat' first
    | with_reducible assumption | with_reducible apply State.logStart_ev | with_reducible refine Evolves.ite (fun _ => ?_) (fun _ => ?_)
theorem State.dieTrip_ev {o₀ s : State} (x : Sensor) (c10 : Int) (hev : Evolves o₀ s) : Evolves o₀ (s.dieTrip x c10) := by
  unfold State.dieTrip
  dsimp only
  have h1 : Evolves o₀ (((s.tripAttempt c10).sendResets).wiped true) := State.wiped_ev _ (State.sendResets_ev (State.tripAttempt_ev _ hev))
  generalize ((s.tripAttempt c10).sendResets).wiped true = s1 at h1 ⊢
  refine State.logFault_ev _ ⟨h1.member, h1.pending, fun x => let y := h1.sound x
    ⟨y.tiles, y.seams, y.regions, y.channels, y.bindings, y.rows, rfl, y.flat, y.inbox, Nat.zero_le _⟩⟩
theorem State.packageTrip_ev {o₀ s : State} (x : Sensor) (c10 : Int) (hev : Evolves o₀ s) :
    Evolves o₀ (State.packageTrip s x c10) := by
  unfold State.packageTrip
  try dsimp only
  repeat' first
    | with_reducible assumption | with_reducible apply State.powerLost_ev | with_reducible apply State.tripAttempt_ev
    | with_reducible apply State.sendResets_ev | fail_if_no_progress with_reducible apply Evolves.lit
theorem State.sampled_ev {o₀ s : State} (x : Sensor) (c10 : Int) (hev : Evolves o₀ s) :
    Evolves o₀ (State.sampled s x c10) := by
  unfold State.sampled
  try dsimp only
  repeat' first
    | with_reducible assumption | with_reducible apply State.packageTrip_ev | with_reducible apply State.dieTrip_ev
    | with_reducible apply State.hotSample_ev | fail_if_no_progress with_reducible apply Evolves.lit | split
theorem execThermalSample_ev {o₀ s : State} (x : Sensor) (deciC : U32) (hev : Evolves o₀ s) :
    EvolvesO o₀ (execThermalSample x deciC s) := by
  unfold execThermalSample
  try dsimp only
  repeat' first
    | with_reducible assumption | with_reducible apply State.sampled_ev | with_reducible refine EvolvesO.ite (fun _ => ?_) (fun _ => ?_)
    | refine EvolvesO.next ?_ | exact EvolvesO.fault _ | with_reducible refine Evolves.ite (fun _ => ?_) (fun _ => ?_)
theorem State.coolantTaken_ev {o₀ s : State} (flow : U16) (inlet : U16) (outlet : U16) (hev : Evolves o₀ s) :
    Evolves o₀ (State.coolantTaken s flow inlet outlet) := by
  unfold State.coolantTaken
  try dsimp only
  repeat' first
    | with_reducible assumption | with_reducible apply State.postAdmin_ev | with_reducible refine Evolves.ite (fun _ => ?_) (fun _ => ?_)
    | fail_if_no_progress with_reducible apply Evolves.lit
theorem execCoolantCheck_ev {o₀ s : State} (flow : U16) (inlet : U16) (outlet : U16) (hev : Evolves o₀ s) :
    EvolvesO o₀ (execCoolantCheck flow inlet outlet s) := by
  unfold execCoolantCheck
  try dsimp only
  repeat' first
    | with_reducible assumption | with_reducible apply State.coolantTaken_ev | refine EvolvesO.next ?_
    | with_reducible refine Evolves.ite (fun _ => ?_) (fun _ => ?_)
theorem execIdleExitDone_ev {o₀ s : State} (hd : HdId) (hev : Evolves o₀ s) :
    EvolvesO o₀ (execIdleExitDone hd s) := by
  unfold execIdleExitDone
  try dsimp only
  repeat' first
    | with_reducible assumption | with_reducible refine EvolvesO.ite (fun _ => ?_) (fun _ => ?_) | refine EvolvesO.next ?_
    | exact EvolvesO.fault _ | fail_if_no_progress with_reducible apply Evolves.lit
theorem execCblPrsntChange_ev {o₀ s : State} (port : PortId) (present : Bool) (hev : Evolves o₀ s) :
    EvolvesO o₀ (execCblPrsntChange port present s) := by
  unfold execCblPrsntChange
  try dsimp only
  repeat' first
    | with_reducible assumption | with_reducible apply State.lanesLost_ev | with_reducible apply State.modPort_ev | refine EvolvesO.next ?_
    | with_reducible refine Evolves.ite (fun _ => ?_) (fun _ => ?_)
theorem execCblSupplyOvercurrent_ev {o₀ s : State} (port : PortId) (hev : Evolves o₀ s) :
    EvolvesO o₀ (execCblSupplyOvercurrent port s) := by
  unfold execCblSupplyOvercurrent
  try dsimp only
  repeat' first
    | with_reducible assumption | with_reducible apply State.lanesLost_ev | with_reducible apply State.modPort_ev | refine EvolvesO.next ?_
    | with_reducible refine Evolves.ite (fun _ => ?_) (fun _ => ?_)
theorem State.signed_ev {o₀ s : State} (a : Attest) (hev : Evolves o₀ s) :
    Evolves o₀ (State.signed s a) := by
  unfold State.signed
  try dsimp only
  repeat' first
    | with_reducible assumption | with_reducible intro _ | with_reducible apply State.spdmReply_ev | with_reducible apply State.answer_ev
    | with_reducible apply State.spdmGiven_ev | with_reducible refine (State.spdmReply_ev _ _ ?_).fst
    | with_reducible refine Evolves.ite (fun _ => ?_) (fun _ => ?_) | fail_if_no_progress with_reducible apply Evolves.lit
    | refine EvolvesP.of (by with_reducible assumption) ?_ | refine EvolvesS.of (by with_reducible assumption) ?_
    | with_reducible refine EvolvesS.ite (fun _ => ?_) (fun _ => ?_) | exact EvolvesS.none | with_reducible refine EvolvesS.put ?_ | split
theorem execAttestationSignDone_ev {o₀ s : State} (hev : Evolves o₀ s) :
    EvolvesO o₀ (execAttestationSignDone s) := by
  unfold execAttestationSignDone
  try dsimp only
  repeat' first
    | with_reducible assumption | with_reducible apply State.signed_ev | refine EvolvesO.next ?_
    | fail_if_no_progress with_reducible apply Evolves.lit | split
theorem State.dropSignatures_ev {o₀ s : State} (hev : Evolves o₀ s) :
    Evolves o₀ (State.dropSignatures s) := by
  unfold State.dropSignatures
  try dsimp only
  repeat' first
    | with_reducible assumption | with_reducible apply State.answer_ev | with_reducible refine Evolves.foldl _ (fun _ _ _ => ?_) ?_
    | fail_if_no_progress with_reducible apply Evolves.lit | split
theorem State.failAuths_ev {o₀ s : State} (hev : Evolves o₀ s) :
    Evolves o₀ (State.failAuths s) := by
  unfold State.failAuths
  try dsimp only
  repeat' first
    | with_reducible assumption | with_reducible apply State.admitFail_ev | with_reducible refine Evolves.ite (fun _ => ?_) (fun _ => ?_)
    | with_reducible refine Evolves.foldl _ (fun _ _ _ => ?_) ?_
theorem State.unlock_ev {o₀ s : State} (hev : Evolves o₀ s) :
    Evolves o₀ (State.unlock s) := by
  unfold State.unlock
  try dsimp only
  repeat' first
    | with_reducible assumption | with_reducible apply State.failAuths_ev | with_reducible apply State.dropSignatures_ev
    | with_reducible apply State.sendResets_ev | fail_if_no_progress with_reducible apply Evolves.lit
theorem execDebugUnlock_ev {o₀ s : State} (token : Bytes) (hev : Evolves o₀ s) :
    EvolvesO o₀ (execDebugUnlock token s) := by
  unfold execDebugUnlock
  try dsimp only
  repeat' first
    | with_reducible assumption | with_reducible apply State.unlock_ev | refine EvolvesO.next ?_
    | with_reducible refine Evolves.ite (fun _ => ?_) (fun _ => ?_) | fail_if_no_progress with_reducible apply Evolves.lit
theorem State.sendOn_ev {o₀ s : State} (tr : Transport) (msg : Bytes) (hev : Evolves o₀ s) :
    Evolves o₀ (State.sendOn s tr msg) := by
  unfold State.sendOn
  try dsimp only
  repeat' first
    | with_reducible assumption | fail_if_no_progress with_reducible apply Evolves.lit
theorem State.standardReply_ev {o₀ s : State} (tr : Transport) (request : Bytes) (value : Bytes) (hev : Evolves o₀ s) :
    Evolves o₀ (State.standardReply s tr request value) := by
  unfold State.standardReply
  try dsimp only
  repeat' first
    | with_reducible assumption | with_reducible apply State.sendOn_ev | fail_if_no_progress with_reducible apply Evolves.lit
theorem State.onTransport_ev {o₀ s : State} (tr : Transport) (f : State → State) (h_f : ∀ s', Evolves o₀ s' → Evolves o₀ (f s'))
    (hev : Evolves o₀ s) :
    EvolvesO o₀ (State.onTransport s tr f) := by
  unfold State.onTransport
  try dsimp only
  repeat' first
    | with_reducible assumption | with_reducible apply h_f | refine EvolvesO.next ?_
    | with_reducible refine Evolves.ite (fun _ => ?_) (fun _ => ?_)
theorem State.spdmMessage_ev {o₀ s : State} (tr : Transport) (msg : Bytes) (hev : Evolves o₀ s) :
    Evolves o₀ (State.spdmMessage s tr msg) := by
  unfold State.spdmMessage
  try dsimp only
  repeat' first
    | with_reducible assumption | with_reducible apply State.sign_ev | with_reducible apply State.sendOn_ev
    | with_reducible refine (State.spdmReply_ev _ _ ?_).fst | with_reducible refine Evolves.ite (fun _ => ?_) (fun _ => ?_)
theorem execSpdmMctp_ev {o₀ s : State} (tr : Transport) (msg : Bytes) (hev : Evolves o₀ s) :
    EvolvesO o₀ (execSpdmMctp tr msg s) := by
  unfold execSpdmMctp
  try dsimp only
  repeat' first
    | with_reducible assumption | with_reducible intro _ | with_reducible apply State.onTransport_ev
    | with_reducible apply State.spdmMessage_ev
theorem execMctpControl_ev {o₀ s : State} (tr : Transport) (msg : Bytes) (hev : Evolves o₀ s) :
    EvolvesO o₀ (execMctpControl tr msg s) := by
  unfold execMctpControl
  try dsimp only
  repeat' first
    | with_reducible assumption | with_reducible intro _ | with_reducible apply State.onTransport_ev
    | with_reducible apply State.standardReply_ev | fail_if_no_progress with_reducible apply Evolves.lit | split
theorem execI3cSetdasa_ev {o₀ s : State} (static : BitVec 7) (dynamic : BitVec 7) (hev : Evolves o₀ s) :
    EvolvesO o₀ (execI3cSetdasa static dynamic s) := by
  unfold execI3cSetdasa
  try dsimp only
  repeat' first
    | with_reducible assumption | with_reducible intro _ | with_reducible apply State.onTransport_ev
    | with_reducible refine Evolves.ite (fun _ => ?_) (fun _ => ?_) | fail_if_no_progress with_reducible apply Evolves.lit
theorem execI3cEntdaa_ev {o₀ s : State} (dynamic : BitVec 7) (hev : Evolves o₀ s) :
    EvolvesO o₀ (execI3cEntdaa dynamic s) := by
  unfold execI3cEntdaa
  try dsimp only
  repeat' first
    | with_reducible assumption | with_reducible intro _ | with_reducible apply State.onTransport_ev
    | with_reducible refine Evolves.ite (fun _ => ?_) (fun _ => ?_) | fail_if_no_progress with_reducible apply Evolves.lit
theorem execPldmType0_ev {o₀ s : State} (tr : Transport) (msg : Bytes) (hev : Evolves o₀ s) :
    EvolvesO o₀ (execPldmType0 tr msg s) := by
  unfold execPldmType0
  try dsimp only
  repeat' first
    | with_reducible assumption | with_reducible intro _ | with_reducible apply State.onTransport_ev
    | with_reducible apply State.standardReply_ev
theorem execGetSensorReading_ev {o₀ s : State} (tr : Transport) (sensor : U16) (hev : Evolves o₀ s) :
    EvolvesO o₀ (execGetSensorReading tr sensor s) := by
  unfold execGetSensorReading
  try dsimp only
  repeat' first
    | with_reducible assumption | with_reducible intro _ | with_reducible apply State.onTransport_ev
    | with_reducible apply State.standardReply_ev
theorem execGetStateSensorReadings_ev {o₀ s : State} (tr : Transport) (sensor : U16) (hev : Evolves o₀ s) :
    EvolvesO o₀ (execGetStateSensorReadings tr sensor s) := by
  unfold execGetStateSensorReadings
  try dsimp only
  repeat' first
    | with_reducible assumption | with_reducible intro _ | with_reducible apply State.onTransport_ev
    | with_reducible apply State.standardReply_ev
theorem execGetPdr_ev {o₀ s : State} (tr : Transport) (handle : U32) (hev : Evolves o₀ s) :
    EvolvesO o₀ (execGetPdr tr handle s) := by
  unfold execGetPdr
  try dsimp only
  repeat' first
    | with_reducible assumption | with_reducible intro _ | with_reducible apply State.onTransport_ev
    | with_reducible apply State.standardReply_ev

end Sys2Proof.Machine
end

