-- ==== Sys2Proof/Laws/State.lean ====
section
/-!
SUPPORT. What each update of the state leaves and what it sets: one lemma per field and update, true by rfl, and the readings of tiles,
partitions, functions, ports and mailboxes after an update.
-/

namespace Sys2Proof.Machine

/-! `State.setTile` writes `tiles` and nothing else. -/
@[simp] theorem State.setTile_member (s : State) (t : TileId) (v : Tile) : (s.setTile t v).member = s.member := rfl
@[simp] theorem State.setTile_count (s : State) (t : TileId) (v : Tile) : (s.setTile t v).count = s.count := rfl
@[simp] theorem State.setTile_pllLocked (s : State) (t : TileId) (v : Tile) : (s.setTile t v).pllLocked = s.pllLocked := rfl
@[simp] theorem State.setTile_holdover (s : State) (t : TileId) (v : Tile) : (s.setTile t v).holdover = s.holdover := rfl
@[simp] theorem State.setTile_tsyncEn (s : State) (t : TileId) (v : Tile) : (s.setTile t v).tsyncEn = s.tsyncEn := rfl
@[simp] theorem State.setTile_tsyncCapture (s : State) (t : TileId) (v : Tile) : (s.setTile t v).tsyncCapture = s.tsyncCapture := rfl
@[simp] theorem State.setTile_tsyncCaptures (s : State) (t : TileId) (v : Tile) : (s.setTile t v).tsyncCaptures = s.tsyncCaptures := rfl
@[simp] theorem State.setTile_tsyncPulses (s : State) (t : TileId) (v : Tile) : (s.setTile t v).tsyncPulses = s.tsyncPulses := rfl
@[simp] theorem State.setTile_parts (s : State) (t : TileId) (v : Tile) : (s.setTile t v).parts = s.parts := rfl
@[simp] theorem State.setTile_placement (s : State) (t : TileId) (v : Tile) : (s.setTile t v).placement = s.placement := rfl
@[simp] theorem State.setTile_mapPend (s : State) (t : TileId) (v : Tile) : (s.setTile t v).mapPend = s.mapPend := rfl
@[simp] theorem State.setTile_mapOld (s : State) (t : TileId) (v : Tile) : (s.setTile t v).mapOld = s.mapOld := rfl
@[simp] theorem State.setTile_seams (s : State) (t : TileId) (v : Tile) : (s.setTile t v).seams = s.seams := rfl
@[simp] theorem State.setTile_net (s : State) (t : TileId) (v : Tile) : (s.setTile t v).net = s.net := rfl
@[simp] theorem State.setTile_ioQueue (s : State) (t : TileId) (v : Tile) : (s.setTile t v).ioQueue = s.ioQueue := rfl
@[simp] theorem State.setTile_mgmtOut (s : State) (t : TileId) (v : Tile) : (s.setTile t v).mgmtOut = s.mgmtOut := rfl
@[simp] theorem State.setTile_dram (s : State) (t : TileId) (v : Tile) : (s.setTile t v).dram = s.dram := rfl
@[simp] theorem State.setTile_regions (s : State) (t : TileId) (v : Tile) : (s.setTile t v).regions = s.regions := rfl
@[simp] theorem State.setTile_rowsMarked (s : State) (t : TileId) (v : Tile) : (s.setTile t v).rowsMarked = s.rowsMarked := rfl
@[simp] theorem State.setTile_rowSyms (s : State) (t : TileId) (v : Tile) : (s.setTile t v).rowSyms = s.rowSyms := rfl
@[simp] theorem State.setTile_rowsBad (s : State) (t : TileId) (v : Tile) : (s.setTile t v).rowsBad = s.rowsBad := rfl
@[simp] theorem State.setTile_sparesUsed (s : State) (t : TileId) (v : Tile) : (s.setTile t v).sparesUsed = s.sparesUsed := rfl
@[simp] theorem State.setTile_corrections (s : State) (t : TileId) (v : Tile) : (s.setTile t v).corrections = s.corrections := rfl
@[simp] theorem State.setTile_pinsFailed (s : State) (t : TileId) (v : Tile) : (s.setTile t v).pinsFailed = s.pinsFailed := rfl
@[simp] theorem State.setTile_pinRows (s : State) (t : TileId) (v : Tile) : (s.setTile t v).pinRows = s.pinRows := rfl
@[simp] theorem State.setTile_channels (s : State) (t : TileId) (v : Tile) : (s.setTile t v).channels = s.channels := rfl
@[simp] theorem State.setTile_fns (s : State) (t : TileId) (v : Tile) : (s.setTile t v).fns = s.fns := rfl
@[simp] theorem State.setTile_inbox (s : State) (t : TileId) (v : Tile) : (s.setTile t v).inbox = s.inbox := rfl
@[simp] theorem State.setTile_inboxLost (s : State) (t : TileId) (v : Tile) : (s.setTile t v).inboxLost = s.inboxLost := rfl
@[simp] theorem State.setTile_faultLog (s : State) (t : TileId) (v : Tile) : (s.setTile t v).faultLog = s.faultLog := rfl
@[simp] theorem State.setTile_faultHead (s : State) (t : TileId) (v : Tile) : (s.setTile t v).faultHead = s.faultHead := rfl
@[simp] theorem State.setTile_faultHeld (s : State) (t : TileId) (v : Tile) : (s.setTile t v).faultHeld = s.faultHeld := rfl
@[simp] theorem State.setTile_resets (s : State) (t : TileId) (v : Tile) : (s.setTile t v).resets = s.resets := rfl
@[simp] theorem State.setTile_latchOut (s : State) (t : TileId) (v : Tile) : (s.setTile t v).latchOut = s.latchOut := rfl
@[simp] theorem State.setTile_adminFn (s : State) (t : TileId) (v : Tile) : (s.setTile t v).adminFn = s.adminFn := rfl
@[simp] theorem State.setTile_adminNext (s : State) (t : TileId) (v : Tile) : (s.setTile t v).adminNext = s.adminNext := rfl
@[simp] theorem State.setTile_waiters (s : State) (t : TileId) (v : Tile) : (s.setTile t v).waiters = s.waiters := rfl
@[simp] theorem State.setTile_bifur (s : State) (t : TileId) (v : Tile) : (s.setTile t v).bifur = s.bifur := rfl
@[simp] theorem State.setTile_bifurNext (s : State) (t : TileId) (v : Tile) : (s.setTile t v).bifurNext = s.bifurNext := rfl
@[simp] theorem State.setTile_ports (s : State) (t : TileId) (v : Tile) : (s.setTile t v).ports = s.ports := rfl
@[simp] theorem State.setTile_ctlIn (s : State) (t : TileId) (v : Tile) : (s.setTile t v).ctlIn = s.ctlIn := rfl
@[simp] theorem State.setTile_flatW (s : State) (t : TileId) (v : Tile) : (s.setTile t v).flatW = s.flatW := rfl
@[simp] theorem State.setTile_flatE (s : State) (t : TileId) (v : Tile) : (s.setTile t v).flatE = s.flatE := rfl
@[simp] theorem State.setTile_bindings (s : State) (t : TileId) (v : Tile) : (s.setTile t v).bindings = s.bindings := rfl
@[simp] theorem State.setTile_serviceOut (s : State) (t : TileId) (v : Tile) : (s.setTile t v).serviceOut = s.serviceOut := rfl
@[simp] theorem State.setTile_rows (s : State) (t : TileId) (v : Tile) : (s.setTile t v).rows = s.rows := rfl
@[simp] theorem State.setTile_retired (s : State) (t : TileId) (v : Tile) : (s.setTile t v).retired = s.retired := rfl
@[simp] theorem State.setTile_slowPlan (s : State) (t : TileId) (v : Tile) : (s.setTile t v).slowPlan = s.slowPlan := rfl
@[simp] theorem State.setTile_fuses (s : State) (t : TileId) (v : Tile) : (s.setTile t v).fuses = s.fuses := rfl
@[simp] theorem State.setTile_defects (s : State) (t : TileId) (v : Tile) : (s.setTile t v).defects = s.defects := rfl
@[simp] theorem State.setTile_defectSeq (s : State) (t : TileId) (v : Tile) : (s.setTile t v).defectSeq = s.defectSeq := rfl
@[simp] theorem State.setTile_defectGen (s : State) (t : TileId) (v : Tile) : (s.setTile t v).defectGen = s.defectGen := rfl
@[simp] theorem State.setTile_defectOther (s : State) (t : TileId) (v : Tile) : (s.setTile t v).defectOther = s.defectOther := rfl
@[simp] theorem State.setTile_defectQueue (s : State) (t : TileId) (v : Tile) : (s.setTile t v).defectQueue = s.defectQueue := rfl
@[simp] theorem State.setTile_testResults (s : State) (t : TileId) (v : Tile) : (s.setTile t v).testResults = s.testResults := rfl
@[simp] theorem State.setTile_boot (s : State) (t : TileId) (v : Tile) : (s.setTile t v).boot = s.boot := rfl
@[simp] theorem State.setTile_power (s : State) (t : TileId) (v : Tile) : (s.setTile t v).power = s.power := rfl
@[simp] theorem State.setTile_sec (s : State) (t : TileId) (v : Tile) : (s.setTile t v).sec = s.sec := rfl
@[simp] theorem State.setTile_deviceEnergy (s : State) (t : TileId) (v : Tile) : (s.setTile t v).deviceEnergy = s.deviceEnergy := rfl
@[simp] theorem State.setTile_drbg (s : State) (t : TileId) (v : Tile) : (s.setTile t v).drbg = s.drbg := rfl
@[simp] theorem State.setTile_draws (s : State) (t : TileId) (v : Tile) : (s.setTile t v).draws = s.draws := rfl
@[simp] theorem State.setTile_pending (s : State) (t : TileId) (v : Tile) : (s.setTile t v).pending = s.pending := rfl

/-! `State.modTile` writes `tiles` and nothing else. -/
@[simp] theorem State.modTile_member (s : State) (t : TileId) (f : Tile → Tile) : (s.modTile t f).member = s.member := rfl
@[simp] theorem State.modTile_count (s : State) (t : TileId) (f : Tile → Tile) : (s.modTile t f).count = s.count := rfl
@[simp] theorem State.modTile_pllLocked (s : State) (t : TileId) (f : Tile → Tile) : (s.modTile t f).pllLocked = s.pllLocked := rfl
@[simp] theorem State.modTile_holdover (s : State) (t : TileId) (f : Tile → Tile) : (s.modTile t f).holdover = s.holdover := rfl
@[simp] theorem State.modTile_tsyncEn (s : State) (t : TileId) (f : Tile → Tile) : (s.modTile t f).tsyncEn = s.tsyncEn := rfl
@[simp] theorem State.modTile_tsyncCapture (s : State) (t : TileId) (f : Tile → Tile) : (s.modTile t f).tsyncCapture = s.tsyncCapture := rfl
@[simp] theorem State.modTile_tsyncCaptures (s : State) (t : TileId) (f : Tile → Tile) : (s.modTile t f).tsyncCaptures = s.tsyncCaptures := rfl
@[simp] theorem State.modTile_tsyncPulses (s : State) (t : TileId) (f : Tile → Tile) : (s.modTile t f).tsyncPulses = s.tsyncPulses := rfl
@[simp] theorem State.modTile_parts (s : State) (t : TileId) (f : Tile → Tile) : (s.modTile t f).parts = s.parts := rfl
@[simp] theorem State.modTile_placement (s : State) (t : TileId) (f : Tile → Tile) : (s.modTile t f).placement = s.placement := rfl
@[simp] theorem State.modTile_mapPend (s : State) (t : TileId) (f : Tile → Tile) : (s.modTile t f).mapPend = s.mapPend := rfl
@[simp] theorem State.modTile_mapOld (s : State) (t : TileId) (f : Tile → Tile) : (s.modTile t f).mapOld = s.mapOld := rfl
@[simp] theorem State.modTile_seams (s : State) (t : TileId) (f : Tile → Tile) : (s.modTile t f).seams = s.seams := rfl
@[simp] theorem State.modTile_net (s : State) (t : TileId) (f : Tile → Tile) : (s.modTile t f).net = s.net := rfl
@[simp] theorem State.modTile_ioQueue (s : State) (t : TileId) (f : Tile → Tile) : (s.modTile t f).ioQueue = s.ioQueue := rfl
@[simp] theorem State.modTile_mgmtOut (s : State) (t : TileId) (f : Tile → Tile) : (s.modTile t f).mgmtOut = s.mgmtOut := rfl
@[simp] theorem State.modTile_dram (s : State) (t : TileId) (f : Tile → Tile) : (s.modTile t f).dram = s.dram := rfl
@[simp] theorem State.modTile_regions (s : State) (t : TileId) (f : Tile → Tile) : (s.modTile t f).regions = s.regions := rfl
@[simp] theorem State.modTile_rowsMarked (s : State) (t : TileId) (f : Tile → Tile) : (s.modTile t f).rowsMarked = s.rowsMarked := rfl
@[simp] theorem State.modTile_rowSyms (s : State) (t : TileId) (f : Tile → Tile) : (s.modTile t f).rowSyms = s.rowSyms := rfl
@[simp] theorem State.modTile_rowsBad (s : State) (t : TileId) (f : Tile → Tile) : (s.modTile t f).rowsBad = s.rowsBad := rfl
@[simp] theorem State.modTile_sparesUsed (s : State) (t : TileId) (f : Tile → Tile) : (s.modTile t f).sparesUsed = s.sparesUsed := rfl
@[simp] theorem State.modTile_corrections (s : State) (t : TileId) (f : Tile → Tile) : (s.modTile t f).corrections = s.corrections := rfl
@[simp] theorem State.modTile_pinsFailed (s : State) (t : TileId) (f : Tile → Tile) : (s.modTile t f).pinsFailed = s.pinsFailed := rfl
@[simp] theorem State.modTile_pinRows (s : State) (t : TileId) (f : Tile → Tile) : (s.modTile t f).pinRows = s.pinRows := rfl
@[simp] theorem State.modTile_channels (s : State) (t : TileId) (f : Tile → Tile) : (s.modTile t f).channels = s.channels := rfl
@[simp] theorem State.modTile_fns (s : State) (t : TileId) (f : Tile → Tile) : (s.modTile t f).fns = s.fns := rfl
@[simp] theorem State.modTile_inbox (s : State) (t : TileId) (f : Tile → Tile) : (s.modTile t f).inbox = s.inbox := rfl
@[simp] theorem State.modTile_inboxLost (s : State) (t : TileId) (f : Tile → Tile) : (s.modTile t f).inboxLost = s.inboxLost := rfl
@[simp] theorem State.modTile_faultLog (s : State) (t : TileId) (f : Tile → Tile) : (s.modTile t f).faultLog = s.faultLog := rfl
@[simp] theorem State.modTile_faultHead (s : State) (t : TileId) (f : Tile → Tile) : (s.modTile t f).faultHead = s.faultHead := rfl
@[simp] theorem State.modTile_faultHeld (s : State) (t : TileId) (f : Tile → Tile) : (s.modTile t f).faultHeld = s.faultHeld := rfl
@[simp] theorem State.modTile_resets (s : State) (t : TileId) (f : Tile → Tile) : (s.modTile t f).resets = s.resets := rfl
@[simp] theorem State.modTile_latchOut (s : State) (t : TileId) (f : Tile → Tile) : (s.modTile t f).latchOut = s.latchOut := rfl
@[simp] theorem State.modTile_adminFn (s : State) (t : TileId) (f : Tile → Tile) : (s.modTile t f).adminFn = s.adminFn := rfl
@[simp] theorem State.modTile_adminNext (s : State) (t : TileId) (f : Tile → Tile) : (s.modTile t f).adminNext = s.adminNext := rfl
@[simp] theorem State.modTile_waiters (s : State) (t : TileId) (f : Tile → Tile) : (s.modTile t f).waiters = s.waiters := rfl
@[simp] theorem State.modTile_bifur (s : State) (t : TileId) (f : Tile → Tile) : (s.modTile t f).bifur = s.bifur := rfl
@[simp] theorem State.modTile_bifurNext (s : State) (t : TileId) (f : Tile → Tile) : (s.modTile t f).bifurNext = s.bifurNext := rfl
@[simp] theorem State.modTile_ports (s : State) (t : TileId) (f : Tile → Tile) : (s.modTile t f).ports = s.ports := rfl
@[simp] theorem State.modTile_ctlIn (s : State) (t : TileId) (f : Tile → Tile) : (s.modTile t f).ctlIn = s.ctlIn := rfl
@[simp] theorem State.modTile_flatW (s : State) (t : TileId) (f : Tile → Tile) : (s.modTile t f).flatW = s.flatW := rfl
@[simp] theorem State.modTile_flatE (s : State) (t : TileId) (f : Tile → Tile) : (s.modTile t f).flatE = s.flatE := rfl
@[simp] theorem State.modTile_bindings (s : State) (t : TileId) (f : Tile → Tile) : (s.modTile t f).bindings = s.bindings := rfl
@[simp] theorem State.modTile_serviceOut (s : State) (t : TileId) (f : Tile → Tile) : (s.modTile t f).serviceOut = s.serviceOut := rfl
@[simp] theorem State.modTile_rows (s : State) (t : TileId) (f : Tile → Tile) : (s.modTile t f).rows = s.rows := rfl
@[simp] theorem State.modTile_retired (s : State) (t : TileId) (f : Tile → Tile) : (s.modTile t f).retired = s.retired := rfl
@[simp] theorem State.modTile_slowPlan (s : State) (t : TileId) (f : Tile → Tile) : (s.modTile t f).slowPlan = s.slowPlan := rfl
@[simp] theorem State.modTile_fuses (s : State) (t : TileId) (f : Tile → Tile) : (s.modTile t f).fuses = s.fuses := rfl
@[simp] theorem State.modTile_defects (s : State) (t : TileId) (f : Tile → Tile) : (s.modTile t f).defects = s.defects := rfl
@[simp] theorem State.modTile_defectSeq (s : State) (t : TileId) (f : Tile → Tile) : (s.modTile t f).defectSeq = s.defectSeq := rfl
@[simp] theorem State.modTile_defectGen (s : State) (t : TileId) (f : Tile → Tile) : (s.modTile t f).defectGen = s.defectGen := rfl
@[simp] theorem State.modTile_defectOther (s : State) (t : TileId) (f : Tile → Tile) : (s.modTile t f).defectOther = s.defectOther := rfl
@[simp] theorem State.modTile_defectQueue (s : State) (t : TileId) (f : Tile → Tile) : (s.modTile t f).defectQueue = s.defectQueue := rfl
@[simp] theorem State.modTile_testResults (s : State) (t : TileId) (f : Tile → Tile) : (s.modTile t f).testResults = s.testResults := rfl
@[simp] theorem State.modTile_boot (s : State) (t : TileId) (f : Tile → Tile) : (s.modTile t f).boot = s.boot := rfl
@[simp] theorem State.modTile_power (s : State) (t : TileId) (f : Tile → Tile) : (s.modTile t f).power = s.power := rfl
@[simp] theorem State.modTile_sec (s : State) (t : TileId) (f : Tile → Tile) : (s.modTile t f).sec = s.sec := rfl
@[simp] theorem State.modTile_deviceEnergy (s : State) (t : TileId) (f : Tile → Tile) : (s.modTile t f).deviceEnergy = s.deviceEnergy := rfl
@[simp] theorem State.modTile_drbg (s : State) (t : TileId) (f : Tile → Tile) : (s.modTile t f).drbg = s.drbg := rfl
@[simp] theorem State.modTile_draws (s : State) (t : TileId) (f : Tile → Tile) : (s.modTile t f).draws = s.draws := rfl
@[simp] theorem State.modTile_pending (s : State) (t : TileId) (f : Tile → Tile) : (s.modTile t f).pending = s.pending := rfl

/-! `State.setPart` writes `parts` and nothing else. -/
@[simp] theorem State.setPart_member (s : State) (p : PartId) (v : Part) : (s.setPart p v).member = s.member := rfl
@[simp] theorem State.setPart_count (s : State) (p : PartId) (v : Part) : (s.setPart p v).count = s.count := rfl
@[simp] theorem State.setPart_pllLocked (s : State) (p : PartId) (v : Part) : (s.setPart p v).pllLocked = s.pllLocked := rfl
@[simp] theorem State.setPart_holdover (s : State) (p : PartId) (v : Part) : (s.setPart p v).holdover = s.holdover := rfl
@[simp] theorem State.setPart_tsyncEn (s : State) (p : PartId) (v : Part) : (s.setPart p v).tsyncEn = s.tsyncEn := rfl
@[simp] theorem State.setPart_tsyncCapture (s : State) (p : PartId) (v : Part) : (s.setPart p v).tsyncCapture = s.tsyncCapture := rfl
@[simp] theorem State.setPart_tsyncCaptures (s : State) (p : PartId) (v : Part) : (s.setPart p v).tsyncCaptures = s.tsyncCaptures := rfl
@[simp] theorem State.setPart_tsyncPulses (s : State) (p : PartId) (v : Part) : (s.setPart p v).tsyncPulses = s.tsyncPulses := rfl
@[simp] theorem State.setPart_tiles (s : State) (p : PartId) (v : Part) : (s.setPart p v).tiles = s.tiles := rfl
@[simp] theorem State.setPart_placement (s : State) (p : PartId) (v : Part) : (s.setPart p v).placement = s.placement := rfl
@[simp] theorem State.setPart_mapPend (s : State) (p : PartId) (v : Part) : (s.setPart p v).mapPend = s.mapPend := rfl
@[simp] theorem State.setPart_mapOld (s : State) (p : PartId) (v : Part) : (s.setPart p v).mapOld = s.mapOld := rfl
@[simp] theorem State.setPart_seams (s : State) (p : PartId) (v : Part) : (s.setPart p v).seams = s.seams := rfl
@[simp] theorem State.setPart_net (s : State) (p : PartId) (v : Part) : (s.setPart p v).net = s.net := rfl
@[simp] theorem State.setPart_ioQueue (s : State) (p : PartId) (v : Part) : (s.setPart p v).ioQueue = s.ioQueue := rfl
@[simp] theorem State.setPart_mgmtOut (s : State) (p : PartId) (v : Part) : (s.setPart p v).mgmtOut = s.mgmtOut := rfl
@[simp] theorem State.setPart_dram (s : State) (p : PartId) (v : Part) : (s.setPart p v).dram = s.dram := rfl
@[simp] theorem State.setPart_regions (s : State) (p : PartId) (v : Part) : (s.setPart p v).regions = s.regions := rfl
@[simp] theorem State.setPart_rowsMarked (s : State) (p : PartId) (v : Part) : (s.setPart p v).rowsMarked = s.rowsMarked := rfl
@[simp] theorem State.setPart_rowSyms (s : State) (p : PartId) (v : Part) : (s.setPart p v).rowSyms = s.rowSyms := rfl
@[simp] theorem State.setPart_rowsBad (s : State) (p : PartId) (v : Part) : (s.setPart p v).rowsBad = s.rowsBad := rfl
@[simp] theorem State.setPart_sparesUsed (s : State) (p : PartId) (v : Part) : (s.setPart p v).sparesUsed = s.sparesUsed := rfl
@[simp] theorem State.setPart_corrections (s : State) (p : PartId) (v : Part) : (s.setPart p v).corrections = s.corrections := rfl
@[simp] theorem State.setPart_pinsFailed (s : State) (p : PartId) (v : Part) : (s.setPart p v).pinsFailed = s.pinsFailed := rfl
@[simp] theorem State.setPart_pinRows (s : State) (p : PartId) (v : Part) : (s.setPart p v).pinRows = s.pinRows := rfl
@[simp] theorem State.setPart_channels (s : State) (p : PartId) (v : Part) : (s.setPart p v).channels = s.channels := rfl
@[simp] theorem State.setPart_fns (s : State) (p : PartId) (v : Part) : (s.setPart p v).fns = s.fns := rfl
@[simp] theorem State.setPart_inbox (s : State) (p : PartId) (v : Part) : (s.setPart p v).inbox = s.inbox := rfl
@[simp] theorem State.setPart_inboxLost (s : State) (p : PartId) (v : Part) : (s.setPart p v).inboxLost = s.inboxLost := rfl
@[simp] theorem State.setPart_faultLog (s : State) (p : PartId) (v : Part) : (s.setPart p v).faultLog = s.faultLog := rfl
@[simp] theorem State.setPart_faultHead (s : State) (p : PartId) (v : Part) : (s.setPart p v).faultHead = s.faultHead := rfl
@[simp] theorem State.setPart_faultHeld (s : State) (p : PartId) (v : Part) : (s.setPart p v).faultHeld = s.faultHeld := rfl
@[simp] theorem State.setPart_resets (s : State) (p : PartId) (v : Part) : (s.setPart p v).resets = s.resets := rfl
@[simp] theorem State.setPart_latchOut (s : State) (p : PartId) (v : Part) : (s.setPart p v).latchOut = s.latchOut := rfl
@[simp] theorem State.setPart_adminFn (s : State) (p : PartId) (v : Part) : (s.setPart p v).adminFn = s.adminFn := rfl
@[simp] theorem State.setPart_adminNext (s : State) (p : PartId) (v : Part) : (s.setPart p v).adminNext = s.adminNext := rfl
@[simp] theorem State.setPart_waiters (s : State) (p : PartId) (v : Part) : (s.setPart p v).waiters = s.waiters := rfl
@[simp] theorem State.setPart_bifur (s : State) (p : PartId) (v : Part) : (s.setPart p v).bifur = s.bifur := rfl
@[simp] theorem State.setPart_bifurNext (s : State) (p : PartId) (v : Part) : (s.setPart p v).bifurNext = s.bifurNext := rfl
@[simp] theorem State.setPart_ports (s : State) (p : PartId) (v : Part) : (s.setPart p v).ports = s.ports := rfl
@[simp] theorem State.setPart_ctlIn (s : State) (p : PartId) (v : Part) : (s.setPart p v).ctlIn = s.ctlIn := rfl
@[simp] theorem State.setPart_flatW (s : State) (p : PartId) (v : Part) : (s.setPart p v).flatW = s.flatW := rfl
@[simp] theorem State.setPart_flatE (s : State) (p : PartId) (v : Part) : (s.setPart p v).flatE = s.flatE := rfl
@[simp] theorem State.setPart_bindings (s : State) (p : PartId) (v : Part) : (s.setPart p v).bindings = s.bindings := rfl
@[simp] theorem State.setPart_serviceOut (s : State) (p : PartId) (v : Part) : (s.setPart p v).serviceOut = s.serviceOut := rfl
@[simp] theorem State.setPart_rows (s : State) (p : PartId) (v : Part) : (s.setPart p v).rows = s.rows := rfl
@[simp] theorem State.setPart_retired (s : State) (p : PartId) (v : Part) : (s.setPart p v).retired = s.retired := rfl
@[simp] theorem State.setPart_slowPlan (s : State) (p : PartId) (v : Part) : (s.setPart p v).slowPlan = s.slowPlan := rfl
@[simp] theorem State.setPart_fuses (s : State) (p : PartId) (v : Part) : (s.setPart p v).fuses = s.fuses := rfl
@[simp] theorem State.setPart_defects (s : State) (p : PartId) (v : Part) : (s.setPart p v).defects = s.defects := rfl
@[simp] theorem State.setPart_defectSeq (s : State) (p : PartId) (v : Part) : (s.setPart p v).defectSeq = s.defectSeq := rfl
@[simp] theorem State.setPart_defectGen (s : State) (p : PartId) (v : Part) : (s.setPart p v).defectGen = s.defectGen := rfl
@[simp] theorem State.setPart_defectOther (s : State) (p : PartId) (v : Part) : (s.setPart p v).defectOther = s.defectOther := rfl
@[simp] theorem State.setPart_defectQueue (s : State) (p : PartId) (v : Part) : (s.setPart p v).defectQueue = s.defectQueue := rfl
@[simp] theorem State.setPart_testResults (s : State) (p : PartId) (v : Part) : (s.setPart p v).testResults = s.testResults := rfl
@[simp] theorem State.setPart_boot (s : State) (p : PartId) (v : Part) : (s.setPart p v).boot = s.boot := rfl
@[simp] theorem State.setPart_power (s : State) (p : PartId) (v : Part) : (s.setPart p v).power = s.power := rfl
@[simp] theorem State.setPart_sec (s : State) (p : PartId) (v : Part) : (s.setPart p v).sec = s.sec := rfl
@[simp] theorem State.setPart_deviceEnergy (s : State) (p : PartId) (v : Part) : (s.setPart p v).deviceEnergy = s.deviceEnergy := rfl
@[simp] theorem State.setPart_drbg (s : State) (p : PartId) (v : Part) : (s.setPart p v).drbg = s.drbg := rfl
@[simp] theorem State.setPart_draws (s : State) (p : PartId) (v : Part) : (s.setPart p v).draws = s.draws := rfl
@[simp] theorem State.setPart_pending (s : State) (p : PartId) (v : Part) : (s.setPart p v).pending = s.pending := rfl

/-! `State.modPart` writes `parts` and nothing else. -/
@[simp] theorem State.modPart_member (s : State) (p : PartId) (f : Part → Part) : (s.modPart p f).member = s.member := rfl
@[simp] theorem State.modPart_count (s : State) (p : PartId) (f : Part → Part) : (s.modPart p f).count = s.count := rfl
@[simp] theorem State.modPart_pllLocked (s : State) (p : PartId) (f : Part → Part) : (s.modPart p f).pllLocked = s.pllLocked := rfl
@[simp] theorem State.modPart_holdover (s : State) (p : PartId) (f : Part → Part) : (s.modPart p f).holdover = s.holdover := rfl
@[simp] theorem State.modPart_tsyncEn (s : State) (p : PartId) (f : Part → Part) : (s.modPart p f).tsyncEn = s.tsyncEn := rfl
@[simp] theorem State.modPart_tsyncCapture (s : State) (p : PartId) (f : Part → Part) : (s.modPart p f).tsyncCapture = s.tsyncCapture := rfl
@[simp] theorem State.modPart_tsyncCaptures (s : State) (p : PartId) (f : Part → Part) : (s.modPart p f).tsyncCaptures = s.tsyncCaptures := rfl
@[simp] theorem State.modPart_tsyncPulses (s : State) (p : PartId) (f : Part → Part) : (s.modPart p f).tsyncPulses = s.tsyncPulses := rfl
@[simp] theorem State.modPart_tiles (s : State) (p : PartId) (f : Part → Part) : (s.modPart p f).tiles = s.tiles := rfl
@[simp] theorem State.modPart_placement (s : State) (p : PartId) (f : Part → Part) : (s.modPart p f).placement = s.placement := rfl
@[simp] theorem State.modPart_mapPend (s : State) (p : PartId) (f : Part → Part) : (s.modPart p f).mapPend = s.mapPend := rfl
@[simp] theorem State.modPart_mapOld (s : State) (p : PartId) (f : Part → Part) : (s.modPart p f).mapOld = s.mapOld := rfl
@[simp] theorem State.modPart_seams (s : State) (p : PartId) (f : Part → Part) : (s.modPart p f).seams = s.seams := rfl
@[simp] theorem State.modPart_net (s : State) (p : PartId) (f : Part → Part) : (s.modPart p f).net = s.net := rfl
@[simp] theorem State.modPart_ioQueue (s : State) (p : PartId) (f : Part → Part) : (s.modPart p f).ioQueue = s.ioQueue := rfl
@[simp] theorem State.modPart_mgmtOut (s : State) (p : PartId) (f : Part → Part) : (s.modPart p f).mgmtOut = s.mgmtOut := rfl
@[simp] theorem State.modPart_dram (s : State) (p : PartId) (f : Part → Part) : (s.modPart p f).dram = s.dram := rfl
@[simp] theorem State.modPart_regions (s : State) (p : PartId) (f : Part → Part) : (s.modPart p f).regions = s.regions := rfl
@[simp] theorem State.modPart_rowsMarked (s : State) (p : PartId) (f : Part → Part) : (s.modPart p f).rowsMarked = s.rowsMarked := rfl
@[simp] theorem State.modPart_rowSyms (s : State) (p : PartId) (f : Part → Part) : (s.modPart p f).rowSyms = s.rowSyms := rfl
@[simp] theorem State.modPart_rowsBad (s : State) (p : PartId) (f : Part → Part) : (s.modPart p f).rowsBad = s.rowsBad := rfl
@[simp] theorem State.modPart_sparesUsed (s : State) (p : PartId) (f : Part → Part) : (s.modPart p f).sparesUsed = s.sparesUsed := rfl
@[simp] theorem State.modPart_corrections (s : State) (p : PartId) (f : Part → Part) : (s.modPart p f).corrections = s.corrections := rfl
@[simp] theorem State.modPart_pinsFailed (s : State) (p : PartId) (f : Part → Part) : (s.modPart p f).pinsFailed = s.pinsFailed := rfl
@[simp] theorem State.modPart_pinRows (s : State) (p : PartId) (f : Part → Part) : (s.modPart p f).pinRows = s.pinRows := rfl
@[simp] theorem State.modPart_channels (s : State) (p : PartId) (f : Part → Part) : (s.modPart p f).channels = s.channels := rfl
@[simp] theorem State.modPart_fns (s : State) (p : PartId) (f : Part → Part) : (s.modPart p f).fns = s.fns := rfl
@[simp] theorem State.modPart_inbox (s : State) (p : PartId) (f : Part → Part) : (s.modPart p f).inbox = s.inbox := rfl
@[simp] theorem State.modPart_inboxLost (s : State) (p : PartId) (f : Part → Part) : (s.modPart p f).inboxLost = s.inboxLost := rfl
@[simp] theorem State.modPart_faultLog (s : State) (p : PartId) (f : Part → Part) : (s.modPart p f).faultLog = s.faultLog := rfl
@[simp] theorem State.modPart_faultHead (s : State) (p : PartId) (f : Part → Part) : (s.modPart p f).faultHead = s.faultHead := rfl
@[simp] theorem State.modPart_faultHeld (s : State) (p : PartId) (f : Part → Part) : (s.modPart p f).faultHeld = s.faultHeld := rfl
@[simp] theorem State.modPart_resets (s : State) (p : PartId) (f : Part → Part) : (s.modPart p f).resets = s.resets := rfl
@[simp] theorem State.modPart_latchOut (s : State) (p : PartId) (f : Part → Part) : (s.modPart p f).latchOut = s.latchOut := rfl
@[simp] theorem State.modPart_adminFn (s : State) (p : PartId) (f : Part → Part) : (s.modPart p f).adminFn = s.adminFn := rfl
@[simp] theorem State.modPart_adminNext (s : State) (p : PartId) (f : Part → Part) : (s.modPart p f).adminNext = s.adminNext := rfl
@[simp] theorem State.modPart_waiters (s : State) (p : PartId) (f : Part → Part) : (s.modPart p f).waiters = s.waiters := rfl
@[simp] theorem State.modPart_bifur (s : State) (p : PartId) (f : Part → Part) : (s.modPart p f).bifur = s.bifur := rfl
@[simp] theorem State.modPart_bifurNext (s : State) (p : PartId) (f : Part → Part) : (s.modPart p f).bifurNext = s.bifurNext := rfl
@[simp] theorem State.modPart_ports (s : State) (p : PartId) (f : Part → Part) : (s.modPart p f).ports = s.ports := rfl
@[simp] theorem State.modPart_ctlIn (s : State) (p : PartId) (f : Part → Part) : (s.modPart p f).ctlIn = s.ctlIn := rfl
@[simp] theorem State.modPart_flatW (s : State) (p : PartId) (f : Part → Part) : (s.modPart p f).flatW = s.flatW := rfl
@[simp] theorem State.modPart_flatE (s : State) (p : PartId) (f : Part → Part) : (s.modPart p f).flatE = s.flatE := rfl
@[simp] theorem State.modPart_bindings (s : State) (p : PartId) (f : Part → Part) : (s.modPart p f).bindings = s.bindings := rfl
@[simp] theorem State.modPart_serviceOut (s : State) (p : PartId) (f : Part → Part) : (s.modPart p f).serviceOut = s.serviceOut := rfl
@[simp] theorem State.modPart_rows (s : State) (p : PartId) (f : Part → Part) : (s.modPart p f).rows = s.rows := rfl
@[simp] theorem State.modPart_retired (s : State) (p : PartId) (f : Part → Part) : (s.modPart p f).retired = s.retired := rfl
@[simp] theorem State.modPart_slowPlan (s : State) (p : PartId) (f : Part → Part) : (s.modPart p f).slowPlan = s.slowPlan := rfl
@[simp] theorem State.modPart_fuses (s : State) (p : PartId) (f : Part → Part) : (s.modPart p f).fuses = s.fuses := rfl
@[simp] theorem State.modPart_defects (s : State) (p : PartId) (f : Part → Part) : (s.modPart p f).defects = s.defects := rfl
@[simp] theorem State.modPart_defectSeq (s : State) (p : PartId) (f : Part → Part) : (s.modPart p f).defectSeq = s.defectSeq := rfl
@[simp] theorem State.modPart_defectGen (s : State) (p : PartId) (f : Part → Part) : (s.modPart p f).defectGen = s.defectGen := rfl
@[simp] theorem State.modPart_defectOther (s : State) (p : PartId) (f : Part → Part) : (s.modPart p f).defectOther = s.defectOther := rfl
@[simp] theorem State.modPart_defectQueue (s : State) (p : PartId) (f : Part → Part) : (s.modPart p f).defectQueue = s.defectQueue := rfl
@[simp] theorem State.modPart_testResults (s : State) (p : PartId) (f : Part → Part) : (s.modPart p f).testResults = s.testResults := rfl
@[simp] theorem State.modPart_boot (s : State) (p : PartId) (f : Part → Part) : (s.modPart p f).boot = s.boot := rfl
@[simp] theorem State.modPart_power (s : State) (p : PartId) (f : Part → Part) : (s.modPart p f).power = s.power := rfl
@[simp] theorem State.modPart_sec (s : State) (p : PartId) (f : Part → Part) : (s.modPart p f).sec = s.sec := rfl
@[simp] theorem State.modPart_deviceEnergy (s : State) (p : PartId) (f : Part → Part) : (s.modPart p f).deviceEnergy = s.deviceEnergy := rfl
@[simp] theorem State.modPart_drbg (s : State) (p : PartId) (f : Part → Part) : (s.modPart p f).drbg = s.drbg := rfl
@[simp] theorem State.modPart_draws (s : State) (p : PartId) (f : Part → Part) : (s.modPart p f).draws = s.draws := rfl
@[simp] theorem State.modPart_pending (s : State) (p : PartId) (f : Part → Part) : (s.modPart p f).pending = s.pending := rfl

/-! `State.modFn` writes `fns` and nothing else. -/
@[simp] theorem State.modFn_member (s : State) (i : FnId) (f : HostFn → HostFn) : (s.modFn i f).member = s.member := rfl
@[simp] theorem State.modFn_count (s : State) (i : FnId) (f : HostFn → HostFn) : (s.modFn i f).count = s.count := rfl
@[simp] theorem State.modFn_pllLocked (s : State) (i : FnId) (f : HostFn → HostFn) : (s.modFn i f).pllLocked = s.pllLocked := rfl
@[simp] theorem State.modFn_holdover (s : State) (i : FnId) (f : HostFn → HostFn) : (s.modFn i f).holdover = s.holdover := rfl
@[simp] theorem State.modFn_tsyncEn (s : State) (i : FnId) (f : HostFn → HostFn) : (s.modFn i f).tsyncEn = s.tsyncEn := rfl
@[simp] theorem State.modFn_tsyncCapture (s : State) (i : FnId) (f : HostFn → HostFn) : (s.modFn i f).tsyncCapture = s.tsyncCapture := rfl
@[simp] theorem State.modFn_tsyncCaptures (s : State) (i : FnId) (f : HostFn → HostFn) : (s.modFn i f).tsyncCaptures = s.tsyncCaptures := rfl
@[simp] theorem State.modFn_tsyncPulses (s : State) (i : FnId) (f : HostFn → HostFn) : (s.modFn i f).tsyncPulses = s.tsyncPulses := rfl
@[simp] theorem State.modFn_tiles (s : State) (i : FnId) (f : HostFn → HostFn) : (s.modFn i f).tiles = s.tiles := rfl
@[simp] theorem State.modFn_parts (s : State) (i : FnId) (f : HostFn → HostFn) : (s.modFn i f).parts = s.parts := rfl
@[simp] theorem State.modFn_placement (s : State) (i : FnId) (f : HostFn → HostFn) : (s.modFn i f).placement = s.placement := rfl
@[simp] theorem State.modFn_mapPend (s : State) (i : FnId) (f : HostFn → HostFn) : (s.modFn i f).mapPend = s.mapPend := rfl
@[simp] theorem State.modFn_mapOld (s : State) (i : FnId) (f : HostFn → HostFn) : (s.modFn i f).mapOld = s.mapOld := rfl
@[simp] theorem State.modFn_seams (s : State) (i : FnId) (f : HostFn → HostFn) : (s.modFn i f).seams = s.seams := rfl
@[simp] theorem State.modFn_net (s : State) (i : FnId) (f : HostFn → HostFn) : (s.modFn i f).net = s.net := rfl
@[simp] theorem State.modFn_ioQueue (s : State) (i : FnId) (f : HostFn → HostFn) : (s.modFn i f).ioQueue = s.ioQueue := rfl
@[simp] theorem State.modFn_mgmtOut (s : State) (i : FnId) (f : HostFn → HostFn) : (s.modFn i f).mgmtOut = s.mgmtOut := rfl
@[simp] theorem State.modFn_dram (s : State) (i : FnId) (f : HostFn → HostFn) : (s.modFn i f).dram = s.dram := rfl
@[simp] theorem State.modFn_regions (s : State) (i : FnId) (f : HostFn → HostFn) : (s.modFn i f).regions = s.regions := rfl
@[simp] theorem State.modFn_rowsMarked (s : State) (i : FnId) (f : HostFn → HostFn) : (s.modFn i f).rowsMarked = s.rowsMarked := rfl
@[simp] theorem State.modFn_rowSyms (s : State) (i : FnId) (f : HostFn → HostFn) : (s.modFn i f).rowSyms = s.rowSyms := rfl
@[simp] theorem State.modFn_rowsBad (s : State) (i : FnId) (f : HostFn → HostFn) : (s.modFn i f).rowsBad = s.rowsBad := rfl
@[simp] theorem State.modFn_sparesUsed (s : State) (i : FnId) (f : HostFn → HostFn) : (s.modFn i f).sparesUsed = s.sparesUsed := rfl
@[simp] theorem State.modFn_corrections (s : State) (i : FnId) (f : HostFn → HostFn) : (s.modFn i f).corrections = s.corrections := rfl
@[simp] theorem State.modFn_pinsFailed (s : State) (i : FnId) (f : HostFn → HostFn) : (s.modFn i f).pinsFailed = s.pinsFailed := rfl
@[simp] theorem State.modFn_pinRows (s : State) (i : FnId) (f : HostFn → HostFn) : (s.modFn i f).pinRows = s.pinRows := rfl
@[simp] theorem State.modFn_channels (s : State) (i : FnId) (f : HostFn → HostFn) : (s.modFn i f).channels = s.channels := rfl
@[simp] theorem State.modFn_inbox (s : State) (i : FnId) (f : HostFn → HostFn) : (s.modFn i f).inbox = s.inbox := rfl
@[simp] theorem State.modFn_inboxLost (s : State) (i : FnId) (f : HostFn → HostFn) : (s.modFn i f).inboxLost = s.inboxLost := rfl
@[simp] theorem State.modFn_faultLog (s : State) (i : FnId) (f : HostFn → HostFn) : (s.modFn i f).faultLog = s.faultLog := rfl
@[simp] theorem State.modFn_faultHead (s : State) (i : FnId) (f : HostFn → HostFn) : (s.modFn i f).faultHead = s.faultHead := rfl
@[simp] theorem State.modFn_faultHeld (s : State) (i : FnId) (f : HostFn → HostFn) : (s.modFn i f).faultHeld = s.faultHeld := rfl
@[simp] theorem State.modFn_resets (s : State) (i : FnId) (f : HostFn → HostFn) : (s.modFn i f).resets = s.resets := rfl
@[simp] theorem State.modFn_latchOut (s : State) (i : FnId) (f : HostFn → HostFn) : (s.modFn i f).latchOut = s.latchOut := rfl
@[simp] theorem State.modFn_adminFn (s : State) (i : FnId) (f : HostFn → HostFn) : (s.modFn i f).adminFn = s.adminFn := rfl
@[simp] theorem State.modFn_adminNext (s : State) (i : FnId) (f : HostFn → HostFn) : (s.modFn i f).adminNext = s.adminNext := rfl
@[simp] theorem State.modFn_waiters (s : State) (i : FnId) (f : HostFn → HostFn) : (s.modFn i f).waiters = s.waiters := rfl
@[simp] theorem State.modFn_bifur (s : State) (i : FnId) (f : HostFn → HostFn) : (s.modFn i f).bifur = s.bifur := rfl
@[simp] theorem State.modFn_bifurNext (s : State) (i : FnId) (f : HostFn → HostFn) : (s.modFn i f).bifurNext = s.bifurNext := rfl
@[simp] theorem State.modFn_ports (s : State) (i : FnId) (f : HostFn → HostFn) : (s.modFn i f).ports = s.ports := rfl
@[simp] theorem State.modFn_ctlIn (s : State) (i : FnId) (f : HostFn → HostFn) : (s.modFn i f).ctlIn = s.ctlIn := rfl
@[simp] theorem State.modFn_flatW (s : State) (i : FnId) (f : HostFn → HostFn) : (s.modFn i f).flatW = s.flatW := rfl
@[simp] theorem State.modFn_flatE (s : State) (i : FnId) (f : HostFn → HostFn) : (s.modFn i f).flatE = s.flatE := rfl
@[simp] theorem State.modFn_bindings (s : State) (i : FnId) (f : HostFn → HostFn) : (s.modFn i f).bindings = s.bindings := rfl
@[simp] theorem State.modFn_serviceOut (s : State) (i : FnId) (f : HostFn → HostFn) : (s.modFn i f).serviceOut = s.serviceOut := rfl
@[simp] theorem State.modFn_rows (s : State) (i : FnId) (f : HostFn → HostFn) : (s.modFn i f).rows = s.rows := rfl
@[simp] theorem State.modFn_retired (s : State) (i : FnId) (f : HostFn → HostFn) : (s.modFn i f).retired = s.retired := rfl
@[simp] theorem State.modFn_slowPlan (s : State) (i : FnId) (f : HostFn → HostFn) : (s.modFn i f).slowPlan = s.slowPlan := rfl
@[simp] theorem State.modFn_fuses (s : State) (i : FnId) (f : HostFn → HostFn) : (s.modFn i f).fuses = s.fuses := rfl
@[simp] theorem State.modFn_defects (s : State) (i : FnId) (f : HostFn → HostFn) : (s.modFn i f).defects = s.defects := rfl
@[simp] theorem State.modFn_defectSeq (s : State) (i : FnId) (f : HostFn → HostFn) : (s.modFn i f).defectSeq = s.defectSeq := rfl
@[simp] theorem State.modFn_defectGen (s : State) (i : FnId) (f : HostFn → HostFn) : (s.modFn i f).defectGen = s.defectGen := rfl
@[simp] theorem State.modFn_defectOther (s : State) (i : FnId) (f : HostFn → HostFn) : (s.modFn i f).defectOther = s.defectOther := rfl
@[simp] theorem State.modFn_defectQueue (s : State) (i : FnId) (f : HostFn → HostFn) : (s.modFn i f).defectQueue = s.defectQueue := rfl
@[simp] theorem State.modFn_testResults (s : State) (i : FnId) (f : HostFn → HostFn) : (s.modFn i f).testResults = s.testResults := rfl
@[simp] theorem State.modFn_boot (s : State) (i : FnId) (f : HostFn → HostFn) : (s.modFn i f).boot = s.boot := rfl
@[simp] theorem State.modFn_power (s : State) (i : FnId) (f : HostFn → HostFn) : (s.modFn i f).power = s.power := rfl
@[simp] theorem State.modFn_sec (s : State) (i : FnId) (f : HostFn → HostFn) : (s.modFn i f).sec = s.sec := rfl
@[simp] theorem State.modFn_deviceEnergy (s : State) (i : FnId) (f : HostFn → HostFn) : (s.modFn i f).deviceEnergy = s.deviceEnergy := rfl
@[simp] theorem State.modFn_drbg (s : State) (i : FnId) (f : HostFn → HostFn) : (s.modFn i f).drbg = s.drbg := rfl
@[simp] theorem State.modFn_draws (s : State) (i : FnId) (f : HostFn → HostFn) : (s.modFn i f).draws = s.draws := rfl
@[simp] theorem State.modFn_pending (s : State) (i : FnId) (f : HostFn → HostFn) : (s.modFn i f).pending = s.pending := rfl

/-! `State.modMbox` writes `fns` and nothing else. -/
@[simp] theorem State.modMbox_member (s : State) (i : FnId) (m : MboxId) (g : Mbox → Mbox) : (s.modMbox i m g).member = s.member := rfl
@[simp] theorem State.modMbox_count (s : State) (i : FnId) (m : MboxId) (g : Mbox → Mbox) : (s.modMbox i m g).count = s.count := rfl
@[simp] theorem State.modMbox_pllLocked (s : State) (i : FnId) (m : MboxId) (g : Mbox → Mbox) : (s.modMbox i m g).pllLocked = s.pllLocked := rfl
@[simp] theorem State.modMbox_holdover (s : State) (i : FnId) (m : MboxId) (g : Mbox → Mbox) : (s.modMbox i m g).holdover = s.holdover := rfl
@[simp] theorem State.modMbox_tsyncEn (s : State) (i : FnId) (m : MboxId) (g : Mbox → Mbox) : (s.modMbox i m g).tsyncEn = s.tsyncEn := rfl
@[simp] theorem State.modMbox_tsyncCapture (s : State) (i : FnId) (m : MboxId) (g : Mbox → Mbox) : (s.modMbox i m g).tsyncCapture = s.tsyncCapture := rfl
@[simp] theorem State.modMbox_tsyncCaptures (s : State) (i : FnId) (m : MboxId) (g : Mbox → Mbox) : (s.modMbox i m g).tsyncCaptures = s.tsyncCaptures := rfl
@[simp] theorem State.modMbox_tsyncPulses (s : State) (i : FnId) (m : MboxId) (g : Mbox → Mbox) : (s.modMbox i m g).tsyncPulses = s.tsyncPulses := rfl
@[simp] theorem State.modMbox_tiles (s : State) (i : FnId) (m : MboxId) (g : Mbox → Mbox) : (s.modMbox i m g).tiles = s.tiles := rfl
@[simp] theorem State.modMbox_parts (s : State) (i : FnId) (m : MboxId) (g : Mbox → Mbox) : (s.modMbox i m g).parts = s.parts := rfl
@[simp] theorem State.modMbox_placement (s : State) (i : FnId) (m : MboxId) (g : Mbox → Mbox) : (s.modMbox i m g).placement = s.placement := rfl
@[simp] theorem State.modMbox_mapPend (s : State) (i : FnId) (m : MboxId) (g : Mbox → Mbox) : (s.modMbox i m g).mapPend = s.mapPend := rfl
@[simp] theorem State.modMbox_mapOld (s : State) (i : FnId) (m : MboxId) (g : Mbox → Mbox) : (s.modMbox i m g).mapOld = s.mapOld := rfl
@[simp] theorem State.modMbox_seams (s : State) (i : FnId) (m : MboxId) (g : Mbox → Mbox) : (s.modMbox i m g).seams = s.seams := rfl
@[simp] theorem State.modMbox_net (s : State) (i : FnId) (m : MboxId) (g : Mbox → Mbox) : (s.modMbox i m g).net = s.net := rfl
@[simp] theorem State.modMbox_ioQueue (s : State) (i : FnId) (m : MboxId) (g : Mbox → Mbox) : (s.modMbox i m g).ioQueue = s.ioQueue := rfl
@[simp] theorem State.modMbox_mgmtOut (s : State) (i : FnId) (m : MboxId) (g : Mbox → Mbox) : (s.modMbox i m g).mgmtOut = s.mgmtOut := rfl
@[simp] theorem State.modMbox_dram (s : State) (i : FnId) (m : MboxId) (g : Mbox → Mbox) : (s.modMbox i m g).dram = s.dram := rfl
@[simp] theorem State.modMbox_regions (s : State) (i : FnId) (m : MboxId) (g : Mbox → Mbox) : (s.modMbox i m g).regions = s.regions := rfl
@[simp] theorem State.modMbox_rowsMarked (s : State) (i : FnId) (m : MboxId) (g : Mbox → Mbox) : (s.modMbox i m g).rowsMarked = s.rowsMarked := rfl
@[simp] theorem State.modMbox_rowSyms (s : State) (i : FnId) (m : MboxId) (g : Mbox → Mbox) : (s.modMbox i m g).rowSyms = s.rowSyms := rfl
@[simp] theorem State.modMbox_rowsBad (s : State) (i : FnId) (m : MboxId) (g : Mbox → Mbox) : (s.modMbox i m g).rowsBad = s.rowsBad := rfl
@[simp] theorem State.modMbox_sparesUsed (s : State) (i : FnId) (m : MboxId) (g : Mbox → Mbox) : (s.modMbox i m g).sparesUsed = s.sparesUsed := rfl
@[simp] theorem State.modMbox_corrections (s : State) (i : FnId) (m : MboxId) (g : Mbox → Mbox) : (s.modMbox i m g).corrections = s.corrections := rfl
@[simp] theorem State.modMbox_pinsFailed (s : State) (i : FnId) (m : MboxId) (g : Mbox → Mbox) : (s.modMbox i m g).pinsFailed = s.pinsFailed := rfl
@[simp] theorem State.modMbox_pinRows (s : State) (i : FnId) (m : MboxId) (g : Mbox → Mbox) : (s.modMbox i m g).pinRows = s.pinRows := rfl
@[simp] theorem State.modMbox_channels (s : State) (i : FnId) (m : MboxId) (g : Mbox → Mbox) : (s.modMbox i m g).channels = s.channels := rfl
@[simp] theorem State.modMbox_inbox (s : State) (i : FnId) (m : MboxId) (g : Mbox → Mbox) : (s.modMbox i m g).inbox = s.inbox := rfl
@[simp] theorem State.modMbox_inboxLost (s : State) (i : FnId) (m : MboxId) (g : Mbox → Mbox) : (s.modMbox i m g).inboxLost = s.inboxLost := rfl
@[simp] theorem State.modMbox_faultLog (s : State) (i : FnId) (m : MboxId) (g : Mbox → Mbox) : (s.modMbox i m g).faultLog = s.faultLog := rfl
@[simp] theorem State.modMbox_faultHead (s : State) (i : FnId) (m : MboxId) (g : Mbox → Mbox) : (s.modMbox i m g).faultHead = s.faultHead := rfl
@[simp] theorem State.modMbox_faultHeld (s : State) (i : FnId) (m : MboxId) (g : Mbox → Mbox) : (s.modMbox i m g).faultHeld = s.faultHeld := rfl
@[simp] theorem State.modMbox_resets (s : State) (i : FnId) (m : MboxId) (g : Mbox → Mbox) : (s.modMbox i m g).resets = s.resets := rfl
@[simp] theorem State.modMbox_latchOut (s : State) (i : FnId) (m : MboxId) (g : Mbox → Mbox) : (s.modMbox i m g).latchOut = s.latchOut := rfl
@[simp] theorem State.modMbox_adminFn (s : State) (i : FnId) (m : MboxId) (g : Mbox → Mbox) : (s.modMbox i m g).adminFn = s.adminFn := rfl
@[simp] theorem State.modMbox_adminNext (s : State) (i : FnId) (m : MboxId) (g : Mbox → Mbox) : (s.modMbox i m g).adminNext = s.adminNext := rfl
@[simp] theorem State.modMbox_waiters (s : State) (i : FnId) (m : MboxId) (g : Mbox → Mbox) : (s.modMbox i m g).waiters = s.waiters := rfl
@[simp] theorem State.modMbox_bifur (s : State) (i : FnId) (m : MboxId) (g : Mbox → Mbox) : (s.modMbox i m g).bifur = s.bifur := rfl
@[simp] theorem State.modMbox_bifurNext (s : State) (i : FnId) (m : MboxId) (g : Mbox → Mbox) : (s.modMbox i m g).bifurNext = s.bifurNext := rfl
@[simp] theorem State.modMbox_ports (s : State) (i : FnId) (m : MboxId) (g : Mbox → Mbox) : (s.modMbox i m g).ports = s.ports := rfl
@[simp] theorem State.modMbox_ctlIn (s : State) (i : FnId) (m : MboxId) (g : Mbox → Mbox) : (s.modMbox i m g).ctlIn = s.ctlIn := rfl
@[simp] theorem State.modMbox_flatW (s : State) (i : FnId) (m : MboxId) (g : Mbox → Mbox) : (s.modMbox i m g).flatW = s.flatW := rfl
@[simp] theorem State.modMbox_flatE (s : State) (i : FnId) (m : MboxId) (g : Mbox → Mbox) : (s.modMbox i m g).flatE = s.flatE := rfl
@[simp] theorem State.modMbox_bindings (s : State) (i : FnId) (m : MboxId) (g : Mbox → Mbox) : (s.modMbox i m g).bindings = s.bindings := rfl
@[simp] theorem State.modMbox_serviceOut (s : State) (i : FnId) (m : MboxId) (g : Mbox → Mbox) : (s.modMbox i m g).serviceOut = s.serviceOut := rfl
@[simp] theorem State.modMbox_rows (s : State) (i : FnId) (m : MboxId) (g : Mbox → Mbox) : (s.modMbox i m g).rows = s.rows := rfl
@[simp] theorem State.modMbox_retired (s : State) (i : FnId) (m : MboxId) (g : Mbox → Mbox) : (s.modMbox i m g).retired = s.retired := rfl
@[simp] theorem State.modMbox_slowPlan (s : State) (i : FnId) (m : MboxId) (g : Mbox → Mbox) : (s.modMbox i m g).slowPlan = s.slowPlan := rfl
@[simp] theorem State.modMbox_fuses (s : State) (i : FnId) (m : MboxId) (g : Mbox → Mbox) : (s.modMbox i m g).fuses = s.fuses := rfl
@[simp] theorem State.modMbox_defects (s : State) (i : FnId) (m : MboxId) (g : Mbox → Mbox) : (s.modMbox i m g).defects = s.defects := rfl
@[simp] theorem State.modMbox_defectSeq (s : State) (i : FnId) (m : MboxId) (g : Mbox → Mbox) : (s.modMbox i m g).defectSeq = s.defectSeq := rfl
@[simp] theorem State.modMbox_defectGen (s : State) (i : FnId) (m : MboxId) (g : Mbox → Mbox) : (s.modMbox i m g).defectGen = s.defectGen := rfl
@[simp] theorem State.modMbox_defectOther (s : State) (i : FnId) (m : MboxId) (g : Mbox → Mbox) : (s.modMbox i m g).defectOther = s.defectOther := rfl
@[simp] theorem State.modMbox_defectQueue (s : State) (i : FnId) (m : MboxId) (g : Mbox → Mbox) : (s.modMbox i m g).defectQueue = s.defectQueue := rfl
@[simp] theorem State.modMbox_testResults (s : State) (i : FnId) (m : MboxId) (g : Mbox → Mbox) : (s.modMbox i m g).testResults = s.testResults := rfl
@[simp] theorem State.modMbox_boot (s : State) (i : FnId) (m : MboxId) (g : Mbox → Mbox) : (s.modMbox i m g).boot = s.boot := rfl
@[simp] theorem State.modMbox_power (s : State) (i : FnId) (m : MboxId) (g : Mbox → Mbox) : (s.modMbox i m g).power = s.power := rfl
@[simp] theorem State.modMbox_sec (s : State) (i : FnId) (m : MboxId) (g : Mbox → Mbox) : (s.modMbox i m g).sec = s.sec := rfl
@[simp] theorem State.modMbox_deviceEnergy (s : State) (i : FnId) (m : MboxId) (g : Mbox → Mbox) : (s.modMbox i m g).deviceEnergy = s.deviceEnergy := rfl
@[simp] theorem State.modMbox_drbg (s : State) (i : FnId) (m : MboxId) (g : Mbox → Mbox) : (s.modMbox i m g).drbg = s.drbg := rfl
@[simp] theorem State.modMbox_draws (s : State) (i : FnId) (m : MboxId) (g : Mbox → Mbox) : (s.modMbox i m g).draws = s.draws := rfl
@[simp] theorem State.modMbox_pending (s : State) (i : FnId) (m : MboxId) (g : Mbox → Mbox) : (s.modMbox i m g).pending = s.pending := rfl

/-! `State.modPort` writes `ports` and nothing else. -/
@[simp] theorem State.modPort_member (s : State) (p : PortId) (f : Port → Port) : (s.modPort p f).member = s.member := rfl
@[simp] theorem State.modPort_count (s : State) (p : PortId) (f : Port → Port) : (s.modPort p f).count = s.count := rfl
@[simp] theorem State.modPort_pllLocked (s : State) (p : PortId) (f : Port → Port) : (s.modPort p f).pllLocked = s.pllLocked := rfl
@[simp] theorem State.modPort_holdover (s : State) (p : PortId) (f : Port → Port) : (s.modPort p f).holdover = s.holdover := rfl
@[simp] theorem State.modPort_tsyncEn (s : State) (p : PortId) (f : Port → Port) : (s.modPort p f).tsyncEn = s.tsyncEn := rfl
@[simp] theorem State.modPort_tsyncCapture (s : State) (p : PortId) (f : Port → Port) : (s.modPort p f).tsyncCapture = s.tsyncCapture := rfl
@[simp] theorem State.modPort_tsyncCaptures (s : State) (p : PortId) (f : Port → Port) : (s.modPort p f).tsyncCaptures = s.tsyncCaptures := rfl
@[simp] theorem State.modPort_tsyncPulses (s : State) (p : PortId) (f : Port → Port) : (s.modPort p f).tsyncPulses = s.tsyncPulses := rfl
@[simp] theorem State.modPort_tiles (s : State) (p : PortId) (f : Port → Port) : (s.modPort p f).tiles = s.tiles := rfl
@[simp] theorem State.modPort_parts (s : State) (p : PortId) (f : Port → Port) : (s.modPort p f).parts = s.parts := rfl
@[simp] theorem State.modPort_placement (s : State) (p : PortId) (f : Port → Port) : (s.modPort p f).placement = s.placement := rfl
@[simp] theorem State.modPort_mapPend (s : State) (p : PortId) (f : Port → Port) : (s.modPort p f).mapPend = s.mapPend := rfl
@[simp] theorem State.modPort_mapOld (s : State) (p : PortId) (f : Port → Port) : (s.modPort p f).mapOld = s.mapOld := rfl
@[simp] theorem State.modPort_seams (s : State) (p : PortId) (f : Port → Port) : (s.modPort p f).seams = s.seams := rfl
@[simp] theorem State.modPort_net (s : State) (p : PortId) (f : Port → Port) : (s.modPort p f).net = s.net := rfl
@[simp] theorem State.modPort_ioQueue (s : State) (p : PortId) (f : Port → Port) : (s.modPort p f).ioQueue = s.ioQueue := rfl
@[simp] theorem State.modPort_mgmtOut (s : State) (p : PortId) (f : Port → Port) : (s.modPort p f).mgmtOut = s.mgmtOut := rfl
@[simp] theorem State.modPort_dram (s : State) (p : PortId) (f : Port → Port) : (s.modPort p f).dram = s.dram := rfl
@[simp] theorem State.modPort_regions (s : State) (p : PortId) (f : Port → Port) : (s.modPort p f).regions = s.regions := rfl
@[simp] theorem State.modPort_rowsMarked (s : State) (p : PortId) (f : Port → Port) : (s.modPort p f).rowsMarked = s.rowsMarked := rfl
@[simp] theorem State.modPort_rowSyms (s : State) (p : PortId) (f : Port → Port) : (s.modPort p f).rowSyms = s.rowSyms := rfl
@[simp] theorem State.modPort_rowsBad (s : State) (p : PortId) (f : Port → Port) : (s.modPort p f).rowsBad = s.rowsBad := rfl
@[simp] theorem State.modPort_sparesUsed (s : State) (p : PortId) (f : Port → Port) : (s.modPort p f).sparesUsed = s.sparesUsed := rfl
@[simp] theorem State.modPort_corrections (s : State) (p : PortId) (f : Port → Port) : (s.modPort p f).corrections = s.corrections := rfl
@[simp] theorem State.modPort_pinsFailed (s : State) (p : PortId) (f : Port → Port) : (s.modPort p f).pinsFailed = s.pinsFailed := rfl
@[simp] theorem State.modPort_pinRows (s : State) (p : PortId) (f : Port → Port) : (s.modPort p f).pinRows = s.pinRows := rfl
@[simp] theorem State.modPort_channels (s : State) (p : PortId) (f : Port → Port) : (s.modPort p f).channels = s.channels := rfl
@[simp] theorem State.modPort_fns (s : State) (p : PortId) (f : Port → Port) : (s.modPort p f).fns = s.fns := rfl
@[simp] theorem State.modPort_inbox (s : State) (p : PortId) (f : Port → Port) : (s.modPort p f).inbox = s.inbox := rfl
@[simp] theorem State.modPort_inboxLost (s : State) (p : PortId) (f : Port → Port) : (s.modPort p f).inboxLost = s.inboxLost := rfl
@[simp] theorem State.modPort_faultLog (s : State) (p : PortId) (f : Port → Port) : (s.modPort p f).faultLog = s.faultLog := rfl
@[simp] theorem State.modPort_faultHead (s : State) (p : PortId) (f : Port → Port) : (s.modPort p f).faultHead = s.faultHead := rfl
@[simp] theorem State.modPort_faultHeld (s : State) (p : PortId) (f : Port → Port) : (s.modPort p f).faultHeld = s.faultHeld := rfl
@[simp] theorem State.modPort_resets (s : State) (p : PortId) (f : Port → Port) : (s.modPort p f).resets = s.resets := rfl
@[simp] theorem State.modPort_latchOut (s : State) (p : PortId) (f : Port → Port) : (s.modPort p f).latchOut = s.latchOut := rfl
@[simp] theorem State.modPort_adminFn (s : State) (p : PortId) (f : Port → Port) : (s.modPort p f).adminFn = s.adminFn := rfl
@[simp] theorem State.modPort_adminNext (s : State) (p : PortId) (f : Port → Port) : (s.modPort p f).adminNext = s.adminNext := rfl
@[simp] theorem State.modPort_waiters (s : State) (p : PortId) (f : Port → Port) : (s.modPort p f).waiters = s.waiters := rfl
@[simp] theorem State.modPort_bifur (s : State) (p : PortId) (f : Port → Port) : (s.modPort p f).bifur = s.bifur := rfl
@[simp] theorem State.modPort_bifurNext (s : State) (p : PortId) (f : Port → Port) : (s.modPort p f).bifurNext = s.bifurNext := rfl
@[simp] theorem State.modPort_ctlIn (s : State) (p : PortId) (f : Port → Port) : (s.modPort p f).ctlIn = s.ctlIn := rfl
@[simp] theorem State.modPort_flatW (s : State) (p : PortId) (f : Port → Port) : (s.modPort p f).flatW = s.flatW := rfl
@[simp] theorem State.modPort_flatE (s : State) (p : PortId) (f : Port → Port) : (s.modPort p f).flatE = s.flatE := rfl
@[simp] theorem State.modPort_bindings (s : State) (p : PortId) (f : Port → Port) : (s.modPort p f).bindings = s.bindings := rfl
@[simp] theorem State.modPort_serviceOut (s : State) (p : PortId) (f : Port → Port) : (s.modPort p f).serviceOut = s.serviceOut := rfl
@[simp] theorem State.modPort_rows (s : State) (p : PortId) (f : Port → Port) : (s.modPort p f).rows = s.rows := rfl
@[simp] theorem State.modPort_retired (s : State) (p : PortId) (f : Port → Port) : (s.modPort p f).retired = s.retired := rfl
@[simp] theorem State.modPort_slowPlan (s : State) (p : PortId) (f : Port → Port) : (s.modPort p f).slowPlan = s.slowPlan := rfl
@[simp] theorem State.modPort_fuses (s : State) (p : PortId) (f : Port → Port) : (s.modPort p f).fuses = s.fuses := rfl
@[simp] theorem State.modPort_defects (s : State) (p : PortId) (f : Port → Port) : (s.modPort p f).defects = s.defects := rfl
@[simp] theorem State.modPort_defectSeq (s : State) (p : PortId) (f : Port → Port) : (s.modPort p f).defectSeq = s.defectSeq := rfl
@[simp] theorem State.modPort_defectGen (s : State) (p : PortId) (f : Port → Port) : (s.modPort p f).defectGen = s.defectGen := rfl
@[simp] theorem State.modPort_defectOther (s : State) (p : PortId) (f : Port → Port) : (s.modPort p f).defectOther = s.defectOther := rfl
@[simp] theorem State.modPort_defectQueue (s : State) (p : PortId) (f : Port → Port) : (s.modPort p f).defectQueue = s.defectQueue := rfl
@[simp] theorem State.modPort_testResults (s : State) (p : PortId) (f : Port → Port) : (s.modPort p f).testResults = s.testResults := rfl
@[simp] theorem State.modPort_boot (s : State) (p : PortId) (f : Port → Port) : (s.modPort p f).boot = s.boot := rfl
@[simp] theorem State.modPort_power (s : State) (p : PortId) (f : Port → Port) : (s.modPort p f).power = s.power := rfl
@[simp] theorem State.modPort_sec (s : State) (p : PortId) (f : Port → Port) : (s.modPort p f).sec = s.sec := rfl
@[simp] theorem State.modPort_deviceEnergy (s : State) (p : PortId) (f : Port → Port) : (s.modPort p f).deviceEnergy = s.deviceEnergy := rfl
@[simp] theorem State.modPort_drbg (s : State) (p : PortId) (f : Port → Port) : (s.modPort p f).drbg = s.drbg := rfl
@[simp] theorem State.modPort_draws (s : State) (p : PortId) (f : Port → Port) : (s.modPort p f).draws = s.draws := rfl
@[simp] theorem State.modPort_pending (s : State) (p : PortId) (f : Port → Port) : (s.modPort p f).pending = s.pending := rfl

/-! `State.modLink` writes `ports` and nothing else. -/
@[simp] theorem State.modLink_member (s : State) (p : PortId) (x : Session) (f : Link → Link) : (s.modLink p x f).member = s.member := rfl
@[simp] theorem State.modLink_count (s : State) (p : PortId) (x : Session) (f : Link → Link) : (s.modLink p x f).count = s.count := rfl
@[simp] theorem State.modLink_pllLocked (s : State) (p : PortId) (x : Session) (f : Link → Link) : (s.modLink p x f).pllLocked = s.pllLocked := rfl
@[simp] theorem State.modLink_holdover (s : State) (p : PortId) (x : Session) (f : Link → Link) : (s.modLink p x f).holdover = s.holdover := rfl
@[simp] theorem State.modLink_tsyncEn (s : State) (p : PortId) (x : Session) (f : Link → Link) : (s.modLink p x f).tsyncEn = s.tsyncEn := rfl
@[simp] theorem State.modLink_tsyncCapture (s : State) (p : PortId) (x : Session) (f : Link → Link) : (s.modLink p x f).tsyncCapture = s.tsyncCapture := rfl
@[simp] theorem State.modLink_tsyncCaptures (s : State) (p : PortId) (x : Session) (f : Link → Link) : (s.modLink p x f).tsyncCaptures = s.tsyncCaptures := rfl
@[simp] theorem State.modLink_tsyncPulses (s : State) (p : PortId) (x : Session) (f : Link → Link) : (s.modLink p x f).tsyncPulses = s.tsyncPulses := rfl
@[simp] theorem State.modLink_tiles (s : State) (p : PortId) (x : Session) (f : Link → Link) : (s.modLink p x f).tiles = s.tiles := rfl
@[simp] theorem State.modLink_parts (s : State) (p : PortId) (x : Session) (f : Link → Link) : (s.modLink p x f).parts = s.parts := rfl
@[simp] theorem State.modLink_placement (s : State) (p : PortId) (x : Session) (f : Link → Link) : (s.modLink p x f).placement = s.placement := rfl
@[simp] theorem State.modLink_mapPend (s : State) (p : PortId) (x : Session) (f : Link → Link) : (s.modLink p x f).mapPend = s.mapPend := rfl
@[simp] theorem State.modLink_mapOld (s : State) (p : PortId) (x : Session) (f : Link → Link) : (s.modLink p x f).mapOld = s.mapOld := rfl
@[simp] theorem State.modLink_seams (s : State) (p : PortId) (x : Session) (f : Link → Link) : (s.modLink p x f).seams = s.seams := rfl
@[simp] theorem State.modLink_net (s : State) (p : PortId) (x : Session) (f : Link → Link) : (s.modLink p x f).net = s.net := rfl
@[simp] theorem State.modLink_ioQueue (s : State) (p : PortId) (x : Session) (f : Link → Link) : (s.modLink p x f).ioQueue = s.ioQueue := rfl
@[simp] theorem State.modLink_mgmtOut (s : State) (p : PortId) (x : Session) (f : Link → Link) : (s.modLink p x f).mgmtOut = s.mgmtOut := rfl
@[simp] theorem State.modLink_dram (s : State) (p : PortId) (x : Session) (f : Link → Link) : (s.modLink p x f).dram = s.dram := rfl
@[simp] theorem State.modLink_regions (s : State) (p : PortId) (x : Session) (f : Link → Link) : (s.modLink p x f).regions = s.regions := rfl
@[simp] theorem State.modLink_rowsMarked (s : State) (p : PortId) (x : Session) (f : Link → Link) : (s.modLink p x f).rowsMarked = s.rowsMarked := rfl
@[simp] theorem State.modLink_rowSyms (s : State) (p : PortId) (x : Session) (f : Link → Link) : (s.modLink p x f).rowSyms = s.rowSyms := rfl
@[simp] theorem State.modLink_rowsBad (s : State) (p : PortId) (x : Session) (f : Link → Link) : (s.modLink p x f).rowsBad = s.rowsBad := rfl
@[simp] theorem State.modLink_sparesUsed (s : State) (p : PortId) (x : Session) (f : Link → Link) : (s.modLink p x f).sparesUsed = s.sparesUsed := rfl
@[simp] theorem State.modLink_corrections (s : State) (p : PortId) (x : Session) (f : Link → Link) : (s.modLink p x f).corrections = s.corrections := rfl
@[simp] theorem State.modLink_pinsFailed (s : State) (p : PortId) (x : Session) (f : Link → Link) : (s.modLink p x f).pinsFailed = s.pinsFailed := rfl
@[simp] theorem State.modLink_pinRows (s : State) (p : PortId) (x : Session) (f : Link → Link) : (s.modLink p x f).pinRows = s.pinRows := rfl
@[simp] theorem State.modLink_channels (s : State) (p : PortId) (x : Session) (f : Link → Link) : (s.modLink p x f).channels = s.channels := rfl
@[simp] theorem State.modLink_fns (s : State) (p : PortId) (x : Session) (f : Link → Link) : (s.modLink p x f).fns = s.fns := rfl
@[simp] theorem State.modLink_inbox (s : State) (p : PortId) (x : Session) (f : Link → Link) : (s.modLink p x f).inbox = s.inbox := rfl
@[simp] theorem State.modLink_inboxLost (s : State) (p : PortId) (x : Session) (f : Link → Link) : (s.modLink p x f).inboxLost = s.inboxLost := rfl
@[simp] theorem State.modLink_faultLog (s : State) (p : PortId) (x : Session) (f : Link → Link) : (s.modLink p x f).faultLog = s.faultLog := rfl
@[simp] theorem State.modLink_faultHead (s : State) (p : PortId) (x : Session) (f : Link → Link) : (s.modLink p x f).faultHead = s.faultHead := rfl
@[simp] theorem State.modLink_faultHeld (s : State) (p : PortId) (x : Session) (f : Link → Link) : (s.modLink p x f).faultHeld = s.faultHeld := rfl
@[simp] theorem State.modLink_resets (s : State) (p : PortId) (x : Session) (f : Link → Link) : (s.modLink p x f).resets = s.resets := rfl
@[simp] theorem State.modLink_latchOut (s : State) (p : PortId) (x : Session) (f : Link → Link) : (s.modLink p x f).latchOut = s.latchOut := rfl
@[simp] theorem State.modLink_adminFn (s : State) (p : PortId) (x : Session) (f : Link → Link) : (s.modLink p x f).adminFn = s.adminFn := rfl
@[simp] theorem State.modLink_adminNext (s : State) (p : PortId) (x : Session) (f : Link → Link) : (s.modLink p x f).adminNext = s.adminNext := rfl
@[simp] theorem State.modLink_waiters (s : State) (p : PortId) (x : Session) (f : Link → Link) : (s.modLink p x f).waiters = s.waiters := rfl
@[simp] theorem State.modLink_bifur (s : State) (p : PortId) (x : Session) (f : Link → Link) : (s.modLink p x f).bifur = s.bifur := rfl
@[simp] theorem State.modLink_bifurNext (s : State) (p : PortId) (x : Session) (f : Link → Link) : (s.modLink p x f).bifurNext = s.bifurNext := rfl
@[simp] theorem State.modLink_ctlIn (s : State) (p : PortId) (x : Session) (f : Link → Link) : (s.modLink p x f).ctlIn = s.ctlIn := rfl
@[simp] theorem State.modLink_flatW (s : State) (p : PortId) (x : Session) (f : Link → Link) : (s.modLink p x f).flatW = s.flatW := rfl
@[simp] theorem State.modLink_flatE (s : State) (p : PortId) (x : Session) (f : Link → Link) : (s.modLink p x f).flatE = s.flatE := rfl
@[simp] theorem State.modLink_bindings (s : State) (p : PortId) (x : Session) (f : Link → Link) : (s.modLink p x f).bindings = s.bindings := rfl
@[simp] theorem State.modLink_serviceOut (s : State) (p : PortId) (x : Session) (f : Link → Link) : (s.modLink p x f).serviceOut = s.serviceOut := rfl
@[simp] theorem State.modLink_rows (s : State) (p : PortId) (x : Session) (f : Link → Link) : (s.modLink p x f).rows = s.rows := rfl
@[simp] theorem State.modLink_retired (s : State) (p : PortId) (x : Session) (f : Link → Link) : (s.modLink p x f).retired = s.retired := rfl
@[simp] theorem State.modLink_slowPlan (s : State) (p : PortId) (x : Session) (f : Link → Link) : (s.modLink p x f).slowPlan = s.slowPlan := rfl
@[simp] theorem State.modLink_fuses (s : State) (p : PortId) (x : Session) (f : Link → Link) : (s.modLink p x f).fuses = s.fuses := rfl
@[simp] theorem State.modLink_defects (s : State) (p : PortId) (x : Session) (f : Link → Link) : (s.modLink p x f).defects = s.defects := rfl
@[simp] theorem State.modLink_defectSeq (s : State) (p : PortId) (x : Session) (f : Link → Link) : (s.modLink p x f).defectSeq = s.defectSeq := rfl
@[simp] theorem State.modLink_defectGen (s : State) (p : PortId) (x : Session) (f : Link → Link) : (s.modLink p x f).defectGen = s.defectGen := rfl
@[simp] theorem State.modLink_defectOther (s : State) (p : PortId) (x : Session) (f : Link → Link) : (s.modLink p x f).defectOther = s.defectOther := rfl
@[simp] theorem State.modLink_defectQueue (s : State) (p : PortId) (x : Session) (f : Link → Link) : (s.modLink p x f).defectQueue = s.defectQueue := rfl
@[simp] theorem State.modLink_testResults (s : State) (p : PortId) (x : Session) (f : Link → Link) : (s.modLink p x f).testResults = s.testResults := rfl
@[simp] theorem State.modLink_boot (s : State) (p : PortId) (x : Session) (f : Link → Link) : (s.modLink p x f).boot = s.boot := rfl
@[simp] theorem State.modLink_power (s : State) (p : PortId) (x : Session) (f : Link → Link) : (s.modLink p x f).power = s.power := rfl
@[simp] theorem State.modLink_sec (s : State) (p : PortId) (x : Session) (f : Link → Link) : (s.modLink p x f).sec = s.sec := rfl
@[simp] theorem State.modLink_deviceEnergy (s : State) (p : PortId) (x : Session) (f : Link → Link) : (s.modLink p x f).deviceEnergy = s.deviceEnergy := rfl
@[simp] theorem State.modLink_drbg (s : State) (p : PortId) (x : Session) (f : Link → Link) : (s.modLink p x f).drbg = s.drbg := rfl
@[simp] theorem State.modLink_draws (s : State) (p : PortId) (x : Session) (f : Link → Link) : (s.modLink p x f).draws = s.draws := rfl
@[simp] theorem State.modLink_pending (s : State) (p : PortId) (x : Session) (f : Link → Link) : (s.modLink p x f).pending = s.pending := rfl

/-! `State.modSeam` writes `seams` and nothing else. -/
@[simp] theorem State.modSeam_member (s : State) (id : Nat) (f : Seam → Seam) : (s.modSeam id f).member = s.member := rfl
@[simp] theorem State.modSeam_count (s : State) (id : Nat) (f : Seam → Seam) : (s.modSeam id f).count = s.count := rfl
@[simp] theorem State.modSeam_pllLocked (s : State) (id : Nat) (f : Seam → Seam) : (s.modSeam id f).pllLocked = s.pllLocked := rfl
@[simp] theorem State.modSeam_holdover (s : State) (id : Nat) (f : Seam → Seam) : (s.modSeam id f).holdover = s.holdover := rfl
@[simp] theorem State.modSeam_tsyncEn (s : State) (id : Nat) (f : Seam → Seam) : (s.modSeam id f).tsyncEn = s.tsyncEn := rfl
@[simp] theorem State.modSeam_tsyncCapture (s : State) (id : Nat) (f : Seam → Seam) : (s.modSeam id f).tsyncCapture = s.tsyncCapture := rfl
@[simp] theorem State.modSeam_tsyncCaptures (s : State) (id : Nat) (f : Seam → Seam) : (s.modSeam id f).tsyncCaptures = s.tsyncCaptures := rfl
@[simp] theorem State.modSeam_tsyncPulses (s : State) (id : Nat) (f : Seam → Seam) : (s.modSeam id f).tsyncPulses = s.tsyncPulses := rfl
@[simp] theorem State.modSeam_tiles (s : State) (id : Nat) (f : Seam → Seam) : (s.modSeam id f).tiles = s.tiles := rfl
@[simp] theorem State.modSeam_parts (s : State) (id : Nat) (f : Seam → Seam) : (s.modSeam id f).parts = s.parts := rfl
@[simp] theorem State.modSeam_placement (s : State) (id : Nat) (f : Seam → Seam) : (s.modSeam id f).placement = s.placement := rfl
@[simp] theorem State.modSeam_mapPend (s : State) (id : Nat) (f : Seam → Seam) : (s.modSeam id f).mapPend = s.mapPend := rfl
@[simp] theorem State.modSeam_mapOld (s : State) (id : Nat) (f : Seam → Seam) : (s.modSeam id f).mapOld = s.mapOld := rfl
@[simp] theorem State.modSeam_net (s : State) (id : Nat) (f : Seam → Seam) : (s.modSeam id f).net = s.net := rfl
@[simp] theorem State.modSeam_ioQueue (s : State) (id : Nat) (f : Seam → Seam) : (s.modSeam id f).ioQueue = s.ioQueue := rfl
@[simp] theorem State.modSeam_mgmtOut (s : State) (id : Nat) (f : Seam → Seam) : (s.modSeam id f).mgmtOut = s.mgmtOut := rfl
@[simp] theorem State.modSeam_dram (s : State) (id : Nat) (f : Seam → Seam) : (s.modSeam id f).dram = s.dram := rfl
@[simp] theorem State.modSeam_regions (s : State) (id : Nat) (f : Seam → Seam) : (s.modSeam id f).regions = s.regions := rfl
@[simp] theorem State.modSeam_rowsMarked (s : State) (id : Nat) (f : Seam → Seam) : (s.modSeam id f).rowsMarked = s.rowsMarked := rfl
@[simp] theorem State.modSeam_rowSyms (s : State) (id : Nat) (f : Seam → Seam) : (s.modSeam id f).rowSyms = s.rowSyms := rfl
@[simp] theorem State.modSeam_rowsBad (s : State) (id : Nat) (f : Seam → Seam) : (s.modSeam id f).rowsBad = s.rowsBad := rfl
@[simp] theorem State.modSeam_sparesUsed (s : State) (id : Nat) (f : Seam → Seam) : (s.modSeam id f).sparesUsed = s.sparesUsed := rfl
@[simp] theorem State.modSeam_corrections (s : State) (id : Nat) (f : Seam → Seam) : (s.modSeam id f).corrections = s.corrections := rfl
@[simp] theorem State.modSeam_pinsFailed (s : State) (id : Nat) (f : Seam → Seam) : (s.modSeam id f).pinsFailed = s.pinsFailed := rfl
@[simp] theorem State.modSeam_pinRows (s : State) (id : Nat) (f : Seam → Seam) : (s.modSeam id f).pinRows = s.pinRows := rfl
@[simp] theorem State.modSeam_channels (s : State) (id : Nat) (f : Seam → Seam) : (s.modSeam id f).channels = s.channels := rfl
@[simp] theorem State.modSeam_fns (s : State) (id : Nat) (f : Seam → Seam) : (s.modSeam id f).fns = s.fns := rfl
@[simp] theorem State.modSeam_inbox (s : State) (id : Nat) (f : Seam → Seam) : (s.modSeam id f).inbox = s.inbox := rfl
@[simp] theorem State.modSeam_inboxLost (s : State) (id : Nat) (f : Seam → Seam) : (s.modSeam id f).inboxLost = s.inboxLost := rfl
@[simp] theorem State.modSeam_faultLog (s : State) (id : Nat) (f : Seam → Seam) : (s.modSeam id f).faultLog = s.faultLog := rfl
@[simp] theorem State.modSeam_faultHead (s : State) (id : Nat) (f : Seam → Seam) : (s.modSeam id f).faultHead = s.faultHead := rfl
@[simp] theorem State.modSeam_faultHeld (s : State) (id : Nat) (f : Seam → Seam) : (s.modSeam id f).faultHeld = s.faultHeld := rfl
@[simp] theorem State.modSeam_resets (s : State) (id : Nat) (f : Seam → Seam) : (s.modSeam id f).resets = s.resets := rfl
@[simp] theorem State.modSeam_latchOut (s : State) (id : Nat) (f : Seam → Seam) : (s.modSeam id f).latchOut = s.latchOut := rfl
@[simp] theorem State.modSeam_adminFn (s : State) (id : Nat) (f : Seam → Seam) : (s.modSeam id f).adminFn = s.adminFn := rfl
@[simp] theorem State.modSeam_adminNext (s : State) (id : Nat) (f : Seam → Seam) : (s.modSeam id f).adminNext = s.adminNext := rfl
@[simp] theorem State.modSeam_waiters (s : State) (id : Nat) (f : Seam → Seam) : (s.modSeam id f).waiters = s.waiters := rfl
@[simp] theorem State.modSeam_bifur (s : State) (id : Nat) (f : Seam → Seam) : (s.modSeam id f).bifur = s.bifur := rfl
@[simp] theorem State.modSeam_bifurNext (s : State) (id : Nat) (f : Seam → Seam) : (s.modSeam id f).bifurNext = s.bifurNext := rfl
@[simp] theorem State.modSeam_ports (s : State) (id : Nat) (f : Seam → Seam) : (s.modSeam id f).ports = s.ports := rfl
@[simp] theorem State.modSeam_ctlIn (s : State) (id : Nat) (f : Seam → Seam) : (s.modSeam id f).ctlIn = s.ctlIn := rfl
@[simp] theorem State.modSeam_flatW (s : State) (id : Nat) (f : Seam → Seam) : (s.modSeam id f).flatW = s.flatW := rfl
@[simp] theorem State.modSeam_flatE (s : State) (id : Nat) (f : Seam → Seam) : (s.modSeam id f).flatE = s.flatE := rfl
@[simp] theorem State.modSeam_bindings (s : State) (id : Nat) (f : Seam → Seam) : (s.modSeam id f).bindings = s.bindings := rfl
@[simp] theorem State.modSeam_serviceOut (s : State) (id : Nat) (f : Seam → Seam) : (s.modSeam id f).serviceOut = s.serviceOut := rfl
@[simp] theorem State.modSeam_rows (s : State) (id : Nat) (f : Seam → Seam) : (s.modSeam id f).rows = s.rows := rfl
@[simp] theorem State.modSeam_retired (s : State) (id : Nat) (f : Seam → Seam) : (s.modSeam id f).retired = s.retired := rfl
@[simp] theorem State.modSeam_slowPlan (s : State) (id : Nat) (f : Seam → Seam) : (s.modSeam id f).slowPlan = s.slowPlan := rfl
@[simp] theorem State.modSeam_fuses (s : State) (id : Nat) (f : Seam → Seam) : (s.modSeam id f).fuses = s.fuses := rfl
@[simp] theorem State.modSeam_defects (s : State) (id : Nat) (f : Seam → Seam) : (s.modSeam id f).defects = s.defects := rfl
@[simp] theorem State.modSeam_defectSeq (s : State) (id : Nat) (f : Seam → Seam) : (s.modSeam id f).defectSeq = s.defectSeq := rfl
@[simp] theorem State.modSeam_defectGen (s : State) (id : Nat) (f : Seam → Seam) : (s.modSeam id f).defectGen = s.defectGen := rfl
@[simp] theorem State.modSeam_defectOther (s : State) (id : Nat) (f : Seam → Seam) : (s.modSeam id f).defectOther = s.defectOther := rfl
@[simp] theorem State.modSeam_defectQueue (s : State) (id : Nat) (f : Seam → Seam) : (s.modSeam id f).defectQueue = s.defectQueue := rfl
@[simp] theorem State.modSeam_testResults (s : State) (id : Nat) (f : Seam → Seam) : (s.modSeam id f).testResults = s.testResults := rfl
@[simp] theorem State.modSeam_boot (s : State) (id : Nat) (f : Seam → Seam) : (s.modSeam id f).boot = s.boot := rfl
@[simp] theorem State.modSeam_power (s : State) (id : Nat) (f : Seam → Seam) : (s.modSeam id f).power = s.power := rfl
@[simp] theorem State.modSeam_sec (s : State) (id : Nat) (f : Seam → Seam) : (s.modSeam id f).sec = s.sec := rfl
@[simp] theorem State.modSeam_deviceEnergy (s : State) (id : Nat) (f : Seam → Seam) : (s.modSeam id f).deviceEnergy = s.deviceEnergy := rfl
@[simp] theorem State.modSeam_drbg (s : State) (id : Nat) (f : Seam → Seam) : (s.modSeam id f).drbg = s.drbg := rfl
@[simp] theorem State.modSeam_draws (s : State) (id : Nat) (f : Seam → Seam) : (s.modSeam id f).draws = s.draws := rfl
@[simp] theorem State.modSeam_pending (s : State) (id : Nat) (f : Seam → Seam) : (s.modSeam id f).pending = s.pending := rfl

/-! `State.dramPut` writes `dram` and nothing else. -/
@[simp] theorem State.dramPut_member (s : State) (a : Nat) (bs : Bytes) : (s.dramPut a bs).member = s.member := rfl
@[simp] theorem State.dramPut_count (s : State) (a : Nat) (bs : Bytes) : (s.dramPut a bs).count = s.count := rfl
@[simp] theorem State.dramPut_pllLocked (s : State) (a : Nat) (bs : Bytes) : (s.dramPut a bs).pllLocked = s.pllLocked := rfl
@[simp] theorem State.dramPut_holdover (s : State) (a : Nat) (bs : Bytes) : (s.dramPut a bs).holdover = s.holdover := rfl
@[simp] theorem State.dramPut_tsyncEn (s : State) (a : Nat) (bs : Bytes) : (s.dramPut a bs).tsyncEn = s.tsyncEn := rfl
@[simp] theorem State.dramPut_tsyncCapture (s : State) (a : Nat) (bs : Bytes) : (s.dramPut a bs).tsyncCapture = s.tsyncCapture := rfl
@[simp] theorem State.dramPut_tsyncCaptures (s : State) (a : Nat) (bs : Bytes) : (s.dramPut a bs).tsyncCaptures = s.tsyncCaptures := rfl
@[simp] theorem State.dramPut_tsyncPulses (s : State) (a : Nat) (bs : Bytes) : (s.dramPut a bs).tsyncPulses = s.tsyncPulses := rfl
@[simp] theorem State.dramPut_tiles (s : State) (a : Nat) (bs : Bytes) : (s.dramPut a bs).tiles = s.tiles := rfl
@[simp] theorem State.dramPut_parts (s : State) (a : Nat) (bs : Bytes) : (s.dramPut a bs).parts = s.parts := rfl
@[simp] theorem State.dramPut_placement (s : State) (a : Nat) (bs : Bytes) : (s.dramPut a bs).placement = s.placement := rfl
@[simp] theorem State.dramPut_mapPend (s : State) (a : Nat) (bs : Bytes) : (s.dramPut a bs).mapPend = s.mapPend := rfl
@[simp] theorem State.dramPut_mapOld (s : State) (a : Nat) (bs : Bytes) : (s.dramPut a bs).mapOld = s.mapOld := rfl
@[simp] theorem State.dramPut_seams (s : State) (a : Nat) (bs : Bytes) : (s.dramPut a bs).seams = s.seams := rfl
@[simp] theorem State.dramPut_net (s : State) (a : Nat) (bs : Bytes) : (s.dramPut a bs).net = s.net := rfl
@[simp] theorem State.dramPut_ioQueue (s : State) (a : Nat) (bs : Bytes) : (s.dramPut a bs).ioQueue = s.ioQueue := rfl
@[simp] theorem State.dramPut_mgmtOut (s : State) (a : Nat) (bs : Bytes) : (s.dramPut a bs).mgmtOut = s.mgmtOut := rfl
@[simp] theorem State.dramPut_regions (s : State) (a : Nat) (bs : Bytes) : (s.dramPut a bs).regions = s.regions := rfl
@[simp] theorem State.dramPut_rowsMarked (s : State) (a : Nat) (bs : Bytes) : (s.dramPut a bs).rowsMarked = s.rowsMarked := rfl
@[simp] theorem State.dramPut_rowSyms (s : State) (a : Nat) (bs : Bytes) : (s.dramPut a bs).rowSyms = s.rowSyms := rfl
@[simp] theorem State.dramPut_rowsBad (s : State) (a : Nat) (bs : Bytes) : (s.dramPut a bs).rowsBad = s.rowsBad := rfl
@[simp] theorem State.dramPut_sparesUsed (s : State) (a : Nat) (bs : Bytes) : (s.dramPut a bs).sparesUsed = s.sparesUsed := rfl
@[simp] theorem State.dramPut_corrections (s : State) (a : Nat) (bs : Bytes) : (s.dramPut a bs).corrections = s.corrections := rfl
@[simp] theorem State.dramPut_pinsFailed (s : State) (a : Nat) (bs : Bytes) : (s.dramPut a bs).pinsFailed = s.pinsFailed := rfl
@[simp] theorem State.dramPut_pinRows (s : State) (a : Nat) (bs : Bytes) : (s.dramPut a bs).pinRows = s.pinRows := rfl
@[simp] theorem State.dramPut_channels (s : State) (a : Nat) (bs : Bytes) : (s.dramPut a bs).channels = s.channels := rfl
@[simp] theorem State.dramPut_fns (s : State) (a : Nat) (bs : Bytes) : (s.dramPut a bs).fns = s.fns := rfl
@[simp] theorem State.dramPut_inbox (s : State) (a : Nat) (bs : Bytes) : (s.dramPut a bs).inbox = s.inbox := rfl
@[simp] theorem State.dramPut_inboxLost (s : State) (a : Nat) (bs : Bytes) : (s.dramPut a bs).inboxLost = s.inboxLost := rfl
@[simp] theorem State.dramPut_faultLog (s : State) (a : Nat) (bs : Bytes) : (s.dramPut a bs).faultLog = s.faultLog := rfl
@[simp] theorem State.dramPut_faultHead (s : State) (a : Nat) (bs : Bytes) : (s.dramPut a bs).faultHead = s.faultHead := rfl
@[simp] theorem State.dramPut_faultHeld (s : State) (a : Nat) (bs : Bytes) : (s.dramPut a bs).faultHeld = s.faultHeld := rfl
@[simp] theorem State.dramPut_resets (s : State) (a : Nat) (bs : Bytes) : (s.dramPut a bs).resets = s.resets := rfl
@[simp] theorem State.dramPut_latchOut (s : State) (a : Nat) (bs : Bytes) : (s.dramPut a bs).latchOut = s.latchOut := rfl
@[simp] theorem State.dramPut_adminFn (s : State) (a : Nat) (bs : Bytes) : (s.dramPut a bs).adminFn = s.adminFn := rfl
@[simp] theorem State.dramPut_adminNext (s : State) (a : Nat) (bs : Bytes) : (s.dramPut a bs).adminNext = s.adminNext := rfl
@[simp] theorem State.dramPut_waiters (s : State) (a : Nat) (bs : Bytes) : (s.dramPut a bs).waiters = s.waiters := rfl
@[simp] theorem State.dramPut_bifur (s : State) (a : Nat) (bs : Bytes) : (s.dramPut a bs).bifur = s.bifur := rfl
@[simp] theorem State.dramPut_bifurNext (s : State) (a : Nat) (bs : Bytes) : (s.dramPut a bs).bifurNext = s.bifurNext := rfl
@[simp] theorem State.dramPut_ports (s : State) (a : Nat) (bs : Bytes) : (s.dramPut a bs).ports = s.ports := rfl
@[simp] theorem State.dramPut_ctlIn (s : State) (a : Nat) (bs : Bytes) : (s.dramPut a bs).ctlIn = s.ctlIn := rfl
@[simp] theorem State.dramPut_flatW (s : State) (a : Nat) (bs : Bytes) : (s.dramPut a bs).flatW = s.flatW := rfl
@[simp] theorem State.dramPut_flatE (s : State) (a : Nat) (bs : Bytes) : (s.dramPut a bs).flatE = s.flatE := rfl
@[simp] theorem State.dramPut_bindings (s : State) (a : Nat) (bs : Bytes) : (s.dramPut a bs).bindings = s.bindings := rfl
@[simp] theorem State.dramPut_serviceOut (s : State) (a : Nat) (bs : Bytes) : (s.dramPut a bs).serviceOut = s.serviceOut := rfl
@[simp] theorem State.dramPut_rows (s : State) (a : Nat) (bs : Bytes) : (s.dramPut a bs).rows = s.rows := rfl
@[simp] theorem State.dramPut_retired (s : State) (a : Nat) (bs : Bytes) : (s.dramPut a bs).retired = s.retired := rfl
@[simp] theorem State.dramPut_slowPlan (s : State) (a : Nat) (bs : Bytes) : (s.dramPut a bs).slowPlan = s.slowPlan := rfl
@[simp] theorem State.dramPut_fuses (s : State) (a : Nat) (bs : Bytes) : (s.dramPut a bs).fuses = s.fuses := rfl
@[simp] theorem State.dramPut_defects (s : State) (a : Nat) (bs : Bytes) : (s.dramPut a bs).defects = s.defects := rfl
@[simp] theorem State.dramPut_defectSeq (s : State) (a : Nat) (bs : Bytes) : (s.dramPut a bs).defectSeq = s.defectSeq := rfl
@[simp] theorem State.dramPut_defectGen (s : State) (a : Nat) (bs : Bytes) : (s.dramPut a bs).defectGen = s.defectGen := rfl
@[simp] theorem State.dramPut_defectOther (s : State) (a : Nat) (bs : Bytes) : (s.dramPut a bs).defectOther = s.defectOther := rfl
@[simp] theorem State.dramPut_defectQueue (s : State) (a : Nat) (bs : Bytes) : (s.dramPut a bs).defectQueue = s.defectQueue := rfl
@[simp] theorem State.dramPut_testResults (s : State) (a : Nat) (bs : Bytes) : (s.dramPut a bs).testResults = s.testResults := rfl
@[simp] theorem State.dramPut_boot (s : State) (a : Nat) (bs : Bytes) : (s.dramPut a bs).boot = s.boot := rfl
@[simp] theorem State.dramPut_power (s : State) (a : Nat) (bs : Bytes) : (s.dramPut a bs).power = s.power := rfl
@[simp] theorem State.dramPut_sec (s : State) (a : Nat) (bs : Bytes) : (s.dramPut a bs).sec = s.sec := rfl
@[simp] theorem State.dramPut_deviceEnergy (s : State) (a : Nat) (bs : Bytes) : (s.dramPut a bs).deviceEnergy = s.deviceEnergy := rfl
@[simp] theorem State.dramPut_drbg (s : State) (a : Nat) (bs : Bytes) : (s.dramPut a bs).drbg = s.drbg := rfl
@[simp] theorem State.dramPut_draws (s : State) (a : Nat) (bs : Bytes) : (s.dramPut a bs).draws = s.draws := rfl
@[simp] theorem State.dramPut_pending (s : State) (a : Nat) (bs : Bytes) : (s.dramPut a bs).pending = s.pending := rfl

/-! Readings. -/

/-- Tiles have one key each. -/
theorem tileKey_inj (t u : TileId) (h : tileKey t = tileKey u) : t = u := by
  obtain ⟨a, b⟩ := t
  obtain ⟨c, d⟩ := u
  simp only [tileKey] at h
  have h1 := a.isLt
  have h2 := c.isLt
  have ha : a = c := BitVec.eq_of_toNat_eq (by omega)
  have hb : b = d := BitVec.eq_of_toNat_eq (by omega)
  rw [ha, hb]

@[simp] theorem State.tile_setTile (s : State) (t : TileId) (v : Tile) : (s.setTile t v).tile t = v := by
  simp [State.tile, State.setTile]
theorem State.tile_setTile_ne (s : State) (t u : TileId) (v : Tile) (h : u ≠ t) : (s.setTile t v).tile u = s.tile u := by
  simp only [State.tile, State.setTile]
  rw [kget_kput_ne _ _ _ _ fun e => h (tileKey_inj u t e)]
@[simp] theorem State.setTile_setTile (s : State) (t : TileId) (v w : Tile) : (s.setTile t v).setTile t w = s.setTile t w := by
  simp [State.setTile, kput_kput]
theorem State.modTile_eq (s : State) (t : TileId) (f : Tile → Tile) : s.modTile t f = s.setTile t (f (s.tile t)) := rfl
@[simp] theorem State.tile_modTile (s : State) (t : TileId) (f : Tile → Tile) : (s.modTile t f).tile t = f (s.tile t) := by
  simp [State.modTile_eq]
theorem State.tile_modTile_ne (s : State) (t u : TileId) (f : Tile → Tile) (h : u ≠ t) : (s.modTile t f).tile u = s.tile u :=
  State.tile_setTile_ne s t u _ h
@[simp] theorem State.modTile_modTile (s : State) (t : TileId) (f g : Tile → Tile) :
    (s.modTile t f).modTile t g = s.modTile t fun v => g (f v) := by simp [State.modTile_eq]
@[simp] theorem State.modTile_setTile (s : State) (t : TileId) (v : Tile) (g : Tile → Tile) :
    (s.setTile t v).modTile t g = s.setTile t (g v) := by simp [State.modTile_eq]

@[simp] theorem State.part_setPart (s : State) (p : PartId) (v : Part) : (s.setPart p v).part p = v := by
  simp [State.part, State.setPart]
theorem State.part_setPart_ne (s : State) (p q : PartId) (v : Part) (h : q ≠ p) : (s.setPart p v).part q = s.part q := by
  have : (p : Nat) ≠ q := fun e => h (Fin.ext e.symm)
  simp [State.part, State.setPart, Vector.getElem_set, this]
@[simp] theorem State.setPart_setPart (s : State) (p : PartId) (v w : Part) : (s.setPart p v).setPart p w = s.setPart p w := by
  simp [State.setPart]
theorem State.modPart_eq (s : State) (p : PartId) (f : Part → Part) : s.modPart p f = s.setPart p (f (s.part p)) := rfl
@[simp] theorem State.part_modPart (s : State) (p : PartId) (f : Part → Part) : (s.modPart p f).part p = f (s.part p) := by
  simp [State.modPart_eq]
theorem State.part_modPart_ne (s : State) (p q : PartId) (f : Part → Part) (h : q ≠ p) : (s.modPart p f).part q = s.part q :=
  State.part_setPart_ne s p q _ h
@[simp] theorem State.modPart_modPart (s : State) (p : PartId) (f g : Part → Part) :
    (s.modPart p f).modPart p g = s.modPart p fun v => g (f v) := by simp [State.modPart_eq]

@[simp] theorem State.fn_modFn (s : State) (i : FnId) (f : HostFn → HostFn) : (s.modFn i f).fn i = f (s.fn i) := by
  simp [State.fn, State.modFn]
theorem State.fn_modFn_ne (s : State) (i j : FnId) (f : HostFn → HostFn) (h : j ≠ i) : (s.modFn i f).fn j = s.fn j := by
  have : (i : Nat) ≠ j := fun e => h (Fin.ext e.symm)
  simp [State.fn, State.modFn, Vector.getElem_set, this]
@[simp] theorem State.mbox_modMbox (s : State) (i : FnId) (m : MboxId) (g : Mbox → Mbox) :
    (s.modMbox i m g).mbox i m = g (s.mbox i m) := by
  simp [State.mbox, State.modMbox]
@[simp] theorem State.port_modPort (s : State) (p : PortId) (f : Port → Port) : (s.modPort p f).port p = f (s.port p) := by
  simp [State.port, State.modPort]
theorem State.port_modPort_ne (s : State) (p q : PortId) (f : Port → Port) (h : q ≠ p) : (s.modPort p f).port q = s.port q := by
  have : (p : Nat) ≠ q := fun e => h (Fin.ext e.symm)
  simp [State.port, State.modPort, Vector.getElem_set, this]
@[simp] theorem State.seam_modSeam (s : State) (id : Nat) (f : Seam → Seam) : (s.modSeam id f).seam id = f (s.seam id) := by
  simp [State.seam, State.modSeam]

/-! What else a tile's or a partition's update leaves as it was. -/

@[simp] theorem State.part_setTile (s : State) (t : TileId) (v : Tile) (p : PartId) : (s.setTile t v).part p = s.part p := rfl
@[simp] theorem State.part_modTile (s : State) (t : TileId) (f : Tile → Tile) (p : PartId) : (s.modTile t f).part p = s.part p := rfl
@[simp] theorem State.tile_setPart (s : State) (p : PartId) (v : Part) (t : TileId) : (s.setPart p v).tile t = s.tile t := rfl
@[simp] theorem State.tile_modPart (s : State) (p : PartId) (f : Part → Part) (t : TileId) : (s.modPart p f).tile t = s.tile t := rfl
@[simp] theorem State.hasTile_setTile (s : State) (t u : TileId) (v : Tile) : (s.setTile t v).hasTile u = s.hasTile u := rfl
@[simp] theorem State.partOf_setTile (s : State) (t u : TileId) (v : Tile) : (s.setTile t v).partOf u = s.partOf u := rfl
@[simp] theorem State.partOf_modTile (s : State) (t u : TileId) (f : Tile → Tile) : (s.modTile t f).partOf u = s.partOf u := rfl
@[simp] theorem State.jobTime_modTile (s : State) (t : TileId) (f : Tile → Tile) (p : PartId) : (s.modTile t f).jobTime p = s.jobTime p := rfl

/-! Commands of tiles, and the mailbox. -/

@[simp] theorem State.part_modFn (s : State) (i : FnId) (f : HostFn → HostFn) (p : PartId) : (s.modFn i f).part p = s.part p := rfl
@[simp] theorem State.part_modMbox (s : State) (i : FnId) (m : MboxId) (g : Mbox → Mbox) (p : PartId) : (s.modMbox i m g).part p = s.part p := rfl
@[simp] theorem State.tile_modMbox (s : State) (i : FnId) (m : MboxId) (g : Mbox → Mbox) (t : TileId) : (s.modMbox i m g).tile t = s.tile t := rfl
@[simp] theorem State.port_modMbox (s : State) (i : FnId) (m : MboxId) (g : Mbox → Mbox) (p : PortId) : (s.modMbox i m g).port p = s.port p := rfl

/-- DRAM of the device: a byte written reads as written, every other byte as before. -/
theorem State.dramByte_dramPut (s : State) (a : Nat) (bs : Bytes) (i : Nat) (hi : i < bs.length)
    (h : Memory.wf (some 0) s.dram = true) : (s.dramPut a bs).dramByte (a + i) = bs[i] := by
  have := kget_cellsPut (some 0) bs s.dram a i hi h
  simp only [State.dramByte, State.dramPut]
  cases hk : kget (a + i) (cellsPut (some 0) s.dram a bs) with
  | none => rw [hk] at this; simpa using this
  | some v => rw [hk] at this; simpa using this
theorem State.dramByte_dramPut_other (s : State) (a b : Nat) (bs : Bytes) (hb : b < a ∨ a + bs.length ≤ b)
    (h : Memory.wf (some 0) s.dram = true) : (s.dramPut a bs).dramByte b = s.dramByte b := by
  have := kget_cellsPut_other (some 0) bs s.dram a b h hb
  simp only [State.dramByte, State.dramPut]
  cases h1 : kget b (cellsPut (some 0) s.dram a bs) <;> cases h2 : kget b s.dram <;> rw [h1, h2] at this <;> simp_all
theorem State.wf_dramPut (s : State) (a : Nat) (bs : Bytes) (h : Memory.wf (some 0) s.dram = true) :
    Memory.wf (some 0) (s.dramPut a bs).dram = true := wf_cellsPut (some 0) bs s.dram a h

end Sys2Proof.Machine
end

