-- ==== Sys2Proof/Laws/Memory.lean ====
section
/-!
SUPPORT. The byte stores of a tile: what reads give after a write and after the contents become undefined, and that both keep the canonical
form.
-/

namespace Sys2Proof.Machine

/-- A read of a store: the cell, else what an unlisted byte reads as. -/
theorem Store.get_eq (st : Store) (key b : Nat) : st.get key b = ((kget b st.cells).or st.blank).getD (Config.undefByte key st.epoch b) := by
  unfold Store.get Store.blank
  cases kget b st.cells with
  | some v => rfl
  | none => by_cases h : st.epoch = 0 <;> simp [h]

@[simp] theorem Store.put_blank (st : Store) (a : Nat) (bs : Bytes) : (st.put a bs).blank = st.blank := rfl
@[simp] theorem Store.put_cells (st : Store) (a : Nat) (bs : Bytes) : (st.put a bs).cells = cellsPut st.blank st.cells a bs := rfl
@[simp] theorem Store.put_epoch (st : Store) (a : Nat) (bs : Bytes) : (st.put a bs).epoch = st.epoch := rfl

/-- A byte written reads back. -/
theorem Store.get_put (st : Store) (key a : Nat) (bs : Bytes) (h : Memory.wf st.blank st.cells = true) (i : Nat) (hi : i < bs.length) :
    (st.put a bs).get key (a + i) = bs[i] := by
  rw [Store.get_eq, Store.put_blank, Store.put_cells, kget_cellsPut st.blank bs st.cells a i hi h]
  rfl

/-- A byte that is not written reads as before. -/
theorem Store.get_put_other (st : Store) (key a : Nat) (bs : Bytes) (h : Memory.wf st.blank st.cells = true) (b : Nat) (hb : b < a ∨ a + bs.length ≤ b) :
    (st.put a bs).get key b = st.get key b := by
  rw [Store.get_eq, Store.get_eq, Store.put_blank, Store.put_cells, kget_cellsPut_other st.blank bs st.cells a b h hb]
  rfl

/-- A write keeps the canonical form. -/
theorem Store.wf_put (st : Store) (a : Nat) (bs : Bytes) (h : Memory.wf st.blank st.cells = true) :
    Memory.wf (st.put a bs).blank (st.put a bs).cells = true :=
  wf_cellsPut st.blank bs st.cells a h

/-- Folding entries into a map keeps it canonical. -/
theorem kwf_foldl_kput {α : Type} (f : Nat → α) (l : List Nat) (m : List (Nat × α)) (h : kwf m = true) :
    kwf (l.foldl (fun m a => kput a (f a) m) m) = true := by
  induction l generalizing m with
  | nil => exact h
  | cons x l ih => exact ih _ (kwf_kput _ _ _ h)

/-- A key folded into a map is found there. -/
theorem kget_foldl_kput {α : Type} (f : Nat → α) (b : Nat) (l : List Nat) (m : List (Nat × α)) (h : b ∈ l ∨ kget b m = some (f b)) :
    kget b (l.foldl (fun m a => kput a (f a) m) m) = some (f b) := by
  induction l generalizing m with
  | nil => simpa using h
  | cons x l ih =>
    refine ih _ ?_
    by_cases hx : b = x
    · right
      rw [hx, kget_kput_self]
    · rcases h with h | h
      · exact .inl ((List.mem_cons.1 h).resolve_left hx)
      · right
        rw [kget_kput_ne _ _ _ _ hx]
        exact h

/-- Contents that become undefined leave a canonical store. -/
theorem Store.wf_forget (st : Store) (key : Nat) (keep : List Nat) : Memory.wf (st.forget key keep).blank (st.forget key keep).cells = true := by
  have hb : (st.forget key keep).blank = none := by
    unfold Store.forget Store.blank
    simp
  rw [hb]
  simp only [Memory.wf, Bool.and_eq_true]
  exact ⟨kwf_foldl_kput _ keep [] rfl, by simp [List.all_eq_true]⟩

/-- Bytes that are kept read as before. -/
theorem Store.get_forget (st : Store) (key : Nat) (keep : List Nat) (b : Nat) (h : b ∈ keep) : (st.forget key keep).get key b = st.get key b := by
  have hc : kget b (st.forget key keep).cells = some (st.get key b) := kget_foldl_kput _ b keep [] (.inl h)
  rw [Store.get_eq, hc]
  rfl

end Sys2Proof.Machine
end

