-- ==== Sys2Proof/Laws/PerInstr.lean ====
section
/-!
SUPPORT. A fact about every command as syntax: what a well-formed command carries is bounded.
-/

namespace Sys2Proof.Laws.Bounds

/-- A well-formed command carries a packet of at most 256 bytes (R211) and a request body of at most 2,024 (R416). -/
def Statement (i : Instr) : Prop :=
  i.wf = true → (∀ p, i.packet = some p → p.len.toNat ≤ 256 ∧ p.payload.length ≤ 256) ∧ (∀ r, i.request = some r → r.2.body.length ≤ 2024)

/-- A well-formed packet has at most 256 bytes. -/
theorem packet_bound (p : Packet) (h : p.wf = true) : p.len.toNat ≤ 256 ∧ p.payload.length ≤ 256 := by
  simp only [Packet.wf, Bool.and_eq_true, decide_eq_true_eq] at h
  refine ⟨h.1, ?_⟩
  rw [h.2]
  split
  · exact Nat.zero_le _
  · exact h.1

/-- The statement from the two checks that every command makes. -/
theorem of_checks (i : Instr) (h : i.wf = true → (i.packet.all Packet.wf) = true ∧ (i.request.all fun r => r.2.wf) = true) : Statement i := by
  intro w
  obtain ⟨hp, hr⟩ := h w
  refine ⟨fun p e => packet_bound p (by rw [e] at hp; exact hp), fun r e => ?_⟩
  rw [e] at hr
  exact of_decide_eq_true hr

/-- The statement of any command: its checks are the first of wf. -/
theorem every (i : Instr) : Statement i := of_checks i fun w => by
  simp only [Instr.wf, Bool.and_eq_true] at w
  exact w.1

theorem tbRefLoss : Statement (.tbRefLoss) := every _
theorem tsyncOutPulse : Statement (.tsyncOutPulse) := every _
theorem tsyncInEdge : Statement (.tsyncInEdge) := every _
theorem beatBoundary (p : PartId) (bad : List BoundaryEcc) : Statement (.beatBoundary p bad) := every _
theorem beatDeadline (p : PartId) : Statement (.beatDeadline p) := every _
theorem stageVote (p : PartId) (u : UnitName) (ready : Bool) (marginPs : U16) : Statement (.stageVote p u ready marginPs) := every _
theorem voteDeadline (p : PartId) : Statement (.voteDeadline p) := every _
theorem seamTransfer (seam : U16) (reverse : Bool) (word : SeamWord) : Statement (.seamTransfer seam reverse word) := every _
theorem seamCorrectedLimit (seam : U16) : Statement (.seamCorrectedLimit seam) := every _
theorem seqInstruction (t : TileId) (ecc : Ecc) : Statement (.seqInstruction t ecc) := every _
theorem zqEnq (t : TileId) (e : Eng) (rd rs1 : BitVec 5) (ecc : Ecc) : Statement (.zqEnq t e rd rs1 ecc) := every _
theorem zqWait (t : TileId) (e : Eng) (rs1 : BitVec 5) : Statement (.zqWait t e rs1) := every _
theorem zqWaitRetire (t : TileId) : Statement (.zqWaitRetire t) := every _
theorem zqPoll (t : TileId) (e : Eng) (rd : BitVec 5) : Statement (.zqPoll t e rd) := every _
theorem zqBwait (t : TileId) : Statement (.zqBwait t) := every _
theorem zqBwaitRetire (t : TileId) : Statement (.zqBwaitRetire t) := every _
theorem zqBsync (t : TileId) : Statement (.zqBsync t) := every _
theorem zqBsyncRetire (t : TileId) : Statement (.zqBsyncRetire t) := every _
theorem mxePassStart (t : TileId) : Statement (.mxePassStart t) := every _
theorem mxeAttemptEnd (t : TileId) (ecc : Ecc) : Statement (.mxeAttemptEnd t ecc) := every _
theorem mxePassComplete (t : TileId) : Statement (.mxePassComplete t) := every _
theorem vxeElementwise (t : TileId) (ecc : Ecc) : Statement (.vxeElementwise t ecc) := every _
theorem vxeReduce (t : TileId) (ecc : Ecc) : Statement (.vxeReduce t ecc) := every _
theorem vxeCombine (t : TileId) (ecc : Ecc) : Statement (.vxeCombine t ecc) := every _
theorem vxeFacet (t : TileId) (ecc : Ecc) : Statement (.vxeFacet t ecc) := every _
theorem vxeTopk (t : TileId) (ecc : Ecc) : Statement (.vxeTopk t ecc) := every _
theorem vxeComplete (t : TileId) : Statement (.vxeComplete t) := every _
theorem dmaCopy (t : TileId) (ecc : Ecc) : Statement (.dmaCopy t ecc) := every _
theorem dmaConvert (t : TileId) (ecc : Ecc) : Statement (.dmaConvert t ecc) := every _
theorem dmaWopen (t : TileId) (ecc : Ecc) : Statement (.dmaWopen t ecc) := every _
theorem dmaWclose (t : TileId) : Statement (.dmaWclose t) := every _
theorem dmaComplete (t : TileId) : Statement (.dmaComplete t) := every _
theorem msgListen (t : TileId) : Statement (.msgListen t) := every _
theorem msgOpen (t : TileId) : Statement (.msgOpen t) := every _
theorem msgSend (t : TileId) : Statement (.msgSend t) := every _
theorem msgSendAllot (t : TileId) (chan : BitVec 20) (ecc : Ecc) : Statement (.msgSendAllot t chan ecc) := every _
theorem msgRelease (t : TileId) : Statement (.msgRelease t) := every _
theorem msgClose (t : TileId) : Statement (.msgClose t) := every _
theorem msgUnitComplete (t : TileId) : Statement (.msgUnitComplete t) := every _
theorem ringStallTimeout (t : TileId) (index : Nat) : Statement (.ringStallTimeout t index) := every _
theorem ringHeldWriteAccept (t : TileId) (index : Nat) (ecc : Ecc) : Statement (.ringHeldWriteAccept t index ecc) := every _
theorem carrySaveOverdue (p : PartId) : Statement (.carrySaveOverdue p) := every _
theorem patrolScrub (dpa : BitVec 42) (loc : U64) (ecc : Ecc) : Statement (.patrolScrub dpa loc ecc) := every _
theorem dramRowRepair (stack : Fin 32) : Statement (.dramRowRepair stack) := every _
theorem regionZeroingDone (region : BitVec 9) : Statement (.regionZeroingDone region) := every _
theorem bankDrainDone (t : TileId) (d : BankDrain) : Statement (.bankDrainDone t d) := every _
theorem bankDrainTimeout (t : TileId) (bank : BankId) : Statement (.bankDrainTimeout t bank) := every _
theorem bankClearDone (t : TileId) (bank : BankId) : Statement (.bankClearDone t bank) := every _
theorem streamSlot (t : TileId) (ecc : Ecc) (badFlit : Option (Fin 5)) : Statement (.streamSlot t ecc badFlit) := every _
theorem steerToken (t : TileId) (su : Fin 8) : Statement (.steerToken t su) := every _
theorem packetInject (src : InjectAt) : Statement (.packetInject src) := every _
theorem packetRoute (index : Nat) (word : SeamWord) : Statement (.packetRoute index word) := every _
theorem fencedRequestRelease (t : TileId) (index : Nat) : Statement (.fencedRequestRelease t index) := every _
theorem replyTimeout (t : TileId) (tag : U16) : Statement (.replyTimeout t tag) := every _
theorem mcastCreditTimeout (index : Nat) : Statement (.mcastCreditTimeout index) := every _
theorem writeRequest (t : TileId) (pkt : Packet) (ecc : Ecc) : Statement (.writeRequest t pkt ecc) := every _
theorem readRequest (t : TileId) (pkt : Packet) (ecc : Ecc) : Statement (.readRequest t pkt ecc) := every _
theorem msgArrival (dest : EndAt) (pkt : Packet) : Statement (.msgArrival dest pkt) := every _
theorem msgctlOpen (dest : EndAt) (pkt : Packet) : Statement (.msgctlOpen dest pkt) := every _
theorem msgctlOpenAck (dest : EndAt) (pkt : Packet) : Statement (.msgctlOpenAck dest pkt) := every _
theorem msgctlCredit (dest : EndAt) (pkt : Packet) : Statement (.msgctlCredit dest pkt) := every _
theorem msgctlClose (dest : EndAt) (pkt : Packet) : Statement (.msgctlClose dest pkt) := every _
theorem mgmtWr (t : TileId) (pkt : Packet) : Statement (.mgmtWr t pkt) := every _
theorem mgmtRd (t : TileId) (pkt : Packet) : Statement (.mgmtRd t pkt) := every _
theorem image (t : TileId) (pkt : Packet) : Statement (.image t pkt) := every _
theorem notice (t : TileId) : Statement (.notice t) := every _
theorem cmpl (t : TileId) (pkt : Packet) : Statement (.cmpl t pkt) := every _
theorem cmplD (t : TileId) (pkt : Packet) (ecc : Ecc) : Statement (.cmplD t pkt ecc) := every _
theorem resend (t : TileId) : Statement (.resend t) := every _
theorem latchSample (r : FacetRead) : Statement (.latchSample r) := every _
theorem partitionBitFormed (p : PartId) : Statement (.partitionBitFormed p) := every _
theorem gatherFrame (p : PartId) (port : PortId) (f : LatchFrame) : Statement (.gatherFrame p port f) := every _
theorem gatherDeadline (p : PartId) : Statement (.gatherDeadline p) := every _
theorem breakFrame (p : PartId) (port : PortId) (f : LatchFrame) : Statement (.breakFrame p port f) := every _
theorem breakCutoff (p : PartId) : Statement (.breakCutoff p) := every _
theorem haltFrame (p : PartId) (port : PortId) (f : LatchFrame) : Statement (.haltFrame p port f) := every _
theorem outcomeFrame (p : PartId) (f : LatchFrame) : Statement (.outcomeFrame p f) := every _
theorem shadowFrame (p : PartId) (f : LatchFrame) : Statement (.shadowFrame p f) := every _
theorem haspFrameReceive (port : PortId) (sess : Session) (frame : Bytes) (fecOk : Bool) : Statement (.haspFrameReceive port sess frame fecOk) := every _
theorem replayTimeout (port : PortId) (sess : Session) : Statement (.replayTimeout port sess) := every _
theorem linkReset (port : PortId) (sess : Session) : Statement (.linkReset port sess) := every _
theorem controlReset (port : PortId) : Statement (.controlReset port) := every _
theorem replay (port : PortId) (sess : Session) (seq : U16) : Statement (.replay port sess seq) := every _
theorem nak (port : PortId) (msg : NakMsg) : Statement (.nak port msg) := every _
theorem heartbeatSend (port : PortId) (sess : Session) : Statement (.heartbeatSend port sess) := every _
theorem heartbeat (port : PortId) (sess : Session) (hb : Heartbeat) : Statement (.heartbeat port sess hb) := every _
theorem heartbeatMiss (port : PortId) (sess : Session) : Statement (.heartbeatMiss port sess) := every _
theorem lane (port : PortId) (failed : LaneId) (atSeq : U16) (ack : Bool) : Statement (.lane port failed atSeq ack) := every _
theorem laneSwap (port : PortId) : Statement (.laneSwap port) := every _
theorem hello (port : PortId) (sess : Session) (h : Hello) : Statement (.hello port sess h) := every _
theorem admitFragment (port : PortId) (sess : Session) (kind : Byte) (index : Byte) (last : Bool) (data : Bytes) : Statement (.admitFragment port sess kind index last data) := every _
theorem credits (port : PortId) (sess : Session) (returns : List (Byte × U16)) : Statement (.credits port sess returns) := every _
theorem laneTrainingDone (port : PortId) (l : LaneId) (aligned : Bool) (delays : AlignDelays) (device : U64) : Statement (.laneTrainingDone port l aligned delays device) := every _
theorem laneQualifyWindow (port : PortId) (passed : BitVec 9) (noUncorrectable : Bool) : Statement (.laneQualifyWindow port passed noUncorrectable) := every _
theorem laneMonitorWindow (port : PortId) (overLimit : BitVec 9) : Statement (.laneMonitorWindow port overLimit) := every _
theorem laneLockLoss (port : PortId) (l : LaneId) : Statement (.laneLockLoss port l) := every _
theorem linkDown (port : PortId) : Statement (.linkDown port) := every _
theorem syncExchange (port : PortId) (sess : Session) (t1 t2 t3 t4 : U64) : Statement (.syncExchange port sess t1 t2 t3 t4) := every _
theorem admissionStageTimeout (port : PortId) (sess : Session) : Statement (.admissionStageTimeout port sess) := every _
theorem admissionRevoke (port : PortId) (sess : Session) : Statement (.admissionRevoke port sess) := every _
theorem serviceRequest (port : PortId) (ipv6 : Bool) (addr : Bytes) (binding : U16) (request : U32) (client : U16) (payload : Bytes) : Statement (.serviceRequest port ipv6 addr binding request client payload) := every _
theorem faultInboxDrain : Statement (.faultInboxDrain) := every _
theorem partitionRelease (p : PartId) : Statement (.partitionRelease p) := every _
theorem fastPathAbandon (p : PartId) : Statement (.fastPathAbandon p) := every _
theorem inFieldTestDone (t : TileId) (results : List BistRecord) : Statement (.inFieldTestDone t results) := every _
theorem defectLogAppend : Statement (.defectLogAppend) := every _
theorem hangWindowExpiry (t : TileId) : Statement (.hangWindowExpiry t) := every _
theorem quiescenceCheck (p : PartId) (notIdle stillBusy : List (TileId × BitVec 3)) : Statement (.quiescenceCheck p notIdle stillBusy) := every _
theorem tileReset (t : TileId) (wardAnswers : Bool) : Statement (.tileReset t wardAnswers) := every _
theorem clusterReset (t : TileId) (wardAnswers : Bool) : Statement (.clusterReset t wardAnswers) := every _
theorem partitionReset (p : PartId) (inTime : Bool) : Statement (.partitionReset p inTime) := every _
theorem deviceReset : Statement (.deviceReset) := every _
theorem powerCycleRequest : Statement (.powerCycleRequest) := every _
theorem watchdogExpiry : Statement (.watchdogExpiry) := every _
theorem startAttempt : Statement (.startAttempt) := every _
theorem startStageComplete (r : StageReport) : Statement (.startStageComplete r) := every _
theorem startStageTimeout : Statement (.startStageTimeout) := every _
theorem linkStagePortTimeout (port : PortId) : Statement (.linkStagePortTimeout port) := every _
theorem broadcastDeadline (t : TileId) : Statement (.broadcastDeadline t) := every _
theorem resendRoundTimeout (t : TileId) : Statement (.resendRoundTimeout t) := every _
theorem imageDigestCheck (t : TileId) : Statement (.imageDigestCheck t) := every _
theorem loadStatusCheck : Statement (.loadStatusCheck) := every _
theorem knownAnswerDone (failed : List (TileId × U64 × U32)) : Statement (.knownAnswerDone failed) := every _
theorem ready : Statement (.ready) := every _
theorem attemptFailed (reason : Byte) (detail : U32) : Statement (.attemptFailed reason detail) := every _
theorem perst (portB : Bool) : Statement (.perst portB) := every _
theorem flr (f : FnId) : Statement (.flr f) := every _
theorem pcieLinkDown (f : FnId) : Statement (.pcieLinkDown f) := every _
theorem bar2Read (f : FnId) (offset : BitVec 36) (len : BitVec 13) (ecc : Ecc) : Statement (.bar2Read f offset len ecc) := every _
theorem bar2Write (f : FnId) (offset : BitVec 36) (data : Bytes) : Statement (.bar2Write f offset data) := every _
theorem a2CtlWrite (f : FnId) (v : U32) : Statement (.a2CtlWrite f v) := every _
theorem evCtlWrite (f : FnId) (v : U32) : Statement (.evCtlWrite f v) := every _
theorem evTailWrite (f : FnId) (v : U32) : Statement (.evTailWrite f v) := every _
theorem countLoRead (f : FnId) : Statement (.countLoRead f) := every _
theorem registerWrite (f : FnId) (offset : BitVec 22) (v : U32) : Statement (.registerWrite f offset v) := every _
theorem mailboxPoll (f : FnId) (m : MboxId) : Statement (.mailboxPoll f m) := every _
theorem msixModerationExpiry (f : FnId) : Statement (.msixModerationExpiry f) := every _
theorem telemetryRewrite : Statement (.telemetryRewrite) := every _
theorem identify (r : Req) : Statement (.identify r) := every _
theorem setBifurcation (r : Req) : Statement (.setBifurcation r) := every _
theorem partCreate (r : Req) : Statement (.partCreate r) := every _
theorem partDestroy (r : Req) : Statement (.partDestroy r) := every _
theorem partQuery (r : Req) : Statement (.partQuery r) := every _
theorem partParams (r : Req) : Statement (.partParams r) := every _
theorem regionState (r : Req) : Statement (.regionState r) := every _
theorem bankPower (r : Req) : Statement (.bankPower r) := every _
theorem rowRepair (r : Req) : Statement (.rowRepair r) := every _
theorem channelRange (r : Req) : Statement (.channelRange r) := every _
theorem flatSet (r : Req) : Statement (.flatSet r) := every _
theorem windowRead (r : Req) : Statement (.windowRead r) := every _
theorem progLoad (r : Req) : Statement (.progLoad r) := every _
theorem progUnload (r : Req) : Statement (.progUnload r) := every _
theorem jobStart (r : Req) : Statement (.jobStart r) := every _
theorem jobDrain (r : Req) : Statement (.jobDrain r) := every _
theorem jobAbandon (r : Req) : Statement (.jobAbandon r) := every _
theorem jobResume (r : Req) : Statement (.jobResume r) := every _
theorem dlistSet (r : Req) : Statement (.dlistSet r) := every _
theorem scan (r : Req) : Statement (.scan r) := every _
theorem apply (r : Req) : Statement (.apply r) := every _
theorem stageCancel (r : Req) : Statement (.stageCancel r) := every _
theorem stageRead (r : Req) : Statement (.stageRead r) := every _
theorem seamReset (r : Req) : Statement (.seamReset r) := every _
theorem timeOffset (r : Req) : Statement (.timeOffset r) := every _
theorem tsync (r : Req) : Statement (.tsync r) := every _
theorem manifestLoad (r : Req) : Statement (.manifestLoad r) := every _
theorem shadowSet (r : Req) : Statement (.shadowSet r) := every _
theorem shadowStop (r : Req) : Statement (.shadowStop r) := every _
theorem shadowRead (r : Req) : Statement (.shadowRead r) := every _
theorem promote (r : Req) : Statement (.promote r) := every _
theorem insert (r : Req) : Statement (.insert r) := every _
theorem portMode (r : Req) : Statement (.portMode r) := every _
theorem portAssign (r : Req) : Statement (.portAssign r) := every _
theorem exitTable (r : Req) : Statement (.exitTable r) := every _
theorem ethConfig (r : Req) : Statement (.ethConfig r) := every _
theorem ethPeer (r : Req) : Statement (.ethPeer r) := every _
theorem admitPort (r : Req) : Statement (.admitPort r) := every _
theorem remove (r : Req) : Statement (.remove r) := every _
theorem portCaps (r : Req) : Statement (.portCaps r) := every _
theorem portRead (r : Req) : Statement (.portRead r) := every _
theorem faultLog (r : Req) : Statement (.faultLog r) := every _
theorem stepLog (r : Req) : Statement (.stepLog r) := every _
theorem facetLog (r : Req) : Statement (.facetLog r) := every _
theorem mapRead (r : Req) : Statement (.mapRead r) := every _
theorem seamRead (r : Req) : Statement (.seamRead r) := every _
theorem counters (r : Req) : Statement (.counters r) := every _
theorem recordRead (r : Req) : Statement (.recordRead r) := every _
theorem test (r : Req) : Statement (.test r) := every _
theorem fence (r : Req) : Statement (.fence r) := every _
theorem clearDefect (r : Req) : Statement (.clearDefect r) := every _
theorem reset (r : Req) : Statement (.reset r) := every _
theorem coldStart (r : Req) : Statement (.coldStart r) := every _
theorem startClear (r : Req) : Statement (.startClear r) := every _
theorem powerState (r : Req) : Statement (.powerState r) := every _
theorem capSet (r : Req) : Statement (.capSet r) := every _
theorem energyRead (r : Req) : Statement (.energyRead r) := every _
theorem fwWrite (r : Req) : Statement (.fwWrite r) := every _
theorem fwCommit (r : Req) : Statement (.fwCommit r) := every _
theorem fwStatus (r : Req) : Statement (.fwStatus r) := every _
theorem spdm (r : Req) : Statement (.spdm r) := every _
theorem adminSet (r : Req) : Statement (.adminSet r) := every _
theorem telemetry (r : Req) : Statement (.telemetry r) := every _
theorem svcBind (r : Req) : Statement (.svcBind r) := every _
theorem svcUnbind (r : Req) : Statement (.svcUnbind r) := every _
theorem svcClients (r : Req) : Statement (.svcClients r) := every _
theorem svcStats (r : Req) : Statement (.svcStats r) := every _
theorem inputSample (r : InputReading) : Statement (.inputSample r) := every _
theorem inputTransientExpiry : Statement (.inputTransientExpiry) := every _
theorem converterStart : Statement (.converterStart) := every _
theorem droopLevel1 (t : TileId) (mv : U16) : Statement (.droopLevel1 t mv) := every _
theorem droopLevel2 (t : TileId) (mv vnom : U16) : Statement (.droopLevel2 t mv vnom) := every _
theorem marginMeasure (t : TileId) (marginPs : U32) : Statement (.marginMeasure t marginPs) := every _
theorem capWindow (watts : List Nat) (inputW : Nat) : Statement (.capWindow watts inputW) := every _
theorem headroomExhausted (p : PartId) : Statement (.headroomExhausted p) := every _
theorem thermalSample (s : Sensor) (deciC : U32) : Statement (.thermalSample s deciC) := every _
theorem coolantCheck (flow inlet outlet : U16) : Statement (.coolantCheck flow inlet outlet) := every _
theorem idleExitDone (hd : HdId) : Statement (.idleExitDone hd) := every _
theorem debugUnlock (token : Bytes) : Statement (.debugUnlock token) := every _
theorem attestationSignDone : Statement (.attestationSignDone) := every _
theorem spdmMctp (tr : Transport) (msg : Bytes) : Statement (.spdmMctp tr msg) := every _
theorem mctpControl (tr : Transport) (msg : Bytes) : Statement (.mctpControl tr msg) := every _
theorem i3cSetdasa (static dynamic : BitVec 7) : Statement (.i3cSetdasa static dynamic) := every _
theorem i3cEntdaa (dynamic : BitVec 7) : Statement (.i3cEntdaa dynamic) := every _
theorem pldmType0 (tr : Transport) (msg : Bytes) : Statement (.pldmType0 tr msg) := every _
theorem getSensorReading (tr : Transport) (sensor : U16) : Statement (.getSensorReading tr sensor) := every _
theorem getStateSensorReadings (tr : Transport) (sensor : U16) : Statement (.getStateSensorReadings tr sensor) := every _
theorem getPdr (tr : Transport) (handle : U32) : Statement (.getPdr tr handle) := every _
theorem cblPrsntChange (port : PortId) (present : Bool) : Statement (.cblPrsntChange port present) := every _
theorem cblSupplyOvercurrent (port : PortId) : Statement (.cblSupplyOvercurrent port) := every _
theorem haspFrameSend (port : PortId) (sess : Session) (ecc : Ecc) : Statement (.haspFrameSend port sess ecc) := every _
theorem laneSignalDetect (port : PortId) (l : LaneId) : Statement (.laneSignalDetect port l) := every _
theorem pcieLinkUp (f : FnId) (gen : Byte) : Statement (.pcieLinkUp f gen) := every _
theorem droopStretchEnd (t : TileId) : Statement (.droopStretchEnd t) := every _
theorem hostReadCompletion (f : FnId) (tag : U16) (initiator : U32) (data : Bytes) : Statement (.hostReadCompletion f tag initiator data) := every _

end Sys2Proof.Laws.Bounds
end

