-- ==== Sys2Proof/Tests/Slice0.lean ====
section
/-!
SUPPORT. Small states, one step each: a witness for the hypotheses of every statement, the refusals of well-formedness, and the worked
examples of the manual.
-/

namespace Sys2Proof.Tests
set_option Elab.async false
open Sys2Proof.Machine


/-! Helpers: the reset state with one tile, one partition or one port changed. -/

/-- Tile (0, 0), in half-die 0, and tile (1, 0). -/
abbrev t0 : TileId := ⟨0, 0⟩
abbrev t1 : TileId := ⟨1, 0⟩
/-- The reset state with tile (0, 0) as given. -/
def onTile (v : Tile) : State := State.reset.setTile t0 v
/-- The reset state with partition 0 as given and every half-die ACTIVE. -/
def onPart (q : Part) : State :=
  ({ State.reset with power := { State.reset.power with hd := Vector.replicate 16 0 } } : State).setPart 0 q
/-- A tile of no partition that runs under the diagnostic mark (R94). -/
def diagTile : Tile := { frozen := false, ward := { diag := true }, seq := { run := .running } }
/-- A partition of half-die 0 with a program set. -/
def activePart : Part := { present := true, active := true, hds := 1 }
/-- The same partition, its tile (0, 0) able to run. -/
def onBoth (q : Part) (v : Tile) : State := (onPart q).setTile t0 v

theorem witness_StepRunsTheFrontCommand : ({ State.reset with pending := [.tsyncInEdge, .tbRefLoss] } : State).pending = .tsyncInEdge :: [.tbRefLoss] := by
  decide
theorem witness_IdleStepCountsOneCycle :
    (({ State.reset with pllLocked := true } : State).pending = [] ∧ ({ State.reset with pllLocked := true } : State).pllLocked = true) ∧
    (State.reset.pending = [] ∧ State.reset.pllLocked = false) := by decide +kernel
theorem witness_EveryStepKeepsTheStateSound : State.reset.Sound ∧ step State.reset = .next State.reset :=
  ⟨by constructor <;> decide, rfl⟩
theorem witness_EveryStepConsumesOneCommandAndKeepsTheMember :
    step { State.reset with pending := [.tbRefLoss, .tsyncInEdge] } =
      .next (({ State.reset with holdover := true, pending := [.tsyncInEdge] } : State).postAdmin 6 1 []) := rfl
theorem witness_CommandsGoOnExactlyWhereTheirUnitsAreFitted :
    State.reset.fits (.zqBwait t0) = true ∧ State.reset.fits (.zqBwait ⟨36, 0⟩) = false ∧ State.reset.fits (.zqBwait ⟨35, 31⟩) = true := by decide +kernel
theorem witness_TimeBaseEvents :
    State.reset.holdover = false ∧ ({ State.reset with holdover := true } : State).holdover = true ∧
    ({ State.reset with pllLocked := true } : State).pllLocked = true ∧ ({ State.reset with tsyncEn := true } : State).tsyncEn = true ∧
    State.reset.tsyncEn = false := by decide +kernel
/-- A partition at the end of a beat. -/
def judgedPart : Part := { activePart with judged := true }
/-- An apply of a change that one vote settles. -/
def oneApply : Apply :=
  { changes := [⟨0x0902, { fn := 0, mbox := 0, tag := 0, flags := 0, body := [] }⟩], beat := 8, direct := false, hold := false, committed := false,
    req := { fn := 0, mbox := 0, tag := 0, flags := 0, body := [] }, opcode := 0x0501, units := [.partitionUnit] }
/-- The same apply with a start of a job that has been carried. -/
def startApply : Apply :=
  { oneApply with outcome := some true, beat := 1, changes := [⟨0x0403, { fn := 0, mbox := 0, tag := 0, flags := 0, body := [] }⟩] }
theorem witness_BeatEvents :
    (((onPart activePart).part 0).present = true ∧ ((onPart activePart).part 0).judged = false) ∧
    (((onPart judgedPart).part 0).boundaryReady = true) ∧
    (((onPart { judgedPart with apply := some startApply }).part 0).boundaryReady = true ∧
      ((onPart { judgedPart with apply := some startApply }).part 0).startDue = some startApply) ∧
    (((onPart { activePart with apply := some oneApply }).part 0).apply = some oneApply ∧ oneApply.outcome = none ∧ oneApply.refused = none ∧
      oneApply.hold = false ∧ UnitName.partitionUnit ∈ oneApply.units ∧ UnitName.partitionUnit ∉ oneApply.votes ∧
      (onPart { activePart with apply := some oneApply }).jobTime 0 ≤ ((onPart { activePart with apply := some oneApply }).part 0).applyAt oneApply - 1000) ∧
    (((onPart { activePart with apply := some { oneApply with votes := [.partitionUnit] } }).part 0).direct = [] ∧ oneApply.direct = false ∧
      ({ oneApply with votes := [.partitionUnit] } : Apply).allVoted = true ∧
      ((onPart { activePart with apply := some { oneApply with votes := [.partitionUnit] } }).part 0).promoteFits { oneApply with votes := [.partitionUnit] } = true) := by
  decide +kernel
theorem witness_SeamWordsAndTheirCounts :
    State.reset.member.seamIds.contains (0x303 : U16).toNat = true ∧
    (256 < ((State.reset.modSeam 0x303 fun y => { y with corrR := 257 }).seam 0x303).corrR ∧
      ((State.reset.modSeam 0x303 fun y => { y with corrR := 257 }).seam 0x303).limitRecorded = false) ∧
    ((State.reset.modSeam 0x303 fun y => { y with limitRecorded := true }).seam 0x303).limitRecorded = true := by decide +kernel
/-- A partition in the last beat of a step whose outcome is fixed and closed, with a carry save still running. -/
def savingPart (m : Manifest) : Part :=
  { judgedPart with job := .running, manifest := some m, carrySaving := true, latch := { fixed := some true }, s := 2, beat := 1 }
/-- A manifest of a job of one module: step of 2 beats, K = 1. -/
def oneManifest : Manifest :=
  { bytes := [], digest := [], job := 1, seed := 0, formats := 0, eth := false, root := 0, nx := 1, ny := 1, nz := 1, coord := 0, pUs := 100, s := 2,
    t0 := 0, k := 1, ringDims := 0, latchDue := 2000, breakNs := 2000, linkLat := 0, bucketMib := 0, ranges := [], members := [] }
/-- The reset state, pin 3 of every channel of stack 31 recorded as failed. -/
def pinOut : State := { State.reset with pinsFailed := (List.range 32).map fun c => BitVec.ofNat 64 (31 * 2 ^ 59 + c * 2 ^ 54 + 3 * 2 ^ 45) }
theorem test_a_failed_pin_is_erased_in_its_channel : pinOut.erasedSyms (pinOut.dramLoc (0x3FFFFFFFFFF : BitVec 42).toNat) = 8#18 := by
  have every : ∀ k : Fin 32, (pinOut.pinsFailed.filter fun l => l.toNat / 2 ^ 54 = 992 + k.val).foldl
      (fun m l => m ||| BitVec.ofNat 18 (2 ^ bitsOf l.toNat 49 45)) 0 = 8#18 := by decide +kernel
  have low : (BitVec.ofNat 64 (31 * 2 ^ 59)).toNat ≤ (pinOut.dramLoc (0x3FFFFFFFFFF : BitVec 42).toNat).toNat := by
    unfold State.dramLoc
    rw [BitVec.toNat_or]
    exact Nat.left_le_or
  have most := (pinOut.dramLoc (0x3FFFFFFFFFF : BitVec 42).toNat).isLt
  have least : (BitVec.ofNat 64 (31 * 2 ^ 59)).toNat = 31 * 2 ^ 59 := by decide
  unfold State.erasedSyms
  generalize (pinOut.dramLoc (0x3FFFFFFFFFF : BitVec 42).toNat).toNat = n at low most
  have at_ := every ⟨n / 2 ^ 54 - 992, by omega⟩
  have same : 992 + (n / 2 ^ 54 - 992) = n / 2 ^ 54 := by omega
  simpa only [same] using at_
theorem witness_DramControllerEvents_erased :
    (0x3FFFFFFFFFF : BitVec 42).toNat / 2 ^ 33 < pinOut.member.regions ∧ pinOut.regionOn (0x3FFFFFFFFFF : BitVec 42).toNat = true ∧
    State.reset.erasedSyms (State.reset.dramLoc (0x3FFFFFFFFFF : BitVec 42).toNat) = 0 ∧
    pinOut.erasedSyms (pinOut.dramLoc (0x3FFFFFFFFFF : BitVec 42).toNat) ≠ 0 ∧
    (pinOut.erasedSyms (pinOut.dramLoc (0x3FFFFFFFFFF : BitVec 42).toNat)).getLsbD 3 = true ∧
    (pinOut.erasedSyms (pinOut.dramLoc (0x3FFFFFFFFFF : BitVec 42).toNat)).getLsbD 4 = false := by
  rw [test_a_failed_pin_is_erased_in_its_channel]
  decide +kernel
theorem witness_DramControllerEvents :
    ((0x3FFFFFFFFFF : BitVec 42).toNat / 2 ^ 33 < State.reset.member.regions ∧ State.reset.regionOn (0x3FFFFFFFFFF : BitVec 42).toNat = true ∧
      ({ State.reset with regions := [(511, .off)] } : State).regionOn (0x3FFFFFFFFFF : BitVec 42).toNat = false) ∧
    ((31 : Fin 32).val < 2 * State.reset.member.halfDies ∧ State.reset.stackPart 31 = none ∧ (onPart activePart).stackPart 0 = some 0) ∧
    (({ State.reset with regions := [(511, .zeroing)] } : State).region 511 = .zeroing ∧ State.reset.region 511 ≠ .zeroing) ∧
    (((onPart (savingPart oneManifest)).part 0).attempting = true ∧ ((onPart (savingPart oneManifest)).part 0).carrySaving = true ∧
      ((onPart (savingPart oneManifest)).part 0).latch.fixed = some true ∧ ((onPart (savingPart oneManifest)).part 0).judged = true ∧
      ((onPart (savingPart oneManifest)).part 0).beatInStep + 1 = ((onPart (savingPart oneManifest)).part 0).s) := by decide +kernel

theorem witness_RetiringAnIssueInstruction : (0 : Nat) < 32 ∧ (31 : Nat) < 32 := by decide
/-- The scratchpad with a WCLOSE of window 0 at address 0 (OP 4 in CTRL, the rest zero). -/
def wcloseSpad : Store := { cells := [(3, 0x40)] }
/-- A running sequencer whose x1 is the address given. -/
def seqTile (a : U32) : Tile := { diagTile with seq := { run := .running, regs := (Vector.replicate 31 0).set 0 a }, spad := wcloseSpad }
/-- A slot of an engine queue that holds the descriptor given. -/
def slot0 (d : Bytes) : Slot := { num := 0, desc := d, ticket := 1, pc := 0, binding := .unscheduled }
/-- A queue with all 8 slots taken. -/
def fullQ : EngQ := { slots := (List.finRange 8).map fun i => { slot0 [] with num := i } }
/-- A queue with one slot. -/
def q1 (x : Slot) : EngQ := { slots := [x] }
/-- The descriptor a ZQ.ENQ of x1 copies. -/
def enqDesc (s : State) : Bytes := s.spadRead t0 (((s.tile t0).seq.x 1).toNat - 0x10000000) 64
theorem witness_IssueInstructionsRunOrStall :
    (State.reset.hasTile t0 = true ∧ (onTile (seqTile 0x10000020)).seqReady t0 = true) ∧
    ((((onTile (seqTile 0x10000020)).tile t0).seq.x 1).toNat % 64 ≠ 0 ∧ inSeqSpad (((onTile (seqTile 0x10400000)).tile t0).seq.x 1).toNat 64 = false) ∧
    (let s := onTile (seqTile 0x10000000); ((s.tile t0).seq.x 1).toNat % 64 = 0 ∧ inSeqSpad ((s.tile t0).seq.x 1).toNat 64 = true ∧
      s.descOk t0 .mxe (enqDesc s) = false ∧ s.descOk t0 .dma (enqDesc s) = true ∧ ((s.tile t0).q .dma).freeSlot = some 0) ∧
    (((onTile { seqTile 0x10000000 with dma := fullQ }).tile t0).q .dma).freeSlot = none ∧
    (0 ≤ ((((onTile (seqTile 0)).tile t0).q .dma).done - ((onTile (seqTile 0)).tile t0).seq.x 1).toInt ∧
      ((((onTile (seqTile 1)).tile t0).q .dma).done - ((onTile (seqTile 1)).tile t0).seq.x 1).toInt < 0) ∧
    ((onTile { seqTile 0 with bwaited := true }).seqReady t0 = true ∧ ((onTile { seqTile 0 with bwaited := true }).tile t0).bwaited = true) ∧
    (((onTile (seqTile 0)).tile t0).bwaited = false ∧ (onTile (seqTile 0)).beatDone t0 = true ∧
      (onTile { seqTile 0 with dma := q1 { slot0 [] with binding := .bound } }).beatDone t0 = false) := by decide +kernel
/-- A tile stalled as given. -/
def stalledTile (w : SeqWait) : Tile := { diagTile with seq := { run := .stalled w } }
theorem witness_StalledIssueInstructionsRetire :
    ((onTile (stalledTile .bwait)).hasTile t0 = true ∧ (onTile (stalledTile .bwait)).tileLive t0 = true) ∧
    (0 ≤ ((((onTile (stalledTile (.wait .vxe 0))).tile t0).q .vxe).done - 0).toInt ∧
      ((((onTile (stalledTile (.wait .vxe 1))).tile t0).q .vxe).done - 1).toInt < 0) ∧
    (((onTile (stalledTile .bwait)).tile t0).bwaited = false ∧ (onTile (stalledTile .bwait)).beatDone t0 = true) ∧
    (let s := onBoth activePart { stalledTile .bsync with bsyncGo := true };
      s.tileLive t0 = true ∧ (s.tile t0).seq.run = .stalled .bsync ∧ (s.tile t0).bsyncGo = true ∧ (s.tile t0).overrun = false ∧ s.partOf t0 = some 0 ∧
        s.beatDone t0 = true ∧ (s.tile t0).bwaited = false) := by decide +kernel
/-- IMEM that holds the word 0x00510093, ADDI x1, x2, 5 (0x13 in [6:0], rd 1, f3 0, rs1 2, immediate 5). -/
def addiTile : Tile := { diagTile with imem := { cells := [(0, 0x93), (2, 0x51)] } }
/-- IMEM that holds the halfword 0x0505, C.ADDI x10, 1. -/
def caddiTile : Tile := { diagTile with imem := { cells := [(0, 0x05), (1, 0x05)] } }
theorem witness_SequencerRunsTheFetchedInstruction :
    ((onTile addiTile).hasTile t0 = true ∧ (onTile addiTile).seqReady t0 = true) ∧
    (inImem (((onTile addiTile).tile t0).seq.pc.toNat) 4 = true ∧ leNat ((onTile addiTile).imemRead t0 0 2) % 4 = 3 ∧
      leNat ((onTile addiTile).imemRead t0 0 4) = 0x00510093) ∧
    (leNat ((onTile caddiTile).imemRead t0 0 2) = 0x0505 ∧ 0x0505 % 4 ≠ 3 ∧ expandC 0x0505 = some 0x00150513) ∧
    (leNat ((onTile diagTile).imemRead t0 0 2) = 0 ∧ expandC 0 = none) ∧
    inImem (0x20000 : U32).toNat 2 = false := by decide +kernel
/-- The instruction 0x00510093 writes x2 + 5 into x1 and moves the pc by 4. -/
theorem test_addi :
    (match exec (.seqInstruction t0 .clean) (onTile { addiTile with seq := { run := .running, regs := (Vector.replicate 31 0).set 1 0xFFFFFFFE } }) with
      | .next s => some ((s.tile t0).seq.x 1, (s.tile t0).seq.pc)
      | _ => none) = some (3, 4) := by decide +kernel
theorem witness_SequencerInstructionResults :
    (bitsOf 0x003100B3 6 0 = 0x33 ∧ bitsOf 0x003100B3 14 12 = 0 ∧ bitsOf 0x003100B3 31 25 = 0) ∧
    (bitsOf 0x403100B3 6 0 = 0x33 ∧ bitsOf 0x403100B3 14 12 = 0 ∧ bitsOf 0x403100B3 31 25 = 0x20) ∧
    (bitsOf 0x023100B3 6 0 = 0x33 ∧ bitsOf 0x023100B3 14 12 = 0 ∧ bitsOf 0x023100B3 31 25 = 1) ∧
    (bitsOf 0x023150B3 6 0 = 0x33 ∧ bitsOf 0x023150B3 14 12 = 5 ∧ bitsOf 0x023150B3 31 25 = 1) ∧
    (bitsOf 0x00510093 6 0 = 0x13 ∧ bitsOf 0x00510093 14 12 = 0) ∧ bitsOf 0xFFFFF0B7 6 0 = 0x37 ∧ bitsOf 0x0000006F 6 0 = 0x6F ∧
    (bitsOf 0x00000063 6 0 = 0x63 ∧ bitsOf 0x00000063 14 12 = 0) := by decide

/-- A descriptor of an FP16-class pass of one row and one lane (OP 1, formats FP16), SXA and SXW 127: products are scaled by 2^254. -/
def passDesc : Bytes :=
  leBytes 4 0x11100000 ++ [0, 0, 1, 1] ++ leBytes 2 1 ++ [127, 127] ++ leBytes 4 0 ++ leBytes 4 0 ++ leBytes 4 0 ++ leBytes 4 0x1000 ++ leBytes 4 0 ++
    leBytes 4 0x2000 ++ List.replicate 28 0
/-- Both operands of the pass hold 0x3F80 (1.875) in element 0. -/
def oneSpad : Store := { cells := [(0, 0x80), (1, 0x3F), (0x1000, 0x80), (0x1001, 0x3F)] }
/-- A tile whose MXE queue holds the pass, and whose scratchpad is the one given. -/
def passTile (sp : Store) (started finished : Bool) : Tile :=
  { diagTile with mxe := q1 { slot0 passDesc with started := started, finished := finished }, spad := sp }
/-- The lanes of the attempt at the head of the MXE queue. -/
def headLanes (s : State) : List Lane :=
  ((passArgs passDesc).lanes (fun a => (s.tile t0).byte s.member (tileKey t0) (s.stepAt t0) a) (s.drawAt t0) 0 (s.tile t0).pass.r false).flatten
theorem witness_TensorPassesStartRunAndComplete :
    (State.reset.hasTile t0 = true ∧ (onTile (passTile {} false false)).headOf t0 .mxe = some { slot0 passDesc with started := false } ∧
     (onTile (passTile {} false false)).mayStart t0 (slot0 passDesc) (depEngOf .mxe passDesc) (depTicketOf .mxe passDesc) = true) ∧
    ((onTile (passTile {} true false)).headOf t0 .mxe = some { slot0 passDesc with started := true } ∧ (onTile (passTile {} true false)).tileLive t0 = true ∧
     ((onTile (passTile {} true false)).tile t0).pass.flush = none ∧
     ((onTile { passTile {} true false with pass := { flush := some [] } }).tile t0).pass.flush = some []) ∧
    (((onTile (passTile {} true false)).readCheck t0 1 (passArgs passDesc).reads).waits = false ∧
     ((onTile (passTile {} true false)).readCheck t0 1 (passArgs passDesc).reads).block = none ∧
     ((onTile (passTile {} true false)).readCheck t0 1 (passArgs passDesc).reads).off = none ∧
     (passArgs passDesc).acc = 0 ∧ (passArgs passDesc).rnr = false ∧ ((onTile (passTile {} true false)).tile t0).pass.final = false) ∧
    ((∃ l ∈ headLanes (onTile (passTile oneSpad true false)), l.ovf = true) ∧ ((onTile (passTile oneSpad true false)).tile t0).pass.r < 3) ∧
    (∀ l ∈ headLanes (onTile (passTile {} true false)), l.ovf = false) ∧
    (onTile (passTile {} true true)).headOf t0 .mxe = some { slot0 passDesc with started := true, finished := true } := by decide +kernel
/-- A facet fold of one FP32 element (OP 5, LEN 1). -/
def facetDesc : Bytes := leBytes 4 0x50000000 ++ leBytes 4 0 ++ leBytes 4 1 ++ List.replicate 52 0
/-- A tile whose VXE queue holds the facet fold. -/
def vxeTile (started finished : Bool) : Tile := { diagTile with vxe := q1 { slot0 facetDesc with started := started, finished := finished } }
theorem witness_VectorDescriptorsRunAndComplete :
    (State.reset.hasTile t0 = true ∧ (onTile (vxeTile false false)).headOf t0 .vxe = some (slot0 facetDesc)) ∧
    (ctrlBits facetDesc 31 28 ≠ 2 ∧ ctrlBits facetDesc 31 28 = 5 ∧ (slot0 facetDesc).finished = false ∧ (slot0 facetDesc).started = false ∧
     (onTile (vxeTile false false)).mayStart t0 (slot0 facetDesc) (depEngOf .vxe facetDesc) (depTicketOf .vxe facetDesc) = true) ∧
    ((onTile (vxeTile true false)).headOf t0 .vxe = some { slot0 facetDesc with started := true } ∧ (onTile (vxeTile true false)).tileLive t0 = true ∧
     ((onTile { vxeTile true false with vout := some [] }).tile t0).vout = some []) ∧
    (let s := onTile (vxeTile false false)
     let g := vxeArgs facetDesc
     let h := parseHeader (s.spadRead t0 g.a 64)
     g.op = 5 ∧ g.ska = 0 ∧ g.badSource s.member h = none ∧ (s.readCheck t0 2 (g.reads h)).waits = false ∧ (s.readCheck t0 2 (g.reads h)).block = none ∧
       (s.readCheck t0 2 (g.reads h)).off = none) ∧
    (onTile (vxeTile true true)).headOf t0 .vxe = some { slot0 facetDesc with started := true, finished := true } := by decide +kernel
/-- A copy of 64 bytes from scratchpad 0 to scratchpad 0x1000 (OP 1). -/
def copyDesc : Bytes := leBytes 4 0x10000000 ++ leBytes 4 0 ++ leBytes 8 0 ++ leBytes 8 0x1000 ++ leBytes 4 0 ++ leBytes 4 64 ++ List.replicate 32 0
def wopenDesc : Bytes := leBytes 4 0x30000000 ++ List.replicate 60 0
def wcloseDesc : Bytes := leBytes 4 0x40000000 ++ List.replicate 60 0
/-- Partition 0 with a tile whose DMA queue holds one slot. -/
def dmaState (x : Slot) : State := onBoth activePart { diagTile with dma := q1 x }
theorem witness_DmaDescriptorsMoveTheirBytes :
    (let s := dmaState (slot0 copyDesc)
     s.hasTile t0 = true ∧ s.partOf t0 = some 0 ∧ (s.tile t0).dma.slots = [slot0 copyDesc] ∧
     s.mayStart t0 (slot0 copyDesc) (depEngOf .dma copyDesc) (depTicketOf .dma copyDesc) = true ∧ ctrlBits copyDesc 31 28 = 1) ∧
    (let s := dmaState (slot0 copyDesc)
     let g := dmaArgs copyDesc
     let rc := s.readCheck t0 3 [(g.src + 0, 64)]
     let v := (s.tile t0).modSlot .dma 0 fun y => { y with reads := (y.reads ++ rc.slots).eraseDups }
     let w := v.writeRun s.member (s.stepAt t0) 3 (g.dst + 0) ((List.range 64).map fun i => (s.tile t0).byte s.member (tileKey t0) (s.stepAt t0) (g.src + 0 + i))
     s.slotOf t0 .dma 0 = some (slot0 copyDesc) ∧ g.op = 1 ∧ g.ssp = 0 ∧ g.dsp = 0 ∧ (slot0 copyDesc).pos < g.total ∧
     (s.tile t0).tagFree .dma (slot0 copyDesc) = true ∧ rangesMeet g.src g.len g.dst g.len = false ∧ g.piece 0 = 64 ∧
     rc.waits = false ∧ rc.block = none ∧ rc.off = none ∧ v.clearing s.member (s.stepAt t0) (g.dst + 0) 64 = false ∧
     w.block = none ∧ w.refused = none) ∧
    (dmaState (slot0 wopenDesc)).dmaNext t0 3 = some (slot0 wopenDesc) ∧ (dmaState (slot0 wcloseDesc)).dmaNext t0 4 = some (slot0 wcloseDesc) ∧
    (let x : Slot := { slot0 copyDesc with started := true, finished := true }
     (dmaState x).headOf t0 .dma = some x ∧ ((dmaState x).tile t0).dmaDone x = true) := by decide +kernel
/-- A message descriptor of the operation given on channel 7; one payload word. -/
def msgDesc (op : Nat) : Bytes :=
  leBytes 4 (op * 2 ^ 28) ++ leBytes 4 7 ++ List.replicate 13 0 ++ [if op = 3 then 1 else 0] ++ List.replicate 42 0
/-- Partition 0 with a message unit that holds one slot, and channel 7 as given. -/
def msgState (x : Slot) (e : Chan) : State := (onBoth activePart { diagTile with msg := q1 x }).modChan 7 fun _ => e
theorem witness_MessageUnitActsOnItsDescriptors :
    ((msgState (slot0 (msgDesc 1)) {}).hasTile t0 = true ∧ (msgState (slot0 (msgDesc 1)) {}).partOf t0 = some 0) ∧
    (∀ op ∈ [1, 2, 3, 4, 5], (slot0 (msgDesc op)).f 4 4 = 7 ∧ (msgState (slot0 (msgDesc op)) {}).msgNext t0 op = some (slot0 (msgDesc op))) ∧
    ((msgState (slot0 (msgDesc 1)) {}).chan 7).state = chFree ∧ ((msgState (slot0 (msgDesc 3)) { state := chClosed }).chan 7).state = chClosed ∧
    (let s := msgState (slot0 (msgDesc 3)) { role := 1, state := chOpen }
     (s.chan 7).role = 1 ∧ (s.chan 7).state = chOpen ∧ ((s.tile t0).sending.filter fun y => y.f 4 4 = 7).length < 8 ∧ (s.tile t0).sending.length < 16) ∧
    (let x : Slot := { slot0 (msgDesc 3) with started := true }
     let e : Chan := { role := 1, state := chOpen, ringLog2 := 9, bytes := 496 }
     let s := msgState x e
     ((s.tile t0).sending.find? fun y => y.allot.isNone && y.f 4 4 = 7) = some x ∧ s.tileLive t0 = true ∧ s.chan 7 = e ∧
     (e.need e.bytes (x.f 21 1) : Int) ≤ e.credit ∧ (s.tile t0).tagFree .msg x = true) ∧
    (let s := msgState (slot0 (msgDesc 4)) { role := 2, state := chOpen, flags := 1 }
     (s.chan 7).role = 2 ∧ (s.chan 7).state = chOpen ∧ (s.chan 7).job = false) ∧
    (let x : Slot := { slot0 (msgDesc 5) with started := true, finished := true }
     (msgState x {}).headOf t0 .msg = some x ∧ ((msgState x {}).tile t0).msgDone x = true) := by decide +kernel

/-- A stall of a write into ring 0 that began in beat 0. -/
def ringStall : Stall := { write := true, ring := 0, slotAddr := 0x1000, began := 0 }
/-- A WRITE of 8 bytes to window 0 from a tile of the same module. -/
def wrPkt : Packet :=
  { type := 1, vc := 0, dl := false, mcast := false, refwd := false, fence := false, ue := false, len := 8, gen := 0, dst := 3, src := 3, dphys := 0,
    dstu := 0, srcu := 0, part := 0, addr := 0, step := 0, tag := 0x6000, payload := [1, 2, 3, 4, 5, 6, 7, 8] }
/-- A held write into ring 0. -/
def heldW : HeldWrite := { pkt := wrPkt, ring := 0, addr := 0x1000, began := 0 }
/-- Ring 0 at 0x1000: one slot of one word, produced by the DMA engine (endpoint 3), consumed by the MXE; `p` slots produced. -/
def ringTile (p : U32) : Tile :=
  { diagTile with ingress := [heldW]
                  rings := (Vector.replicate 16 {}).set 0 { base := 0x1000, slotWords := 1, slots := 1, prodEp := 3, consEp := 1, tmo := 1, enabled := true, p := p } }
theorem witness_RingStallsAndHeldWritesEnd :
    (let x : Slot := { slot0 copyDesc with started := true, stall := some ringStall }
     let s := dmaState x
     s.hasTile t0 = true ∧ s.partOf t0 = some 0 ∧ (s.tile t0).stalled[0]? = some (.desc .dma x ringStall)) ∧
    (onBoth activePart (ringTile 1)).partOf t0 = some 0 ∧ (((onBoth activePart (ringTile 1)).tile t0).stalled[0]? = some (.write heldW)) ∧
    (let s := onBoth activePart (ringTile 0)
     let w := (s.tile t0).writeRun s.member (s.stepAt t0) 3 heldW.addr.toNat heldW.pkt.payload
     (s.tile t0).ingress[0]? = some heldW ∧ w.block = none ∧ w.refused = none) ∧
    (let s := onBoth activePart (ringTile 1)
     let w := (s.tile t0).writeRun s.member (s.stepAt t0) 3 heldW.addr.toNat heldW.pkt.payload
     w.block = some (0, 0x1000) ∧ w.count = 0) := by decide +kernel
/-- A tile whose bank 31 is in the state given. -/
def bankTile (b : BankPower) : Tile := { diagTile with banks := (Vector.replicate 32 .on).set 31 b }
theorem witness_BankPowerEvents :
    (State.reset.hasTile t0 = true ∧ ((onTile (bankTile (.draining 0))).tile t0).banks[(31 : BankId)] = .draining 0 ∧
      ((onTile (bankTile (.draining 0))).tile t0).writesOf .zh8 31 = []) ∧
    (let s := onBoth activePart (bankTile (.draining 0))
     (s.tile t0).banks[(31 : BankId)] = .draining 0 ∧ s.partOf t0 = some 0 ∧ ((s.reachJob 0 2000).tile t0).writesOf s.member 31 = []) ∧
    ((onTile (bankTile .clearing)).tile t0).banks[(31 : BankId)] = .clearing ∧ ((onTile (bankTile .on)).tile t0).banks[(31 : BankId)] = .on ∧
    ((onTile (bankTile .off)).tile t0).banks[(31 : BankId)] = .off := by decide +kernel
/-- A tile whose steering unit 7 has kind 1 and takes its tokens from port 0, queue 0, where one token with count 0 waits. -/
def steerTile : Tile :=
  { diagTile with steer := (Vector.replicate 8 {}).set 7 { kind := 1 }, router := { queues := [(0, [0])] } }
theorem witness_StreamSlotsAndTokens :
    (let s := onBoth activePart diagTile
     s.hasTile t0 = true ∧ s.partOf t0 = some 0 ∧ (s.tile t0).ward.rfence = false) ∧
    (let s := onBoth {} diagTile
     s.streamLive t0 = false) ∧
    (let s := onTile steerTile
     (s.tile t0).ward.rfence = false ∧ ((s.tile t0).steer[(7 : Fin 8)]).kind ≠ 0 ∧ ((s.tile t0).steer[(7 : Fin 8)]).held = none ∧
     (s.tile t0).steerQueue ((s.tile t0).steer[(7 : Fin 8)]).tok = [0] ∧ bitsOf ((0 : Flit).toNat % 2 ^ 32) 23 8 = 0) := by decide +kernel
/-- A waiting request that goes to the DRAM of its partition. -/
def waiting (fence : Bool) : Waiting := { pkt := { wrPkt with dst := 6, fence := fence }, order := 0, ticket := none, stamp := 1 }
/-- A request outstanding to the same place, injected before. -/
def outst : Outstanding := { pkt := { wrPkt with dst := 6 }, deadline := 0, injected := 0, order := 0, ticket := none }
theorem witness_RequestsAreInjectedHeldAndReleased :
    (let w := waiting true
     let s := onBoth activePart { diagTile with inject := [w], outstanding := [outst] }
     s.hasTile t0 = true ∧ s.partOf t0 = some 0 ∧ ((s.tile t0).inject.find? fun w => s.mayInject t0 0 w) = some w ∧ w.pkt.fence = true ∧
     ((s.setTile t0 { s.tile t0 with inject := (s.tile t0).inject.erase w }).tile t0).fenced w = true) ∧
    (let w := waiting false
     let s := onBoth activePart { diagTile with inject := [w] }
     ((s.tile t0).inject.find? fun w => s.mayInject t0 0 w) = some w ∧ w.pkt.fence = false ∧ s.reachable 0 w.pkt = true ∧
     s.dphysOf 0 t0 w.pkt = some 0 ∧ (s.part 0).paired = false ∧ (s.tile t0).ward.twin = false ∧ w.pkt.vc ≠ 1) ∧
    (let w := waiting true
     let s := onBoth activePart { diagTile with held := [w] }
     (s.tile t0).held[0]? = some w ∧ (s.tile t0).fenced w = false ∧ s.mayInject t0 0 w = true) ∧
    (let s := onBoth activePart { diagTile with outstanding := [outst] }
     ((s.tile t0).outstanding.find? fun o => o.pkt.tag = 0x6000) = some outst) ∧
    (let s := { onPart activePart with ioQueue := [(.pintle, { wrPkt with dst := 6 })] }
     (∀ t, InjectAt.pintle ≠ .tile t) ∧ (s.ioQueue.find? fun x => x.1 = .pintle) = some (.pintle, { wrPkt with dst := 6 }) ∧
     s.ioTarget (srcEast .pintle) { wrPkt with dst := 6 } = some (0, 0)) := by
  refine ⟨?_, ?_, ?_, ?_, ?_, ?_, ?_⟩ <;> try decide +kernel
  intro t h; cases h
/-- A packet at the router of tile (0, 0) that goes to the physical tile given. -/
def netPkt (q : Packet) : NetPkt := { pkt := q, loc := .router t0 4 }
theorem witness_PacketsMoveOneHop :
    (let s : State := { State.reset with net := [netPkt { wrPkt with type := 9 }] }
     s.net[0]? = some (netPkt { wrPkt with type := 9 }) ∧ (s.tile t0).ward.rfence = false ∧ knownType 9 = false) ∧
    (let k := netPkt { wrPkt with dphys := 0x0100 }
     let s : State := { State.reset with net := [k] }
     let best := bestOutput (fun o => s.hopCredit o.2 (facing o.1) (s.seamHop t0 o.2) k.pkt) ((s.outputs t0 4 k.pkt).filter fun o => !s.routerFenced o.2)
     knownType k.pkt.type.toNat = true ∧ k.pkt.mcast = false ∧ s.goal k.pkt ≠ ((t0.px).toNat, (t0.py).toNat) ∧ best = some (1, t1) ∧
     pktFlits k.pkt ≤ s.hopCredit t1 (facing 1) (s.seamHop t0 t1) k.pkt) ∧
    (let k := netPkt { wrPkt with dphys := 0x0100 }
     let s : State := { State.reset with net := k :: List.replicate 8 { k with loc := .router t1 3 } }
     bestOutput (fun o => s.hopCredit o.2 (facing o.1) (s.seamHop t0 o.2) k.pkt) ((s.outputs t0 4 k.pkt).filter fun o => !s.routerFenced o.2) = some (1, t1) ∧
     s.hopCredit t1 (facing 1) (s.seamHop t0 t1) k.pkt < pktFlits k.pkt) ∧
    (let k := netPkt { wrPkt with dphys := 0x0100 }
     let s : State := { (State.reset.setTile t1 { ward := { rfence := true } }) with net := [k] }
     bestOutput (fun o => s.hopCredit o.2 (facing o.1) (s.seamHop t0 o.2) k.pkt) ((s.outputs t0 4 k.pkt).filter fun o => !s.routerFenced o.2) = none) ∧
    (let s : State := { State.reset with net := [netPkt wrPkt] }
     s.goal wrPkt = ((t0.px).toNat, (t0.py).toNat) ∧ bitAt wrPkt.dphys.toNat 15 = false) ∧
    (let k := netPkt { wrPkt with mcast := true, dst := 0x00010000 }
     let s : State := { (State.reset.setTile t1 { ward := { rfence := true } }) with net := [k] }
     s.net[0]? = some k ∧ k.pkt.mcast = true ∧ ∃ o ∈ s.mcastOutputs t0 4 k, s.mcastReady t0 k o = false) ∧
    (2 ≤ ({ wrPkt with vc := 2 } : Packet).vc.toNat ∧ (State.reset.tile (twinOf t0)).ward.twin = false ∧ twinOf t0 ≠ t0) := by decide +kernel
/-- Tile (0, 0) of partition 0 with one packet arrived. -/
def arrived (q : Packet) : State := onBoth activePart { diagTile with arrivals := [q] }
/-- The same tile with window 0 over all of the DRAM partition, open for reads. -/
def windowed (w : Window) (q : Packet) : State := onBoth activePart { diagTile with arrivals := [q], windows := (Vector.replicate 16 {}).set 0 w }
theorem witness_WindowsAndStacksAnswerRequests :
    (let q := { wrPkt with dst := 6 }
     let s := arrived q
     s.hasTile t0 = true ∧ q ∈ (s.tile t0).arrivals ∧ s.genStale (.tile t0) q = false ∧ q.type = 1 ∧ isDramReq q = true ∧ pktPart q = some 0 ∧
     s.rangeOn 0 q.addr.toNat q.payload.length = true ∧ ({ s with regions := [(0, .off)] } : State).rangeOn 0 q.addr.toNat q.payload.length = false) ∧
    (let q := { wrPkt with dst := 6, type := 2, payload := [] }
     let s := arrived q
     q ∈ (s.tile t0).arrivals ∧ s.genStale (.tile t0) q = false ∧ q.type = 2 ∧ isDramReq q = true ∧ pktPart q = some 0 ∧
     s.rangeOn 0 q.addr.toNat q.len.toNat = true ∧ s.retiredEcc 0 q.addr.toNat q.len.toNat .clean = .clean ∧
     ({ s with regions := [(0, .off)] } : State).rangeOn 0 q.addr.toNat q.len.toNat = false) ∧
    (let s := arrived wrPkt
     wrPkt ∈ (s.tile t0).arrivals ∧ s.genStale (.tile t0) wrPkt = false ∧ isDramReq wrPkt = false ∧ s.writeWaits t0 wrPkt = false ∧
     ((s.tile t0).window (bitsOf wrPkt.addr.toNat 63 60)).isOpen = false) ∧
    (let q := { wrPkt with type := 2, payload := [] }
     let w : Window := { isOpen := true, kind := 1, flags := 2, size64 := 1 }
     let s := windowed w q
     q ∈ (s.tile t0).arrivals ∧ s.genStale (.tile t0) q = false ∧ (s.tile t0).window (bitsOf q.addr.toNat 63 60) = w ∧ isDramReq q = false ∧ q.type = 2 ∧
     w.kind = 1 ∧ w.check q false q.len.toNat = (none, 0) ∧ s.partOf t0 = some 0 ∧ s.rangeOn 0 0 q.len.toNat = true ∧
     s.retiredEcc 0 0 q.len.toNat .clean = .clean) ∧
    (let q := { wrPkt with type := 2, payload := [], addr := 57 }
     let w : Window := { isOpen := true, kind := 1, flags := 2, size64 := 1 }
     64 * w.size64.toNat < q.addr.toNat % 2 ^ 60 + q.len.toNat ∧ isDramReq q = false) := by decide +kernel
/-- A MSG packet to channel 7 of one record of one word, sequence 0 at position 0; and a control packet of the operation given. -/
def msgPkt : Packet := { wrPkt with type := 3, addr := 7, dst := 4, len := 24, payload := recordHeader 0 1 1 ++ leBytes 8 0 ++ leBytes 8 9 }
def ctlPkt (op : Byte) : Packet := { wrPkt with type := 4, addr := 7, dst := 4, len := 16, payload := [op] ++ List.replicate 15 0 }
/-- The tile with a packet arrived and channel 7 as given. -/
def chanState (q : Packet) (e : Chan) : State := (onTile { diagTile with arrivals := [q] }).modChan 7 fun _ => e
theorem witness_MessagesAndControlPacketsReachAnEnd :
    (let s := chanState msgPkt {}
     s.hasTile t0 = true ∧ msgPkt ∈ (s.tile t0).arrivals ∧ s.genStale (.tile t0) msgPkt = false ∧ msgPkt.addr.toNat % 2 ^ 20 = 7 ∧ (s.chan 7).role ≠ 2) ∧
    (let e : Chan := { role := 2, state := chOpen, flags := 1, peer := 3, ringLog2 := 9 }
     let s := (arrived msgPkt).modChan 7 fun _ => e
     let u := s.setTile t0 { s.tile t0 with arrivals := (s.tile t0).arrivals.erase msgPkt }
     msgPkt ∈ (s.tile t0).arrivals ∧ s.genStale (.tile t0) msgPkt = false ∧ msgPkt.type = 3 ∧ s.chan 7 = e ∧ e.epoch.toNat = msgPkt.addr.toNat / 2 ^ 48 ∧ msgPkt.src = e.peer ∧
     BitVec.ofNat 32 (fieldAt msgPkt.payload 4 4) = e.msgs ∧ BitVec.ofNat 32 (fieldAt msgPkt.payload 8 4) = (0 : U32) ∧ e.sizes = [] ∧
     (e.need 0 (bitsOf (fieldAt msgPkt.payload 0 4) 7 4) : Int) ≤ (e.released + BitVec.ofNat 32 e.ring - 0).toInt ∧
     (u.placeRecord (.tile t0) (u.partOf t0) e 0 msgPkt).2 = stOk) ∧
    (∀ op ∈ [1, 2, 3, 4], ctlPkt op ∈ ((chanState (ctlPkt op) {}).tile t0).arrivals ∧ (chanState (ctlPkt op) {}).genStale (.tile t0) (ctlPkt op) = false ∧
      isCtl (ctlPkt op) op = true) ∧
    (let e : Chan := { role := 2, state := chListen, peer := 3 }
     let s := chanState (ctlPkt 1) e
     (s.chan 7).role = 2 ∧ (s.chan 7).state = chListen ∧ (s.chan 7).peer = (ctlPkt 1).src ∧ s.partOf t0 = none) ∧
    ((chanState (ctlPkt 1) {}).chan 7).state ≠ chListen ∧
    (let s := chanState (ctlPkt 2) { role := 1, state := chOpening, peer := 3 }
     (s.chan 7).role = 1 ∧ (s.chan 7).state = chOpening ∧ (s.chan 7).peer = (ctlPkt 2).src ∧ (s.tile t0).msg.slots = []) ∧
    (let s := chanState (ctlPkt 3) { role := 1, state := chOpen, flags := 1 }
     (s.chan 7).role = 1 ∧ (s.chan 7).state = chOpen ∧ (s.chan 7).job = false ∧ (s.chan 7).epoch.toNat = fieldAt (ctlPkt 3).payload 2 2 ∧
     0 ≤ ((s.chan 7).bytes - BitVec.ofNat 32 (fieldAt (ctlPkt 3).payload 8 4)).toInt) ∧
    (let s := chanState (ctlPkt 4) { role := 2, state := chOpen, peer := 3 }
     (s.chan 7).role = 2 ∧ (s.chan 7).state = chOpen ∧ (s.chan 7).peer = (ctlPkt 4).src) := by decide +kernel
theorem witness_ManagementRequestsAndNotices :
    (∀ q ∈ [{ wrPkt with type := 5, dst := 0, addr := 0x1FFFF }, { wrPkt with type := 5, dst := 6, payload := leBytes 4 0x30000000 },
        { wrPkt with type := 6, dst := 0, payload := [] }, { wrPkt with type := 7, addr := 0x0000000000000001 }],
      q ∈ ((arrived q).tile t0).arrivals ∧ (arrived q).genStale (.tile t0) q = false) ∧
    ((0x1FFFF : U64).toNat < 0x20000 ∧ bitAt (fieldAt (leBytes 4 0x30000000) 0 4) 30 = false ∧ bitAt (fieldAt (leBytes 4 0x30000000) 0 4) 31 = false) ∧
    (let s := onTile { diagTile with load := { armed := true, status := 0x40000000, frags := 2 } }
     (s.tile t0).load.loading = true ∧ (s.tile t0).ward.tfence = false ∧ 1 < (s.tile t0).load.frags.toNat ∧ 1 ∉ (s.tile t0).load.got ∧
     (1 : U64).toNat / 2 ^ 48 = (s.tile t0).load.image.toNat) ∧
    (let s := onTile { ward := { queue := [{}] } }
     s.hasTile t0 = true ∧ (s.tile t0).ward.queue = [{}] ∧ s.inbox.length < 4096 ∧
     4096 ≤ ({ s with inbox := List.replicate 4096 {} } : State).inbox.length) ∧
    (let k : NetPkt := { pkt := { wrPkt with type := 0x84, tag := 0 }, loc := .ioDie false 0 }
     let s : State := { State.reset with net := [k] }
     s.net = [k] ∧ k.pkt.type = 0x84 ∧ k.pkt.tag.toNat = tileKey t0) ∧ State.reset.net = [] := by decide +kernel
/-- A reply to the request outstanding, and one that answers nothing. -/
def cmplPkt (type : Byte) (tag : U16) (st : U64) : Packet := { wrPkt with type := type, tag := tag, addr := st, vc := 2 }
theorem witness_RepliesEndTheirRequests :
    (let q := cmplPkt 0x81 0x6000 0
     let s := onBoth activePart { diagTile with arrivals := [q], outstanding := [outst] }
     s.hasTile t0 = true ∧ q ∈ (s.tile t0).arrivals ∧ s.genStale (.tile t0) q = false ∧ q.type = 0x81 ∧
     ((s.tile t0).outstanding.find? fun o => o.pkt.tag = q.tag) = some outst) ∧
    (let q := cmplPkt 0x81 0x6001 0
     let s := onBoth activePart { diagTile with arrivals := [q], outstanding := [outst] }
     q ∈ (s.tile t0).arrivals ∧ s.genStale (.tile t0) q = false ∧ ∀ o ∈ (s.tile t0).outstanding, o.pkt.tag ≠ q.tag) ∧
    (let q := cmplPkt 0x82 0x6000 1
     let s := onBoth activePart { diagTile with arrivals := [q], outstanding := [outst] }
     q ∈ (s.tile t0).arrivals ∧ s.genStale (.tile t0) q = false ∧ q.type = 0x82 ∧ ((s.tile t0).outstanding.find? fun o => o.pkt.tag = q.tag) = some outst ∧
     s.partOf t0 = some 0 ∧ q.addr.toNat % 2 ^ 16 ≠ stOk) ∧
    (let q := cmplPkt 0x82 0x6000 0
     let s := onBoth activePart { diagTile with arrivals := [q], outstanding := [outst] }
     let u := s.setTile t0 { s.tile t0 with arrivals := (s.tile t0).arrivals.erase q }
     q.addr.toNat % 2 ^ 16 = stOk ∧ (u.dataArrives t0 0 q outst).isSome = true) ∧
    (let q := cmplPkt 0x82 0x6001 0
     let s := onBoth activePart { diagTile with arrivals := [q], outstanding := [outst] }
     ∀ o ∈ (s.tile t0).outstanding, o.pkt.tag ≠ q.tag) := by decide +kernel

/-- Two values of a gather: a clean one that asks for no hold, a broken one that asks for 5 slots. -/
theorem test_gather_combine :
    (({ origin := 7 } : GatherVal).combine { clean := false, hold := 5, cause := 9, origin := 3 }) = { clean := false, hold := 5, cause := 9, origin := 3 } := by
  decide
theorem witness_GatherValuesCombineInAnyOrder :
    [({} : GatherVal), { clean := false }].Perm [{ clean := false }, {}] := by decide
/-- A partition in the attempt of a job of the manifest given, at the end of the last beat before T(K), with the latch given. -/
def jobPart (m : Manifest) (l : Latch) : Part :=
  { judgedPart with job := .running, manifest := some m, attempt := 1, s := 2, latch := l }
/-- The same with port 0 its exit in direction x-minus and its mirror port. -/
def exitPart (m : Manifest) (l : Latch) : Part := { jobPart m l with exits := (Vector.replicate 6 none).set 1 (some 0) }
/-- A job of two modules along x. -/
def pairManifest : Manifest := { oneManifest with nx := 2 }
/-- A latch frame of the job's attempt, and one of another step. -/
def latchFrame (kind : Byte) (step : U48) : LatchFrame :=
  { kind := kind, stage := 0, ttl := 1, clean := true, agreeValid := false, closed := true, hold := 3, cause := 9, origin := 0, step := step, attempt := 1,
    agree := 0, job := 1 }
/-- A state with the partition given, port 0 assigned to it and the control message of the frame arrived on it. -/
def framed (q : Part) (f : LatchFrame) : State :=
  ({ onPart q with ctlIn := [(0, none, 2, latchBytes f)] } : State).modPort 0 fun x => { x with part := some 0, mode := 3 }
theorem witness_TheLatchSamplesFormsAndGathers :
    (let s := onPart (jobPart oneManifest {})
     (s.part 0).attempting = true ∧ (s.part 0).manifest = some oneManifest ∧ (s.part 0).judged = true ∧ (s.part 0).beatInStep + 1 = (s.part 0).k ∧
     (s.part 0).latch.sampled = none) ∧
    (let s := onPart { jobPart oneManifest { sampled := some (true, 0) } with beat := 1 }
     (s.part 0).attempting = true ∧ (s.part 0).latch.sampled = some (true, 0) ∧ (s.part 0).beatInStep = (s.part 0).k ∧ (s.part 0).latch.formed = false) ∧
    (let f := latchFrame 1 7
     let s := framed (exitPart pairManifest {}) f
     (s.port 0).part = some 0 ∧ f.kind = 1 ∧ ((s.takeLatch 0 f).map fun x => (x.1, decide (x.2.part 0 = s.part 0), x.2.exitLink 0 (torusDir f.stage.toNat true))) =
       some ((0, none), true, some (0, none)) ∧ (s.part 0).isShadow = false ∧ (s.part 0).sameAttempt f = false ∧ f.stage.toNat < 3) ∧
    (let f := latchFrame 1 0
     let s := framed (exitPart pairManifest {}) f
     ((s.takeLatch 0 f).map fun x => (x.1, decide (x.2.part 0 = s.part 0), x.2.exitLink 0 (torusDir f.stage.toNat true))) =
       some ((0, none), true, some (0, none)) ∧ (s.part 0).sameAttempt f = true ∧ 1 < pairManifest.ring f.stage.toNat ∧ (s.part 0).latch.formed = false ∧
     (s.part 0).latch.got = []) ∧
    (let s := onPart (jobPart pairManifest { formed := true })
     (s.part 0).attempting = true ∧ (s.part 0).latch.formed = true ∧ (s.part 0).latch.gatherJudged = false ∧ (s.part 0).shadow = none ∧ (s.part 0).latch.stage < 3) ∧
    ((onPart (jobPart pairManifest { formed := true, stage := 3 })).part 0).latch.stage = 3 := by
  and_intros <;> decide +kernel
/-- The reference or shadow side of shadow mode on port 0. -/
def mirrorSide (role : Byte) : Shadow := { role := role, port := 0, target := 4, step := 0, coord := 0 }
theorem witness_BreakHaltAndTheFixedOutcome :
    (let f := latchFrame 2 0
     let s := framed (jobPart pairManifest {}) f
     (s.part 0).attempting = true ∧ (s.port 0).part = some 0 ∧ ((s.takeLatch 0 f).map fun x => decide (x.2.part 0 = s.part 0)) = some true ∧ f.kind = 2 ∧
     (s.part 0).isShadow = false ∧ (s.part 0).sameAttempt f = true ∧ (s.part 0).latch.fixed = none ∧ (s.part 0).latch.forwarded = false ∧
     (s.part 0).sameAttempt (latchFrame 2 7) = false) ∧
    (let f := latchFrame 3 0
     let s := framed (jobPart pairManifest {}) f
     ((s.takeLatch 0 f).map fun x => decide (x.2.part 0 = s.part 0)) = some true ∧ f.kind = 3 ∧ (s.part 0).job = .running ∧ f.job = (s.part 0).jobTag ∧
     (s.part 0).latch.halt = none) ∧
    ((framed (jobPart pairManifest { halt := some (1, 0) }) (latchFrame 3 0)).part 0).latch.halt ≠ none ∧
    (let f := latchFrame 4 0
     let s := framed { jobPart pairManifest { formed := true } with shadow := some (mirrorSide 2) } f
     ((s.takeLatch 0 f).map fun x => decide (x.2.part 0 = s.part 0)) = some true ∧ f.kind = 4 ∧ (s.part 0).mirrorPort 2 = some 0 ∧
     (s.part 0).sameAttempt f = true ∧ (s.part 0).latch.formed = true ∧ (s.part 0).latch.fixed = none) ∧
    (let f := latchFrame 5 0
     let s := framed { jobPart pairManifest { formed := true } with shadow := some (mirrorSide 1) } f
     ((s.takeLatch 0 f).map fun x => decide (x.2.part 0 = s.part 0)) = some true ∧ f.kind = 5 ∧ (s.part 0).mirrorPort 1 = some 0 ∧
     (s.part 0).sameAttempt f = true ∧ (s.part 0).latch.formed = true ∧ (s.part 0).latch.gatherJudged = false ∧ (s.part 0).latch.shadowReport = none ∧
     f.agree = (s.part 0).latch.shadowValue) ∧
    (let s := onPart (jobPart oneManifest { gatherJudged := true, tentative := some true })
     (s.part 0).attempting = true ∧ (s.part 0).manifest = some oneManifest ∧ (s.part 0).shadow = none ∧ (s.part 0).latch.gatherJudged = true ∧
     (s.part 0).latch.fixed = none ∧ (s.part 0).latch.lateClear = none) := by decide +kernel
/-- Port 0 with its native link in the state given. -/
def onPort (q : Port) : State := State.reset.modPort 0 fun _ => q
def onLink (l : Link) : State := onPort { mode := 3, native := l }
/-- A frame of 640 bytes, zero but for its CRC, taken over the frame with the CRC bytes zero (R286). -/
def zeroFrame : Bytes :=
  List.replicate 12 0 ++ leBytes 4 (crc32c (List.replicate 12 0 ++ [0, 0, 0, 0] ++ List.replicate 624 0)) ++ List.replicate 624 0
theorem zeroFrame_length : zeroFrame.length = 640 := by
  simp only [zeroFrame, List.length_append, leBytes_length, List.length_replicate]
theorem zeroFrame_seq : fieldAt zeroFrame 0 2 = 0 := rfl
theorem zeroFrame_crc : frameCrcOk zeroFrame = true := crcFrame _ _ (by simp only [List.length_replicate])
/-- A control message waits on the native link of port 0. -/
def withCtl (s : State) (kind : Byte) (bs : Bytes) : State := { s with ctlIn := [(0, none, kind, padTo 32 bs)] }
def nakMsg : NakMsg := { reason := 3, channel := 15, tag := 0, src := 0, dst := 0, step := 0 }
theorem witness_LinkFramesReplayAndReset :
    (let s := onLink { state := .up }
     s.linkUp 0 none = true ∧ (s.link 0 none).resend = none ∧ (s.link 0 none).rxSeq = 0) ∧
    ((onLink { state := .up }).unwrap 0 none zeroFrame = some zeroFrame ∧ zeroFrame.length = 640 ∧ fieldAt zeroFrame 0 2 = 0) ∧
    (let s := onLink { state := .up, rxSeq := 0xFFFF, resend := some 0xFFFE, replay := [(0xFFFE, 8, [])] }
     s.linkUp 0 none = true ∧ (s.link 0 none).rxSeq.toNat ≠ 0 ∧ (s.link 0 none).resend = some 0xFFFE ∧
     (s.link 0 none).replay = (0xFFFE, 8, []) :: [] ∧ ∃ e ∈ (s.link 0 none).replay, 8 ≤ e.2.1) ∧
    ((withCtl (onLink {}) 3 (leBytes 2 0xFFFF)).takeCtl 0 none 3 (leBytes 2 (0xFFFF : U16).toNat)).isSome = true ∧
    (((withCtl (onLink {}) 9 (creditsBytes (List.replicate 7 (15, 0xFFFF)))).takeCtl 0 none 9 (creditsBytes (List.replicate 7 (15, 0xFFFF)))).isSome = true ∧
      (List.replicate 7 ((15, 0xFFFF) : Byte × U16)).length ≤ 7) ∧
    ((withCtl (onLink {}) 4 (nakBytes nakMsg)).ctlSession 0 4 (nakBytes nakMsg) = some none ∧
      ((withCtl (onLink {}) 4 (nakBytes nakMsg)).takeCtl 0 none 4 (nakBytes nakMsg)).isSome = true) ∧
    ((withCtl (onLink {}) 1 []).ctlIn.find? fun y => y.1 = (0 : PortId) && y.2.2.1 = 1) = some (0, none, 1, padTo 32 []) ∧
    (let s := onLink { state := .up }
     (∃ x ∈ (s.port 0).links, (s.link 0 x).state ≠ .down) ∧ (s.port 0).resetSeen = false) ∧
    (∀ x ∈ ((onLink {}).port 0).links, ((onLink {}).link 0 x).state = .down) := by
  refine ⟨?_, ⟨rfl, zeroFrame_length, zeroFrame_seq⟩, ?_, ?_, ?_, ?_, ?_, ?_, ?_⟩ <;> decide +kernel
def hello : Hello := { gen := 0xFF, port := 0, coord := 0, role := 0, boot := 0, device := 0, job := 0 }
def fragment (kind : Byte) : Bytes := [kind, 0] ++ leBytes 1 (b2n false) ++ [0] ++ padTo 28 [1]
def heartbeat0 : Heartbeat := { tTx := 0, tEcho := 0, tArr := 0, beat := 0 }
theorem witness_AdmissionStagesAndHeartbeats :
    (∀ st ∈ [AdmStage.auth, .hello], (((withCtl (onLink { adm := some { stage := st } }) 7 (helloBytes hello)).takeCtl 0 none 7 (helloBytes hello)).bind
      fun v => (v.link 0 none).adm.map (·.stage)) = some st) ∧
    hello.gen ≠ (State.reset.ownHello 0).gen ∧
    (((withCtl (onLink {}) 7 (helloBytes hello)).takeCtl 0 none 7 (helloBytes hello)).map fun v => ((v.link 0 none).adm, (v.link 0 none).partner)) = some (none, none) ∧
    (((withCtl (onLink {}) 8 (fragment 1)).takeCtl 0 none 8 (fragment 1)).map fun v => (v.link 0 none).adm) = some none ∧
    (((withCtl (onLink { adm := some { stage := .auth } }) 8 (fragment 1)).takeCtl 0 none 8 (fragment 1)).map fun v => (v.link 0 none).adm) = some (some { stage := .auth }) ∧
    (((withCtl (onLink { adm := some { stage := .agree } }) 8 (fragment 2)).takeCtl 0 none 8 (fragment 2)).map fun v => (v.link 0 none).adm) =
      some (some { stage := .agree }) ∧
    ((onLink { adm := some { stage := .sync } }).link 0 none).adm = some { stage := .sync } ∧
    (16 ≤ ((onLink { state := .admitted, protoAt := List.replicate 16 0 }).link 0 none).protoAt.length ∧
      ((onLink { state := .admitted, protoAt := List.replicate 16 0 }).link 0 none).state = .admitted) ∧
    ((onLink { protoAt := List.replicate 15 0 }).link 0 none).protoAt.length < 16 ∧
    (let s := onPort { mode := 3, part := some 0, native := { state := .admitted, missed := 6 } }
     (s.port 0).part = some 0 ∧ (s.link 0 none).state = .admitted ∧ (s.link 0 none).hbBeat = none ∧ (s.link 0 none).missJudged = none ∧ (s.link 0 none).missed < 7) ∧
    (∀ st ∈ [LinkState.silent, .admitted], (let s := withCtl (onPort { part := some 0, native := { state := st } }) 5 (hbBytes heartbeat0)
     (s.port 0).part = some 0 ∧ (s.takeCtl 0 none 5 (hbBytes heartbeat0)).isSome = true ∧ (s.link 0 none).state = st)) := by decide +kernel
/-- Port 0 in mode 3 with every lane in the state given. -/
def lanesIn (l : LaneState) : Port := { mode := 3, lanes := Vector.replicate 9 { state := l } }
theorem witness_LanesTrainSwapAndFail :
    (((onPort (lanesIn .down)).port 0).mode ≠ 0 ∧ ((onPort (lanesIn .down)).port 0).lanes[(8 : LaneId)].state = .down ∧
      ((onPort (lanesIn .up)).port 0).lanes[(8 : LaneId)].state ≠ .down) ∧
    (((onPort (lanesIn .train)).port 0).lanes[(8 : LaneId)].state = .train ∧ (onPort (lanesIn .train)).laneBad 0 8 0 = false) ∧
    (let s := onPort (lanesIn .qualify)
     (∃ l : LaneId, (s.port 0).lanes[l].state = .qualify) ∧ (∀ x ∈ (s.port 0).links, ((s.port 0).link x).state = .down) ∧
     ((s.port 0).qualified fun l => (0x1FF : BitVec 9).getLsbD l.val && (s.port 0).lanes[l].state = .qualify) = some (none, none)) ∧
    (∀ l : LaneId, ((onPort (lanesIn .up)).port 0).lanes[l].bad < 2) ∧
    (((onPort (lanesIn .up)).port 0).lanes[(0 : LaneId)].state = .up ∧ ((onPort (lanesIn .spare)).port 0).lanes[(8 : LaneId)].state = .spare) ∧
    ((withCtl (onLink {}) 6 (laneBytes 7 true 0xFFFF)).takeCtl 0 none 6 (laneBytes 7 true 0xFFFF)).isSome = true ∧
    (let q : Port := { lanesIn .up with lanes := (Vector.replicate 9 { state := .up }).set 8 { state := .spare }, swap := [(7, 0)] }
     let s := onPort q
     (s.port 0).swap = [(7, 0)] ∧ 0 ≤ ((s.port 0).native.txSeq - 0).toInt ∧ (s.port 0).spareReady = true) ∧
    (let s := onPort { lanesIn .up with swap := [(7, 1)] }
     (s.port 0).swap = [(7, 1)] ∧ ((s.port 0).native.txSeq - 1).toInt < 0 ∧ ((s.port 0).native.rxSeq - 1).toInt < 0) := by decide +kernel
/-- The reset state with Pintle serving. -/
def serving : State := { State.reset with boot := { phase := 2 } }
/-- A record of a seam fault in no partition, and one stamped in the attempt of partition 0 that runs. -/
def seamRec : FaultRec := { cls := 0x0A, unit := 1 }
def jobRec : FaultRec := { cls := 0x0A, unit := 1, flags := 2, attempt := 1, stamp := 200000 }
def defect1 : Defect := { kind := 1, source := 4, wher := 0 }
theorem witness_FaultsReachTheLogAndTheDefectLog :
    (let s : State := { serving with inbox := [seamRec] }
     s.pintleUp = true ∧ s.nextRecord.1 = some seamRec) ∧
    (let s : State := { serving.setPart 0 (jobPart oneManifest {}) with inbox := [jobRec] }
     s.pintleUp = true ∧ s.faultHeld = [] ∧ s.inbox = jobRec :: [] ∧ s.slotClosed jobRec = none) ∧
    (serving.faultHeld = [] ∧ serving.inbox = []) ∧ State.reset.faultLog.length < 16384 ∧
    (((onPart { activePart with placing := true }).part 0).placing = true ∧ ∀ r ∈ ((onPart { activePart with placing := true }).part 0).repairs, r.kind ≠ 1) ∧
    (let x : Repair := { tile := t0, hd := 0, row := 0, shift := 0, hold := 1, began := 0, switchBeat := 8 }
     ∃ r ∈ ((onPart { activePart with repairs := [x] }).part 0).repairs, r.kind = 0) ∧
    ((onPart activePart).part 0).repairs = [] ∧
    ((onTile { ward := { test := true } }).hasTile t0 = true ∧ ((onTile { ward := { test := true } }).tile t0).ward.test = true ∧
      (∀ b ∈ ([] : List BistRecord), b.result ≠ 1) ∧ ((onTile {}).tile t0).ward.test = false) ∧
    (let s : State := { State.reset with defectQueue := [defect1] }
     s.defectQueue = defect1 :: [] ∧ s.repairFreeze = false ∧ s.defects.length < 4095 ∧ (s.setPart 0 { activePart with placing := true }).repairFreeze = true) ∧
    (let s : State := { onBoth { judgedPart with hangW := 8 } { diagTile with still := (0, 8) :: List.replicate 5 (0, 0) } with placement := [(0, 0x8000)] }
     s.hasTile t0 = true ∧ s.partOf t0 = some 0 ∧ (s.nOf t0).isSome = true) ∧
    (let s := onPart { activePart with freeze := some .drained }
     (s.part 0).present = true ∧ (s.part 0).judged = false ∧ (s.part 0).freeze ≠ none) := by decide +kernel

theorem witness_ResetsOfTileClusterPartitionAndDevice :
    (∀ d ∈ [0, 1, 2], (onTile { resetDue := d }).hasTile t0 = true ∧ ((onTile { resetDue := d }).tile t0).resetDue = d) ∧
    (let s := onPart { activePart with resetDue := true }
     (s.part 0).present = true ∧ (s.part 0).resetDue = true ∧ ((onPart activePart).part 0).resetDue = false) ∧
    (let w : Waiter := { opcode := 0x080B, req := oneApply.req, part := 0 }
     let s : State := { State.reset with boot := { resetDue := true }, waiters := [w] }
     s.boot.resetDue = true ∧ (∀ w ∈ s.waiters, w.opcode = 0x080B ∧ w.queued = false) ∧ ∀ p, (s.part p).applies = []) ∧
    (∀ w ∈ ({ State.reset with boot := { resetDue := true } } : State).waiters, w.opcode ≠ 0x080B) ∧ State.reset.boot.resetDue = false ∧
    ({ State.reset with power := { cycleDue := true } } : State).power.cycleDue = true ∧
    (State.reset.power.cycleDue = false ∧ State.reset.boot.resetSince = none) ∧
    ({ State.reset with boot := { stage := 5 } } : State).boot.stage ≠ 0 ∧
    (serving.boot.stage = 0 ∧ serving.boot.phase ≠ 0 ∧ serving.boot.standbyRuns = false) ∧
    ({ State.reset with boot := { phase := 2, standbyRuns := true } } : State).boot.standbyRuns = true := by decide +kernel
/-- A report of a stage with nothing found. -/
def quietReport (pll : Bool) : StageReport :=
  { elapsedMs := 1, seams := [], bist := [], standbyBooted := true, pllLocked := pll, failedStacks := 0, retrainedStacks := 0, unrepairable := [] }
/-- Stage k of a start. -/
def starting (k : Nat) : State := { State.reset with boot := { phase := 1, stage := k, tilesTested := true } }
theorem witness_StartAttemptsAndTheirStages :
    (State.reset.boot.phase = 0 ∧ State.reset.boot.stage = 0 ∧ State.reset.powerGood = true ∧ State.reset.noteIncomplete.boot.strikes ≠ 3) ∧
    (let s : State := { State.reset with boot := { strikes := 3 } }
     s.boot.phase = 0 ∧ s.boot.stage = 0 ∧ s.powerGood = true ∧ s.noteIncomplete.boot.strikes = 3) ∧
    ((starting 2).boot.stage = 2 ∧ (quietReport false).pllLocked = false) ∧
    (∀ k ∈ [1, 4], (starting k).boot.stage = k ∧ 1 ≤ k ∧ k ≤ 4 ∧ (quietReport true).pllLocked = true) ∧
    ((starting 5).boot.stage = 5 ∧ (starting 5).boot.tilesTested = true) ∧ (∀ x ∈ [(1, 1000), (2, 100), (3, 4000), (5, 3000)], (starting x.1).boot.stage = x.1) ∧
    (∀ x ∈ ((starting 4).port 0).links, ((starting 4).link 0 x).state = .down) ∧
    (∃ x ∈ (((starting 4).modPort 0 fun q => { q with native := { state := .up } }).port 0).links,
      (((starting 4).modPort 0 fun q => { q with native := { state := .up } }).link 0 x).state ≠ .down) := by decide +kernel
/-- Stage 5 with one tile placed, its image loaded and its known-answer test at the point given. -/
def loadedTile (status : U32) : Tile := { load := { armed := true, status := status } }
def oneLoaded (status : U32) : State := { (starting 5).setTile t0 (loadedTile status) with placement := [(0, 0x8000)] }
theorem witness_ReadyAndKnownAnswers :
    ((oneLoaded 0x88000000).allHolders = [t0] ∧ (∀ t ∈ (oneLoaded 0x88000000).allHolders, ((oneLoaded 0x88000000).tile t).load.state = 2 ∧
      ((oneLoaded 0x88000000).tile t).load.ka = 2) ∧ (oneLoaded 0x88000000).anyLeft = true) ∧
    ((∃ t ∈ (oneLoaded 0x80000000).allHolders, ((oneLoaded 0x80000000).tile t).load.ka = 0) ∧ (oneLoaded 0x80000000).boot.kaRounds < 2 ∧
      ∀ t ∈ (oneLoaded 0x80000000).allHolders, ((oneLoaded 0x80000000).tile t).load.state = 2) ∧
    ((∃ t ∈ (oneLoaded 0x84000000).allHolders, ((oneLoaded 0x84000000).tile t).load.ka = 1) ∧
      ∀ t ∈ State.reset.allHolders, (State.reset.tile t).load.ka ≠ 1) := by decide +kernel

theorem witness_TileImagesLoadAndAreChecked :
    (let l : Load := { armed := true, status := 0x40000000, frags := 2, got := [1] }
     State.reset.hasTile t0 = true ∧ l.armed = true ∧ l.state = 1 ∧ l.missing ≠ [] ∧ l.rounds = 0 ∧ l.gap = true) ∧
    (let l : Load := { armed := true, status := 0x40000000, frags := 1 }
     l.state = 1 ∧ l.missing ≠ [] ∧ l.rounds = 0 ∧ l.gap = false) ∧
    (let l : Load := { armed := true, status := 0x70000000, frags := 1, rounds := 3 }
     l.armed = true ∧ l.state = 1 ∧ l.missing ≠ [] ∧ l.rounds ≠ 0 ∧ 3 ≤ l.rounds) ∧
    (let l : Load := { armed := true, status := 0x40000000 }
     l.state = 1 ∧ l.missing = [] ∧ l.length = 0) ∧ State.reset.boot.stage ≠ 5 := by decide +kernel
/-- A tile with an image of no fragments whose digest is the one given. -/
def digestTile (d : Bytes) : Tile := { load := { armed := true, status := 0x40000000, digest := d } }
theorem digestTile_bytes (d : Bytes) : (List.range (digestTile d).load.length.toNat).map ((digestTile d).imem.get (tileKey t0)) = [] := rfl
theorem digestTile_digest (d : Bytes) : (digestTile d).load.digest = d := rfl
theorem witness_ImageDigestCheck (d e : Bytes) (h : d = sha512 []) (h' : e = 0 :: d) :
    sha512 ((List.range (digestTile d).load.length.toNat).map ((digestTile d).imem.get (tileKey t0))) = (digestTile d).load.digest ∧
    sha512 ((List.range (digestTile e).load.length.toNat).map ((digestTile e).imem.get (tileKey t0))) ≠ (digestTile e).load.digest := by
  rw [digestTile_bytes, digestTile_bytes, digestTile_digest, digestTile_digest, ← h, h']
  exact ⟨rfl, fun h => List.cons_ne_self _ _ h.symm⟩
/-- Function 0 with its link up and its aperture over partition 0, which half-die 0 carries. -/
def aperture0 : State := (onPart activePart).modFn 0 fun v => { v with gen := 6, a2En := true }
theorem witness_HostLinksAndTheAperture :
    (State.reset.power.converters = true ∧ State.reset.power.packageOff = false ∧ State.reset.fnExists 0 = true ∧ State.reset.fnExists 1 = false ∧
      State.reset.boot.phase ≠ 3 ∧ 5 ≤ (7 : Byte).toNat ∧ (4 : Byte).toNat < 5) ∧
    ((aperture0.fn 0).gen ≠ 0 ∧ (aperture0.part (aperture0.fn 0).a2Part).shadow = none ∧ (State.reset.fn 0).gen = 0 ∧ (State.reset.fn 0).a2En = false) ∧
    ((aperture0.modPart 0 fun q => { q with owner := 1 }).part ((aperture0.modPart 0 fun q => { q with owner := 1 }).fn 0).a2Part).owner ≠ 0 ∧
    (let s : State := { aperture0 with boot := { phase := 2 } }
     let q : Packet := { wrPkt with type := 2, tag := 5, src := 9, payload := [] }
     let u := s.modFn 0 fun v => { v with reads := [q] }
     ((u.fn 0).reads.find? fun q => q.tag = 5 && q.src = 9 && q.len.toNat = (List.replicate 8 (0 : Byte)).length) = some q ∧ ∀ q ∈ (u.fn 0).reads, q.tag ≠ 6) := by
  decide +kernel
/-- The first byte of the partition is in the aperture unless it is Pintle's own, whose place the manual does not give. -/
theorem witness_aperture :
    (let s : State := { aperture0 with boot := { phase := 2 } }
     (s.aperture 0 0 4 = some 0 ∨ s.pintleOwns 0 0 4 = true) ∧ s.retiredEcc 0 0 4 .clean = .clean) := by
  have h : ({ aperture0 with boot := { phase := 2 } } : State).aperture 0 0 4 =
      if (!({ aperture0 with boot := { phase := 2 } } : State).pintleOwns 0 0 4) = true then some 0 else none := rfl
  dsimp only
  refine ⟨?_, by decide +kernel⟩
  rw [h]
  cases ({ aperture0 with boot := { phase := 2 } } : State).pintleOwns 0 0 4 <;> simp
/-- A service binding on port 0 with one IPv4 client of rate 1. -/
def binding0 (c : Client) : SvcBinding := { part := 0, port := 0, udp := 50001, inChan := 1, outChan := 2, body := [], isOpen := true, clients := [(0, c)] }
def client0 : Client := { ipv6 := false, rate := 1, addr := [10, 0, 0, 1] }
theorem witness_HostRegistersMailboxesAndServiceRequests :
    ((0x80000006 : U32).getLsbD 31 = true ∧ (State.reset.fn 0).evEn = false ∧ 6 ≤ (BitVec.ofNat 5 (0x80000006 : U32).toNat).toNat ∧
      (BitVec.ofNat 5 (0x80000010 : U32).toNat).toNat ≤ 16 ∧ (BitVec.ofNat 5 (0x80000005 : U32).toNat).toNat < 6 ∧
      16 < (BitVec.ofNat 5 (0x80000011 : U32).toNat).toNat) ∧
    ((0x109 : BitVec 22).toNat % 4 ≠ 0 ∧ (0x4FFFC : BitVec 22).toNat % 4 = 0 ∧ 0x10000 ≤ (0x10000 : BitVec 22).toNat ∧ (0x4FFFC : BitVec 22).toNat < 0x50000) ∧
    (serving.pintleUp = true ∧ State.reset.pintleUp = false ∧ serving.timeouts = serving ∧ serving.nextQueued = none ∧ serving.hasRequest 0 63 = false) ∧
    (let s := (serving.modFn 0 fun v => { v with mboxEn := 2 ^ 63 }).modMbox 0 63 fun m => { m with reqSeq := 1 }
     s.timeouts = s ∧ s.nextQueued = none ∧ s.hasRequest 0 63 = true) ∧
    (∀ o ∈ [true, false], (let s := State.reset.modFn 0 fun v => { v with lastMsix := some 0, msixOwed := o }
     (s.fn 0).lastMsix = some 0 ∧ (s.fn 0).msixOwed = o)) ∧
    (kget (0 : U16).toNat State.reset.bindings = none) ∧
    (let b := binding0 client0
     let s : State := { State.reset with bindings := [(0, b)] }
     kget (0 : U16).toNat s.bindings = some b ∧ b.port = 0 ∧ b.isOpen = true ∧ kget (1 : U16).toNat b.clients = none ∧ kget (0 : U16).toNat b.clients = some client0 ∧
     client0.ipv6 ≠ true ∧ client0.second = s.now / 1000000000 ∧ client0.made < client0.rate.toNat ∧
     8192 < (List.replicate 8193 (0 : Byte)).length ∧ (List.replicate 8192 (0 : Byte)).length ≤ 8192) ∧
    (let k := { client0 with made := 1 }
     kget (0 : U16).toNat (binding0 k).clients = some k ∧ k.rate.toNat ≤ k.made) := by decide +kernel
/-- The reset state with its 54 V input out of the band since the count given. -/
def banded (t : Nat) : State := { State.reset with power := { bandSince := some t } }
/-- The reset state with the coolant out of its limits since the count 0. -/
def cooling (now : Nat) : State := { State.reset with power := { coolSince := some 0 }, count := BitVec.ofNat 64 now }
theorem witness_InputConvertersThermalAndCoolant :
    (State.reset.power.converters = true ∧ State.reset.power.bandSince = none ∧ 48000 ≤ (48000 : U32).toNat ∧ (59500 : U32).toNat ≤ 59500 ∧
      46000 ≤ (47999 : U32).toNat ∧ (47999 : U32).toNat < 48000 ∧ 59500 < (59501 : U32).toNat ∧ (61000 : U32).toNat ≤ 61000 ∧
      (45999 : U32).toNat < 46000 ∧ 61000 < (61001 : U32).toNat) ∧
    ((banded 0).power.bandSince = some 0 ∧ (banded 0).power.converters = true) ∧
    (let s : State := { State.reset with power := { converters := false } }
     s.power.converters = false ∧ 48000 ≤ s.power.inputMv ∧ s.power.inputMv ≤ 59500) ∧
    ((∀ hd i, Sensor.halfDie 15 1 = .halfDie hd i → hd.val < State.reset.member.halfDies) ∧ State.reset.sensorLive (.halfDie 15 1) = true ∧
      (1050 : U32).toInt ≤ 1050 ∧ 1050 < (1051 : U32).toInt ∧ (1149 : U32).toInt < 1150 ∧ 1150 ≤ (1150 : U32).toInt ∧
      State.reset.sensorLive (.ioDie true 0) = true ∧
      ({ State.reset with power := { thermTrip := true } } : State).sensorLive (.ioDie true 0) = false) ∧
    (State.reset.power.packageOff = false ∧ 1200 ≤ (1200 : U16).toNat ∧ (350 : U16).toInt ≤ 350 ∧ (1199 : U16).toNat < 1200 ∧ 350 < (351 : U16).toInt) ∧
    ((cooling 999999999).power.coolSince = some 0 ∧ (cooling 999999999).power.coolPosted = false ∧ (cooling 999999999).now < 0 + 1000000000 ∧
      0 + 1000000000 ≤ (cooling 1000000000).now) ∧ (15 : HdId).val < State.reset.member.halfDies := by
  refine ⟨?_, ?_, ?_, ⟨?_, ?_⟩, ?_, ?_, ?_⟩ <;> decide +kernel
/-- A tile whose droop detector is as given. -/
def droopTile (d : Droop) : Tile := { droop := d }
theorem witness_DroopMarginCapAndHeadroom :
    (State.reset.hasTile t0 = true ∧ State.reset.diesOn = true ∧ 100 * (681 : U16).toNat < 91 * (749 : U16).toNat ∧
      91 * (750 : U16).toNat ≤ 100 * (683 : U16).toNat) ∧
    (((onTile (droopTile { stretching := true })).tile t0).droop.stretching = true ∧ ((onTile {}).tile t0).droop.stretching = false) ∧
    (20 ≤ (20 : U32).toInt ∧ (19 : U32).toInt < 20 ∧ ((onTile (droopTile { lowReadings := 8 })).tile t0).droop.lowReadings < 9) ∧
    (9 ≤ ((onTile (droopTile { lowReadings := 9 })).tile t0).droop.lowReadings ∧ ((onTile (droopTile { lowReadings := 9 })).tile t0).droop.lastEvent = none ∧
      ((onTile (droopTile { lowReadings := 9, lastEvent := some 0 })).tile t0).droop.lastEvent = some 0 ∧ State.reset.now < 0 + 3600000000000) ∧
    ({ State.reset with power := { diesOff := true } } : State).diesOn = false ∧ (State.reset.part 0).present = false ∧
    (0 < 1 ∧ 1 ≤ 1 ∧ dutyMost ≤ dutyMost) ∧
    (State.reset.headroomSpent 0 = false ∧ (onPart { activePart with job := .running }).headroomSpent 0 = true) ∧
    (let s := onPart { activePart with headroomAt := some 0 }
     (s.part 0).headroomAt = some 0 ∧ s.now < 0 + 100000000) := by decide +kernel
theorem witness_DroopLimitRecord :
    State.reset.hasTile t0 = true ∧ State.reset.diesOn = true ∧ 100 * (681 : U16).toNat < 91 * (749 : U16).toNat ∧
    ((onTile (droopTile { stretching := true })).tile t0).droop.stretching = true := by decide +kernel
/-- A token verifies or it does not: in each case one of the two clauses applies. -/
theorem witness_DebugUnlock (token : Bytes) :
    (State.reset.power.converters = true ∧ State.reset.power.packageOff = false ∧ State.reset.sec.debug = false) ∧
    (Config.tokenOk token State.reset.nonce State.reset.sec.revoked.toNat = true ∨ Config.tokenOk token State.reset.nonce State.reset.sec.revoked.toNat = false) ∧
    ({ State.reset with sec := { debug := true } } : State).sec.debug = true := by
  refine ⟨by decide +kernel, ?_, rfl⟩
  cases Config.tokenOk token State.reset.nonce State.reset.sec.revoked.toNat <;> simp
/-- A signature owed to a host, and one owed to a link. -/
def hostSig : Attest := { transport := .host 0, msg := [] }
def linkSig : Attest := { link := some (0, none), transport := .host 0, msg := [] }
theorem witness_UnlockAttestationAndCables :
    (({ State.reset with sec := { current := some hostSig } } : State).sec.current = some hostSig ∧ State.reset.sec.current = none) ∧
    (let c : Security := { queue := [linkSig, hostSig], ahead := 16 }
     c.nextSignature = some hostSig ∧ 16 ≤ c.ahead ∧ ∃ x ∈ c.queue, x.link = none) ∧
    (let c : Security := { queue := [hostSig, linkSig], ahead := 15 }
     c.nextSignature = some linkSig ∧ c.ahead < 16 ∧ ∃ x ∈ c.queue, x.link ≠ none) ∧
    ((State.reset.port 15).cable = false ∧ ((onPort { cable := true }).port 0).cable = true ∧ ((onPort { cable := true, mode := 1 }).port 0).supplyOn = true ∧
      ((onPort { cable := true }).port 0).supplyOn = false) := by decide +kernel
theorem witness_SidebandMessagesAreAnswered :
    (serving.answersOn .i3c = true ∧ State.reset.answersOn .i3c = false ∧ assignedEid [0, 0, 1, 1, 9] = some 9 ∧ assignedEid [0, 0, 1, 2, 9] = none) ∧
    (serving.sec.debug = false ∧ ({ serving with sec := { debug := true } } : State).sec.debug = true ∧
      ({ serving with sec := { debug := true } } : State).answersOn .i3c = true) ∧
    (serving.sec.i3cAssigned = false ∧ ({ serving with sec := { i3cAssigned := true } } : State).sec.i3cAssigned = true ∧ (0x53 : BitVec 7) ≠ 0x52) := by
  decide +kernel
/-- Whatever number the part gives a sensor, its reading is one of the two kinds; and a message is signed or it is not. -/
theorem witness_SensorsAndSpdm (n : U16) (msg : Bytes) :
    (∃ s : State, s.answersOn .i3c = true ∧ s.power.sensors[Config.sensorIndex n.toNat]? = some 0) ∧
    (Config.sensorIndex n.toNat < 24 ∨ 24 ≤ Config.sensorIndex n.toNat) ∧ (Config.spdmSigned msg = true ∨ Config.spdmSigned msg = false) := by
  refine ⟨⟨{ serving with power := { sensors := List.replicate (Config.sensorIndex n.toNat + 1) 0 } }, rfl, by simp⟩, by omega, ?_⟩
  cases Config.spdmSigned msg <;> simp
theorem witness_MonitoringChangesNothingItDoesNotReport :
    ∃ tr msg, (Instr.mctpControl .i3c [0, 0, 1, 1, 9]) = .mctpControl tr msg := ⟨.i3c, [0, 0, 1, 1, 9], rfl⟩

/-! Mailbox commands. -/

/-- A request of function 0 with the flags and body given. -/
def rq (flags : U16) (b : Bytes) : Req := { fn := 0, mbox := 0, flags := flags, tag := 7, body := b }
/-- Pintle serves, and partition 0 is as given; it belongs to function 0, the administrator. -/
def serv (q : Part) : State := serving.setPart 0 q
/-- A partition of half-die 0 with no program set. -/
def idlePart : Part := { present := true, hds := 1 }
/-- The check that a command is taken, as a Bool. -/
def takesB (s : State) (op : Nat) (r : Req) : Bool :=
  s.mboxFree r && (s.accept r).refusal op r = none && (List.finRange 16).all fun p => (s.accept r).reqPart op r ≠ some p || !(s.accept r).blocked p
theorem takes_of {s : State} {op : Nat} {r : Req} (h : takesB s op r = true) : s.takes op r := by
  simp only [takesB, Bool.and_eq_true, decide_eq_true_eq, List.all_eq_true, Bool.or_eq_true, Bool.not_eq_true', ne_eq] at h
  refine ⟨h.1.1, h.1.2, fun p e => ?_⟩
  rcases h.2 p (List.mem_finRange p) with n | n
  · exact absurd e n
  · exact n
/-- A command of partition 0 that an unfinished drain holds back. -/
def drainWait : Waiter := { opcode := 0x0404, req := { rq 0 [0] with mbox := 1 }, part := 0 }
theorem witness_CommandsAreServedHeldOrRefused :
    State.reset.boot.phase = 0 ∧ State.reset.mboxFree (rq 0 [0]) = false ∧
    (({ serv idlePart with waiters := [{ drainWait with req := rq 0 [0] }] } : State).mboxFree (rq 0 [0]) = false) ∧
    (let s : State := { serv idlePart with waiters := [drainWait] }
     let a := s.accept (rq 0 [0])
     s.mboxFree (rq 0 [0]) = true ∧ a.reqPart 0x0203 (rq 0 [0]) = some 0 ∧ a.blocked 0 = true) ∧
    ((serving.accept (rq 0 [])).refusal 0x0203 (rq 0 []) = some (badArg, 0x3000) ∧ ∀ p, (serving.accept (rq 0 [])).blocked p = false) ∧
    (takesB (serv idlePart) 0x0203 (rq 0 [0]) = true) := by and_intros <;> decide +kernel
theorem witness_IdentityPartitionAndMemoryCommands :
    (takesB serving 0x0101 (rq 0 []) = true) ∧
    (∀ port ∈ [0, 1], takesB serving 0x0102 (rq 0 [port, 2]) = true ∧ rf (rq 0 [port, 2]) 1 1 ≤ 2 ∧ rf (rq 0 [port, 2]) 0 1 = port.toNat) ∧
    (∀ q, (serving.part q).present = true → (serving.part q).active = false) ∧
    (let r := rq 0 [15, 0, 0, 0, 1, 0]
     let s := serving.modFn 0 fun v => { v with gen := 6 }
     takesB s 0x0201 r = true ∧ (s.accept r).createRefusal r = none ∧ rf r 0 1 = 15 ∧ rf r 1 1 = 0) ∧
    (let s := serv idlePart
     (s.accept (rq 0 [0])).named [0] 0 = some 0 ∧ (s.part 0).active = false ∧ (s.part 0).applies = [] ∧ (s.part 0).running = false ∧
     takesB s 0x0202 (rq 0 [0]) = true ∧ takesB s 0x0203 (rq 0 [0]) = true ∧ takesB s 0x0303 (rq 0 [0]) = true) ∧
    (let r := rq 0 ([0, 0, 0, 0] ++ leBytes 4 0 ++ leBytes 4 1048576)
     takesB (serv idlePart) 0x0304 r = true ∧ rf r 4 4 + rf r 8 4 ≤ 2 ^ 20 ∧
     ∀ q, q ≠ 0 → ((serv idlePart).part q).present = true → rangesMeet (rf r 4 4) (rf r 8 4) ((serv idlePart).part q).chanFirst ((serv idlePart).part q).chanCount = false) ∧
    (let s : State := { serv idlePart with placement := [(0, 0x8000)] }
     takesB s 0x0306 (rq 0 [0, 0, 0, 0]) = true ∧ s.tileOfN 0 0 = some t0 ∧ 0 ∈ s.nsOfPart 0) := by decide +kernel
/-- The state of a staged command, its opcode and its body. -/
def stagedRows : List (State × Nat × Bytes) :=
  let p := serv activePart
  let j := serv { activePart with manifest := some oneManifest, freeze := some .drained, program := some {
    addr := 0, length := 0, digest := [], budget := { minClock := 1 }, bankMask := 0, circuits := [], joins := [], facets := [], images := [] } }
  let w (s : State) : State := { s with power := { hd := Vector.replicate 16 0 } }
  let port (s : State) : State := s.modPort 0 fun x => { x with part := some 0, native := { state := .admitted } }
  [(p, 0x0204, [0, 1, 48, 0] ++ leBytes 4 1000000), (p, 0x0302, [0, 0, 0, 0] ++ leBytes 4 0xFFFF0000 ++ leBytes 4 0xFFFF),
   (p, 0x0305, [0, 0, 1, 0, 0, 0, 0, 0] ++ leBytes 4 0x7FFFF ++ leBytes 4 0x80000003), (w (serv { idlePart with active := true, manifest := some oneManifest, program := some {
    addr := 0, length := 0, digest := [], budget := { minClock := 1 }, bankMask := 0, circuits := [], joins := [], facets := [], images := [] } }), 0x0403, List.replicate 16 0),
   (w j, 0x0406, [0]), (p, 0x0407, [0, 7, 16, 0, 0, 0, 0, 0] ++ leBytes 8 4096), (port p, 0x0602, [0, 2, 0, 0] ++ leBytes 4 1 ++ leBytes 8 0 ++ [0, 0]),
   (p, 0x0603, [0]), (serv { activePart with tests := [(5, 0)] }, 0x0606, [0, 255, 5, 0, 0, 0, 0, 0] ++ leBytes 8 9), (p, 0x0703, [0, 0, 0, 0, 0, 0, 0, 0]),
   (j, 0x0901, [0, 1, 1, 0]), (p, 0x0902, [0, 0, 0, 0] ++ leBytes 4 600), (port p, 0x0707, [0, 255]), (port p, 0x0708, [0, 255, 0, 0] ++ List.replicate 32 0)]
/-- The command is taken with the flags given, names partition 0 or port 0, and its change can be recorded. -/
def stagedOk (f : U16) (x : State × Nat × Bytes) : Bool :=
  takesB x.1 x.2.1 (rq f x.2.2) && (x.1.part 0).apply = none && ((x.1.accept (rq f x.2.2)).named x.2.2 0 = some 0 || portNamed x.2.2 = some 0) &&
    (recordChange { opcode := BitVec.ofNat 16 x.2.1, req := rq f x.2.2 } (x.1.part 0).pending).length ≤ 256
theorem witness_StagedCommandsAreTaken : stagedRows.all (stagedOk 0) = true ∧ stagedRows.all (stagedOk 1) = true := by decide +kernel
theorem witness_StagedCommandsAreRecordedOrAppliedAtABeat :
    (let r := rq 1 ([0, 1, 48, 0] ++ leBytes 4 1000000)
     rf r 2 1 ≤ 48 ∧ 100 ≤ rf r 4 4 ∧ rf r 4 4 ≤ 1000000) ∧
    (let r := rq 1 ([0, 0, 0, 0] ++ leBytes 4 0xFFFF0000 ++ leBytes 4 0xFFFF)
     let a := serv activePart
     rf r 4 4 &&& rf r 8 4 = 0 ∧ (a.part 0).program = none ∧ a.chanSpans 0 ++ (a.holders 0).flatMap (fun t => (a.tile t).bankSpans) = []) ∧
    (let r := rq 1 ([0, 0, 1, 0, 0, 0, 0, 0] ++ leBytes 4 0x7FFFF ++ leBytes 4 0x80000003)
     let a := serv activePart
     rf r 2 2 = 1 ∧ rf r 8 4 < 2 ^ 19 ∧ bitsOf (rf r 12 4) 30 27 = 0 ∧ 3 ≤ bitsOf (rf r 12 4) 2 0 ∧ bitsOf (rf r 12 4) 12 8 < a.member.gx ∧
     bitsOf (rf r 12 4) 7 3 * a.member.gx + bitsOf (rf r 12 4) 12 8 ∈ a.nsOfPart 0) ∧
    (∀ x ∈ stagedRows, x.2.1 = 0x0403 → (x.1.part 0).running = false ∧ (x.1.part 0).awaits 0x0403 = false ∧ (x.1.part 0).manifest ≠ none ∧
      (x.1.part 0).program ≠ none ∧ (x.1.part 0).active = true ∧ (x.1.part 0).reload = false ∧ x.1.exitsAdmitted 0 = true ∧ x.1.anyIdle (rq 1 x.2.2) 0 = false) ∧
    (∀ x ∈ stagedRows, x.2.1 = 0x0406 → (x.1.part 0).freeze = some .drained ∧ (x.1.part 0).awaits 0x0406 = false ∧ x.1.anyIdle (rq 1 x.2.2) 0 = false) ∧
    (let r := rq 1 ([0, 7, 16, 0, 0, 0, 0, 0] ++ leBytes 8 4096)
     rf r 1 1 ≤ 7 ∧ rf r 2 1 ≤ 16 ∧ rf r 8 8 % 4096 = 0 ∧ activePart.inRange (rf r 8 8) (128 + 128 * 2 ^ rf r 2 1) = true) ∧
    (∀ x ∈ stagedRows, x.2.1 = 0x0602 → (x.1.port 0).part = some 0 ∧ (∃ y ∈ (x.1.port 0).links, ((x.1.port 0).link y).state = .admitted) ∧
      (x.1.part 0).running = false ∧ rf (rq 1 x.2.2) 1 1 = 2) ∧
    (∀ x ∈ stagedRows, x.2.1 = 0x0707 ∨ x.2.1 = 0x0708 → x.1.linkNamed (rq 1 x.2.2) 0 ≠ none ∧ (x.1.port 0).part = some 0) ∧
    (∀ x ∈ stagedRows, x.2.1 = 0x0901 → x.1.owns 0 0 = true ∧ maskBits 16 1 ≠ [] ∧ (∀ hd ∈ maskBits 16 1, (x.1.part 0).hasHd hd = true) ∧
      ((x.1.part 0).program.all fun g => g.budget.minClock ≠ 0) = true) := by
  and_intros <;> decide +kernel
/-- A job of one module that runs in partition 0. -/
def running0 : State := serv (jobPart oneManifest {})
/-- A body of SVC_CLIENTS that adds one client to binding 0. -/
def addClient : Bytes := [0, 0, 0, 0, 1, 0, 0, 0] ++ [3, 0, 0, 0] ++ leBytes 4 5 ++ List.replicate 16 1
/-- A binding whose client table has room for 4. -/
def roomy : SvcBinding := { binding0 client0 with body := List.replicate 34 0 ++ [4, 0] }
theorem witness_PromoteInsertAndService :
    (takesB running0 0x0605 (rq 1 ([0, 0, 0, 0, 0, 0, 0, 0] ++ leBytes 8 0 ++ leBytes 8 0)) = true ∧
      (running0.accept (rq 1 ([0, 0, 0, 0, 0, 0, 0, 0] ++ leBytes 8 0 ++ leBytes 8 0))).promoteRefusal (rq 1 ([0, 0, 0, 0, 0, 0, 0, 0] ++ leBytes 8 0 ++ leBytes 8 0)) 0 =
        none) ∧
    (let s := serv { activePart with tests := [(5, 0)], restoreRows := [(0, 0)] }
     let r := rq 1 ([0, 1, 5, 0, 1, 0, 0, 0] ++ leBytes 8 9)
     takesB s 0x0606 r = true ∧ rf r 1 1 ≠ 0 ∧ (∃ x ∈ (s.part 0).tests, x.1 = rf r 2 2) ∧ bitAt (rf r 4 1) 0 = true ∧ (s.part 0).restoreRows ≠ []) ∧
    (let s : State := { serv activePart with bindings := [(0, roomy)] }
     takesB s 0x0C02 (rq 1 [0, 0, 0, 0]) = true ∧ s.bindingOf 0 (rf (rq 1 [0, 0, 0, 0]) 2 2) ≠ none ∧
     takesB s 0x0C03 (rq 1 addClient) = true ∧ s.bindingOf 0 (rf (rq 1 addClient) 2 2) = some roomy ∧ rf (rq 1 addClient) 4 2 = 1 ∧
     (clientsAfter (rq 1 addClient) (roomy.clients.map (·.1))).length ≤ roomy.f 34 2) := by decide +kernel
/-- An apply of a change sent without STAGE, whose beat leaves the partition's units time to vote; and a partition that runs a job, or awaits an apply. -/
theorem witness_DirectChanges :
    (let s := serv activePart
     let r := rq 0 ([0, 0, 0, 0] ++ leBytes 4 600)
     let y : Apply := { changes := [{ opcode := BitVec.ofNat 16 0x0902, req := r }], beat := s.directBeat 0x0902 r 0, req := r, opcode := BitVec.ofNat 16 0x0902
                        direct := true, hold := false, committed := false, units := s.unitsOf 0 [{ opcode := BitVec.ofNat 16 0x0902, req := r }] }
     (s.part 0).running = false ∧ s.windowOk429 0 y = true) ∧
    (running0.part 0).running = true ∧ ((serv { activePart with apply := some oneApply }).part 0).apply ≠ none := by decide +kernel
/-- Region 511 of partition 0 may change state unless it holds memory of Pintle, whose place the manual does not give. -/
theorem witness_RegionState :
    (let a := serv { activePart with hds := 0x8000 }
     let r := rq 1 ([0, 1, 1, 0] ++ leBytes 4 511)
     takesB a 0x0301 r = true ∧ rf r 1 1 ≤ 2 ∧ rf r 2 2 = 1 ∧ (a.part 0).hasHd ((rf r 4 4 + 0) / 32) = true ∧ rf r 4 4 + 0 ∉ a.regionsHeld 0 ∧
     (pintleRegion (rf r 4 4 + 0) = false ∨ pintleRegion (rf r 4 4 + 0) = true) ∧ rf r 4 4 + 0 ∉ a.regionsBound 0) := by
  dsimp only
  refine ⟨?_, ?_, ?_, ?_, ?_, ?_, ?_⟩ <;> try decide +kernel
  cases pintleRegion (rf (rq 1 ([0, 1, 1, 0] ++ leBytes 4 511)) 4 4 + 0) <;> simp
theorem witness_AppliedChangesTakeEffect :
    (let r := rq 0 ([0, 1, 48, 0] ++ leBytes 4 100)
     rf r 1 1 ≠ 0 ∧ rf r 2 1 ≠ 0 ∧ rf r 4 4 ≠ 0) ∧
    (let r := rq 0 (List.replicate 8 0)
     rf r 1 1 = 0 ∧ rf r 2 1 = 0 ∧ rf r 4 4 = 0) ∧
    rf (rq 0 [15, 0]) 0 1 = (15 : PortId).val ∧
    (rf (rq 0 [0, 7, 0]) 1 1 = (7 : Fin 8).val ∧ rf (rq 0 [0, 7, 0]) 2 1 = 0 ∧ rf (rq 0 [0, 7, 4]) 2 1 ≠ 0) ∧
    (({ State.reset with regions := [(511, .off)] } : State).region 511 = .off ∧
      ({ State.reset with regions := [(511, .selfRefresh)] } : State).region 511 = .selfRefresh) ∧
    (((onPart { activePart with shadow := some (mirrorSide 2) }).part 0).shadow = some (mirrorSide 2) ∧ (mirrorSide 2).role = 2 ∧ (mirrorSide 1).role ≠ 2) := by
  decide +kernel

/-! A program set and a manifest. -/

/-- A tile program without code: its budget (beat 100 µs, S = 1, HEADROOM 2,000 ns), an empty region block, an empty stream block (R54, R155, R189). -/
def tileProg : Bytes :=
  leBytes 4 16 ++ leBytes 4 40 ++ leBytes 4 48 ++ leBytes 4 440 ++ (leBytes 4 100 ++ leBytes 2 1 ++ [0, 0] ++ leBytes 4 0 ++ leBytes 4 2000 ++ leBytes 4 0 ++
    leBytes 4 0) ++ List.replicate 400 0
/-- The directory of the 32 positions of half-die 0 of a ZH2 in paired mode, each with that program, and the program (R440). -/
def setBody : Bytes :=
  ((List.range 4).flatMap fun j => (List.range 8).flatMap fun i => leBytes 2 (16 * j + i) ++ [0, 0] ++ leBytes 4 592 ++ leBytes 4 440 ++ leBytes 4 0) ++ tileProg
/-- The SHA-512 of the body, computed outside the model. -/
def setDigest : Bytes :=
  [0x43, 0xd6, 0xa7, 0x3d, 0x77, 0xb9, 0x5b, 0xa5, 0xd5, 0x4a, 0xdd, 0x06, 0xa3, 0x01, 0x30, 0x4f, 0x15, 0x26, 0xfd, 0xea, 0x4e, 0x44, 0x60, 0x46, 0xf1, 0x2f, 0xf3, 0x47, 0x0b, 0x45, 0xdd, 0x0d,
   0x7c, 0x7a, 0xda, 0x13, 0x71, 0x04, 0x30, 0x7d, 0x86, 0x45, 0x7c, 0x5a, 0x42, 0xdf, 0x71, 0x8b, 0xb5, 0x1a, 0x74, 0x50, 0x3c, 0x15, 0xdc, 0x5a, 0xa4, 0x68, 0x77, 0xcd, 0x4d, 0x54, 0x89, 0x6b]
/-- The set: VERSION 1, 32 tiles, circuit and facet lists of length 0, and the digest of what follows. -/
def setBytes : Bytes := leBytes 2 1 ++ leBytes 2 32 ++ leBytes 4 692 ++ leBytes 4 692 ++ leBytes 4 0 ++ setDigest ++ setBody
/-- A paired partition of half-die 0 of a ZH2, firmware running from slot B, which holds none. -/
def pairedBase : State := { serv { idlePart with paired := true } with member := .zh2, boot := { phase := 2, slot := 1 } }
/-- The same with the bytes given at address 0 of the partition. -/
def pairedState (bs : Bytes) : State := pairedBase.dramPut 0 bs
/-- Bytes placed at address 0 of the device, which half-die 0 of partition 0 carries, read back through the partition. -/
theorem partRead_dramPut (s : State) (bs : Bytes) (hd : (s.part 0).hdList = [0]) (hw : Memory.wf (some 0) s.dram = true) (h : bs.length < 2 ^ 38) :
    (s.dramPut 0 bs).partRead 0 0 bs.length = bs := by
  have hp : (s.dramPut 0 bs).part 0 = s.part 0 := rfl
  have hd' : ∀ i, i < 2 ^ 38 → (s.part 0).dpa i = some i := by
    intro i hi
    unfold Part.dpa
    rw [hd, Nat.div_eq_of_lt hi, Nat.mod_eq_of_lt hi]
    simp
  refine List.ext_getElem (by simp [State.partRead]) fun i h1 h2 => ?_
  simp only [State.partRead, List.getElem_map, List.getElem_range, hp, hd' _ (Nat.lt_trans (Nat.add_lt_add_left h2 0) (by omega))]
  exact State.dramByte_dramPut s 0 bs i h2 hw
/-- PROG_LOAD of the set at address 0; MANIFEST_LOAD of the manifest at address 0. -/
def loadReq : Req := rq 0 (List.replicate 16 0 ++ leBytes 8 1032)
def manifestReq : Req := rq 0 (List.replicate 16 0 ++ leBytes 4 192)
theorem witness_ProgLoad :
    takesB (pairedState setBytes) 0x0401 loadReq = true ∧ ((pairedState setBytes).part 0).active = false ∧
    (pairedState setBytes).readable 0 (rf loadReq 8 8) (rf loadReq 16 8) = true ∧
    (pairedState setBytes).partRead 0 (rf loadReq 8 8) (rf loadReq 16 8) = setBytes ∧ (pairedState setBytes).setRefusal 0 setBytes = none := by
  refine ⟨by decide +kernel, by decide +kernel, by decide +kernel, ?_, by decide +kernel⟩
  have h1 : rf loadReq 8 8 = 0 := by decide +kernel
  have h2 : rf loadReq 16 8 = setBytes.length := by decide +kernel
  rw [h1, h2]
  exact partRead_dramPut pairedBase setBytes (by decide +kernel) rfl (by decide +kernel)
/-- A manifest of one module (R254, R309): header, directory, step section (K = 1, LATCH_DUE 200, BUCKET_MIB 4), trust section of zeros. -/
def manifestBytes : Bytes :=
  leBytes 2 1 ++ leBytes 2 2 ++ leBytes 4 192 ++ leBytes 8 1 ++ leBytes 8 0 ++ leBytes 4 100 ++ leBytes 2 3 ++ leBytes 2 0 ++ List.replicate 32 0 ++
    (leBytes 4 1 ++ leBytes 4 96 ++ leBytes 4 32 ++ leBytes 4 0) ++ (leBytes 4 2 ++ leBytes 4 128 ++ leBytes 4 64 ++ leBytes 4 0) ++
    (leBytes 2 1 ++ [0, 0] ++ leBytes 4 200 ++ leBytes 4 0 ++ leBytes 4 0 ++ leBytes 2 4 ++ List.replicate 14 0) ++ List.replicate 64 0
theorem witness_ManifestLoad :
    takesB (pairedState manifestBytes) 0x0601 manifestReq = true ∧ ((pairedState manifestBytes).part 0).active = false ∧
    (pairedState manifestBytes).readable 0 (rf manifestReq 8 8) (rf manifestReq 16 4) = true ∧
    (pairedState manifestBytes).partRead 0 (rf manifestReq 8 8) (rf manifestReq 16 4) = manifestBytes ∧
    (pairedState manifestBytes).manifestRefusal 0 manifestBytes (rf manifestReq 2 2) = none := by
  and_intros <;> decide +kernel

/-- Partition 0 frozen after a drain, its logical tile 0 at tile (0, 0). -/
def frozen0 : State := { serv { activePart with freeze := some .drained } with placement := [(0, 0x8000)], power := { hd := Vector.replicate 16 0 } }
/-- The request and apply of a pending set of one change. -/
def capChange : Change := ⟨0x0902, rq 1 ([0, 0, 0, 0] ++ leBytes 4 600)⟩
def applyReq (flags : U16) : Req := rq flags ([0, 0, 0, 0, 0, 0, 0, 0] ++ leBytes 8 30000)
def heldApply : Apply := { oneApply with beat := 30000, hold := true, held := true }
theorem witness_JobStagingTimeAndShadowCommands :
    (takesB running0 0x0404 (rq 0 [0]) = true ∧ takesB running0 0x0405 (rq 0 [0]) = true ∧ (running0.part 0).running = true ∧ (running0.part 0).oneModule = true ∧
      ((serv (jobPart pairManifest {})).part 0).oneModule = false ∧ (running0.accept (rq 0 [0])).named [0] 0 = some 0) ∧
    (takesB (serv idlePart) 0x0402 (rq 0 [0]) = true ∧ takesB (serv idlePart) 0x0502 (rq 0 [0]) = true ∧ takesB (serv idlePart) 0x0503 (rq 0 [0]) = true ∧
      takesB (serv idlePart) 0x0505 (rq 0 ([0, 0, 0, 0, 0, 0, 0, 0] ++ leBytes 8 (2 ^ 64 - 1))) = true ∧ takesB (serv idlePart) 0x0604 (rq 0 [0]) = true ∧
      ((serv idlePart).part 0).running = false ∧ ((serv idlePart).part 0).apply = none ∧ ((serv idlePart).part 0).shadow = none ∧
      ((serv { idlePart with shadow := some (mirrorSide 1) }).part 0).shadow = some (mirrorSide 1)) ∧
    (let s := serv { activePart with pending := [capChange] }
     let r := applyReq 2
     let y : Apply := { changes := (s.part 0).pending, beat := rf r 8 6, req := r, opcode := 0x0501, direct := false, hold := bitAt r.flags.toNat 1, committed := false
                        units := s.unitsOf 0 (s.part 0).pending }
     takesB s 0x0501 r = true ∧ (s.part 0).apply = none ∧ (s.part 0).pending ≠ [] ∧ (∀ x ∈ (s.part 0).pending, (s.part 0).suits (rf r 8 6) x = true) ∧
     s.windowOk429 0 y = true) ∧
    (takesB (serv activePart) 0x0501 (applyReq 0) = true ∧ ((serv activePart).part 0).pending = []) ∧
    (let s := serv { activePart with apply := some heldApply }
     takesB s 0x0501 (applyReq 0) = true ∧ (s.part 0).apply = some heldApply ∧ heldApply.hold = true ∧ heldApply.committed = false ∧
     bitAt (applyReq 0).flags.toNat 1 = false ∧ heldApply.beat = rf (applyReq 0) 8 6 ∧ heldApply.held = true) := by
  and_intros <;> decide +kernel
/-- SCAN of kind k to or from address 0, in DRAM (0) or scratchpad (1). -/
def scanReq (k sp : Byte) : Req := rq 0 ([0, k, 0, 0, sp, 0, 0, 0] ++ leBytes 8 0)
theorem witness_Scan :
    (takesB frozen0 0x0408 (scanReq 1 0) = true ∧ frozen0.tileOfN 0 0 = some t0 ∧ 0 ∈ frozen0.nsOfPart 0 ∧ (frozen0.part 0).freeze ≠ none ∧
      rf (scanReq 1 0) 8 8 % 64 = 0 ∧ rf (scanReq 1 0) 1 1 = 1 ∧ rf (scanReq 1 0) 4 1 = 0 ∧ frozen0.readable 0 0 8192 = true) ∧
    (takesB frozen0 0x0408 (scanReq 2 1) = true ∧ rf (scanReq 2 1) 1 1 = 2 ∧ rf (scanReq 2 1) 4 1 = 1 ∧ inSpad (rf (scanReq 2 1) 8 8) 98304 = true) ∧
    (takesB frozen0 0x0408 (scanReq 3 0) = true ∧ rf (scanReq 3 0) 1 1 = 3 ∧ rf (scanReq 3 0) 4 1 = 0) := by decide +kernel
/-- An entry section of position 0 (R203, R208): VERSION 1, KIND 1, member code 8, zero program digest and step, CRC over it with the CRC field zero. -/
def entryHead : Bytes := [1, 0, 1, 0, 8, 0, 0, 0, 0, 0, 0, 0]
def entryBytes : Bytes := entryHead ++ leBytes 4 (crc32c (entryHead ++ [0, 0, 0, 0] ++ List.replicate 8176 0)) ++ List.replicate 8176 0
theorem entryBytes_length : entryBytes.length = 8192 := by
  simp only [entryBytes, entryHead, List.length_append, leBytes_length, List.length_replicate, List.length_cons, List.length_nil]
/-- The frozen partition with the section in its memory. -/
def scanIn : State := frozen0.dramPut 0 entryBytes
theorem witness_ScanIn :
    takesB scanIn 0x0408 (scanReq 3 0) = true ∧ scanIn.tileOfN 0 0 = some t0 ∧ scanIn.readable 0 0 8192 = true ∧
    scanIn.partRead 0 0 8192 = entryBytes ∧ scanIn.scanRefusal 0 0 t0 entryBytes = none := by
  refine ⟨by decide +kernel, by decide +kernel, by decide +kernel, ?_, ?_⟩
  · have h := partRead_dramPut frozen0 entryBytes (by decide +kernel) rfl (by rw [entryBytes_length]; omega)
    rw [entryBytes_length] at h
    exact h
  · have h : (fieldAt entryBytes 12 4 = crc32c (entryBytes.take 12 ++ leBytes 4 0 ++ entryBytes.drop 16)) := by
      have h := crcFrame entryHead (List.replicate 8176 0) rfl
      unfold frameCrcOk at h
      exact of_decide_eq_true h
    have v : scanIn.member = .zh8 := rfl
    unfold State.scanRefusal
    simp only [h, decide_true]
    decide +kernel
theorem witness_SeamResetAndTsync :
    (let r := rq 0 (leBytes 2 0x303 ++ [1])
     takesB serving 0x0504 r = true ∧ rf r 0 2 ∈ serving.member.seamIds ∧ rf r 2 1 ≤ 1 ∧ ∀ p ∈ serving.seamParts (rf r 0 2), (serving.part p).active = false) ∧
    (∀ m ∈ [0, 1], takesB serving 0x0506 (rq 0 [m]) = true ∧ rf (rq 0 [m]) 0 1 ≤ 1) := by decide +kernel
/-- Pintle serves, and port 0 is as given. -/
def portState (q : Port) : State := serving.modPort 0 fun _ => q
theorem witness_PortCommands :
    (∀ m ∈ [[0, 3, 1], [0, 0, 0], [0, 6, 0]], takesB (portState {}) 0x0701 (rq 0 m) = true ∧ portNamed (rq 0 m).body = some 0) ∧
    ((portState {}).portHeld 0 = false ∧ (∀ w ∈ (portState {}).waiters, w.opcode ≠ 0x0701)) ∧
    (let s := (serv { activePart with exits := (Vector.replicate 6 none).set 0 (some 0) }).modPort 0 fun q => { q with part := some 0 }
     takesB s 0x0701 (rq 0 [0, 3, 0]) = true ∧ s.portHeld 0 = true) ∧
    (takesB (portState {}) 0x0702 (rq 0 [0, 0xFF]) = true ∧ ((portState {}).port 0).part = none ∧ takesB (serv idlePart) 0x0702 (rq 0 [0, 0]) = true ∧
      (serv idlePart).named [0, 0] 1 = some 0 ∧ ((serv idlePart).port 0).part = none ∧ ((serv idlePart).part 0).active = false) ∧
    takesB (portState {}) 0x0704 (rq 0 (List.replicate 42 0)) = true ∧
    (takesB (portState {}) 0x0705 (rq 0 ([0, 0] ++ leBytes 2 1 ++ List.replicate 28 0)) = true ∧ ((portState {}).port 0).isEth = false) ∧
    (let s := portState { mode := 4, lanes := Vector.replicate 9 { state := .up } }
     takesB s 0x0705 (rq 0 ([0, 0] ++ leBytes 2 1 ++ List.replicate 28 0)) = true ∧ (s.port 0).isEth = true ∧ ∃ l ∈ (s.port 0).lanes.toList, l.state = .up) ∧
    (let s := portState { mode := 1, native := { state := .up } }
     s.linkNamed (rq 0 [0, 0xFF]) 0 = some none ∧ takesB s 0x0706 (rq 0 [0, 0xFF]) = true ∧ (s.link 0 none).state ≠ .down ∧ (s.link 0 none).adm = none ∧
     (s.port 0).isFlat = true ∧ takesB s 0x0709 (rq 0 [0, 0xFF]) = true ∧ takesB s 0x0707 (rq 0 [0, 0xFF]) = true ∧
     takesB s 0x0708 (rq 0 ([0, 0xFF, 0, 0] ++ List.replicate 32 0)) = true ∧ (s.port 0).part = none) ∧
    ((portState {}).linkNamed (rq 0 [0, 0xFF]) 0 = some none ∧ ((portState {}).link 0 none).state = .down) := by decide +kernel
theorem witness_HealthReadCommands :
    (takesB serving 0x0801 (rq 0 (List.replicate 8 0)) = true ∧
      ((serving.faultLog.filter fun x => rf (rq 0 (List.replicate 8 0)) 4 4 ≤ x.1 && serving.seesFault 0 x.1 x.2).take 31).length < 31) ∧
    (takesB (serv idlePart) 0x0802 (rq 0 (List.replicate 8 0)) = true ∧ takesB (serv idlePart) 0x0803 (rq 0 (List.replicate 8 0)) = true) ∧
    (takesB serving 0x0804 (rq 0 (List.replicate 6 0)) = true ∧ rf (rq 0 (List.replicate 6 0)) 4 2 = 0) ∧
    (let r := rq 0 ([0, 1] ++ leBytes 2 0 ++ leBytes 2 512)
     let s := serv idlePart
     takesB s 0x0804 r = true ∧ rf r 1 1 ≤ 1 ∧ rf r 4 2 = 512 ∧ s.owns 0 0 = true ∧ rf r 2 2 + rf r 4 2 ≤ s.member.gx * s.member.gy) ∧
    (let s : State := { serv { idlePart with owner := 1 } with adminFn := 1 }
     takesB s 0x0804 (rq 0 ([0, 0] ++ leBytes 2 0 ++ leBytes 2 1)) = true ∧ s.owns 0 0 = false ∧ s.adminFn ≠ 0) ∧
    takesB serving 0x0805 (rq 0 []) = true ∧
    (∀ f ∈ [[0, 2, 0, 0, 15, 8, 7], [0, 3, 0, 0, 15, 8, 7]], takesB serving 0x0806 (rq 0 f) = true ∧ bitAt (rf (rq 0 f) 1 1) 1 = true ∧ serving.adminFn = 0 ∧
      serving.tileNamed (rf (rq 0 f) 4 1) (rf (rq 0 f) 5 1) (rf (rq 0 f) 6 1) = some ⟨35, 31⟩) ∧
    (let s : State := { serv idlePart with placement := [(0, 0x8000)] }
     takesB s 0x0806 (rq 0 [0, 0, 0, 0, 0, 0, 0]) = true ∧ s.named [0, 0, 0, 0, 0, 0, 0] 0 = some 0 ∧ s.position 0 0 = some t0 ∧ s.owns 0 0 = true) ∧
    (∀ o ∈ [1, 2, 3, 4, 5], takesB serving 0x0807 (rq 0 ([o, 0, 0, 0] ++ leBytes 4 0 ++ leBytes 2 2032)) = true) := by decide +kernel
/-- A command that names tile (0, 0) by half-die, column and row, as opposed to position 0 of partition 0. -/
def tileReq : Req := rq 0 [0, 1, 0, 0, 0, 0, 0]
/-- Position 0 of a partition that function 1 owns. -/
def otherPart : State := { serv { idlePart with owner := 1 } with placement := [(0, 0x8000)] }
theorem witness_TestFenceDefectAndResetCommands :
    (takesB serving 0x0808 tileReq = true ∧ bitAt (rf tileReq 1 1) 0 = true ∧ serving.tileNamed (rf tileReq 4 1) (rf tileReq 5 1) (rf tileReq 6 1) = some t0 ∧
      serving.ownsTile 0 t0 = true ∧ serving.nOf t0 = none ∧ (serving.tile t0).ward.test = false ∧ serving.heldKey t0 = none ∧
      ((serving.setTile t0 { ward := { test := true } }).tile t0).ward.test = true) ∧
    (let s : State := { serv activePart with placement := [(0, 0x8000)] }
     let r := rq 0 (List.replicate 7 0)
     takesB s 0x0808 r = true ∧ bitAt (rf r 1 1) 0 = false ∧ s.named r.body 0 = some 0 ∧ s.owns 0 0 = true ∧ s.position 0 (rf r 2 2) = some t0 ∧
     s.partOf t0 = some 0 ∧ s.nOf t0 ≠ none ∧ (s.part 0).running = false ∧ (s.tile t0).ward.test = false) ∧
    (let r := rq 0 ([1] ++ List.replicate 15 0)
     takesB serving 0x0809 r = true ∧ rf r 0 1 = 1 ∧ serving.tileNamed (rf r 4 1) (rf r 5 1) (rf r 6 1) = some t0 ∧ serving.partOf t0 = none) ∧
    (let s : State := { running0 with placement := [(0, 0x8000)] }
     takesB s 0x0809 (rq 0 ([1] ++ List.replicate 15 0)) = true ∧ s.partOf t0 = some 0 ∧ s.nOf t0 ≠ none ∧ (s.part 0).running = true) ∧
    (let s : State := { serv idlePart with placement := [(0, 0x8000)] }
     let r := rq 0 ([3, 0] ++ leBytes 2 0xFFFF ++ [0, 0, 0])
     takesB s 0x080B r = true ∧ rf r 0 1 = 3 ∧ s.resetTile r = some t0 ∧ s.partOf t0 = some 0 ∧ s.owns 0 0 = true ∧
     takesB otherPart 0x080B r = true ∧ otherPart.resetTile r = some t0 ∧ otherPart.partOf t0 = some 0 ∧ otherPart.owns 0 0 = false) ∧
    (let r := rq 0 ([2, 0, 0, 0, 15, 8] ++ List.replicate 10 0)
     takesB serving 0x0809 r = true ∧ rf r 0 1 = 2 ∧ rf r 4 1 = (15 : PortId).val ∧ rf r 5 1 = (8 : LaneId).val) ∧
    (let r := rq 0 ([3] ++ List.replicate 15 0)
     takesB serving 0x0809 r = true ∧ rf r 0 1 = 3 ∧ serving.rowWord (BitVec.ofNat 64 (rf r 8 8)).toNat = true) ∧
    (let s : State := { serving with defects := [defect1] }
     let r := rq 0 (List.replicate 8 0)
     takesB s 0x080A r = true ∧ (s.defects.find? fun d => d.seq.toNat = rf r 4 4 && s.defectActive d) = some defect1 ∧
     takesB serving 0x080A r = true ∧ ∀ d ∈ serving.defects, d.seq.toNat ≠ rf r 4 4) ∧
    (let r := rq 0 [4, 0, 0, 0, 0, 0, 0]
     takesB (serv idlePart) 0x080B r = true ∧ rf r 0 1 = 4 ∧ (serv idlePart).named r.body 1 = some 0 ∧ (serv idlePart).owns 0 0 = true) ∧
    (∀ l ∈ [5, 6], takesB serving 0x080B (rq 0 ([l] ++ List.replicate 6 0)) = true ∧ serving.adminFn = 0 ∧
      takesB { serving with adminFn := 1 } 0x080B (rq 0 ([l] ++ List.replicate 6 0)) = true) ∧
    (∀ v ∈ [[0], [1]], takesB serving 0x080C (rq 0 v) = true ∧ rf (rq 0 v) 0 1 ≤ 1) ∧ takesB serving 0x080D (rq 0 []) = true := by
  and_intros <;> decide +kernel
/-- The body of SVC_BIND of partition 0 on port 0 with channels 1 and 2, 512-byte rings at DRAM 0 and 4096, and the other ranges apart. -/
def bindBody : Bytes :=
  [0, 0, 0, 0] ++ leBytes 4 1 ++ leBytes 4 2 ++ leBytes 2 0 ++ leBytes 2 0 ++ leBytes 8 0 ++ leBytes 8 4096 ++ [9, 0] ++ leBytes 2 1 ++ leBytes 4 0 ++ leBytes 8 8192 ++
    leBytes 8 12288 ++ leBytes 2 1 ++ leBytes 2 16 ++ leBytes 4 0 ++ leBytes 4 8 ++ leBytes 4 0 ++ leBytes 8 (2 ^ 33) ++ leBytes 8 0
/-- A partition with channels, and port 0 of it an Ethernet port. -/
def ethState : State := (serv { activePart with chanCount := 4 }).modPort 0 fun q => { q with part := some 0, mode := 4 }
theorem witness_PowerFirmwareSecurityAndServiceCommands :
    (let r := rq 0 [0xFF, 4, 0, 0]
     takesB serving 0x0901 r = true ∧ rf r 0 1 = 0xFF ∧ serving.adminFn = 0 ∧ rf r 1 1 = 4 ∧ bitAt r.flags.toNat 0 = false ∧ rf r 2 2 = 0 ∧
     (∀ p, (serving.part p).present = true → (serving.part p).active = false) ∧ serving.power.modState ≠ 4 ∧
     takesB (serv activePart) 0x0901 r = true ∧ (∃ p, ((serv activePart).part p).present = true ∧ ((serv activePart).part p).active = true) ∧
     takesB { serving with adminFn := 1 } 0x0901 r = true) ∧
    (let s : State := { serving with power := { modState := 3 } }
     takesB s 0x0901 (rq 0 [0xFF, 2, 0, 0]) = true ∧ s.power.modState ≠ 0) ∧
    (let r := rq 0 ([0xFF, 0] ++ leBytes 2 0x8000)
     takesB serving 0x0901 r = true ∧ maskBits 16 (rf r 2 2) ≠ [] ∧ ∀ hd ∈ maskBits 16 (rf r 2 2), hd < serving.member.halfDies ∧ serving.retired.getLsbD hd = false ∧
       ∀ p, (serving.part p).present = true → (serving.part p).hasHd hd = false) ∧
    (takesB serving 0x0903 (rq 0 ([0xFF] ++ List.replicate 15 0)) = true ∧ takesB (serv idlePart) 0x0903 (rq 0 (List.replicate 16 0)) = true) ∧
    (let r := rq 0 ([0, 0, 0, 0] ++ leBytes 4 67108848 ++ List.replicate 16 0)
     takesB serving 0x0A01 r = true ∧ rf r 4 4 % 16 = 0 ∧ rf r 4 4 + (r.body.drop 8).length ≤ 67108864) ∧
    (takesB serving 0x0A02 (rq 0 (leBytes 4 0)) = true ∧ serving.fwCheck (serving.slot (1 - serving.boot.slot)) 0 = some versionMismatch) ∧
    takesB serving 0x0A03 (rq 0 []) = true ∧ takesB serving 0x0A04 (rq 0 [0]) = true ∧ serving.sec.debug = false ∧
    (takesB serving 0x0A05 (rq 0 [7]) = true ∧ rf (rq 0 [7]) 0 1 = (7 : FnId).val) ∧ (takesB serving 0x0B01 (rq 0 [3]) = true ∧ rf (rq 0 [3]) 0 1 ≤ 3) ∧
    (let b : SvcBinding := { part := 0, port := 0, udp := 50001, inChan := 1, outChan := 2, body := bindBody }
     let r := rq 0 bindBody
     takesB ethState 0x0C01 r = true ∧ (ethState.part 0).running = false ∧ rf r 1 1 = 0 ∧ rf r 2 2 = 0 ∧ rf r 4 4 = 1 ∧ rf r 8 4 = 2 ∧ ethState.bindBad 0 b = false ∧
     (ethState.port 0).part = some 0 ∧ (ethState.port 0).isEth = true ∧ ethState.freeBinding = some 0) ∧
    (let s : State := { serv activePart with bindings := [(0, roomy)] }
     takesB s 0x0C04 (rq 0 [0, 0, 0, 0]) = true ∧ s.bindingOf 0 0 = some roomy) := by decide +kernel
/-- Firmware runs from slot B. -/
def slotB : State := { serving with boot := { phase := 2, slot := 1 } }
/-- Firmware runs from slot B, and slot A holds the image of manufacture, which verifies whatever its SVN is, none being fused. -/
theorem witness_FwCommit :
    takesB slotB 0x0A02 (rq 0 (leBytes 4 0)) = true ∧ slotB.fwCheck (slotB.slot (1 - slotB.boot.slot)) 0 = none := by
  refine ⟨by decide +kernel, ?_⟩
  have h : slotB.sec.fusedSvn = 0 := rfl
  have f : (slotB.slot (1 - slotB.boot.slot)).factory = true := rfl
  unfold State.fwCheck
  rw [h, f]
  simp
theorem witness_CoordinatesOfTilesAndPositions :
    (3 < 4 ∧ 1 < 2 ∧ 8 < 9 ∧ 7 < 8 ∧ 15 < Member.zh8.halfDies) ∧ Member.zh8.tileAt 15 8 7 = ⟨35, 31⟩ ∧ Member.zh8.hdOf ⟨35, 31⟩ = 15 := by decide
theorem witness_FacetKeysAndRoundingCountersAreApart : (0 : Nat) < Member.zh8.gx * Member.zh8.gy ∧ 511 < Member.zh8.gx * Member.zh8.gy := by decide
/-- Two records of one value each, 1.0 and 3.0. -/
theorem witness_MeanVarianceRecordsMerge :
    (let l : Rec := { kind := 3, flags := 0, count := 1, a := 0x3F800000, b := 0, fa := 0, fb := 0 }
     let r : Rec := { kind := 3, flags := 0, count := 1, a := 0x40400000, b := 0, fa := 0, fb := 0 }
     l.kind = 3 ∧ r.kind = 3 ∧ l.count ≠ 0 ∧ r.count ≠ 0) := by decide
/-- Their mean is 2.0 and their sum of squares about it 2.0 (R132, by hand). -/
theorem test_meanvar :
    (let l : Rec := { kind := 3, flags := 0, count := 1, a := 0x3F800000, b := 0, fa := 0, fb := 0 }
     let r : Rec := { kind := 3, flags := 0, count := 1, a := 0x40400000, b := 0, fa := 0, fb := 0 }
     ((l.combine r).count, (l.combine r).a, (l.combine r).b)) = (2, 0x40000000, 0x40000000) := by decide +kernel
theorem witness_MemoriesHoldWhatWasWritten :
    Memory.wf (some 0) State.reset.dram = true ∧ Memory.wf (some 0) ({ State.reset with dram := [(2 ^ 42 - 1, 5)] } : State).dram = true ∧
    Memory.wf ({} : Store).blank ({} : Store).cells = true ∧ Memory.wf ({ cells := [(0, 0)], epoch := 1 } : Store).blank [(0, 0)] = true ∧ 0 ∈ [0] := by decide

/-! Well-formedness refuses what is out of bounds. -/

theorem wf_packet_len : (Instr.writeRequest t0 { wrPkt with len := 257, payload := List.replicate 257 0 } .clean).wf = false := by decide +kernel
theorem wf_packet_payload : (Instr.writeRequest t0 { wrPkt with payload := [] } .clean).wf = false ∧ (Instr.readRequest t0 { wrPkt with type := 2 } .clean).wf = false ∧
    (Instr.readRequest t0 { wrPkt with type := 2, payload := [] } .clean).wf = true := by decide +kernel
theorem wf_body : (Instr.identify (rq 0 (List.replicate 2025 0))).wf = false ∧ (Instr.identify (rq 0 (List.replicate 2024 0))).wf = true := by decide +kernel
theorem wf_frame : (Instr.haspFrameReceive 0 none [] true).wf = false ∧ (Instr.haspFrameReceive 0 (some 0) [] true).wf = true := by decide +kernel
theorem wf_fragment : (Instr.admitFragment 0 none 1 0 true (List.replicate 29 0)).wf = false := by decide +kernel
theorem wf_credits : (Instr.credits 0 none (List.replicate 8 (0, 0))).wf = false := by decide +kernel
theorem wf_service : (Instr.serviceRequest 0 true [1, 2, 3, 4] 0 0 0 []).wf = false ∧ (Instr.serviceRequest 0 false [1, 2, 3, 4] 0 0 0 []).wf = true := by decide +kernel
theorem wf_host : (Instr.bar2Read 0 0 4097 .clean).wf = false ∧ (Instr.bar2Write 0 0 (List.replicate 4097 0)).wf = false ∧
    (Instr.hostReadCompletion 0 0 0 (List.replicate 257 0)).wf = false := by decide +kernel
theorem wf_link : (Instr.pcieLinkUp 0 4).wf = false ∧ (Instr.pcieLinkUp 0 8).wf = false ∧ (Instr.capWindow (List.replicate 17 0) 0).wf = false := by decide +kernel

/-! Worked examples of the manual. -/

/-- The queue of a block: a step on two commands runs the first and leaves the second. -/
theorem test_queue : (match step { State.reset with tsyncEn := true, count := 5, pending := [.tsyncInEdge, .tbRefLoss] } with
    | .next s => some (s.tsyncCapture, s.pending)
    | _ => none) = some (5, [.tbRefLoss]) := by decide +kernel
/-- Logical position (12, 3) of a ZH8 at torus position (3, 17, 2): its native address, number, half-die and tile, before and after the shift (01). -/
theorem test_coordinates : nativeAddr (3 * 512 + 17 * 16 + 2) 12 3 4 = 0x00E24C1C ∧ Member.zh8.hdOfN 108 = 2 ∧
    Member.zh8.entryTile 108 0x8043 = some ⟨13, 3⟩ ∧ Member.zh8.entryTile 108 0xC053 = some ⟨14, 3⟩ := by decide +kernel
/-- 1 + 2⁻⁹ + 2⁻¹² narrowed to BF16 under SR with two random words, and under RNE (03). -/
theorem test_stochastic_rounding : (encodePlain 2 .sr 0xB0000000 (ofF32 0x3F804800)).1 = 0x3F80 ∧ (encodePlain 2 .sr 0xC0000000 (ofF32 0x3F804800)).1 = 0x3F81 ∧
    (encodePlain 2 .rne 0 (ofF32 0x3F804800)).1 = 0x3F80 := by decide +kernel
/-- The FP8-class pass of R116: operands 448 in elements 0 to 31, scales 2^113 and 2^10. -/
def r116 : PassArgs := passArgs (leBytes 4 0x15500000 ++ [0, 0, 1, 1] ++ leBytes 2 1 ++ [0, 0] ++ leBytes 4 0 ++ leBytes 4 0 ++ leBytes 4 0x400 ++ leBytes 4 0x800 ++
  leBytes 4 0xC00 ++ leBytes 4 0x1000 ++ List.replicate 28 0)
def r116Byte (a : Nat) : Byte := if a < 32 ∨ 0x800 ≤ a ∧ a < 0x820 then 0x7E else if a = 0x400 then 0xF0 else if a = 0xC00 then 0x89 else 0
/-- It overflows at r = 2 and gives 49 × 2^116 at r = 3. -/
theorem test_rescale : ((r116.lanes r116Byte ⟨0, 0, 0⟩ 0 2 false).flatten.map (·.ovf)) = [true] ∧
    ((r116.lanes r116Byte ⟨0, 0, 0⟩ 0 3 false).flatten.map fun l => (l.words, l.ovf)) = [([toF32 (.fin false 49 116)], false)] := by decide +kernel
/-- The cross-tile sum of R136: (1, 0), (2⁻²⁴, 0), (−1, 0), (2⁻²⁴, 0) combine to (2⁻²⁴, 2⁻²⁴). -/
theorem test_cross_tile_sum :
    (let x (a : Nat) : Rec := { kind := 1, flags := 0, count := 1024, a := a, b := 0, fa := 0, fb := 0 }
     let y := ((x 0x3F800000).combine (x 0x33800000)).combine ((x 0xBF800000).combine (x 0x33800000))
     (y.count, y.a, y.b)) = (4096, 0x33800000, 0x33800000) := by decide +kernel
/-- The merge of {1, 2, 3, 4} and {10, 12}: mean 0x40AAAAAB, M2 103.333336 (05). -/
theorem test_statistics :
    (let l : Rec := { kind := 3, flags := 0, count := 4, a := 0x40200000, b := 0x40A00000, fa := 0, fb := 0 }
     let r : Rec := { kind := 3, flags := 0, count := 2, a := 0x41300000, b := 0x40000000, fa := 0, fb := 0 }
     ((l.combine r).count, (l.combine r).a, (l.combine r).b)) = (6, 0x40AAAAAB, 0x42CEAAAB) := by decide +kernel
/-- The gradient ring of R276: local pairs of elements 0 and 1, the home first. -/
def ringPairs (a b : Val) : List (Val × Val) := [(a, .zero), (b, .zero)] ++ List.replicate 30 (.zero, .zero)
theorem test_gradient_ring :
    (let x := ringReduce (ringPairs (.fin false 3 0) (.fin false 1 (-10)))
        [ringPairs (.fin false 5 (-1)) (.fin false 3 (-12)), ringPairs (.fin false 2 0) (.fin false 1 (-13))] (ringPairs (.fin true 1 0) (.fin false 5 (-14)))
     (x.1.take 3, x.2)) = ([0x40D00000, 0x3B140000, 0], 0x81) := by decide +kernel

/-! Further witnesses: the clauses of the longer statements one by one. -/

/-- Half-die 0 awake, as it is after its tiles start. -/
def awake (s : State) : State := { s with power := { s.power with waking := 0 } }
/-- An active partition without a job, in the first beat of its step of four. -/
def slotPart : Part := { activePart with s := 4 }
theorem witness_BeatEvents_deadline :
    (let s := awake (onBoth slotPart { diagTile with bwaited := true, stamp := some 100000 })
     s.tileLive t0 = true ∧ (s.part 0).mayIssue = true ∧ (s.tile t0).streamCheck (s.part 0).beatInStep = none ∧ (s.tile t0).overrun = false ∧
     (s.tile t0).boundStalls = [] ∧ (s.tile t0).bwaited = true ∧ (s.tile t0).stamp = some 100000 ∧ (100000 : Int) ≤ (s.part 0).t ((s.part 0).beat + 1)) ∧
    (let s := awake (onBoth slotPart { diagTile with bwaited := true, stamp := some 100001 })
     (s.tile t0).stamp = some 100001 ∧ (s.part 0).t ((s.part 0).beat + 1) < (100001 : Int)) ∧
    ((awake (onBoth slotPart diagTile)).tile t0).bwaited = false ∧ (onBoth slotPart { diagTile with frozen := true }).tileLive t0 = false ∧
    ((onPart { activePart with placing := true }).part 0).mayIssue = false := by decide +kernel
/-- A quiet partition at the end of the beat given of a step of four, with the job given. -/
def quietPart (b : Nat) (j : JobState) (m : Option Manifest) : Part := { judgedPart with s := 4, beat := b, job := j, manifest := m }
theorem witness_BeatEvents_boundary :
    (∀ q ∈ [quietPart 0 .none none, quietPart 2 .running (some oneManifest)],
      ((onPart q).part 0) = q ∧ q.boundaryReady = true ∧ q.startDue = none ∧ q.apply = none ∧ q.direct = [] ∧ q.fenceNext = [] ∧ q.repairs = [] ∧
      q.slowDue = false ∧ q.restoreRows = [] ∧ q.dlists.toList.any Option.isSome = false ∧ (q.beat + 1) % q.s ≠ 0) ∧
    (let q := quietPart 2 .running (some oneManifest)
     q.job = .running ∧ q.latch.halt = none ∧ q.beatInStep ≠ q.k ∧ q.abandoning = false) ∧
    (∀ w ∈ State.reset.waiters, w.opcode ≠ 0x0408) := by decide +kernel
/-- The same apply of units as given, with the votes and the kind given. -/
def voteApply (us vs : List UnitName) (direct hold committed : Bool) : Apply :=
  { oneApply with units := us, votes := vs, direct := direct, hold := hold, committed := committed }
theorem witness_BeatEvents_votes :
    (let a := voteApply [.seam 0x303, .partitionUnit] [] true false false
     let s := onPart { activePart with direct := [a] }
     (s.part 0).apply = none ∧ (s.part 0).direct = [a] ∧ a.outcome = none ∧ a.refused = none ∧ UnitName.seam 0x303 ∈ a.units ∧ UnitName.seam 0x303 ∉ a.votes ∧
     s.jobTime 0 ≤ (s.part 0).applyAt a - 1000 ∧ 500 ≤ (500 : U16).toNat ∧ (499 : U16).toNat < 500) ∧
    (let a := voteApply [.partitionUnit] [] false true false
     let b : Apply := { a with votes := a.votes ++ [.partitionUnit] }
     a.hold = true ∧ b.allVoted = true ∧ a.held = false) ∧
    (let s := onPart slotPart
     (∀ a ∈ (s.part 0).applies, a.outcome ≠ none) ∧ s.mapVote 0 (.router t0) = none) ∧
    (let x : Repair := { tile := t0, hd := 0, row := 0, shift := 0, hold := 1, began := 0, switchBeat := 8, fenced := true }
     let s := onPart { slotPart with repairs := [x] }
     (∀ a ∈ (s.part 0).applies, a.outcome ≠ none) ∧ s.mapVote 0 (.router t0) = some 8) := by decide +kernel
theorem witness_BeatEvents_voteDeadline :
    (let a := voteApply [.partitionUnit] [.partitionUnit] true false false
     let q := (onPart { activePart with direct := [a] }).part 0
     a.outcome = none ∧ q.apply = none ∧ q.direct = [a] ∧ a.direct = true ∧ a.allVoted = true ∧ q.promoteFits a = true ∧ a.hold = false) ∧
    (let a := voteApply [.partitionUnit] [.partitionUnit] false true true
     let q := (onPart { activePart with apply := some a }).part 0
     q.apply = some a ∧ q.direct = [] ∧ a.direct = false ∧ a.allVoted = true ∧ q.promoteFits a = true ∧ a.hold = true ∧ a.committed = true) ∧
    (let a := voteApply [.partitionUnit] [.partitionUnit] false true false
     a.allVoted = true ∧ a.hold = true ∧ a.committed = false ∧ a.held = false) ∧
    (let a := voteApply [.partitionUnit] [] false false false
     a.allVoted = false ∧ a.held = false ∧ a.committed = false) ∧
    (∀ a ∈ ((onPart activePart).part 0).applies, a.outcome ≠ none) := by decide +kernel
theorem witness_ZqEnq_clearing :
    (let s := onTile { seqTile 0x10000000 with banks := (Vector.replicate 32 .on).set 0 .clearing }
     s.seqReady t0 = true ∧ ((s.tile t0).seq.x 1).toNat % 64 = 0 ∧ inSeqSpad ((s.tile t0).seq.x 1).toNat 64 = true ∧
       (s.tile t0).clearing s.member (s.stepAt t0) 0 64 = true) ∧
    (let s := onTile { seqTile 0x10000000 with banks := (Vector.replicate 32 .on).set 0 .off }
     (s.tile t0).clearing s.member (s.stepAt t0) 0 64 = false ∧ (s.tile t0).bankHit s.member (s.stepAt t0) (· = .off) 0 64 = some 0) ∧
    ((onTile (seqTile 0x10000000)).tile t0).bankHit .zh8 0 (· = .off) 0 64 = none := by decide +kernel
/-- A descriptor of the message unit that ends something: a receive end this tile owns, of a service. -/
theorem witness_MessageUnit_ends :
    (let s := msgState (slot0 (msgDesc 3)) { role := 1, state := chClosed }
     (s.chan 7).state = chClosed ∧ (s.chan 7).role = 1 ∧ s.ownsEnd t0 7 = true) ∧
    ((msgState (slot0 (msgDesc 3)) { role := 2 }).chan 7).role ≠ 1 ∧ (msgState (slot0 (msgDesc 3)) { owner := 5 }).ownsEnd t0 7 = false ∧
    (let s := msgState (slot0 (msgDesc 5)) { role := 2, state := chOpen }
     (s.chan 7).role = 2 ∧ s.ownsEnd t0 7 = true ∧ (s.chan 7).state = chOpen) := by decide +kernel
theorem witness_StreamSlots_judged :
    (let s := onBoth judgedPart steerTile
     (s.part 0).judged = true ∧ s.partOf t0 = some 0 ∧ ((s.tile t0).steer[(7 : Fin 8)]).kind ≠ 0) ∧
    (let s := onBoth activePart steerTile
     (s.part 0).judged = false ∧ s.partOf t0 = some 0 ∧ (s.tile t0).ward.rfence = false ∧ ((s.tile t0).steer[(7 : Fin 8)]).held = none ∧
     (s.tile t0).steerQueue ((s.tile t0).steer[(7 : Fin 8)]).tok = [0]) := by decide +kernel
theorem witness_PacketsMoveOneHop_channels :
    (let k := netPkt { wrPkt with dphys := 0x0100 }
     let u := ({ State.reset with net := [k] } : State).noteReady
     let room := fun o : Nat × TileId => if u.seamPaused (u.member.hdOf t0) (u.member.hdOf o.2) then 0 else u.hopCredit o.2 (facing o.1) (u.seamHop t0 o.2) k.pkt
     u.net[0]?.any (fun j => u.chosen t0 (pktIsReply j.pkt) 1 == some (4, j) && j.loc == .router t0 4) = true ∧ (u.tile t0).ward.rfence = false ∧
     bestOutput room ((u.outputs t0 4 k.pkt).filter fun o => !u.routerFenced o.2) = some (1, t1) ∧ pktFlits k.pkt ≤ room (1, t1)) ∧
    (let k := netPkt { wrPkt with dphys := 0x0100, vc := 1 }
     let s : State := { State.reset with net := [k, { k with loc := .router t0 2, pkt := { k.pkt with vc := 3 } }] }
     s.noteReady.net[0]?.any (fun j => s.noteReady.chosen t0 (pktIsReply j.pkt) 1 != some (4, j)) = true) ∧
    (let s : State := { State.reset with net := [netPkt wrPkt] }
     s.noteReady.localHeld t0 wrPkt.vc = false ∧ s.noteReady.net[0]?.any (fun j => s.noteReady.chosen t0 (pktIsReply j.pkt) 4 == some (4, j)) = true) ∧
    (let k := netPkt { wrPkt with dphys := 0x0100, vc := 3 }
     let s : State := { State.reset with net := [k] }
     ((s.readyFor t0 false 1).any fun x => x.2.pkt.vc = 3) = true ∧ ∀ y ∈ s.readyFor t0 false 1, y.2.pkt.vc ≠ 0) := by decide +kernel
/-- A window of one 64-byte word at the scratchpad address given, open for both directions. -/
def spadWindow (b : Nat) : Window := { isOpen := true, kind := 0, flags := 3, size64 := 1, base := BitVec.ofNat 64 b }
theorem witness_Windows_kinds :
    (let s := windowed (spadWindow 0x1000) wrPkt
     (s.tile t0).window (bitsOf wrPkt.addr.toNat 63 60) = spadWindow 0x1000 ∧ (spadWindow 0x1000).check wrPkt true 8 = (none, 0x1000) ∧ s.writeWaits t0 wrPkt = false ∧
     (∀ x ∈ wordStarts 0x1000 8, (s.tile t0).bankAt s.member (physAddr (s.tile t0).carries (s.stepAt t0) x) = .on) ∧
     (({ s.tile t0 with arrivals := [] } : Tile).writeRun s.member (s.stepAt t0) 3 0x1000 wrPkt.payload).block = none) ∧
    (let v := { ringTile 1 with ingress := [] }
     (v.writeRun .zh8 0 3 0x1000 wrPkt.payload).block = some (0, 0x1000)) ∧
    (let q := { wrPkt with type := 2, payload := [] }
     let s := windowed (spadWindow 0x1000) q
     (spadWindow 0x1000).check q false q.len.toNat = (none, 0x1000) ∧ s.readWaits t0 q = false) ∧
    (let w : Window := { isOpen := true, kind := 1, flags := 1, size64 := 1 }
     let s := windowed w wrPkt
     w.check wrPkt true 8 = (none, 0) ∧ s.rangeOn 0 0 8 = true ∧ (s.part 0).commitBlocked 0 8 = false) := by decide +kernel

/-- A message that reaches an end this tile owns in its partition, in each of the states the statement names. -/
def chanAt (q : Packet) (e : Chan) : State := (arrived q).modChan 7 fun _ => e
theorem witness_MessagesReachAnEnd_owned :
    (∀ q ∈ [msgPkt, ctlPkt 1, ctlPkt 2, ctlPkt 3, ctlPkt 4], (chanAt q {}).hasTile t0 = true ∧ (chanAt q {}).partOf t0 = some 0 ∧
      q ∈ ((chanAt q {}).tile t0).arrivals ∧ (chanAt q {}).genStale (.tile t0) q = false ∧ (chanAt q {}).ownsEnd t0 7 = true ∧
      (chanAt q { owner := 9 }).ownsEnd t0 7 = false) ∧
    (let s := chanAt (ctlPkt 1) { role := 2, state := chListen, peer := 0xFFFFFFFF }
     s.ownsEnd t0 7 = true ∧ (s.chan 7).peer = 0xFFFFFFFF) ∧
    (let e : Chan := { role := 1, state := chOpen, flags := 2 }
     let s := chanAt (ctlPkt 3) e
     e.job = true ∧ s.slotDiffers (some 0) (ctlPkt 3) = false) ∧
    (let e : Chan := { role := 2, state := chOpen, flags := 1, peer := 3, ringLog2 := 9 }
     let s := chanAt msgPkt e
     let u := s.setTile t0 { s.tile t0 with arrivals := (s.tile t0).arrivals.erase msgPkt }
     s.ownsEnd t0 7 = true ∧ (u.placeRecord (.tile t0) (some 0) e 0 msgPkt).2 = stOk) := by decide +kernel
/-- A NOTICE of tile (0, 0): its record begins at byte 0, with the tile's coordinates in bytes 6 and 7. -/
def noticePkt : Packet := { wrPkt with type := 8, vc := 3, dstu := 1, payload := List.replicate 32 0 }
theorem witness_Notices :
    (let k : NetPkt := { pkt := noticePkt, loc := .ioDie false 0 }
     let s : State := { State.reset with net := [k] }
     s.hasTile t0 = true ∧ s.net = [k] ∧ k.pkt.type = 8 ∧ k.pkt.dstu = 1 ∧ fieldAt k.pkt.payload 6 2 = t0.px.toNat * 256 + t0.py.toNat ∧
     k.loc = .ioDie false 0 ∧ s.inbox.length < 4096 ∧ 4096 ≤ ({ s with inbox := List.replicate 4096 {} } : State).inbox.length) ∧
    (∃ r n, ({ pkt := noticePkt, loc := .router t0 4 } : NetPkt).loc = .router r n) ∧
    (let q := { wrPkt with type := 7 }
     q.mcast = false ∧ ({ q with mcast := true } : Packet).mcast = true) := by
  refine ⟨by decide +kernel, ⟨t0, 4, rfl⟩, by decide⟩
/-- A request outstanding until the job time given. -/
def outBy (d : Int) : Outstanding := { outst with deadline := d }
theorem witness_Replies_deadlines :
    (let q := cmplPkt 0x81 0x6000 0
     let s := onBoth activePart { diagTile with arrivals := [q], outstanding := [outBy (-1)] }
     q.vc ≠ 3 ∧ ((s.tile t0).outstanding.find? fun o => o.pkt.tag = q.tag) = some (outBy (-1)) ∧ s.partOf t0 = some 0 ∧ (outBy (-1)).deadline < s.jobTime 0 ∧
     s.jobTime 0 ≤ (outBy 0).deadline) ∧
    (let q := { cmplPkt 0x81 0xC000 0 with vc := 3 }
     let s := onBoth activePart { diagTile with arrivals := [q], ward := { queue := [{}], urgent := true } }
     q ∈ (s.tile t0).arrivals ∧ s.genStale (.tile t0) q = false ∧ q.type = 0x81 ∧ q.vc = 3 ∧ (s.tile t0).ward.urgent = true ∧ q.tag = (s.tile t0).ward.tag ∧
     q.dphys = tilePlace t0) ∧
    (let q := { cmplPkt 0x82 0x6000 0 with payload := [1, 2, 3, 4, 5, 6, 7, 8], len := 8 }
     let x : Slot := { slot0 (leBytes 4 0x11000000 ++ leBytes 4 0 ++ leBytes 8 0 ++ leBytes 8 0x1000 ++ leBytes 4 0 ++ leBytes 4 64 ++ List.replicate 32 0) with started := true }
     let s := onBoth activePart { ringTile 1 with ingress := [], dma := q1 x, arrivals := [q], outstanding := [{ outst with ticket := some 1 }] }
     let u := s.setTile t0 { s.tile t0 with arrivals := (s.tile t0).arrivals.erase q }
     q.addr.toNat % 2 ^ 16 = stOk ∧ (u.dataArrives t0 0 q { outst with ticket := some 1 }).isNone = true) := by decide +kernel
theorem witness_Latch_frames :
    (let s := framed (exitPart pairManifest {}) (latchFrame 1 7)
     (s.part 0).watching = true ∧ (s.part 0).attempting = true ∧
     ((s.takeLatch 0 (latchFrame 1 7)).all fun x => decide (x.2.jobTime 0 ≤ (s.part 0).tk + pairManifest.latchDue)) = true) ∧
    (let s := framed { exitPart pairManifest {} with repeatSlot := some 3 } (latchFrame 1 7)
     (s.part 0).watching = true ∧ (s.part 0).attempting = false ∧ (s.part 0).sameAttempt (latchFrame 1 7) = false) ∧
    (let q := jobPart pairManifest { fixed := some true }
     q.latch.fixed ≠ none ∧ q.sameAttempt (latchFrame 2 0) = true) ∧
    (let s := framed { jobPart pairManifest { formed := true } with shadow := some (mirrorSide 2) } (latchFrame 4 0)
     (s.part 0).watching = true ∧ ((s.takeLatch 0 (latchFrame 4 0)).all fun x => decide (x.2.jobTime 0 ≤ (s.part 0).t ((s.part 0).beat + 1))) = true) := by decide +kernel
/-- A frame of SEQ 0 whose class byte says that the partner's link was reset. -/
def resetFrame : Bytes :=
  (leBytes 7 0 ++ [7] ++ List.replicate 4 0) ++ leBytes 4 (crc32c ((leBytes 7 0 ++ [7] ++ List.replicate 4 0) ++ [0, 0, 0, 0] ++ List.replicate 624 0)) ++ List.replicate 624 0
theorem witness_PartnerReset :
    (let s := onLink { state := .admitted, rxSeq := 5 }
     s.linkUp 0 none = true ∧ s.unwrap 0 none resetFrame = some resetFrame ∧ fieldAt resetFrame 0 2 ≠ (s.link 0 none).rxSeq.toNat ∧
     (s.link 0 none).resetSeenIn resetFrame = true) ∧ resetFrame.length = 640 ∧ frameCrcOk resetFrame = true ∧
    ((onLink { state := .up, rxSeq := 5 }).link 0 none).resetSeenIn resetFrame = false := by
  refine ⟨⟨by decide +kernel, rfl, ?_, ?_⟩, ?_, crcFrame _ _ (by simp only [leBytes, List.length_append, List.length_replicate]; rfl), ?_⟩
  · decide +kernel
  · decide +kernel
  · simp only [resetFrame, List.length_append, leBytes_length, List.length_replicate, List.length_cons, List.length_nil]
  · decide +kernel
theorem witness_Lanes_each :
    (let s := onPort { lanesIn .down with settings := some { mode := 3, map := 0, asymPs := 0, partner := 0 } }
     (s.port 0).lanes[(8 : LaneId)].state = .down ∧ (!(s.port 0).fullTrained && (s.port 0).settings.isSome) = true) ∧
    (((onPort (lanesIn .align)).port 0).lanes[(0 : LaneId)].state = .align) ∧
    (let s : State := { onPort (lanesIn .train) with fuses := { lanes := [(0, 8)] } }
     s.laneBad 0 8 0 = true ∧ (s.port 0).lanes[(8 : LaneId)].state = .train) ∧
    (let q : Port := { lanesIn .up with swap := [(7, 0)] }
     let u := (onPort q).modPort 0 fun q => q.modLane 7 fun v => { v with state := .fenced, bad := 0 }
     (u.port 0).spareReady = false ∧ (u.port 0).wholeHalf = some false) ∧
    (let q : Port := { lanesIn .up with lanes := (Vector.replicate 9 { state := .up }).set 0 { state := .fenced }, swap := [(7, 0)] }
     let u := (onPort q).modPort 0 fun q => q.modLane 7 fun v => { v with state := .fenced, bad := 0 }
     (u.port 0).spareReady = false ∧ (u.port 0).wholeHalf = none) := by decide +kernel
/-- Input on both blades and on one. -/
theorem witness_Blades :
    (let s : State := { State.reset with power := { converters := false } }
     s.power.converters = false ∧ s.power.bothBlades = true ∧ 48000 ≤ s.power.inputMv ∧ s.power.inputMv ≤ 59500) ∧
    ({ State.reset with power := { bothBlades := false } } : State).power.bothBlades = false := by decide +kernel
/-- The frozen partition of one mapped position with that position's section in its save area. -/
theorem scanIn_retiredEcc (p : PartId) (a k : Nat) (s : State) (h : s.pinsFailed = []) : s.retiredEcc p a k .clean = .clean := by
  have e : ∀ d, s.channelRetired d = false := fun d => by simp [State.channelRetired, h]
  have n : ∀ l : List Nat, l.find? (fun d => s.channelRetired (s.dramLoc d)) = none := fun l => by simp [e]
  unfold State.retiredEcc
  simp only [n, State.erasedEcc]
theorem areaRead_clean (p : PartId) (a : Nat) (s : State) (bs : Bytes) (r : s.retiredEcc p a 8192 .clean = .clean) (d : s.partRead p a 8192 = bs) :
    s.areaRead p a = (s, some bs) := by
  unfold State.areaRead
  rw [r, d]
theorem witness_JobResume :
    takesB scanIn 0x0406 (rq 1 [0]) = true ∧ (scanIn.part 0).freeze = some .drained ∧ (scanIn.part 0).awaits 0x0406 = false ∧
    (scanIn.part 0).reload = false ∧ (scanIn.part 0).slowDue = false ∧ scanIn.anyIdle (rq 1 [0]) 0 = false ∧
    (scanIn.nsOfPart 0).length = 64 ∧ scanIn.tileOfN 0 0 = some t0 ∧
    (scanIn.nsOfPart 0).all (fun n => decide (n = 0) || (scanIn.tileOfN 0 n).isNone) = true := by
  and_intros <;> decide +kernel
theorem witness_JobResume_image : scanIn.saveArea 0 0 = 0 ∧ ∃ bs, (scanIn.areaRead 0 0).2 = some bs ∧ scanIn.imageRefusal 0 0 t0 (some bs) = none := by
  refine ⟨by decide +kernel, entryBytes, ?_, ?_⟩
  · have h : scanIn.pinsFailed = [] := by decide +kernel
    have r := scanIn_retiredEcc 0 0 8192 scanIn h
    have d := witness_ScanIn.2.2.2.1
    exact congrArg Prod.snd (areaRead_clean 0 0 scanIn entryBytes r d)
  · rw [State.imageRefusal]
    exact witness_ScanIn.2.2.2.2
/-- The section of step 0 in the memory of a partition that stands at step 1. -/
theorem witness_ScanIn_refused : (scanIn.modPart 0 fun q => { q with step := 1 }).scanRefusal 0 0 t0 entryBytes ≠ none := by
  have h : (fieldAt entryBytes 12 4 = crc32c (entryBytes.take 12 ++ leBytes 4 0 ++ entryBytes.drop 16)) := by
    have h := crcFrame entryHead (List.replicate 8176 0) rfl
    unfold frameCrcOk at h
    exact of_decide_eq_true h
  unfold State.scanRefusal
  simp only [h, decide_true]
  decide +kernel
theorem witness_Fence_reserved :
    (let r := rq 0 ([1] ++ List.replicate 13 0 ++ [4, 0])
     takesB serving 0x0809 r = true ∨ bitsOf (rf r 8 8) 44 18 ≠ 0) ∧
    bitsOf (rf (rq 0 ([3] ++ List.replicate 9 0 ++ [4, 0, 0, 0, 0, 0])) 8 8) 44 18 ≠ 0 ∧
    takesB serving 0x0809 (rq 0 ([3] ++ List.replicate 9 0 ++ [4, 0, 0, 0, 0, 0])) = true ∧ bitsOf (rf (rq 0 ([1] ++ List.replicate 15 0)) 8 8) 44 18 = 0 := by decide +kernel

/-! Further cases of the statements above: each theorem meets the hypotheses of the clauses its name gives. -/

/-- The functions are configured. -/
def funcs : State := { serving with boot := { serving.boot with fnsUp := true } }
theorem witness_HostRegisters_functions :
    funcs.boot.fnsUp = true ∧ (funcs.fn 0).evEn = false ∧ (0x80000006 : U32).getLsbD 31 = true ∧ State.reset.boot.fnsUp = false := by decide
theorem witness_Admission_late :
    (let v : State := { onLink { adm := some { stage := .hello, stageBy := 4, by_ := 9 } } with count := 4 }
     (v.link 0 none).adm = some { stage := .hello, stageBy := 4, by_ := 9 } ∧ v.admLate { stage := .hello, stageBy := 4, by_ := 9 } = false) ∧
    (let v : State := { onLink { adm := some { stage := .hello, stageBy := 4, by_ := 9 } } with count := 5 }
     (v.link 0 none).adm = some { stage := .hello, stageBy := 4, by_ := 9 } ∧ v.admLate { stage := .hello, stageBy := 4, by_ := 9 } = true) ∧
    (onLink {}).admLate { stage := .sync } = false ∧ ({ onLink {} with count := 1 } : State).admLate { stage := .sync } = true ∧
    (∀ st ∈ [AdmStage.auth, .hello, .agree], (((withCtl (onLink { adm := some { stage := st } }) 7 (helloBytes hello)).takeCtl 0 none 7 (helloBytes hello)).map
      fun v => v.admLate { stage := st }) = some false) := by decide +kernel
theorem witness_Lanes_fenced :
    (let s := onPort (lanesIn .fenced)
     (s.port 0).lanes[(8 : LaneId)].state = .fenced ∧ (s.port 0).isUp = false) ∧
    (let s := onPort { lanesIn .fenced with native := { state := .up } }
     (s.port 0).lanes[(8 : LaneId)].state = .fenced ∧ (s.port 0).isUp = true) ∧
    (let s := onPort (lanesIn .qualify)
     (s.port 0).lanes[(8 : LaneId)].state = .qualify ∧ (s.port 0).isUp = false) := by decide +kernel
theorem witness_LinkRestart :
    (let s := onLink { state := .admitted, rxSeq := 5 }
     (s.linkRestart 0 none).linkUp 0 none = true) ∧
    (let s := onLink { state := .admitted, rxSeq := 5, resetAt := [0, 0] }
     s.linkUp 0 none = true ∧ (s.linkRestart 0 none).linkUp 0 none = false) := by decide +kernel
theorem witness_PacketInject_units :
    (let s : State := { onPart activePart with ioQueue := [(.port 0, { wrPkt with dst := 6 })] }
     (∀ t, InjectAt.port 0 ≠ .tile t) ∧ (s.ioQueue.find? fun x => x.1 = .port 0) = some (.port 0, { wrPkt with dst := 6 }) ∧
     (s.ioTarget (srcEast (.port 0)) { wrPkt with dst := 6 }).isSome = true ∧ InjectAt.port 0 ≠ .pintle) ∧
    ({ wrPkt with dst := 6 } : Packet).mcast = false ∧
    (∀ x ∈ ({ State.reset with mgmtOut := [(0x1400, 2000000)], count := 2000000 } : State).mgmtOut, (2000000 : Nat) ≤ x.2) := by
  refine ⟨⟨fun t h => (by cases h), by decide +kernel, by decide +kernel, fun h => (by cases h)⟩, by decide +kernel, by decide +kernel⟩
theorem witness_MsgSendAllot :
    (let x : Slot := { slot0 (msgDesc 3) with started := true }
     let s := msgState x { role := 1, state := chOpen, ringLog2 := 9 }
     let rc := s.readCheck t0 4 [(x.f 8 8, 8 * x.f 21 1)]
     s.jobTime 0 ≤ x.deadline ∧ s.tileLive t0 = true ∧ rc.waits = false ∧ rc.block = none ∧ (s.tile t0).tagFree .msg x = true ∧
     (s.tile t0).ward.twin = false ∧ (s.tile (twinOf t0)).ward.twin = false ∧ s.ownsEnd t0 (x.f 4 4) = true) ∧
    (let x : Slot := { slot0 (msgDesc 3) with started := true }
     let s : State := { msgState x { role := 1, state := chOpen, ringLog2 := 9 } with count := 1 }
     ((s.tile t0).sending.find? fun y => y.allot.isNone && y.f 4 4 = 7) = some x ∧ (x.deadline : Int) < s.jobTime 0) ∧
    (let x : Slot := { slot0 (msgDesc 3) with started := true }
     let s := onBoth activePart { diagTile with msg := q1 x, ward := { diag := true, twin := true }, allots := [(x.ticket.toNat, (5, 6))] }
     ((s.tile t0).sending.find? fun y => y.allot.isNone && y.f 4 4 = 7) = some x ∧ (s.tile t0).ward.twin = true ∧
     kget x.ticket.toNat (s.tile t0).allots = some (5, 6) ∧ (s.readCheck t0 4 [(x.f 8 8, 8 * x.f 21 1)]).block = none) := by decide +kernel
theorem witness_HeldWrite_deadline :
    (let s := onBoth activePart (ringTile 0)
     s.heldLate t0 heldW = false) ∧
    (let s : State := { onBoth activePart (ringTile 0) with count := 2 ^ 40 }
     (s.tile t0).ingress[0]? = some heldW ∧ s.heldLate t0 heldW = true) := by decide +kernel
/-- The tile of `chanState` with a full ring over the scratchpad's first word, which the message unit produces. -/
def blockedChan (q : Packet) (e : Chan) : State :=
  (onTile { diagTile with arrivals := [q]
                          rings := (Vector.replicate 16 {}).set 0 { base := 0, slotWords := 1, slots := 1, prodEp := 4, consEp := 1, enabled := true, p := 1 } }).modChan 7 fun _ => e
theorem witness_StatusWord_blocked :
    (let e : Chan := { role := 2, state := chListen, peer := 3 }
     ((chanState (ctlPkt 1) e).tile t0).writeBlock 4 e.statusAddr.toNat 8 = none ∧
     ((blockedChan (ctlPkt 1) e).tile t0).writeBlock 4 e.statusAddr.toNat 8 ≠ none ∧ ctlPkt 1 ∈ ((blockedChan (ctlPkt 1) e).tile t0).arrivals ∧
     (blockedChan (ctlPkt 1) e).chan 7 = e) ∧
    (let e : Chan := { role := 2, state := chOpen, peer := 3 }
     ((chanState (ctlPkt 4) e).tile t0).writeBlock 4 e.statusAddr.toNat 8 = none ∧
     ((blockedChan (ctlPkt 4) e).tile t0).writeBlock 4 e.statusAddr.toNat 8 ≠ none ∧ (blockedChan (ctlPkt 4) e).chan 7 = e) ∧
    ((State.reset.tile (twinOf t0)).ward.twin = false ∧
      ((State.reset.setTile (twinOf t0) { ward := { twin := true } }).tile (twinOf t0)).ward.twin = true) := by decide +kernel
theorem witness_Resets_levels :
    (let s : State := { State.reset with boot := { phase := 2 } }
     s.boot.phase = 2 ∧ s.boot.resetDue = false ∧ s.boot.phase ≠ 0 ∧ s.power.cycleReq = false ∧ (s.tile t0).resetDue ≠ 2) ∧
    ((State.reset.tile t0).resetDue ≠ 2 ∧ State.reset.boot.phase ≠ 2 ∧ State.reset.boot.phase = 0) := by decide +kernel
theorem witness_StageReport :
    ioDieFails (quietReport true) = none ∧ ((starting 1).boot.stage = 1 ∧ (starting 1).boot.stage ≠ 0) ∧
    (let s := (starting 4).modPort 0 fun q => { q with mode := 3 }
     (s.port 0).mode ≠ 0 ∧ (s.port 0).isUp = false) ∧
    (let s := (starting 4).modPort 0 fun q => { q with mode := 3, native := { state := .up } }
     (s.port 0).isUp = true) := by decide +kernel
/-- A failing record of block 13 fails the attempt unless its address is an egress stage, which only the part can say. -/
theorem witness_StageReport_ioDie (b : BistRecord) (h : b.block = 13) (f : b.result = 1) :
    ioDieFails { quietReport true with bist := [b] } = some b ∨ (Config.ioDiePort b.addr).isSome = true := by
  cases e : Config.ioDiePort b.addr <;> simp_all [ioDieFails, failing]
theorem witness_ClearDefect_kinds :
    defect1.kind ≠ 6 ∧
    (let s : State := { serving with defects := [{ defect1 with kind := 6 }] }
     let r := rq 0 (List.replicate 8 0)
     takesB s 0x080A r = true ∧ (s.defects.find? fun d => d.seq.toNat = rf r 4 4 && s.defectActive d) = some { defect1 with kind := 6 }) := by decide +kernel
/-- A half-die that already has the state asked for turns no clock; one that turns is verified against the seam's margin, which only the part can say. -/
theorem witness_SpareHalfDies (s : State) (c : Nat) (hds : List Nat) :
    (serving.spareVerify 2 [15]).2 = true ∧ ((s.spareVerify c hds).2 = true ∨ (s.spareVerify c hds).2 = false) :=
  ⟨by decide +kernel, by cases (s.spareVerify c hds).2 <;> simp⟩
theorem witness_ScanToScratchpad :
    (let v := frozen0.tile t0
     (v.placeRun frozen0.member (frozen0.stepAt t0) 6 0 (List.replicate 64 7)).2 = none) ∧
    (let v : Tile := { frozen0.tile t0 with banks := (Vector.replicate 32 .on).set 0 .off }
     (v.placeRun frozen0.member (frozen0.stepAt t0) 6 0 (List.replicate 64 7)).2 = some 0) := by decide +kernel
theorem witness_BeatEvents_clearsRefusal :
    ((onPart { activePart with mapRefused := some 1 }).part 0).mapRefused.filter (fun b => decide (0 + 1 < b)) = none ∧
    ((onPart { activePart with mapRefused := some 2 }).part 0).mapRefused.filter (fun b => decide (0 + 1 < b)) = some 2 := by decide +kernel
/-- A seam that stands still for its re-alignment gives no credit. -/
theorem witness_PacketsMoveOneHop_paused :
    (let s : State := State.reset.modSeam 0 fun x => { x with pausedTill := 5 }
     (List.range 16).any (fun a => (List.range 16).any fun b => s.seamPaused a b) = true) ∧ State.reset.seamPaused 0 1 = false := by decide +kernel

end Sys2Proof.Tests
end

section
/-!
PROOFS. Coordinates of half-dies, physical tiles and logical positions (01: R16 to R18, R21, R22), and the settling of O56.

One idea carries the file: a half-die number is a numeral of mixed radix with the digits half (base 2), column (base W) and row of the C-die.
Tiles and logical positions both hold these digits, in nines and eights, so each is read back from the number once and for all here.
-/

namespace Sys2Proof.Proofs.Coordinates
open Sys2Proof.Machine

/-! The member's grid of C-dies (R16). -/

theorem w_pos (m : Member) : 0 < m.w := by cases m <;> decide

theorem w_le_four (m : Member) : m.w ≤ 4 := by cases m <;> decide

theorem h_le_two (m : Member) : m.h ≤ 2 := by cases m <;> decide

/-! The digits of a half-die number: `hd / 2 % W` is the column of its C-die, `hd / 2 / W` its row, `hd % 2` its half (R18). -/

theorem dieColumn_lt_w (m : Member) (hd : Nat) : hd / 2 % m.w < m.w := Nat.mod_lt _ (w_pos m)

theorem dieRow_lt_h {m : Member} {hd : Nat} (hhd : hd < m.halfDies) : hd / 2 / m.w < m.h := by
  have hdie : hd / 2 < m.w * m.h := by
    rw [Member.halfDies, Nat.mul_assoc] at hhd
    omega
  exact Nat.div_lt_of_lt_mul hdie

/-- The digits give the half-die number back. -/
theorem halfDie_of_digits (m : Member) (hd : Nat) : 2 * (m.w * (hd / 2 / m.w) + hd / 2 % m.w) + hd % 2 = hd := by
  rw [Nat.div_add_mod, Nat.div_add_mod]

section Number
variable {m : Member} {cx cy k : Nat}

theorem die_of_number (hk : k < 2) : (2 * (m.w * cy + cx) + k) / 2 = m.w * cy + cx := by omega

theorem half_of_number (hk : k < 2) : (2 * (m.w * cy + cx) + k) % 2 = k := by omega

theorem dieColumn_of_number (hcx : cx < m.w) (hk : k < 2) : (2 * (m.w * cy + cx) + k) / 2 % m.w = cx := by
  rw [die_of_number hk, Nat.mul_add_mod, Nat.mod_eq_of_lt hcx]

theorem dieRow_of_number (hcx : cx < m.w) (hk : k < 2) : (2 * (m.w * cy + cx) + k) / 2 / m.w = cy := by
  rw [die_of_number hk, Nat.mul_add_div (w_pos m), Nat.div_eq_of_lt hcx, Nat.add_zero]

theorem number_lt_halfDies (hcx : cx < m.w) (hcy : cy < m.h) (hk : k < 2) : 2 * (m.w * cy + cx) + k < m.halfDies := by
  have hdie : m.w * cy + cx < m.w * m.h :=
    calc m.w * cy + cx < m.w * cy + m.w := Nat.add_lt_add_left hcx _
      _ = m.w * (cy + 1) := rfl
      _ ≤ m.w * m.h := Nat.mul_le_mul_left _ hcy
  rw [Member.halfDies, Nat.mul_assoc]
  omega

end Number

/-! The half-die grid (R18). -/

theorem hdGrid_of_number {m : Member} {cx cy k : Nat} (hcx : cx < m.w) (hk : k < 2) :
    m.hdGrid (2 * (m.w * cy + cx) + k) = (cx, 2 * cy + k) := by
  rw [Member.hdGrid, dieColumn_of_number hcx hk, dieRow_of_number hcx hk, half_of_number hk]

theorem hdGrid_fst_lt (m : Member) (hd : Nat) : (m.hdGrid hd).1 < m.w := dieColumn_lt_w m hd

theorem hdGrid_snd_lt {m : Member} {hd : Nat} (hhd : hd < m.halfDies) : (m.hdGrid hd).2 < 2 * m.h := by
  have hrow := dieRow_lt_h hhd
  simp only [Member.hdGrid]
  omega

/-! Rows count the same way in both grids, 16 to a C-die and 8 to a half-die, so physical (R17) and logical rows (R21) share two facts. -/

theorem dieRow_of_row {y k r : Nat} (hk : k < 2) (hr : r < 8) : (16 * y + 8 * k + r) / 16 = y := by omega

theorem half_of_row {y k r : Nat} (hk : k < 2) (hr : r < 8) : (16 * y + 8 * k + r) / 8 % 2 = k := by omega

/-! Physical tiles: the coordinates of `tileAt` (R17) lie within the 6 and 5 bits of a tile, and hold its half-die, column and row. -/

section Tile
variable {m : Member} {hd c r : Nat}

theorem tileAt_px (hc : c < 9) : (m.tileAt hd c r).px.toNat = 9 * (hd / 2 % m.w) + c := by
  have hcol := dieColumn_lt_w m hd
  have hw := w_le_four m
  simp only [Member.tileAt, BitVec.toNat_ofNat]
  exact Nat.mod_eq_of_lt (by omega)

theorem tileAt_py (hhd : hd < m.halfDies) (hr : r < 8) :
    (m.tileAt hd c r).py.toNat = 16 * (hd / 2 / m.w) + 8 * (hd % 2) + r := by
  have hrow := dieRow_lt_h hhd
  have hh := h_le_two m
  simp only [Member.tileAt, BitVec.toNat_ofNat]
  exact Nat.mod_eq_of_lt (by omega)

theorem colOf_tileAt (hc : c < 9) : colOf (m.tileAt hd c r) = c := by
  rw [colOf, tileAt_px hc, Nat.mul_add_mod, Nat.mod_eq_of_lt hc]

theorem rowOf_tileAt (hhd : hd < m.halfDies) (hr : r < 8) : rowOf (m.tileAt hd c r) = r := by
  rw [rowOf, tileAt_py hhd hr]
  omega

theorem hdOf_tileAt (hhd : hd < m.halfDies) (hc : c < 9) (hr : r < 8) : m.hdOf (m.tileAt hd c r) = hd := by
  have hcol : (9 * (hd / 2 % m.w) + c) / 9 = hd / 2 % m.w := by omega
  have hk : hd % 2 < 2 := Nat.mod_lt _ Nat.two_pos
  rw [Member.hdOf, tileAt_px hc, tileAt_py hhd hr, hcol, dieRow_of_row hk hr, half_of_row hk hr, halfDie_of_digits]

end Tile

/-! Logical positions: the number of (lx, ly) gives both back (R22), and `nAt` is the number of a position of its half-die (R21). -/

section Position
variable {m : Member} {lx ly hd lc lr : Nat}

theorem lx_of_position (hlx : lx < m.gx) : m.lx (ly * m.gx + lx) = lx := by
  rw [Member.lx, Nat.mul_add_mod', Nat.mod_eq_of_lt hlx]

theorem ly_of_position (hlx : lx < m.gx) : m.ly (ly * m.gx + lx) = ly := by
  have hgx : 0 < m.gx := Nat.zero_lt_of_lt hlx
  rw [Member.ly, Nat.add_comm, Nat.add_mul_div_right _ _ hgx, Nat.div_eq_of_lt hlx, Nat.zero_add]

theorem nAt_eq_position : m.nAt hd lc lr = (16 * (hd / 2 / m.w) + 8 * (hd % 2) + lr) * m.gx + (8 * (hd / 2 % m.w) + lc) :=
  Nat.add_assoc _ _ _

theorem nAt_column_lt_gx (hlc : lc < 8) : 8 * (hd / 2 % m.w) + lc < m.gx := by
  have hcol := dieColumn_lt_w m hd
  rw [Member.gx]
  omega

theorem lx_nAt (hlc : lc < 8) : m.lx (m.nAt hd lc lr) = 8 * (hd / 2 % m.w) + lc := by
  rw [nAt_eq_position, lx_of_position (nAt_column_lt_gx hlc)]

theorem ly_nAt (hlc : lc < 8) : m.ly (m.nAt hd lc lr) = 16 * (hd / 2 / m.w) + 8 * (hd % 2) + lr := by
  rw [nAt_eq_position, ly_of_position (nAt_column_lt_gx hlc)]

theorem hdOfN_nAt (hlc : lc < 8) (hlr : lr < 8) : m.hdOfN (m.nAt hd lc lr) = hd := by
  have hcol : (8 * (hd / 2 % m.w) + lc) / 8 = hd / 2 % m.w := by omega
  have hk : hd % 2 < 2 := Nat.mod_lt _ Nat.two_pos
  rw [Member.hdOfN, lx_nAt hlc, ly_nAt hlc, hcol, dieRow_of_row hk hlr, half_of_row hk hlr, halfDie_of_digits]

theorem lx_nAt_mod (hlc : lc < 8) : m.lx (m.nAt hd lc lr) % 8 = lc := by
  rw [lx_nAt hlc, Nat.mul_add_mod, Nat.mod_eq_of_lt hlc]

theorem ly_nAt_mod (hlc : lc < 8) (hlr : lr < 8) : m.ly (m.nAt hd lc lr) % 8 = lr := by
  rw [ly_nAt hlc]
  omega

end Position

/-- Every tile of a half-die named by its digits: the coordinates of R17, and the half-die, column and row read back. -/
theorem tileAt_of_number {m : Member} {cx cy k c r : Nat} (hcx : cx < m.w) (hcy : cy < m.h) (hk : k < 2) (hc : c < 9) (hr : r < 8) :
    ∃ t, t = m.tileAt (2 * (m.w * cy + cx) + k) c r ∧ t.px.toNat = 9 * cx + c ∧ t.py.toNat = 16 * cy + 8 * k + r ∧
      m.hdOf t = 2 * (m.w * cy + cx) + k ∧ colOf t = c ∧ rowOf t = r := by
  have hhd := number_lt_halfDies hcx hcy hk
  refine ⟨_, rfl, ?px, ?py, hdOf_tileAt hhd hc hr, colOf_tileAt hc, rowOf_tileAt hhd hr⟩
  case px => rw [tileAt_px hc, dieColumn_of_number hcx hk]
  case py => rw [tileAt_py hhd hr, dieRow_of_number hcx hk, half_of_number hk]

/-- Settles O56 (R18 and R22, with the tiles of R17 and the positions of R21): each clause is read off the digits of the half-die number. -/
theorem coordinatesOfTilesAndPositions : Obligations.CoordinatesOfTilesAndPositions := by
  intro m
  refine ⟨m.w, m.h, rfl, rfl, ?zh8, ?zh4, ?zh2, ?number, ?grid, ?position, ?logical⟩
  case zh8 => rintro rfl; decide
  case zh4 => rintro rfl; decide
  case zh2 => rintro rfl; decide
  case number =>
    intro cx cy k hcx hcy hk
    exact ⟨number_lt_halfDies hcx hcy hk, hdGrid_of_number hcx hk, fun c r hc hr => tileAt_of_number hcx hcy hk hc hr⟩
  case grid => exact fun hd hhd => ⟨hdGrid_fst_lt m hd, hdGrid_snd_lt hhd⟩
  case position => exact fun lx ly hlx => ⟨lx_of_position hlx, ly_of_position hlx⟩
  case logical => exact fun hd lc lr _ hlc hlr => ⟨hdOfN_nAt hlc hlr, lx_nAt_mod hlc, ly_nAt_mod hlc hlr⟩

end Sys2Proof.Proofs.Coordinates
end

section
/-!
PROOFS. The facet key of a tensor and the counters of the rounding draws (03: R89, R90; 05: R139), and the settling of O57.

The rounding draws and the facet key take their words from one generator under one key. They stay apart by the counter: word c3 of a draw holds
16 bits of the step number, and the low half of its c1 a logical tile number, of which the largest member has 1,024.
-/

namespace Sys2Proof.Proofs.FacetKeys
open Sys2Proof.Machine

/-! The facet key (R139). -/

theorem facetKey_bounds (seed tid : Nat) : 2 ≤ facetKey seed tid ∧ facetKey seed tid < facetPrime := by
  have hp : 2 < facetPrime := by decide
  rw [facetKey]
  split
  next => exact ⟨Nat.le_refl 2, hp⟩
  next hx => exact ⟨Nat.le_of_not_lt hx, Nat.mod_lt _ (Nat.zero_lt_of_lt hp)⟩

/-- For a seed and a TID of their widths nothing is cut from the key and the counter. -/
theorem facetKey_words (seed : U64) (tid : U32) :
    ∃ q x, q = philox ⟨0, 0xffffffff, tid.toNat, 0x80000000⟩ (seed.toNat % 2 ^ 32) (seed.toNat / 2 ^ 32) ∧
      x = (q.c1 * 2 ^ 32 + q.c0) % facetPrime ∧ facetKey seed.toNat tid.toNat = (if x < 2 then 2 else x) := by
  have htid : tid.toNat % 2 ^ 32 = tid.toNat := Nat.mod_eq_of_lt tid.isLt
  have hseed : seed.toNat / 2 ^ 32 % 2 ^ 32 = seed.toNat / 2 ^ 32 := Nat.mod_eq_of_lt (Nat.div_lt_of_lt_mul seed.isLt)
  refine ⟨_, _, rfl, rfl, ?_⟩
  rw [facetKey, htid, hseed]

/-! The counter of a rounding draw (R89). -/

/-- The Philox counter of the draw at a rounding site and an element position (R89). -/
def drawCounter (d : Draw) (site pos : Nat) : Quad :=
  ⟨pos / 4 % 2 ^ 32, site % 2 ^ 16 * 2 ^ 16 + d.n % 2 ^ 16, d.step % 2 ^ 32, d.step / 2 ^ 32 % 2 ^ 16⟩

theorem drawWord_eq_philox_drawCounter (d : Draw) (site pos : Nat) :
    ∃ q, q = philox (drawCounter d site pos) (d.seed % 2 ^ 32) (d.seed / 2 ^ 32 % 2 ^ 32) ∧
      drawWord d site pos = (if pos % 4 = 0 then q.c0 else if pos % 4 = 1 then q.c1 else if pos % 4 = 2 then q.c2 else q.c3) := by
  refine ⟨_, rfl, ?_⟩
  rw [drawWord, drawCounter]
  split
  next h => rw [if_pos h]
  next h => simp only [h, Nat.one_ne_zero, if_false, if_true]
  next h => simp only [h, OfNat.ofNat_ne_zero, OfNat.ofNat_ne_one, if_false, if_true]
  next h0 h1 h2 => rw [if_neg h0, if_neg h1, if_neg h2]

theorem drawCounter_c3_lt (d : Draw) (site pos : Nat) : (drawCounter d site pos).c3 < 0x10000 := Nat.mod_lt _ (by decide)

theorem drawCounter_c1_low (d : Draw) (site pos : Nat) : (drawCounter d site pos).c1 % 2 ^ 16 = d.n % 2 ^ 16 := by
  rw [drawCounter, Nat.mul_add_mod', Nat.mod_mod]

/-- No member has more than 1,024 logical tiles (R16, R22). -/
theorem gx_mul_gy_le (m : Member) : m.gx * m.gy ≤ 0x0400 :=
  calc m.gx * m.gy ≤ (8 * 4) * (16 * 2) :=
        Nat.mul_le_mul (Nat.mul_le_mul_left 8 (Coordinates.w_le_four m)) (Nat.mul_le_mul_left 16 (Coordinates.h_le_two m))
    _ ≤ 0x0400 := by decide

theorem drawCounter_c1_low_lt {d : Draw} {m : Member} (site pos : Nat) (hn : d.n < m.gx * m.gy) :
    (drawCounter d site pos).c1 % 2 ^ 16 < 0x0400 := by
  rw [drawCounter_c1_low]
  exact (Nat.mod_le _ _).trans_lt (hn.trans_le (gx_mul_gy_le m))

/-- Settles O57 (R139): the key is read off the generator's words, and c3 and c1 of a draw's counter are bounded by what they hold. -/
theorem facetKeysAndRoundingCountersAreApart : Obligations.FacetKeysAndRoundingCountersAreApart := by
  refine ⟨by decide, ?key, ?draw⟩
  case key =>
    intro seed tid
    obtain ⟨q, x, hq, hx, hkey⟩ := facetKey_words seed tid
    exact ⟨q, x, hq, hx, hkey, facetKey_bounds seed.toNat tid.toNat⟩
  case draw =>
    intro d site pos
    have hc3 := drawCounter_c3_lt d site pos
    exact ⟨drawCounter d site pos, hc3, by omega, fun _ hn => drawCounter_c1_low_lt site pos hn, drawWord_eq_philox_drawCounter d site pos⟩

end Sys2Proof.Proofs.FacetKeys
end

section
/-!
PROOFS. Reduction records (05: R130 to R133), and the settling of O58.
-/

namespace Sys2Proof.Proofs.Records
open Sys2Proof.Machine

/-! Marking a record changes its flags and nothing else (R133). -/

section Marked
variable (r : Rec) (more : Nat)

@[simp] theorem marked_kind : (r.marked more).kind = r.kind := rfl
@[simp] theorem marked_count : (r.marked more).count = r.count := rfl
@[simp] theorem marked_a : (r.marked more).a = r.a := rfl
@[simp] theorem marked_b : (r.marked more).b = r.b := rfl
@[simp] theorem marked_fa : (r.marked more).fa = r.fa := rfl
@[simp] theorem marked_fb : (r.marked more).fb = r.fb := rfl

end Marked

/-! The merge of MEANVAR records (R132). -/

/-- The mean of two MEANVAR records together (R132). -/
def mergedMean (l r : Rec) : Val :=
  ffma (fsub (ofF32 r.a) (ofF32 l.a)) (fdiv (fp32Count r.count) (fp32Count (l.count + r.count))) (ofF32 l.a)

/-- The sum of squares about the mean of two MEANVAR records together (R132). -/
def mergedM2 (l r : Rec) : Val :=
  fadd (fadd (ofF32 l.b) (ofF32 r.b))
    (fmul (fmul (fsub (ofF32 r.a) (ofF32 l.a)) (fsub (ofF32 r.a) (ofF32 l.a)))
      (fmul (fp32Count l.count) (fdiv (fp32Count r.count) (fp32Count (l.count + r.count)))))

theorem combine_meanvar {l r : Rec} (hl : l.kind = 3) (hr : r.kind = 3) (hlc : l.count ≠ 0) (hrc : r.count ≠ 0) :
    l.combine r = (Rec.mk 3 (l.flags ||| r.flags) ((l.count + r.count) % 2 ^ 64) (toF32 (mergedMean l r)) (toF32 (mergedM2 l r)) 0 0).marked 0 := by
  have hkinds : ¬ l.kind ≠ r.kind := fun h => h (hl.trans hr.symm)
  rw [Rec.combine, if_neg hlc, if_neg hrc]
  dsimp only
  rw [if_neg hkinds, hl]
  rfl

/-- Settles O58 (R132): two non-empty records of KIND 3 reach the merge by Chan's formula, and marking leaves its fields. -/
theorem meanVarianceRecordsMerge : Obligations.MeanVarianceRecordsMerge := by
  rintro l r fl fr f d w mean m2 hl hr hlc hrc rfl rfl rfl rfl rfl rfl rfl
  rw [combine_meanvar hl hr hlc hrc]
  exact ⟨marked_kind _ _, marked_count _ _, marked_a _ _, marked_b _ _, marked_fa _ _, marked_fb _ _⟩

end Sys2Proof.Proofs.Records
end

section
/-!
PROOFS. Wards under a fault of a tile (17: R449, R450, with R259, R325, R355), and the settling of O43.

A fault of a tile writes one record into the tile's ward and may send it on as a NOTICE; all else it does (the clean bit, the latch of the job,
the count of records) leaves the wards alone. The record keeps the fields the detecting unit gave it.
-/

namespace Sys2Proof.Proofs.DroopLimit
open Sys2Proof.Machine

/-! What a record takes from the unit that detects the fault (R355). -/

section Record
variable (s : State) (pid : Option PartId) (n : Option Nat) (pcoord : U16) (a : FaultArgs)

@[simp] theorem mkRecord_cls : (s.mkRecord pid n pcoord a).cls = BitVec.ofNat 8 a.cls := by cases pid <;> rfl
@[simp] theorem mkRecord_unit : (s.mkRecord pid n pcoord a).unit = BitVec.ofNat 8 a.unit := by cases pid <;> rfl
@[simp] theorem mkRecord_pcoord : (s.mkRecord pid n pcoord a).pcoord = pcoord := by cases pid <;> rfl
@[simp] theorem mkRecord_addr : (s.mkRecord pid n pcoord a).addr = BitVec.ofNat 64 a.addr := by cases pid <;> rfl
@[simp] theorem mkRecord_bit : (s.mkRecord pid n pcoord a).bit = BitVec.ofNat 32 a.bit := by cases pid <;> rfl

end Record

/-! The latch of a job and the count of records leave every tile (R264, R266, R268, R271). -/

section Tiles
variable (s : State) (p : PartId) (x : TileId)

@[simp] theorem tile_foldl_sendLatch (links : List (PortId × Session)) (f : LatchFrame) :
    (links.foldl (fun s q => s.sendLatch q f) s).tile x = s.tile x := by
  induction links generalizing s with
  | nil => rfl
  | cons q links ih => exact ih (s.sendLatch q f)

@[simp] theorem tile_floodLatch (except : Option (PortId × Session)) (f : LatchFrame) : (s.floodLatch p except f).tile x = s.tile x := by
  unfold State.floodLatch
  split
  · rfl
  · exact tile_foldl_sendLatch s x _ f

@[simp] theorem tile_sendHalt (cls : Byte) (origin : U16) (except : Option (PortId × Session)) :
    (s.sendHalt p cls origin except).tile x = s.tile x := by
  simp only [State.sendHalt]
  split
  · rw [tile_floodLatch, State.tile_modPart]
  · rfl

@[simp] theorem tile_noteClear (cls : Byte) : (s.noteClear p cls).tile x = s.tile x := by
  simp only [State.noteClear]
  split
  · rfl
  · split
    · rw [tile_sendHalt, State.tile_modPart]
    · rfl
    · rw [State.tile_modPart]

@[simp] theorem tile_countFault (pid : Option PartId) : (s.countFault pid).tile x = s.tile x := by cases pid <;> rfl

@[simp] theorem tile_enter (q : Packet) (t : TileId) : (s.enter q t).tile x = s.tile x := rfl

end Tiles

/-! The wards under a fault of a tile (R259, R325). -/

section Wards
variable (s : State) (t x : TileId) (a : FaultArgs)

theorem ward_modTile {f : Tile → Tile} (hf : ∀ v, (f v).ward = v.ward) : ((s.modTile t f).tile x).ward = (s.tile x).ward := by
  by_cases hx : x = t
  · rw [hx, State.tile_modTile, hf]
  · rw [State.tile_modTile_ne s t x f hx]

@[simp] theorem ward_clearTile (cls : Byte) : ((s.clearTile t cls).tile x).ward = (s.tile x).ward := by
  simp only [State.clearTile]
  split
  · split
    · rw [tile_noteClear]
      exact ward_modTile s t x fun _ => rfl
    · exact ward_modTile s t x fun _ => rfl
  · exact ward_modTile s t x fun _ => rfl

theorem sendNotice_ward : ∃ sending num, ((s.sendNotice t).tile t).ward = { (s.tile t).ward with urgent := sending, sent := num } := by
  unfold State.sendNotice
  dsimp only
  split
  · split
    · exact ⟨_, _, rfl⟩
    · exact ⟨_, _, by rw [tile_enter, State.tile_modTile]⟩
  · exact ⟨_, _, rfl⟩

theorem tile_sendNotice_ne (hx : x ≠ t) : (s.sendNotice t).tile x = s.tile x := by
  unfold State.sendNotice
  dsimp only
  split
  · split
    · rfl
    · rw [tile_enter, State.tile_modTile_ne s t x _ hx]
  · rfl

/-- The record that the ward of a tile writes of a fault (R325, R355). -/
def faultRecord (s : State) (t : TileId) (a : FaultArgs) : FaultRec :=
  s.mkRecord (s.partOf t) (s.nOf t) (BitVec.ofNat 16 (t.px.toNat * 256 + t.py.toNat)) a

theorem tileRecord_eq : s.tileRecord t a =
    ((s.modTile t fun v => { v with ward := v.ward.push (faultRecord s t a) }).sendNotice t).countFault (s.partOf t) := rfl

theorem ward_tileFault : ((s.tileFault t a).tile x).ward = ((s.tileRecord t a).tile x).ward := by
  simp only [State.tileFault]
  split
  · exact ward_clearTile _ t x _
  · rfl

theorem tileFault_ward : ∃ sending num,
    ((s.tileFault t a).tile t).ward = { (s.tile t).ward.push (faultRecord s t a) with urgent := sending, sent := num } := by
  obtain ⟨sending, num, h⟩ := sendNotice_ward (s.modTile t fun v => { v with ward := v.ward.push (faultRecord s t a) }) t
  refine ⟨sending, num, ?_⟩
  rw [ward_tileFault, tileRecord_eq, tile_countFault, h, State.tile_modTile]

theorem ward_tileFault_ne (hx : x ≠ t) : ((s.tileFault t a).tile x).ward = (s.tile x).ward := by
  rw [ward_tileFault, tileRecord_eq, tile_countFault, tile_sendNotice_ne _ _ _ hx, State.tile_modTile_ne s t x _ hx]

theorem faultRecord_pcoord : (faultRecord s t a).pcoord.toNat = t.px.toNat * 256 + t.py.toNat := by
  have hx := t.px.isLt
  have hy := t.py.isLt
  rw [faultRecord, mkRecord_pcoord, BitVec.toNat_ofNat, Nat.mod_eq_of_lt (by omega)]

end Wards

/-! A droop of level 2 (R449, R450). -/

theorem low_toNat (d : Droop) (mv : U16) : (d.low mv).toNat = if d.stretching then min d.lowest.toNat mv.toNat else mv.toNat := by
  unfold Droop.low
  cases hs : d.stretching with
  | false => rfl
  | true =>
    by_cases hle : d.lowest.toNat ≤ mv.toNat
    · simp [hle]
    · simp [hle, Nat.le_of_not_le hle]

theorem droopEdges_le (s : State) (t : TileId) : s.droopEdges t ≤ 64 := Nat.min_le_left _ _

/-- What the tile's detector says of a droop of level 2. -/
def droopArgs (s : State) (t : TileId) (mv vnom : U16) (edges : Nat) : FaultArgs :=
  { cls := 0x12, addr := ((s.tile t).droop.low mv).toNat + 65536 * vnom.toNat, bit := edges }

section DroopLimit
variable (s : State) (t x : TileId) (mv vnom : U16) (edges : Nat)

theorem droopLimit_ward : ((s.droopLimit t mv vnom edges).tile x).ward = ((s.tileFault t (droopArgs s t mv vnom edges)).tile x).ward := by
  unfold State.droopLimit
  exact ward_modTile _ t x fun _ => rfl

theorem droopLimit_edges : ((s.droopLimit t mv vnom edges).tile t).droop.edges = edges := by
  simp only [State.droopLimit, State.tile_modTile]

theorem droopArgs_addr_lt : (droopArgs s t mv vnom edges).addr < 2 ^ 32 := by
  have hlow := ((s.tile t).droop.low mv).isLt
  have hvnom := vnom.isLt
  simp only [droopArgs]
  omega

theorem droopRecord_addr :
    (faultRecord s t (droopArgs s t mv vnom edges)).addr.toNat = ((s.tile t).droop.low mv).toNat + 2 ^ 16 * vnom.toNat := by
  have h := droopArgs_addr_lt s t mv vnom edges
  rw [faultRecord, mkRecord_addr, BitVec.toNat_ofNat, Nat.mod_eq_of_lt (by omega)]
  rfl

theorem droopRecord_bit (he : edges ≤ 64) : (faultRecord s t (droopArgs s t mv vnom edges)).bit.toNat = edges := by
  rw [faultRecord, mkRecord_bit, BitVec.toNat_ofNat]
  exact Nat.mod_eq_of_lt (show edges < 2 ^ 32 by omega)

end DroopLimit

/-- Both triggers of level 2 in one: a supply below V_nom less 9 %, or an event that reaches 64 edges (R449). -/
theorem exec_droopLevel2 {t : TileId} {mv vnom : U16} {s : State} (htile : s.hasTile t = true) (hon : s.diesOn = true)
    (htrigger : 100 * mv.toNat < 91 * vnom.toNat ∨ (s.tile t).droop.stretching = true) :
    ∃ edges ≤ 64, exec (.droopLevel2 t mv vnom) s = .next (s.droopLimit t mv vnom edges) := by
  have hexec : exec (.droopLevel2 t mv vnom) s = execDroopLevel2 t mv vnom s := rfl
  rw [hexec, execDroopLevel2, State.onPowered, if_pos htile, if_pos hon]
  by_cases hbelow : 100 * mv.toNat < 91 * vnom.toNat
  · exact ⟨s.droopEdges t, droopEdges_le s t, by rw [if_pos hbelow]⟩
  · exact ⟨64, le_rfl, by rw [if_neg hbelow, if_pos (htrigger.resolve_left hbelow)]⟩

/-- Settles O43 (R450): both triggers write the same record, and the supply, V_nom and the tile's coordinates fit the halves that hold them. -/
theorem droopLimitRecord : Obligations.DroopLimitRecord := by
  intro t mv vnom s htile hon htrigger
  obtain ⟨edges, hedges, hexec⟩ := exec_droopLevel2 htile hon htrigger
  have hlow := ((s.tile t).droop.low mv).isLt
  have hpy := t.py.isLt
  have hpcoord := faultRecord_pcoord s t (droopArgs s t mv vnom edges)
  have haddr := droopRecord_addr s t mv vnom edges
  refine ⟨_, faultRecord s t (droopArgs s t mv vnom edges), hexec, ?ward, ?others, mkRecord_cls .., mkRecord_unit .., ?px, ?py, ?low, ?vnom,
    ?bit, ?edges⟩
  case ward => rw [droopLimit_ward]; exact tileFault_ward s t _
  case others => intro x hx; rw [droopLimit_ward, ward_tileFault_ne s t x _ hx]
  case px => omega
  case py => omega
  case low => rw [haddr, ← low_toNat]; omega
  case vnom => omega
  case bit => rw [droopRecord_bit s t mv vnom edges hedges, droopLimit_edges]
  case edges => rw [droopLimit_edges]; exact hedges

end Sys2Proof.Proofs.DroopLimit
end

section
/-!
PROOFS. Monitoring over MCTP, I3C and PLDM (18: R468, R474 to R476), and the settling of O46.

A monitor's message acts only through a few writes: a message sent back, a reply or a signature queued in the security unit, an address taken, a
free value drawn. Each of these keeps `ReportsOnly`, which composes, so each command keeps it, whether or not its transport reaches the part.
-/

namespace Sys2Proof.Proofs.Monitoring
open Sys2Proof.Machine

/-- The second state has the fuses and the debug latch of the first, and differs from it at most in the rest of the security unit and in the
counters of free and random values (R474). -/
def ReportsOnly (s u : State) : Prop :=
  ∃ x n d, u = { s with sec := x, draws := n, drbg := d } ∧
    x.fusedSvn = s.sec.fusedSvn ∧ x.revoked = s.sec.revoked ∧ x.debug = s.sec.debug

namespace ReportsOnly

theorem refl (s : State) : ReportsOnly s s := ⟨s.sec, s.draws, s.drbg, rfl, rfl, rfl, rfl⟩

theorem trans {s u v : State} (hsu : ReportsOnly s u) (huv : ReportsOnly u v) : ReportsOnly s v := by
  obtain ⟨x, n, d, rfl, hsvn, hrevoked, hdebug⟩ := hsu
  obtain ⟨y, m, e, rfl, hsvn', hrevoked', hdebug'⟩ := huv
  exact ⟨y, m, e, rfl, hsvn'.trans hsvn, hrevoked'.trans hrevoked, hdebug'.trans hdebug⟩

end ReportsOnly

/-! What a monitor's message is made of (R468, R470, R475). -/

section Writes
variable (s : State) (tr : Transport) (msg : Bytes)

theorem sendOn_reportsOnly : ReportsOnly s (s.sendOn tr msg) := ⟨_, _, _, rfl, rfl, rfl, rfl⟩

theorem standardReply_reportsOnly (value : Bytes) : ReportsOnly s (s.standardReply tr msg value) := ⟨_, _, _, rfl, rfl, rfl, rfl⟩

theorem spdmReply_reportsOnly : ReportsOnly s (s.spdmReply tr msg).1 := ⟨_, _, _, rfl, rfl, rfl, rfl⟩

theorem eids_reportsOnly (eids : List (Nat × Byte)) : ReportsOnly s { s with sec := { s.sec with eids := eids } } :=
  ⟨_, _, _, rfl, rfl, rfl, rfl⟩

theorem i3cAddr_reportsOnly (addr : BitVec 7) : ReportsOnly s { s with sec := { s.sec with i3cAddr := addr, i3cAssigned := true } } :=
  ⟨_, _, _, rfl, rfl, rfl, rfl⟩

/-- The engine takes the signature at once where it makes none, and else holds it in the queue (R470). -/
theorem sign_reportsOnly (a : Attest) : ReportsOnly s (s.sign a) := by
  simp only [State.sign]
  split <;> exact ⟨_, _, _, rfl, rfl, rfl, rfl⟩

/-- SPDM over MCTP: refused in debug, queued for the engine where it is signed, and else answered at once (R468, R472). -/
theorem spdmMessage_reportsOnly : ReportsOnly s (s.spdmMessage tr msg) := by
  simp only [State.spdmMessage]
  split
  case isTrue =>
    split
    case isTrue => exact sendOn_reportsOnly ..
    case isFalse => exact sign_reportsOnly ..
  case isFalse => exact (spdmReply_reportsOnly s tr msg).trans (sendOn_reportsOnly ..)

end Writes

/-! The commands (R474 to R476). -/

/-- A message that does not reach the part changes nothing; one that does acts by `f` (R475). -/
theorem onTransport_reportsOnly {f : State → State} (tr : Transport) (s : State) (hf : ReportsOnly s (f s)) :
    ∃ u, s.onTransport tr f = .next u ∧ ReportsOnly s u := by
  refine ⟨_, rfl, ?_⟩
  split
  case isTrue => exact hf
  case isFalse => exact .refl s

section Commands
variable (tr : Transport) (msg : Bytes) (s : State)

theorem execSpdmMctp_reportsOnly : ∃ u, execSpdmMctp tr msg s = .next u ∧ ReportsOnly s u :=
  onTransport_reportsOnly tr s (spdmMessage_reportsOnly s tr msg)

theorem execMctpControl_reportsOnly : ∃ u, execMctpControl tr msg s = .next u ∧ ReportsOnly s u := by
  refine onTransport_reportsOnly tr s (.trans ?_ (standardReply_reportsOnly ..))
  split
  next e _ => exact eids_reportsOnly s _
  next => exact .refl s

theorem execI3cSetdasa_reportsOnly (static dynamic : BitVec 7) : ∃ u, execI3cSetdasa static dynamic s = .next u ∧ ReportsOnly s u := by
  refine onTransport_reportsOnly .i3c s ?_
  split
  case isTrue => exact i3cAddr_reportsOnly s dynamic
  case isFalse => exact .refl s

theorem execI3cEntdaa_reportsOnly (dynamic : BitVec 7) : ∃ u, execI3cEntdaa dynamic s = .next u ∧ ReportsOnly s u := by
  refine onTransport_reportsOnly .i3c s ?_
  split
  case isTrue => exact .refl s
  case isFalse => exact i3cAddr_reportsOnly s dynamic

/-- PLDM is answered and does nothing else: there are no effecters (R474). -/
theorem pldm_reportsOnly (request : Bytes) (value : State → Bytes) :
    ∃ u, s.onTransport tr (fun s => s.standardReply tr request (value s)) = .next u ∧ ReportsOnly s u :=
  onTransport_reportsOnly tr s (standardReply_reportsOnly ..)

end Commands

/-- Settles O46 (R474): each of the eight commands is one of the writes above, on a transport that may not reach the part. -/
theorem monitoringChangesNothingItDoesNotReport : Obligations.MonitoringChangesNothingItDoesNotReport := by
  intro c s hc
  have hreports : ∃ u, exec c s = .next u ∧ ReportsOnly s u := by
    rcases hc with ⟨tr, msg, rfl⟩ | ⟨tr, msg, rfl⟩ | ⟨tr, msg, rfl⟩ | ⟨tr, sensor, rfl⟩ | ⟨tr, sensor, rfl⟩ | ⟨tr, handle, rfl⟩ |
      ⟨static, dynamic, rfl⟩ | ⟨dynamic, rfl⟩
    · exact execMctpControl_reportsOnly tr msg s
    · exact execSpdmMctp_reportsOnly tr msg s
    · exact pldm_reportsOnly tr s msg fun _ => []
    · exact pldm_reportsOnly tr s _ fun s => s.sensorReading sensor false
    · exact pldm_reportsOnly tr s _ fun s => s.sensorReading sensor true
    · exact pldm_reportsOnly tr s _ fun _ => []
    · exact execI3cSetdasa_reportsOnly s static dynamic
    · exact execI3cEntdaa_reportsOnly s dynamic
  obtain ⟨u, hexec, x, n, d, rfl, hkept⟩ := hreports
  exact ⟨x, n, d, hexec, hkept⟩

end Sys2Proof.Proofs.Monitoring
end

section
/-!
PROOFS. Steps: the front of the queue, the idle tick, what every command keeps and where it goes on (00; 01: R16 to R18, R34; 02: R41;
13: R361), and the settling of O1 to O6.

Every command's work evolves the state (`Evolves`: the member and the queue stay, soundness is kept), so the statements about a step are read off
one dispatch over the commands. A second dispatch says where a command goes on: it tests the units it names before anything else.
-/

namespace Sys2Proof.Proofs.Steps
open Sys2Proof.Machine

/-! The front of the queue and the idle tick (R41). -/

theorem step_nil {s : State} (h : s.pending = []) : step s = .next s.tick := by rw [step, h]

theorem step_cons {s : State} {c : Instr} {rest : List Instr} (h : s.pending = c :: rest) :
    step s = exec c { s with pending := rest } := by rw [step, h]

/-- Settles O1: it is the second branch of the step. -/
theorem stepRunsTheFrontCommand : Obligations.StepRunsTheFrontCommand := fun _ _ _ => step_cons

/-- Settles O2 (R41): the tick counts while the PLL is locked. -/
theorem idleStepCountsOneCycle : Obligations.IdleStepCountsOneCycle := by
  constructor
  · intro s hqueue hlocked
    rw [step_nil hqueue, State.tick, if_pos hlocked]
  · intro s hqueue hunlocked
    rw [step_nil hqueue, State.tick, if_neg (ne_true_of_eq_false hunlocked)]

/-- Settles O3 (R34, R361): after reset every store is empty. -/
theorem resetStateIsSound : Obligations.ResetStateIsSound where
  tiles := rfl
  seams := rfl
  regions := rfl
  channels := rfl
  bindings := rfl
  rows := rfl
  dram := rfl
  flat := rfl
  inbox := Nat.zero_le _
  faultLog := Nat.zero_le _

/-! What every command keeps. -/

theorem exec_evolves (c : Instr) (s : State) : EvolvesO s (exec c s) :=
  match c with
  | .tbRefLoss => execTbRefLoss_ev (.refl s)
  | .tsyncOutPulse => execTsyncOutPulse_ev (.refl s)
  | .tsyncInEdge => execTsyncInEdge_ev (.refl s)
  | .beatBoundary p bad => execBeatBoundary_ev p bad (.refl s)
  | .beatDeadline p => execBeatDeadline_ev p (.refl s)
  | .stageVote p u ready marginPs => execStageVote_ev p u ready marginPs (.refl s)
  | .voteDeadline p => execVoteDeadline_ev p (.refl s)
  | .seamTransfer seam reverse word => execSeamTransfer_ev seam reverse word (.refl s)
  | .seamCorrectedLimit seam => execSeamCorrectedLimit_ev seam (.refl s)
  | .seqInstruction t ecc => execSeqInstruction_ev t ecc (.refl s)
  | .zqEnq t e rd rs1 ecc => execZqEnq_ev t e rd rs1 ecc (.refl s)
  | .zqWait t e rs1 => execZqWait_ev t e rs1 (.refl s)
  | .zqWaitRetire t => execZqWaitRetire_ev t (.refl s)
  | .zqPoll t e rd => execZqPoll_ev t e rd (.refl s)
  | .zqBwait t => execZqBwait_ev t (.refl s)
  | .zqBwaitRetire t => execZqBwaitRetire_ev t (.refl s)
  | .zqBsync t => execZqBsync_ev t (.refl s)
  | .zqBsyncRetire t => execZqBsyncRetire_ev t (.refl s)
  | .mxePassStart t => execMxePassStart_ev t (.refl s)
  | .mxeAttemptEnd t ecc => execMxeAttemptEnd_ev t ecc (.refl s)
  | .mxePassComplete t => execMxePassComplete_ev t (.refl s)
  | .vxeElementwise t ecc => execVxeElementwise_ev t ecc (.refl s)
  | .vxeReduce t ecc => execVxeReduce_ev t ecc (.refl s)
  | .vxeCombine t ecc => execVxeCombine_ev t ecc (.refl s)
  | .vxeFacet t ecc => execVxeFacet_ev t ecc (.refl s)
  | .vxeTopk t ecc => execVxeTopk_ev t ecc (.refl s)
  | .vxeComplete t => execVxeComplete_ev t (.refl s)
  | .dmaCopy t ecc => execDmaCopy_ev t ecc (.refl s)
  | .dmaConvert t ecc => execDmaConvert_ev t ecc (.refl s)
  | .dmaWopen t ecc => execDmaWopen_ev t ecc (.refl s)
  | .dmaWclose t => execDmaWclose_ev t (.refl s)
  | .dmaComplete t => execDmaComplete_ev t (.refl s)
  | .msgListen t => execMsgListen_ev t (.refl s)
  | .msgOpen t => execMsgOpen_ev t (.refl s)
  | .msgSend t => execMsgSend_ev t (.refl s)
  | .msgSendAllot t chan ecc => execMsgSendAllot_ev t chan ecc (.refl s)
  | .msgRelease t => execMsgRelease_ev t (.refl s)
  | .msgClose t => execMsgClose_ev t (.refl s)
  | .msgUnitComplete t => execMsgUnitComplete_ev t (.refl s)
  | .ringStallTimeout t index => execRingStallTimeout_ev t index (.refl s)
  | .ringHeldWriteAccept t index ecc => execRingHeldWriteAccept_ev t index ecc (.refl s)
  | .carrySaveOverdue p => execCarrySaveOverdue_ev p (.refl s)
  | .patrolScrub dpa loc ecc => execPatrolScrub_ev dpa loc ecc (.refl s)
  | .dramRowRepair stack => execDramRowRepair_ev stack (.refl s)
  | .regionZeroingDone region => execRegionZeroingDone_ev region (.refl s)
  | .bankDrainDone t d => execBankDrainDone_ev t d (.refl s)
  | .bankDrainTimeout t bank => execBankDrainTimeout_ev t bank (.refl s)
  | .bankClearDone t bank => execBankClearDone_ev t bank (.refl s)
  | .streamSlot t ecc badFlit => execStreamSlot_ev t ecc badFlit (.refl s)
  | .steerToken t su => execSteerToken_ev t su (.refl s)
  | .packetInject src => execPacketInject_ev src (.refl s)
  | .packetRoute index word => execPacketRoute_ev index word (.refl s)
  | .fencedRequestRelease t index => execFencedRequestRelease_ev t index (.refl s)
  | .replyTimeout t tag => execReplyTimeout_ev t tag (.refl s)
  | .mcastCreditTimeout index => execMcastCreditTimeout_ev index (.refl s)
  | .writeRequest t pkt ecc => execWriteRequest_ev t pkt ecc (.refl s)
  | .readRequest t pkt ecc => execReadRequest_ev t pkt ecc (.refl s)
  | .msgArrival dest pkt => execMsgArrival_ev dest pkt (.refl s)
  | .msgctlOpen dest pkt => execMsgctlOpen_ev dest pkt (.refl s)
  | .msgctlOpenAck dest pkt => execMsgctlOpenAck_ev dest pkt (.refl s)
  | .msgctlCredit dest pkt => execMsgctlCredit_ev dest pkt (.refl s)
  | .msgctlClose dest pkt => execMsgctlClose_ev dest pkt (.refl s)
  | .mgmtWr t pkt => execMgmtWr_ev t pkt (.refl s)
  | .mgmtRd t pkt => execMgmtRd_ev t pkt (.refl s)
  | .image t pkt => execImage_ev t pkt (.refl s)
  | .notice t => execNotice_ev t (.refl s)
  | .cmpl t pkt => execCmpl_ev t pkt (.refl s)
  | .cmplD t pkt ecc => execCmplD_ev t pkt ecc (.refl s)
  | .resend t => execResend_ev t (.refl s)
  | .latchSample r => execLatchSample_ev r (.refl s)
  | .partitionBitFormed p => execPartitionBitFormed_ev p (.refl s)
  | .gatherFrame p port f => execGatherFrame_ev p port f (.refl s)
  | .gatherDeadline p => execGatherDeadline_ev p (.refl s)
  | .breakFrame p port f => execBreakFrame_ev p port f (.refl s)
  | .breakCutoff p => execBreakCutoff_ev p (.refl s)
  | .haltFrame p port f => execHaltFrame_ev p port f (.refl s)
  | .outcomeFrame p f => execOutcomeFrame_ev p f (.refl s)
  | .shadowFrame p f => execShadowFrame_ev p f (.refl s)
  | .haspFrameReceive port sess frame fecOk => execHaspFrameReceive_ev port sess frame fecOk (.refl s)
  | .replayTimeout port sess => execReplayTimeout_ev port sess (.refl s)
  | .linkReset port sess => execLinkReset_ev port sess (.refl s)
  | .controlReset port => execControlReset_ev port (.refl s)
  | .replay port sess seq => execReplay_ev port sess seq (.refl s)
  | .nak port msg => execNak_ev port msg (.refl s)
  | .heartbeatSend port sess => execHeartbeatSend_ev port sess (.refl s)
  | .heartbeat port sess hb => execHeartbeat_ev port sess hb (.refl s)
  | .heartbeatMiss port sess => execHeartbeatMiss_ev port sess (.refl s)
  | .lane port failed atSeq ack => execLane_ev port failed atSeq ack (.refl s)
  | .laneSwap port => execLaneSwap_ev port (.refl s)
  | .hello port sess h => execHello_ev port sess h (.refl s)
  | .admitFragment port sess kind index last data => execAdmitFragment_ev port sess kind index last data (.refl s)
  | .credits port sess returns => execCredits_ev port sess returns (.refl s)
  | .laneTrainingDone port l aligned delays device => execLaneTrainingDone_ev port l aligned delays device (.refl s)
  | .laneQualifyWindow port passed noUncorrectable => execLaneQualifyWindow_ev port passed noUncorrectable (.refl s)
  | .laneMonitorWindow port overLimit => execLaneMonitorWindow_ev port overLimit (.refl s)
  | .laneLockLoss port l => execLaneLockLoss_ev port l (.refl s)
  | .linkDown port => execLinkDown_ev port (.refl s)
  | .syncExchange port sess t1 t2 t3 t4 => execSyncExchange_ev port sess t1 t2 t3 t4 (.refl s)
  | .admissionStageTimeout port sess => execAdmissionStageTimeout_ev port sess (.refl s)
  | .admissionRevoke port sess => execAdmissionRevoke_ev port sess (.refl s)
  | .serviceRequest port ipv6 addr binding request client payload => execServiceRequest_ev port ipv6 addr binding request client payload (.refl s)
  | .faultInboxDrain => execFaultInboxDrain_ev (.refl s)
  | .partitionRelease p => execPartitionRelease_ev p (.refl s)
  | .fastPathAbandon p => execFastPathAbandon_ev p (.refl s)
  | .inFieldTestDone t results => execInFieldTestDone_ev t results (.refl s)
  | .defectLogAppend => execDefectLogAppend_ev (.refl s)
  | .hangWindowExpiry t => execHangWindowExpiry_ev t (.refl s)
  | .quiescenceCheck p notIdle stillBusy => execQuiescenceCheck_ev p notIdle stillBusy (.refl s)
  | .tileReset t wardAnswers => execTileReset_ev t wardAnswers (.refl s)
  | .clusterReset t wardAnswers => execClusterReset_ev t wardAnswers (.refl s)
  | .partitionReset p inTime => execPartitionReset_ev p inTime (.refl s)
  | .deviceReset => execDeviceReset_ev (.refl s)
  | .powerCycleRequest => execPowerCycleRequest_ev (.refl s)
  | .watchdogExpiry => execWatchdogExpiry_ev (.refl s)
  | .startAttempt => execStartAttempt_ev (.refl s)
  | .startStageComplete r => execStartStageComplete_ev r (.refl s)
  | .startStageTimeout => execStartStageTimeout_ev (.refl s)
  | .linkStagePortTimeout port => execLinkStagePortTimeout_ev port (.refl s)
  | .broadcastDeadline t => execBroadcastDeadline_ev t (.refl s)
  | .resendRoundTimeout t => execResendRoundTimeout_ev t (.refl s)
  | .imageDigestCheck t => execImageDigestCheck_ev t (.refl s)
  | .loadStatusCheck => execLoadStatusCheck_ev (.refl s)
  | .knownAnswerDone failed => execKnownAnswerDone_ev failed (.refl s)
  | .ready => execReady_ev (.refl s)
  | .attemptFailed reason detail => execAttemptFailed_ev reason detail (.refl s)
  | .perst portB => execPerst_ev portB (.refl s)
  | .flr f => execFlr_ev f (.refl s)
  | .pcieLinkDown f => execPcieLinkDown_ev f (.refl s)
  | .bar2Read f offset len ecc => execBar2Read_ev f offset len ecc (.refl s)
  | .bar2Write f offset data => execBar2Write_ev f offset data (.refl s)
  | .a2CtlWrite f v => execA2CtlWrite_ev f v (.refl s)
  | .evCtlWrite f v => execEvCtlWrite_ev f v (.refl s)
  | .evTailWrite f v => execEvTailWrite_ev f v (.refl s)
  | .countLoRead f => execCountLoRead_ev f (.refl s)
  | .registerWrite f offset v => execRegisterWrite_ev f offset v (.refl s)
  | .mailboxPoll f m => execMailboxPoll_ev f m (.refl s)
  | .msixModerationExpiry f => execMsixModerationExpiry_ev f (.refl s)
  | .telemetryRewrite => execTelemetryRewrite_ev (.refl s)
  | .identify r => execIdentify_ev r (.refl s)
  | .setBifurcation r => execSetBifurcation_ev r (.refl s)
  | .partCreate r => execPartCreate_ev r (.refl s)
  | .partDestroy r => execPartDestroy_ev r (.refl s)
  | .partQuery r => execPartQuery_ev r (.refl s)
  | .partParams r => execPartParams_ev r (.refl s)
  | .regionState r => execRegionState_ev r (.refl s)
  | .bankPower r => execBankPower_ev r (.refl s)
  | .rowRepair r => execRowRepair_ev r (.refl s)
  | .channelRange r => execChannelRange_ev r (.refl s)
  | .flatSet r => execFlatSet_ev r (.refl s)
  | .windowRead r => execWindowRead_ev r (.refl s)
  | .progLoad r => execProgLoad_ev r (.refl s)
  | .progUnload r => execProgUnload_ev r (.refl s)
  | .jobStart r => execJobStart_ev r (.refl s)
  | .jobDrain r => execJobDrain_ev r (.refl s)
  | .jobAbandon r => execJobAbandon_ev r (.refl s)
  | .jobResume r => execJobResume_ev r (.refl s)
  | .dlistSet r => execDlistSet_ev r (.refl s)
  | .scan r => execScan_ev r (.refl s)
  | .apply r => execApply_ev r (.refl s)
  | .stageCancel r => execStageCancel_ev r (.refl s)
  | .stageRead r => execStageRead_ev r (.refl s)
  | .seamReset r => execSeamReset_ev r (.refl s)
  | .timeOffset r => execTimeOffset_ev r (.refl s)
  | .tsync r => execTsync_ev r (.refl s)
  | .manifestLoad r => execManifestLoad_ev r (.refl s)
  | .shadowSet r => execShadowSet_ev r (.refl s)
  | .shadowStop r => execShadowStop_ev r (.refl s)
  | .shadowRead r => execShadowRead_ev r (.refl s)
  | .promote r => execPromote_ev r (.refl s)
  | .insert r => execInsert_ev r (.refl s)
  | .portMode r => execPortMode_ev r (.refl s)
  | .portAssign r => execPortAssign_ev r (.refl s)
  | .exitTable r => execExitTable_ev r (.refl s)
  | .ethConfig r => execEthConfig_ev r (.refl s)
  | .ethPeer r => execEthPeer_ev r (.refl s)
  | .admitPort r => execAdmitPort_ev r (.refl s)
  | .remove r => execRemove_ev r (.refl s)
  | .portCaps r => execPortCaps_ev r (.refl s)
  | .portRead r => execPortRead_ev r (.refl s)
  | .faultLog r => execFaultLog_ev r (.refl s)
  | .stepLog r => execStepLog_ev r (.refl s)
  | .facetLog r => execFacetLog_ev r (.refl s)
  | .mapRead r => execMapRead_ev r (.refl s)
  | .seamRead r => execSeamRead_ev r (.refl s)
  | .counters r => execCounters_ev r (.refl s)
  | .recordRead r => execRecordRead_ev r (.refl s)
  | .test r => execTest_ev r (.refl s)
  | .fence r => execFence_ev r (.refl s)
  | .clearDefect r => execClearDefect_ev r (.refl s)
  | .reset r => execReset_ev r (.refl s)
  | .coldStart r => execColdStart_ev r (.refl s)
  | .startClear r => execStartClear_ev r (.refl s)
  | .powerState r => execPowerState_ev r (.refl s)
  | .capSet r => execCapSet_ev r (.refl s)
  | .energyRead r => execEnergyRead_ev r (.refl s)
  | .fwWrite r => execFwWrite_ev r (.refl s)
  | .fwCommit r => execFwCommit_ev r (.refl s)
  | .fwStatus r => execFwStatus_ev r (.refl s)
  | .spdm r => execSpdm_ev r (.refl s)
  | .adminSet r => execAdminSet_ev r (.refl s)
  | .telemetry r => execTelemetry_ev r (.refl s)
  | .svcBind r => execSvcBind_ev r (.refl s)
  | .svcUnbind r => execSvcUnbind_ev r (.refl s)
  | .svcClients r => execSvcClients_ev r (.refl s)
  | .svcStats r => execSvcStats_ev r (.refl s)
  | .inputSample r => execInputSample_ev r (.refl s)
  | .inputTransientExpiry => execInputTransientExpiry_ev (.refl s)
  | .converterStart => execConverterStart_ev (.refl s)
  | .droopLevel1 t mv => execDroopLevel1_ev t mv (.refl s)
  | .droopLevel2 t mv vnom => execDroopLevel2_ev t mv vnom (.refl s)
  | .marginMeasure t marginPs => execMarginMeasure_ev t marginPs (.refl s)
  | .capWindow watts inputW => execCapWindow_ev watts inputW (.refl s)
  | .headroomExhausted p => execHeadroomExhausted_ev p (.refl s)
  | .thermalSample x deciC => execThermalSample_ev x deciC (.refl s)
  | .coolantCheck flow inlet outlet => execCoolantCheck_ev flow inlet outlet (.refl s)
  | .idleExitDone hd => execIdleExitDone_ev hd (.refl s)
  | .debugUnlock token => execDebugUnlock_ev token (.refl s)
  | .attestationSignDone => execAttestationSignDone_ev (.refl s)
  | .spdmMctp tr msg => execSpdmMctp_ev tr msg (.refl s)
  | .mctpControl tr msg => execMctpControl_ev tr msg (.refl s)
  | .i3cSetdasa static dynamic => execI3cSetdasa_ev static dynamic (.refl s)
  | .i3cEntdaa dynamic => execI3cEntdaa_ev dynamic (.refl s)
  | .pldmType0 tr msg => execPldmType0_ev tr msg (.refl s)
  | .getSensorReading tr sensor => execGetSensorReading_ev tr sensor (.refl s)
  | .getStateSensorReadings tr sensor => execGetStateSensorReadings_ev tr sensor (.refl s)
  | .getPdr tr handle => execGetPdr_ev tr handle (.refl s)
  | .cblPrsntChange port present => execCblPrsntChange_ev port present (.refl s)
  | .cblSupplyOvercurrent port => execCblSupplyOvercurrent_ev port (.refl s)
  | .haspFrameSend port sess ecc => execHaspFrameSend_ev port sess ecc (.refl s)
  | .laneSignalDetect port l => execLaneSignalDetect_ev port l (.refl s)
  | .pcieLinkUp f gen => execPcieLinkUp_ev f gen (.refl s)
  | .droopStretchEnd t => execDroopStretchEnd_ev t (.refl s)
  | .hostReadCompletion f tag initiator data => execHostReadCompletion_ev f tag initiator data (.refl s)

/-- Taking a command from the queue changes no store. -/
theorem sound_of_pending {s : State} (h : s.Sound) (rest : List Instr) : ({ s with pending := rest } : State).Sound :=
  { tiles := h.tiles, seams := h.seams, regions := h.regions, channels := h.channels, bindings := h.bindings, rows := h.rows
    dram := h.dram, flat := h.flat, inbox := h.inbox, faultLog := h.faultLog }

/-- A step evolves the state whose front command is taken. -/
theorem step_evolves {s t : State} (h : step s = .next t) : Evolves { s with pending := s.pending.tail } t := by
  cases hqueue : s.pending with
  | nil =>
    rw [step_nil hqueue, Host.Outcome.next.injEq] at h
    subst h
    have hs : { s with pending := [] } = s := by rw [← hqueue]
    rw [List.tail_nil, hs]
    exact State.tick_ev (.refl s)
  | cons c rest =>
    rw [step_cons hqueue] at h
    exact (exec_evolves c _).out t h

/-- Settles O4 (R34, R361): a step is the work of one command, and every command's work keeps soundness. -/
theorem everyStepKeepsTheStateSound : Obligations.EveryStepKeepsTheStateSound :=
  fun _ _ hsound hstep => (step_evolves hstep).sound (sound_of_pending hsound _)

/-- Settles O5: no command's work touches the queue or the member. -/
theorem everyStepConsumesOneCommandAndKeepsTheMember : Obligations.EveryStepConsumesOneCommandAndKeepsTheMember :=
  fun _ _ hstep => ⟨(step_evolves hstep).pending, (step_evolves hstep).member⟩

/-! Where a command goes on. -/

/-- The outcome is a next state where the test holds, and the fault of a unit that is not fitted where it does not. -/
structure GoesOnWhere (test : Bool) (x : Host.Outcome State Fault Refusal) : Prop where
  next : test = true → ∃ t, x = .next t
  fault : test = false → x = .fault .noSuchUnit

namespace GoesOnWhere

theorem always (t : State) : GoesOnWhere true (.next t) := { next := fun _ => ⟨t, rfl⟩, fault := nofun }

theorem ofTest (test : Bool) (t : State) : GoesOnWhere test (if test then .next t else .fault .noSuchUnit) := by
  cases test with
  | true => exact always t
  | false => exact { next := nofun, fault := fun _ => rfl }

/-- A command that names a tile and no other unit. -/
theorem ofTile (s : State) (t : TileId) (u : State) : GoesOnWhere (s.hasTile t && true) (if s.hasTile t then .next u else .fault .noSuchUnit) := by
  rw [Bool.and_true]
  exact ofTest _ u

/-- A unit number below its bound, tested as such. -/
theorem ofLt (k n : Nat) (t : State) : GoesOnWhere (decide (k < n)) (if k < n then .next t else .fault .noSuchUnit) := by
  by_cases h : k < n
  · rw [if_pos h, decide_eq_true h]
    exact always t
  · rw [if_neg h, decide_eq_false h]
    exact ofTest false t

/-- A unit number below its bound, the other one tested first. -/
theorem ofLe (k n : Nat) (t : State) : GoesOnWhere (decide (k < n)) (if n ≤ k then .fault .noSuchUnit else .next t) := by
  have hflip : (if n ≤ k then Host.Outcome.fault Fault.noSuchUnit else .next t : Host.Outcome State Fault Refusal) =
      if k < n then .next t else .fault .noSuchUnit := by
    by_cases h : k < n
    · rw [if_pos h, if_neg (Nat.not_le_of_lt h)]
    · rw [if_neg h, if_pos (Nat.le_of_not_lt h)]
  rw [hflip]
  exact ofLt k n t

end GoesOnWhere

theorem exec_goesOnWhere (c : Instr) (s : State) : GoesOnWhere (s.fits c) (exec c s) := by
  cases c with
  | seamTransfer | seamCorrectedLimit => exact .ofTest _ _
  | patrolScrub | dramRowRepair | regionZeroingDone => exact .ofLe ..
  | idleExitDone => exact .ofLt ..
  | thermalSample x =>
    cases x with
    | halfDie => exact .ofTest _ _
    | ioDie => exact .always _
  | packetInject src =>
    cases src with
    | tile => exact .ofTile ..
    | _ => exact .always _
  | msgArrival d | msgctlOpen d | msgctlOpenAck d | msgctlCredit d | msgctlClose d =>
    cases d with
    | tile => exact .ofTile ..
    | port => exact .always _
  | seqInstruction | zqEnq | zqWait | zqWaitRetire | zqPoll | zqBwait | zqBwaitRetire | zqBsync | zqBsyncRetire | mxePassStart
  | mxeAttemptEnd | mxePassComplete | vxeElementwise | vxeReduce | vxeCombine | vxeFacet | vxeTopk | vxeComplete | dmaCopy
  | dmaConvert | dmaWopen | dmaWclose | dmaComplete | msgListen | msgOpen | msgSend | msgSendAllot | msgRelease | msgClose
  | msgUnitComplete | ringStallTimeout | ringHeldWriteAccept | bankDrainDone | bankDrainTimeout | bankClearDone | streamSlot
  | steerToken | fencedRequestRelease | replyTimeout | notice | cmplD | droopLevel1 | droopLevel2 | marginMeasure
  | droopStretchEnd | writeRequest | readRequest | mgmtWr | mgmtRd | image | cmpl | resend | inFieldTestDone | hangWindowExpiry
  | tileReset | clusterReset | broadcastDeadline | resendRoundTimeout | imageDigestCheck =>
    exact .ofTile ..
  | _ => exact .always _

/-- Settles O6 (R1): the units that a command names are tested first, and no command is refused. -/
theorem commandsGoOnExactlyWhereTheirUnitsAreFitted : Obligations.CommandsGoOnExactlyWhereTheirUnitsAreFitted :=
  fun c s => ⟨(exec_goesOnWhere c s).next, (exec_goesOnWhere c s).fault⟩

end Sys2Proof.Proofs.Steps
end

section
/-!
PROOFS. What the sequencer's instructions write (04: R92, R93, R97), and the settling of O15.

The opcode selects one branch of the execution; each lemma fixes a branch by the fields that select it.
-/

namespace Sys2Proof.Proofs.Instructions
open Sys2Proof.Machine

section Exec
variable {s : State} {t : TileId} {w len raw : Nat}

theorem seqExec_op_base (hop : bitsOf w 6 0 = 0x33) (hf7 : bitsOf w 31 25 = 0) :
    s.seqExec t w len raw = s.seqNext t len (bitsOf w 11 7)
      (aluOp (bitsOf w 14 12) false ((s.tile t).seq.x (bitsOf w 19 15)) ((s.tile t).seq.x (bitsOf w 24 20))) := by
  simp only [State.seqExec, hop, hf7, Nat.zero_ne_one, if_false, if_true]

theorem seqExec_sub (hop : bitsOf w 6 0 = 0x33) (hf3 : bitsOf w 14 12 = 0) (hf7 : bitsOf w 31 25 = 0x20) :
    s.seqExec t w len raw = s.seqNext t len (bitsOf w 11 7)
      ((s.tile t).seq.x (bitsOf w 19 15) - (s.tile t).seq.x (bitsOf w 24 20)) := by
  simp [State.seqExec, hop, hf3, hf7, aluOp]

theorem seqExec_mulDiv (hop : bitsOf w 6 0 = 0x33) (hf7 : bitsOf w 31 25 = 1) :
    s.seqExec t w len raw = s.seqNext t len (bitsOf w 11 7)
      (mulDiv (bitsOf w 14 12) ((s.tile t).seq.x (bitsOf w 19 15)) ((s.tile t).seq.x (bitsOf w 24 20))) := by
  simp only [State.seqExec, hop, hf7, if_true]

theorem seqExec_addi (hop : bitsOf w 6 0 = 0x13) (hf3 : bitsOf w 14 12 = 0) :
    s.seqExec t w len raw = s.seqNext t len (bitsOf w 11 7) ((s.tile t).seq.x (bitsOf w 19 15) + BitVec.ofInt 32 (immI w)) := by
  simp [State.seqExec, hop, hf3, aluOp]

theorem seqExec_lui (hop : bitsOf w 6 0 = 0x37) :
    s.seqExec t w len raw = s.seqNext t len (bitsOf w 11 7) (BitVec.ofNat 32 (bitsOf w 31 12 * 4096)) := by
  simp only [State.seqExec, hop]

theorem seqExec_jal (hop : bitsOf w 6 0 = 0x6F) :
    s.seqExec t w len raw = s.modSeq t fun v => { (v.setX (bitsOf w 11 7) (v.pc + BitVec.ofNat 32 len)) with
      pc := ((s.tile t).seq.pc + BitVec.ofInt 32 (immJ w)) &&& 0xFFFFFFFE } := by
  simp only [State.seqExec, hop]

theorem seqExec_beq (hop : bitsOf w 6 0 = 0x63) (hf3 : bitsOf w 14 12 = 0) :
    s.seqExec t w len raw =
      if (s.tile t).seq.x (bitsOf w 19 15) = (s.tile t).seq.x (bitsOf w 24 20) then
        s.modSeq t fun v => { v with pc := v.pc + BitVec.ofInt 32 (immB w) }
      else s.seqNext t len 0 0 := by
  by_cases heq : (s.tile t).seq.x (bitsOf w 19 15) = (s.tile t).seq.x (bitsOf w 24 20)
  · simp [State.seqExec, hop, hf3, branchTaken, heq]
  · simp [State.seqExec, hop, hf3, branchTaken, heq]

theorem seqExec_ecall : s.seqExec t 0x00000073 len raw = s.seqTrap t 11 0 := rfl

theorem seqExec_ebreak : s.seqExec t 0x00100073 len raw = s.seqTrap t 3 (s.tile t).seq.pc.toNat := rfl

theorem seqExec_mret : s.seqExec t 0x30200073 len raw = s.modSeq t Seq.mret := rfl

end Exec

/-- Settles O15 (R92, R93, R97): each clause is one branch of the execution. -/
theorem sequencerInstructionResults : Obligations.SequencerInstructionResults := by
  intro t w len raw s q rd a b
  refine ⟨?op, ?divu, ?addi, fun hop => seqExec_lui hop, fun hop => seqExec_jal hop, fun hop hf3 => seqExec_beq hop hf3, ?ecall, ?ebreak, ?mret⟩
  case op =>
    intro hop hf3
    refine ⟨fun hf7 => ?add, fun hf7 => seqExec_sub hop hf3 hf7, fun hf7 => ?mul⟩
    case add => rw [seqExec_op_base hop hf7, hf3]; rfl
    case mul => rw [seqExec_mulDiv hop hf7, hf3]; rfl
  case divu =>
    intro hop hf3 hf7
    rw [seqExec_mulDiv hop hf7, hf3]
    rfl
  case addi => exact fun hop hf3 => seqExec_addi hop hf3
  case ecall => rintro rfl; exact seqExec_ecall
  case ebreak =>
    rintro rfl
    simp only [seqExec_ebreak, State.seqTrap, State.modSeq, State.modTile_eq, Seq.trap, BitVec.ofNat_toNat, BitVec.setWidth_eq]
    rfl
  case mret => rintro rfl; exact seqExec_mret

end Sys2Proof.Proofs.Instructions
end

section
/-!
PROOFS. Gather values (10: R262), and the settling of O29.

A value is known by three numbers: its clean bit, its HOLD, and its rank, the pair of ORIGIN and CAUSE as one number. Combining takes the
conjunction, the maximum and the minimum of these, each of which is commutative and associative.
-/

namespace Sys2Proof.Proofs.GatherValues
open Sys2Proof.Machine

/-- ORIGIN and CAUSE as one number, by which the values are ordered. -/
def rank (v : GatherVal) : Nat := v.origin.toNat * 256 + v.cause.toNat

theorem eq_of_rank_eq {a b : GatherVal} (hclean : a.clean = b.clean) (hhold : a.hold.toNat = b.hold.toNat) (hrank : rank a = rank b) : a = b := by
  have ha := a.cause.isLt
  have hb := b.cause.isLt
  simp only [rank] at hrank
  have horigin : a.origin = b.origin := BitVec.eq_of_toNat_eq (by omega)
  have hcause : a.cause = b.cause := BitVec.eq_of_toNat_eq (by omega)
  cases a
  cases b
  simp_all [BitVec.toNat_inj]

/-- The test that decides whose cause and origin are taken compares the ranks. -/
theorem first_iff_rank_le (a b : GatherVal) :
    (a.origin.toNat < b.origin.toNat || (a.origin = b.origin && a.cause.toNat ≤ b.cause.toNat)) = true ↔ rank a ≤ rank b := by
  have ha := a.cause.isLt
  have hb := b.cause.isLt
  simp only [Bool.or_eq_true, Bool.and_eq_true, decide_eq_true_eq, rank, BitVec.toNat_inj.symm]
  omega

theorem combine_clean (a b : GatherVal) : (a.combine b).clean = (a.clean && b.clean) := rfl

theorem combine_hold (a b : GatherVal) : (a.combine b).hold.toNat = max a.hold.toNat b.hold.toNat := by
  show (holdMax a.hold b.hold).toNat = _
  unfold holdMax
  split <;> omega

theorem combine_origin (a b : GatherVal) : (a.combine b).origin = if rank a ≤ rank b then a.origin else b.origin :=
  if_congr (first_iff_rank_le a b) rfl rfl

theorem combine_cause (a b : GatherVal) : (a.combine b).cause = if rank a ≤ rank b then a.cause else b.cause :=
  if_congr (first_iff_rank_le a b) rfl rfl

theorem combine_rank (a b : GatherVal) : rank (a.combine b) = min (rank a) (rank b) := by
  rw [rank, combine_origin, combine_cause]
  by_cases h : rank a ≤ rank b
  · rw [if_pos h, if_pos h, Nat.min_eq_left h, rank]
  · rw [if_neg h, if_neg h, Nat.min_eq_right (Nat.le_of_not_le h), rank]

/-- A lower rank is a lower origin. -/
theorem combine_origin_min (a b : GatherVal) : (a.combine b).origin.toNat = min a.origin.toNat b.origin.toNat := by
  have ha := a.cause.isLt
  have hb := b.cause.isLt
  by_cases h : rank a ≤ rank b
  · rw [combine_origin, if_pos h]
    simp only [rank] at h
    omega
  · rw [combine_origin, if_neg h]
    simp only [rank] at h
    omega

theorem combine_comm (a b : GatherVal) : a.combine b = b.combine a := by
  apply eq_of_rank_eq
  · rw [combine_clean, combine_clean, Bool.and_comm]
  · rw [combine_hold, combine_hold, Nat.max_comm]
  · rw [combine_rank, combine_rank, Nat.min_comm]

theorem combine_assoc (a b c : GatherVal) : (a.combine b).combine c = a.combine (b.combine c) := by
  apply eq_of_rank_eq
  · simp only [combine_clean, Bool.and_assoc]
  · simp only [combine_hold, Nat.max_assoc]
  · simp only [combine_rank, Nat.min_assoc]

/-- The values met later may be swapped. -/
theorem combine_right_comm : RightCommutative GatherVal.combine :=
  ⟨fun a b c => by rw [combine_assoc, combine_comm b c, combine_assoc]⟩

/-- Settles O29 (R262). -/
theorem gatherValuesCombineInAnyOrder : Obligations.GatherValuesCombineInAnyOrder := by
  refine ⟨combine_comm, combine_assoc, fun a xs ys hperm => ?order, fun a b => ⟨combine_clean a b, combine_hold a b, combine_origin_min a b⟩⟩
  case order =>
    have := combine_right_comm
    exact hperm.foldl_eq a

end Sys2Proof.Proofs.GatherValues
end

section
/-!
PROOFS. Memories: device DRAM, the stores of a tile, and their uncorrectable words (04: R94; 06: R153, R154, R165, R166, R169; 14: R384), and the
settling of O59 and O60.
-/

namespace Sys2Proof.Proofs.Memories
open Sys2Proof.Machine

/-! A map in its canonical form is determined by what it reads. -/

section Maps
variable {α : Type}

theorem kget_eq_none_of_lt {k : Nat} {m : List (Nat × α)} (h : ∀ y ∈ m, k < y.1) : kget k m = none := by
  induction m with
  | nil => rfl
  | cons y m ih =>
    have hne : y.1 ≠ k := Nat.ne_of_gt (h y List.mem_cons_self)
    rw [kget_cons, if_neg hne]
    exact ih fun z hz => h z (List.mem_cons_of_mem _ hz)

theorem kget_head (k : Nat) (a : α) (m : List (Nat × α)) : kget k ((k, a) :: m) = some a := by rw [kget_cons, if_pos rfl]

theorem kget_tail {k j : Nat} (a : α) {m : List (Nat × α)} (h : ∀ y ∈ m, j < y.1) :
    kget k m = if k = j then none else kget k ((j, a) :: m) := by
  by_cases hk : k = j
  · rw [if_pos hk, hk, kget_eq_none_of_lt h]
  · rw [if_neg hk, kget_cons, if_neg (Ne.symm hk)]

theorem eq_of_kget_eq {m n : List (Nat × α)} (hm : kwf m = true) (hn : kwf n = true) (h : ∀ k, kget k m = kget k n) : m = n := by
  induction m generalizing n with
  | nil =>
    cases n with
    | nil => rfl
    | cons y n =>
      obtain ⟨j, b⟩ := y
      have hj := h j
      rw [kget_head] at hj
      exact absurd hj (by simp)
  | cons x m ih =>
    obtain ⟨i, a⟩ := x
    obtain ⟨him, hm⟩ := (kwf_cons _ _).1 hm
    cases n with
    | nil =>
      have hi := h i
      rw [kget_head] at hi
      exact absurd hi (by simp)
    | cons y n =>
      obtain ⟨j, b⟩ := y
      obtain ⟨hjn, hwf⟩ := (kwf_cons _ _).1 hn
      have hij : i = j := by
        rcases Nat.lt_trichotomy i j with hlt | heq | hgt
        · have hi := h i
          rw [kget_head, kget_eq_none_of_lt (m := (j, b) :: n) (List.forall_mem_cons.2 ⟨hlt, fun y hy => Nat.lt_trans hlt (hjn y hy)⟩)] at hi
          exact absurd hi (by simp)
        · exact heq
        · have hj := h j
          rw [kget_head, kget_eq_none_of_lt (m := (i, a) :: m) (List.forall_mem_cons.2 ⟨hgt, fun y hy => Nat.lt_trans hgt (him y hy)⟩)] at hj
          exact absurd hj (by simp)
      subst hij
      have hab : a = b := by
        have hi := h i
        rw [kget_head, kget_head] at hi
        exact Option.some.inj hi
      have htail : m = n := ih hm hwf fun k => by
        rw [kget_tail a him, kget_tail b hjn]
        exact congrArg (fun v => if k = i then none else v) (h k)
      rw [hab, htail]

end Maps

/-! Device DRAM (R165, R384). -/

/-- A byte that is listed is not the blank, so what a cell reads as tells whether it is listed. -/
theorem kget_eq_of_getD_eq {m n : List Host.Cell} (hm : Memory.wf (some 0) m = true) (hn : Memory.wf (some 0) n = true) {k : Nat}
    (h : (kget k m).getD 0 = (kget k n).getD 0) : kget k m = kget k n := by
  have nonzero : ∀ {l : List Host.Cell}, Memory.wf (some 0) l = true → kget k l ≠ some 0 := by
    intro l hl hget
    simp only [Memory.wf, Bool.and_eq_true, List.all_eq_true, decide_eq_true_eq] at hl
    obtain ⟨-, hl⟩ := hl
    induction l with
    | nil => exact nomatch hget
    | cons x l ih =>
      rw [kget_cons] at hget
      split at hget
      · exact hl x List.mem_cons_self hget.symm
      · exact ih hget fun y hy => hl y (List.mem_cons_of_mem _ hy)
  have hm0 := nonzero hm
  have hn0 := nonzero hn
  cases hkm : kget k m <;> cases hkn : kget k n <;> simp_all

theorem dram_eq_of_dramByte_eq {s u : State} (hs : Memory.wf (some 0) s.dram = true) (hu : Memory.wf (some 0) u.dram = true)
    (h : ∀ a, s.dramByte a = u.dramByte a) : s.dram = u.dram := by
  have keys : ∀ {l : List Host.Cell}, Memory.wf (some 0) l = true → kwf l = true := fun hl => (Bool.and_eq_true_iff.1 hl).1
  exact eq_of_kget_eq (keys hs) (keys hu) fun k => kget_eq_of_getD_eq hs hu (h k)

/-- Settles O59 (R154, R165, R166, R384). -/
theorem memoriesHoldWhatWasWritten : Obligations.MemoriesHoldWhatWasWritten := by
  refine ⟨fun s a bs hs => ?dram, fun s u => dram_eq_of_dramByte_eq, fun st key a bs hst => ?store, fun st key keep => ?forget⟩
  case dram =>
    exact ⟨fun i hi => s.dramByte_dramPut a bs i hi hs, fun b hb => s.dramByte_dramPut_other a b bs hb hs, s.wf_dramPut a bs hs⟩
  case store => exact ⟨st.get_put key a bs hst, st.get_put_other key a bs hst, st.wf_put a bs hst⟩
  case forget => exact ⟨st.wf_forget key keep, st.get_forget key keep⟩

/-! Uncorrectable words (R94, R153, R169). -/

@[simp] theorem upsetBytes_length (d k : Nat) : (upsetBytes d k).length = k := by rw [upsetBytes, List.length_map, List.length_range]

theorem upsetBytes_getElem (d k i : Nat) (h : i < (upsetBytes d k).length) : (upsetBytes d k)[i] = Config.upsetByte d i := by
  simp only [upsetBytes, List.getElem_map, List.getElem_range]

section Scratchpad
variable (s : State) (t : TileId) (a : BitVec 22) (syn : U16)

/-- The first byte of the ECC word that holds a scratchpad address (R94). -/
def wordOf : Nat := physAddr (s.tile t).carries (s.stepAt t) a.toNat / 8 * 8

theorem upset_scratchpad_spad :
    ((s.upset t (.scratchpad a syn)).tile t).spad = (s.tile t).spad.put (wordOf s t a) (upsetBytes s.draws 8) := by
  have htile : (s.upset t (.scratchpad a syn)).tile t =
      (s.modTile t fun v => { v with spad := v.spad.put (wordOf s t a) (upsetBytes s.draws 8) }).tile t := by
    simp only [State.upset, State.erasedEcc, wordOf]
    rfl
  rw [htile, State.tile_modTile]

theorem eccRead_scratchpad (eng slot pc : Nat) : s.eccRead t eng slot pc (.scratchpad a syn) = s.tileFault t
    { cls := 2, eng := eng, slot := slot, pc := pc, addr := physAddr (s.tile t).carries (s.stepAt t) a.toNat, bit := 0xFFFF0000 + syn.toNat } := by
  simp only [State.eccRead, State.erasedEcc, Nat.zero_mul, Nat.zero_add]

end Scratchpad

section Dram
variable (s : State) (t : TileId) (dpa : BitVec 42) (sym : BitVec 18)

theorem upset_dram : s.upset t (.dram dpa sym) = s.upsetDram dpa.toNat := rfl

theorem upsetDram_fitted {a : Nat} (h : a / 2 ^ 33 < s.member.regions) :
    s.upsetDram a = { (s.dramPut (a / 8 * 8) (upsetBytes s.draws 8)) with draws := s.draws + 1 } := if_pos h

theorem upsetDram_not_fitted {a : Nat} (h : s.member.regions ≤ a / 2 ^ 33) : s.upsetDram a = s := if_neg (Nat.not_lt_of_le h)

/-- A word that a controller with a pin erased cannot correct is uncorrectable (R169). -/
theorem erasedEcc_corrected_dram {pin : Fin 18} (herased : s.erasedSyms (s.dramLoc dpa.toNat) ≠ 0)
    (hpin : (s.erasedSyms (s.dramLoc dpa.toNat)).getLsbD pin.val = false) :
    s.erasedEcc (.corrected (.dram dpa pin)) =
      .dram dpa (BitVec.ofNat 18 (2 ^ pin.val) ||| s.erasedSyms (s.dramLoc dpa.toNat)) := by
  simp only [State.erasedEcc]
  rw [if_neg herased, if_neg (ne_true_of_eq_false hpin)]

end Dram

/-- Settles O60 (R6, R94, R153, R168, R169, R351). -/
theorem uncorrectableWordsReadAsFreeBytes : Obligations.UncorrectableWordsReadAsFreeBytes := by
  refine ⟨?scratchpad, ?dram, ?others⟩
  case scratchpad =>
    rintro t a syn s u w hwf rfl rfl
    have hspad := upset_scratchpad_spad s t a syn
    refine ⟨fun k i hi => ?word, fun k b hb => ?outside, ?frame, fun eng slot pc => eccRead_scratchpad s t a syn eng slot pc⟩
    case word =>
      rw [hspad]
      exact (Store.get_put _ _ _ _ hwf i (by rw [upsetBytes_length]; exact hi)).trans (upsetBytes_getElem ..)
    case outside =>
      rw [hspad]
      exact Store.get_put_other _ _ _ _ hwf b (by rw [upsetBytes_length]; exact hb)
    case frame =>
      rw [hspad]
      rfl
  case dram =>
    rintro t dpa sym s u w hwf rfl rfl
    rw [upset_dram]
    refine ⟨fun hfitted => ?fitted, fun hnot => upsetDram_not_fitted s hnot, fun _ _ _ => rfl⟩
    case fitted =>
      rw [upsetDram_fitted s hfitted]
      refine ⟨fun i hi => ?word, fun b hb => ?outside, rfl⟩
      case word =>
        exact (s.dramByte_dramPut _ _ i (by rw [upsetBytes_length]; exact hi) hwf).trans (upsetBytes_getElem ..)
      case outside => exact s.dramByte_dramPut_other _ b _ (by rw [upsetBytes_length]; exact hb) hwf
  case others =>
    intro t s
    refine ⟨rfl, rfl, fun w hw => ?corrected, ?erased⟩
    case corrected => rw [State.upset, hw]
    case erased =>
      rintro dpa pin m rfl herased hpin
      rw [State.upset, erasedEcc_corrected_dram s dpa herased hpin]
      rfl

end Sys2Proof.Proofs.Memories
end

section
/-!
PROOFS. Frames used throughout: a command of a fitted tile acts as its meaning says, and carrying the count forward (02: R41; log entry 4) leaves
everything else of the state.
-/

namespace Sys2Proof.Proofs.Frames
open Sys2Proof.Machine

/-! A command of a tile that the member carries. -/

section Fitted
variable {s : State} {t : TileId} (h : s.hasTile t = true) (f : State → State)
include h

theorem onTile_of_hasTile : s.onTile t f = .next (f s) := if_pos h

theorem onPowered_of_hasTile : s.onPowered t f = .next (if s.diesOn then f s else s) := if_pos h

end Fitted

/-! Carrying the count forward. -/

section Reach
variable (s : State) (c : Int) (p : PartId) (t : TileId) (x : Slot)

@[simp] theorem tile_reach : (s.reach c).tile t = s.tile t := by
  obtain ⟨n, h⟩ := s.reach_eq c
  rw [h]
  rfl

@[simp] theorem part_reach : (s.reach c).part p = s.part p := by
  obtain ⟨n, h⟩ := s.reach_eq c
  rw [h]
  rfl

@[simp] theorem member_reach : (s.reach c).member = s.member := by
  obtain ⟨n, h⟩ := s.reach_eq c
  rw [h]

@[simp] theorem tile_reachJob : (s.reachJob p c).tile t = s.tile t := tile_reach ..

@[simp] theorem tile_atWork (u : TileId) : (s.atWork t x).tile u = s.tile u := by
  obtain ⟨n, h⟩ := s.atWork_eq t x
  rw [h]
  rfl

@[simp] theorem part_atWork : (s.atWork t x).part p = s.part p := by
  obtain ⟨n, h⟩ := s.atWork_eq t x
  rw [h]
  rfl

@[simp] theorem partOf_atWork (u : TileId) : (s.atWork t x).partOf u = s.partOf u := by
  obtain ⟨n, h⟩ := s.atWork_eq t x
  rw [h]
  rfl

end Reach

end Sys2Proof.Proofs.Frames
end

section
/-!
PROOFS. The DMA engine's descriptors (06: R172 to R174, R176, R178), and the settling of O18.
-/

namespace Sys2Proof.Proofs.Dma
open Sys2Proof.Machine Frames

section Commands
variable {s : State} {t : TileId} (ecc : Ecc) (htile : s.hasTile t = true)
include htile

theorem exec_dmaCopy : exec (.dmaCopy t ecc) s = .next (s.dmaCommand t 1 ecc) := by
  show execDmaCopy t ecc s = _
  rw [execDmaCopy, onTile_of_hasTile htile]

theorem exec_dmaConvert : exec (.dmaConvert t ecc) s = .next (s.dmaCommand t 2 ecc) := by
  show execDmaConvert t ecc s = _
  rw [execDmaConvert, onTile_of_hasTile htile]

end Commands

/-! A descriptor alone in the queue (R174). -/

/-- Clean words charge no descriptor. -/
theorem dmaEcc_clean (s : State) (t : TileId) (op : Nat) : s.dmaEcc t op .clean = s := by
  unfold State.dmaEcc
  split <;> rfl

section Alone
variable {s : State} {t : TileId} {p : PartId} {x : Slot}

theorem slotOf_alone (hq : (s.tile t).dma.slots = [x]) : s.slotOf t .dma x.num = some x := by
  simp only [State.slotOf, Tile.q, hq, List.find?_cons, decide_true]

theorem dmaCommand_alone (op : Nat) (hq : (s.tile t).dma.slots = [x]) :
    s.dmaCommand t op .clean = { s.dmaSlot t op x.num with draws := (s.dmaSlot t op x.num).draws + 1 } := by
  have hfront : s.dmaFront t = [x.num] := by
    rw [State.dmaFront, hq]
    rfl
  simp only [State.dmaCommand, dmaEcc_clean, hfront, List.foldl_cons, List.foldl_nil]

/-- A fresh copy that may start is marked started, and its pieces move. -/
theorem dmaSlot_fresh_copy {num : Fin 8} (hslot : s.slotOf t .dma num = some x) (hp : s.partOf t = some p) (hfin : x.finished = false)
    (hstart : x.started = false) (hmay : s.mayStart t x (depEngOf .dma x.desc) (depTicketOf .dma x.desc) = true)
    (hop : ctrlBits x.desc 31 28 = 1) :
    s.dmaSlot t 1 num = State.dmaPieces t p num ((dmaArgs x.desc).total + 1)
      ((s.atWork t x).modSlot t .dma num fun y => { y with started := true }) := by
  have hidle : x.idle 1 = false := by simp [Slot.idle, hfin, hop]
  simp [State.dmaSlot, hslot, hp, hidle, hstart, hmay]

end Alone

/-! One piece of a copy within the scratchpad (R172). -/

section Piece
variable {s : State} {t : TileId} {p : PartId} {x : Slot} {g : DmaArgs} {k : Nat} {rc : ReadCheck} {w : Wrote}

/-- The tile as reading the piece leaves it: the ring slots read are noted. -/
def readNoted (v : Tile) (x : Slot) (rc : ReadCheck) : Tile :=
  v.modSlot .dma x.num fun y => { y with reads := (y.reads ++ rc.slots).eraseDups }

theorem dmaFetch_local {pos : Nat} (hssp : g.ssp = 0) (hrace : rangesMeet g.src g.len g.dst g.len = false)
    (hrc : s.readCheck t 3 [(g.src + pos, k)] = rc) (hwaits : rc.waits = false) (hblock : rc.block = none) (hoff : rc.off = none) :
    s.dmaFetch t p x g pos k = (s.setTile t (readNoted (s.tile t) x rc), .bytes ((List.range k).map fun i =>
      (s.tile t).byte s.member (tileKey t) (s.stepAt t) (g.src + pos + i))) := by
  simp only [State.dmaFetch, hssp, hrc, hwaits, hblock, hoff, hrace, Bool.and_false, Bool.false_eq_true, if_false, State.bankFault]
  rfl

theorem dmaStore_local {pos : Nat} {bs : Bytes} (hdsp : g.dsp = 0)
    (hclear : (s.tile t).clearing s.member (s.stepAt t) (g.dst + pos) bs.length = false)
    (hw : (s.tile t).writeRun s.member (s.stepAt t) 3 (g.dst + pos) bs = w) (hblock : w.block = none) (hrefused : w.refused = none) :
    s.dmaStore t p x g pos bs = (s.setTile t w.tile, w.count, true) := by
  simp only [State.dmaStore, hdsp, hclear, hw, hblock, hrefused, Bool.false_eq_true, if_false, State.bankFault]

end Piece

/-- Settles O18 (R172 to R174, R176, R178). -/
theorem dmaDescriptorsMoveTheirBytes : Obligations.DmaDescriptorsMoveTheirBytes := by
  refine ⟨fun t s ecc htile => ⟨?copy, ?convert⟩, ?fresh, ?piece, ?windows⟩
  case copy => exact exec_dmaCopy ecc htile
  case convert => exact exec_dmaConvert ecc htile
  case fresh =>
    intro t p s x htile hp hq hfin hstart hmay hop
    refine ⟨_, rfl, ?_⟩
    rw [exec_dmaCopy .clean htile, dmaCommand_alone 1 hq, dmaSlot_fresh_copy (slotOf_alone hq) hp hfin hstart hmay hop]
  case piece =>
    rintro t p s x num g k rc w hslot hg hop hssp hdsp hpos htag hrace hk hrc hwaits hblock hoff hclear hw hwblock hwrefused
    have hfetch := dmaFetch_local (p := p) (x := x) hssp hrace hrc hwaits hblock hoff
    have hstore := dmaStore_local (s := s.setTile t (readNoted (s.tile t) x rc)) (t := t) (p := p) (x := x) (w := w) hdsp
      (bs := (List.range k).map fun i => (s.tile t).byte s.member (tileKey t) (s.stepAt t) (g.src + x.pos + i))
      (by rw [State.tile_setTile, List.length_map, List.length_range]; exact hclear)
      (by rw [State.tile_setTile]; exact hw) hwblock hwrefused
    have hne : x.pos ≠ g.total := Nat.ne_of_lt hpos
    simp only [State.dmaPiece, hslot, hg, hne, if_false, htag, Bool.not_true, Bool.false_eq_true, hop, OfNat.one_ne_ofNat, hk, hfetch, hstore,
      if_true, State.modSlot, State.setTile_setTile, State.modTile_setTile]
  case windows =>
    intro t p s x htile hp
    refine ⟨fun hnext ecc => ?wopen, fun hnext => ?wclose, fun hhead hdone => ?complete⟩
    case wopen =>
      show execDmaWopen t ecc s = _
      simp only [execDmaWopen, onTile_of_hasTile htile, hnext, hp]
    case wclose =>
      show execDmaWclose t s = _
      simp only [execDmaWclose, onTile_of_hasTile htile, hnext, State.wcloseSlot, State.modTile_eq, tile_atWork]
    case complete =>
      show execDmaComplete t s = _
      simp only [execDmaComplete, onTile_of_hasTile htile, hhead, hdone, if_true]

end Sys2Proof.Proofs.Dma
end

section
/-!
PROOFS. Requests that arrive at a tile (06: R177; 08: R223), and the settling of O25.
-/

namespace Sys2Proof.Proofs.Requests
open Sys2Proof.Machine Frames

/-! A packet of the right kind at a fitted tile is taken and processed (R226). -/

/-- The tile with a packet taken from those that wait at it. -/
def taken (v : Tile) (q : Packet) : Tile := { v with arrivals := v.arrivals.erase q }

/-- The state with a packet taken from those that wait at a tile. -/
def received (s : State) (t : TileId) (q : Packet) : State := s.setTile t (taken (s.tile t) q)

theorem tile_received (s : State) (t : TileId) (q : Packet) : (received s t q).tile t = taken (s.tile t) q := State.tile_setTile ..

theorem atArrival_tile {s : State} {t : TileId} {q : Packet} {ok : Bool} (f : State → State) (htile : s.hasTile t = true)
    (hq : q ∈ (s.tile t).arrivals) (hstale : s.genStale (.tile t) q = false) (hok : ok = true) :
    s.atArrival (.tile t) q ok f = .next (f (received s t q)) := by
  have hwaits : s.waitsAt (.tile t) q = true := List.contains_iff_mem.2 hq
  simp only [State.atArrival, State.atEnd, onTile_of_hasTile htile, hwaits, hstale, hok, Bool.and_self, if_true, Bool.false_eq_true, if_false]
  rfl

/-! The checks of a window (R177). -/

section Window
variable {w : Window} {q : Packet} {write : Bool} {len : Nat}

theorem check_refused (h : w.isOpen = false ∨ w.shut = true ∨ bitAt w.flags.toNat (if write then 0 else 1) = false ∨
      64 * w.size64.toNat < q.addr.toNat % 2 ^ 60 + len) :
    w.check q write len = (some stWindow, w.base.toNat + q.addr.toNat % 2 ^ 60) := by
  unfold Window.check
  rcases h with h | h | h | h
  · simp [h]
  · simp [h]
  · simp [h]
  · have hrange := decide_eq_false (Nat.not_le_of_lt h)
    simp only [hrange, Bool.and_false, Bool.false_eq_true, if_false]

end Window

/-! Banks (R180 to R182): where every bank of a range is on, none is met in another state. -/

theorem bankHit_of_on {v : Tile} {m : Member} {step a k : Nat} {bad : BankPower → Bool} (hbad : bad .on = false)
    (hon : ∀ x ∈ wordStarts a k, v.bankAt m (physAddr v.carries step x) = .on) : v.bankHit m step bad a k = none := by
  simp only [Tile.bankHit, List.find?_eq_none, List.mem_map]
  rintro _ ⟨x, hx, rfl⟩
  rw [hon x hx, hbad]
  exact Bool.false_ne_true

/-! A WRITE (R177, R223). -/

section Write
variable {s : State} {t : TileId} {q : Packet} {w : Window} {a : Nat} {p : PartId}

theorem writeWaits_stack (hdram : isDramReq q = true) : s.writeWaits t q = false := by
  simp [State.writeWaits, State.ringFull, hdram]

theorem writeArrives_stack (ecc : Ecc) (hdram : isDramReq q = true) (hp : pktPart q = some p) :
    s.writeArrives t q ecc = if s.rangeOn p q.addr.toNat q.payload.length then (s.partWrite p q.addr.toNat q.payload).reply t q stOk [] false
      else s.reply t q stRegionOff [] false := by
  simp only [State.writeArrives, hdram, if_true, hp]

theorem writeWaits_refused {st b : Nat} (hw : (s.tile t).window (bitsOf q.addr.toNat 63 60) = w)
    (hcheck : w.check q true q.payload.length = (some st, b)) : s.writeWaits t q = false := by
  simp [State.writeWaits, State.ringFull, hw, hcheck]

theorem writeArrives_refused {st b : Nat} (ecc : Ecc) (hw : (s.tile t).window (bitsOf q.addr.toNat 63 60) = w) (hdram : isDramReq q = false)
    (hcheck : w.check q true q.payload.length = (some st, b)) : s.writeArrives t q ecc = s.windowRefuse t q st := by
  simp only [State.writeArrives, hdram, Bool.false_eq_true, if_false, hw, hcheck]

theorem writeArrives_spad (ecc : Ecc) (hw : (s.tile t).window (bitsOf q.addr.toNat 63 60) = w) (hdram : isDramReq q = false)
    (hkind : w.kind = 0) (hcheck : w.check q true q.payload.length = (none, a)) : s.writeArrives t q ecc = s.writeSpad t q a ecc := by
  simp only [State.writeArrives, hdram, Bool.false_eq_true, if_false, hw, hcheck, hkind, if_true]

/-- Where the banks are on, the rings decide (R161). -/
theorem writeSpad_on {r : Wrote} (hon : ∀ x ∈ wordStarts a q.payload.length,
      (s.tile t).bankAt s.member (physAddr (s.tile t).carries (s.stepAt t) x) = .on)
    (hr : (s.tile t).writeRun s.member (s.stepAt t) 3 a q.payload = r) :
    (r.block = none → s.writeSpad t q a .clean = (s.setTile t r.tile).reply t q stOk [] false) ∧
    (∀ i b, r.block = some (i, b) → s.writeSpad t q a .clean = s.setTile t { r.tile with
      ingress := r.tile.ingress ++ [{
        pkt := { q with payload := q.payload.drop r.count }, ring := i, addr := BitVec.ofNat 22 (a + r.count), began := s.beatAt t }] }) := by
  simp only [State.writeSpad]
  rw [bankHit_of_on ?draining hon, bankHit_of_on ?writes hon]
  case draining | writes => rfl
  simp only [Option.isSome_none, Bool.false_eq_true, if_false, State.upset_clean, State.eccRead_clean, hr]
  exact ⟨fun hblock => by rw [hblock], fun i b hblock => by rw [hblock]⟩

theorem writeWaits_dram (hw : (s.tile t).window (bitsOf q.addr.toNat 63 60) = w) (hkind : w.kind = 1) : s.writeWaits t q = false := by
  simp [State.writeWaits, State.ringFull, hw, hkind]

theorem writeArrives_dram (ecc : Ecc) (hw : (s.tile t).window (bitsOf q.addr.toNat 63 60) = w) (hdram : isDramReq q = false)
    (hkind : w.kind = 1) (hcheck : w.check q true q.payload.length = (none, a)) (hp : s.partOf t = some p)
    (hon : s.rangeOn p a q.payload.length = true) (hfree : (s.part p).commitBlocked a q.payload.length = false) :
    s.writeArrives t q ecc = (s.tileDramPut t p a q.payload).reply t q stOk [] false := by
  have hkind0 : ¬ w.kind = 0 := by rw [hkind]; decide
  simp only [State.writeArrives, hdram, Bool.false_eq_true, if_false, hw, hcheck, hkind0, hp, hon, hfree, if_true]

end Write

/-! A READ (R177, R223). -/

section Read
variable {s : State} {t : TileId} {q : Packet} {w : Window} {a : Nat} {p : PartId}

theorem readWaits_stack (hdram : isDramReq q = true) : s.readWaits t q = false := by
  simp [State.readWaits, hdram]

theorem readArrives_stack_on (hdram : isDramReq q = true) (hp : pktPart q = some p) (hon : s.rangeOn p q.addr.toNat q.len.toNat = true)
    (hecc : s.retiredEcc p q.addr.toNat q.len.toNat .clean = .clean) :
    s.readArrives t q .clean = s.reply t q stOk (s.partRead p q.addr.toNat q.len.toNat) false := by
  simp only [State.readArrives, hdram, if_true, hp, hon, hecc]
  rfl

theorem readArrives_stack_off (hdram : isDramReq q = true) (hp : pktPart q = some p) (hoff : s.rangeOn p q.addr.toNat q.len.toNat = false) :
    s.readArrives t q .clean = s.reply t q stRegionOff [] false := by
  simp only [State.readArrives, hdram, if_true, hp, hoff, Bool.false_eq_true, if_false]

theorem readWaits_refused {st b : Nat} (hw : (s.tile t).window (bitsOf q.addr.toNat 63 60) = w)
    (hcheck : w.check q false q.len.toNat = (some st, b)) : s.readWaits t q = false := by
  simp [State.readWaits, hw, hcheck]

theorem readArrives_refused {st b : Nat} (ecc : Ecc) (hw : (s.tile t).window (bitsOf q.addr.toNat 63 60) = w) (hdram : isDramReq q = false)
    (hcheck : w.check q false q.len.toNat = (some st, b)) : s.readArrives t q ecc = s.windowRefuse t q st := by
  simp only [State.readArrives, hdram, Bool.false_eq_true, if_false, hw, hcheck]

theorem readArrives_spad (hw : (s.tile t).window (bitsOf q.addr.toNat 63 60) = w) (hdram : isDramReq q = false) (hkind : w.kind = 0)
    (hcheck : w.check q false q.len.toNat = (none, a))
    (hon : ∀ x ∈ wordStarts a q.len.toNat, (s.tile t).bankAt s.member (physAddr (s.tile t).carries (s.stepAt t) x) = .on) :
    s.readArrives t q .clean = s.reply t q stOk (s.spadRead t a q.len.toNat) false := by
  have hoff := bankHit_of_on (bad := fun b => decide (b = .off)) rfl hon
  simp only [State.readArrives, hdram, Bool.false_eq_true, if_false, hw, hcheck, hkind, if_true, hoff]
  rfl

theorem readWaits_dram (hw : (s.tile t).window (bitsOf q.addr.toNat 63 60) = w) (hkind : w.kind = 1) : s.readWaits t q = false := by
  simp [State.readWaits, hw, hkind]

theorem readArrives_dram (hw : (s.tile t).window (bitsOf q.addr.toNat 63 60) = w) (hdram : isDramReq q = false) (hkind : w.kind = 1)
    (hcheck : w.check q false q.len.toNat = (none, a)) (hp : s.partOf t = some p) (hon : s.rangeOn p a q.len.toNat = true)
    (hecc : s.retiredEcc p a q.len.toNat .clean = .clean) :
    s.readArrives t q .clean = s.reply t q stOk (s.partRead p a q.len.toNat) false := by
  have hkind0 : ¬ w.kind = 0 := by rw [hkind]; decide
  simp only [State.readArrives, hdram, Bool.false_eq_true, if_false, hw, hcheck, hkind0, hp, hon, hecc, if_true]
  rfl

end Read

/-! The commands. -/

section Commands
variable {s : State} {t : TileId} {q : Packet} (htile : s.hasTile t = true) (hq : q ∈ (s.tile t).arrivals)
  (hstale : s.genStale (.tile t) q = false)
include htile hq hstale

theorem exec_writeRequest (ecc : Ecc) (htype : q.type = 1) (hwaits : s.writeWaits t q = false) :
    exec (.writeRequest t q ecc) s = .next ((received s t q).writeArrives t q ecc) :=
  atArrival_tile (fun s => s.writeArrives t q ecc) htile hq hstale (by rw [htype, hwaits]; rfl)

theorem exec_readRequest (ecc : Ecc) (htype : q.type = 2) (hwaits : s.readWaits t q = false) :
    exec (.readRequest t q ecc) s = .next ((received s t q).readArrives t q ecc) :=
  atArrival_tile (fun s => s.readArrives t q ecc) htile hq hstale (by rw [htype, hwaits]; rfl)

end Commands

/-- Taking a packet leaves the windows of the tile. -/
theorem window_taken {s : State} {t : TileId} {q : Packet} {n : Nat} :
    ((received s t q).tile t).window n = (s.tile t).window n := by
  rw [tile_received]
  rfl

/-- Settles O25 (R177, R223). -/
theorem windowsAndStacksAnswerRequests : Obligations.WindowsAndStacksAnswerRequests := by
  rintro t q s u v htile hq hstale rfl rfl
  refine ⟨fun p ecc htype hdram hp => ⟨fun hon => ?writeOn, fun hoff => ?writeOff⟩,
    fun p htype hdram hp => ⟨fun hon hecc => ?readOn, fun hoff => ?readOff⟩, fun w hw hdram => ?window⟩
  case writeOn =>
    rw [exec_writeRequest htile hq hstale ecc htype (writeWaits_stack hdram), writeArrives_stack ecc hdram hp]
    exact congrArg _ (if_pos hon)
  case writeOff =>
    rw [exec_writeRequest htile hq hstale ecc htype (writeWaits_stack hdram), writeArrives_stack ecc hdram hp]
    exact congrArg _ (if_neg (ne_true_of_eq_false hoff))
  case readOn =>
    rw [exec_readRequest htile hq hstale .clean htype (readWaits_stack hdram), readArrives_stack_on (s := received s t q) hdram hp hon hecc]
    rfl
  case readOff =>
    rw [exec_readRequest htile hq hstale .clean htype (readWaits_stack hdram), readArrives_stack_off (s := received s t q) hdram hp hoff]
    rfl
  case window =>
    have hwin := (window_taken (s := s) (t := t) (q := q)).trans hw
    refine ⟨fun ecc htype hrefuse => ?writeRefused, fun ecc htype hrefuse => ?readRefused, fun a htype hkind hcheck hwaits hon => ?writeSpad,
      fun a htype hkind hcheck hwaits hon => ?readSpad, fun p a htype hkind hcheck hp hon hfree => ?writeDram,
      fun p a htype hkind hcheck hp hon hecc => ?readDram⟩
    case writeRefused =>
      have hcheck := check_refused (q := q) (write := true) hrefuse
      rw [exec_writeRequest htile hq hstale ecc htype (writeWaits_refused hw hcheck), writeArrives_refused ecc hwin hdram hcheck]
      rfl
    case readRefused =>
      have hcheck := check_refused (q := q) (write := false) hrefuse
      rw [exec_readRequest htile hq hstale ecc htype (readWaits_refused hw hcheck), readArrives_refused ecc hwin hdram hcheck]
      rfl
    case writeSpad =>
      have hbanks : ∀ x ∈ wordStarts a q.payload.length, ((received s t q).tile t).bankAt s.member
          (physAddr ((received s t q).tile t).carries (s.stepAt t) x) = .on := by
        rw [tile_received]
        exact hon
      have hrun : ((received s t q).tile t).writeRun s.member (s.stepAt t) 3 a q.payload =
          (taken (s.tile t) q).writeRun s.member (s.stepAt t) 3 a q.payload := by rw [tile_received]
      obtain ⟨hwritten, hheld⟩ := writeSpad_on (s := received s t q) hbanks hrun
      rw [exec_writeRequest htile hq hstale .clean htype hwaits, writeArrives_spad .clean hwin hdram hkind hcheck]
      exact ⟨fun hblock => congrArg _ (hwritten hblock), fun i b hblock => congrArg _ (hheld i b hblock)⟩
    case readSpad =>
      have hbanks : ∀ x ∈ wordStarts a q.len.toNat, ((received s t q).tile t).bankAt s.member
          (physAddr ((received s t q).tile t).carries (s.stepAt t) x) = .on := by
        rw [tile_received]
        exact hon
      have hread : (received s t q).spadRead t a q.len.toNat = s.spadRead t a q.len.toNat := by
        simp only [State.spadRead, tile_received]
        rfl
      rw [exec_readRequest htile hq hstale .clean htype hwaits, readArrives_spad hwin hdram hkind hcheck hbanks, hread]
      rfl
    case writeDram =>
      have htwin : ((received s t q).tile t).ward.twin = (s.tile t).ward.twin := by
        rw [tile_received]
        rfl
      rw [exec_writeRequest htile hq hstale .clean htype (writeWaits_dram hw hkind),
        writeArrives_dram .clean hwin hdram hkind hcheck hp hon hfree, State.tileDramPut, htwin]
      rfl
    case readDram =>
      rw [exec_readRequest htile hq hstale .clean htype (readWaits_dram hw hkind), readArrives_dram hwin hdram hkind hcheck hp hon hecc]
      rfl

end Sys2Proof.Proofs.Requests
end

section
/-!
PROOFS. How Pintle takes a mailbox command (15: R416; 16: R417 to R419, R433, R434), and the settling of O47.
-/

namespace Sys2Proof.Proofs.Mailbox
open Sys2Proof.Machine

section Command
variable {s : State} {op : Nat} {r : Req} (run : State → Req → Ans)

theorem mboxFree_of_unserved (h : s.boot.phase = 0 ∨ (s.mbox r.fn r.mbox).acceptSeq ≠ (s.mbox r.fn r.mbox).rspSeq) : s.mboxFree r = false := by
  unfold State.mboxFree
  rcases h with h | h
  · simp [h]
  · simp [h]

/-- A command whose partition an earlier one still holds is accepted and waits (R419). -/
theorem command_of_blocked {p : PartId} (hfree : s.mboxFree r = true) (hpart : (s.accept r).reqPart op r = some p)
    (hblocked : (s.accept r).blocked p = true) :
    s.command op r run = { s.accept r with waiters := (s.accept r).waiters ++ [
      { opcode := BitVec.ofNat 16 op, req := r, part := p, since := (s.accept r).now, queued := true }] } := by
  simp only [State.command, hfree, Bool.not_true, Bool.false_eq_true, if_false, hpart, hblocked, if_true]

/-- A command that no earlier one holds is accepted, and refused or run (R418). -/
theorem command_of_not_blocked (hfree : s.mboxFree r = true)
    (hblocked : ∀ p, (s.accept r).reqPart op r = some p → (s.accept r).blocked p = false) :
    s.command op r run = (s.accept r).runCommand op r run := by
  simp only [State.command, hfree, Bool.not_true, Bool.false_eq_true, if_false]
  split
  next p hp => rw [if_neg (ne_true_of_eq_false (hblocked p hp))]
  next => rfl

theorem runCommand_of_refusal {a : State} {st d : Nat} (h : a.refusal op r = some (st, d)) : a.runCommand op r run = a.respond r st d [] := by
  rw [State.runCommand, h]

end Command

/-! What an answer leaves in its mailbox (R416). -/

section Respond
variable (s : State) (r : Req) (st d : Nat) (body : Bytes)

theorem mbox_respond : (s.respond r st d body).mbox r.fn r.mbox = { s.mbox r.fn r.mbox with
    status := BitVec.ofNat 16 st, rspTag := r.tag, detail := BitVec.ofNat 16 d, response := body
    rspSeq := (s.mbox r.fn r.mbox).acceptSeq } := State.mbox_modMbox ..

theorem mbox_accept : (s.accept r).mbox r.fn r.mbox = { s.mbox r.fn r.mbox with acceptSeq := (s.mbox r.fn r.mbox).reqSeq } :=
  State.mbox_modMbox ..

end Respond

/-- Settles O47 (R416 to R419, R433, R434). -/
theorem commandsAreServedHeldOrRefused : Obligations.CommandsAreServedHeldOrRefused := by
  refine ⟨fun op r run s => ⟨State.command_off, mboxFree_of_unserved, ?blocked, ?refused, ?taken⟩,
    fun r s => ⟨rfl, rfl, rfl, rfl⟩, fun r s st d body => ?answer⟩
  case blocked =>
    rintro p a hfree rfl hpart hblocked
    exact command_of_blocked run hfree hpart hblocked
  case refused =>
    rintro a st d hfree rfl hblocked hrefusal
    rw [command_of_not_blocked run hfree hblocked, runCommand_of_refusal run hrefusal]
  case taken =>
    rintro a htakes ha
    rw [State.command_takes htakes ha]
    exact ⟨fun u st d body hrun => by rw [hrun, Ans.write], fun u hrun => by rw [hrun, Ans.write]⟩
  case answer =>
    rw [mbox_respond, mbox_accept]
    exact ⟨rfl, rfl, rfl, rfl, rfl⟩

end Sys2Proof.Proofs.Mailbox
end

section
/-!
PROOFS. The commands marked S (16: R428, R429, R435), and the settling of O49.

Every such command ends in `State.staged`, which records a change, keeps it for a beat, or answers BUSY. Each command's own lemma says that its
checks refuse nothing; what `State.staged` does with a change that nothing refuses is said once.
-/

namespace Sys2Proof.Proofs.Staging
open Sys2Proof.Machine

/-! What becomes of a change that nothing refuses (R428, R429, R435). -/

section Staged
variable {a : State} {op : Nat} {r : Req} {p : PartId}

/-- The change that a command asks for. -/
def changeOf (op : Nat) (r : Req) : Change := { opcode := BitVec.ofNat 16 op, req := r }

theorem staged_of_stage (hstage : bitAt r.flags.toNat 0 = true) : a.staged op r p none = a.stageChange op r p := if_pos hstage

theorem staged_recorded (hstage : bitAt r.flags.toNat 0 = true) (hfree : (a.part p).apply = none)
    (hroom : (recordChange (changeOf op r) (a.part p).pending).length ≤ 256) :
    (a.staged op r p none).write r =
      (a.modPart p fun q => { q with pending := recordChange (changeOf op r) q.pending }).respond r 0 0 [] := by
  have happly : ¬ (a.part p).apply.isSome = true := by rw [hfree]; exact Bool.false_ne_true
  have hlength : ¬ 256 < (recordChange (changeOf op r) (a.part p).pending).length := Nat.not_lt_of_le hroom
  rw [staged_of_stage hstage, State.stageChange]
  exact congrArg (Ans.write · r) ((if_neg happly).trans (if_neg hlength))

theorem staged_busy (hstage : bitAt r.flags.toNat 0 = true) (happly : (a.part p).apply ≠ none) :
    (a.staged op r p none).write r = a.respond r busy 0 [] := by
  rw [staged_of_stage hstage, State.stageChange]
  exact congrArg (Ans.write · r) (if_pos (Option.isSome_iff_ne_none.2 happly))

theorem direct_kept (hstage : bitAt r.flags.toNat 0 = false) (hidle : (a.part p).running = false) {y : Apply}
    (hy : y = { beat := a.directBeat op r p, req := r, opcode := BitVec.ofNat 16 op, direct := true, changes := [changeOf op r], hold := false
                committed := false, units := a.unitsOf p [changeOf op r] }) (hwindow : a.windowOk429 p y = true) :
    (a.staged op r p none).write r = a.modPart p fun q => { q with direct := q.direct ++ [y] } := by
  subst hy
  simp only [State.staged, hstage, hidle, Bool.false_eq_true, if_false, State.applyDirect]
  exact congrArg (Ans.write · r) (if_pos hwindow)

theorem direct_busy (hstage : bitAt r.flags.toNat 0 = false) (hrunning : (a.part p).running = true) :
    (a.staged op r p none).write r = a.respond r busy 0 [] := by
  simp only [State.staged, hstage, hrunning, Bool.false_eq_true, if_false, if_true]
  rfl

end Staged

/-! Checks that refuse nothing. -/

theorem firstOf_eq_none {cs : List (Bool × Nat)} (h : ∀ c ∈ cs, c.1 = false) : firstOf cs = none := by
  induction cs with
  | nil => rfl
  | cons c cs ih =>
    obtain ⟨b, st⟩ := c
    have hb : b = false := h _ List.mem_cons_self
    rw [firstOf, hb, if_neg Bool.false_ne_true]
    exact ih fun d hd => h d (List.mem_cons_of_mem _ hd)

section Checks
variable {a : State} {r : Req} {p : PartId}

theorem partParams_passes (hrate : rf r 2 1 ≤ 48) (hus : rf r 4 4 = 0 ∨ 100 ≤ rf r 4 4 ∧ rf r 4 4 ≤ 1000000) :
    a.partParams r p = a.staged 0x0204 r p none := by
  rw [State.partParams, firstOf_eq_none]
  simp only [List.mem_singleton, forall_eq, Bool.or_eq_false_iff, Bool.and_eq_false_iff, decide_eq_false_iff_not]
  omega

theorem regionState_passes (hcode : rf r 1 1 ≤ 2) (hfirst : 1 ≤ rf r 2 2) (hmany : rf r 2 2 ≤ 512)
    (hregions : ∀ i, i < rf r 2 2 → (a.part p).hasHd ((rf r 4 4 + i) / 32) = true ∧ rf r 4 4 + i ∉ a.regionsHeld p ∧
      pintleRegion (rf r 4 4 + i) = false ∧ (rf r 1 1 = 0 ∨ rf r 4 4 + i ∉ a.regionsBound p)) :
    a.regionState r p = a.staged 0x0301 r p none := by
  rw [State.regionState, firstOf_eq_none]
  simp only [List.forall_mem_cons, List.any_eq_false, List.forall_mem_map, List.mem_range]
  refine ⟨?counts, fun i hi => ?owned, fun i hi => ?free, fun _ h => nomatch h⟩
  case counts =>
    simp only [Bool.or_eq_false_iff, decide_eq_false_iff_not]
    omega
  case owned => simp [(hregions i hi).1]
  case free =>
    obtain ⟨-, hheld, hpintle, hbound⟩ := hregions i hi
    rcases hbound with hbound | hbound <;> simp [hheld, hpintle, hbound]

theorem bankPower_passes (hboth : rf r 4 4 &&& rf r 8 4 = 0) (hprogram : ∀ g, (a.part p).program = some g → rf r 4 4 &&& g.bankMask.toNat = 0)
    (hspans : ∀ x ∈ a.chanSpans p ++ (a.holders p).flatMap (fun t => (a.tile t).bankSpans), ∀ i, i < (x.2 + 63) / 64 →
      bitAt (rf r 4 4) (a.member.bankOf (x.1 + 64 * i)) = false) :
    a.bankPower r p = a.staged 0x0302 r p none := by
  have hmask : rf r 4 4 &&& ((a.part p).program.map fun g => g.bankMask.toNat).getD 0 = 0 := by
    cases hg : (a.part p).program with
    | none => exact Nat.and_zero _
    | some g => exact hprogram g hg
  rw [State.bankPower, firstOf_eq_none]
  simp only [List.forall_mem_cons, hboth, hmask, ne_eq, not_true_eq_false, decide_false, Bool.false_or, List.any_eq_false]
  exact ⟨trivial, fun x hx => by simpa using hspans x hx, fun _ h => nomatch h⟩

theorem flatCommand_passes (hsome : 1 ≤ rf r 2 2) (hmany : rf r 2 2 ≤ 252)
    (hentries : ∀ i, i < rf r 2 2 → rf r (8 + 8 * i) 4 < 2 ^ 19 ∧ (bitAt (rf r (12 + 8 * i) 4) 31 = true →
      bitsOf (rf r (12 + 8 * i) 4) 30 27 = p.val ∧ 3 ≤ bitsOf (rf r (12 + 8 * i) 4) 2 0 ∧ bitsOf (rf r (12 + 8 * i) 4) 12 8 < a.member.gx ∧
      bitsOf (rf r (12 + 8 * i) 4) 7 3 * a.member.gx + bitsOf (rf r (12 + 8 * i) 4) 12 8 ∈ a.nsOfPart p)) :
    a.flatCommand r p = a.staged 0x0305 r p none := by
  rw [State.flatCommand, firstOf_eq_none]
  simp only [List.mem_singleton, forall_eq, Bool.or_eq_false_iff, decide_eq_false_iff_not, List.any_eq_false, List.mem_range]
  refine ⟨⟨by omega, by omega⟩, fun i hi => ?_⟩
  obtain ⟨hindex, hentry⟩ := hentries i hi
  cases hvalid : bitAt (rf r (12 + 8 * i) 4) 31 with
  | false => simpa using hindex
  | true =>
    obtain ⟨hpart, hep, hx, hn⟩ := hentry hvalid
    simpa [hpart, Nat.not_lt_of_le hep, Nat.not_le_of_lt hx, hn] using hindex

theorem jobStart_passes (hrunning : (a.part p).running = false) (hawaits : (a.part p).awaits 0x0403 = false) (hmanifest : (a.part p).manifest ≠ none)
    (hprogram : (a.part p).program ≠ none) (hactive : (a.part p).active = true) (hreload : (a.part p).reload = false)
    (hslow : (a.part p).slowDue = false) (hreset : (a.part p).resetDue = false) (hexits : a.exitsAdmitted p = true) (hidle : a.anyIdle r p = false) :
    a.jobStart r p = a.staged 0x0403 r p none := by
  rw [State.jobStart, State.startRefusal, firstOf_eq_none]
  simp [hrunning, hawaits, Option.isSome_iff_ne_none, hmanifest, hprogram, hactive, hreload, hslow, hreset, hexits, hidle]

theorem jobResume_passes (hfreeze : (a.part p).freeze = some .drained ∨ (a.part p).freeze = some .abandoned)
    (hawaits : (a.part p).awaits 0x0406 = false) (hreload : (a.part p).reload = false) (hslow : (a.part p).slowDue = false)
    (hidle : a.anyIdle r p = false)
    (himages : ∀ n ∈ a.nsOfPart p, ∀ t, a.tileOfN p n = some t → a.imageRefusal p n t (a.areaRead p (a.saveArea p n)).2 = none) :
    a.jobResumeCmd r p = a.staged 0x0406 r p none := by
  have himage : a.resumeRefusal p = none := by
    rw [State.resumeRefusal, List.findSome?_eq_none_iff]
    intro n hn
    cases ht : a.tileOfN p n with
    | none => rfl
    | some t => exact (Option.bind_some _ _).trans (himages n hn t ht)
  rw [State.jobResumeCmd, firstOf_eq_none, himage]
  · exact congrArg (a.staged _ r p) (Option.or_none)
  · rcases hfreeze with hfreeze | hfreeze <;> simp [hfreeze, hawaits, hreload, hslow, hidle]

theorem dlistCommand_passes (hnum : rf r 1 1 ≤ 7) (hlist : rf r 2 1 = 0 ∨ 4 ≤ rf r 2 1 ∧ rf r 2 1 ≤ 16 ∧ rf r 8 8 % 4096 = 0 ∧
      (a.part p).inRange (rf r 8 8) (128 + 128 * 2 ^ rf r 2 1) = true) :
    a.dlistCommand r p = a.staged 0x0407 r p none := by
  rw [State.dlistCommand, firstOf_eq_none]
  rcases hlist with hlist | ⟨hleast, hmost, halign, hrange⟩
  · simp [Nat.not_lt_of_le hnum, hlist]
  · simp [Nat.not_lt_of_le hnum, Nat.not_lt_of_le hleast, Nat.not_lt_of_le hmost, halign, hrange]

theorem shadowCommand_passes {i : PortId} (hi : rf r 2 1 = i.val) (hport : (a.port i).part = some p) (htarget : rf r 4 4 ≠ 0)
    (hstep : rf r 8 8 < 2 ^ 48) (hlink : ∃ x ∈ (a.port i).links, ((a.port i).link x).state = .admitted)
    (hrole : rf r 1 1 = 1 ∨ rf r 1 1 = 2 ∧ (a.part p).running = false) :
    a.shadowCommand r p = a.staged 0x0602 r p none := by
  have hpid : (⟨rf r 2 1 % 16, Nat.mod_lt _ (by decide)⟩ : PortId) = i := Fin.ext (by rw [hi]; exact Nat.mod_eq_of_lt i.isLt)
  have hbound : ¬ 16 ≤ rf r 2 1 := by rw [hi]; exact Nat.not_le_of_lt i.isLt
  have hup : ((a.port i).links.any fun x => decide (((a.port i).link x).state = .admitted)) = true :=
    List.any_eq_true.2 (hlink.imp fun x hx => ⟨hx.1, decide_eq_true hx.2⟩)
  rw [State.shadowCommand, firstOf_eq_none]
  simp only [hpid, hup, hport]
  rcases hrole with hrole | ⟨hrole, hidle⟩
  · simpa [hrole, hbound, htarget] using hstep
  · simpa [hrole, hbound, htarget, hidle] using hstep

theorem promoteCommand_passes (h : a.promoteRefusal r p = none) : a.promoteCommand r p = a.staged 0x0605 r p none := by
  rw [State.promoteCommand, h]

theorem insertCommand_passes (hbeats : rf r 1 1 ≠ 0) (htile : rf r 2 2 = 0xFFFF ∨ ∃ x ∈ (a.part p).tests, x.1 = rf r 2 2)
    (hrestore : bitAt (rf r 4 1) 0 = true → (a.part p).restoreRows ≠ []) :
    a.insertCommand r p = a.staged 0x0606 r p none := by
  have hrows : (bitAt (rf r 4 1) 0 && (a.part p).restoreRows.isEmpty) = false := by
    rw [Bool.and_eq_false_imp]
    exact fun h => List.isEmpty_eq_false_iff.2 (hrestore h)
  have htest : (decide (rf r 2 2 ≠ 0xFFFF) && !(a.part p).tests.any fun x => decide (x.1 = rf r 2 2)) = false := by
    rcases htile with h | ⟨x, hx, hnum⟩
    · rw [decide_eq_false (not_not_intro h), Bool.false_and]
    · rw [List.any_eq_true.2 ⟨x, hx, decide_eq_true hnum⟩, Bool.not_true, Bool.and_false]
  rw [State.insertCommand, firstOf_eq_none]
  simp only [List.forall_mem_cons, hrows, htest, decide_eq_false hbeats]
  exact ⟨trivial, trivial, trivial, fun _ h => nomatch h⟩

theorem exitCommand_passes (h : ∀ d, d < 6 → bitAt (rf r (2 + d) 1) 7 = true → ∀ i : PortId, i.val = rf r (2 + d) 1 % 16 → (a.port i).part = some p) :
    a.exitCommand r p = a.staged 0x0703 r p none := by
  rw [State.exitCommand, firstOf_eq_none]
  simp only [List.mem_singleton, forall_eq, List.any_eq_false, List.mem_range, Bool.and_eq_true, List.any_eq_true, decide_eq_true_eq]
  rintro d hd ⟨hvalid, i, -, hi, hpart⟩
  exact hpart (h d hd hvalid i hi)

theorem powerState_passes (hmodule : rf r 0 1 ≠ 0xFF) (hnamed : a.named r.body 0 = some p) (howner : a.owns r.fn p = true) (hcode : rf r 1 1 ≤ 2)
    (hsome : maskBits 16 (rf r 2 2) ≠ []) (hhds : ∀ hd ∈ maskBits 16 (rf r 2 2), (a.part p).hasHd hd = true)
    (hoff : rf r 1 1 = 2 → (a.part p).running = false ∧ (a.part p).awaits 0x0403 = false ∧ ∀ x ∈ (a.part p).pending, x.opcode ≠ 0x0403)
    (hidle : rf r 1 1 = 1 → ∀ g, (a.part p).program = some g → g.budget.minClock ≠ 0) :
    a.powerState r = a.staged 0x0901 r p none := by
  rw [State.powerState, if_neg hmodule]
  simp only [hnamed, howner, Bool.not_true, Bool.false_eq_true, if_false]
  rw [firstOf_eq_none]
  simp only [List.forall_mem_cons, Bool.or_eq_false_iff, Bool.and_eq_false_imp, decide_eq_false_iff_not, decide_eq_true_eq, List.any_eq_false]
  refine ⟨⟨Nat.not_lt_of_le hcode, List.isEmpty_eq_false_iff.2 hsome⟩, fun hd hhd => ?half, fun h => ⟨(hoff h).1, (hoff h).2.1⟩,
    fun h x hx => (hoff h).2.2 x hx, fun h => ?clock, fun _ h => nomatch h⟩
  case half => rw [hhds hd hhd]; exact Bool.false_ne_true
  case clock =>
    cases hg : (a.part p).program with
    | none => rfl
    | some g => exact decide_eq_false (hidle h g hg)

theorem capSet_passes (hleast : 150 * (a.part p).hdList.length ≤ rf r 4 4) (hmost : rf r 4 4 ≤ 600 * (a.part p).hdList.length) :
    a.capSet r p = a.staged 0x0902 r p none := by
  rw [State.capSet, firstOf_eq_none]
  simp [Nat.not_lt_of_le hleast, Nat.not_lt_of_le hmost]

theorem svcUnbind_passes (h : a.bindingOf p (rf r 2 2) ≠ none) : a.svcUnbind r p = a.staged 0x0C02 r p none := by
  rw [State.svcUnbind, firstOf_eq_none]
  simp [Option.isSome_iff_ne_none, h]

theorem svcClientsCmd_passes {b : SvcBinding} (hb : a.bindingOf p (rf r 2 2) = some b) (hsome : 1 ≤ rf r 4 2) (hmany : rf r 4 2 ≤ 84)
    (hroom : (clientsAfter r (b.clients.map (·.1))).length ≤ b.f 34 2) : a.svcClientsCmd r p = a.staged 0x0C03 r p none := by
  simp only [State.svcClientsCmd, hb]
  rw [firstOf_eq_none]
  simp [Nat.ne_of_gt hsome, Nat.not_lt_of_le hmany, Nat.not_lt_of_le hroom]

theorem linkChange_passes {i : PortId} (op : Nat) (hport : (a.port i).part = some p) (hlink : a.linkNamed r i ≠ none) :
    a.linkChange op r i = a.staged op r p none := by
  obtain ⟨x, hx⟩ := Option.ne_none_iff_exists'.1 hlink
  simp only [State.linkChange, hx, hport]

end Checks

/-! The commands. -/

section Commands
variable {c : Instr} {op : Nat} {r : Req} {s a : State} {p : PartId}

theorem exec_of_taken {run : State → Req → Ans} (hexec : exec c s = .next (s.command op r run)) (htakes : s.takes op r) (ha : s.accept r = a)
    (hrun : run a r = a.staged op r p none) : exec c s = .next ((a.staged op r p none).write r) := by
  rw [hexec, State.command_takes htakes ha, hrun]

theorem exec_of_taken_part {run : State → Req → PartId → Ans} (hexec : exec c s = .next (s.command op r (onPart run))) (htakes : s.takes op r)
    (ha : s.accept r = a) (hnamed : a.named r.body 0 = some p) (hrun : run a r p = a.staged op r p none) :
    exec c s = .next ((a.staged op r p none).write r) :=
  exec_of_taken hexec htakes ha ((onPart_named hnamed).trans hrun)

theorem exec_of_taken_port {run : State → Req → PortId → Ans} {i : PortId} (hexec : exec c s = .next (s.command op r (onPort run)))
    (htakes : s.takes op r) (ha : s.accept r = a) (hnamed : portNamed r.body = some i) (hrun : run a r i = a.staged op r p none) :
    exec c s = .next ((a.staged op r p none).write r) :=
  exec_of_taken hexec htakes ha ((onPort_named hnamed).trans hrun)

end Commands

/-- Settles O49 (R428, R429, R435): the checks of each command pass, and the rest is what becomes of a change that nothing refuses. -/
theorem stagedCommandsAreRecordedOrAppliedAtABeat : Obligations.StagedCommandsAreRecordedOrAppliedAtABeat := by
  intro c op r s a p ha htakes hcommand
  have hexec : exec c s = .next ((a.staged op r p none).write r) := by
    rcases hcommand with ⟨hnamed, hpart⟩ | ⟨i, hnamed, hport, hlink, hpart⟩
    · rcases hpart with ⟨rfl, rfl, h1, h2⟩ | ⟨rfl, rfl, h1, h2, h3, h4⟩ | ⟨rfl, rfl, h1, h2, h3⟩ | ⟨rfl, rfl, h1, h2, h3⟩ |
        ⟨rfl, rfl, h1, h2, h3, h4, h5, h6, h7, h8, h9, h10⟩ | ⟨rfl, rfl, h1, h2, h3, h4, h5, h6⟩ | ⟨rfl, rfl, h1, h2⟩ |
        ⟨i, rfl, rfl, h1, h2, h3, h4, h5, h6⟩ | ⟨rfl, rfl⟩ | ⟨rfl, rfl, h1⟩ | ⟨rfl, rfl, h1, h2, h3⟩ | ⟨rfl, rfl, h1⟩ |
        ⟨rfl, rfl, h1, h2, h3, h4, h5, h6, h7⟩ | ⟨rfl, rfl, h1, h2⟩ | ⟨rfl, rfl, h1⟩ | ⟨b, rfl, rfl, h1, h2, h3, h4⟩
      · exact exec_of_taken_part rfl htakes ha hnamed (partParams_passes h1 h2)
      · exact exec_of_taken_part rfl htakes ha hnamed (regionState_passes h1 h2 h3 h4)
      · exact exec_of_taken_part rfl htakes ha hnamed (bankPower_passes h1 h2 h3)
      · exact exec_of_taken_part rfl htakes ha hnamed (flatCommand_passes h1 h2 h3)
      · exact exec_of_taken_part rfl htakes ha hnamed (jobStart_passes h1 h2 h3 h4 h5 h6 h7 h8 h9 h10)
      · exact exec_of_taken_part rfl htakes ha hnamed (jobResume_passes h1 h2 h3 h4 h5 h6)
      · exact exec_of_taken_part rfl htakes ha hnamed (dlistCommand_passes h1 h2)
      · exact exec_of_taken_part rfl htakes ha hnamed (shadowCommand_passes h1 h2 h3 h4 h5 h6)
      · exact exec_of_taken_part rfl htakes ha hnamed rfl
      · exact exec_of_taken_part rfl htakes ha hnamed (promoteCommand_passes h1)
      · exact exec_of_taken_part rfl htakes ha hnamed (insertCommand_passes h1 h2 h3)
      · exact exec_of_taken_part rfl htakes ha hnamed (exitCommand_passes h1)
      · exact exec_of_taken rfl htakes ha (powerState_passes h1 hnamed h2 h3 h4 h5 h6 h7)
      · exact exec_of_taken_part rfl htakes ha hnamed (capSet_passes h1 h2)
      · exact exec_of_taken_part rfl htakes ha hnamed (svcUnbind_passes h1)
      · exact exec_of_taken_part rfl htakes ha hnamed (svcClientsCmd_passes h1 h2 h3 h4)
    · rcases hpart with ⟨rfl, rfl⟩ | ⟨rfl, rfl⟩
      · exact exec_of_taken_port rfl htakes ha hnamed (linkChange_passes _ hport hlink)
      · exact exec_of_taken_port rfl htakes ha hnamed (linkChange_passes _ hport hlink)
  rw [hexec]
  exact ⟨fun hstage => ⟨fun hfree hroom => congrArg _ (staged_recorded hstage hfree hroom), fun happly => congrArg _ (staged_busy hstage happly)⟩,
    fun hstage => ⟨fun y hidle hy hwindow => congrArg _ (direct_kept hstage hidle hy hwindow),
      fun hrunning => congrArg _ (direct_busy hstage hrunning)⟩⟩

end Sys2Proof.Proofs.Staging
end

section
/-!
PROOFS. The time base and the words that cross a seam (02: R42, R44, R61), and the settling of O7 and O9.
-/

namespace Sys2Proof.Proofs.TimeBase
open Sys2Proof.Machine

/-- A later instant is reached by moving the count there (02: R41). -/
theorem reach_of_later {s : State} {c : Nat} (h : s.now < c) : s.reach c = { s with count := BitVec.ofNat 64 c } := by
  rw [State.reach, if_pos (Int.ofNat_lt.2 h), Int.toNat_natCast]

/-- The output pulse lasts 8 ns from the next count with bits [19:0] zero (R44). -/
theorem tsyncOutPulse_of_locked {s : State} (h : s.pllLocked = true) : ∃ c : Nat, s.now ≤ c ∧ c < s.now + 2 ^ 20 ∧ c % 2 ^ 20 = 0 ∧
    execTsyncOutPulse s = .next { s with count := BitVec.ofNat 64 (c + 8), tsyncPulses := s.tsyncPulses + 1 } := by
  have hnext : s.now ≤ (s.now + 2 ^ 20 - 1) / 2 ^ 20 * 2 ^ 20 := by omega
  refine ⟨(s.now + 2 ^ 20 - 1) / 2 ^ 20 * 2 ^ 20, hnext, by omega, Nat.mul_mod_left _ _, ?_⟩
  rw [execTsyncOutPulse, if_pos h, reach_of_later (by omega)]

/-- Settles O7 (R42, R44): each event's branches, and the pulse's instant. -/
theorem timeBaseEvents : Obligations.TimeBaseEvents :=
  ⟨fun _ h => congrArg Host.Outcome.next (if_neg (by rw [h]; exact Bool.false_ne_true)), fun _ h => congrArg Host.Outcome.next (if_pos h),
    fun _ h => tsyncOutPulse_of_locked h, fun _ h => congrArg Host.Outcome.next (if_pos h),
    fun _ h => congrArg Host.Outcome.next (if_neg (by rw [h]; exact Bool.false_ne_true))⟩

theorem seamTransfer_of_fitted {x : U16} {s : State} (h : s.member.seamIds.contains x.toNat = true) (rev : Bool) (w : SeamWord) :
    exec (.seamTransfer x rev w) s = .next (s.seamWord x.toNat rev w) := if_pos h

/-- The limit event of a fitted seam: recorded once in the slot, when a count has passed 256 (R61). -/
theorem seamCorrectedLimit_of_fitted {x : U16} {s : State} (h : s.member.seamIds.contains x.toNat = true) :
    exec (.seamCorrectedLimit x) s =
      .next (if (256 < (s.seam x.toNat).corrP || 256 < (s.seam x.toNat).corrR) && !(s.seam x.toNat).limitRecorded then
        (s.modSeam x.toNat fun y => { y with limitRecorded := true }).seamFault x.toNat { cls := 0x0A, addr := x.toNat }
      else s) := if_pos h

/-- Settles O9 (R61): the three kinds of word, and the limit passed or recorded before. -/
theorem seamWordsAndTheirCounts : Obligations.SeamWordsAndTheirCounts := by
  intro x s h
  refine ⟨fun rev => seamTransfer_of_fitted h rev _, seamTransfer_of_fitted h false _, seamTransfer_of_fitted h true _,
    fun rev => seamTransfer_of_fitted h rev _, fun hmany hfirst => ?passed, fun hagain => ?recorded⟩
  case passed =>
    rw [seamCorrectedLimit_of_fitted h, if_pos]
    simpa [hfirst] using hmany
  case recorded =>
    rw [seamCorrectedLimit_of_fitted h, if_neg]
    simp [hagain]

end Sys2Proof.Proofs.TimeBase
end

section
/-!
PROOFS. The DRAM controllers (06: R163, R168–R171; 10: R268; 12: R351), and the settling of O10.
-/

namespace Sys2Proof.Proofs.DramController
open Sys2Proof.Machine

/-! The patrol scrub. -/

section Scrub
variable {a : BitVec 42} {s : State} (hfitted : a.toNat / 2 ^ 33 < s.member.regions) (loc : U64)
include hfitted

theorem patrolScrub_of_off (hoff : s.regionOn a.toNat = false) (e : Ecc) : exec (.patrolScrub a loc e) s = .next s := by
  show execPatrolScrub a loc e s = _
  simp only [execPatrolScrub, Nat.not_le_of_lt hfitted, hoff, Bool.false_eq_true, if_false]

theorem patrolScrub_clean : exec (.patrolScrub a loc .clean) s = .next s := by
  show execPatrolScrub a loc .clean s = _
  simp only [execPatrolScrub, Nat.not_le_of_lt hfitted, if_false, ite_self]

variable (hon : s.regionOn a.toNat = true)
include hon

theorem patrolScrub_dram (d : BitVec 42) (sym : BitVec 18) :
    exec (.patrolScrub a loc (.dram d sym)) s = .next (s.scrubBad a (sym ||| s.erasedSyms (s.dramLoc a.toNat))) := by
  show execPatrolScrub a loc (.dram d sym) s = _
  simp only [execPatrolScrub, Nat.not_le_of_lt hfitted, hon, if_true, if_false]

theorem patrolScrub_corrected (w : Corrected) : exec (.patrolScrub a loc (.corrected w)) s =
    .next (if s.erasedSyms (s.dramLoc a.toNat) = 0 then s.corrected (s.dramLoc a.toNat) (bitsOf loc.toNat 49 45 % 18)
      else if (s.erasedSyms (s.dramLoc a.toNat)).getLsbD (bitsOf loc.toNat 49 45 % 18) then s
      else s.scrubBad a (BitVec.ofNat 18 (2 ^ (bitsOf loc.toNat 49 45 % 18)) ||| s.erasedSyms (s.dramLoc a.toNat))) := by
  show execPatrolScrub a loc (.corrected w) s = _
  simp only [execPatrolScrub, Nat.not_le_of_lt hfitted, hon, if_true, if_false]

end Scrub

theorem scrubBad_of_free {s : State} {a : BitVec 42} (h : s.partOfHd (a.toNat / 2 ^ 38) = none) (sym : BitVec 18) : s.scrubBad a sym =
    ((s.upsetDram a.toNat).unitFault none { cls := 1, unit := 4, addr := a.toNat, bit := sym.toNat, clears := false }).markRow
      (s.dramLoc a.toNat) sym 1 := by
  simp only [State.scrubBad, h]
  rfl

theorem scrubBad_of_owned {s : State} {a : BitVec 42} {p : PartId} (h : s.partOfHd (a.toNat / 2 ^ 38) = some p) (sym : BitVec 18) :
    s.scrubBad a sym = (((s.upsetDram a.toNat).unitFault (some p) { cls := 1, unit := 4, addr := a.toNat, bit := sym.toNat }).markRow
      (s.dramLoc a.toNat) sym 1).clearPart p 1 := by
  simp only [State.scrubBad, h]
  rfl

/-! Row repair and zeroing. -/

section Repair
variable {s : State}

theorem dramRowRepair_of_free {k : Fin 32} (hfitted : k.val < 2 * s.member.halfDies) (hfree : s.stackPart k.val = none) :
    exec (.dramRowRepair k) s = .next ((takeRows [] (s.stackRows k.val)).foldl State.repairRow s) := by
  show execDramRowRepair k s = _
  simp only [execDramRowRepair, Nat.not_le_of_lt hfitted, hfree, if_false]

theorem dramRowRepair_of_owned {k : Fin 32} {p : PartId} (hfitted : k.val < 2 * s.member.halfDies) (howned : s.stackPart k.val = some p) :
    exec (.dramRowRepair k) s =
      let rows := takeRows (if (s.part p).placing then (s.part p).frozenBanks else []) (s.stackRows k.val)
      .next (if (s.part p).mayRepairRows = true then (rows.foldl State.repairRow s).modPart p fun q => { q with
        frozenBanks := if q.placing then q.frozenBanks ++ rows.map bankKey else [] } else s) := by
  show execDramRowRepair k s = _
  cases hmay : (s.part p).mayRepairRows <;>
    simp only [execDramRowRepair, Nat.not_le_of_lt hfitted, howned, hmay, Bool.not_true, Bool.not_false, Bool.false_eq_true, if_true, if_false]

theorem regionZeroingDone_of_fitted {r : BitVec 9} (hfitted : r.toNat < s.member.regions) : exec (.regionZeroingDone r) s =
    .next (if s.region r.toNat = .zeroing then { s with regions := kdel r.toNat s.regions } else s) :=
  if_neg (Nat.not_le_of_lt hfitted)

end Repair

/-! A HALT that a partition sends leaves its job and the rest of its latch (10: R265). -/

section Halt
variable (s : State) (p : PartId)

theorem floodLatch_eq (except : Option (PortId × Session)) (f : LatchFrame) : ∃ fs, s.floodLatch p except f = { s with latchOut := fs } := by
  have hsent (links : List (PortId × Session)) : ∀ s : State, ∃ fs, links.foldl (fun s q => s.sendLatch q f) s = { s with latchOut := fs } := by
    induction links with
    | nil => exact fun s => ⟨s.latchOut, rfl⟩
    | cons l links ih => exact fun s => (ih (s.sendLatch l f)).imp fun _ h => h
  unfold State.floodLatch
  split
  · exact ⟨s.latchOut, rfl⟩
  · exact hsent _ s

@[simp] theorem part_floodLatch (except : Option (PortId × Session)) (f : LatchFrame) (x : PartId) : (s.floodLatch p except f).part x = s.part x := by
  obtain ⟨fs, h⟩ := floodLatch_eq s p except f
  rw [h]
  rfl

theorem part_sendHalt (cls : Byte) (origin : U16) (except : Option (PortId × Session)) :
    ∃ h, (s.sendHalt p cls origin except).part p = { s.part p with latch := { (s.part p).latch with halt := h } } := by
  simp only [State.sendHalt]
  split
  · exact ⟨some (cls, origin), by rw [part_floodLatch, State.modPart, State.part_setPart]⟩
  · exact ⟨(s.part p).latch.halt, rfl⟩

theorem carrySaving_sendHalt (cls : Byte) (origin : U16) (except : Option (PortId × Session)) :
    ((s.sendHalt p cls origin except).part p).carrySaving = (s.part p).carrySaving := by
  obtain ⟨h, hpart⟩ := part_sendHalt s p cls origin except
  rw [hpart]

theorem commitFault_sendHalt (cls : Byte) (origin : U16) (except : Option (PortId × Session)) :
    ((s.sendHalt p cls origin except).part p).latch.commitFault = (s.part p).latch.commitFault := by
  obtain ⟨h, hpart⟩ := part_sendHalt s p cls origin except
  rw [hpart]

end Halt

/-- A save unfinished at the end of a closed slot is a commit fault (R268). -/
theorem carrySaveOverdue_faults {p : PartId} {s : State} (hattempt : (s.part p).attempting = true) (hsaving : (s.part p).carrySaving = true)
    (hfixed : (s.part p).latch.fixed = some true) (hjudged : (s.part p).judged = true) (hslot : (s.part p).beatInStep + 1 = (s.part p).s) :
    ∃ t, exec (.carrySaveOverdue p) s = .next t ∧ (t.part p).carrySaving = false ∧ (t.part p).latch.commitFault = true := by
  have hdue : ((s.part p).attempting && (s.part p).carrySaving && decide ((s.part p).latch.fixed = some true) && (s.part p).judged &&
      decide ((s.part p).beatInStep + 1 = (s.part p).s)) = true := by
    simp only [hattempt, hsaving, hfixed, hjudged, hslot, decide_true, Bool.and_self]
  refine ⟨_, congrArg Host.Outcome.next (if_pos hdue), (carrySaving_sendHalt ..).trans ?_, (commitFault_sendHalt ..).trans ?_⟩
  · exact congrArg Part.carrySaving (State.part_setPart ..)
  · exact congrArg (·.latch.commitFault) (State.part_setPart ..)

/-- Settles O10 (R163, R168–R171, R268, R351): a branch at a time. -/
theorem dramControllerEvents : Obligations.DramControllerEvents := by
  refine ⟨?scrub, fun k s => dramRowRepair_of_free, ?owned, ?zeroing, fun p s => carrySaveOverdue_faults⟩
  case scrub =>
    rintro a loc e s pin m hfitted rfl rfl
    refine ⟨fun hoff => patrolScrub_of_off hfitted loc hoff e, patrolScrub_clean hfitted loc, fun w hon hm => ?_, fun w hon hpin => ?_,
      fun w hon hm hpin => ?_, fun d sym hon hfree => ?_, fun d sym p hon howned => ?_⟩
    · rw [patrolScrub_corrected hfitted loc hon, if_pos hm]
    · rw [patrolScrub_corrected hfitted loc hon, if_pos hpin, ite_eq_right_iff.2]
      intro hm
      rw [hm] at hpin
      simp at hpin
    · rw [patrolScrub_corrected hfitted loc hon, patrolScrub_dram hfitted loc hon, if_neg hm, if_neg (by rw [hpin]; exact Bool.false_ne_true)]
    · rw [patrolScrub_dram hfitted loc hon, scrubBad_of_free hfree]
    · rw [patrolScrub_dram hfitted loc hon, scrubBad_of_owned howned]
  case owned =>
    intro k p s hfitted howned
    have hrepair := dramRowRepair_of_owned hfitted howned
    exact ⟨fun hmay => hrepair.trans (congrArg Host.Outcome.next (if_neg (by rw [hmay]; exact Bool.false_ne_true))),
      fun hmay => hrepair.trans (congrArg Host.Outcome.next (if_pos hmay))⟩
  case zeroing =>
    intro r s hfitted
    exact ⟨fun h => by rw [regionZeroingDone_of_fitted hfitted, if_pos h], fun h => by rw [regionZeroingDone_of_fitted hfitted, if_neg h]⟩

end Sys2Proof.Proofs.DramController
end

section
/-!
PROOFS. The issue instructions and the fetch of the sequencer (02: R53; 04: R92, R97–R102), and the settling of O11, O12, O13 and O14.
-/

namespace Sys2Proof.Proofs.Sequencer
open Sys2Proof.Machine Sys2Proof.Proofs.Frames

/-! Registers (R97): x0 reads zero and takes nothing. -/

theorem x_setX (v : Seq) {rd : Nat} (hrd : rd < 32) (w : U32) (r : Nat) : (v.setX rd w).x r = if r = rd ∧ r ≠ 0 then w else v.x r := by
  by_cases hr0 : r = 0
  · rw [hr0, if_neg (fun h => h.2 rfl)]
    rfl
  by_cases hrd0 : rd = 0
  · rw [if_neg (fun h => hr0 (h.1.trans hrd0)), Seq.setX, dif_neg (by omega)]
  rw [Seq.setX, dif_pos (by omega), Seq.x, Seq.x, if_neg hr0, if_neg hr0]
  by_cases hsame : r = rd
  · rw [if_pos ⟨hsame, hr0⟩, hsame]
    simp [List.getD, show rd - 1 < 31 by omega]
  · rw [if_neg fun h => hsame h.1]
    simp [List.getD, Vector.getElem?_set_ne, show rd - 1 ≠ r - 1 by omega]

@[simp] theorem pc_setX (v : Seq) (rd : Nat) (w : U32) : (v.setX rd w).pc = v.pc := by
  unfold Seq.setX
  split <;> rfl

/-- The sequencer after an issue instruction has retired (R102). -/
def retired (v : Seq) (rd : Nat) (w : U32) : Seq := { v.setX rd w with pc := v.pc + 4, run := .running }

theorem zqRetire_eq (s : State) (t : TileId) (rd : Nat) (w : U32) : s.zqRetire t rd w = s.setTile t { s.tile t with
    seq := retired (s.tile t).seq rd w, progress := { (s.tile t).progress with seq := (s.tile t).progress.seq + 1 }, issued := true } := by
  rw [State.zqRetire, State.modSeq, State.modTile_modTile]
  rfl

/-- Settles O11 (R98, R102): the register, the pc, the run state and the progress counter of the one tile. -/
theorem retiringAnIssueInstruction : Obligations.RetiringAnIssueInstruction :=
  fun t rd w s hrd => ⟨_, zqRetire_eq s t rd w, rfl, rfl, rfl, x_setX (s.tile t).seq hrd w, rfl⟩

/-! The instructions on a sequencer that executes. -/

section Issue
variable {s : State} {t : TileId}

theorem onTile_of_ready (htile : s.hasTile t = true) (hready : s.seqReady t = true) (f : State → State) :
    s.onTile t (fun s => if s.seqReady t then f s else s) = .next (f s) :=
  (onTile_of_hasTile htile _).trans (congrArg Host.Outcome.next (if_pos hready))

section Ready
variable (htile : s.hasTile t = true) (hready : s.seqReady t = true) (e : Eng) (rd rs1 : BitVec 5) (ecc : Ecc)
include htile hready

theorem exec_zqEnq : exec (.zqEnq t e rd rs1 ecc) s = .next ((s.seqEcc t ecc (s.tile t).seq.pc.toNat).zqEnq t e rd.toNat rs1.toNat) :=
  onTile_of_ready htile hready fun s => (s.seqEcc t ecc (s.tile t).seq.pc.toNat).zqEnq t e rd.toNat rs1.toNat

theorem exec_zqWait : exec (.zqWait t e rs1) s = .next (s.zqWait t e rs1.toNat) := onTile_of_ready htile hready (·.zqWait t e rs1.toNat)

theorem exec_zqPoll : exec (.zqPoll t e rd) s = .next (s.zqPoll t e rd.toNat) := onTile_of_ready htile hready (·.zqPoll t e rd.toNat)

theorem exec_zqBwait : exec (.zqBwait t) s = .next (s.zqBwait t) := onTile_of_ready htile hready (·.zqBwait t)

theorem exec_zqBsync : exec (.zqBsync t) s = .next (s.zqBsync t) := onTile_of_ready htile hready (·.zqBsync t)

theorem exec_seqInstruction : exec (.seqInstruction t ecc) s = .next (s.seqStep t ecc) := onTile_of_ready htile hready (·.seqStep t ecc)

end Ready

theorem engOf_engCode (e : Eng) : engOf (engCode e) = some e := by cases e <;> rfl

theorem reached_iff (v : Tile) (e : Eng) (k : U32) : v.reached (engCode e) k.toNat = true ↔ 0 ≤ ((v.q e).done - k).toInt := by
  simp [Tile.reached, engOf_engCode]

theorem not_reached_iff (v : Tile) (e : Eng) (k : U32) : ¬ v.reached (engCode e) k.toNat = true ↔ ((v.q e).done - k).toInt < 0 := by
  rw [reached_iff, Int.not_le]

theorem zqWait_of_reached {e : Eng} {rs1 : Nat} (h : 0 ≤ (((s.tile t).q e).done - (s.tile t).seq.x rs1).toInt) :
    s.zqWait t e rs1 = s.zqRetire t 0 0 := if_pos ((reached_iff _ _ _).2 h)

theorem zqWait_of_waiting {e : Eng} {rs1 : Nat} (h : (((s.tile t).q e).done - (s.tile t).seq.x rs1).toInt < 0) :
    s.zqWait t e rs1 = s.zqStall t (.wait e ((s.tile t).seq.x rs1)) := if_neg ((not_reached_iff _ _ _).2 h)

theorem zqBwait_of_waited (h : (s.tile t).bwaited = true) : s.zqBwait t = s.zqRetire t 0 0 := if_pos h

theorem zqBsync_of_waited (h : (s.tile t).bwaited = true) : s.zqBsync t = s.zqStall t .bsync := by
  simp only [State.zqBsync, h, Bool.not_true, Bool.false_and, Bool.false_eq_true, if_false]

theorem zqBwait_of_done (hfirst : (s.tile t).bwaited = false) (hdone : s.beatDone t = true) : s.zqBwait t = (s.beatWaited t).zqRetire t 0 0 := by
  simp only [State.zqBwait, hfirst, hdone, Bool.false_eq_true, if_false, if_true]

theorem zqBwait_of_work (hfirst : (s.tile t).bwaited = false) (hdone : s.beatDone t = false) : s.zqBwait t = s.zqStall t .bwait := by
  simp only [State.zqBwait, hfirst, hdone, Bool.false_eq_true, if_false]

/-! ZQ.ENQ (R98, R99): its address, the banks it reads, the form of the descriptor, and a slot for it. -/

theorem zqEnq_of_misplaced {e : Eng} {rd rs1 a : Nat} (ha : ((s.tile t).seq.x rs1).toNat = a) (h : a % 64 ≠ 0 ∨ inSeqSpad a 64 = false) :
    s.zqEnq t e rd rs1 = s.seqTrap t 4 a := by
  simp only [State.zqEnq, ha]
  exact if_pos (by simpa using h)

section Placed
variable {e : Eng} {rd rs1 a : Nat} (ha : ((s.tile t).seq.x rs1).toNat = a) (halign : a % 64 = 0) (hspad : inSeqSpad a 64 = true)
include ha halign hspad

theorem zqEnq_of_clearing (hclearing : (s.tile t).clearing s.member (s.stepAt t) (a - 0x10000000) 64 = true) : s.zqEnq t e rd rs1 = s := by
  simp only [State.zqEnq, ha, halign, hspad, hclearing, ne_eq, not_true_eq_false, decide_false, Bool.not_true, Bool.or_self, Bool.false_eq_true,
    if_false, if_true]

variable {u : State} {d : Bytes} (hclear : (s.tile t).clearing s.member (s.stepAt t) (a - 0x10000000) 64 = false)
  (hu : s.seqBankFault t (s.tile t).seq.pc.toNat ((s.tile t).bankHit s.member (s.stepAt t) (· = .off) (a - 0x10000000) 64) = u)
  (hd : s.spadRead t (a - 0x10000000) 64 = d)
include hclear hu hd

theorem zqEnq_of_malformed (hform : u.descOk t e d = false) : s.zqEnq t e rd rs1 = u.seqTrap t 24 a := by
  simp only [State.zqEnq, ha, halign, hspad, hclear, hu, hd, hform, ne_eq, not_true_eq_false, decide_false, Bool.not_true, Bool.not_false,
    Bool.or_self, Bool.false_eq_true, if_false, if_true]

theorem zqEnq_of_full (hform : u.descOk t e d = true) (hfull : ((s.tile t).q e).freeSlot = none) :
    s.zqEnq t e rd rs1 = u.zqStall t (.enq e (BitVec.ofNat 5 rd) (BitVec.ofNat 5 rs1)) := by
  simp only [State.zqEnq, ha, halign, hspad, hclear, hu, hd, hform, hfull, ne_eq, not_true_eq_false, decide_false, Bool.not_true,
    Bool.or_self, Bool.false_eq_true, if_false]

theorem zqEnq_of_free {i : Fin 8} (hform : u.descOk t e d = true) (hfree : ((s.tile t).q e).freeSlot = some i) : ∃ b,
    s.zqEnq t e rd rs1 = (u.setTile t ((u.tile t).setQ e { ((u.tile t).q e) with
      enq := ((s.tile t).q e).enq + 1
      slots := ((u.tile t).q e).slots ++ [{ num := i, desc := d, ticket := ((s.tile t).q e).enq + 1, pc := (s.tile t).seq.pc.setWidth 17, binding := b }]
      })).zqRetire t rd (((s.tile t).q e).enq + 1) ∧
    b = if isScheduled e d then (if (s.tile t).bwaited then .held else .bound) else .unscheduled := by
  refine ⟨_, ?_, rfl⟩
  simp only [State.zqEnq, ha, halign, hspad, hclear, hu, hd, hform, hfree, ne_eq, not_true_eq_false, decide_false, Bool.not_true,
    Bool.or_self, Bool.false_eq_true, if_false]
  rfl

end Placed

end Issue

/-- The bank fault of a sequencer read that meets `u` (R97). -/
theorem seqBankFault_of {s u : State} {t : TileId} {pc : Nat} (hit : Option Nat)
    (hnone : hit = none → u = s) (hsome : ∀ b, hit = some b → u = s.tileFault t { cls := 0x10, eng := 0, pc := pc, addr := b }) :
    s.seqBankFault t pc hit = u := by
  cases hit with
  | none => exact (hnone rfl).symm
  | some b => exact (hsome b rfl).symm

/-- Settles O12 (R97–R101): an instruction of a sequencer that executes is its meaning, a case at a time. -/
theorem issueInstructionsRunOrStall : Obligations.IssueInstructionsRunOrStall := by
  intro t s htile hready
  have hbwait := exec_zqBwait htile hready
  refine ⟨exec_zqEnq htile hready, fun e rd rs1 => ?enq, fun e rs1 => ?wait, exec_zqPoll htile hready, fun hwaited => ⟨?_, ?_⟩,
    fun hfirst hdone => ?_, fun hfirst hwork => ?_⟩
  case enq =>
    intro v a
    rw [exec_zqEnq htile hready, State.seqEcc_clean]
    refine ⟨fun h => congrArg _ (zqEnq_of_misplaced rfl h), fun halign hspad hclearing => congrArg _ (zqEnq_of_clearing rfl halign hspad hclearing),
      fun halign hspad hclear u hu => ?_⟩
    dsimp only
    have hfault : s.seqBankFault t v.seq.pc.toNat (v.bankHit s.member (s.stepAt t) (· = .off) (a - 0x10000000) 64) = u :=
      seqBankFault_of _ (fun hhit => by rw [hhit] at hu; exact hu) (fun b hhit => by rw [hhit] at hu; exact hu)
    refine ⟨fun hform => congrArg _ (zqEnq_of_malformed rfl halign hspad hclear hfault rfl hform), fun hform hfull => ?_, fun i hform hfree => ?_⟩
    · rw [zqEnq_of_full rfl halign hspad hclear hfault rfl hform hfull, BitVec.ofNat_toNat, BitVec.ofNat_toNat, BitVec.setWidth_eq,
        BitVec.setWidth_eq]
      rfl
    · exact (zqEnq_of_free rfl halign hspad hclear hfault rfl hform hfree).imp fun b h => ⟨congrArg _ h.1, h.2⟩
  case wait =>
    rw [exec_zqWait htile hready]
    exact ⟨fun h => congrArg _ (zqWait_of_reached h), fun h => congrArg _ (zqWait_of_waiting h)⟩
  · rw [hbwait, zqBwait_of_waited hwaited]
  · rw [exec_zqBsync htile hready, zqBsync_of_waited hwaited]
    rfl
  · rw [hbwait, zqBwait_of_done hfirst hdone]
    rfl
  · rw [hbwait, zqBwait_of_work hfirst hwork]
    rfl

/-- Settles O13 (R53, R100, R101): a stalled instruction is looked at again; what it waits for has come or not. -/
theorem stalledIssueInstructionsRetire : Obligations.StalledIssueInstructionsRetire := by
  intro t s htile hlive
  have hrun (f : State → State) := onTile_of_hasTile htile f
  refine ⟨fun e k hstall hreached => ?_, fun e k hstall hwait => ?_, fun hstall hfirst hdone => ?_, fun hstall hfirst hdone => ?_,
    fun p hstall hgo hover hpart => ?_⟩
  · show execZqWaitRetire t s = _
    simp only [execZqWaitRetire, hrun, hstall, hlive, (reached_iff _ _ _).2 hreached, Bool.and_self, if_true]
  · show execZqWaitRetire t s = _
    simp only [execZqWaitRetire, hrun, hstall, Bool.eq_false_iff.2 ((not_reached_iff _ _ _).2 hwait), Bool.and_false, Bool.false_eq_true, if_false]
  · show execZqBwaitRetire t s = _
    simp only [execZqBwaitRetire, hrun, hstall, hlive, hfirst, hdone, Bool.not_true, Bool.or_self, Bool.false_eq_true, if_false]
    rfl
  · show execZqBwaitRetire t s = _
    simp only [execZqBwaitRetire, hrun, hstall, hlive, hfirst, hdone, Bool.not_true, Bool.or_self, Bool.false_eq_true, if_false]
    rfl
  · show execZqBsyncRetire t s = _
    simp only [execZqBsyncRetire, hrun, hstall, hlive, hgo, hover, hpart, Bool.not_false, Bool.and_self, if_true]

/-! The fetch (R92, R93). -/

section Fetch
variable {s : State} {t : TileId} {h w : Nat}

theorem inImem_half_of_word {pc : Nat} (hfour : inImem pc 4 = true) : inImem pc 2 = true := by
  simp only [inImem, decide_eq_true_eq] at hfour ⊢
  omega

theorem seqStep_of_outside (hout : inImem (s.tile t).seq.pc.toNat 2 = false) : s.seqStep t .clean = s.seqTrap t 1 (s.tile t).seq.pc.toNat := by
  simp only [State.seqStep, State.seqEcc_clean, fetchHit, hout, Bool.not_false, Bool.false_eq_true, if_false, if_true]

theorem seqStep_word (hin : inImem (s.tile t).seq.pc.toNat 4 = true) (hlong : leNat (s.imemRead t (s.tile t).seq.pc.toNat 2) % 4 = 3)
    (hw : leNat (s.imemRead t (s.tile t).seq.pc.toNat 4) = w) : s.seqStep t .clean = s.seqExec t w 4 w := by
  simp only [State.seqStep, State.seqEcc_clean, fetchHit, inImem_half_of_word hin, hin, hlong, hw, Bool.not_true, Bool.false_eq_true, if_false,
    if_true]

theorem seqStep_half (hin : inImem (s.tile t).seq.pc.toNat 2 = true) (hh : leNat (s.imemRead t (s.tile t).seq.pc.toNat 2) = h)
    (hshort : h % 4 ≠ 3) : s.seqStep t .clean = (expandC h).elim (s.seqTrap t 2 h) fun w => s.seqExec t w 2 h := by
  simp only [State.seqStep, State.seqEcc_clean, fetchHit, hin, hh, hshort, Bool.not_true, Bool.false_eq_true, if_false]
  cases expandC h <;> rfl

end Fetch

/-- Settles O14 (R92, R93, R97): the two low bits give the length, and a 16-bit word stands for a 32-bit one or for none. -/
theorem sequencerRunsTheFetchedInstruction : Obligations.SequencerRunsTheFetchedInstruction := by
  intro t s htile hready
  rw [exec_seqInstruction htile hready]
  refine ⟨fun w hin hlong hw => congrArg _ (seqStep_word hin hlong hw), fun h w hin hh hshort hexpand => congrArg _ ?_,
    fun h hin hh hshort hexpand => congrArg _ ?_, fun hout => congrArg _ (seqStep_of_outside hout)⟩
  · rw [seqStep_half hin hh hshort, hexpand]
    rfl
  · rw [seqStep_half hin hh hshort, hexpand]
    rfl

end Sys2Proof.Proofs.Sequencer
end

section
/-!
PROOFS. The tensor engine and the head of its queue (04: R112, R115, R119), and the settling of O16.
-/

namespace Sys2Proof.Proofs.TensorEngine
open Sys2Proof.Machine Sys2Proof.Proofs.Frames

section Head
variable {s : State} {t : TileId} {x : Slot} (htile : s.hasTile t = true) (hhead : s.headOf t .mxe = some x)
include htile hhead

theorem mxePassStart_starts (hfresh : x.started = false)
    (hmay : s.mayStart t x (depEngOf .mxe x.desc) (depTicketOf .mxe x.desc) = true) : exec (.mxePassStart t) s =
      .next ((s.atWork t x).setTile t { (s.tile t).modSlot .mxe x.num (fun y => { y with started := true }) with pass := {} }) := by
  show execMxePassStart t s = _
  simp only [execMxePassStart, onTile_of_hasTile htile, hhead, hfresh, hmay, Bool.not_false, Bool.and_self, if_true, State.modTile_eq, tile_atWork]

theorem mxeAttemptEnd_of_started (ecc : Ecc) (hstarted : x.started = true) (hopen : x.finished = false) (hlive : s.tileLive t = true) :
    exec (.mxeAttemptEnd t ecc) s = .next ((s.tile t).pass.flush.elim (s.mxeAttempt t x ecc) fun ps => s.resumeOut t .mxe x ps ecc) := by
  show execMxeAttemptEnd t ecc s = _
  simp only [execMxeAttemptEnd, onTile_of_hasTile htile, hhead, hstarted, hopen, hlive, Bool.not_false, Bool.and_self, if_true]
  cases (s.tile t).pass.flush <;> rfl

theorem mxePassComplete_of_finished (hdone : x.finished = true) : exec (.mxePassComplete t) s =
    .next (s.setTile t { (s.tile t).completeHead .mxe with
      pass := {}
      counters := { (s.tile t).counters with mxePasses := satAdd (s.tile t).counters.mxePasses 1 } }) := by
  show execMxePassComplete t s = _
  simp only [execMxePassComplete, onTile_of_hasTile htile, hhead, hdone, if_true, State.modTile_eq]

end Head

/-! One attempt of a fresh accumulation that reads what it needs, with clean words (R112, R115). -/

theorem overflows_pos {ls : List Lane} (h : ∃ l ∈ ls, l.ovf = true) : 0 < (ls.filter (·.ovf)).length := by
  obtain ⟨l, hl, hovf⟩ := h
  exact List.length_pos_of_mem (List.mem_filter.2 ⟨hl, hovf⟩)

theorem overflows_zero {ls : List Lane} (h : ∀ l ∈ ls, l.ovf = false) : (ls.filter (·.ovf)).length = 0 := by
  rw [List.length_eq_zero_iff, List.filter_eq_nil_iff]
  exact fun l hl => by rw [h l hl]; exact Bool.false_ne_true

section Attempt
variable {s : State} {t : TileId} {x : Slot} {ls : List (List Lane)} (hwaits : (s.readCheck t 1 (passArgs x.desc).reads).waits = false)
  (hblock : (s.readCheck t 1 (passArgs x.desc).reads).block = none) (hoff : (s.readCheck t 1 (passArgs x.desc).reads).off = none)
  (hacc : (passArgs x.desc).acc = 0)
  (hls : (passArgs x.desc).lanes (fun a => (s.tile t).byte s.member (tileKey t) (s.stepAt t) a) (s.drawAt t) 0 (s.tile t).pass.r false = ls)
  (hfinal : (s.tile t).pass.final = false)
include hwaits hblock hoff hacc hls hfinal

theorem mxeAttempt_retries (hrnr : (passArgs x.desc).rnr = false) (hovf : ∃ l ∈ ls.flatten, l.ovf = true)
    (hr : (s.tile t).pass.r < 3) : ∃ v, s.mxeAttempt t x .clean = s.setTile t v ∧
    v.pass = { (s.tile t).pass with r := (s.tile t).pass.r + 1 } ∧
    v.counters.mxeRetries = satAdd (s.tile t).counters.mxeRetries 1 ∧ v.spad = (s.tile t).spad := by
  have hrshift : decide (0 + (s.tile t).pass.r + 1 ≤ 15) = true := decide_eq_true (by omega)
  simp only [State.mxeAttempt, hwaits, hblock, hoff, hacc, hrnr, hls, hfinal, hr, hrshift, State.upset_clean, State.eccRead_clean,
    PassArgs.eccLanes_clean, State.bankFault, overflows_pos hovf, State.modTile_eq, Nat.reduceEqDiff, OfNat.zero_ne_ofNat, decide_false, decide_true,
    Bool.or_self, Bool.not_false, Bool.and_self, Bool.false_eq_true, if_false, if_true, State.setTile_setTile, State.tile_setTile]
  exact ⟨_, rfl, rfl, rfl, rfl⟩

theorem mxeAttempt_flushes (hclear : ∀ l ∈ ls.flatten, l.ovf = false) : ∃ v ps, s.mxeAttempt t x .clean = (s.setTile t v).writeOut t .mxe x ps ∧
    ps = (passArgs x.desc).flushOf ls ((passArgs x.desc).header (s.spadRead t (passArgs x.desc).dst 64) 0 (s.tile t).pass.r 0 x.ticket.toNat false
      (ls.flatten.any (·.nan)) (ls.flatten.any (·.inf))) ∧
    v.pass = { (s.tile t).pass with flush := some ps } ∧ v.spad = (s.tile t).spad := by
  simp only [State.mxeAttempt, hwaits, hblock, hoff, hacc, hls, hfinal, State.upset_clean, State.eccRead_clean,
    PassArgs.eccLanes_clean, State.bankFault, overflows_zero hclear, State.modTile_eq, Nat.lt_irrefl, Nat.reduceEqDiff, OfNat.zero_ne_ofNat, decide_false,
    Bool.or_self, Bool.false_and, Bool.false_eq_true, if_false, State.setTile_setTile, State.tile_setTile]
  exact ⟨_, _, rfl, rfl, rfl, rfl⟩

end Attempt

/-- Settles O16 (R112, R115, R119): a fresh head starts, a started one is attempted or flushed, a finished one completes. -/
theorem tensorPassesStartRunAndComplete : Obligations.TensorPassesStartRunAndComplete := by
  intro t s x htile hhead
  refine ⟨mxePassStart_starts htile hhead, fun ecc hstarted hopen hlive => ?_, ?_, mxePassComplete_of_finished htile hhead⟩
  · rw [mxeAttemptEnd_of_started htile hhead ecc hstarted hopen hlive]
    exact ⟨fun ps hps => by rw [hps]; rfl, fun hnone => by rw [hnone]; rfl⟩
  · rintro rc ls rfl hwaits hblock hoff hacc hrnr hls hfinal
    exact ⟨mxeAttempt_retries hwaits hblock hoff hacc hls hfinal hrnr, mxeAttempt_flushes hwaits hblock hoff hacc hls hfinal⟩

end Sys2Proof.Proofs.TensorEngine
end

section
/-!
PROOFS. The message unit and its descriptors (09: R239, R243, R244, R247, R248, R252), and the settling of O19.
-/

namespace Sys2Proof.Proofs.MessageUnit
open Sys2Proof.Machine Sys2Proof.Proofs.Frames

/-! Channel ends: a twin writes none; the start of a descriptor changes none. -/

theorem setChan_of_primary {s : State} {t : TileId} (h : (s.tile t).ward.twin = false) (c : Nat) (f : Chan → Chan) :
    s.setChan t c f = s.modChan c f := if_neg (by rw [h]; exact Bool.false_ne_true)

theorem setChan_of_twin {s : State} {t : TileId} (h : (s.tile t).ward.twin = true) (c : Nat) (f : Chan → Chan) : s.setChan t c f = s := if_pos h

theorem setChan_congr (s : State) (t : TileId) (c : Nat) {f g : Chan → Chan} (h : f (s.chan c) = g (s.chan c)) :
    s.setChan t c f = s.setChan t c g := by
  simp only [State.setChan, State.modChan, h]

section AtWork
variable (s : State) (t : TileId) (x : Slot) (c : Nat)

@[simp] theorem chan_atWork : (s.atWork t x).chan c = s.chan c := by
  obtain ⟨n, h⟩ := s.atWork_eq t x
  rw [h]
  rfl

@[simp] theorem nOf_atWork : (s.atWork t x).nOf t = s.nOf t := by
  obtain ⟨n, h⟩ := s.atWork_eq t x
  rw [h]
  rfl

@[simp] theorem ownsEnd_atWork : (s.atWork t x).ownsEnd t c = s.ownsEnd t c := by
  rw [State.ownsEnd, chan_atWork, nOf_atWork, State.ownsEnd]

end AtWork

/-! The meanings of the operations at an end. -/

section Operations
variable {s : State} {t : TileId} {p : PartId} {x : Slot}

theorem msgListen_of_free (hfree : (s.chan (x.f 4 4)).state = chFree) : s.msgListen t x = (s.setChan t (x.f 4 4) fun e => { e with
    role := 2, state := chListen, flags := 0, ringLog2 := BitVec.ofNat 8 (x.f 20 1), owner := BitVec.ofNat 16 ((s.nOf t).getD 0),
    peer := BitVec.ofNat 32 (x.f 24 4), peerChan := 0, ringBase := BitVec.ofNat 64 (x.f 8 8),
    statusAddr := BitVec.ofNat 32 (x.f 16 4) }).msgFinish t x stOk := by
  rw [State.msgListen]
  exact (if_pos hfree).trans (congrArg (State.msgFinish · t x stOk) (setChan_congr s t _ rfl))

theorem msgOpen_of_free (hfree : (s.chan (x.f 4 4)).state = chFree) : s.msgOpen t p x = ((s.setChan t (x.f 4 4) fun e => { e with
    role := 1, state := chOpening, flags := 0, owner := BitVec.ofNat 16 ((s.nOf t).getD 0), peer := BitVec.ofNat 32 (x.f 24 4),
    peerChan := BitVec.ofNat 32 (x.f 28 4), statusAddr := BitVec.ofNat 32 (x.f 16 4) }).msgStarted t x).msgAsk t p x 4
      (BitVec.ofNat 32 (x.f 24 4), 0) (x.f 28 4 % 2 ^ 20) (ctlPayload 1 0 0 (x.f 4 4) 0) := by
  rw [State.msgOpen]
  exact if_pos (by rw [hfree]; rfl)

theorem msgSend_of_closed (hrole : (s.chan (x.f 4 4)).role = 1) (hown : s.ownsEnd t (x.f 4 4) = true)
    (hclosed : (s.chan (x.f 4 4)).state = chClosed) :
    s.msgSend t p x = (s.setChan t (x.f 4 4) fun e => { e with last := BitVec.ofNat 16 stChannelClosed, closedBit := true }).msgFinish t x
      stChannelClosed := by
  simp only [State.msgSend, State.sendClosed, hrole, hown, hclosed, decide_true, Bool.and_self, if_true]
  rfl

theorem msgSend_of_foreign (h : (s.chan (x.f 4 4)).role ≠ 1 ∨ s.ownsEnd t (x.f 4 4) = false) : s.msgSend t p x = s.msgFinish t x stChannelClosed := by
  have hforeign : (decide ((s.chan (x.f 4 4)).role = 1) && s.ownsEnd t (x.f 4 4)) = false := by
    rw [Bool.and_eq_false_iff, decide_eq_false_iff_not]
    exact h
  simp only [State.msgSend, State.sendClosed, hforeign, Bool.false_and, Bool.false_eq_true, if_false]

theorem msgSend_of_open (hrole : (s.chan (x.f 4 4)).role = 1) (hown : s.ownsEnd t (x.f 4 4) = true) (hopen : (s.chan (x.f 4 4)).state = chOpen)
    (hchan : ((s.tile t).sending.filter fun y => y.f 4 4 = x.f 4 4).length < 8) (htile : (s.tile t).sending.length < 16) :
    s.msgSend t p x = s.modSlot t .msg x.num fun y => { y with started := true, deadline := s.jobTime p + (s.part p).replyUs * 1000 } := by
  simp only [State.msgSend, hrole, hown, hopen, hchan, htile, decide_true, Bool.true_or, Bool.and_self, if_true]

theorem msgRelease_of_open (hrole : (s.chan (x.f 4 4)).role = 2) (hown : s.ownsEnd t (x.f 4 4) = true) (hopen : (s.chan (x.f 4 4)).state = chOpen)
    (hpersistent : (s.chan (x.f 4 4)).job = false) : s.msgRelease t p x =
      (s.setChan t (x.f 4 4) fun e => { e with pend := e.clampRelease (BitVec.ofNat 32 (x.f 8 8)) }).msgFinish t x stOk := by
  simp only [State.msgRelease, hrole, hown, hopen, hpersistent, decide_true, Bool.true_or, Bool.and_self, Bool.false_eq_true, if_true, if_false]
  exact congrArg (State.msgFinish · t x stOk) (setChan_congr s t _ rfl)

theorem msgClose_of_open (hrole : (s.chan (x.f 4 4)).role = 2) (hown : s.ownsEnd t (x.f 4 4) = true) (hopen : (s.chan (x.f 4 4)).state = chOpen) :
    s.msgClose t p x = (s.setChan t (x.f 4 4) fun e => { e.zeroed with epoch := e.epoch + 1, state := chFree }).msgFinish t x stOk := by
  have hused : ¬ chOpen = chFree := by decide
  simp only [State.msgClose, hrole, hown, hopen, hused, Bool.not_true, Bool.false_eq_true, if_true, if_false]
  rfl

/-! A SEND that waits for its allotment (R248, R252). -/

/-- The allotment of a SEND: the one its primary took, or the place at the end that its credit gives. -/
theorem allotFor_of {a : U32 × U32} {e : Chan} {n : Nat} (he : s.chan (x.f 4 4) = e)
    (h : (s.tile t).ward.twin = true ∧ kget x.ticket.toNat (s.tile t).allots = some a ∨
      (s.tile t).ward.twin = false ∧ e.role = 1 ∧ s.ownsEnd t (x.f 4 4) = true ∧ e.state = chOpen ∧ (n : Int) ≤ e.credit ∧ a = (e.bytes, e.msgs)) :
    s.allotFor t x n = some a ∧ (!(s.tile t).ward.twin && (decide (e.role ≠ 1) || !s.ownsEnd t (x.f 4 4))) = false := by
  rcases h with ⟨htwin, hallot⟩ | ⟨htwin, hrole, hown, hopen, hcredit, rfl⟩
  · simp [State.allotFor, htwin, hallot]
  · simp [State.allotFor, htwin, he, hrole, hown, hopen, hcredit]

theorem msgAllot_of_allotted {a : U32 × U32} {e : Chan} {n : Nat} {rc : ReadCheck} (ecc : Ecc) (he : s.chan (x.f 4 4) = e)
    (hn : e.need e.bytes (x.f 21 1) = n) (hrc : s.readCheck t 4 [(x.f 8 8, 8 * x.f 21 1)] = rc) (hwaits : rc.waits = false) (hblock : rc.block = none)
    (htag : (s.tile t).tagFree .msg x = true) (hallot : s.allotFor t x n = some a)
    (hown : (!(s.tile t).ward.twin && (decide (e.role ≠ 1) || !s.ownsEnd t (x.f 4 4))) = false) :
    s.msgAllot t p x ecc = (((((s.upset t ecc).eccRead t 4 x.num.val x.pc.toNat ecc).bankFault t .msg x rc.off).takeAllot t x n a).modSlot t .msg x.num
        fun y => { y with reads := rc.slots }).msgAsk t p x 3 (s.chanDst e) (e.epoch.toNat * 2 ^ 48 + e.peerChan.toNat % 2 ^ 20)
      (recordHeader a.2 (x.f 21 1) 1 ++ leBytes 4 a.1.toNat ++ leBytes 4 0 ++ (s.upset t ecc).spadRead t (x.f 8 8) (8 * x.f 21 1)) := by
  simp only [State.msgAllot, he, hn, hrc, hallot, hown, hwaits, htag, hblock, Bool.not_true, Bool.or_self, Bool.false_eq_true, if_false]

theorem takeAllot_of_single {n : Nat} {a : U32 × U32} (htwin : (s.tile t).ward.twin = false) (hother : (s.tile (twinOf t)).ward.twin = false) :
    s.takeAllot t x n a = (s.modChan (x.f 4 4) fun e => { e with bytes := e.bytes + BitVec.ofNat 32 n, msgs := e.msgs + 1 }).modSlot t .msg x.num
      fun y => { y with allot := some a, stall := none } := by
  simp only [State.takeAllot, htwin, hother, setChan_of_primary htwin, Bool.false_eq_true, if_false]

end Operations

/-! The commands. -/

section Commands
variable {s : State} {t : TileId} {p : PartId} {x : Slot} (htile : s.hasTile t = true) (hpart : s.partOf t = some p)
include htile

theorem msgUnitComplete_of_done (hhead : s.headOf t .msg = some x) (hdone : (s.tile t).msgDone x = true) :
    exec (.msgUnitComplete t) s = .next (s.msgComplete t x) := by
  show execMsgUnitComplete t s = _
  simp only [execMsgUnitComplete, onTile_of_hasTile htile, hhead, hdone, if_true]

include hpart

theorem onMsg_of_next {op : Nat} (hnext : s.msgNext t op = some x) (f : State → PartId → Slot → State) :
    s.onMsg t op f = .next (f (s.atWork t x) p x) := by
  simp only [State.onMsg, onTile_of_hasTile htile, hnext, hpart]

theorem exec_msgListen (hnext : s.msgNext t 1 = some x) : exec (.msgListen t) s = .next ((s.atWork t x).msgListen t x) :=
  onMsg_of_next htile hpart hnext fun s _ x => s.msgListen t x

theorem exec_msgOpen (hnext : s.msgNext t 2 = some x) : exec (.msgOpen t) s = .next ((s.atWork t x).msgOpen t p x) :=
  onMsg_of_next htile hpart hnext fun s p x => s.msgOpen t p x

theorem exec_msgSend (hnext : s.msgNext t 3 = some x) : exec (.msgSend t) s = .next ((s.atWork t x).msgSend t p x) :=
  onMsg_of_next htile hpart hnext fun s p x => s.msgSend t p x

theorem exec_msgRelease (hnext : s.msgNext t 4 = some x) : exec (.msgRelease t) s = .next ((s.atWork t x).msgRelease t p x) :=
  onMsg_of_next htile hpart hnext fun s p x => s.msgRelease t p x

theorem exec_msgClose (hnext : s.msgNext t 5 = some x) : exec (.msgClose t) s = .next ((s.atWork t x).msgClose t p x) :=
  onMsg_of_next htile hpart hnext fun s p x => s.msgClose t p x

variable {c : BitVec 20} (ecc : Ecc) (hsend : ((s.tile t).sending.find? fun y => y.allot.isNone && y.f 4 4 = c.toNat) = some x)
include hsend

theorem msgSendAllot_of_late (hlate : x.deadline < s.jobTime p) : exec (.msgSendAllot t c ecc) s = .next (s.sendOverdue t p x) := by
  show execMsgSendAllot t c ecc s = _
  simp only [execMsgSendAllot, onTile_of_hasTile htile, hsend, hpart, hlate, if_true]

theorem msgSendAllot_of_live (hintime : s.jobTime p ≤ x.deadline) (hlive : s.tileLive t = true) :
    exec (.msgSendAllot t c ecc) s = .next (s.msgAllot t p x ecc) := by
  show execMsgSendAllot t c ecc s = _
  simp only [execMsgSendAllot, onTile_of_hasTile htile, hsend, hpart, Int.not_lt.2 hintime, hlive, if_false, if_true]

end Commands

/-- Settles O19 (R239, R243, R244, R247, R248, R252): the next descriptor acts at its end, after the count has come to where it may start. -/
theorem messageUnitActsOnItsDescriptors : Obligations.MessageUnitActsOnItsDescriptors := by
  intro t p s x htile hpart
  refine ⟨?listen, ?opening, ?closed, ?foreign, ?send, ?allot, fun u c f => ⟨fun h => setChan_of_primary h c f, fun h => setChan_of_twin h c f⟩,
    ?release, ?close, msgUnitComplete_of_done htile⟩
  case listen =>
    rintro c rfl h hfree
    refine (exec_msgListen htile hpart h).trans (congrArg _ ?_)
    rw [msgListen_of_free (by rwa [chan_atWork]), nOf_atWork]
  case opening =>
    rintro c rfl h hfree
    refine (exec_msgOpen htile hpart h).trans (congrArg _ ?_)
    rw [msgOpen_of_free (by rwa [chan_atWork]), nOf_atWork]
  case closed =>
    rintro c rfl h hclosed hrole hown
    exact (exec_msgSend htile hpart h).trans (congrArg _ (msgSend_of_closed (by rwa [chan_atWork]) (by rwa [ownsEnd_atWork]) (by rwa [chan_atWork])))
  case foreign =>
    rintro c rfl h hforeign
    exact (exec_msgSend htile hpart h).trans (congrArg _ (msgSend_of_foreign (by rwa [chan_atWork, ownsEnd_atWork])))
  case send =>
    rintro c rfl h hrole hown hopen hchan hsending
    refine (exec_msgSend htile hpart h).trans (congrArg _ ?_)
    rw [msgSend_of_open (by rwa [chan_atWork]) (by rwa [ownsEnd_atWork]) (by rwa [chan_atWork]) (by rwa [tile_atWork]) (by rwa [tile_atWork]),
      part_atWork]
  case allot =>
    rintro c e n ecc a rc hsend he hn hrc
    refine ⟨msgSendAllot_of_late htile hpart ecc hsend, fun hintime hlive hwaits hblock htag hallot => ?_, fun u => takeAllot_of_single⟩
    obtain ⟨hfor, hown⟩ := allotFor_of he hallot
    rw [msgSendAllot_of_live htile hpart ecc hsend hintime hlive, msgAllot_of_allotted ecc he hn hrc hwaits hblock htag hfor hown]
  case release =>
    rintro c rfl h hrole hown hopen hpersistent
    exact (exec_msgRelease htile hpart h).trans (congrArg _ (msgRelease_of_open (by rwa [chan_atWork]) (by rwa [ownsEnd_atWork]) (by rwa [chan_atWork])
      (by rwa [chan_atWork])))
  case close =>
    rintro c rfl h hrole hown hopen
    exact (exec_msgClose htile hpart h).trans (congrArg _ (msgClose_of_open (by rwa [chan_atWork]) (by rwa [ownsEnd_atWork]) (by rwa [chan_atWork])))

end Sys2Proof.Proofs.MessageUnit
end

section
/-!
PROOFS. Rings that hold descriptors and writes back, and the power of banks (06: R160, R161, R180, R182), and the settling of O20 and O21.
-/

namespace Sys2Proof.Proofs.RingsAndBanks
open Sys2Proof.Machine Sys2Proof.Proofs.Frames

section Rings
variable {s : State} {t : TileId} (htile : s.hasTile t = true)
include htile

theorem ringStallTimeout_of_desc {p : PartId} {i : Nat} {e : Eng} {x : Slot} {st : Stall} (hpart : s.partOf t = some p)
    (hstall : (s.tile t).stalled[i]? = some (.desc e x st)) : exec (.ringStallTimeout t i) s =
      .next ((s.reachJob p ((s.part p).t ((s.tile t).stallBeat (s.part p).beat (.desc e x st)) + 1)).abandon t e x st) := by
  show execRingStallTimeout t i s = _
  simp only [execRingStallTimeout, onTile_of_hasTile htile, hstall, hpart]

theorem ringStallTimeout_of_write {p : PartId} {i : Nat} {h : HeldWrite} (hpart : s.partOf t = some p)
    (hstall : (s.tile t).stalled[i]? = some (.write h)) : exec (.ringStallTimeout t i) s =
      .next ((s.reachJob p ((s.part p).t (h.began + ((s.tile t).rings[h.ring]).tmo.toNat) + 1)).dropHeld t h) := by
  show execRingStallTimeout t i s = _
  simp only [execRingStallTimeout, onTile_of_hasTile htile, hstall, hpart]
  rfl

theorem ringHeldWriteAccept_of_held {i : Nat} {h : HeldWrite} (ecc : Ecc) (hheld : (s.tile t).ingress[i]? = some h) :
    exec (.ringHeldWriteAccept t i ecc) s = .next (if s.heldLate t h then s.dropHeld t h else s.acceptHeld t h ecc) := by
  show execRingHeldWriteAccept t i ecc s = _
  simp only [execRingHeldWriteAccept, onTile_of_hasTile htile, hheld]

end Rings

/-! A held write is looked at again after the words its rings and banks give (R161). -/

section Held
variable {s u : State} {t : TileId} {h : HeldWrite} {ecc : Ecc} {w : Wrote} (hu : (s.upset t ecc).eccRead t 6 0 0 ecc = u)
  (hw : (u.tile t).writeRun u.member (u.stepAt t) 3 h.addr.toNat h.pkt.payload = w)
include hu hw

theorem acceptHeld_of_free (hblock : w.block = none) (hrefused : w.refused = none) : s.acceptHeld t h ecc =
    (u.setTile t { w.tile with ingress := (u.tile t).ingress.erase h }).reply t h.pkt stOk [] false := by
  simp only [State.acceptHeld, hu, hw, hblock, hrefused, Option.isSome_none, Bool.false_eq_true, if_false]

theorem acceptHeld_of_blocked {b : Fin 16 × Nat} (hblock : w.block = some b) (hcount : w.count = 0) : s.acceptHeld t h ecc = s := by
  simp only [State.acceptHeld, hu, hw, hblock, hcount, if_true]

end Held

/-- Settles O20 (R160, R161): the two kinds of stall at their deadline, and the three ends of a held write. -/
theorem ringStallsAndHeldWritesEnd : Obligations.RingStallsAndHeldWritesEnd := by
  refine ⟨fun t p i s htile hpart => ⟨fun e x st => ringStallTimeout_of_desc htile hpart, fun h => ringStallTimeout_of_write htile hpart⟩, ?_⟩
  intro t i ecc s u h w htile hheld hu hw
  rw [ringHeldWriteAccept_of_held htile ecc hheld]
  refine ⟨fun hlate => congrArg _ (if_pos hlate), fun hearly => ?_⟩
  rw [if_neg (by rw [hearly]; exact Bool.false_ne_true)]
  exact ⟨fun hblock hrefused => congrArg _ (acceptHeld_of_free hu hw hblock hrefused),
    fun b hblock hcount => congrArg _ (acceptHeld_of_blocked hu hw hblock hcount)⟩

/-! The power of a bank (R180, R182). -/

section Banks
variable {s : State} {t : TileId} {b : BankId}

theorem bankDrained_of_idle (hnone : (s.tile t).writesOf s.member b = []) (ecc : Ecc) :
    s.bankDrained t b ecc = s.setTile t { s.tile t with banks := (s.tile t).banks.set b .off } := by
  simp only [State.bankDrained, hnone, List.isEmpty_nil, List.foldl_nil, if_true]
  rfl

theorem bankDropped_of_idle (hnone : (s.tile t).writesOf s.member b = []) :
    s.bankDropped t b = s.setTile t { s.tile t with banks := (s.tile t).banks.set b .off } := by
  simp only [State.bankDropped, hnone, List.foldl_nil]
  rfl

variable (htile : s.hasTile t = true)
include htile

theorem bankDrainDone_of_draining {since : Int} (hbank : (s.tile t).banks[b] = .draining since) (ecc : Ecc) :
    exec (.bankDrainDone t ⟨b, ecc⟩) s = .next (s.bankDrained t b ecc) := by
  show execBankDrainDone t ⟨b, ecc⟩ s = _
  simp only [execBankDrainDone, onTile_of_hasTile htile, hbank]

theorem bankDrainTimeout_of_draining {since : Int} {p : PartId} (hbank : (s.tile t).banks[b] = .draining since) (hpart : s.partOf t = some p) :
    exec (.bankDrainTimeout t b) s = .next ((s.reachJob p (since + 2001)).bankDropped t b) := by
  show execBankDrainTimeout t b s = _
  simp only [execBankDrainTimeout, onTile_of_hasTile htile, hbank, hpart]

theorem bankClearDone_of_clearing (hbank : (s.tile t).banks[b] = .clearing) : exec (.bankClearDone t b) s = .next (s.bankCleared t b) := by
  show execBankClearDone t b s = _
  rw [execBankClearDone, onTile_of_hasTile htile, if_pos hbank]

theorem bankEvents_of_settled (hbank : (s.tile t).banks[b] = .on ∨ (s.tile t).banks[b] = .off) :
    (∀ ecc, exec (.bankDrainDone t ⟨b, ecc⟩) s = .next s) ∧ exec (.bankDrainTimeout t b) s = .next s ∧ exec (.bankClearDone t b) s = .next s := by
  show (∀ ecc, execBankDrainDone t ⟨b, ecc⟩ s = _) ∧ execBankDrainTimeout t b s = _ ∧ execBankClearDone t b s = _
  rcases hbank with hbank | hbank <;>
    simp only [execBankDrainDone, execBankDrainTimeout, execBankClearDone, onTile_of_hasTile htile, hbank, reduceCtorEq, if_false, implies_true,
      and_self]

end Banks

/-- Settles O21 (R180, R182): the events on a draining bank, on a clearing one, and on one that is ON or OFF. -/
theorem bankPowerEvents : Obligations.BankPowerEvents := by
  intro t b s htile
  refine ⟨fun since hbank ecc => ⟨bankDrainDone_of_draining htile hbank ecc, fun hnone => bankDrained_of_idle hnone ecc⟩,
    fun since p hbank hpart => ⟨bankDrainTimeout_of_draining htile hbank hpart, fun u _ => bankDropped_of_idle⟩,
    fun hbank => bankClearDone_of_clearing htile hbank, bankEvents_of_settled htile⟩

end Sys2Proof.Proofs.RingsAndBanks
end

section
/-!
PROOFS. The stream plane (07: R183, R187, R192, R193), and the settling of O22.
-/

namespace Sys2Proof.Proofs.StreamPlane
open Sys2Proof.Machine Sys2Proof.Proofs.Frames

section Slot
variable {s : State} {t : TileId} {p : PartId} (hpart : s.partOf t = some p) (hopen : (s.tile t).ward.rfence = false)

theorem portSlot_of_idle {t : TileId} {u : State} (h : u.streamLive t = false) (ecc : Ecc) : u.portSlot t ecc = u :=
  if_neg (by rw [h]; exact Bool.false_ne_true)

include hpart

theorem streamSlot_of_judged (ecc : Ecc) (bad : Option (Fin 5)) (hjudged : (s.part p).judged = true) : s.streamSlot t ecc bad = s := by
  simp only [State.streamSlot, hpart, hjudged, Bool.or_true, if_true]

theorem steerToken_of_judged (su : Fin 8) (hjudged : (s.part p).judged = true) : s.steerToken t su = s := by
  simp only [State.steerToken, hpart, hjudged, Bool.or_true, if_true]

include hopen

theorem streamSlot_of_open (ecc : Ecc) (bad : Option (Fin 5)) (hjudged : (s.part p).judged = false) : s.streamSlot t ecc bad =
    ((((s.reachJob p ((s.part p).t (s.part p).beat + 64)).portSlot t ecc).modTile t Tile.passSeams).routeSlot t bad).modTile t fun v =>
      { v with router := { v.router with slot := v.router.slot + 1 } } := by
  simp only [State.streamSlot, hpart, hopen, hjudged, Bool.or_self, Bool.false_eq_true, if_false]

end Slot

/-! Steering units. -/

section Steer
variable {v : Tile} {su : Fin 8}

theorem steer_mod (v : Tile) (su : Fin 8) : v.steer[su.val % 8]'(Nat.mod_lt _ (by decide)) = v.steer[su] := by
  simp only [Nat.mod_eq_of_lt su.isLt, Fin.getElem_fin]

@[simp] theorem steer_modSteer (v : Tile) (su : Fin 8) (f : Steer → Steer) : (v.modSteer su.val f).steer[su] = f v.steer[su] := by
  simp [Tile.modSteer, Nat.mod_eq_of_lt su.isLt]

theorem steerRun_of_empty (fuel : Nat) (h : (v.steer[su]).held = none) : Tile.steerRun su.val fuel v = v := by
  cases fuel with
  | zero => rfl
  | succ fuel => simp only [Tile.steerRun, steer_mod, h]

theorem takeToken_of_zero {f : Flit} {rest : List Flit} (hheld : (v.steer[su]).held = none) (hqueue : v.steerQueue (v.steer[su]).tok = f :: rest)
    (hcount : bitsOf (f.toNat % 2 ^ 32) 23 8 = 0) :
    v.takeToken su.val = (v.steerPop (v.steer[su]).tok).modSteer su.val fun x => { x with held := none } := by
  simp only [Tile.takeToken, steer_mod, hheld, hqueue, hcount, if_true]

variable {s : State} {t : TileId} {p : PartId}

theorem steerToken_of_open (hpart : s.partOf t = some p) (hopen : (s.tile t).ward.rfence = false) (hkind : (s.tile t).steer[su].kind ≠ 0)
    (hjudged : (s.part p).judged = false) : s.steerToken t su =
      (s.reachJob p ((s.part p).t (s.part p).beat + 64)).setTile t (Tile.steerRun su.val 65535 ((s.tile t).takeToken su.val)) := by
  have hkind' : ¬ (s.tile t).steer[su.val].kind = 0 := hkind
  simp only [State.steerToken, hpart, hopen, hjudged, Fin.getElem_fin, hkind', decide_false, Bool.or_self, Bool.false_eq_true, if_false,
    State.modTile_eq, tile_reachJob]

end Steer

/-- Settles O22 (R183, R187, R192, R193): before the deadline is judged the slot and the token act from cycle 64 on; afterwards neither. -/
theorem streamSlotsAndTokens : Obligations.StreamSlotsAndTokens := by
  refine ⟨fun t p ecc bad s htile hpart hopen => ?slot, fun t su p s htile hpart hopen hkind => ?token⟩
  case slot =>
    have hexec : exec (.streamSlot t ecc bad) s = .next (s.streamSlot t ecc bad) := onTile_of_hasTile htile (·.streamSlot t ecc bad)
    rw [hexec]
    exact ⟨fun hjudged => congrArg _ (streamSlot_of_judged hpart ecc bad hjudged),
      fun hjudged => ⟨congrArg _ (streamSlot_of_open hpart hopen ecc bad hjudged), fun hidle => portSlot_of_idle hidle ecc⟩⟩
  case token =>
    have hexec : exec (.steerToken t su) s = .next (s.steerToken t su) := onTile_of_hasTile htile (·.steerToken t su)
    rw [hexec]
    refine ⟨fun hjudged => congrArg _ (steerToken_of_judged hpart su hjudged), fun hjudged u hu => ?_⟩
    rw [steerToken_of_open hpart hopen hkind hjudged, hu]
    refine ⟨rfl, fun f rest hheld hqueue hcount => ?_⟩
    rw [takeToken_of_zero hheld hqueue hcount, steerRun_of_empty _ (by rw [steer_modSteer])]

end Sys2Proof.Proofs.StreamPlane
end

section
/-!
PROOFS. Requests on their way out of a tile and of an I/O die (08: R223, R225, R227), and the settling of O23.
-/

namespace Sys2Proof.Proofs.Injection
open Sys2Proof.Machine Sys2Proof.Proofs.Frames

section Tiles
variable {s : State} {t : TileId} {p : PartId} {w : Waiting}

theorem injectTile_of_first (hpart : s.partOf t = some p) (hfirst : ((s.tile t).inject.find? fun w => s.mayInject t p w) = some w) :
    s.injectTile t =
      let u := s.setTile t { s.tile t with inject := (s.tile t).inject.erase w }
      if w.pkt.fence && (u.tile t).fenced w then u.modTile t fun v => { v with held := v.held ++ [w] } else u.injectNow t p w := by
  simp only [State.injectTile, hpart, hfirst]
  rfl

theorem injectNow_of_translated {d : BitVec 16} (hreach : s.reachable p w.pkt = true) (hdphys : s.dphysOf p t w.pkt = some d)
    (hunpaired : (s.part p).paired = false) (htwin : (s.tile t).ward.twin = false) (hvc : w.pkt.vc ≠ 1) :
    s.injectNow t p w = (s.setTile t { s.tile t with outstanding := (s.tile t).outstanding ++ [{
      pkt := { w.pkt with dphys := d }, deadline := s.jobTime p + (s.part p).replyUs * 1000, injected := w.stamp, order := w.order,
      ticket := w.ticket }] }).enter { w.pkt with dphys := d } t := by
  simp only [State.injectNow, hreach, hdphys, hvc, htwin, if_true, if_false, Bool.false_eq_true]
  exact congrArg (State.enter · _ t) (if_neg (by rw [hunpaired]; exact Bool.false_ne_true))

variable (htile : s.hasTile t = true)
include htile

theorem packetInject_of_tile : exec (.packetInject (.tile t)) s = .next (s.injectTile t) := onTile_of_hasTile htile (·.injectTile t)

theorem fencedRequestRelease_of_free {i : Nat} (hpart : s.partOf t = some p) (hheld : (s.tile t).held[i]? = some w)
    (hfree : (s.tile t).fenced w = false) (hmay : s.mayInject t p w = true) :
    exec (.fencedRequestRelease t i) s = .next ((s.setTile t { s.tile t with held := (s.tile t).held.erase w }).injectNow t p w) := by
  show execFencedRequestRelease t i s = _
  simp only [execFencedRequestRelease, onTile_of_hasTile htile, hheld, hpart, hfree, hmay, Bool.not_false, Bool.and_self, if_true]
  rfl

theorem replyTimeout_of_outstanding {tag : U16} {o : Outstanding} (hpart : s.partOf t = some p)
    (hout : ((s.tile t).outstanding.find? fun o => o.pkt.tag = tag) = some o) :
    exec (.replyTimeout t tag) s = .next ((s.reachJob p (o.deadline + 1)).noReply t p o) := by
  show execReplyTimeout t tag s = _
  simp only [execReplyTimeout, onTile_of_hasTile htile, hpart, hout]

end Tiles

/-! The sources outside the grid. -/

section Dies
variable {s : State} {src : InjectAt} {x : InjectAt × Packet} {d : BitVec 16} {row : BitVec 5}

theorem unitOverdue_of_intime (h : ∀ x ∈ s.mgmtOut, s.now ≤ x.2) : s.unitOverdue = s := by
  have hlate : (s.mgmtOut.filter fun x => decide (x.2 < s.now)) = [] :=
    List.filter_eq_nil_iff.2 fun x hx => by simpa using h x hx
  have hkept : (s.mgmtOut.filter fun x => decide (s.now ≤ x.2)) = s.mgmtOut :=
    List.filter_eq_self.2 fun x hx => decide_eq_true (h x hx)
  simp only [State.unitOverdue, hlate, hkept, List.foldl_nil]

theorem packetInject_of_die (hsrc : ∀ t, src ≠ .tile t) : exec (.packetInject src) s = .next (s.injectIo src) := by
  cases src with
  | tile t => exact absurd rfl (hsrc t)
  | pintle | port p | host f => rfl

theorem injectIo_of_target (hqueue : (s.ioQueue.find? fun x => x.1 = src) = some x) (htarget : s.ioTarget (srcEast src) x.2 = some (d, row)) :
    s.injectIo src =
      let u := ({ s.unitOverdue with ioQueue := s.ioQueue.erase x } : State).unitAsked src x.2
      { u with net := u.net ++ [{ pkt := { x.2 with dphys := d }, loc := .ioDie (srcEast src) row }] } := by
  simp only [State.injectIo, hqueue, htarget]

theorem unitAsked_of_unasked {u : State} {q : Packet} (h : src ≠ .pintle ∨ q.mcast = true) : u.unitAsked src q = u :=
  if_neg (by rcases h with h | h <;> simp [h])

theorem unitAsked_of_asked {u : State} {q : Packet} (hsrc : src = .pintle) (hone : q.mcast = false) :
    u.unitAsked src q = { u with mgmtOut := u.mgmtOut ++ [(q.tag, u.now + 2000000)] } :=
  if_pos (by simp [hsrc, hone])

end Dies

/-- Settles O23 (R223, R225, R227): from the tile's queue, from behind the fence, at the deadline, and from the sources outside the grid. -/
theorem requestsAreInjectedHeldAndReleased : Obligations.RequestsAreInjectedHeldAndReleased := by
  refine ⟨fun t p s w htile hpart hfirst => ?tile, fun t p i s w htile hpart => fencedRequestRelease_of_free htile hpart,
    fun t p tag s o htile hpart => replyTimeout_of_outstanding htile hpart, fun src s x d row hsrc hqueue htarget => ?die,
    fun s => unitOverdue_of_intime⟩
  case tile =>
    rw [packetInject_of_tile htile, injectTile_of_first hpart hfirst]
    refine ⟨fun hfence hheld => congrArg _ ((if_pos ?_).trans ?_), fun hfree => congrArg _ (if_neg ?_),
      fun d => injectNow_of_translated⟩
    · rw [hfence, hheld]; rfl
    · rw [State.modTile_eq, State.tile_setTile]
    · rw [hfree]; exact Bool.false_ne_true
  case die =>
    rw [packetInject_of_die hsrc, injectIo_of_target hqueue htarget]
    refine ⟨fun hquiet => ?_, fun hpintle hone => ?_⟩
    · rw [unitAsked_of_unasked hquiet]
    · rw [unitAsked_of_asked hpintle hone]

end Sys2Proof.Proofs.Injection
end

section
/-!
PROOFS. One hop of a packet (08: R217, R218, R222, R224, R229), and the settling of O24.
-/

namespace Sys2Proof.Proofs.PacketHops
open Sys2Proof.Machine

/-! The course of a packet of one destination at a router. -/

section Course
variable {u : State} {t : TileId} {i : Nat} {k : NetPkt}

theorem course_of_reserved (h : knownType k.pkt.type.toNat = false) : u.course t i k = .discard := by
  simp only [State.course, h, Bool.not_false, if_true]

variable (hknown : knownType k.pkt.type.toNat = true) (hone : k.pkt.mcast = false)
include hknown hone

theorem course_at_goal (hgoal : u.goal k.pkt = (t.px.toNat, t.py.toNat)) (hgrid : bitAt k.pkt.dphys.toNat 15 = false) :
    u.course t i k = .forward [4] none (pktIsReply k.pkt || !u.localHeld t k.pkt.vc) := by
  simp only [State.course, hknown, hone, hgoal, hgrid, Bool.not_true, Bool.false_eq_true, if_false, decide_true, Bool.and_self, if_true]

theorem course_away {best : Option (Nat × TileId)} {room : Nat × TileId → Nat} (hgoal : u.goal k.pkt ≠ (t.px.toNat, t.py.toNat))
    (hroom : room = fun o => if u.seamPaused (u.member.hdOf t) (u.member.hdOf o.2) then 0 else u.hopCredit o.2 (facing o.1) (u.seamHop t o.2) k.pkt)
    (hbest : best = bestOutput room ((u.outputs t i k.pkt).filter fun o => !u.routerFenced o.2)) :
    u.course t i k = best.elim .refuse fun o => .forward [o.1] (some o) (decide (pktFlits k.pkt ≤ room o)) := by
  have haway : (decide ((u.goal k.pkt).1 = t.px.toNat) && decide ((u.goal k.pkt).2 = t.py.toNat)) = false := by
    rw [← Bool.decide_and, decide_eq_false_iff_not]
    exact fun h => hgoal (Prod.ext h.1 h.2)
  subst hroom
  simp only [State.course, hknown, hone, haway, Bool.not_true, Bool.false_eq_true, if_false]
  rw [← hbest]
  cases best <;> rfl

end Course

/-! The hop that a course gives, at a router that is not fenced. -/

section Hop
variable {u : State} {t : TileId} {i : Nat} {k : NetPkt} {word : SeamWord} (hopen : (u.tile t).ward.rfence = false)
include hopen

theorem routerHop_of_discard (hcourse : u.course t i k = .discard) : u.routerHop t i k word =
    (u.lift k).setTile t { u.tile t with reservedTypes := (u.tile t).reservedTypes + 1 } := by
  simp only [State.routerHop, State.routerFenced, hopen, hcourse, Bool.false_eq_true, if_false]
  rfl

theorem routerHop_of_refuse (hcourse : u.course t i k = .refuse) : u.routerHop t i k word = (u.lift k).routerRefuse t k.pkt := by
  simp only [State.routerHop, State.routerFenced, hopen, hcourse, Bool.false_eq_true, if_false]

variable {o : Nat} {hop : Option (Nat × TileId)} {ready : Bool} (hcourse : u.course t i k = .forward [o] hop ready)
include hcourse

theorem routerHop_of_chosen (hready : ready = true) (hchosen : u.chosen t (pktIsReply k.pkt) o = some (i, k)) :
    u.routerHop t i k word = u.advance t i k [o] hop word := by
  simp only [State.routerHop, State.routerFenced, hopen, hcourse, hready, hchosen, List.all_cons, List.all_nil, beq_self_eq_true, Bool.and_self,
    Bool.false_eq_true, if_false, if_true]

theorem routerHop_of_waiting (hwait : ready = false ∨ u.chosen t (pktIsReply k.pkt) o ≠ some (i, k)) : u.routerHop t i k word = u := by
  simp only [State.routerHop, State.routerFenced, hopen, hcourse, Bool.false_eq_true, if_false, List.all_cons, List.all_nil, Bool.and_true]
  refine if_neg fun h => ?_
  obtain ⟨hready, hchosen⟩ := Bool.and_eq_true_iff.1 h
  exact hwait.elim (fun h => Bool.false_ne_true (h.symm.trans hready)) fun h => h (eq_of_beq hchosen)

end Hop

theorem cross_of_carried {s : State} {t u : TileId} {k : NetPkt} {o : Nat} {word : SeamWord} (h : word ≠ .uncorrectable) :
    s.cross t k o u word = s.drop k (.router u ⟨facing o % 5, Nat.mod_lt _ (by decide)⟩) := by
  cases word with
  | clean | corrected => rfl
  | uncorrectable => exact absurd rfl h

theorem packetRoute_at_router {i : Nat} {word : SeamWord} {s u : State} {k : NetPkt} {t : TileId} {inp : Fin 5} (hu : s.noteReady = u)
    (hk : u.net[i]? = some k) (hloc : k.loc = .router t inp) : exec (.packetRoute i word) s = .next (u.routerHop t inp.val k word).noteReady := by
  show execPacketRoute i word s = _
  simp only [execPacketRoute, hu, hk, hloc]

/-! The choice at an output (R218): urgent packets first while no scheduled one stands ready. -/

theorem leastBy_of_ne_nil {α : Type} (f : α → Nat) {l : List α} (h : l ≠ []) : ∃ y, leastBy f l = some y ∧ y ∈ l ∧ ∀ x ∈ l, f y ≤ f x := by
  induction l with
  | nil => exact absurd rfl h
  | cons a l ih =>
    cases hl : leastBy f l with
    | none =>
      have hnil : l = [] := by
        by_contra hne
        obtain ⟨y, hy, -⟩ := ih hne
        exact absurd (hl.symm.trans hy) (by simp)
      exact ⟨a, by rw [leastBy, hl], List.mem_cons_self, by simp [hnil]⟩
    | some b =>
      have hne : l ≠ [] := by rintro rfl; exact absurd hl (by simp [leastBy])
      obtain ⟨y, hy, hmem, hleast⟩ := ih hne
      obtain rfl : y = b := Option.some_injective _ (hy.symm.trans hl)
      rw [leastBy, hl]
      by_cases hlt : f y < f a
      · exact ⟨y, if_pos hlt, List.mem_cons_of_mem _ hmem, by simpa [hlt.le] using hleast⟩
      · refine ⟨a, if_neg hlt, List.mem_cons_self, ?_⟩
        simp only [List.forall_mem_cons, Nat.le_refl, true_and]
        exact fun x hx => (Nat.le_of_not_lt hlt).trans (hleast x hx)

theorem preference_of_urgent {s : State} {t : TileId} {k : NetPkt} (h : k.pkt.vc = 3) : s.preference t k = 0 := by
  rw [State.preference, h]
  rfl

theorem urgent_of_preference {s : State} {t : TileId} {k : NetPkt} (h : s.preference t k = 0) : k.pkt.vc = 3 := by
  unfold State.preference at h
  split at h
  · rename_i hvc
    exact BitVec.eq_of_toNat_eq hvc
  · exact absurd h (by decide)
  · exact absurd h (by decide)
  · split at h <;> exact absurd h (by decide)

theorem turnOf_lt (last i : Nat) : turnOf last i < 5 := Nat.mod_lt _ (by decide)

/-- What an output prefers of the heads ready for it: the class first, then the turn of the input. -/
def rankOf (s : State) (t : TileId) (rep : Bool) (o : Nat) (x : Nat × NetPkt) : Nat :=
  5 * s.preference t x.2 + turnOf (((s.tile t).arbAt rep o).last[x.2.pkt.vc.toNat]) x.1

theorem chosen_of_urgent {s : State} {t : TileId} {rep : Bool} {o : Nat} {x : Nat × NetPkt} (hx : x ∈ s.readyFor t rep o) (hurgent : x.2.pkt.vc = 3)
    (hfree : ∀ y ∈ s.readyFor t rep o, y.2.pkt.vc ≠ 0) : ∃ y, s.chosen t rep o = some y ∧ y ∈ s.readyFor t rep o ∧ y.2.pkt.vc = 3 := by
  have hnone : ((s.readyFor t rep o).any fun x => decide (x.2.pkt.vc = 0)) = false :=
    List.any_eq_false.2 fun y hy => by simpa using hfree y hy
  obtain ⟨y, hy, hmem, hleast⟩ := leastBy_of_ne_nil (rankOf s t rep o) (List.ne_nil_of_mem hx)
  refine ⟨y, ?_, hmem, urgent_of_preference (t := t) (s := s) ?_⟩
  · simp only [State.chosen, hnone, Bool.not_false, Bool.or_true, Bool.true_or, List.filter_true]
    exact hy
  · have hyx := hleast x hx
    have hturn := turnOf_lt (((s.tile t).arbAt rep o).last[x.2.pkt.vc.toNat]) x.1
    rw [rankOf, rankOf, preference_of_urgent hurgent] at hyx
    omega

theorem mcastCreditTimeout_of_held {i : Nat} {s : State} {k : NetPkt} {t : TileId} {inp : Fin 5} (hk : s.net[i]? = some k)
    (hloc : k.loc = .router t inp) (hmany : k.pkt.mcast = true) (hheld : ∃ o ∈ s.mcastOutputs t inp.val k, s.mcastReady t k o = false) :
    exec (.mcastCreditTimeout i) s = .next (s.mcastDrop t inp.val k) := by
  have hany : ((s.mcastOutputs t inp.val k).any fun o => !s.mcastReady t k o) = true :=
    List.any_eq_true.2 (hheld.imp fun o h => ⟨h.1, by rw [h.2]; rfl⟩)
  show execMcastCreditTimeout i s = _
  simp only [execMcastCreditTimeout, hk, hloc, hmany, hany, Bool.and_self, if_true]

theorem deliver_of_control {t : TileId} {q : Packet} {s : State} (hvc : 2 ≤ q.vc.toNat) (htwin : (s.tile (twinOf t)).ward.twin = false)
    (hne : twinOf t ≠ t) : s.deliver t q = s.setTile t { s.tile t with arrivals := (s.tile t).arrivals ++ [q] } := by
  simp only [State.deliver, hvc, decide_true, Bool.true_or, if_true, State.atTile, State.tile_modTile_ne s t _ _ hne, htwin, Bool.false_and,
    Bool.false_eq_true, if_false]
  rfl

/-- Settles O24 (R217, R218, R222, R224, R229): the course decides the hop, and the choice at the output whether it comes now. -/
theorem packetsMoveOneHop : Obligations.PacketsMoveOneHop := by
  refine ⟨fun i word s u k t inp room hu hk hloc hopen hroom => ?hop, fun s t rep o x => chosen_of_urgent, fun i s k t inp hk hloc hmany hheld =>
    ⟨_, rfl, mcastCreditTimeout_of_held hk hloc hmany hheld⟩, fun t q s => deliver_of_control⟩
  rw [packetRoute_at_router hu hk hloc]
  refine ⟨fun hreserved => by rw [routerHop_of_discard hopen (course_of_reserved hreserved)], fun hknown hone =>
    ⟨fun hgoal best hbest => ?away, fun hgoal hgrid => ?at_goal⟩⟩
  case away =>
    have hcourse := course_away hknown hone hgoal hroom hbest
    refine ⟨?_, ?_, ?_⟩
    · rintro rfl
      rw [routerHop_of_refuse hopen hcourse]
    · rintro o v rfl hfits hchosen rfl
      rw [routerHop_of_chosen hopen hcourse (decide_eq_true hfits) hchosen]
      refine ⟨fun hword => ?_, ?_⟩
      · simp only [State.advance, cross_of_carried hword]
        rfl
      · rintro rfl
        rfl
    · rintro o rfl hwait
      rw [routerHop_of_waiting hopen hcourse (hwait.imp_left fun h => decide_eq_false (Nat.not_le_of_lt h))]
  case at_goal =>
    have hcourse := course_at_goal (i := inp.val) hknown hone hgoal hgrid
    refine ⟨fun hcredit hchosen => ?_, fun hwait => ?_⟩
    · rw [routerHop_of_chosen hopen hcourse (by rcases hcredit with h | h <;> simp [h]) hchosen]
      simp only [State.advance, hone, hgrid, Bool.false_eq_true, if_false]
    · rw [routerHop_of_waiting hopen hcourse (hwait.imp_left fun h => by rw [h.1, h.2]; rfl)]

end Sys2Proof.Proofs.PacketHops
end

section
/-!
PROOFS. Messages and control packets at a channel end of a tile (09: R239, R243–R247, R252), and the settling of O26.
-/

namespace Sys2Proof.Proofs.ChannelEnds
open Sys2Proof.Machine Sys2Proof.Proofs.Frames Sys2Proof.Proofs.Requests

/-! The end that a packet names stands as before when the packet is taken. -/

section Taken
variable (s : State) (t : TileId) (q : Packet) (c : Nat)

@[simp] theorem chan_received : (received s t q).chan c = s.chan c := rfl

@[simp] theorem nOf_received : (received s t q).nOf t = s.nOf t := by
  simp only [State.nOf, tile_received, taken]
  rfl

@[simp] theorem ownsEnd_received : (received s t q).ownsEnd t c = s.ownsEnd t c := by
  rw [State.ownsEnd, chan_received, nOf_received, State.ownsEnd]

end Taken

/-! When a packet waits for a ring of the message unit (R159). -/

section Waits
variable {s : State} {t : TileId} {q : Packet} {c : Nat} {e : Chan} (hc : c = q.addr.toNat % 2 ^ 20) (he : s.chan c = e)
include hc

theorem recordWaits_of_foreign (h : s.ownsEnd t c = false) : s.recordWaits (.tile t) q = false := by
  subst hc
  simp only [State.recordWaits, endKey, h, Bool.and_false, Bool.false_and]

theorem wordWaits_of_foreign {st : Byte} (h : s.ownsEnd t c = false) : s.wordWaits (.tile t) q st = false := by
  subst hc
  simp only [State.wordWaits, endKey, h, Bool.and_false, Bool.false_and]

include he

theorem recordWaits_of_persistent (h : e.job = false) : s.recordWaits (.tile t) q = false := by
  subst hc
  simp only [State.recordWaits, endKey, he, h, Bool.false_and]

theorem recordWaits_of_refused (h : e.role ≠ 2 ∨ e.state ≠ chOpen ∨ e.epoch.toNat ≠ q.addr.toNat / 2 ^ 48) : s.recordWaits (.tile t) q = false := by
  subst hc
  rcases h with h | h | h <;> simp only [State.recordWaits, endKey, he, h, decide_false, Bool.and_false, Bool.false_and]

theorem wordWaits_of_other {st : Byte} (h : e.state ≠ st) : s.wordWaits (.tile t) q st = false := by
  subst hc
  simp only [State.wordWaits, endKey, he, h, decide_false, Bool.and_false, Bool.false_and]

theorem wordWaits_of_owned {st : Byte} (hrole : e.role = 2) (hstate : e.state = st) (hown : s.ownsEnd t c = true) :
    s.wordWaits (.tile t) q st = ((s.tile t).writeBlock 4 e.statusAddr.toNat 8).isSome := by
  subst hc
  simp only [State.wordWaits, endKey, he, hrole, hstate, hown, decide_true, Bool.and_self, Bool.true_and]

end Waits

/-! What arrives at an end that the tile owns, and at one that it does not. -/

section Arrivals
variable {u : State} {t : TileId} {q : Packet} {c : Nat} {e : Chan} (hc : c = q.addr.toNat % 2 ^ 20)
include hc

section Foreign
variable (hown : u.ownsEnd t c = false)
include hown

theorem msgArrives_of_foreign : u.msgArrives (.tile t) q = u.reply t q stChannelClosed [] false := by
  subst hc
  simp only [State.msgArrives, endKey, State.endOwns, hown, Bool.not_false, if_true, State.endReply]

theorem openArrives_of_foreign : u.openArrives (.tile t) q = u.reply t q stChannelClosed [] false := by
  subst hc
  simp only [State.openArrives, endKey, State.endOwns, hown, Bool.and_false, Bool.false_and, Bool.false_eq_true, if_false, State.endReply]

theorem openAckArrives_of_foreign : u.openAckArrives (.tile t) q = u.reply t q stChannelClosed [] false := by
  subst hc
  simp only [State.openAckArrives, endKey, State.endOwns, hown, Bool.and_false, Bool.false_and, Bool.false_eq_true, if_false, State.endReply]

theorem closeArrives_of_foreign : u.closeArrives (.tile t) q = u.reply t q stChannelClosed [] false := by
  subst hc
  simp only [State.closeArrives, endKey, State.endOwns, hown, Bool.and_false, Bool.false_and, Bool.false_eq_true, if_false, State.endReply]

end Foreign

variable (he : u.chan c = e)
include he

theorem openArrives_of_used (hused : e.state ≠ chListen) : u.openArrives (.tile t) q = u.reply t q stChannelClosed [] false := by
  subst hc
  simp only [State.openArrives, endKey, he, hused, decide_false, Bool.and_false, Bool.false_and, Bool.false_eq_true, if_false, State.endReply]

variable (hown : u.ownsEnd t c = true)
include hown

theorem msgArrives_of_refused (h : e.role ≠ 2 ∨ e.state ≠ chOpen ∨ e.epoch.toNat ≠ q.addr.toNat / 2 ^ 48) : u.msgArrives (.tile t) q =
    (u.modChan c fun e => { e with refused := e.refused + 1 }).reply t q stChannelClosed [] false := by
  subst hc
  have hrefuse : (decide (e.role ≠ 2) || decide (e.state ≠ chOpen) || decide (e.epoch.toNat ≠ q.addr.toNat / 2 ^ 48)) = true := by
    simpa [or_assoc] using h
  simp only [State.msgArrives, endKey, he, State.endOwns, hown, hrefuse, Bool.not_true, Bool.false_eq_true, if_false, if_true, State.endReply]

theorem msgArrives_of_next {p : PartId} {pos : U32} {v : State} (hpart : u.partOf t = some p) (hrole : e.role = 2) (hopen : e.state = chOpen)
    (hepoch : e.epoch.toNat = q.addr.toNat / 2 ^ 48) (hpeer : q.src = e.peer) (hflags : e.flags = 1)
    (hseq : BitVec.ofNat 32 (fieldAt q.payload 4 4) = e.msgs) (hpos : BitVec.ofNat 32 (fieldAt q.payload 8 4) = pos) (hsizes : e.sizes = [])
    (hroom : (e.need pos (bitsOf (fieldAt q.payload 0 4) 7 4) : Int) ≤ (e.released + BitVec.ofNat 32 e.ring - pos).toInt)
    (hplace : u.placeRecord (.tile t) (some p) e pos q = (v, stOk)) : u.msgArrives (.tile t) q =
      (v.modChan c fun e' => e'.mark e.msgs (e.need pos (bitsOf (fieldAt q.payload 0 4) 7 4))).reply t q stOk [] false := by
  subst hc
  have hjob : e.job = false := by rw [Chan.job, hflags]; rfl
  have hopenPeer : bitAt e.flags.toNat 1 = false := by rw [hflags]; rfl
  have hplace' : u.placeRecord (.tile t) (some p) e pos q = (v, 0) := hplace
  simp only [State.msgArrives, endKey, he, State.endOwns, State.endPart, hown, hpart, hrole, hopen, hepoch, hpeer, hseq, hpos, hsizes, hjob,
    hopenPeer,
    hplace', Int.not_lt.2 hroom, BitVec.sub_self, ne_eq, not_true_eq_false, decide_false, Bool.not_true, Bool.not_false, Bool.or_self, Bool.and_false,
    Bool.false_and, Bool.false_eq_true, if_false, List.any_nil, State.endReply]
  rfl

theorem openArrives_of_listening {p : PartId} (hpart : u.partOf t = some p) (hrole : e.role = 2) (hlisten : e.state = chListen)
    (hpeer : e.peer = q.src ∨ e.peer = 0xFFFFFFFF) : u.openArrives (.tile t) q =
      let w := ((u.modChan c fun e => { e.zeroed with
        state := chOpen, peer := q.src, peerChan := BitVec.ofNat 32 (fieldAt q.payload 4 4 % 2 ^ 20), closedBit := false }).showRecv (.tile t) c).reply t q
          stOk [] false
      w.forTiles (w.withTwin t) fun s u => s.unitRequest u p 4 q.src 0 (fieldAt q.payload 4 4 % 2 ^ 20) (ctlPayload 2 0 e.epoch c e.ringLog2.toNat) := by
  subst hc
  have hlet : (decide (e.peer = 0xFFFFFFFF#32) || decide (e.peer = q.src)) = true := by simpa [or_comm] using hpeer
  simp only [State.openArrives, endKey, he, State.endOwns, State.endPart, hown, hpart, hrole, hlisten, hlet, decide_true, Bool.and_self, if_true,
    State.endReply]

theorem openAckArrives_of_opening (hrole : e.role = 1) (hopening : e.state = chOpening) (hpeer : e.peer = q.src) {w : State}
    (hw : w = (u.modChan c fun e => { e.zeroed with
      state := chOpen, epoch := BitVec.ofNat 16 (fieldAt q.payload 2 2), ringLog2 := BitVec.ofNat 8 (fieldAt q.payload 8 1),
      closedBit := false, last := 0, doneCount := 0 }).reply t q stOk [] false) : u.openAckArrives (.tile t) q =
    w.forTiles (w.withTwin t) fun s u =>
      match (s.tile u).msg.slots.find? fun x => ctrlBits x.desc 31 28 = 2 && x.started && !x.finished && x.f 4 4 = c with
      | some x => s.msgFinish u x stOk
      | none => s := by
  subst hc hw
  simp only [State.openAckArrives, endKey, he, State.endOwns, hown, hrole, hopening, hpeer, decide_true, Bool.and_self, if_true,
    State.endReply] <;> rfl

theorem creditArrives_of_open {p : PartId} (hpart : u.partOf t = some p) (hrole : e.role = 1) (hopen : e.state = chOpen)
    (hslot : e.job = true → u.slotDiffers (some p) q = false) (hepoch : e.epoch.toNat = fieldAt q.payload 2 2)
    (hwritten : 0 ≤ (e.bytes - BitVec.ofNat 32 (fieldAt q.payload 8 4)).toInt) : u.creditArrives (.tile t) q =
      (u.modChan c fun e => { e with released := BitVec.ofNat 32 (fieldAt q.payload 8 4) }).reply t q stOk [] false := by
  subst hc
  have hcurrent : (e.job && u.slotDiffers (some p) q) = false := by
    rw [Bool.and_eq_false_imp]
    exact hslot
  simp only [State.creditArrives, endKey, he, State.endOwns, State.endPart, hown, hpart, hrole, hopen, hcurrent, hepoch, hwritten, decide_true,
    Bool.and_self, Bool.not_true, Bool.false_eq_true, if_false, if_true, State.endReply]

theorem closeArrives_of_open (hrole : e.role = 2) (hopen : e.state = chOpen) (hpeer : e.peer = q.src) : u.closeArrives (.tile t) q =
    ((u.modChan c fun e => { e with state := chClosed, closedBit := true }).showRecv (.tile t) c).reply t q stOk [] false := by
  subst hc
  simp only [State.closeArrives, endKey, he, State.endOwns, hown, hrole, hopen, hpeer, decide_true, Bool.or_true, Bool.and_self, if_true,
    State.endReply]

end Arrivals

/-! The commands. -/

section Commands
variable {s : State} {t : TileId} {q : Packet} (htile : s.hasTile t = true) (hq : q ∈ (s.tile t).arrivals) (hstale : s.genStale (.tile t) q = false)
include htile

theorem msgctlOpen_of_waiting (hwaits : s.wordWaits (.tile t) q chListen = true) : exec (.msgctlOpen (.tile t) q) s = .next s := by
  show execMsgctlOpen (.tile t) q s = _
  simp only [execMsgctlOpen, State.atArrival, State.atEnd, onTile_of_hasTile htile, hwaits, Bool.not_true, Bool.and_false, Bool.false_and,
    Bool.false_eq_true, if_false]

theorem msgctlClose_of_waiting (hwaits : s.wordWaits (.tile t) q chOpen = true) : exec (.msgctlClose (.tile t) q) s = .next s := by
  show execMsgctlClose (.tile t) q s = _
  simp only [execMsgctlClose, State.atArrival, State.atEnd, onTile_of_hasTile htile, hwaits, Bool.not_true, Bool.and_false, Bool.false_and,
    Bool.false_eq_true, if_false]

include hq hstale

theorem msgArrival_taken (htype : q.type = 3) (hgo : s.recordWaits (.tile t) q = false) :
    exec (.msgArrival (.tile t) q) s = .next ((received s t q).msgArrives (.tile t) q) :=
  atArrival_tile (fun s => s.msgArrives (.tile t) q) htile hq hstale (by rw [htype, hgo]; rfl)

theorem msgctlOpen_taken (htype : isCtl q 1 = true) (hgo : s.wordWaits (.tile t) q chListen = false) :
    exec (.msgctlOpen (.tile t) q) s = .next ((received s t q).openArrives (.tile t) q) :=
  atArrival_tile (fun s => s.openArrives (.tile t) q) htile hq hstale (by rw [htype, hgo]; rfl)

theorem msgctlOpenAck_taken (htype : isCtl q 2 = true) :
    exec (.msgctlOpenAck (.tile t) q) s = .next ((received s t q).openAckArrives (.tile t) q) :=
  atArrival_tile (fun s => s.openAckArrives (.tile t) q) htile hq hstale htype

theorem msgctlCredit_taken (htype : isCtl q 3 = true) :
    exec (.msgctlCredit (.tile t) q) s = .next ((received s t q).creditArrives (.tile t) q) :=
  atArrival_tile (fun s => s.creditArrives (.tile t) q) htile hq hstale htype

theorem msgctlClose_taken (htype : isCtl q 4 = true) (hgo : s.wordWaits (.tile t) q chOpen = false) :
    exec (.msgctlClose (.tile t) q) s = .next ((received s t q).closeArrives (.tile t) q) :=
  atArrival_tile (fun s => s.closeArrives (.tile t) q) htile hq hstale (by rw [htype, hgo]; rfl)

end Commands

/-- What a unit does at an end of a tile, its twin does too. -/
theorem forTiles_withTwin (t : TileId) (w : State) (f : State → TileId → State) :
    ((w.tile (twinOf t)).ward.twin = false → w.forTiles (w.withTwin t) f = f w t) ∧
    ((w.tile (twinOf t)).ward.twin = true → w.forTiles (w.withTwin t) f = f (f w t) (twinOf t)) := by
  refine ⟨fun h => ?_, fun h => ?_⟩ <;> rw [State.withTwin, h] <;> rfl

/-- Settles O26 (R239, R243–R247, R252): the packet is taken where no ring holds it back, and its end answers. -/
theorem messagesAndControlPacketsReachAnEnd : Obligations.MessagesAndControlPacketsReachAnEnd := by
  rintro t p q s _ c e htile hpart hq hstale rfl hc he
  refine ⟨fun hown => ?owned, fun hforeign => ?foreign, forTiles_withTwin t⟩
  case owned =>
    have hown' : (received s t q).ownsEnd t c = true := (ownsEnd_received ..).trans hown
    have he' : (received s t q).chan c = e := he
    have hpart' : (received s t q).partOf t = some p := hpart
    refine ⟨fun htype hrefused => ?_, fun pos v htype hrole hopen hepoch hpeer hflags hseq hpos hsizes hroom hplace => ?_,
      fun htype hrole hlisten hpeer => ⟨fun hfree => ?_, fun hheld => ?_⟩, fun htype hused => ?_, fun htype hrole hopening hpeer w hw => ?_,
      fun htype hrole hopen hslot hepoch hwritten => ?_, fun htype hrole hopen hpeer => ⟨fun hfree => ?_, fun hheld => ?_⟩⟩
    · rw [msgArrival_taken htile hq hstale htype (recordWaits_of_refused hc he hrefused), msgArrives_of_refused hc he' hown' hrefused]
      rfl
    · have hjob : e.job = false := by rw [Chan.job, hflags]; rfl
      rw [msgArrival_taken htile hq hstale htype (recordWaits_of_persistent hc he hjob),
        msgArrives_of_next hc he' hown' hpart' hrole hopen hepoch hpeer hflags hseq hpos hsizes hroom hplace]
    · rw [msgctlOpen_taken htile hq hstale htype (by rw [wordWaits_of_owned hc he hrole hlisten hown, hfree]; rfl),
        openArrives_of_listening hc he' hown' hpart' hrole hlisten hpeer]
      rfl
    · exact msgctlOpen_of_waiting htile (by rw [wordWaits_of_owned hc he hrole hlisten hown]; exact Option.isSome_iff_ne_none.2 hheld)
    · rw [msgctlOpen_taken htile hq hstale htype (wordWaits_of_other hc he hused), openArrives_of_used hc he' hused]
      rfl
    · exact (msgctlOpenAck_taken htile hq hstale htype).trans (congrArg _ (openAckArrives_of_opening hc he' hown' hrole hopening hpeer hw))
    · rw [msgctlCredit_taken htile hq hstale htype, creditArrives_of_open hc he' hown' hpart' hrole hopen hslot hepoch hwritten]
      rfl
    · rw [msgctlClose_taken htile hq hstale htype (by rw [wordWaits_of_owned hc he hrole hopen hown, hfree]; rfl),
        closeArrives_of_open hc he' hown' hrole hopen hpeer]
      rfl
    · exact msgctlClose_of_waiting htile (by rw [wordWaits_of_owned hc he hrole hopen hown]; exact Option.isSome_iff_ne_none.2 hheld)
  case foreign =>
    have hforeign' : (received s t q).ownsEnd t c = false := (ownsEnd_received ..).trans hforeign
    refine ⟨fun htype => ?_, fun htype => ?_, fun htype => ?_, fun htype => ?_⟩
    · rw [msgArrival_taken htile hq hstale htype (recordWaits_of_foreign hc hforeign), msgArrives_of_foreign hc hforeign']
      rfl
    · rw [msgctlOpen_taken htile hq hstale htype (wordWaits_of_foreign hc hforeign), openArrives_of_foreign hc hforeign']
      rfl
    · rw [msgctlOpenAck_taken htile hq hstale htype, openAckArrives_of_foreign hc hforeign']
      rfl
    · rw [msgctlClose_taken htile hq hstale htype (wordWaits_of_foreign hc hforeign), closeArrives_of_foreign hc hforeign']
      rfl

end Sys2Proof.Proofs.ChannelEnds
end

section
/-!
PROOFS. Management requests, load images and notices (08: R213; 13: R324, R325; 14: R390, R391), and the settling of O27.
-/

namespace Sys2Proof.Proofs.Management
open Sys2Proof.Machine Sys2Proof.Proofs.Frames Sys2Proof.Proofs.Requests

section Requests
variable {s : State} {t : TileId} {q : Packet}

theorem mgmtWrite_imem (hep : q.dst.toNat % 8 = 0) (haddr : q.addr.toNat < 0x20000) :
    s.mgmtWrite t q = s.modTile t fun v => { v with imem := v.imem.put q.addr.toNat q.payload } := by
  simp only [State.mgmtWrite, hep, haddr, if_true]

theorem mgmtWrite_ward (hep : q.dst.toNat % 8 = 6) (haddr : q.addr.toNat = 0) :
    s.mgmtWrite t q = s.modTile t fun v => v.setWard (fieldAt q.payload 0 4) := by
  simp only [State.mgmtWrite, hep, haddr, if_true]

theorem setWard_of_open {v : Tile} {w : Nat} (ht : bitAt w 30 = false) (hr : bitAt w 31 = false) : v.setWard w = { v with ward := { v.ward with
    rfence := false, tfence := false, diag := bitAt w 29, test := bitAt w 28, twin := bitAt w 26 } } := by
  simp only [Tile.setWard, Ward.setWord, ht, hr, Bool.or_self, Bool.false_eq_true, if_false]

theorem mgmtRead_imem (hep : q.dst.toNat % 8 = 0) :
    s.mgmtRead t q = (List.range q.len.toNat).map fun i => (s.tile t).imem.get (tileKey t) (q.addr.toNat + i) := by
  simp only [State.mgmtRead, hep]

theorem imageTaken_of_missing {v : Tile} {k : Nat} (hk : k = q.addr.toNat % 2 ^ 32) (hloading : v.load.loading = true)
    (hopen : v.ward.tfence = false) (himage : q.addr.toNat / 2 ^ 48 = v.load.image.toNat) (hfrag : k < v.load.frags.toNat) (hnew : k ∉ v.load.got) :
    v.imageTaken q = { v with imem := v.imem.put (256 * k) q.payload, load := { v.load with got := v.load.got ++ [k] } } := by
  subst hk
  have hgot : (v.load.got.contains (q.addr.toNat % 2 ^ 32)) = false := by simpa using hnew
  simp only [Tile.imageTaken, hloading, hopen, himage, hfrag, hgot, Bool.not_false, decide_true, Bool.and_self, Bool.false_eq_true, if_true, if_false]

variable (htile : s.hasTile t = true) (hq : q ∈ (s.tile t).arrivals) (hstale : s.genStale (.tile t) q = false)
include htile hq hstale

theorem exec_mgmtWr (htype : q.type = 5) : exec (.mgmtWr t q) s = .next (((received s t q).mgmtWrite t q).reply t q stOk [] false) :=
  atArrival_tile (fun s => (s.mgmtWrite t q).reply t q stOk [] false) htile hq hstale (decide_eq_true htype)

theorem exec_mgmtRd (htype : q.type = 6) :
    exec (.mgmtRd t q) s = .next ((received s t q).reply t q stOk ((received s t q).mgmtRead t q) false) :=
  atArrival_tile (fun s => s.reply t q stOk (s.mgmtRead t q) false) htile hq hstale (decide_eq_true htype)

theorem exec_image (htype : q.type = 7) : exec (.image t q) s =
    .next (if q.mcast then (received s t q).modTile t fun v => v.imageTaken q
      else ((received s t q).modTile t fun v => v.imageTaken q).reply t q stOk [] false) :=
  atArrival_tile (fun s => if q.mcast then s.modTile t fun v => v.imageTaken q else (s.modTile t fun v => v.imageTaken q).reply t q stOk [] false)
    htile hq hstale (decide_eq_true htype)

end Requests

/-! Packets of a tile that wait at an I/O die: its notice, and its request for fragments. -/

section Dies
variable {s : State} {t : TileId} {k : NetPkt}

theorem noticeAt_of_arrived {row : BitVec 5} (hnet : s.net = [k]) (htype : k.pkt.type = 8) (hunit : k.pkt.dstu = 1)
    (hplace : fieldAt k.pkt.payload 6 2 = t.px.toNat * 256 + t.py.toNat) (hloc : k.loc = .ioDie false row) : s.noticeAt t = some k := by
  simp only [State.noticeAt, hnet, List.find?_cons, htype, hunit, hplace, hloc, decide_true, Bool.not_false, Bool.and_self]

theorem noticeAt_of_moving {r : TileId} {n : Fin 5} (hnet : s.net = [k]) (hloc : k.loc = .router r n) : s.noticeAt t = none := by
  simp only [State.noticeAt, hnet, List.find?_cons, hloc, Bool.and_false, List.find?_nil]

theorem net_toInbox (r : FaultRec) : (s.toInbox r).net = s.net := by
  unfold State.toInbox
  split <;> rfl

theorem noticeTaken_eq (hnet : s.net = [k]) : s.noticeTaken t k =
    { ({ s with net := [] } : State).toInbox (parseRecord k.pkt.payload) with
      net := [{ pkt := { ioReply 1 0 k.pkt stOk [] with dphys := tilePlace t }, loc := .ioDie false t.py }] } := by
  simp only [State.noticeTaken, hnet, List.erase_cons_head, net_toInbox, List.nil_append]

theorem ioReply_type_of_notice {q : Packet} (h : q.type = 8) : (ioReply 1 0 q stOk []).type = 0x81 := by
  simp [ioReply, replyTo, h]

variable (htile : s.hasTile t = true)
include htile

theorem notice_of_found (hk : s.noticeAt t = some k) : exec (.notice t) s = .next (if s.inbox.length < 4096 then s.noticeTaken t k else s) := by
  show execNotice t s = _
  simp only [execNotice, onTile_of_hasTile htile, hk]

theorem notice_of_none (hk : s.noticeAt t = none) : exec (.notice t) s = .next s := by
  show execNotice t s = _
  simp only [execNotice, onTile_of_hasTile htile, hk]

theorem resend_of_arrived {row : BitVec 5} (hnet : s.net = [k]) (htype : k.pkt.type = 0x84) (htag : k.pkt.tag.toNat = tileKey t)
    (hloc : k.loc = .ioDie false row) : exec (.resend t) s = .next (s.resendTaken t k) := by
  show execResend t s = _
  simp only [execResend, htile, if_true, hnet, List.find?_cons, htype, htag, hloc, decide_true, Bool.not_false, Bool.and_self]

theorem resend_of_empty (hnet : s.net = []) : exec (.resend t) s = .next s := by
  show execResend t s = _
  simp only [execResend, htile, if_true, hnet, List.find?_nil]

end Dies

/-- Settles O27 (R213, R324, R325, R390, R391): requests at the tile, and the packets that wait at its I/O die. -/
theorem managementRequestsAndNotices : Obligations.ManagementRequestsAndNotices := by
  refine ⟨?_, ?_, fun t s htile => ⟨fun k row hnet htype htag hloc => resend_of_arrived htile hnet htype htag hloc, resend_of_empty htile⟩⟩
  · rintro t q s _ htile hq hstale rfl
    refine ⟨fun htype hep haddr => ?_, fun htype hep haddr ht hr => ?_, fun htype hep => ?_, fun k htype hk hloading hopen himage hfrag hnew => ?_⟩
    · rw [exec_mgmtWr htile hq hstale htype, mgmtWrite_imem hep haddr, State.modTile_eq, tile_received, State.tile_setTile]
      rfl
    · rw [exec_mgmtWr htile hq hstale htype, mgmtWrite_ward hep haddr, State.modTile_eq, tile_received, setWard_of_open ht hr, State.tile_setTile]
      rfl
    · rw [exec_mgmtRd htile hq hstale htype, mgmtRead_imem hep, tile_received]
      rfl
    · refine ⟨_, rfl, fun hmany => ?_, fun hone => ?_⟩
      · rw [exec_image htile hq hstale htype, if_pos hmany, State.modTile_eq, tile_received,
          imageTaken_of_missing (v := taken (s.tile t) q) hk hloading hopen himage hfrag hnew, State.tile_setTile]
        rfl
      · rw [exec_image htile hq hstale htype, if_neg (by rw [hone]; exact Bool.false_ne_true), State.modTile_eq, tile_received,
          imageTaken_of_missing (v := taken (s.tile t) q) hk hloading hopen himage hfrag hnew, State.tile_setTile]
        rfl
  · intro t s k htile hnet htype hunit hplace
    refine ⟨fun row hloc hroom => ?_, fun row hloc hfull => ?_, fun r n hloc => notice_of_none htile (noticeAt_of_moving hnet hloc)⟩
    · refine ⟨{ ioReply 1 0 k.pkt stOk [] with dphys := tilePlace t }, ioReply_type_of_notice htype, rfl, rfl, rfl, ?_⟩
      rw [notice_of_found htile (noticeAt_of_arrived hnet htype hunit hplace hloc), if_pos hroom, noticeTaken_eq hnet]
    · rw [notice_of_found htile (noticeAt_of_arrived hnet htype hunit hplace hloc), if_neg (Nat.not_lt_of_le hfull)]

end Sys2Proof.Proofs.Management
end

section
/-!
PROOFS. Replies at a tile (08: R214, R227; 13: R363), and the settling of O28.
-/

namespace Sys2Proof.Proofs.Replies
open Sys2Proof.Machine Sys2Proof.Proofs.Frames Sys2Proof.Proofs.Requests

/-! The request that a reply answers, and whether it comes in time (R227). -/

section InTime
variable {u : State} {t : TileId} {q : Packet} {o : Outstanding} {p : PartId}

theorem inTime_of_late (ho : (u.tile t).answered q = some o) (hp : u.partOf t = some p) (hlate : o.deadline < u.jobTime p) :
    u.inTime t q = (u.noReply t p o, none) := by
  simp only [State.inTime, ho, hp, hlate, if_true]

theorem inTime_of_early (ho : (u.tile t).answered q = some o) (hearly : ∀ p, u.partOf t = some p → u.jobTime p ≤ o.deadline) :
    u.inTime t q = (u, some o) := by
  cases hp : u.partOf t with
  | none => simp only [State.inTime, ho, hp]
  | some p => simp only [State.inTime, ho, hp, Int.not_lt.2 (hearly p hp), if_false]

theorem inTime_of_stray (ho : (u.tile t).answered q = none) : u.inTime t q = (u, none) := by
  simp only [State.inTime, ho]

theorem answered_eq_none {v : Tile} (h : ∀ o ∈ v.outstanding, o.pkt.tag ≠ q.tag) : v.answered q = none :=
  List.find?_eq_none.2 fun o ho => by simpa using h o ho

theorem noticeDone_of_sent {w : Ward} (hw : w = (u.tile t).ward) (hurgent : w.urgent = true) (htag : q.tag = w.tag) (hplace : q.dphys = tilePlace t) :
    u.noticeDone t q = (u.setTile t { u.tile t with ward := { w with queue := w.queue.tail, urgent := false } }).sendNotice t := by
  subst hw
  simp only [State.noticeDone, hurgent, htag, hplace, decide_true, Bool.and_self, if_true]
  rfl

end InTime

/-! CMPL and CMPL_D at a fitted tile, of packets that are not stale. -/

section Commands
variable {s : State} {t : TileId} {q : Packet} (htile : s.hasTile t = true) (hq : q ∈ (s.tile t).arrivals) (hstale : s.genStale (.tile t) q = false)
include htile hq

section Cmpl
include hstale

theorem cmpl_of_notice (htype : q.type = 0x81) (hvc : q.vc = 3) : exec (.cmpl t q) s = .next ((received s t q).noticeDone t q) := by
  show execCmpl t q s = _
  rw [execCmpl, atArrival_tile _ htile hq hstale (decide_eq_true htype), if_pos hvc]

variable {u : State} {o : Option Outstanding} (htype : q.type = 0x81) (hvc : q.vc ≠ 3) (hin : (received s t q).inTime t q = (u, o))
include htype hvc hin

theorem cmpl_of_reply : exec (.cmpl t q) s = .next (o.elim (u.stray t) fun o => u.replyDone t o (q.addr.toNat % 2 ^ 16)) := by
  show execCmpl t q s = _
  rw [execCmpl, atArrival_tile _ htile hq hstale (decide_eq_true htype), if_neg hvc, hin]
  cases o <;> rfl

end Cmpl

variable {u : State} (ecc : Ecc) (htype : q.type = 0x82)
include htype

theorem cmplD_of_stray (hin : (received s t q).inTime t q = (u, none)) : exec (.cmplD t q ecc) s = .next (u.stray t) := by
  have hin' : (s.takeAt (.tile t) q).inTime t q = (u, none) := hin
  have hwaits : s.waitsAt (.tile t) q = true := List.contains_iff_mem.2 hq
  show execCmplD t q ecc s = _
  simp only [execCmplD, onTile_of_hasTile htile, htype, hwaits, hin', decide_true, Bool.and_self, if_true]

variable {o : Outstanding} {p : PartId} (hin : (received s t q).inTime t q = (u, some o)) (hp : u.partOf t = some p)
include hin hp

theorem cmplD_of_status (hstatus : q.addr.toNat % 2 ^ 16 ≠ stOk) :
    exec (.cmplD t q ecc) s = .next (u.replyDone t o (q.addr.toNat % 2 ^ 16)) := by
  have hin' : (s.takeAt (.tile t) q).inTime t q = (u, some o) := hin
  have hwaits : s.waitsAt (.tile t) q = true := List.contains_iff_mem.2 hq
  show execCmplD t q ecc s = _
  simp only [execCmplD, onTile_of_hasTile htile, htype, hwaits, hin', hp, hstatus, decide_true, Bool.and_self, if_true, if_false]

theorem cmplD_of_data (hstatus : q.addr.toNat % 2 ^ 16 = stOk) : exec (.cmplD t q ecc) s =
    .next ((((u.upset t ecc).eccRead t 3 (bitsOf q.tag.toNat 12 8) ((u.tile t).pcOf .dma o.ticket) ecc).dataArrives t p q o).getD
      (s.dataStalls t p q o)) := by
  have hin' : (s.takeAt (.tile t) q).inTime t q = (u, some o) := hin
  have hwaits : s.waitsAt (.tile t) q = true := List.contains_iff_mem.2 hq
  show execCmplD t q ecc s = _
  simp only [execCmplD, onTile_of_hasTile htile, htype, hwaits, hin', hp, hstatus, decide_true, Bool.and_self, if_true]
  generalize State.dataArrives .. = v
  cases v <;> rfl

end Commands

/-- Settles O28 (R214, R227, R363): in time, too late, of a notice, or of nothing outstanding. -/
theorem repliesEndTheirRequests : Obligations.RepliesEndTheirRequests := by
  rintro t q s _ htile hq hstale rfl
  have hanswered : ((received s t q).tile t).answered q = (s.tile t).answered q := by rw [tile_received]; rfl
  have hout {o} (ho : ((s.tile t).outstanding.find? fun o => o.pkt.tag = q.tag) = some o) : ((received s t q).tile t).answered q = some o :=
    hanswered.trans ho
  have hnone (ho : ∀ o ∈ (s.tile t).outstanding, o.pkt.tag ≠ q.tag) : ((received s t q).tile t).answered q = none :=
    hanswered.trans (answered_eq_none ho)
  have hstray : (received s t q).stray t = (received s t q).setTile t { (received s t q).tile t with strayReplies := (s.tile t).strayReplies + 1 } := by
    rw [State.stray, State.modTile_eq, tile_received]
    rfl
  refine ⟨fun o p htype hvc ho hp hlate => ?_, fun w htype hvc hw hurgent htag hplace => ?_, fun o htype hvc ho hearly => ?_,
    fun htype hvc ho => ?_, fun o p ecc htype ho hp hearly => ?_, fun o p ecc htype ho hp hlate => ?_, fun ecc htype ho => ?_⟩
  · exact cmpl_of_reply htile hq hstale htype hvc (inTime_of_late (hout ho) hp hlate)
  · rw [cmpl_of_notice htile hq hstale htype hvc,
      noticeDone_of_sent (u := received s t q) (hw.trans (by rw [tile_received]; rfl)) hurgent htag hplace]
    rfl
  · rw [cmpl_of_reply htile hq hstale htype hvc (inTime_of_early (hout ho) hearly), Option.elim_some, State.replyDone, State.modTile_eq,
      tile_received,
      State.tile_setTile]
    rfl
  · exact (cmpl_of_reply htile hq hstale htype hvc (inTime_of_stray (hnone ho))).trans (congrArg _ hstray)
  · have hin := inTime_of_early (hout ho) fun p' hp' => by
      obtain rfl : p = p' := Option.some_injective _ (hp.symm.trans hp')
      exact hearly
    have hdata (hok) := cmplD_of_data htile hq ecc htype hin hp hok
    have hpc : ((received s t q).tile t).pcOf .dma o.ticket = (s.tile t).pcOf .dma o.ticket := by rw [tile_received]; rfl
    rw [hpc] at hdata
    exact ⟨fun hstatus => cmplD_of_status htile hq ecc htype hin hp hstatus,
      fun v hok hv => (hdata hok).trans (congrArg (fun w => Host.Outcome.next (Option.getD w (s.dataStalls t p q o))) hv),
      fun hok hv => (hdata hok).trans (congrArg (fun w => Host.Outcome.next (Option.getD w (s.dataStalls t p q o))) hv)⟩
  · exact cmplD_of_stray htile hq ecc htype (inTime_of_late (hout ho) hp hlate)
  · exact (cmplD_of_stray htile hq ecc htype (inTime_of_stray (hnone ho))).trans (congrArg _ hstray)

end Sys2Proof.Proofs.Replies
end

section
/-!
PROOFS. The step latch: sample, gather, BREAK, HALT and the outcome (10: R260–R266, R280, R281), and the settling of O30 and O31.
-/

namespace Sys2Proof.Proofs.StepLatch
open Sys2Proof.Machine Sys2Proof.Proofs.Frames Sys2Proof.Proofs.DramController

/-! What stays of a part, and of its latch. -/

section Parts
variable (s : State) (p : PartId)

theorem part_toInbox (r : FaultRec) (x : PartId) : (s.toInbox r).part x = s.part x := by
  unfold State.toInbox
  split <;> rfl

theorem part_partFault_quiet {a : FaultArgs} (h : a.clears = false) : (s.partFault p a).part p = { s.part p with faults := (s.part p).faults + 1 } := by
  simp only [State.partFault, h, Bool.false_eq_true, if_false, State.unitFault, State.countFault, State.part_modPart, part_toInbox]

@[simp] theorem part_modLatch (f : Latch → Latch) : (s.modLatch p f).part p = { s.part p with latch := f (s.part p).latch } := State.part_modPart ..

theorem modLatch_modLatch (f g : Latch → Latch) : (s.modLatch p f).modLatch p g = s.modLatch p fun l => g (f l) := by
  simp only [State.modLatch, State.modPart_modPart]

theorem mirrorPort_modLatch (f : Latch → Latch) (role : Byte) : ((s.modLatch p f).part p).mirrorPort role = (s.part p).mirrorPort role := by
  rw [part_modLatch]
  rfl

theorem part_sendBreak : (s.sendBreak p).part p = { s.part p with latch := { (s.part p).latch with
    breakSeen := true, breakHeld := false
    breakHold := holdMax (s.part p).latch.breakHold (holdMax (s.part p).latch.value.hold (s.part p).latch.askHold) } } := by
  rw [State.sendBreak, part_modLatch, part_floodLatch]

theorem mirrorPort_of_none {q : Part} (h : q.shadow = none) (role : Byte) : q.mirrorPort role = none := by
  rw [Part.mirrorPort, h]

theorem isShadow_of_none {q : Part} (h : q.shadow = none) : q.isShadow = false := by
  rw [Part.isShadow, h]

end Parts

/-! Frames of the latch. -/

section FrameTaken
variable {p : PartId} {s v : State} {port : PortId} {f : LatchFrame} {l : PortId × Session} {m : Manifest}

theorem onLatchFrame_of_taken {kind : Byte} (g : State → PortId × Session → State) (hport : (s.port port).part = some p) (hkind : f.kind = kind)
    (htake : s.takeLatch port f = some (l, v)) : s.onLatchFrame p port f kind g = g v l := by
  simp only [State.onLatchFrame, hport, hkind, htake, ne_eq, not_true_eq_false, decide_false, Bool.or_self, Bool.false_eq_true, if_false]

/-- Where neither deadline of the latch has passed unjudged, none is judged (R57). -/
theorem judgeLate_of_early (h : (v.part p).attempting = true → v.jobTime p ≤ (v.part p).tk + m.latchDue ∨
    ((v.part p).latch.gatherJudged = true ∧ v.jobTime p ≤ (v.part p).tk + m.latchDue + m.breakNs)) : v.judgeLate p m = v := by
  cases hattempt : (v.part p).attempting with
  | false => simp only [State.judgeLate, hattempt, Bool.false_and, Bool.false_eq_true, if_false]
  | true =>
    have hcut : decide ((v.part p).tk + ((m.latchDue + m.breakNs : Nat) : Int) < v.jobTime p) = false := by
      rw [decide_eq_false_iff_not]
      rcases h hattempt with h | ⟨-, h⟩ <;> omega
    have hgather : (!(v.part p).latch.gatherJudged && decide ((v.part p).tk + (m.latchDue : Int) < v.jobTime p)) = false := by
      rw [Bool.and_eq_false_imp, decide_eq_false_iff_not]
      intro hopen
      rcases h hattempt with h | ⟨hjudged, -⟩
      · exact Int.not_lt.2 h
      · rw [hjudged] at hopen
        exact absurd hopen Bool.false_ne_true
    simp only [State.judgeLate, hattempt, Bool.and_assoc, hgather, hcut, Bool.and_false, Bool.false_eq_true, if_false]

variable (hport : (s.port port).part = some p) (htake : s.takeLatch port f = some (l, v))
include hport htake

theorem haltFrame_of_taken (hkind : f.kind = 3) : exec (.haltFrame p port f) s = .next (
    if (v.part p).job = .running && f.job = (v.part p).jobTag && (v.part p).latch.halt.isNone then
      (v.modLatch p fun x => { x with halt := some (f.cause, f.origin) }).floodLatch p (some l) f
    else v) :=
  congrArg Host.Outcome.next (onLatchFrame_of_taken _ hport hkind htake)

section Watching
variable (hm : (v.part p).manifest = some m) (hearly : v.judgeLate p m = v)
include hm hearly

section Gathers
variable (hwatch : (v.part p).watching = true) (hplain : (v.part p).isShadow = false)
include hwatch hplain

theorem gatherFrame_of_taken (hkind : f.kind = 1) : exec (.gatherFrame p port f) s = .next (v.gatherArrives p m l f) := by
  show execGatherFrame p port f s = _
  rw [execGatherFrame, onLatchFrame_of_taken _ hport hkind htake]
  simp only [hm, hearly, hwatch, hplain, Bool.not_false, Bool.and_self, if_true]

theorem breakFrame_of_taken (hkind : f.kind = 2) : exec (.breakFrame p port f) s = .next (v.breakArrives p l f) := by
  show execBreakFrame p port f s = _
  rw [execBreakFrame, onLatchFrame_of_taken _ hport hkind htake]
  simp only [hm, hearly, hwatch, hplain, Bool.not_false, Bool.and_self, if_true]

end Gathers

theorem shadowFrame_of_taken (hmirror : (s.part p).mirrorPort 1 = some port) (hkind : f.kind = 5) (hattempt : (v.part p).attempting = true)
    (hsame : (v.part p).sameAttempt f = true) (hformed : (v.part p).latch.formed = true) (hopen : (v.part p).latch.gatherJudged = false)
    (hfirst : (v.part p).latch.shadowReport = none) (hagree : f.agree = (v.part p).latch.shadowValue) :
    exec (.shadowFrame p f) s = .next (v.modLatch p fun l => { l with shadowReport := some (f.clean, f.agree) }) := by
  show execShadowFrame p f s = _
  simp only [execShadowFrame, hmirror]
  rw [onLatchFrame_of_taken _ hport hkind htake]
  simp only [hm, hearly, hattempt, hsame, hformed, hopen, hfirst, hagree, Option.isNone_none, Bool.not_false, Bool.and_self, if_true, ne_eq,
    not_true_eq_false, decide_false, Bool.and_false, Bool.false_eq_true, if_false]

end Watching

theorem outcomeFrame_of_taken (hmirror : (s.part p).mirrorPort 2 = some port) (hkind : f.kind = 4) (hattempt : (v.part p).attempting = true)
    (hontime : v.jobTime p ≤ (v.part p).t ((v.part p).beat + 1)) (hsame : (v.part p).sameAttempt f = true)
    (hformed : (v.part p).latch.formed = true) (hopen : (v.part p).latch.fixed = none) :
    exec (.outcomeFrame p f) s = .next (v.outcomeArrives p f) := by
  show execOutcomeFrame p f s = _
  simp only [execOutcomeFrame, hmirror]
  rw [onLatchFrame_of_taken _ hport hkind htake]
  simp only [hattempt, hsame, hformed, hopen, hontime, Option.isNone_none, decide_true, Bool.and_self, if_true]

end FrameTaken

/-! What arrives in an attempt (R262, R264, R265). -/

section Arrives
variable {v : State} {p : PartId} {m : Manifest} {l : PortId × Session} {f : LatchFrame}

theorem gatherArrives_of_other (hsame : (v.part p).sameAttempt f = false) (hstage : f.stage.toNat < 3)
    (hlink : v.exitLink p (torusDir f.stage.toNat true) = some l) : v.gatherArrives p m l f = v.split p l.1 f := by
  simp only [State.gatherArrives, List.findSome?_cons, hstage, hlink, hsame, decide_true, Bool.and_self, if_true, Bool.not_false, Bool.true_or]

theorem gatherArrives_of_first (hsame : (v.part p).sameAttempt f = true) (hstage : f.stage.toNat < 3)
    (hlink : v.exitLink p (torusDir f.stage.toNat true) = some l) (hring : 1 < m.ring f.stage.toNat) (hearly : (v.part p).latch.formed = false)
    (hfirst : (v.part p).latch.got = []) : v.gatherArrives p m l f = v.gatherTaken p m (torusDir f.stage.toNat true) f := by
  simp only [State.gatherArrives, List.findSome?_cons, hstage, hlink, hsame, hearly, hfirst, Nat.not_le_of_lt hring, decide_true, decide_false,
    Bool.and_self, if_true, Bool.not_true, Bool.false_and, Bool.or_self, List.contains_nil, Bool.false_eq_true, if_false]

theorem breakArrives_of_first (hsame : (v.part p).sameAttempt f = true) (hopen : (v.part p).latch.fixed = none)
    (hfirst : (v.part p).latch.forwarded = false) : v.breakArrives p l f = (v.floodLatch p (some l) f).modLatch p fun x =>
      { x with forwarded := true, breakSeen := true, breakHold := holdMax x.breakHold f.hold } := by
  simp only [State.breakArrives, hsame, hopen, hfirst, Option.isSome_none, Bool.not_true, Bool.or_self, Bool.false_eq_true, if_false]

theorem breakArrives_of_late (h : (v.part p).sameAttempt f = false ∨ (v.part p).latch.fixed ≠ none) : v.breakArrives p l f = v.split p l.1 f := by
  refine if_pos ?_
  rcases h with h | h
  · rw [h]; rfl
  · rw [Option.isSome_iff_ne_none.2 h, Bool.or_true]

end Arrives

/-! The deadlines (R263, R264). -/

section Deadlines
variable {u : State} {p : PartId} {m : Manifest} (hshadow : (u.part p).shadow = none)
include hshadow

theorem gatherDue_of_complete (hstage : (u.part p).latch.stage = 3) :
    u.gatherDue p m = u.modLatch p fun l => { l with gatherJudged := true, tentative := some l.value.clean } := by
  simp only [State.gatherDue, isShadow_of_none hshadow, hstage, Nat.le_refl, if_true, modLatch_modLatch, mirrorPort_modLatch,
    mirrorPort_of_none hshadow, Option.isSome_none,
    Bool.false_and, Bool.false_eq_true, if_false]

theorem part_gatherDue_of_missing (hstage : (u.part p).latch.stage < 3) :
    ((u.gatherDue p m).part p).latch.tentative = some false ∧ ((u.gatherDue p m).part p).latch.breakSeen = true := by
  have hpart {w : State} {a : FaultArgs} (ha : a.clears = false) (hw : w = u.modLatch p fun l => { l with gatherJudged := true }) :
      (((w.partFault p a).modLatch p fun l => { l with tentative := some false }).sendBreak p).part p =
      { u.part p with faults := (u.part p).faults + 1, latch := { (u.part p).latch with
        gatherJudged := true, tentative := some false, breakSeen := true, breakHeld := false
        breakHold := holdMax (u.part p).latch.breakHold (holdMax (u.part p).latch.value.hold (u.part p).latch.askHold) } } := by
    rw [part_sendBreak, part_modLatch, part_partFault_quiet _ _ ha, hw, part_modLatch]
  simp only [State.gatherDue, isShadow_of_none hshadow, Nat.not_le_of_lt hstage, if_false, Bool.false_eq_true]
  rw [if_neg]
  · rw [hpart rfl rfl]
    exact ⟨rfl, rfl⟩
  · rw [hpart rfl rfl, mirrorPort_of_none]
    · exact Bool.false_ne_true
    · exact hshadow

theorem cutoff_of_plain (hclear : (u.part p).latch.lateClear = none) : u.cutoff p = u.modLatch p fun l => { l with
    fixed := some ((u.part p).latch.tentative = some true && !(u.part p).latch.breakSeen)
    outcome := some ((u.part p).latch.tentative = some true && !(u.part p).latch.breakSeen, holdMax l.value.hold l.breakHold) } := by
  simp only [State.cutoff, hclear, ite_self, mirrorPort_of_none hshadow, State.shadowJudge, mirrorPort_modLatch]

end Deadlines

section Commands
variable {p : PartId} {s : State} {m : Manifest} (hattempt : (s.part p).attempting = true)
include hattempt

theorem exec_latchSample (hjudged : (s.part p).judged = true) (hbeat : (s.part p).beatInStep + 1 = (s.part p).k)
    (hfirst : (s.part p).latch.sampled = none) (ecc : Ecc) : exec (.latchSample ⟨p, ecc⟩) s = .next (s.latchSample p ecc) := by
  show execLatchSample ⟨p, ecc⟩ s = _
  simp only [execLatchSample, hattempt, hjudged, hbeat, hfirst, Option.isNone_none, decide_true, Bool.and_self, if_true]

variable (hm : (s.part p).manifest = some m)
include hm

theorem exec_partitionBitFormed {clean : Bool} {cause : Byte} (hsampled : (s.part p).latch.sampled = some (clean, cause))
    (hbeat : (s.part p).beatInStep = (s.part p).k) (hfirst : (s.part p).latch.formed = false) :
    exec (.partitionBitFormed p) s = .next ((s.reachJob p ((s.part p).tk + 200)).bitFormed p m clean cause) := by
  show execPartitionBitFormed p s = _
  simp only [execPartitionBitFormed, hsampled, hm, hattempt, hbeat, hfirst, Bool.not_false, decide_true, Bool.and_self, if_true]

theorem exec_gatherDeadline (hformed : (s.part p).latch.formed = true) (hopen : (s.part p).latch.gatherJudged = false) :
    exec (.gatherDeadline p) s = .next ((s.reachJob p ((s.part p).tk + m.latchDue + 1)).gatherDue p m) := by
  show execGatherDeadline p s = _
  simp only [execGatherDeadline, hm, hattempt, hformed, hopen, Bool.not_false, Bool.and_self, if_true]

theorem exec_breakCutoff (hshadow : (s.part p).shadow = none) (hjudged : (s.part p).latch.gatherJudged = true)
    (hopen : (s.part p).latch.fixed = none) :
    exec (.breakCutoff p) s = .next ((s.reachJob p ((s.part p).tk + m.latchDue + m.breakNs + 1)).cutoff p) := by
  show execBreakCutoff p s = _
  simp only [execBreakCutoff, hm, hattempt, isShadow_of_none hshadow, hjudged, hopen, Option.isNone_none, Bool.not_false, Bool.and_self, if_true]

end Commands

@[simp] theorem part_reachJob (s : State) (p x : PartId) (c : Int) : (s.reachJob p c).part x = s.part x := part_reach ..

/-- Settles O30 (R57, R260–R263, R265): the frames of a gather, the sample, the partition bit, and the gather's deadline. -/
theorem theLatchSamplesFormsAndGathers : Obligations.TheLatchSamplesFormsAndGathers := by
  intro p s m hm
  refine ⟨fun port f l v hport hkind htake hv hplain hwatch hearly => ?frames, fun hattempt => ⟨fun hjudged hbeat hfirst ecc => ?sample,
    fun clean cause => exec_partitionBitFormed hattempt hm, fun hformed hopen hshadow => ?deadline⟩⟩
  case frames =>
    rw [← hv] at hm hplain hwatch hearly ⊢
    have hframe := gatherFrame_of_taken hport htake hm (judgeLate_of_early fun h => .inl (hearly h)) hwatch hplain hkind
    rw [hframe]
    exact ⟨fun hsame hstage hlink => congrArg _ (gatherArrives_of_other hsame hstage hlink),
      fun hsame hstage hlink hring hformed hgot => congrArg _ (gatherArrives_of_first hsame hstage hlink hring hformed hgot)⟩
  case sample =>
    refine ⟨exec_latchSample hattempt hjudged hbeat hfirst ecc, ?_⟩
    rintro _ u c rfl hu rfl
    simp only [State.latchSample, hu, part_modLatch]
  case deadline =>
    have hpart := part_reachJob s p p ((s.part p).tk + m.latchDue + 1)
    refine ⟨exec_gatherDeadline hattempt hm hformed hopen, fun hstage => gatherDue_of_complete ?_ ?_, fun hstage => part_gatherDue_of_missing ?_ ?_⟩
    all_goals rwa [hpart]

/-- Settles O31 (R263–R266, R280, R281): BREAK and HALT frames, the frames of shadow mode, and the break cutoff. -/
theorem breakHaltAndTheFixedOutcome : Obligations.BreakHaltAndTheFixedOutcome := by
  refine ⟨fun p s v port f l m hwatch hm hport htake hv hearly => ?frames, fun p s m hattempt hm hshadow hjudged hopen hclear => ?cutoff⟩
  case frames =>
    have hmirror (role : Byte) : (s.part p).mirrorPort role = (v.part p).mirrorPort role := by rw [hv]
    rw [← hv] at hm hwatch hearly ⊢
    have hjudge := judgeLate_of_early hearly
    refine ⟨fun hkind hplain hsame hopen hfirst => ?_, fun hkind hplain hlate => ?_, fun hkind hrunning hjob hfirst => ?_, fun hkind hagain => ?_,
      fun hkind hattempt hontime hport2 hsame hformed hopen => ?_, fun hkind hattempt hport1 hsame hformed hopen hfirst hagree => ?_⟩
    · rw [breakFrame_of_taken hport htake hm hjudge hwatch hplain hkind, breakArrives_of_first hsame hopen hfirst]
    · rw [breakFrame_of_taken hport htake hm hjudge hwatch hplain hkind, breakArrives_of_late hlate]
    · rw [haltFrame_of_taken hport htake hkind, if_pos (by simp [hrunning, hjob, hfirst])]
    · rw [haltFrame_of_taken hport htake hkind, if_neg (by simp [hagain])]
    · exact outcomeFrame_of_taken hport htake ((hmirror 2).trans hport2) hkind hattempt hontime hsame hformed hopen
    · exact shadowFrame_of_taken hport htake hm hjudge ((hmirror 1).trans hport1) hkind hattempt hsame hformed hopen hfirst hagree
  case cutoff =>
    refine ⟨_, rfl, ?_⟩
    rw [exec_breakCutoff hattempt hm hshadow hjudged hopen, cutoff_of_plain (by rwa [part_reachJob]) (by rwa [part_reachJob]), part_reachJob]

end Sys2Proof.Proofs.StepLatch
end

section
/-!
PROOFS. Frames, replay and the loss of links (11: R289–R291, R315, R321), and the settling of O32.
-/

namespace Sys2Proof.Proofs.LinkFrames
open Sys2Proof.Machine

section Frames
variable {port : PortId} {x : Session} {frame f : Bytes} {s : State} (hup : s.linkUp port x = true)
include hup

theorem haspFrameSend_of_up (ecc : Ecc) : exec (.haspFrameSend port x ecc) s =
    .next ((s.link port x).resend.elim ((s.egressEcc port x ecc).sendNew port x) fun seq => s.sendAgain port x seq) := by
  show execHaspFrameSend port x ecc s = _
  simp only [execHaspFrameSend, hup, if_true]
  cases (s.link port x).resend <;> rfl

variable (hf : s.unwrap port x frame = some f)
include hf

theorem haspFrameReceive_of_up (ok : Bool) : exec (.haspFrameReceive port x frame ok) s = .next (
    if (ok && decide (f.length = 640) && frameCrcOk f) && decide (fieldAt f 0 2 = (s.link port x).rxSeq.toNat) then s.frameTaken port x f
    else if (ok && decide (f.length = 640) && frameCrcOk f) && (s.link port x).resetSeenIn f then
      if (s.linkRestart port x).linkUp port x then (s.linkRestart port x).frameTaken port x f else s.linkRestart port x
    else s.sendCtl port x 3 (leBytes 2 (s.link port x).rxSeq.toNat)) := by
  show execHaspFrameReceive port x frame ok s = _
  simp only [execHaspFrameReceive, hup, hf, if_true]

theorem haspFrameReceive_of_expected (hlen : f.length = 640) (hcrc : frameCrcOk f = true) (hseq : fieldAt f 0 2 = (s.link port x).rxSeq.toNat) :
    exec (.haspFrameReceive port x frame true) s = .next (s.frameTaken port x f) := by
  rw [haspFrameReceive_of_up hup hf, if_pos (by simp [hlen, hcrc, hseq])]

theorem haspFrameReceive_of_restart (hlen : f.length = 640) (hcrc : frameCrcOk f = true) (hseq : fieldAt f 0 2 ≠ (s.link port x).rxSeq.toNat)
    (hreset : (s.link port x).resetSeenIn f = true) : exec (.haspFrameReceive port x frame true) s =
      .next (if (s.linkRestart port x).linkUp port x then (s.linkRestart port x).frameTaken port x f else s.linkRestart port x) := by
  rw [haspFrameReceive_of_up hup hf, if_neg (by simp [hseq]), if_pos (by simp [hlen, hcrc, hreset])]

theorem haspFrameReceive_of_unsound {ok : Bool} (h : ok = false ∨ frameCrcOk f = false ∨
      (fieldAt f 0 2 ≠ (s.link port x).rxSeq.toNat ∧ (s.link port x).resetSeenIn f = false)) :
    exec (.haspFrameReceive port x frame ok) s = .next (s.sendCtl port x 3 (leBytes 2 (s.link port x).rxSeq.toNat)) := by
  rw [haspFrameReceive_of_up hup hf]
  rcases h with h | h | ⟨hseq, hreset⟩
  · simp [h]
  · simp [h]
  · simp [hseq, hreset]

end Frames

theorem egressEcc_clean (s : State) (port : PortId) (x : Session) : s.egressEcc port x .clean = s := rfl

section Control
variable {port : PortId} {x : Session} {s v : State}

theorem replayTimeout_of_waiting {e : U16 × Nat × Bytes} {rest : List (U16 × Nat × Bytes)} (h : (s.link port x).replay = e :: rest) :
    exec (.replayTimeout port x) s = .next ((s.reach ((s.link port x).ackAt + 4000 : Nat)).modLink port x fun l =>
      { l with resend := some e.1, ackAt := (s.reach ((s.link port x).ackAt + 4000 : Nat)).now }) := by
  show execReplayTimeout port x s = _
  simp only [execReplayTimeout, h]

theorem linkReset_of_exhausted (h : ∃ e ∈ (s.link port x).replay, 8 ≤ e.2.1) : exec (.linkReset port x) s = .next (s.linkReset port x) :=
  congrArg Host.Outcome.next (if_pos (List.any_eq_true.2 (h.imp fun _ he => ⟨he.1, decide_eq_true he.2⟩)))

theorem replay_of_taken {seq : U16} (h : s.takeCtl port x 3 (leBytes 2 seq.toNat) = some v) :
    exec (.replay port x seq) s = .next (v.modLink port x fun l => { l with resend := some seq }) := by
  show execReplay port x seq s = _
  simp only [execReplay, h]

theorem credits_of_taken {rs : List (Byte × U16)} (h : s.takeCtl port x 9 (creditsBytes rs) = some v) (hlen : rs.length ≤ 7) :
    exec (.credits port x rs) s = .next (rs.foldl (fun s r => s.modLink port x fun l => l.credited r.1.toNat r.2.toNat) v) := by
  show execCredits port x rs s = _
  simp only [execCredits, h, List.take_of_length_le hlen]

theorem nak_of_taken {m : NakMsg} (hx : s.ctlSession port 4 (nakBytes m) = some x) (h : s.takeCtl port x 4 (nakBytes m) = some v) :
    exec (.nak port m) s = .next (v.nakTaken port m) := by
  show execNak port m s = _
  simp only [execNak, hx, h]

theorem linkDown_of_lit (hup : ∃ x ∈ (s.port port).links, (s.link port x).state ≠ .down) (hseen : (s.port port).resetSeen = false) :
    exec (.linkDown port) s = .next (((s.linkLost port 1).modPort port fun q => { q with resetSeen := false }).portDown port 1) := by
  have hany : ((s.port port).links.any fun x => decide ((s.link port x).state ≠ .down)) = true :=
    List.any_eq_true.2 (hup.imp fun _ h => ⟨h.1, decide_eq_true h.2⟩)
  show Host.Outcome.next (s.lanesLost port) = _
  simp only [State.lanesLost, hany, hseen, if_true, Bool.false_eq_true, if_false]

theorem linkDown_of_dark (hdown : ∀ x ∈ (s.port port).links, (s.link port x).state = .down) : exec (.linkDown port) s = .next s := by
  refine congrArg Host.Outcome.next (if_neg ?_)
  rw [Bool.not_eq_true, List.any_eq_false]
  exact fun x hx => by simpa using hdown x hx

theorem controlReset_of_arrived {y : PortId × Session × Byte × Bytes} (h : (s.ctlIn.find? fun y => y.1 = port && y.2.2.1 = 1) = some y) :
    exec (.controlReset port) s = .next ((((({ s with ctlIn := s.ctlIn.erase y } : State).linkLost port 2).modPort port fun q =>
      { q with resetSeen := true })).linkDown port y.2.1 .up) := by
  show execControlReset port s = _
  simp only [execControlReset, h]

end Control

/-- Settles O32 (R289–R291, R315, R321): what a frame carries, what is sent again, and what a port with no link up keeps. -/
theorem linkFramesReplayAndReset : Obligations.LinkFramesReplayAndReset := by
  refine ⟨fun port x frame f s hup hf => ⟨haspFrameReceive_of_expected hup hf, fun hlen hcrc hseq hreset => ?restart,
    fun ok => haspFrameReceive_of_unsound hup hf⟩, fun port x s hup => ⟨fun seq ecc h => ?again, fun ecc h => ?new, egressEcc_clean s port x⟩,
    fun port x s => ⟨fun e rest h => ⟨_, rfl, replayTimeout_of_waiting h⟩, linkReset_of_exhausted, fun seq v => replay_of_taken,
      fun rs v => credits_of_taken, fun m v => nak_of_taken⟩, fun port s => ⟨fun y => controlReset_of_arrived, linkDown_of_lit, linkDown_of_dark⟩⟩
  case restart =>
    rw [haspFrameReceive_of_restart hup hf hlen hcrc hseq hreset]
    exact ⟨fun h => congrArg _ (if_pos h), fun h => congrArg _ (if_neg (by rw [h]; exact Bool.false_ne_true))⟩
  case again => rw [haspFrameSend_of_up hup, h, Option.elim_some]
  case new => rw [haspFrameSend_of_up hup, h, Option.elim_none]

end Sys2Proof.Proofs.LinkFrames
end

section
/-!
PROOFS. Admission of links and their heartbeats (11: R306, R307, R311, R317, R319, R320), and the settling of O33.
-/

namespace Sys2Proof.Proofs.Admission
open Sys2Proof.Machine

section Messages
variable {port : PortId} {x : Session} {s v : State} {a : Admission}

theorem hello_of_taken {h : Hello} (htake : s.takeCtl port x 7 (helloBytes h) = some v) :
    exec (.hello port x h) s = .next (v.helloTaken port x h) := by
  show execHello port x h s = _
  simp only [execHello, htake]

theorem helloTaken_of_late {h : Hello} (ha : (v.link port x).adm = some a) (hlate : v.admLate a = true) :
    v.helloTaken port x h = v.admitFail port x 8 := by
  simp only [State.helloTaken, ha, hlate, if_true]

theorem helloTaken_of_other_stage {h : Hello} (ha : (v.link port x).adm = some a) (hearly : v.admLate a = false) (hstage : a.stage ≠ .hello) :
    v.helloTaken port x h = v.protocolError port x := by
  simp only [State.helloTaken, ha, hearly, hstage, Bool.false_eq_true, if_false, ne_eq, not_false_eq_true, if_true]

theorem helloTaken_of_other_generation {h : Hello} (ha : (v.link port x).adm = some a) (hearly : v.admLate a = false) (hstage : a.stage = .hello)
    (hgen : h.gen ≠ (v.ownHello port).gen) : v.helloTaken port x h = v.admitFail port x 1 := by
  simp only [State.helloTaken, ha, hearly, hstage, hgen, Bool.false_eq_true, if_false, ne_eq, not_true_eq_false, not_false_eq_true, if_true]

theorem helloTaken_of_idle {h : Hello} (ha : (v.link port x).adm = none) (hpartner : (v.link port x).partner = none) :
    v.helloTaken port x h = v.modLink port x fun l => { l with partner := some h } := by
  simp only [State.helloTaken, ha, hpartner]

theorem admitFragment_of_taken {kind index : Byte} {last : Bool} {data : Bytes}
    (htake : s.takeCtl port x 8 ([kind, index] ++ leBytes 1 (b2n last) ++ [0] ++ padTo 28 data) = some v) :
    exec (.admitFragment port x kind index last data) s = .next (v.fragmentTaken port x kind.toNat last (padTo 28 data)) := by
  show execAdmitFragment port x kind index last data s = _
  simp only [execAdmitFragment, htake]

theorem fragmentTaken_of_idle {k : Nat} {last : Bool} {data : Bytes} (ha : (v.link port x).adm = none) :
    v.fragmentTaken port x k last data = v.protocolError port x := by
  simp only [State.fragmentTaken, ha]

theorem fragmentTaken_of_late {k : Nat} {last : Bool} {data : Bytes} (ha : (v.link port x).adm = some a) (hlate : v.admLate a = true) :
    v.fragmentTaken port x k last data = v.admitFail port x 8 := by
  simp only [State.fragmentTaken, ha, hlate, if_true]

theorem fragmentTaken_in_auth {data : Bytes} (ha : (v.link port x).adm = some a) (hearly : v.admLate a = false) (hstage : a.stage = .auth) :
    v.fragmentTaken port x 1 false data = v.modLink port x fun l => { l with adm := some { a with spdm := a.spdm ++ data } } := by
  simp only [State.fragmentTaken, ha, hearly, hstage, Bool.false_eq_true, if_false]

theorem fragmentTaken_in_agree {data : Bytes} (ha : (v.link port x).adm = some a) (hearly : v.admLate a = false) (hstage : a.stage = .agree) :
    v.fragmentTaken port x 2 false data = v.modLink port x fun l => { l with adm := some { a with digest := a.digest ++ data } } := by
  simp only [State.fragmentTaken, ha, hearly, hstage, Bool.false_eq_true, if_false]

end Messages

section Stages
variable {port : PortId} {x : Session} {s : State} {a : Admission}

theorem syncExchange_of_admission (ha : (s.link port x).adm = some a) (t1 t2 t3 t4 : U64) : exec (.syncExchange port x t1 t2 t3 t4) s =
    .next (if a.stage ≠ .sync then s else if s.admLate a then s.admitFail port x 8 else s.syncTaken port x a t1 t2 t3 t4) := by
  show execSyncExchange port x t1 t2 t3 t4 s = _
  simp only [execSyncExchange, ha]

theorem admissionStageTimeout_of_admission (ha : (s.link port x).adm = some a) : exec (.admissionStageTimeout port x) s =
    .next ((s.reach ((min a.stageBy a.by_ : Nat) + 1)).admitFail port x 8) := by
  show execAdmissionStageTimeout port x s = _
  simp only [execAdmissionStageTimeout, ha]

theorem admissionRevoke_of_errors (hmany : 16 ≤ (s.link port x).protoAt.length) (hstate : (s.link port x).state = .admitted) :
    exec (.admissionRevoke port x) s = .next ((((s.linkLost port 4).modLink port x fun l =>
      { l with state := .refused, adm := none, protoAt := [] }).flushEgress port x).linkEvent port 4 4) :=
  congrArg Host.Outcome.next (if_pos (by simp [hmany, hstate]))

theorem admissionRevoke_of_few (hfew : (s.link port x).protoAt.length < 16) : exec (.admissionRevoke port x) s = .next s :=
  congrArg Host.Outcome.next (if_neg (by simp [hfew]))

end Stages

section Heartbeats
variable {port : PortId} {x : Session} {p : PartId} {s v : State} (hp : (s.port port).part = some p)
include hp

theorem heartbeatSend_of_admitted (hstate : (s.link port x).state = .admitted) : exec (.heartbeatSend port x) s =
    .next ((s.reachJob p ((s.part p).t (s.part p).beat + 100)).sendCtl port x 5 (leBytes 6 (s.part p).beat)) := by
  show execHeartbeatSend port x s = _
  simp only [execHeartbeatSend, hp, hstate, if_true]

theorem heartbeat_of_taken {hb : Heartbeat} (htake : s.takeCtl port x 5 (hbBytes hb) = some v) : exec (.heartbeat port x hb) s =
    .next (if (s.link port x).state = .silent then v.modLink port x fun l => { l with lateHb := l.lateHb + 1 } else v.heartbeatTaken port x p hb) := by
  show execHeartbeat port x hb s = _
  simp only [execHeartbeat, htake, hp]

theorem heartbeatMiss_of_admitted (hstate : (s.link port x).state = .admitted) (hnone : (s.link port x).hbBeat = none)
    (hfirst : (s.link port x).missJudged = none) (hfew : (s.link port x).missed < 7) : exec (.heartbeatMiss port x) s =
      .next ((s.reachJob p ((s.part p).t ((s.part p).beat + 1) + 1)).modLink port x fun l =>
        { l with missed := l.missed + 1, missJudged := some (s.part p).beat }) := by
  show execHeartbeatMiss port x s = _
  have hbelow : (s.link port x).missed + 1 < 8 := by omega
  simp only [execHeartbeatMiss, hp, State.heartbeatMiss, hstate, hnone, hfirst, hbelow, ne_eq, reduceCtorEq, not_false_eq_true, decide_true,
    Bool.and_self, if_true]

end Heartbeats

/-- Settles O33 (R306, R307, R311, R317, R319, R320): a message of each stage in its stage, out of it or late, and a heartbeat that comes or not. -/
theorem admissionStagesAndHeartbeats : Obligations.AdmissionStagesAndHeartbeats := by
  refine ⟨fun port x h s v htake => ?hello, fun port x kind index last data s v htake => ?fragment, fun port x a s ha => ?stages,
    fun port x s => ⟨admissionRevoke_of_errors, admissionRevoke_of_few⟩, fun port x p s hp => ?heartbeats⟩
  case hello =>
    rw [hello_of_taken htake]
    exact ⟨fun a ha hlate => congrArg _ (helloTaken_of_late ha hlate),
      fun a ha hearly hstage => congrArg _ (helloTaken_of_other_stage ha hearly hstage),
      fun a ha hearly hstage hgen => congrArg _ (helloTaken_of_other_generation ha hearly hstage hgen),
      fun ha hpartner => congrArg _ (helloTaken_of_idle ha hpartner)⟩
  case fragment =>
    rw [admitFragment_of_taken htake]
    refine ⟨fun ha => congrArg _ (fragmentTaken_of_idle ha), fun a ha hlate => congrArg _ (fragmentTaken_of_late ha hlate), ?_, ?_⟩
    · rintro a ha hearly rfl hstage rfl
      exact congrArg _ (fragmentTaken_in_auth ha hearly hstage)
    · rintro a ha hearly rfl hstage rfl
      exact congrArg _ (fragmentTaken_in_agree ha hearly hstage)
  case stages =>
    have hsync := syncExchange_of_admission ha
    refine ⟨fun t1 t2 t3 t4 hstage hlate => ?_, fun t1 t2 t3 t4 hstage hearly => ?_, fun t1 t2 t3 t4 hstage => ?_,
      admissionStageTimeout_of_admission ha⟩
    · rw [hsync, if_neg (not_not_intro hstage), if_pos hlate]
    · rw [hsync, if_neg (not_not_intro hstage), if_neg (by rw [hearly]; exact Bool.false_ne_true)]
    · rw [hsync, if_pos hstage]
  case heartbeats =>
    refine ⟨heartbeatSend_of_admitted hp, fun hb v htake => ?_, heartbeatMiss_of_admitted hp⟩
    rw [heartbeat_of_taken hp htake]
    exact ⟨fun hsilent => congrArg _ (if_pos hsilent), fun hadmitted => congrArg _ (if_neg (by rw [hadmitted]; decide))⟩

end Sys2Proof.Proofs.Admission
end

section
/-!
PROOFS. Lanes (11: R294, R295, R297–R301), and the settling of O34.
-/

namespace Sys2Proof.Proofs.Lanes
open Sys2Proof.Machine

theorem modPort_congr (s : State) (port : PortId) {f g : Port → Port} (h : f (s.port port) = g (s.port port)) :
    s.modPort port f = s.modPort port g := by
  simp only [State.modPort, h]

/-! Signal, training and qualification. -/

section Train
variable {port : PortId} {s : State} {l : LaneId}

theorem laneSignalDetect_of_idle (hmode : (s.port port).mode ≠ 0)
    (h : (s.port port).lanes[l].state = .down ∨ (s.port port).lanes[l].state = .fenced ∧ (s.port port).isUp = false) {fine : Bool}
    (hfine : fine = (!(s.port port).fullTrained && (s.port port).settings.isSome && !s.coldLinks)) :
    exec (.laneSignalDetect port l) s = .next (s.modPort port fun q => { q with lanes := q.lanes.set l { state := .train, fine := fine } }) := by
  subst hfine
  refine (congrArg Host.Outcome.next (if_pos ?_)).trans (congrArg Host.Outcome.next (modPort_congr s port rfl))
  simp only [Fin.getElem_fin] at h
  rcases h with h | ⟨h, hup⟩
  · simpa [h] using hmode
  · simpa [h, hup] using hmode

theorem laneSignalDetect_of_busy (hdown : (s.port port).lanes[l].state ≠ .down)
    (hfenced : (s.port port).lanes[l].state = .fenced → (s.port port).isUp = true) : exec (.laneSignalDetect port l) s = .next s := by
  refine congrArg Host.Outcome.next (if_neg ?_)
  simp only [Fin.getElem_fin] at hdown hfenced
  simpa [hdown] using fun _ => hfenced

theorem laneTrainingDone_of_training (h : (s.port port).lanes[l].state = .train ∨ (s.port port).lanes[l].state = .align) (aligned : Bool)
    (d : AlignDelays) (dev : U64) : exec (.laneTrainingDone port l aligned d dev) s = .next (s.modPort port fun q => { q with
      lanes := q.lanes.set l { q.lanes[l] with state := if s.laneBad port l dev then .fenced else if aligned then .qualify else .align }
      asymPs := if aligned then halfAsymmetry d else q.asymPs, device := dev }) := by
  refine congrArg Host.Outcome.next (if_pos ?_)
  simpa using h

theorem laneQualifyWindow_of_qualified {passed : BitVec 9} (h : ∃ l : LaneId, (s.port port).lanes[l].state = .qualify)
    (hup : (s.port port).isUp = false) {half : Option Bool} {sw : Option LaneId}
    (hq : (s.port port).qualified (fun l => passed.getLsbD l.val && (s.port port).lanes[l].state = .qualify) = some (half, sw)) :
    exec (.laneQualifyWindow port passed true) s =
      .next (s.portUp port (fun l => passed.getLsbD l.val && (s.port port).lanes[l].state = .qualify) half sw) := by
  have hany : ((List.finRange 9).any fun l => decide ((s.port port).lanes[l].state = .qualify)) = true :=
    List.any_eq_true.2 (h.imp fun l hl => ⟨List.mem_finRange l, decide_eq_true hl⟩)
  show execLaneQualifyWindow port passed true s = _
  simp only [execLaneQualifyWindow, hany, hup, Bool.not_false, Bool.and_self, if_true, Bool.true_and, hq]

end Train

/-! A monitor window (R299): every watched lane counts it or is cleared. -/

/-- A lane after a monitor window that fences none. -/
def judged (over_ : BitVec 9) (l : LaneId) (v : LanePair) : LanePair :=
  if v.state = .up ∨ v.state = .spare then { v with bad := if over_.getLsbD l.val then v.bad + 1 else 0 } else v

theorem bad_judged_lt {over_ : BitVec 9} {l : LaneId} {v : LanePair} (h : v.bad < 2) : (judged over_ l v).bad < 3 := by
  unfold judged
  split
  · dsimp only
    split <;> omega
  · omega

/-- One lane of a port in a monitor window. -/
theorem judgeLane_eq (over_ : BitVec 9) (q : Port) (l : LaneId) :
    (if decide (q.lanes[l].state = .up) || decide (q.lanes[l].state = .spare) then
      q.modLane l fun v => { v with bad := if over_.getLsbD l.val then v.bad + 1 else 0 } else q) = q.modLane l (judged over_ l) := by
  by_cases h : q.lanes[l].state = .up ∨ q.lanes[l].state = .spare
  · rw [if_pos (by simpa using h), Port.modLane, Port.modLane, judged, if_pos h]
  · rw [if_neg (by simpa using h), Port.modLane, judged, if_neg h]
    simp

theorem foldl_judged (over_ : BitVec 9) (ls : List LaneId) (q : Port) (hls : ls.Nodup) :
    ∃ lanes, ls.foldl (fun q l => q.modLane l (judged over_ l)) q = { q with lanes := lanes } ∧
      ∀ x : LaneId, lanes[x] = if x ∈ ls then judged over_ x q.lanes[x] else q.lanes[x] := by
  induction ls generalizing q with
  | nil => exact ⟨q.lanes, rfl, fun x => by simp⟩
  | cons l ls ih =>
    obtain ⟨hl, hrest⟩ := List.nodup_cons.1 hls
    obtain ⟨lanes, hfold, hlanes⟩ := ih (q.modLane l (judged over_ l)) hrest
    refine ⟨lanes, hfold, fun x => (hlanes x).trans ?_⟩
    by_cases hx : x = l
    · subst hx
      simp [hl, Port.modLane]
    · have hne : l.val ≠ x.val := fun h => hx (Fin.ext h.symm)
      simp [hx, Port.modLane, hne]

theorem laneMonitorWindow_of_few {port : PortId} {s : State} {over_ : BitVec 9} (hfew : ∀ l : LaneId, (s.port port).lanes[l].bad < 2) :
    ∃ lanes, exec (.laneMonitorWindow port over_) s = .next (s.modPort port fun _ => { s.port port with lanes := lanes }) ∧
      ∀ l : LaneId, lanes[l] = judged over_ l (s.port port).lanes[l] := by
  obtain ⟨lanes, hfold, hlanes⟩ := foldl_judged over_ (List.finRange 9) (s.port port) (List.nodup_finRange 9)
  simp only [List.mem_finRange, if_true] at hlanes
  refine ⟨lanes, ?_, hlanes⟩
  show execLaneMonitorWindow port over_ s = _
  simp only [execLaneMonitorWindow, judgeLane_eq]
  rw [modPort_congr s port (g := fun _ => { s.port port with lanes := lanes }) hfold]
  refine congrArg Host.Outcome.next (List.foldl_fixed' (fun l => if_neg ?_) _)
  have hbad : lanes[l].bad < 3 := by
    rw [hlanes l]
    exact bad_judged_lt (hfew l)
  simp only [State.port_modPort, Bool.and_eq_true, decide_eq_true_eq, not_and, Nat.not_le]
  exact fun _ => hbad

/-! Lanes that lose lock, and the swap of a lane (R300, R301). -/

section Swap
variable {port : PortId} {s v : State} {l : LaneId}

theorem laneLockLoss_of_watched (h : (s.port port).lanes[l].state = .up ∨ (s.port port).lanes[l].state = .spare) :
    exec (.laneLockLoss port l) s = .next (s.laneFence port l 1) := by
  refine congrArg Host.Outcome.next (if_pos ?_)
  simpa using h

theorem laneLockLoss_of_training (h : (s.port port).lanes[l].state = .train) : exec (.laneLockLoss port l) s = .next s := by
  refine congrArg Host.Outcome.next (if_neg ?_)
  rw [h]
  decide

theorem lane_of_taken {seq : U16} {ack : Bool} (h : s.takeCtl port none 6 (laneBytes l ack seq) = some v) :
    exec (.lane port l seq ack) s =
      .next (if ack then v.modPort port fun q => { q with swap := (q.swap.filter fun y => y.1 ≠ l) ++ [(l, seq)] }
        else (v.modPort port fun q => { q with swap := (q.swap.filter fun y => y.1 ≠ l) ++ [(l, seq)] }).sendCtl port none 6
          (laneBytes l true seq)) := by
  show execLane port l seq ack s = _
  simp only [execLane, h]

variable {seq : U16} {rest : List (LaneId × U16)} (hswap : (s.port port).swap = (l, seq) :: rest)
include hswap

theorem laneSwap_of_early (htx : ((s.port port).native.txSeq - seq).toInt < 0) (hrx : ((s.port port).native.rxSeq - seq).toInt < 0) :
    exec (.laneSwap port) s = .next s := by
  show execLaneSwap port s = _
  simp only [execLaneSwap, hswap, Int.not_le.2 htx, Int.not_le.2 hrx, decide_false, Bool.or_self, Bool.false_eq_true, if_false]

theorem laneSwap_of_due (h : 0 ≤ ((s.port port).native.txSeq - seq).toInt ∨ 0 ≤ ((s.port port).native.rxSeq - seq).toInt) :
    exec (.laneSwap port) s = .next (s.laneSwap port l) := by
  have hdue : (decide (0 ≤ ((s.port port).native.txSeq - seq).toInt) || decide (0 ≤ ((s.port port).native.rxSeq - seq).toInt)) = true := by
    simpa using h
  show execLaneSwap port s = _
  simp only [execLaneSwap, hswap, hdue, if_true]

variable {u : State} (hrest : ∀ y ∈ rest, y.1 ≠ l)
  (hu : u = s.modPort port fun q => { (q.modLane l fun v => { v with state := .fenced, bad := 0 }) with swap := rest })
include hrest hu

theorem laneSwap_eq : s.laneSwap port l = if (u.port port).spareReady then u.modPort port fun q =>
      { (q.modLane 8 fun v => { v with state := .up }) with swapped := some l }
    else (u.port port).wholeHalf.elim ((u.linkLost port 3).portDown port 3) fun h => (u.modPort port fun q => { q with
      half := some h
      swapped := none
      lanes := q.lanes.mapFinIdx fun i v _ =>
        if v.state = .up && !(if h then 4 ≤ i && i < 8 else i < 4) then { v with state := .down } else v }).linkEvent port 1 0 := by
  have hkept : ((l, seq) :: rest).filter (fun y => decide (y.1 ≠ l)) = rest := by
    rw [List.filter_cons_of_neg (by simp), List.filter_eq_self]
    exact fun y hy => decide_eq_true (hrest y hy)
  have hfenced : u = s.modPort port fun q =>
      { (q.modLane l fun v => { v with state := .fenced, bad := 0 }) with swap := q.swap.filter fun y => decide (y.1 ≠ l) } :=
    hu.trans (modPort_congr s port (by rw [hswap, hkept]))
  rw [State.laneSwap, ← hfenced]
  cases (u.port port).wholeHalf <;> rfl

end Swap

theorem lane_fenced {port : PortId} {s u : State} {l : LaneId} {rest : List (LaneId × U16)}
    (hu : u = s.modPort port fun q => { (q.modLane l fun v => { v with state := .fenced, bad := 0 }) with swap := rest }) :
    (u.port port).lanes[l].state = .fenced ∧ (u.port port).swap = rest := by
  rw [hu, State.port_modPort]
  exact ⟨by simp [Port.modLane], rfl⟩

/-- Settles O34 (R294, R295, R297–R301): a lane's life, from signal to the fence. -/
theorem lanesTrainSwapAndFail : Obligations.LanesTrainSwapAndFail := by
  refine ⟨fun port l s hmode => ⟨fun h fine hfine => laneSignalDetect_of_idle hmode h hfine, laneSignalDetect_of_busy⟩,
    fun port l d dev s h => ?train, fun port passed s h hup half sw => laneQualifyWindow_of_qualified h hup,
    fun port over_ s hfew => laneMonitorWindow_of_few hfew, fun port l s => ⟨laneLockLoss_of_watched, laneLockLoss_of_training⟩,
    fun port l seq ack s v => lane_of_taken, fun port l seq rest s hswap hrest => ⟨fun u hdue hu => ?swap, laneSwap_of_early hswap⟩⟩
  case train =>
    have htrain := laneTrainingDone_of_training h
    refine ⟨fun hgood => ?_, fun hgood => ?_, fun hbad => ?_⟩
    · rw [htrain, hgood]; rfl
    · rw [htrain, hgood]; rfl
    · rw [htrain, hbad]; rfl
  case swap =>
    have hswapped := (laneSwap_of_due hswap hdue).trans (congrArg _ (laneSwap_eq hswap hrest hu))
    obtain ⟨hfenced, hkept⟩ := lane_fenced hu
    refine ⟨fun hspare => ?_, fun h hspare hwhole => ?_, fun hspare hwhole => ?_⟩
    · rw [hswapped, if_pos hspare]
    · rw [hswapped, if_neg (by rw [hspare]; exact Bool.false_ne_true), hwhole, Option.elim_some]
      refine ⟨_, rfl, ?_⟩
      rw [State.port_modPort]
      refine ⟨rfl, hkept, ?_⟩
      simp only [Fin.getElem_fin] at hfenced
      simp [hfenced]
    · rw [hswapped, if_neg (by rw [hspare]; exact Bool.false_ne_true), hwhole, Option.elim_none]

end Sys2Proof.Proofs.Lanes
end

section
/-!
PROOFS. Fault records, repairs, tests, defects and hangs (12: R326, R329, R331, R337, R340, R344; 13: R358, R360, R361, R364, R369), and the
settling of O35.
-/

namespace Sys2Proof.Proofs.FaultHandling
open Sys2Proof.Machine Sys2Proof.Proofs.Frames

/-! An event posted touches its function alone (15: R420–R422). -/

section Events
variable (s : State) (kind code : Nat) (body : Bytes)

theorem postEvent_eq (f : FnId) (part : Nat) : ∃ fns, s.postEvent f kind code part body = { s with fns := fns } := by
  simp only [State.postEvent]
  split
  · exact ⟨s.fns, rfl⟩
  · split <;> exact ⟨_, rfl⟩

theorem postPart_eq (p : PartId) : ∃ fns, s.postPart p kind code body = { s with fns := fns } := postEvent_eq ..

theorem postAdmin_eq : ∃ fns, s.postAdmin kind code body = { s with fns := fns } := by
  unfold State.postAdmin
  split
  · exact ⟨s.fns, rfl⟩
  · exact postEvent_eq ..

end Events

/-! Records, from the inbox to the log (R358, R360). -/

section Records
variable {s : State} {r : FaultRec}

theorem faultInboxDrain_of_up (hup : s.pintleUp = true) :
    exec .faultInboxDrain s = .next (s.nextRecord.1.elim s.nextRecord.2 s.nextRecord.2.takeRecord) := by
  show execFaultInboxDrain s = _
  simp only [execFaultInboxDrain, hup, if_true]
  cases s.nextRecord with
  | mk r v => cases r <;> rfl

theorem nextRecord_of_unknown {rest : List FaultRec} (hheld : s.faultHeld = []) (hinbox : s.inbox = r :: rest) (hslot : s.slotClosed r = none) :
    s.nextRecord = (none, { s with inbox := rest, faultHeld := [r] }) := by
  simp only [State.nextRecord, hheld, hinbox, hslot, List.find?_nil, Option.isSome_none, Bool.false_eq_true, if_false, List.nil_append]

theorem nextRecord_of_empty (hheld : s.faultHeld = []) (hinbox : s.inbox = []) : s.nextRecord = (none, s) := by
  simp only [State.nextRecord, hheld, hinbox, List.find?_nil]

theorem logFault_eq (s : State) (r : FaultRec) : ∃ fns, s.logFault r = { s with
    faultLog := (s.faultLog ++ [(s.faultHead, r)]).drop (s.faultLog.length + 1 - 16384), faultHead := s.faultHead + 1, fns := fns } := by
  simp only [State.logFault]
  generalize List.drop _ _ = log
  split
  · exact postPart_eq ..
  · exact postAdmin_eq ..

theorem faultHead_logFault (s : State) (r : FaultRec) : (s.logFault r).faultHead = s.faultHead + 1 := by
  obtain ⟨fns, h⟩ := logFault_eq s r
  rw [h]

theorem faultLog_logFault (hroom : s.faultLog.length < 16384) : (s.logFault r).faultLog = s.faultLog ++ [(s.faultHead, r)] := by
  obtain ⟨fns, h⟩ := logFault_eq s r
  rw [h]
  dsimp only
  rw [show s.faultLog.length + 1 - 16384 = 0 by omega, List.drop_zero]

end Records

/-! Repairs, tests, defects, hangs and quiescence. -/

section Repairs
variable {s : State} {p : PartId} {t : TileId}

theorem partitionRelease_of_placing (hplacing : (s.part p).placing = true) (hplain : ∀ r ∈ (s.part p).repairs, r.kind ≠ 1) :
    exec (.partitionRelease p) s =
      .next (s.setPart p { s.part p with placing := false, repairs := (s.part p).repairs.filter fun r => !r.switched }) := by
  have hnone : ((s.part p).repairs.filter fun r => r.switched && decide (r.kind = 1)) = [] :=
    List.filter_eq_nil_iff.2 fun r hr => by simp [hplain r hr]
  show execPartitionRelease p s = _
  simp only [execPartitionRelease, hplacing, if_true, hnone, List.map_nil]
  rfl

theorem fastPathAbandon_of_fast (h : ∃ r ∈ (s.part p).repairs, r.kind = 0) : exec (.fastPathAbandon p) s = .next (s.fastAbandon p) :=
  congrArg Host.Outcome.next (if_pos (List.any_eq_true.2 (h.imp fun _ hr => ⟨hr.1, decide_eq_true hr.2⟩)))

theorem fastPathAbandon_of_none (h : (s.part p).repairs = []) : exec (.fastPathAbandon p) s = .next s :=
  congrArg Host.Outcome.next (if_neg (by rw [h]; exact Bool.false_ne_true))

theorem inFieldTestDone_of_fitted (htile : s.hasTile t = true) (rs : List BistRecord) :
    exec (.inFieldTestDone t rs) s = .next (if (s.tile t).ward.test then s.testDone t rs else s) := if_pos htile

theorem testDone_of_passed {rs : List BistRecord} (h : ∀ b ∈ rs, b.result ≠ 1) :
    s.testDone t rs = ({ s.modTile t Tile.endTest with testResults := s.testResults ++ rs } : State).testPassed t := by
  have hnone : (rs.filter fun b => decide (b.result = 1)) = [] := List.filter_eq_nil_iff.2 fun b hb => by simpa using h b hb
  simp only [State.testDone, hnone]

theorem defectLogAppend_of_frozen {d : Defect} {ds : List Defect} (hqueue : s.defectQueue = d :: ds) (hfreeze : s.repairFreeze = true) :
    exec .defectLogAppend s = .next s := by
  show execDefectLogAppend s = _
  simp only [execDefectLogAppend, hqueue, hfreeze, if_true]

theorem defectLogAppend_of_room {d : Defect} {ds : List Defect} (hqueue : s.defectQueue = d :: ds) (hfree : s.repairFreeze = false)
    (hroom : s.defects.length < 4095) : exec .defectLogAppend s = .next { s with
      defectQueue := ds, defects := s.defects ++ [{ d with seq := s.defectSeq }], defectSeq := s.defectSeq + 1 } := by
  show execDefectLogAppend s = _
  simp only [execDefectLogAppend, hqueue, hfree, Bool.false_eq_true, if_false, State.appendDefect, hroom, if_true]

theorem hangWindowExpiry_of_position (htile : s.hasTile t = true) (hp : s.partOf t = some p) (hn : (s.nOf t).isSome = true) :
    exec (.hangWindowExpiry t) s = .next (if s.hangOut p t then s.hangFault t else s) := by
  show execHangWindowExpiry t s = _
  simp only [execHangWindowExpiry, htile, if_true, hp, hn, Bool.and_true]

theorem quiescenceCheck_of_frozen (hpresent : (s.part p).present = true) (hopen : (s.part p).judged = false) (hfreeze : (s.part p).freeze ≠ none)
    (a b : List (TileId × BitVec 3)) : exec (.quiescenceCheck p a b) s = .next (s.quiesceCheck p a b) := by
  refine congrArg Host.Outcome.next (if_pos ?_)
  rw [Part.quiescent, Option.isSome_iff_ne_none.2 hfreeze, hpresent, hopen]
  rfl

end Repairs

/-- Settles O35 (R326, R329, R331, R337, R340, R344, R358, R360, R361, R364, R369): each event with its cause, and without it. -/
theorem faultsReachTheLogAndTheDefectLog : Obligations.FaultsReachTheLogAndTheDefectLog := by
  refine ⟨fun s hup => ⟨fun r v u d hnext hdecide => ?judged, fun r rest hheld hinbox hslot => ?held, fun hheld hinbox => ?empty⟩,
    fun s r => ⟨faultHead_logFault s r, faultLog_logFault⟩, fun p s => partitionRelease_of_placing,
      fun p s => ⟨fastPathAbandon_of_fast, fastPathAbandon_of_none⟩,
    fun t rs s htile => ⟨fun htest hpassed => ?tested, fun htest => ?untested⟩,
    fun d ds s hqueue => ⟨defectLogAppend_of_frozen hqueue, defectLogAppend_of_room hqueue⟩,
    fun t p s htile hp hn => ⟨fun hhang => ?hung, fun hmoves => ?moves⟩,
      fun p a b s hpresent hopen hfreeze => quiescenceCheck_of_frozen hpresent hopen hfreeze a b⟩
  case judged =>
    rw [faultInboxDrain_of_up hup, hnext, Option.elim_some, State.takeRecord, hdecide]
  case held => rw [faultInboxDrain_of_up hup, nextRecord_of_unknown hheld hinbox hslot, Option.elim_none]
  case empty => rw [faultInboxDrain_of_up hup, nextRecord_of_empty hheld hinbox, Option.elim_none]
  case tested => rw [inFieldTestDone_of_fitted htile, if_pos htest, testDone_of_passed hpassed]
  case untested => rw [inFieldTestDone_of_fitted htile, if_neg (by rw [htest]; exact Bool.false_ne_true)]
  case hung => rw [hangWindowExpiry_of_position htile hp hn, if_pos hhang]
  case moves => rw [hangWindowExpiry_of_position htile hp hn, if_neg (by rw [hmoves]; exact Bool.false_ne_true)]

end Sys2Proof.Proofs.FaultHandling
end

section
/-!
PROOFS. The resets and the watchdog (13: R366–R370; 14: R398), and the settling of O36.
-/

namespace Sys2Proof.Proofs.Resets
open Sys2Proof.Machine

section Tiles
variable {s : State} {t : TileId} (htile : s.hasTile t = true)
include htile

theorem tileReset_of_fitted (a : Bool) : exec (.tileReset t a) s = .next (if (s.tile t).resetDue = 1 then s.tileReset t a else s) := if_pos htile

theorem clusterReset_of_fitted (a : Bool) : exec (.clusterReset t a) s =
    .next (if (s.tile t).resetDue = 2 || s.boot.phase = 2 then s.clusterReset t a else s) := if_pos htile

end Tiles

section Partitions
variable {s : State} {p : PartId}

theorem partitionReset_of_idle (h : (s.part p).resetDue = false) (b : Bool) : exec (.partitionReset p b) s = .next s :=
  congrArg Host.Outcome.next (if_neg (by rw [h, Bool.and_false]; exact Bool.false_ne_true))

theorem partitionReset_of_due (hpresent : (s.part p).present = true) (hdue : (s.part p).resetDue = true) (inTime : Bool) :
    exec (.partitionReset p inTime) s = .next (if inTime then (s.partHalt p).partReset p else
      { (s.partHalt p).modPart p (fun q => { q with resetDue := false, ladder := some ⟨0x0C, 4, 5, s.now⟩ }) with
        boot := { (s.partHalt p).boot with
          resetDue := true
          cause := ((s.faultLog.filter fun r => bitAt r.2.flags.toNat 1 && r.2.part = p).getLast?.map (·.2)).or (s.partHalt p).boot.cause } }) :=
  congrArg Host.Outcome.next (if_pos (by rw [hpresent, hdue]; rfl))

end Partitions

/-! The device: what decides a reset, and when it is settled enough to happen. -/

section Device
variable {s u : State}

theorem deviceReset_of_decided (h : s.boot.resetDue = true ∨ (s.boot.phase ≠ 0 ∧ s.power.cycleReq = false))
    (hu : u = { s with boot := { s.boot with resetDue := true } }) : exec .deviceReset s = .next (if u.settled then u.deviceReset else u) := by
  subst hu
  refine congrArg Host.Outcome.next (if_pos ?_)
  rcases h with h | ⟨hphase, hcycle⟩
  · rw [h, Bool.true_or]
  · simp [hphase, hcycle]

theorem deviceReset_of_running (hdue : s.boot.resetDue = false) (h : s.boot.phase = 0 ∨ s.power.cycleReq = true) : exec .deviceReset s = .next s := by
  refine congrArg Host.Outcome.next (if_neg ?_)
  rcases h with h | h <;> simp [hdue, h]

theorem settled_of (hwaiters : ∀ w ∈ s.waiters, w.opcode = 0x080B ∧ w.queued = false) (happlies : ∀ p, (s.part p).applies = []) :
    s.settled = true := by
  refine Bool.and_eq_true_iff.2 ⟨List.all_eq_true.2 fun w hw => ?_, List.all_eq_true.2 fun p _ => ?_⟩
  · simp [hwaiters w hw]
  · simp [happlies p]

theorem not_settled_of {w : Waiter} (hw : w ∈ s.waiters) (hop : w.opcode ≠ 0x080B) : s.settled = false :=
  Bool.and_eq_false_iff.2 (.inl (List.all_eq_false.2 ⟨w, hw, by simpa using fun h => absurd h hop⟩))

theorem powerCycleRequest_of_due (h : s.power.cycleDue = true) : exec .powerCycleRequest s = .next s.powerCycle := congrArg Host.Outcome.next (if_pos h)

theorem powerCycleRequest_of_none (h : s.power.cycleDue = false) (hsince : s.boot.resetSince = none) : exec .powerCycleRequest s = .next s := by
  show execPowerCycleRequest s = _
  simp only [execPowerCycleRequest, h, hsince, Bool.false_eq_true, if_false]

theorem watchdogExpiry_of_attempt (h : s.boot.stage ≠ 0) : exec .watchdogExpiry s = .next (s.failAttempt 0x05 0) :=
  congrArg Host.Outcome.next (if_pos (decide_eq_true h))

theorem watchdogExpiry_of_service (hstage : s.boot.stage = 0) (hphase : s.boot.phase ≠ 0) : exec .watchdogExpiry s =
    let u : State := { s with boot := { s.boot with standby := true, standbyRuns := false } }
    .next (if s.boot.standbyRuns then
      (u.logFault { (u.mkRecord none none 0xFFFF { cls := 6, unit := 5, addr := 8, clears := false }) with action := 0x12 }).postAdmin 6 3 []
    else s.powerCycle) := by
  show execWatchdogExpiry s = _
  rw [execWatchdogExpiry, if_neg (by rw [State.attempting, hstage]; decide)]
  exact congrArg Host.Outcome.next (if_neg hphase)

end Device

/-- Settles O36 (R366–R370, R398): each reset with its cause, and without it. -/
theorem resetsOfTileClusterPartitionAndDevice : Obligations.ResetsOfTileClusterPartitionAndDevice := by
  refine ⟨fun t s htile => ⟨fun hdue => ?tile, fun hdue a => ?cluster, fun hnone a => ?no_tile, fun hnone hphase a => ?no_cluster⟩,
    fun p s hpresent hdue => ⟨_, rfl, partitionReset_of_due hpresent hdue true, partitionReset_of_due hpresent hdue false⟩,
    fun p s => partitionReset_of_idle, fun s u hdecided hu => ⟨fun hwaiters happlies => ?settled, fun w hw hop => ?waiting⟩,
    fun s => deviceReset_of_running, fun s => ⟨powerCycleRequest_of_due, powerCycleRequest_of_none, watchdogExpiry_of_attempt,
      fun hstage hphase hsingle => ?single, fun hstage hphase hstandby => ?standby⟩⟩
  case tile =>
    refine ⟨?_, ?_⟩
    · rw [tileReset_of_fitted htile, if_pos hdue]; rfl
    · rw [tileReset_of_fitted htile, if_pos hdue]; rfl
  case cluster => rw [clusterReset_of_fitted htile, if_pos (by simpa using hdue)]
  case no_tile => rw [tileReset_of_fitted htile, if_neg (by rw [hnone]; decide)]
  case no_cluster => rw [clusterReset_of_fitted htile, if_neg (by simpa using ⟨hnone, hphase⟩)]
  case settled =>
    rw [deviceReset_of_decided hdecided hu, if_pos]
    subst hu
    exact settled_of hwaiters happlies
  case waiting =>
    have hwaits : u.settled = false := not_settled_of (by rw [hu]; exact hw) hop
    rw [deviceReset_of_decided hdecided hu, if_neg (by rw [hwaits]; exact Bool.false_ne_true)]
  case single => rw [watchdogExpiry_of_service hstage hphase, hsingle]; rfl
  case standby => exact ⟨_, _, rfl, by rw [watchdogExpiry_of_service hstage hphase, hstandby]; rfl, rfl⟩

end Sys2Proof.Proofs.Resets
end

section
/-!
PROOFS. A start attempt, its stages and their limits (14: R378–R399), and the settling of O37.
-/

namespace Sys2Proof.Proofs.StartAttempts
open Sys2Proof.Machine

section Attempt
variable {s : State}

theorem startAttempt_of_off (hphase : s.boot.phase = 0) (hstage : s.boot.stage = 0) (hgood : s.powerGood = true) :
    exec .startAttempt s = .next (if s.noteIncomplete.boot.strikes = 3 then s.noteIncomplete.thirdStrike else (s.noteIncomplete.strike 1 false).loadImage) :=
  congrArg Host.Outcome.next (if_pos (by simp [hphase, hstage, hgood]))

theorem startAttempt_of_attempting (h : s.boot.stage ≠ 0) : exec .startAttempt s = .next s :=
  congrArg Host.Outcome.next (if_neg (by simp [h]))

theorem attemptFailed_of_attempting (h : s.boot.stage ≠ 0) (reason : Byte) (detail : U32) :
    exec (.attemptFailed reason detail) s = .next (s.failAttempt reason.toNat detail.toNat) := congrArg Host.Outcome.next (if_pos (decide_eq_true h))

theorem attemptFailed_of_none (h : s.boot.stage = 0) (reason : Byte) (detail : U32) : exec (.attemptFailed reason detail) s = .next s :=
  congrArg Host.Outcome.next (if_neg (by simp [State.attempting, h]))

end Attempt

/-! A stage that completes (R379–R394). -/

section Stages
variable {s : State} {r : StageReport}

theorem startStageComplete_of_attempting (hstage : s.boot.stage ≠ 0) (htested : s.boot.stage = 5 → s.boot.tilesTested = false) :
    exec (.startStageComplete r) s = .next (s.stageDone r) := by
  refine congrArg Host.Outcome.next (if_pos ?_)
  by_cases h5 : s.boot.stage = 5
  · simp [State.attempting, h5, htested h5]
  · simp [State.attempting, hstage, h5]

theorem startStageComplete_of_tested (hstage : s.boot.stage = 5) (htested : s.boot.tilesTested = true) : exec (.startStageComplete r) s = .next s :=
  congrArg Host.Outcome.next (if_neg (by simp [hstage, htested]))

theorem stageDone_of_unlocked (hstage : s.boot.stage = 2) (hpll : r.pllLocked = false) : s.stageDone r = s.failAttempt 0x03 0 :=
  if_pos (by simp [hstage, hpll])

theorem stageDone_of_ioDie {b : BistRecord} (hpll : s.boot.stage = 2 → r.pllLocked = true) (hb : ioDieFails r = some b) :
    s.stageDone r = (s.otherBist r).failAttempt 0x07 (13 + 256 * (b.wher.toNat % 256)) := by
  have hlocked : ¬(decide (s.boot.stage = 2) && !r.pllLocked) = true := by simpa using hpll
  rw [State.stageDone, if_neg hlocked, hb]

theorem stageDone_of_passed {u : State} (hpll : r.pllLocked = true) (hb : ioDieFails r = none) (hk : s.boot.stage ≤ 4) (hu : u = s.stageWork r) :
    s.stageDone r = { u with boot := { u.boot with
      stage := s.boot.stage + 1, stageAt := u.now, began := u.now, results := u.boot.results ++ r.bist.filter (fun b => b.result ≠ 0)
      stageMs := u.boot.stageMs ++ [r.elapsedMs] } } := by
  have hnext : min 5 (s.boot.stage + 1) = s.boot.stage + 1 := by omega
  have hnot5 : ¬s.boot.stage = 5 := by omega
  subst hu
  rw [State.stageDone, if_neg (by simp [hpll]), hb]
  simp only [hnext, if_neg hnot5]

end Stages

/-! The limits of the stages, the link stage's ports, and READY (R380, R386, R396). -/

section Limits
variable {s : State}

theorem startStageTimeout_of_stage (h0 : s.boot.stage ≠ 0) (h4 : s.boot.stage ≠ 4) : exec .startStageTimeout s =
    .next ((s.reach (s.boot.began + startLimit s.boot.stage * 1000000 + 1 : Nat)).failAttempt 0x04 s.boot.stage) :=
  congrArg Host.Outcome.next (if_pos (by simp [State.attempting, h0, h4]))

theorem startStageTimeout_of_link (h4 : s.boot.stage = 4) : exec .startStageTimeout s = .next s :=
  congrArg Host.Outcome.next (if_neg (by simp [h4]))

theorem startLimit_of_mem {k ms : Nat} (h : (k, ms) ∈ [(1, 1000), (2, 100), (3, 4000), (5, 3000)]) : k ≠ 0 ∧ k ≠ 4 ∧ startLimit k = ms := by
  simp only [List.mem_cons, Prod.mk.injEq, List.not_mem_nil, or_false] at h
  rcases h with ⟨rfl, rfl⟩ | ⟨rfl, rfl⟩ | ⟨rfl, rfl⟩ | ⟨rfl, rfl⟩ <;> decide

theorem tilesReady_of_passed (h : ∀ t ∈ s.allHolders, (s.tile t).load.state = 2 ∧ (s.tile t).load.ka = 2) : s.tilesReady = true :=
  List.all_eq_true.2 fun t ht => by simp [h t ht]

theorem ready_of_all (hstage : s.boot.stage = 5) (htested : s.boot.tilesTested = true) (hready : s.tilesReady = true) (hleft : s.anyLeft = true) :
    exec .ready s = .next s.becomeReady := congrArg Host.Outcome.next (if_pos (by simp [hstage, htested, hready, hleft]))

theorem ready_of_none (hstage : s.boot.stage = 0) : exec .ready s = .next s := congrArg Host.Outcome.next (if_neg (by simp [hstage]))

variable {port : PortId}

theorem linkStagePortTimeout_of_down (hstage : s.boot.stage = 4) (hmode : (s.port port).mode ≠ 0) (hdown : (s.port port).isUp = false) :
    exec (.linkStagePortTimeout port) s = .next ((s.reach (s.boot.began + (s.port port).stageLimit : Nat)).portDown port 0) :=
  congrArg Host.Outcome.next (if_pos (by simpa [hstage, hdown] using hmode))

theorem linkStagePortTimeout_of_up (hup : (s.port port).isUp = true) : exec (.linkStagePortTimeout port) s = .next s :=
  congrArg Host.Outcome.next (if_neg (by simp [hup]))

end Limits

/-- Settles O37 (R378–R399): the attempt by its strikes, its stages by their reports and limits, and its two ends. -/
theorem startAttemptsAndTheirStages : Obligations.StartAttemptsAndTheirStages := by
  refine ⟨fun s => ⟨fun hphase hstage hgood h3 => ?third, fun hphase hstage hgood h3 => ?strike, startAttempt_of_attempting⟩,
    fun r s => ⟨fun hstage hpll => ?unlocked, fun k b hk hk0 hpll htested hb => ?ioDie, fun k hk h1 h4 hpll hb => ⟨_, rfl, ?passed⟩,
      startStageComplete_of_tested⟩,
    fun s => ⟨fun k ms hk hms => ?limit, startStageTimeout_of_link, fun hstage htested hholders hleft =>
      ready_of_all hstage htested (tilesReady_of_passed hholders) hleft, ready_of_none⟩,
    fun port s hstage => ⟨linkStagePortTimeout_of_down hstage, linkStagePortTimeout_of_up⟩,
    fun reason detail s => ⟨fun h => attemptFailed_of_attempting h reason detail, fun h => attemptFailed_of_none h reason detail⟩,
    fun s reason detail => ⟨rfl, rfl, rfl⟩⟩
  case third => rw [startAttempt_of_off hphase hstage hgood, if_pos h3]
  case strike => rw [startAttempt_of_off hphase hstage hgood, if_neg h3]
  case unlocked =>
    rw [startStageComplete_of_attempting (by rw [hstage]; decide) (fun h => absurd (hstage.symm.trans h) (by decide)),
      stageDone_of_unlocked hstage hpll]
  case ioDie =>
    subst hk
    rw [startStageComplete_of_attempting hk0 htested, stageDone_of_ioDie hpll hb]
  case passed =>
    subst hk
    rw [startStageComplete_of_attempting (by omega) (by omega), stageDone_of_passed hpll hb h4 rfl]
  case limit =>
    obtain ⟨h0, h4, hlimit⟩ := startLimit_of_mem hms
    subst hk
    rw [startStageTimeout_of_stage h0 h4, hlimit]

end Sys2Proof.Proofs.StartAttempts
end

section
/-!
PROOFS. The load of the tile images: rounds, digests, the status check and the known-answer run (14: R389–R392), and the settling of O38.
-/

namespace Sys2Proof.Proofs.TileImages
open Sys2Proof.Machine

theorem loading_of {l : Load} (harmed : l.armed = true) (hstate : l.state = 1) : l.loading = true := by simp [Load.loading, harmed, hstate]

/-! A tile that lacks fragments (R390). -/

section Rounds
variable {s : State} {t : TileId}

theorem nextRound_of_spent (h : 3 ≤ (s.tile t).load.rounds) (all_ : Bool) :
    s.nextRound t all_ = s.modTile t fun v => { v with load := v.load.mark 3 (s.tile t).load.rounds 0 } := if_pos h

theorem nextRound_sends (h : (s.tile t).load.rounds < 3) (all_ : Bool) :
    ∃ pkt : Packet, (s.nextRound t all_).net = s.net ++ [{ pkt := pkt, loc := .router t 4, ready := some s.now }] ∧ pkt.type = 0x84 ∧
      pkt.payload = resendPayload (s.tile t).load ((s.tile t).load.rounds + 1) all_ := by
  rw [State.nextRound, if_neg (Nat.not_le.2 h)]
  exact ⟨_, rfl, rfl, rfl⟩

variable (htile : s.hasTile t = true)
include htile

theorem broadcastDeadline_of_first (hload : (s.tile t).load.loading = true) (hrounds : (s.tile t).load.rounds = 0)
    (hmissing : (s.tile t).load.missing ≠ []) :
    exec (.broadcastDeadline t) s =
      .next ((if (s.tile t).load.gap then s else s.reach (s.deadlineCount (s.tile t).load + 1)).nextRound t false) :=
  (if_pos htile).trans (congrArg Host.Outcome.next (if_pos (by simp [hload, hrounds, hmissing])))

theorem broadcastDeadline_of_later (hrounds : (s.tile t).load.rounds ≠ 0) : exec (.broadcastDeadline t) s = .next s :=
  (if_pos htile).trans (congrArg Host.Outcome.next (if_neg (by simp [hrounds])))

theorem resendRoundTimeout_of_round (hload : (s.tile t).load.loading = true) (hrounds : (s.tile t).load.rounds ≠ 0)
    (hmissing : (s.tile t).load.missing ≠ []) :
    exec (.resendRoundTimeout t) s = .next ((s.reach ((s.tile t).load.roundDeadline.toNat + 1 : Nat)).nextRound t false) :=
  (if_pos htile).trans (congrArg Host.Outcome.next (if_pos (by simp [hload, hrounds, hmissing])))

theorem resendRoundTimeout_of_none (hrounds : (s.tile t).load.rounds = 0) : exec (.resendRoundTimeout t) s = .next s :=
  (if_pos htile).trans (congrArg Host.Outcome.next (if_neg (by simp [hrounds])))

theorem imageDigestCheck_of_missing (hmissing : (s.tile t).load.missing ≠ []) : exec (.imageDigestCheck t) s = .next s :=
  (if_pos htile).trans (congrArg Host.Outcome.next (if_neg (by simp [hmissing])))

theorem imageDigestCheck_of_complete (hload : (s.tile t).load.loading = true) (hmissing : (s.tile t).load.missing = []) :
    exec (.imageDigestCheck t) s = .next (
      if sha512 ((List.range (s.tile t).load.length.toNat).map ((s.tile t).imem.get (tileKey t))) = (s.tile t).load.digest then
        s.modTile t fun v => { v with load := { (v.load.mark 2 v.load.rounds 0) with doneAt := some s.now } }
      else s.nextRound t true) :=
  (if_pos htile).trans (congrArg Host.Outcome.next (if_pos (by simp [hload, hmissing])))

end Rounds

/-! The status check and the known-answer run (R391, R392). -/

section KnownAnswer
variable {s0 s : State}

theorem statusCheck_of_loaded (hrounds : s.boot.kaRounds < 2) (hloaded : ∀ t ∈ s.allHolders, (s.tile t).load.state = 2)
    (hfresh : ∃ t ∈ s.allHolders, (s.tile t).load.ka = 0) {u : State}
    (hu : u = s.allHolders.foldl (fun s t => if (s.tile t).load.ka = 0 then s.modTile t fun v => { v with load := v.load.mark 2 v.load.rounds 1 } else s) s) :
    s.statusCheck = { u with boot := { u.boot with kaRounds := u.boot.kaRounds + 1 } } := by
  have hnobad : (s.allHolders.filter fun t => (s.tile t).load.state = 3) = [] :=
    List.filter_eq_nil_iff.2 fun t ht => by simp [hloaded t ht]
  have hall : s.allHolders.all (fun t => (s.tile t).load.state = 2) = true := List.all_eq_true.2 fun t ht => by simp [hloaded t ht]
  have hany : s.allHolders.any (fun t => (s.tile t).load.ka = 0) = true := by simpa using hfresh
  subst hu
  simp only [State.statusCheck, hnobad, List.isEmpty_nil, Bool.not_true, Bool.false_eq_true, if_false, hall, hany, hrounds, decide_true,
    Bool.and_self, if_true]

theorem loadStatusCheck_of_loaded (hstage : s0.boot.stage = 5) (htested : s0.boot.tilesTested = true) (hs : s = s0.unitOverdue)
    (hloaded : ∀ t ∈ s.allHolders, (s.tile t).load.state = 2) : exec .loadStatusCheck s0 = .next s.statusCheck := by
  have hearly : (s.allHolders.all fun t => 2 ≤ (s.tile t).load.state) = true := List.all_eq_true.2 fun t ht => by simp [hloaded t ht]
  subst hs
  show execLoadStatusCheck s0 = _
  simp only [execLoadStatusCheck, hstage, htested, decide_true, Bool.and_self, if_true, hearly]

theorem loadStatusCheck_of_other (hstage : s.boot.stage ≠ 5) : exec .loadStatusCheck s = .next s :=
  congrArg Host.Outcome.next (if_neg (by simp [hstage]))

theorem knownAnswerDone_of_running (hstage : s.boot.stage = 5) (h : ∃ t ∈ s.allHolders, (s.tile t).load.ka = 1) (fs : List (TileId × U64 × U32)) :
    exec (.knownAnswerDone fs) s = .next (s.knownAnswer fs) :=
  congrArg Host.Outcome.next (if_pos (by simpa [hstage] using h))

theorem knownAnswerDone_of_none (h : ∀ t ∈ s.allHolders, (s.tile t).load.ka ≠ 1) (fs : List (TileId × U64 × U32)) :
    exec (.knownAnswerDone fs) s = .next s := congrArg Host.Outcome.next (if_neg (by simpa using fun _ => h))

end KnownAnswer

/-- Settles O38 (R389–R392): the rounds of a tile, its digest, and the checks of the whole grid. -/
theorem tileImagesLoadAndAreChecked : Obligations.TileImagesLoadAndAreChecked := by
  refine ⟨fun t l s htile hl harmed hstate hmissing => ?rounds, fun t v s htile hv harmed hstate hmissing => ?digest,
    fun t l s all_ hl => ?next_round, fun s0 s hs hstage htested hrounds hloaded hfresh => ⟨_, rfl, ?status⟩,
    fun s => loadStatusCheck_of_other, fun s hstage h => knownAnswerDone_of_running hstage h [],
    fun s fs hstage h => knownAnswerDone_of_running hstage h fs, fun s fs h => knownAnswerDone_of_none h fs⟩
  case rounds =>
    subst hl
    have hload := loading_of harmed hstate
    refine ⟨fun hrounds hgap => ?_, fun hrounds hgap => ?_, fun hrounds => ⟨broadcastDeadline_of_later htile hrounds,
      resendRoundTimeout_of_round htile hload hrounds hmissing⟩, resendRoundTimeout_of_none htile, imageDigestCheck_of_missing htile hmissing⟩
    · rw [broadcastDeadline_of_first htile hload hrounds hmissing, if_pos hgap]
    · rw [broadcastDeadline_of_first htile hload hrounds hmissing, if_neg (by rw [hgap]; exact Bool.false_ne_true)]
  case digest =>
    subst hv
    refine ⟨fun h => ?_, fun h => ?_⟩
    · rw [imageDigestCheck_of_complete htile (loading_of harmed hstate) hmissing, if_pos h]
    · rw [imageDigestCheck_of_complete htile (loading_of harmed hstate) hmissing, if_neg h]
  case next_round =>
    subst hl
    exact ⟨fun h => nextRound_of_spent h all_, fun h => nextRound_sends h all_⟩
  case status => rw [loadStatusCheck_of_loaded hstage htested hs hloaded, statusCheck_of_loaded hrounds hloaded hfresh rfl]

end Sys2Proof.Proofs.TileImages
end

section
/-!
PROOFS. The host links and the aperture (15: R404–R411), and the settling of O39.
-/

namespace Sys2Proof.Proofs.HostLinks
open Sys2Proof.Machine

/-! The links of a function (R404). -/

section Links
variable {s : State} {f : FnId} {gen : Byte}

theorem pcieLinkUp_of_fast (hpower : s.power.converters = true) (hon : s.power.packageOff = false) (hfn : s.fnExists f = true)
    (h5 : 5 ≤ gen.toNat) (h7 : gen.toNat ≤ 7) : exec (.pcieLinkUp f gen) s = .next ((s.modFn f fun v => { v with gen := gen }).minimalUp f) :=
  congrArg Host.Outcome.next (if_pos (by simp [hpower, hon, hfn, h5, h7]))

theorem pcieLinkUp_of_slow (h : gen.toNat < 5) : exec (.pcieLinkUp f gen) s = .next s :=
  congrArg Host.Outcome.next (if_neg (by simp [Nat.not_le.2 h]))

theorem pcieLinkUp_of_absent (h : s.fnExists f = false) : exec (.pcieLinkUp f gen) s = .next s :=
  congrArg Host.Outcome.next (if_neg (by simp [h]))

theorem minimalUp_of_full (h : s.boot.phase ≠ 3) : s.minimalUp f = s := if_pos h

end Links

/-! What the aperture allows (R410, R411). -/

section Aperture
variable {s : State} {f : FnId} {offset k a : Nat}

theorem aperture_of_disabled (h : (s.fn f).a2En = false) : s.aperture f offset k = none := if_neg (by simp [h])

theorem aperture_of_foreign (h : (s.part (s.fn f).a2Part).owner ≠ f) : s.aperture f offset k = none := if_neg (by simp [h])

theorem aperture_eq_some (h : s.aperture f offset k = some a) : a = (s.fn f).a2Latched.toNat * 2 ^ 30 + offset ∧
    s.pintleOwns (s.fn f).a2Part a k = false ∧ s.rangeOn (s.fn f).a2Part a k = true := by
  obtain ⟨hconds, ha⟩ := Option.ite_none_right_eq_some.1 h
  cases ha
  simp only [Bool.and_eq_true, Bool.not_eq_true'] at hconds
  obtain ⟨⟨-, hon⟩, hown⟩ := hconds
  exact ⟨rfl, hown, hon⟩

end Aperture

/-! Reads through BAR2 (R411). -/

section Reads
variable {s : State} {f : FnId} {offset : BitVec 36} {len : BitVec 13} {ecc : Ecc} {a : Nat}

theorem bar2Read_of_down (hgen : (s.fn f).gen = 0) : exec (.bar2Read f offset len ecc) s = .next s := congrArg Host.Outcome.next (if_pos hgen)

variable (hgen : (s.fn f).gen ≠ 0)
include hgen

theorem bar2Read_of_refused (hap : s.aperture f offset.toNat len.toNat = none) : exec (.bar2Read f offset len ecc) s =
    .next (s.modFn f fun v => { v with bar2Refused := v.bar2Refused + 1, aer := v.aer + 1, out := v.out ++ [.completion [] false] }) := by
  refine congrArg Host.Outcome.next ((if_neg hgen).trans ?_)
  rw [hap]
  rfl

theorem bar2Read_of_corrected (hap : s.aperture f offset.toNat len.toNat = some a)
    (hecc : ∀ d m, s.retiredEcc (s.fn f).a2Part a len.toNat ecc ≠ .dram d m) :
    exec (.bar2Read f offset len ecc) s = .next ((s.correctDram (s.retiredEcc (s.fn f).a2Part a len.toNat ecc)).modFn f fun v =>
        { v with out := v.out ++ [.completion (s.partRead (s.fn f).a2Part a len.toNat) true] }) := by
  refine congrArg Host.Outcome.next ((if_neg hgen).trans ?_)
  rw [hap]
  dsimp only
  generalize s.retiredEcc (s.fn f).a2Part a len.toNat ecc = e at hecc ⊢
  cases e with
  | dram d m => exact absurd rfl (hecc d m)
  | _ => rfl

theorem bar2Read_of_uncorrectable {d : BitVec 42} {m : BitVec 18} (hap : s.aperture f offset.toNat len.toNat = some a)
    (hecc : s.retiredEcc (s.fn f).a2Part a len.toNat ecc = .dram d m) : exec (.bar2Read f offset len ecc) s =
      .next (((s.upsetDram d.toNat).hostEcc (s.fn f).a2Part (.dram d m)).modFn f fun v =>
        { v with out := v.out ++ [.completion ((s.upsetDram d.toNat).partRead (s.fn f).a2Part a len.toNat) true] }) := by
  refine congrArg Host.Outcome.next ((if_neg hgen).trans ?_)
  rw [hap]
  dsimp only
  rw [hecc]

end Reads

/-! Writes through BAR2, and the mirror that a partition without a shadow does not write (R410, R411). -/

section Writes
variable {s : State} {f : FnId} {offset : BitVec 36} {data : Bytes} {a : Nat}

theorem part_partWrite (p q : PartId) (bs : Bytes) : ∀ (s : State) (a : Nat), (s.partWrite p a bs).part q = s.part q := by
  induction bs with
  | nil => intro s a; rfl
  | cons b bs ih =>
    intro s a
    rw [State.partWrite, ih]
    cases (s.part p).dpa a <;> rfl

theorem mirror_of_no_shadow {p : PartId} (h : (s.part p).shadow = none) (q : Packet) : s.mirror p q = s := by
  rw [State.mirror, h]

theorem mirrored_of_no_shadow {p : PartId} (h : (s.part p).shadow = none) (xs : List (Nat × Bytes)) :
    xs.foldl (fun u x => u.mirror p (u.hostPacket f p x.1 x.2)) s = s := by
  induction xs with
  | nil => rfl
  | cons x xs ih => rw [List.foldl_cons, mirror_of_no_shadow h, ih]

theorem bar2Write_of_down (hgen : (s.fn f).gen = 0) : exec (.bar2Write f offset data) s = .next s := congrArg Host.Outcome.next (if_pos hgen)

variable (hgen : (s.fn f).gen ≠ 0)
include hgen

theorem bar2Write_of_allowed (hap : s.aperture f offset.toNat data.length = some a) : exec (.bar2Write f offset data) s =
    .next ((cutPieces data.length a data).foldl (fun u x => u.mirror (s.fn f).a2Part (u.hostPacket f (s.fn f).a2Part x.1 x.2))
      (s.partWrite (s.fn f).a2Part a data)) := by
  refine congrArg Host.Outcome.next ((if_neg hgen).trans ?_)
  rw [hap]

theorem bar2Write_of_refused (hap : s.aperture f offset.toNat data.length = none) : exec (.bar2Write f offset data) s =
    .next (s.modFn f fun v => { v with bar2Refused := v.bar2Refused + 1, aer := v.aer + 1 }) := by
  refine congrArg Host.Outcome.next ((if_neg hgen).trans ?_)
  rw [hap]
  rfl

end Writes

/-! Completions of the reads a function has out (R172). -/

section Completions
variable {s : State} {f : FnId} {tag : U16} {i : U32} {data : Bytes}

theorem hostReadCompletion_of_waiting {q : Packet} (h : ((s.fn f).reads.find? fun q => q.tag = tag && q.src = i && q.len.toNat = data.length) = some q) :
    exec (.hostReadCompletion f tag i data) s =
      .next ((s.modFn f fun v => { v with reads := v.reads.erase q }).place (fnEast f) none (ioReply (fnUnit f) 0 q stOk data)).1 := by
  show execHostReadCompletion f tag i data s = _
  rw [execHostReadCompletion, h]

theorem hostReadCompletion_of_unwanted (h : ∀ q ∈ (s.fn f).reads, q.tag ≠ tag) : exec (.hostReadCompletion f tag i data) s = .next s := by
  have hnone : ((s.fn f).reads.find? fun q => q.tag = tag && q.src = i && q.len.toNat = data.length) = none :=
    List.find?_eq_none.2 fun q hq => by simp [h q hq]
  show execHostReadCompletion f tag i data s = _
  rw [execHostReadCompletion, hnone]

end Completions

/-- Settles O39 (R172, R404–R411): the links, the aperture's reads and writes, and the completions of host reads. -/
theorem hostLinksAndTheAperture : Obligations.HostLinksAndTheAperture := by
  refine ⟨fun b f s => ⟨rfl, rfl, rfl⟩, fun f gen s hpower hon => ⟨fun hfn h5 h7 hphase => ?up, pcieLinkUp_of_slow, pcieLinkUp_of_absent⟩,
    fun f offset len ecc s hgen => ⟨fun a hap hecc => ?clean, fun a hap hecc => bar2Read_of_corrected hgen hap hecc,
      fun a d m hap hecc => bar2Read_of_uncorrectable hgen hap hecc, bar2Read_of_refused hgen⟩,
    fun f offset data s hgen => ⟨fun a hap hshadow => ?unmirrored, fun a hap => bar2Write_of_allowed hgen hap, bar2Write_of_refused hgen⟩,
    fun f s hgen offset len ecc data => ⟨bar2Read_of_down hgen, bar2Write_of_down hgen⟩,
    fun f offset k s => ⟨aperture_of_disabled, aperture_of_foreign, fun a => aperture_eq_some⟩,
    fun f tag i data s => ⟨fun q => hostReadCompletion_of_waiting, hostReadCompletion_of_unwanted⟩⟩
  case up =>
    have hfull : (s.modFn f fun v => { v with gen := gen }).boot.phase ≠ 3 := hphase
    rw [pcieLinkUp_of_fast hpower hon hfn h5 h7, minimalUp_of_full hfull]
  case clean =>
    rw [bar2Read_of_corrected hgen hap (by rw [hecc]; intro d m h; cases h), hecc]
    rfl
  case unmirrored =>
    have hsame : ((s.partWrite (s.fn f).a2Part a data).part (s.fn f).a2Part).shadow = none := by rw [part_partWrite, hshadow]
    rw [bar2Write_of_allowed hgen hap, mirrored_of_no_shadow hsame]

end Sys2Proof.Proofs.HostLinks
end

section
/-!
PROOFS. The host's registers, the mailbox poll, MSI-X, telemetry and service requests (15: R407–R424; 9: R251; 11: R305), and the settling of O40.
-/

namespace Sys2Proof.Proofs.HostRegisters
open Sys2Proof.Machine

/-! The registers of BAR0 (R407, R408, R421). -/

section Registers
variable {s : State} {f : FnId} {v : U32}

theorem onBar0_of_up (hup : s.boot.fnsUp = true) (g : HostFn → HostFn) : s.onBar0 f g = s.modFn f g := if_pos hup

theorem onBar0_of_down (hdown : s.boot.fnsUp = false) (g : HostFn → HostFn) : s.onBar0 f g = s :=
  if_neg (by rw [hdown]; exact Bool.false_ne_true)

theorem a2CtlWrite_of_up (hup : s.boot.fnsUp = true) : exec (.a2CtlWrite f v) s = .next (s.modFn f fun x => x.a2Ctl v) :=
  congrArg Host.Outcome.next (onBar0_of_up hup _)

theorem evTailWrite_of_up (hup : s.boot.fnsUp = true) : exec (.evTailWrite f v) s = .next (s.modFn f fun x => { x with evTail := v }) :=
  congrArg Host.Outcome.next (onBar0_of_up hup _)

theorem evCtlWrite_of_up (hup : s.boot.fnsUp = true) : exec (.evCtlWrite f v) s = .next (s.modFn f fun x => x.evCtl v) :=
  congrArg Host.Outcome.next (onBar0_of_up hup _)

theorem evCtl_of_rejected {x : HostFn} (hen : v.getLsbD 31 = true) (hoff : x.evEn = false)
    (h : (BitVec.ofNat 5 v.toNat).toNat < 6 ∨ 16 < (BitVec.ofNat 5 v.toNat).toNat) : x.evCtl v = x := by
  have hbad : (v.getLsbD 31 && !(decide (6 ≤ (BitVec.ofNat 5 v.toNat).toNat) && decide ((BitVec.ofNat 5 v.toNat).toNat ≤ 16))) = true := by
    rw [hen]
    rcases h with h | h <;> simp only [Nat.not_le.2 h, decide_false, Bool.false_and, Bool.and_false, Bool.not_false, Bool.and_self]
  rw [HostFn.evCtl, hoff]
  exact if_pos hbad

theorem evCtl_of_posting {x : HostFn} (hen : v.getLsbD 31 = true) (hoff : x.evEn = false) (h6 : 6 ≤ (BitVec.ofNat 5 v.toNat).toNat)
    (h16 : (BitVec.ofNat 5 v.toNat).toNat ≤ 16) : x.evCtl v = { x with
      evEn := true, evMsix := v.getLsbD 30, evLog2 := BitVec.ofNat 5 v.toNat, evHead := 0, evTail := 0, evLost := 0 } := by
  have hgood : ¬(v.getLsbD 31 && !(decide (6 ≤ (BitVec.ofNat 5 v.toNat).toNat) && decide ((BitVec.ofNat 5 v.toNat).toNat ≤ 16))) = true := by
    simp only [h6, h16, decide_true, Bool.and_self, Bool.not_true, Bool.and_false, Bool.false_eq_true, not_false_eq_true]
  simp only [HostFn.evCtl, hoff, Bool.false_eq_true, if_false]
  rw [if_neg hgood, hen]
  rfl

theorem registerWrite_of_up (hup : s.boot.fnsUp = true) (off : BitVec 22) : exec (.registerWrite f off v) s = .next (s.bar0Write f off.toNat v) :=
  congrArg Host.Outcome.next (if_pos hup)

theorem registerWrite_of_down (hdown : s.boot.fnsUp = false) (off : BitVec 22) : exec (.registerWrite f off v) s = .next s :=
  congrArg Host.Outcome.next (if_neg (by rw [hdown]; exact Bool.false_ne_true))

theorem bar0Write_a2Ctl : s.bar0Write f 0x108 v = s.modFn f fun x => x.a2Ctl v := rfl

theorem bar0Write_evCtl : s.bar0Write f 0x1008 v = s.modFn f fun x => x.evCtl v := rfl

theorem bar0Write_evTail : s.bar0Write f 0x1014 v = s.modFn f fun x => { x with evTail := v } := rfl

theorem bar0Write_of_misaligned {o : Nat} (h : o % 4 ≠ 0) : s.bar0Write f o v = s := if_pos h

theorem bar0Write_of_mailbox {o : Nat} {m : MboxId} (h : o % 4 = 0) (hlo : 0x10000 ≤ o) (hhi : o < 0x50000)
    (hm : m.val = (o - 0x10000) / 4096) : s.bar0Write f o v = s.modMbox f m fun x => x.write (o % 4096) v := by
  have hin : (decide (0x10000 ≤ o) && decide (o < 0x50000)) = true := by rw [decide_eq_true hlo, decide_eq_true hhi]; rfl
  have hm' : m = ⟨(o - 0x10000) / 4096 % 64, Nat.mod_lt _ (by decide)⟩ := by
    apply Fin.ext
    have hlt : (o - 0x10000) / 4096 < 64 := by omega
    exact hm.trans (Nat.mod_eq_of_lt hlt).symm
  subst hm'
  rw [State.bar0Write, if_neg (not_not_intro h), if_pos hin]

end Registers

/-! The poll of a mailbox, a held-back message and the telemetry block (R409, R418, R423, R424). -/

section Poll
variable {s : State} {f : FnId} {m : MboxId}

theorem mailboxPoll_of_up (h : s.pintleUp = true) : exec (.mailboxPoll f m) s = .next (s.poll f m) := congrArg Host.Outcome.next (if_pos h)

theorem mailboxPoll_of_down (h : s.pintleUp = false) : exec (.mailboxPoll f m) s = .next s :=
  congrArg Host.Outcome.next (if_neg (by rw [h]; exact Bool.false_ne_true))

theorem poll_of_nothing_queued (htimeouts : s.timeouts = s) (hqueued : s.nextQueued = none) :
    s.poll f m = if s.hasRequest f m then s.takeRequest f m else s := by
  rw [State.poll, htimeouts, hqueued]

theorem msixModerationExpiry_of_owed {t : Nat} (hlast : (s.fn f).lastMsix = some t) (howed : (s.fn f).msixOwed = true) {u : State}
    (hu : u = s.reach (t + (s.fn f).evMod.toNat * 1000 : Nat)) : exec (.msixModerationExpiry f) s =
      .next (u.modFn f fun x => if x.evHead = x.evTail then { x with msixOwed := false } else { x.signal u.now with msixOwed := false }) := by
  subst hu
  show execMsixModerationExpiry f s = _
  rw [execMsixModerationExpiry, hlast, howed]

theorem msixModerationExpiry_of_none (howed : (s.fn f).msixOwed = false) : exec (.msixModerationExpiry f) s = .next s := by
  show execMsixModerationExpiry f s = _
  rw [execMsixModerationExpiry, howed]

theorem telemetryRewrite_of_up (h : s.pintleUp = true) : exec .telemetryRewrite s =
    .next ((List.finRange 8).foldl (fun s f => s.modFn f fun v => { v with
      mirrorGen := v.mirrorGen + 2, mirrorCount := s.count, mirror := (s.telemetry f 0).flatten })
      { s with power := { s.power with sensors := s.sensorValues } }) := congrArg Host.Outcome.next (if_pos h)

end Poll

/-! Service requests (R251, R305). -/

section Service
variable {s : State} {port : PortId} {v6 : Bool} {addr : Bytes} {n : U16} {q : U32} {c : U16} {body : Bytes}

theorem serviceRequest_of_unbound (h : kget n.toNat s.bindings = none) : exec (.serviceRequest port v6 addr n q c body) s = .next s := by
  show execServiceRequest port v6 addr n q c body s = _
  rw [execServiceRequest, h]

variable {b : SvcBinding} (hb : kget n.toNat s.bindings = some b) (hport : b.port = port)
include hb hport

theorem serviceRequest_of_unlisted (h : b.isOpen = false ∨ kget c.toNat b.clients = none) : exec (.serviceRequest port v6 addr n q c body) s =
    .next (s.svcRefuse n.toNat 1 b (sessionWord n.toNat c.toNat q.toNat)) := by
  have hnone : (if b.isOpen then kget c.toNat b.clients else none) = none := by
    rcases h with h | h
    · rw [h]; rfl
    · rw [h, ite_self]
  show execServiceRequest port v6 addr n q c body s = _
  rw [execServiceRequest, hb]
  simp only [hport, ne_eq, not_true_eq_false, if_false, hnone]

variable {k : Client} (hopen : b.isOpen = true) (hk : kget c.toNat b.clients = some k)
include hopen hk

theorem serviceRequest_of_listed : exec (.serviceRequest port v6 addr n q c body) s =
    .next (if k.ipv6 ≠ v6 || k.addr ≠ addr then s.svcRefuse n.toNat 1 b (sessionWord n.toNat c.toNat q.toNat)
      else if k.rate.toNat ≤ (if k.second = s.now / 1000000000 then k.made else 0) then s.svcRefuse n.toNat 2 b (sessionWord n.toNat c.toNat q.toNat)
      else if 8192 < body.length then s.svcRefuse n.toNat 4 b (sessionWord n.toNat c.toNat q.toNat)
      else (s.modBinding n.toNat fun b => { b with
        clients := kput c.toNat { k with second := s.now / 1000000000, made := (if k.second = s.now / 1000000000 then k.made else 0) + 1 } b.clients }).svcTake
          n.toNat b (sessionWord n.toNat c.toNat q.toNat) body) := by
  show execServiceRequest port v6 addr n q c body s = _
  rw [execServiceRequest, hb]
  simp only [hport, ne_eq, not_true_eq_false, if_false, hopen, if_true, hk]

theorem serviceRequest_of_other_address (h : k.ipv6 ≠ v6 ∨ k.addr ≠ addr) : exec (.serviceRequest port v6 addr n q c body) s =
    .next (s.svcRefuse n.toNat 1 b (sessionWord n.toNat c.toNat q.toNat)) := by
  rw [serviceRequest_of_listed hb hport hopen hk, if_pos (by simpa using h)]

variable (hv6 : k.ipv6 = v6) (haddr : k.addr = addr) (hsecond : k.second = s.now / 1000000000)
include hv6 haddr hsecond

theorem serviceRequest_of_rate (h : k.rate.toNat ≤ k.made) : exec (.serviceRequest port v6 addr n q c body) s =
    .next (s.svcRefuse n.toNat 2 b (sessionWord n.toNat c.toNat q.toNat)) := by
  rw [serviceRequest_of_listed hb hport hopen hk, if_neg (by simp [hv6, haddr]), if_pos hsecond, if_pos h]

variable (hrate : k.made < k.rate.toNat)
include hrate

theorem serviceRequest_of_long (h : 8192 < body.length) : exec (.serviceRequest port v6 addr n q c body) s =
    .next (s.svcRefuse n.toNat 4 b (sessionWord n.toNat c.toNat q.toNat)) := by
  rw [serviceRequest_of_listed hb hport hopen hk, if_neg (by simp [hv6, haddr]), if_pos hsecond, if_neg (Nat.not_le.2 hrate), if_pos h]

theorem serviceRequest_of_taken (h : body.length ≤ 8192) : exec (.serviceRequest port v6 addr n q c body) s =
    .next ((s.modBinding n.toNat fun b => { b with
      clients := kput c.toNat { k with second := s.now / 1000000000, made := k.made + 1 } b.clients }).svcTake n.toNat b
        (sessionWord n.toNat c.toNat q.toNat) body) := by
  rw [serviceRequest_of_listed hb hport hopen hk, if_neg (by simp [hv6, haddr]), if_pos hsecond, if_neg (Nat.not_le.2 hrate),
    if_neg (Nat.not_lt.2 h)]

end Service

/-- Settles O40 (R251, R305, R407–R424): the registers, the poll, the message and telemetry events, and a service request by its client. -/
theorem hostRegistersMailboxesAndServiceRequests : Obligations.HostRegistersMailboxesAndServiceRequests := by
  refine ⟨fun f v s hup => ⟨a2CtlWrite_of_up hup, evTailWrite_of_up hup, congrArg _ (onBar0_of_up hup _)⟩,
    fun f v s hup hen hoff => ⟨fun h6 h16 => ⟨_, evCtlWrite_of_up hup, ?posting⟩,
      fun h => ⟨_, evCtlWrite_of_up hup, by rw [State.fn_modFn, evCtl_of_rejected hen hoff h]⟩⟩,
    fun f v off s hdown => ⟨congrArg _ (onBar0_of_down hdown _), congrArg _ (onBar0_of_down hdown _), congrArg _ (onBar0_of_down hdown _),
      congrArg _ (onBar0_of_down hdown _), registerWrite_of_down hdown off⟩,
    fun f v s hup => ⟨fun off h => ?misaligned, fun off h hlo hhi => ⟨⟨(off.toNat - 0x10000) / 4096, by omega⟩, rfl, ?mailbox⟩, ?registers⟩,
    fun f m s => ⟨mailboxPoll_of_up, mailboxPoll_of_down, fun htimeouts hqueued => ⟨fun h => ?no_request, fun h => ?request⟩⟩,
    fun f t s hlast => ⟨fun howed => ⟨_, rfl, msixModerationExpiry_of_owed hlast howed rfl⟩, msixModerationExpiry_of_none⟩,
    fun s h => ⟨_, rfl, telemetryRewrite_of_up h⟩,
    fun port v6 addr n q c body s => ⟨serviceRequest_of_unbound, fun b hb hport => ⟨serviceRequest_of_unlisted hb hport, fun k hopen hk =>
      ⟨serviceRequest_of_other_address hb hport hopen hk, serviceRequest_of_rate hb hport hopen hk, fun hv6 haddr hsecond hrate =>
        ⟨serviceRequest_of_long hb hport hopen hk hv6 haddr hsecond hrate, serviceRequest_of_taken hb hport hopen hk hv6 haddr hsecond hrate⟩⟩⟩⟩⟩
  case posting =>
    rw [State.fn_modFn, evCtl_of_posting hen hoff h6 h16]
    exact ⟨rfl, rfl, rfl, rfl, rfl, rfl⟩
  case misaligned => rw [registerWrite_of_up hup, bar0Write_of_misaligned h]
  case mailbox => exact (registerWrite_of_up hup off).trans (congrArg Host.Outcome.next (bar0Write_of_mailbox h hlo hhi rfl))
  case registers =>
    refine ⟨?_, ?_, ?_, registerWrite_of_up hup _⟩
    · rw [registerWrite_of_up hup, a2CtlWrite_of_up hup]
      exact congrArg Host.Outcome.next bar0Write_a2Ctl
    · rw [registerWrite_of_up hup, evCtlWrite_of_up hup]
      exact congrArg Host.Outcome.next bar0Write_evCtl
    · rw [registerWrite_of_up hup, evTailWrite_of_up hup]
      exact congrArg Host.Outcome.next bar0Write_evTail
  case no_request => rw [poll_of_nothing_queued htimeouts hqueued, if_neg (by rw [h]; exact Bool.false_ne_true)]
  case request => rw [poll_of_nothing_queued htimeouts hqueued, if_pos h]

end Sys2Proof.Proofs.HostRegisters
end

section
/-!
PROOFS. The 54 V input, the sensors and the coolant (17: R445–R457; 19: R481), and the settling of O41.
-/

namespace Sys2Proof.Proofs.PowerInput
open Sys2Proof.Machine

/-! The input and the converters (R445, R481). -/

section Input
variable {s : State} {mv : U32} {both : Bool}

theorem inRangeMv_of {n : Nat} (hlo : 48000 ≤ n) (hhi : n ≤ 59500) : inRangeMv n = true := by simp [inRangeMv, hlo, hhi]

theorem inRangeMv_of_off {n : Nat} (h : n < 48000 ∨ 59500 < n) : inRangeMv n = false := by
  rcases h with h | h <;> simp [inRangeMv, h]

variable (hon : s.power.converters = true)
include hon

theorem inputSampled_of_range {n : Nat} (hrange : inRangeMv n = true) (hquiet : s.power.bandSince = none) :
    s.inputSampled n both = { s with power := { s.power with inputMv := n, bothBlades := both } } := by
  simp only [State.inputSampled, hon, Bool.not_true, Bool.false_eq_true, if_false, hrange, if_true, hquiet]

theorem inputSampled_of_return {n t : Nat} (hrange : inRangeMv n = true) (hband : s.power.bandSince = some t) :
    s.inputSampled n both = ({ s with power := { s.power with inputMv := n, bothBlades := both, bandSince := none } } : State).postAdmin 7 6
      (leBytes 4 s.power.inputMv ++ leBytes 4 ((s.now - t) / 1000)) := by
  simp only [State.inputSampled, hon, Bool.not_true, Bool.false_eq_true, if_false, hrange, if_true, hband]

theorem inputSampled_of_band {n : Nat} (hrange : inRangeMv n = false) (hband : inBandMv n = true) :
    s.inputSampled n both = { s with power := { s.power with
    inputMv := n, bothBlades := both, bandSince := some (s.power.bandSince.getD s.now) } } := by
  simp only [State.inputSampled, hon, Bool.not_true, Bool.false_eq_true, if_false, hrange, hband, if_true]

theorem inputSampled_of_outside {n : Nat} (hrange : inRangeMv n = false) (hband : inBandMv n = false) :
    s.inputSampled n both = ({ s with power := { s.power with inputMv := n, bothBlades := both } } : State).shutDown := by
  simp only [State.inputSampled, hon, Bool.not_true, Bool.false_eq_true, if_false, hrange, hband]

end Input

section Converters
variable {s : State}

theorem inputTransientExpiry_of_band {t : Nat} (h : s.power.bandSince = some t) :
    exec .inputTransientExpiry s = .next (s.reach (t + 10000001 : Nat)).shutDown := by
  show execInputTransientExpiry s = _
  rw [execInputTransientExpiry, h]

theorem inputTransientExpiry_of_quiet (h : s.power.bandSince = none) : exec .inputTransientExpiry s = .next s := by
  show execInputTransientExpiry s = _
  rw [execInputTransientExpiry, h]

theorem converterStart_of_ready (hoff : s.power.converters = false) (hboth : s.power.bothBlades = true) (hrange : inRangeMv s.power.inputMv = true) :
    exec .converterStart s = .next { s with
      adminFn := s.adminNext, bifur := s.bifurNext
      power := { s.power with converters := true }
      boot := { s.boot with powerOns := s.boot.powerOns + 1 } } := congrArg Host.Outcome.next (if_pos (by rw [hoff, hboth, hrange]; rfl))

theorem converterStart_of_on (h : s.power.converters = true) : exec .converterStart s = .next s :=
  congrArg Host.Outcome.next (if_neg (by simp [h]))

theorem converterStart_of_one_blade (h : s.power.bothBlades = false) : exec .converterStart s = .next s :=
  congrArg Host.Outcome.next (if_neg (by simp [h]))

theorem shutDown_powers_off (s : State) : s.shutDown.power.converters = false ∧ s.shutDown.boot.phase = 0 ∧ s.shutDown.resets = 0 := by
  unfold State.shutDown
  split <;> exact ⟨rfl, rfl, rfl⟩

end Converters

/-! Junction samples (R455, R456). -/

section Thermal
variable {s : State} {x : Sensor} {c : U32}

/-- The sample kept as the sensor's last. -/
abbrev kept (s : State) (x : Sensor) (c10 : Int) : State := { s with power := { s.power with temps := kput (sensorAddr x) c10 s.power.temps } }

theorem sampled_of_cool {c10 : Int} (h : c10 ≤ 1050) : s.sampled x c10 = kept s x c10 :=
  (if_neg (by omega)).trans (if_neg (by omega))

theorem sampled_of_hot {c10 : Int} (hlo : 1050 < c10) (hhi : c10 < 1150) : s.sampled x c10 = (kept s x c10).hotSample x c10 :=
  (if_neg (by omega)).trans (if_pos hlo)

theorem sampled_of_die_trip {hd : HdId} {i : Fin 16} {c10 : Int} (h : 1150 ≤ c10) :
    s.sampled (.halfDie hd i) c10 = (kept s (.halfDie hd i) c10).dieTrip (.halfDie hd i) c10 := if_pos h

theorem sampled_of_package_trip {e : Bool} {i : Fin 4} {c10 : Int} (h : 1150 ≤ c10) :
    s.sampled (.ioDie e i) c10 = (kept s (.ioDie e i) c10).packageTrip (.ioDie e i) c10 := if_pos h

theorem power_logFault (s : State) (r : FaultRec) : (s.logFault r).power = s.power := by
  obtain ⟨fns, h⟩ := FaultHandling.logFault_eq s r
  rw [h]

theorem thermTrip_dieTrip (s : State) (x : Sensor) (c10 : Int) : (s.dieTrip x c10).power.thermTrip = true := by
  simp only [State.dieTrip, power_logFault]

variable (hfitted : ∀ hd i, x = .halfDie hd i → hd.val < s.member.halfDies)
include hfitted

theorem thermalSample_of_fitted : exec (.thermalSample x c) s = .next (if s.sensorLive x then s.sampled x c.toInt else s) := by
  cases x with
  | halfDie hd i => exact if_pos (decide_eq_true (hfitted hd i rfl))
  | ioDie e i => rfl

theorem thermalSample_of_live (hlive : s.sensorLive x = true) : exec (.thermalSample x c) s = .next (s.sampled x c.toInt) := by
  rw [thermalSample_of_fitted hfitted, if_pos hlive]

theorem thermalSample_of_dead (hdead : s.sensorLive x = false) : exec (.thermalSample x c) s = .next s := by
  rw [thermalSample_of_fitted hfitted, if_neg (by rw [hdead]; exact Bool.false_ne_true)]

end Thermal

/-! The coolant (R457). -/

section Coolant
variable {s : State} {flow inlet outlet : U16}

theorem coolantCheck_of_powered (hon : s.power.converters = true) (hpackage : s.power.packageOff = false) :
    exec (.coolantCheck flow inlet outlet) s = .next (s.coolantTaken flow inlet outlet) :=
  congrArg Host.Outcome.next (if_pos (by rw [hon, hpackage]; rfl))

theorem coolantTaken_of_good (hflow : 1200 ≤ flow.toNat) (hinlet : inlet.toInt ≤ 350) : s.coolantTaken flow inlet outlet =
    { s with power := { s.power with flow := flow, inlet := inlet, outlet := outlet, coolSince := none, coolPosted := false } } := by
  have hgood : (decide (flow.toNat < 1200) || decide (350 < inlet.toInt)) = false := by simp [hflow, hinlet]
  simp only [State.coolantTaken, hgood, Bool.false_and, Bool.false_eq_true, if_false]

variable {t : Nat} (hpoor : flow.toNat < 1200 ∨ 350 < inlet.toInt) (hsince : s.power.coolSince = some t) (hposted : s.power.coolPosted = false)
include hpoor hsince hposted

theorem coolantTaken_of_poor : s.coolantTaken flow inlet outlet =
    let due := decide (t + 1000000000 ≤ s.now)
    let u : State := { s with power := { s.power with flow := flow, inlet := inlet, outlet := outlet, coolSince := some t, coolPosted := due } }
    if due then u.postAdmin 7 5 (leBytes 2 flow.toNat ++ leBytes 2 inlet.toNat ++ leBytes 2 outlet.toNat) else u := by
  have hbad : (decide (flow.toNat < 1200) || decide (350 < inlet.toInt)) = true := by simpa using hpoor
  simp only [State.coolantTaken, hbad, hsince, hposted, Option.getD_some, if_true, Bool.true_and, Bool.not_false, Bool.false_or]

end Coolant

/-- Settles O41 (R445–R457, R481): the input by its bands, the converters, the sensors by their limits, and the coolant by its time. -/
theorem inputConvertersThermalAndCoolant : Obligations.InputConvertersThermalAndCoolant := by
  refine ⟨fun mv both s hon => ⟨fun hlo hhi hquiet => congrArg _ (inputSampled_of_range hon (inRangeMv_of hlo hhi) hquiet),
      fun t hlo hhi hband => ⟨_, rfl, congrArg _ (inputSampled_of_return hon (inRangeMv_of hlo hhi) hband)⟩, fun h => ?band,
        fun h => ⟨_, rfl, ?outside⟩⟩,
    fun s => ⟨fun t => inputTransientExpiry_of_band, inputTransientExpiry_of_quiet,
      fun hoff hboth hlo hhi => converterStart_of_ready hoff hboth (inRangeMv_of hlo hhi), converterStart_of_on, converterStart_of_one_blade,
      shutDown_powers_off s⟩,
    fun x c s hfitted => ⟨_, rfl, fun hlive hcool => ?cool, fun hlive hlo hhi => ?hot,
      fun hlive htrip => ⟨fun hd i hx => ?die, fun e i hx => ?package⟩,
      thermalSample_of_dead hfitted, thermTrip_dieTrip _ _ _, rfl, rfl⟩,
    fun flow inlet outlet s hon hpackage => ⟨fun hflow hinlet => ?good,
      fun t hpoor hsince hposted => ⟨fun hearly => ?early, fun hdue => ⟨_, rfl, ?due⟩⟩⟩,
    fun hd s hfitted => if_pos hfitted⟩
  case band =>
    have hrange : inRangeMv mv.toNat = false := inRangeMv_of_off (by omega)
    have hband : inBandMv mv.toNat = true := by simp [inBandMv]; omega
    exact congrArg _ (inputSampled_of_band hon hrange hband)
  case outside =>
    have hrange : inRangeMv mv.toNat = false := inRangeMv_of_off (by omega)
    have hband : inBandMv mv.toNat = false := by simp [inBandMv]; omega
    exact congrArg _ (inputSampled_of_outside hon hrange hband)
  case cool => rw [thermalSample_of_live hfitted hlive, sampled_of_cool hcool]
  case hot => rw [thermalSample_of_live hfitted hlive, sampled_of_hot hlo hhi]
  case die =>
    subst hx
    rw [thermalSample_of_live hfitted hlive, sampled_of_die_trip htrip]
  case package =>
    subst hx
    rw [thermalSample_of_live hfitted hlive, sampled_of_package_trip htrip]
  case good => rw [coolantCheck_of_powered hon hpackage, coolantTaken_of_good hflow hinlet]
  case early =>
    rw [coolantCheck_of_powered hon hpackage, coolantTaken_of_poor hpoor hsince hposted, decide_eq_false (Nat.not_le.2 hearly)]
    rfl
  case due =>
    rw [coolantCheck_of_powered hon hpackage, coolantTaken_of_poor hpoor hsince hposted, decide_eq_true hdue]
    rfl

end Sys2Proof.Proofs.PowerInput
end

section
/-!
PROOFS. Droop, margin, the cap window and its headroom (17: R449–R459), and the settling of O42.
-/

namespace Sys2Proof.Proofs.PowerCap
open Sys2Proof.Machine

/-! An event of a powered tile (R449, R451). -/

section Powered
variable {s : State} {t : TileId} (htile : s.hasTile t = true)
include htile

theorem onPowered_of_on (hon : s.diesOn = true) (f : State → State) : s.onPowered t f = .next (f s) := by
  rw [Frames.onPowered_of_hasTile htile, if_pos hon]

theorem onPowered_of_off (hoff : s.diesOn = false) (f : State → State) : s.onPowered t f = .next s := by
  rw [Frames.onPowered_of_hasTile htile, if_neg (by rw [hoff]; exact Bool.false_ne_true)]

/-- With the dies off, none of the events of a tile's supply changes anything. -/
theorem supply_events_of_off (hoff : s.diesOn = false) (mv vnom : U16) (ps : U32) :
    exec (.droopLevel1 t mv) s = .next s ∧ exec (.droopLevel2 t mv vnom) s = .next s ∧ exec (.droopStretchEnd t) s = .next s ∧
    exec (.marginMeasure t ps) s = .next s := by
  show execDroopLevel1 t mv s = _ ∧ execDroopLevel2 t mv vnom s = _ ∧ execDroopStretchEnd t s = _ ∧ execMarginMeasure t ps s = _
  simp only [execDroopLevel1, execDroopLevel2, execDroopStretchEnd, execMarginMeasure, onPowered_of_off htile hoff, and_self]

variable (hon : s.diesOn = true)
include hon

theorem droopLevel1_of_on (mv : U16) : exec (.droopLevel1 t mv) s =
    .next (s.modTile t fun v => { v with droop := { v.droop with stretching := true, lowest := v.droop.low mv } }) := by
  show execDroopLevel1 t mv s = _
  rw [execDroopLevel1, onPowered_of_on htile hon]

theorem droopLevel2_of_on (mv vnom : U16) : exec (.droopLevel2 t mv vnom) s = .next (
    if 100 * mv.toNat < 91 * vnom.toNat then s.droopLimit t mv vnom (s.droopEdges t)
    else if (s.tile t).droop.stretching then s.droopLimit t mv vnom 64 else s) := by
  show execDroopLevel2 t mv vnom s = _
  rw [execDroopLevel2, onPowered_of_on htile hon]

theorem droopLevel2_of_low {mv vnom : U16} (h : 100 * mv.toNat < 91 * vnom.toNat) :
    exec (.droopLevel2 t mv vnom) s = .next (s.droopLimit t mv vnom (s.droopEdges t)) := by
  rw [droopLevel2_of_on htile hon, if_pos h]

theorem droopLevel2_of_edges {mv vnom : U16} (h : 91 * vnom.toNat ≤ 100 * mv.toNat) (hstretch : (s.tile t).droop.stretching = true) :
    exec (.droopLevel2 t mv vnom) s = .next (s.droopLimit t mv vnom 64) := by
  rw [droopLevel2_of_on htile hon, if_neg (Nat.not_lt.2 h), if_pos hstretch]

theorem droopLevel2_of_none {mv vnom : U16} (h : 91 * vnom.toNat ≤ 100 * mv.toNat) (hstretch : (s.tile t).droop.stretching = false) :
    exec (.droopLevel2 t mv vnom) s = .next s := by
  rw [droopLevel2_of_on htile hon, if_neg (Nat.not_lt.2 h), if_neg (by rw [hstretch]; exact Bool.false_ne_true)]

theorem droopStretchEnd_of_on : exec (.droopStretchEnd t) s = .next (if (s.tile t).droop.stretching then
    ({ s with draws := s.draws + 1 } : State).modTile t fun v => { v with droop := { v.droop with stretching := false, edges := s.droopEdges t } }
    else s) := by
  show execDroopStretchEnd t s = _
  rw [execDroopStretchEnd, onPowered_of_on htile hon]

theorem marginMeasure_of_on (ps : U32) : exec (.marginMeasure t ps) s = .next (s.marginTaken t ps.toInt) := by
  show execMarginMeasure t ps s = _
  rw [execMarginMeasure, onPowered_of_on htile hon]

end Powered

/-! The margin monitor (R451). -/

section Margin
variable {s : State} {t : TileId} {ps : Int}

theorem marginTaken_of_good (h : 20 ≤ ps) : s.marginTaken t ps = s.modTile t fun v => { v with droop := { v.droop with lowReadings := 0 } } := by
  have hlow : ¬ps < 20 := Int.not_lt.2 h
  simp only [State.marginTaken, if_neg hlow]
  exact if_neg (by simp)

theorem marginTaken_of_counted (h : ps < 20) (hfew : (s.tile t).droop.lowReadings < 9) :
    s.marginTaken t ps = s.modTile t fun v => { v with droop := { v.droop with lowReadings := (s.tile t).droop.lowReadings + 1 } } := by
  have hcount : min 10 ((s.tile t).droop.lowReadings + 1) = (s.tile t).droop.lowReadings + 1 := by omega
  have hnot10 : decide ((s.tile t).droop.lowReadings + 1 = 10) = false := by simp; omega
  simp only [State.marginTaken, if_pos h, hcount, hnot10, Bool.false_and, Bool.false_eq_true, if_false]

theorem tenth_reading (hten : 9 ≤ (s.tile t).droop.lowReadings) : min 10 ((s.tile t).droop.lowReadings + 1) = 10 := by omega

variable (h : ps < 20) (hten : 9 ≤ (s.tile t).droop.lowReadings)
include h hten

theorem marginTaken_of_first (hnone : (s.tile t).droop.lastEvent = none) : s.marginTaken t ps =
    ((s.modTile t fun v => { v with droop := { v.droop with lowReadings := 10 } }).modTile t fun v =>
      { v with droop := { v.droop with lastEvent := some s.now } }).postPower (s.partOf t) 3
      (leBytes 1 (s.member.hdOf t) ++ leBytes 1 (colOf t) ++ leBytes 2 (rowOf t) ++ leBytes 4 (unsignedOf 32 ps) ++
        leBytes 2 (s.clockMhz (s.member.hdOf t))) := by
  simp only [State.marginTaken, if_pos h, tenth_reading hten, hnone, decide_true, Bool.and_self, if_true]

theorem marginTaken_of_rest {at_ : Nat} (hlast : (s.tile t).droop.lastEvent = some at_) (hrest : s.now < at_ + 3600000000000) :
    s.marginTaken t ps = s.modTile t fun v => { v with droop := { v.droop with lowReadings := 10 } } := by
  have hnot : decide (at_ + 3600000000000 ≤ s.now) = false := decide_eq_false (Nat.not_le.2 hrest)
  simp only [State.marginTaken, if_pos h, tenth_reading hten, hlast, hnot, Bool.and_false, Bool.false_eq_true, if_false]

end Margin

/-! The cap window's duty (R453) and the headroom (R459). -/

section Cap
variable {s : State} {p : PartId}

theorem capWindow_of_on (hon : s.diesOn = true) (watts : List Nat) (input : Nat) :
    exec (.capWindow watts input) s = .next (s.capWindow watts input) :=
  congrArg Host.Outcome.next (if_pos hon)

theorem capWindow_of_off (hoff : s.diesOn = false) (watts : List Nat) (input : Nat) : exec (.capWindow watts input) s = .next s :=
  congrArg Host.Outcome.next (if_neg (by rw [hoff]; exact Bool.false_ne_true))

theorem capPart_of_absent (h : (s.part p).present = false) (input : Nat) (watts : List Nat) : State.capPart input watts s p = s :=
  if_pos (by rw [h]; rfl)

theorem nextDuty_le_most (d w cap : Nat) : nextDuty d w cap ≤ dutyMost := Nat.min_le_left _ _

theorem le_nextDuty {d w cap : Nat} (hcap : 0 < cap) (hover : cap ≤ w) (hd : d ≤ dutyMost) : d ≤ nextDuty d w cap := by
  have hstep : 0 ≤ ((w : Int) - cap) * 2 ^ 31 / (cap : Int) :=
    Int.ediv_nonneg (Int.mul_nonneg (by omega) (by decide)) (by omega)
  exact Nat.le_min.2 ⟨hd, by omega⟩

theorem headroomExhausted_of_spent (h : s.headroomSpent p = true) : exec (.headroomExhausted p) s = .next (s.headroomOut p) :=
  congrArg Host.Outcome.next (if_pos h)

theorem headroomExhausted_of_left (h : s.headroomSpent p = false) : exec (.headroomExhausted p) s = .next s :=
  congrArg Host.Outcome.next (if_neg (by rw [h]; exact Bool.false_ne_true))

theorem headroomOut_of_recent {at_ : Nat} (hlast : (s.part p).headroomAt = some at_) (hrecent : s.now < at_ + 100000000) :
    s.headroomOut p = s.modPart p fun q => { q with dutyHeld := true, headroomHit := true, headroomAt := q.headroomAt } := by
  have hnot : decide (at_ + 100000000 ≤ s.now) = false := decide_eq_false (Nat.not_le.2 hrecent)
  simp only [State.headroomOut, hlast, hnot, Bool.false_eq_true, if_false]

end Cap

/-- Settles O42 (R449–R459): the droop and margin events by their limits, and the duty and headroom of the cap. -/
theorem droopMarginCapAndHeadroom : Obligations.DroopMarginCapAndHeadroom := by
  refine ⟨fun t s htile hon => ⟨droopLevel1_of_on htile hon, fun mv vnom => droopLevel2_of_low htile hon,
      fun mv vnom h => ⟨droopLevel2_of_edges htile hon h, droopLevel2_of_none htile hon h⟩,
      fun hstretch => ⟨_, rfl, ?stretch_end⟩, fun hstretch => ?no_stretch,
      fun ps h => ?good, fun ps h hfew => ?counted, fun ps h hten => ⟨_, rfl, fun hnone => ?first, fun at_ hlast hrest => ?rest⟩⟩,
    fun t s htile hoff => supply_events_of_off htile hoff,
    fun watts input s => ⟨fun hon => capWindow_of_on hon watts input, fun hoff => capWindow_of_off hoff watts input⟩,
    fun input watts s p h => capPart_of_absent h input watts, fun d w cap => ?most, fun d w cap => le_nextDuty,
    fun p s => ⟨headroomExhausted_of_spent, headroomExhausted_of_left, fun at_ => headroomOut_of_recent⟩⟩
  case stretch_end => rw [droopStretchEnd_of_on htile hon, if_pos hstretch]
  case no_stretch => rw [droopStretchEnd_of_on htile hon, if_neg (by rw [hstretch]; exact Bool.false_ne_true)]
  case good => rw [marginMeasure_of_on htile hon, marginTaken_of_good h]
  case counted => rw [marginMeasure_of_on htile hon, marginTaken_of_counted h hfew]
  case first => rw [marginMeasure_of_on htile hon, marginTaken_of_first h hten hnone]
  case rest => rw [marginMeasure_of_on htile hon, marginTaken_of_rest h hten hlast hrest]
  case most =>
    have hmost := nextDuty_le_most d w cap
    unfold dutyMost at hmost
    omega

end Sys2Proof.Proofs.PowerCap
end

section
/-!
PROOFS. The debug unlock, the attestation engine and the cables (18: R470–R472; 19: R489), and the settling of O44.
-/

namespace Sys2Proof.Proofs.Security
open Sys2Proof.Machine

/-! The debug unlock (R471). -/

section Unlock
variable {s : State} {token : Bytes}

theorem debugUnlock_of_locked (hon : s.power.converters = true) (hpackage : s.power.packageOff = false) (hlocked : s.sec.debug = false) :
    exec (.debugUnlock token) s = .next (if Config.tokenOk token s.nonce s.sec.revoked.toNat then s.unlock
      else { s with sec := { s.sec with nonces := s.sec.nonces + 1 } }) :=
  congrArg Host.Outcome.next (if_neg (by rw [hon, hpackage, hlocked]; decide))

theorem debugUnlock_of_unlocked (h : s.sec.debug = true) : exec (.debugUnlock token) s = .next s :=
  congrArg Host.Outcome.next (if_pos (by rw [h, Bool.or_true]))

end Unlock

/-! The attestation engine (R470, R472). -/

section Engine
variable {s : State} {c : Sys2Proof.Machine.Security} {a : Attest}

theorem attestationSignDone_of_current (h : s.sec.current = some a) :
    exec .attestationSignDone s = .next { s.signed a with sec := (s.signed a).sec.advance } := by
  show execAttestationSignDone s = _
  rw [execAttestationSignDone, h]

theorem attestationSignDone_of_idle (h : s.sec.current = none) : exec .attestationSignDone s = .next s := by
  show execAttestationSignDone s = _
  rw [execAttestationSignDone, h]

theorem advance_of_next (h : c.nextSignature = some a) : c.advance.current = some a ∧ c.advance.queue = c.queue.erase a := by
  rw [Security.advance, h]
  exact ⟨rfl, rfl⟩

/-- The engine takes the first waiting host when a link's turn may not come, and otherwise the first waiting link. -/
theorem nextSignature_eq : c.nextSignature =
    if (c.queue.find? fun x => x.link.isSome).isNone || 16 ≤ c.ahead && (c.queue.find? fun x => x.link.isNone).isSome then
      c.queue.find? fun x => x.link.isNone
    else c.queue.find? fun x => x.link.isSome := by
  rw [Security.nextSignature, ← List.head?_filter, ← List.head?_filter]
  cases c.queue.filter fun x => x.link.isNone with
  | nil => cases c.queue.filter fun x => x.link.isSome <;> simp
  | cons h hs =>
    cases c.queue.filter fun x => x.link.isSome with
    | nil => rfl
    | cons l ls => simp [apply_ite some]

theorem nextSignature_of_owed (h : c.nextSignature = some a) (hahead : 16 ≤ c.ahead) (hhost : ∃ x ∈ c.queue, x.link = none) : a.link = none := by
  have hfound : (c.queue.find? fun x => x.link.isNone).isSome = true := by simpa [List.find?_isSome] using hhost
  rw [nextSignature_eq, if_pos (by simp [hahead, hfound])] at h
  simpa using List.find?_some h

theorem nextSignature_of_allowed (h : c.nextSignature = some a) (hahead : c.ahead < 16) (hlink : ∃ x ∈ c.queue, x.link ≠ none) : a.link ≠ none := by
  have hfound : (c.queue.find? fun x => x.link.isSome).isNone = false := by
    simpa [Option.isNone_eq_false_iff, List.find?_isSome, Option.isSome_iff_ne_none] using hlink
  rw [nextSignature_eq, if_neg (by simp [Nat.not_le.2 hahead, hfound])] at h
  simpa [Option.isSome_iff_ne_none] using List.find?_some h

end Engine

/-! Cables (R489). -/

section Cables
variable {s : State} {port : PortId}

theorem cblPrsntChange_of_same {b : Bool} (h : (s.port port).cable = b) : exec (.cblPrsntChange port b) s = .next s :=
  congrArg Host.Outcome.next (if_pos h)

theorem cblPrsntChange_of_fitted (h : (s.port port).cable = false) : exec (.cblPrsntChange port true) s = .next (s.modPort port fun q => { q with
    cable := true, fullTrained := false, lanes := q.lanes.map fun l => if l.state = .fenced then l else {} }) :=
  congrArg Host.Outcome.next (if_neg (by rw [h]; exact Bool.false_ne_true))

theorem cblPrsntChange_of_pulled (h : (s.port port).cable = true) :
    exec (.cblPrsntChange port false) s = .next ((s.lanesLost port).modPort port fun q => { q with
      cable := false, fullTrained := false, lanes := q.lanes.map fun l => if l.state = .fenced then l else {} }) :=
  congrArg Host.Outcome.next (if_neg (by rw [h]; decide))

theorem cblSupplyOvercurrent_of_on (h : (s.port port).supplyOn = true) : exec (.cblSupplyOvercurrent port) s =
    .next ((s.modPort port fun q => { q with supplyTripped := true }).lanesLost port) := congrArg Host.Outcome.next (if_pos h)

theorem cblSupplyOvercurrent_of_off (h : (s.port port).supplyOn = false) : exec (.cblSupplyOvercurrent port) s = .next s :=
  congrArg Host.Outcome.next (if_neg (by rw [h]; exact Bool.false_ne_true))

end Cables

/-- Settles O44 (R470–R472, R489): the unlock by its token, the engine by its queue, and the cables by their presence and supply. -/
theorem unlockAttestationAndCables : Obligations.UnlockAttestationAndCables := by
  refine ⟨fun token s => ⟨fun hon hpackage hlocked => ⟨fun hok => ?valid, fun hbad => ?invalid⟩, debugUnlock_of_unlocked⟩, fun s => rfl,
    fun s => ⟨fun a h => ⟨_, rfl, attestationSignDone_of_current h⟩, attestationSignDone_of_idle⟩,
    fun c a h => ⟨(advance_of_next h).1, (advance_of_next h).2, nextSignature_of_owed h, nextSignature_of_allowed h⟩,
    fun port s => ⟨fun b => cblPrsntChange_of_same, cblPrsntChange_of_fitted, cblPrsntChange_of_pulled, cblSupplyOvercurrent_of_on,
      cblSupplyOvercurrent_of_off⟩⟩
  case valid => rw [debugUnlock_of_locked hon hpackage hlocked, if_pos hok]
  case invalid => rw [debugUnlock_of_locked hon hpackage hlocked, if_neg (by rw [hbad]; exact Bool.false_ne_true)]

end Sys2Proof.Proofs.Security
end

section
/-!
PROOFS. The sideband: MCTP, SPDM, I3C and PLDM (18: R468–R476), and the settling of O45.
-/

namespace Sys2Proof.Proofs.Sideband
open Sys2Proof.Machine

section Transports
variable {s : State} {tr : Transport}

theorem onTransport_of_answering (h : s.answersOn tr = true) (f : State → State) : s.onTransport tr f = .next (f s) :=
  congrArg Host.Outcome.next (if_pos h)

theorem onTransport_of_silent (h : s.answersOn tr = false) (f : State → State) : s.onTransport tr f = .next s :=
  congrArg Host.Outcome.next (if_neg (by rw [h]; exact Bool.false_ne_true))

theorem sideband_of_silent (h : s.answersOn tr = false) (msg : Bytes) (sensor : U16) (handle : U32) :
    exec (.mctpControl tr msg) s = .next s ∧ exec (.pldmType0 tr msg) s = .next s ∧ exec (.getPdr tr handle) s = .next s ∧
    exec (.getSensorReading tr sensor) s = .next s ∧ exec (.getStateSensorReadings tr sensor) s = .next s ∧ exec (.spdmMctp tr msg) s = .next s := by
  show execMctpControl tr msg s = _ ∧ execPldmType0 tr msg s = _ ∧ execGetPdr tr handle s = _ ∧ execGetSensorReading tr sensor s = _ ∧
    execGetStateSensorReadings tr sensor s = _ ∧ execSpdmMctp tr msg s = _
  simp only [execMctpControl, execPldmType0, execGetPdr, execGetSensorReading, execGetStateSensorReadings, execSpdmMctp,
    onTransport_of_silent h, and_self]

variable (h : s.answersOn tr = true)
include h

theorem mctpControl_of_assignment {msg : Bytes} {e : Byte} (he : assignedEid msg = some e) : exec (.mctpControl tr msg) s =
    .next (({ s with sec := { s.sec with eids := kput (transportIndex tr) e s.sec.eids } } : State).standardReply tr msg []) := by
  show execMctpControl tr msg s = _
  rw [execMctpControl, onTransport_of_answering h, he]

theorem mctpControl_of_other {msg : Bytes} (he : assignedEid msg = none) : exec (.mctpControl tr msg) s = .next (s.standardReply tr msg []) := by
  show execMctpControl tr msg s = _
  rw [execMctpControl, onTransport_of_answering h, he]

theorem pldmType0_of_answering (msg : Bytes) : exec (.pldmType0 tr msg) s = .next (s.standardReply tr msg []) := by
  show execPldmType0 tr msg s = _
  rw [execPldmType0, onTransport_of_answering h]

theorem getPdr_of_answering (handle : U32) : exec (.getPdr tr handle) s = .next (s.standardReply tr (0x51 :: leBytes 4 handle.toNat) []) := by
  show execGetPdr tr handle s = _
  rw [execGetPdr, onTransport_of_answering h]

end Transports

/-! Sensors (R476). -/

section Sensors
variable {s : State} {tr : Transport} {sensor : U16} {v : Int} (hv : s.power.sensors[Config.sensorIndex sensor.toNat]? = some v)
include hv

theorem sensorReading_of_numeric (hk : Config.sensorIndex sensor.toNat < 24) : s.sensorReading sensor false = leBytes 4 (unsignedOf 32 v) := by
  have hnumeric : decide (24 ≤ Config.sensorIndex sensor.toNat) = false := decide_eq_false (Nat.not_le.2 hk)
  simp only [State.sensorReading, hnumeric, if_true, hv, Bool.false_eq_true, if_false]

theorem sensorReading_of_state (hk : 24 ≤ Config.sensorIndex sensor.toNat) : s.sensorReading sensor true = leBytes 1 (unsignedOf 8 v) := by
  simp only [State.sensorReading, decide_eq_true hk, if_true, hv]

variable (h : s.answersOn tr = true)
include h

theorem getSensorReading_of_numeric (hk : Config.sensorIndex sensor.toNat < 24) : exec (.getSensorReading tr sensor) s =
    .next (s.standardReply tr (0x11 :: leBytes 2 sensor.toNat) (leBytes 4 (unsignedOf 32 v))) := by
  show execGetSensorReading tr sensor s = _
  rw [execGetSensorReading, onTransport_of_answering h, sensorReading_of_numeric hv hk]

theorem getStateSensorReadings_of_state (hk : 24 ≤ Config.sensorIndex sensor.toNat) : exec (.getStateSensorReadings tr sensor) s =
    .next (s.standardReply tr (0x21 :: leBytes 2 sensor.toNat) (leBytes 1 (unsignedOf 8 v))) := by
  show execGetStateSensorReadings tr sensor s = _
  rw [execGetStateSensorReadings, onTransport_of_answering h, sensorReading_of_state hv hk]

end Sensors

/-! SPDM over MCTP (R472) and the I3C address (R475). -/

section Spdm
variable {s : State} {tr : Transport} (h : s.answersOn tr = true) {msg : Bytes}
include h

theorem spdmMctp_of_answering : exec (.spdmMctp tr msg) s = .next (s.spdmMessage tr msg) := by
  show execSpdmMctp tr msg s = _
  rw [execSpdmMctp, onTransport_of_answering h]

theorem spdmMctp_of_signed (hsigned : Config.spdmSigned msg = true) : exec (.spdmMctp tr msg) s =
    .next (if s.sec.debug then s.sendOn tr spdmError else s.sign { transport := tr, msg := msg }) := by
  rw [spdmMctp_of_answering h, State.spdmMessage, if_pos hsigned]

theorem spdmMctp_of_unsigned (hunsigned : Config.spdmSigned msg = false) {u : State} {a : Bytes} (hreply : s.spdmReply tr msg = (u, a)) :
    exec (.spdmMctp tr msg) s = .next (u.sendOn tr a) := by
  rw [spdmMctp_of_answering h, State.spdmMessage, if_neg (by rw [hunsigned]; exact Bool.false_ne_true), hreply]

end Spdm

section Addresses
variable {s : State} (h : s.answersOn .i3c = true) {st dy : BitVec 7}
include h

theorem i3cSetdasa_of_answering : exec (.i3cSetdasa st dy) s = .next (
    if st = 0x52 && !s.sec.i3cAssigned then { s with sec := { s.sec with i3cAddr := dy, i3cAssigned := true } } else s) := by
  show execI3cSetdasa st dy s = _
  rw [execI3cSetdasa, onTransport_of_answering h]

theorem i3cEntdaa_of_answering : exec (.i3cEntdaa dy) s = .next (
    if s.sec.i3cAssigned then s else { s with sec := { s.sec with i3cAddr := dy, i3cAssigned := true } }) := by
  show execI3cEntdaa dy s = _
  rw [execI3cEntdaa, onTransport_of_answering h]

end Addresses

/-- Settles O45 (R468, R472, R475, R476): each message on a transport that answers, and none on one that does not. -/
theorem sidebandMessagesAreAnswered : Obligations.SidebandMessagesAreAnswered := by
  refine ⟨fun tr s h => ⟨fun msg e he => ⟨_, rfl, mctpControl_of_assignment h he⟩, fun msg => mctpControl_of_other h, pldmType0_of_answering h,
      getPdr_of_answering h, fun sensor v hv => ⟨getSensorReading_of_numeric hv h, getStateSensorReadings_of_state hv h⟩,
      fun msg hsigned hdebug => ?signed, fun msg hsigned hdebug => ?locked_out,
        fun msg u a hunsigned hreply => spdmMctp_of_unsigned h hunsigned hreply⟩,
    fun st dy s h => ⟨fun hfree => ⟨?setdasa, ?entdaa⟩, fun hassigned => ⟨?entdaa_kept, ?setdasa_kept⟩, fun hst => ?other⟩,
    fun tr s h msg sensor handle => sideband_of_silent h msg sensor handle⟩
  case signed => rw [spdmMctp_of_signed h hsigned, if_neg (by rw [hdebug]; exact Bool.false_ne_true)]
  case locked_out => rw [spdmMctp_of_signed h hsigned, if_pos hdebug]
  case setdasa => rw [i3cSetdasa_of_answering h, if_pos (by rw [hfree]; rfl)]
  case entdaa => rw [i3cEntdaa_of_answering h, if_neg (by rw [hfree]; exact Bool.false_ne_true)]
  case entdaa_kept => rw [i3cEntdaa_of_answering h, if_pos hassigned]
  case setdasa_kept => rw [i3cSetdasa_of_answering h, if_neg (by rw [hassigned, Bool.not_true, Bool.and_false]; exact Bool.false_ne_true)]
  case other => rw [i3cSetdasa_of_answering h, if_neg (by rw [decide_eq_false hst, Bool.false_and]; exact Bool.false_ne_true)]

end Sys2Proof.Proofs.Sideband
end

section
/-!
PROOFS. What a command that Pintle takes becomes: its meaning's answer written to the mailbox, or none yet (15: R418, R419).
-/

namespace Sys2Proof.Proofs.Answers
open Sys2Proof.Machine

variable {c : Instr} {op : Nat} {r : Req} {s a u : State} {run : State → Req → Ans} {body : Bytes} {st : Nat}

/-- A command that is answered OK. -/
theorem exec_yes (hexec : exec c s = .next (s.command op r run)) (htakes : s.takes op r) (ha : s.accept r = a) (hrun : run a r = u.yes body) :
    exec c s = .next (u.respond r 0 0 body) := by
  rw [hexec, State.command_takes htakes ha, hrun]
  rfl

/-- A command that is refused with a status. -/
theorem exec_no (hexec : exec c s = .next (s.command op r run)) (htakes : s.takes op r) (ha : s.accept r = a) (hrun : run a r = u.no st) :
    exec c s = .next (u.respond r st 0 []) := by
  rw [hexec, State.command_takes htakes ha, hrun]
  rfl

/-- A command that is answered later. -/
theorem exec_waits (hexec : exec c s = .next (s.command op r run)) (htakes : s.takes op r) (ha : s.accept r = a) (hrun : run a r = (u, none)) :
    exec c s = .next u := by
  rw [hexec, State.command_takes htakes ha, hrun]
  rfl

section OfPart
variable {p : PartId} {runp : State → Req → PartId → Ans} (hexec : exec c s = .next (s.command op r (onPart runp))) (htakes : s.takes op r)
  (ha : s.accept r = a) (hnamed : a.named r.body 0 = some p)
include hexec htakes ha hnamed

theorem exec_yes_part (hrun : runp a r p = u.yes body) : exec c s = .next (u.respond r 0 0 body) :=
  exec_yes hexec htakes ha ((onPart_named hnamed).trans hrun)

theorem exec_no_part (hrun : runp a r p = u.no st) : exec c s = .next (u.respond r st 0 []) :=
  exec_no hexec htakes ha ((onPart_named hnamed).trans hrun)

theorem exec_waits_part (hrun : runp a r p = (u, none)) : exec c s = .next u :=
  exec_waits hexec htakes ha ((onPart_named hnamed).trans hrun)

end OfPart

section OfPort
variable {i : PortId} {runp : State → Req → PortId → Ans} (hexec : exec c s = .next (s.command op r (onPort runp))) (htakes : s.takes op r)
  (ha : s.accept r = a) (hnamed : portNamed r.body = some i)
include hexec htakes ha hnamed

theorem exec_yes_port (hrun : runp a r i = u.yes body) : exec c s = .next (u.respond r 0 0 body) :=
  exec_yes hexec htakes ha ((onPort_named hnamed).trans hrun)

theorem exec_no_port (hrun : runp a r i = u.no st) : exec c s = .next (u.respond r st 0 []) :=
  exec_no hexec htakes ha ((onPort_named hnamed).trans hrun)

theorem exec_waits_port (hrun : runp a r i = (u, none)) : exec c s = .next u :=
  exec_waits hexec htakes ha ((onPort_named hnamed).trans hrun)

end OfPort

end Sys2Proof.Proofs.Answers
end

section
/-!
PROOFS. IDENTIFY and the commands of partitions and memory (6: R167–R177; 9: R233; 15: R403, R413; 16: R434), and the settling of O48.
-/

namespace Sys2Proof.Proofs.PartitionCommands
open Sys2Proof.Machine Sys2Proof.Proofs.Answers

variable {a : State} {r : Req} {p : PartId}

section Bifurcation
variable (hmode : rf r 1 1 ≤ 2) (hidle : ∀ q, (a.part q).present = true → (a.part q).active = false)
include hmode hidle

theorem setBifurcation_of_idle (hport : rf r 0 1 ≤ 1) : a.setBifurcation r = ({ a with
    bifurNext := if rf r 0 1 = 0 then (BitVec.ofNat 8 (rf r 1 1), a.bifurNext.2) else (a.bifurNext.1, BitVec.ofNat 8 (rf r 1 1)) } : State).yes [] := by
  have hsmall : (BitVec.ofNat 8 (rf r 1 1)).toNat ≤ 2 := by rw [BitVec.toNat_ofNat]; omega
  have hfree : ¬(allParts.any fun p => (a.part p).present && (a.part p).active && fnEast (a.part p).owner = decide (rf r 0 1 = 1)) = true := by
    simp only [List.any_eq_true, not_exists, not_and, Bool.and_eq_true]
    rintro q - ⟨hpresent, hactive⟩
    rw [hidle q hpresent] at hactive
    exact absurd hactive Bool.false_ne_true
  have hargs : ¬(decide (1 < rf r 0 1) || decide (2 < (BitVec.ofNat 8 (rf r 1 1)).toNat)) = true := by
    rw [decide_eq_false (Nat.not_lt.2 hport), decide_eq_false (Nat.not_lt.2 hsmall)]
    exact Bool.false_ne_true
  exact (if_neg hargs).trans (if_neg hfree)

end Bifurcation

theorem partCreate_of_allowed (hnone : a.createRefusal r = none) {f : FnId} {hds : List Nat} (hp : rf r 0 1 = p.val) (hf : rf r 1 1 = f.val)
    (hhds : maskBits 16 (rf r 4 2) = hds) : a.partCreate r = (((hds.foldl State.pairRows ((a.zeroHds hds).setPart p {
      present := true, owner := f, paired := bitAt (rf r 2 1) 0, hds := BitVec.ofNat 16 (rf r 4 2), faultFrom := a.faultHead })).replaceHds
        hds).rebeat p).yes [] := by
  have hpart : (⟨rf r 0 1 % 16, Nat.mod_lt _ (by decide)⟩ : PartId) = p := Fin.ext ((Nat.mod_eq_of_lt (hp ▸ p.isLt)).trans hp)
  have howner : (⟨rf r 1 1 % 8, Nat.mod_lt _ (by decide)⟩ : FnId) = f := Fin.ext ((Nat.mod_eq_of_lt (hf ▸ f.isLt)).trans hf)
  subst hhds
  simp only [State.partCreate, hnone, hpart, howner]

theorem partDestroy_of_inactive (hactive : (a.part p).active = false) (happlies : (a.part p).applies = []) {u v w : State}
    (hu : u = ((List.finRange 16).filter fun i => (a.port i).part = some p).foldl State.freePort
      ((a.boundaryFences p).zeroChans (a.part p).chanFirst (a.part p).chanCount))
    (hv : v = u.forTiles (a.tilesOfPart p) (fun s t => s.modTile t Tile.unprogram))
    (hw : w = { v with bindings := v.bindings.filter (fun b => b.2.part ≠ p), flatW := v.flatW.filter (fun e => bitsOf e.2.toNat 30 27 ≠ p.val)
                       flatE := v.flatE.filter fun e => bitsOf e.2.toNat 30 27 ≠ p.val }) :
    a.partDestroy r p = ((w.setPart p {}).replaceHds (a.part p).hdList).yes [] := by
  subst hw hv hu
  exact if_neg (by simp [hactive, happlies])

theorem rowRepair_of_idle (hidle : (a.part p).running = false) {rows : List U64} {u : State} (hrows : rows = (a.stacksOf p).flatMap a.stackRows)
    (hu : u = rows.foldl State.repairRow a) : a.rowRepair r p = u.yes (leBytes 2 (rows.length - (u.rowsBad.length - a.rowsBad.length)) ++
      leBytes 2 (u.rowsBad.length - a.rowsBad.length)) := by
  subst hu hrows
  exact if_neg (by rw [hidle]; exact Bool.false_ne_true)

theorem channelRange_of_free (hactive : (a.part p).active = false) (hsize : rf r 4 4 + rf r 8 4 ≤ 2 ^ 20)
    (hmeet : ∀ q, q ≠ p → (a.part q).present = true → rangesMeet (rf r 4 4) (rf r 8 4) (a.part q).chanFirst (a.part q).chanCount = false) :
    a.channelRange r p = (((a.zeroChans (a.part p).chanFirst (a.part p).chanCount).zeroChans (rf r 4 4) (rf r 8 4)).modPart p fun q => { q with
      chanFirst := if rf r 8 4 = 0 then 0 else rf r 4 4, chanCount := rf r 8 4 }).yes [] := by
  have hfree : ¬(allParts.any fun q => q ≠ p && (a.part q).present &&
      rangesMeet (rf r 4 4) (rf r 8 4) (a.part q).chanFirst (a.part q).chanCount) = true := by
    rw [List.any_eq_true]
    simp only [Bool.and_eq_true, decide_eq_true_eq]
    rintro ⟨q, -, ⟨hq, hpresent⟩, hmeets⟩
    rw [hmeet q hq hpresent] at hmeets
    exact absurd hmeets Bool.false_ne_true
  exact (if_neg (by rw [hactive]; exact Bool.false_ne_true)).trans ((if_neg (Nat.not_lt.2 hsize)).trans (if_neg hfree))

theorem windowRead_of_named {t : TileId} (ht : a.tileOfN p (rf r 2 2) = some t) (hn : rf r 2 2 ∈ a.nsOfPart p) : a.windowRead r p =
    a.yes ((a.tile t).windows.toList.flatMap Window.bytes ++ (a.tile t).windows.toList.flatMap fun w => leBytes 4 w.refused.toNat) := by
  have hfound : ((a.tileOfN p (rf r 2 2)).filter fun _ => (a.nsOfPart p).contains (rf r 2 2)) = some t := by
    rw [ht, Option.filter_some, if_pos (List.contains_iff_mem.2 hn)]
  rw [State.windowRead, hfound]

/-- Settles O48 (R167–R177, R233, R403, R413, R434): each command with its checks passed. -/
theorem identityPartitionAndMemoryCommands : Obligations.IdentityPartitionAndMemoryCommands := by
  refine ⟨fun r s a ha => ⟨fun htakes => exec_yes rfl htakes ha rfl, fun htakes hmode hidle => ⟨fun hport => ?west, fun hport => ?east⟩,
      fun p f hds htakes hnone hp hf hhds => exec_yes rfl htakes ha (partCreate_of_allowed hnone hp hf hhds)⟩,
    fun r s a p ha hnamed => ⟨fun htakes hactive happlies => ⟨_, _, _, rfl, rfl, rfl,
        exec_yes_part rfl htakes ha hnamed (partDestroy_of_inactive hactive happlies rfl rfl rfl)⟩,
      fun htakes => exec_yes_part rfl htakes ha hnamed rfl,
      fun htakes hidle => ⟨_, _, rfl, rfl, exec_yes_part rfl htakes ha hnamed (rowRepair_of_idle hidle rfl rfl)⟩,
      fun htakes hactive hsize hmeet => exec_yes_part rfl htakes ha hnamed (channelRange_of_free hactive hsize hmeet),
      fun t htakes ht hn => exec_yes_part rfl htakes ha hnamed (windowRead_of_named ht hn)⟩⟩
  case west =>
    have hrun := setBifurcation_of_idle hmode hidle (by omega)
    rw [if_pos hport] at hrun
    exact exec_yes rfl htakes ha hrun
  case east =>
    have hrun := setBifurcation_of_idle hmode hidle (by omega)
    rw [if_neg (by omega)] at hrun
    exact exec_yes rfl htakes ha hrun

end Sys2Proof.Proofs.PartitionCommands
end

section
/-!
PROOFS. The commands of jobs, staging, scans, seams, time and shadows (2: R44, R45, R60; 10: R254, R281; 16: R429, R430, R440, R443), and the
settling of O51.
-/

namespace Sys2Proof.Proofs.JobCommands
open Sys2Proof.Machine Sys2Proof.Proofs.Answers

variable {a : State} {r : Req} {p : PartId}

/-! Programs, jobs, manifests and the shadow's state. -/

theorem progLoad_of_passed {bs : Bytes} (hactive : (a.part p).active = false) (hread : a.readable p (rf r 8 8) (rf r 16 8) = true)
    (hbs : a.partRead p (rf r 8 8) (rf r 16 8) = bs) (hset : a.setRefusal p bs = none) :
    a.progLoad r p = ((a.pintleRead p (rf r 8 8) (rf r 16 8)).takeSet p (rf r 8 8) (rf r 16 8) bs).yes [] := by
  subst hbs
  simp only [State.progLoad, hactive, hread, hset, Bool.not_true, Bool.false_eq_true, if_false]

theorem progUnload_of_idle (hidle : (a.part p).running = false) : a.progUnload r p = (a.unloadPart p).yes [] :=
  if_neg (by rw [hidle]; exact Bool.false_ne_true)

theorem jobDrain_of_running (hrun : (a.part p).running = true) :
    a.jobDrain r p = ((a.modPart p fun q => { q with draining := true }).await 0x0404 r p 0, none) := if_pos hrun

theorem jobAbandon_of_running (hrun : (a.part p).running = true) : a.jobAbandon r p =
    if !(a.part p).oneModule then a.no denied else ((a.modPart p fun q => { q with abandoning := true }).await 0x0405 r p 0).later :=
  if_neg (by rw [hrun]; exact Bool.false_ne_true)

theorem timeOffset_of_idle (hidle : (a.part p).running = false) :
    a.timeOffset r p = ((a.modPart p fun q => { q with offset := signedOf 64 (rf r 8 8) }).beatNow p).yes [] :=
  if_neg (by rw [hidle]; exact Bool.false_ne_true)

theorem manifestLoad_of_passed {bs : Bytes} (hactive : (a.part p).active = false) (hread : a.readable p (rf r 8 8) (rf r 16 4) = true)
    (hbs : a.partRead p (rf r 8 8) (rf r 16 4) = bs) (hmanifest : a.manifestRefusal p bs (rf r 2 2) = none) :
    a.manifestLoad r p = ((a.pintleRead p (rf r 8 8) (rf r 16 4)).modPart p fun q =>
      { q with manifest := some (parseManifest bs (BitVec.ofNat 16 (rf r 2 2))) }).yes (parseManifest bs (BitVec.ofNat 16 (rf r 2 2))).digest := by
  subst hbs
  simp only [State.manifestLoad, hactive, hread, hmanifest, Bool.not_true, Bool.false_eq_true, if_false]

theorem shadowRead_of_some {h : Shadow} (hshadow : (a.part p).shadow = some h) :
    a.shadowRead r p = a.yes (leBytes 4 h.cleanRun ++ leBytes 4 h.target ++ [h.state]) := by
  rw [State.shadowRead, hshadow]

theorem shadowRead_of_none (hshadow : (a.part p).shadow = none) : a.shadowRead r p = a.yes (List.replicate 9 0) := by
  rw [State.shadowRead, hshadow]

/-! The pending set and APPLY (R429, R430, R443). -/

section Staging
variable (happly : (a.part p).apply = none)
include happly

theorem stageCancel_of_free : a.stageCancel r p = (a.modPart p fun q => { q with pending := [] }).yes [] :=
  if_neg (by rw [happly]; exact Bool.false_ne_true)

theorem applyCommand_of_free : a.applyCommand r p = a.applyPending r p := by rw [State.applyCommand, happly]

theorem applyCommand_of_empty (hempty : (a.part p).pending = []) : a.applyCommand r p = a.no notReady := by
  rw [applyCommand_of_free happly]
  exact if_pos (by rw [hempty]; rfl)

theorem applyCommand_of_pending {y : Apply} (hsome : (a.part p).pending ≠ [])
    (hsuits : ∀ x ∈ (a.part p).pending, (a.part p).suits (rf r 8 6) x = true)
    (hy : y = { changes := (a.part p).pending, beat := rf r 8 6, req := r, opcode := 0x0501, direct := false, hold := bitAt r.flags.toNat 1,
                committed := false, units := a.unitsOf p (a.part p).pending })
    (hwindow : a.windowOk429 p y = true) : a.applyCommand r p = (a.modPart p fun q => { q with apply := some y }, none) := by
  subst hy
  rw [applyCommand_of_free happly]
  exact (if_neg (by simpa using hsome)).trans (if_neg (by rw [List.all_eq_true.2 hsuits, hwindow]; exact Bool.false_ne_true))

end Staging

theorem applyCommand_of_prepared {y : Apply} (happly : (a.part p).apply = some y) (hhold : y.hold = true) (hopen : y.committed = false)
    (hclear : bitAt r.flags.toNat 1 = false) (hbeat : y.beat = rf r 8 6) (hheld : y.held = true) :
    a.applyCommand r p = (a.modPart p fun q => { q with apply := some { y with committed := true } }).yes [] := by
  simp only [State.applyCommand, happly, hhold, hopen, hclear, hbeat, hheld, Bool.not_false, Bool.and_self, decide_true, if_true]

/-! SCAN and the service of its image at a beat boundary (R208–R210, R254). -/

section Scan
variable {t : TileId} (ht : a.tileOfN p (rf r 2 2) = some t) (hfreeze : (a.part p).freeze ≠ none)
include ht hfreeze

theorem scan_of_frozen (hn : rf r 2 2 ∈ a.nsOfPart p) (hop : 1 ≤ rf r 1 1 ∧ rf r 1 1 ≤ 3) (halign : rf r 8 8 % 64 = 0)
    (hspace : (rf r 4 1 = 0 ∧ a.readable p (rf r 8 8) (imageSize (rf r 1 1)) = true) ∨
      (rf r 4 1 = 1 ∧ rf r 1 1 ≠ 3 ∧ inSpad (rf r 8 8) (imageSize (rf r 1 1)) = true)) :
    a.scan r p = if rf r 1 1 = 2 then (a.scanOutTo p (rf r 2 2) t r).yes [] else (a.await 0x0408 r p 0, none) := by
  have hfound : ((a.tileOfN p (rf r 2 2)).filter fun _ => (a.nsOfPart p).contains (rf r 2 2)) = some t := by
    rw [ht, Option.filter_some, if_pos (List.contains_iff_mem.2 hn)]
  have hfrozen : (a.part p).freeze.isNone = false := by simpa [Option.isSome_iff_ne_none] using hfreeze
  have hspace' : (if rf r 4 1 = 1 then decide (rf r 1 1 ≠ 3) && inSpad (rf r 8 8) (imageSize (rf r 1 1))
      else decide (rf r 4 1 = 0) && a.readable p (rf r 8 8) (imageSize (rf r 1 1))) = true := by
    rcases hspace with ⟨h4, hread⟩ | ⟨h4, h3, hspad⟩
    · rw [if_neg (by omega), h4, hread]; rfl
    · rw [if_pos h4, decide_eq_true h3, hspad]; rfl
  have hargs : (decide (rf r 1 1 = 0) || decide (3 < rf r 1 1) || decide (rf r 8 8 % 64 ≠ 0)) = false := by
    rw [decide_eq_false (by omega), decide_eq_false (by omega), halign]; rfl
  rw [State.scan, hfound]
  simp only [hfrozen, Bool.false_eq_true, if_false, hargs, hspace', Bool.not_true, Bool.or_self]
  rfl

theorem scanServe_of_out (hop : rf r 1 1 ≠ 3) : a.scanServe p r = (a.scanOutTo p (rf r 2 2) t r, 0, 0) := by
  have hfrozen : (a.part p).freeze.isNone = false := by simpa [Option.isSome_iff_ne_none] using hfreeze
  simp only [State.scanServe, ht, hfrozen, Bool.false_eq_true, if_false, if_pos hop]
  rfl

theorem scanServe_of_in {u : State} {bs : Option Bytes} (hop : rf r 1 1 = 3) (hread : a.areaRead p (rf r 8 8) = (u, bs)) :
    a.scanServe p r = (a.imageRefusal p (rf r 2 2) t bs).elim
      ((u.forTiles (a.tilesAt p (rf r 2 2)) fun s x => s.modTile x fun v => v.reload (parseEntry (bs.getD []))).armGen p, 0, 0)
      fun x => (u, x.1, x.2) := by
  have hfrozen : (a.part p).freeze.isNone = false := by simpa [Option.isSome_iff_ne_none] using hfreeze
  simp only [State.scanServe, ht, hfrozen, Bool.false_eq_true, if_false, hop, ne_eq, not_true_eq_false, hread]
  cases a.imageRefusal p (rf r 2 2) t bs <;> rfl

omit ht in
theorem scanOutTo_scratchpad (hspace : rf r 4 1 = 1) {w : Tile × Option Nat}
    (hw : (a.tile t).placeRun a.member (a.stepAt t) 6 (rf r 8 8) (a.scanOut p (rf r 2 2) t (rf r 1 1)) = w) : a.scanOutTo p (rf r 2 2) t r =
    w.2.elim (a.setTile t w.1) fun x => (a.setTile t w.1).tileFault t { cls := 0x10, eng := 6, addr := x, clears := false } := by
  have hfrozen : (a.part p).freeze.isNone = false := by simpa [Option.isSome_iff_ne_none] using hfreeze
  simp only [State.scanOutTo, if_pos hspace, hfrozen, hw]
  cases w.2 <;> rfl

end Scan

theorem scanOutTo_dram {n : Nat} {t : TileId} (hspace : rf r 4 1 = 0) :
    a.scanOutTo p n t r = a.partWrite p (rf r 8 8) (a.scanOut p n t (rf r 1 1)) := if_neg (by omega)

theorem areaRead_of_clean {x : Nat} (hclean : a.retiredEcc p x 8192 .clean = .clean) : a.areaRead p x = (a, some (a.partRead p x 8192)) := by
  unfold State.areaRead
  generalize a.partRead p x 8192 = bs
  rw [hclean]

/-! A seam's calibration and the time input (R44, R60). -/

theorem seamReset_of_free {m : SeamMeasure} (hseam : rf r 0 2 ∈ a.member.seamIds) (hkind : rf r 2 1 ≤ 1)
    (hparts : ∀ p ∈ a.seamParts (rf r 0 2), (a.part p).active = false)
    (hm : m = { id := BitVec.ofNat 16 (rf r 0 2), worstP := Config.seamDelay (rf r 0 2) a.draws false, worstR := Config.seamDelay (rf r 0 2) a.draws true,
                marginPs := Config.seamMargin (rf r 0 2) a.draws, calibrated := true }) {u : State}
    (hu : u = a.modSeam (rf r 0 2) (fun x => { x.calibrated m (rf r 2 1 = 1) with
      latP := min (x.calibrated m (rf r 2 1 = 1)).latP 255, latR := min (x.calibrated m (rf r 2 1 = 1)).latR 255, faults := 0 })) :
    a.seamReset r = (({ u with draws := u.draws + 1 } : State).clearSeamDefects (rf r 0 2)).yes ((u.seam (rf r 0 2)).bytes (rf r 0 2)) := by
  have hargs : ¬(!a.member.seamIds.contains (rf r 0 2) || decide (1 < rf r 2 1)) = true := by
    rw [List.contains_iff_mem.2 hseam, decide_eq_false (by omega)]
    exact Bool.false_ne_true
  have hfree : ¬((a.seamParts (rf r 0 2)).any fun p => (a.part p).active) = true := by
    rw [List.any_eq_true]
    rintro ⟨q, hq, hactive⟩
    rw [hparts q hq] at hactive
    exact absurd hactive Bool.false_ne_true
  subst hu hm
  exact (if_neg hargs).trans (if_neg hfree)

theorem tsync_of_allowed (hen : rf r 0 1 ≤ 1) {n : U32} (hn : n = if rf r 0 1 = 1 ∧ a.tsyncEn = false then 0 else a.tsyncCaptures) :
    a.tsync r = ({ a with tsyncEn := decide (rf r 0 1 = 1), tsyncCaptures := n } : State).yes (leBytes 8 a.tsyncCapture.toNat ++ leBytes 4 n.toNat) := by
  subst hn
  have hsame : (if (decide (rf r 0 1 = 1) && !a.tsyncEn) = true then (0 : U32) else a.tsyncCaptures) =
      if rf r 0 1 = 1 ∧ a.tsyncEn = false then 0 else a.tsyncCaptures := by
    simp only [Bool.and_eq_true, decide_eq_true_eq, Bool.not_eq_true']
  rw [State.tsync, if_neg (Nat.not_lt.2 hen), hsame]

/-- Settles O51 (R44–R60, R208–R281, R429–R443): each command with its conditions met, and a scan's image where it is served. -/
theorem jobStagingTimeAndShadowCommands : Obligations.JobStagingTimeAndShadowCommands := by
  refine ⟨fun r s a p ha hnamed => ⟨fun bs htakes hactive hread hbs hset => exec_yes_part rfl htakes ha hnamed (progLoad_of_passed hactive hread hbs hset),
      fun htakes hidle => exec_yes_part rfl htakes ha hnamed (progUnload_of_idle hidle),
      fun htakes hrun => exec_waits_part rfl htakes ha hnamed (jobDrain_of_running hrun), fun htakes hrun hone => ?abandon,
      fun htakes hrun hone => ?abandon_denied, fun htakes happly => exec_yes_part rfl htakes ha hnamed (stageCancel_of_free happly),
      fun htakes => exec_yes_part rfl htakes ha hnamed rfl, fun htakes hidle => exec_yes_part rfl htakes ha hnamed (timeOffset_of_idle hidle),
      fun bs m htakes hactive hread hbs hmanifest hm => ?manifest,
      fun h htakes hshadow => exec_yes_part rfl htakes ha hnamed (shadowRead_of_some hshadow),
      fun htakes hshadow => exec_yes_part rfl htakes ha hnamed (shadowRead_of_none hshadow)⟩,
    fun r s a p ha hnamed htakes => ⟨fun y happly hsome hsuits hy hwindow =>
        exec_waits_part rfl htakes ha hnamed (applyCommand_of_pending happly hsome hsuits hy hwindow),
      fun happly hempty => exec_no_part rfl htakes ha hnamed (applyCommand_of_empty happly hempty),
      fun y happly hhold hopen hclear hbeat hheld =>
        exec_yes_part rfl htakes ha hnamed (applyCommand_of_prepared happly hhold hopen hclear hbeat hheld)⟩,
    fun r s a p t ha hnamed htakes ht hn hfreeze halign => ⟨fun k hk hspace => ⟨fun hop => ?scan_bits, fun hop => ?scan_entry⟩,
      fun hop hspace hread => ?scan_reload⟩,
    fun r b p t ht hfreeze => ⟨fun hop => scanServe_of_out ht hfreeze (by omega), fun u bs hop hread => ⟨fun st d himage => ?serve_refused,
      fun himage => ?serve_loaded, fun hclean => ?serve_clean⟩, scanOutTo_dram, fun w hspace hw => ⟨fun hnone => ?placed, fun x hsome => ?faulted⟩⟩,
    fun r s a ha => ⟨fun m htakes hseam hkind hparts hm => ⟨_, rfl, exec_yes rfl htakes ha (seamReset_of_free hseam hkind hparts hm rfl)⟩,
      fun htakes hen => ⟨_, _, rfl, rfl, exec_yes rfl htakes ha (tsync_of_allowed hen rfl)⟩⟩⟩
  case abandon =>
    refine exec_waits_part rfl htakes ha hnamed ((jobAbandon_of_running hrun).trans (if_neg ?_))
    rw [hone]
    exact Bool.false_ne_true
  case abandon_denied =>
    refine exec_no_part rfl htakes ha hnamed ((jobAbandon_of_running hrun).trans (if_pos ?_))
    rw [hone]
    rfl
  case manifest =>
    subst hm
    exact exec_yes_part rfl htakes ha hnamed (manifestLoad_of_passed hactive hread hbs hmanifest)
  case scan_bits =>
    have hsize : imageSize (rf r 1 1) = k := by rw [hop, imageSize, if_pos rfl]; omega
    refine exec_yes_part rfl htakes ha hnamed ((scan_of_frozen ht hfreeze hn (by omega) halign ?_).trans (if_pos hop))
    rw [hsize]
    exact hspace.imp_right fun ⟨h4, hspad⟩ => ⟨h4, by omega, hspad⟩
  case scan_entry =>
    have hsize : imageSize (rf r 1 1) = k := by rw [hop, imageSize, if_neg (by decide)]; omega
    refine exec_waits_part rfl htakes ha hnamed ((scan_of_frozen ht hfreeze hn (by omega) halign ?_).trans (if_neg (by omega)))
    rw [hsize]
    exact hspace.imp_right fun ⟨h4, hspad⟩ => ⟨h4, by omega, hspad⟩
  case scan_reload =>
    refine exec_waits_part rfl htakes ha hnamed ((scan_of_frozen ht hfreeze hn (by omega) halign (.inl ⟨hspace, ?_⟩)).trans (if_neg (by omega)))
    rw [hop]
    exact hread
  case serve_refused => rw [scanServe_of_in ht hfreeze hop hread, himage]; rfl
  case serve_loaded => rw [scanServe_of_in ht hfreeze hop hread, himage]; rfl
  case serve_clean =>
    rw [areaRead_of_clean hclean, Prod.mk.injEq] at hread
    obtain ⟨rfl, rfl⟩ := hread
    exact ⟨rfl, rfl, rfl⟩
  case placed =>
    rw [scanOutTo_scratchpad hfreeze hspace hw, hnone]
    rfl
  case faulted =>
    rw [scanOutTo_scratchpad hfreeze hspace hw, hsome]
    rfl

end Sys2Proof.Proofs.JobCommands
end

section
/-!
PROOFS. The commands of ports (11: R283–R322), and the settling of O52.
-/

namespace Sys2Proof.Proofs.PortCommands
open Sys2Proof.Machine Sys2Proof.Proofs.Answers

variable {a : State} {r : Req} {i : PortId}

/-! PORT_MODE (R283, R284). -/

section Mode
variable (hmode : rf r 1 1 ≤ 6)
include hmode

theorem portMode_of_held (hwidth : rf r 2 1 = 0) (hheld : a.portHeld i = true) : a.portMode r i = a.no busy := by
  have hargs : (decide (6 < rf r 1 1) || decide (1 < rf r 2 1) || decide (rf r 2 1 = 1) && decide (rf r 1 1 ≠ 3)) = false := by
    rw [decide_eq_false (by omega), hwidth]; rfl
  simp only [State.portMode, hargs, hheld, Bool.true_or, Bool.false_eq_true, if_false, if_true]

theorem portMode_of_free (hwidth : rf r 2 1 = 0 ∨ rf r 2 1 = 1 ∧ rf r 1 1 = 3) (hheld : a.portHeld i = false)
    (hwaiters : ∀ w ∈ a.waiters, w.opcode ≠ 0x0701) {u : State}
    (hu : u = (a.linksDown i .down).modPort i (fun q => q.retrain (BitVec.ofNat 8 (rf r 1 1)) (BitVec.ofNat 8 (rf r 2 1)))) :
    a.portMode r i = if rf r 1 1 = 0 then u.yes (u.port i).laneBytes else (u.await 0x0701 r (a.portPart i) i.val, none) := by
  have hargs : (decide (6 < rf r 1 1) || decide (1 < rf r 2 1) || decide (rf r 2 1 = 1) && decide (rf r 1 1 ≠ 3)) = false := by
    rcases hwidth with h | ⟨h, h3⟩
    · rw [decide_eq_false (by omega), h]; rfl
    · rw [h, h3]; rfl
  have hnone : (a.waiters.any fun w => w.opcode = 0x0701 && !w.queued && w.key = i.val) = false :=
    List.any_eq_false.2 fun w hw => by rw [decide_eq_false (hwaiters w hw)]; exact Bool.false_ne_true
  subst hu
  simp only [State.portMode, hargs, hheld, hnone, Bool.or_self, Bool.false_eq_true, if_false]
  rfl

end Mode

/-! PORT_ASSIGN (R295). -/

section Assign
variable (hport : portNamed r.body = some i)
include hport

theorem portAssign_of_free (hall : rf r 1 1 = 0xFF) (hidle : ∀ p, (a.port i).part = some p → (a.part p).active = false) :
    a.portAssign r = (a.assignPort i none).yes [] := by
  have hlive : (((a.port i).part.map fun p => (a.part p).active).getD false) = false := by
    cases h : (a.port i).part with
    | none => rfl
    | some p => exact hidle p h
  simp only [State.portAssign, hport, if_pos hall, hlive, Bool.false_eq_true, if_false]

theorem portAssign_of_partition {p : PartId} (hall : rf r 1 1 ≠ 0xFF) (hnamed : a.named r.body 1 = some p)
    (hown : (a.port i).part = none ∨ (a.port i).part = some p) (hactive : (a.part p).active = false) :
    a.portAssign r = (a.assignPort i (some p)).yes [] := by
  have hforeign : ((a.port i).part.map fun o => decide (o ≠ p)).getD false = false := by rcases hown with h | h <;> simp [h]
  have hlive : (((a.port i).part.map fun p => (a.part p).active).getD false) = false := by rcases hown with h | h <;> simp [h, hactive]
  simp only [State.portAssign, hport, if_neg hall, hnamed, hforeign, hactive, hlive, Bool.or_self, Bool.false_eq_true, if_false]

end Assign

/-! ETH_CONFIG and ETH_PEER (R303, R304). -/

section Ethernet
variable (hheld : a.portHeld i = false)
include hheld

theorem ethConfig_of_free : a.ethConfig r i = (a.modPort i fun q => { q with eth := {
      ipv6 := bitAt (rf r 1 1) 0, udp := if rf r 2 2 = 0 then 50000 else BitVec.ofNat 16 (rf r 2 2), dscp := (r.body.drop 4).take 8
      mac := (r.body.drop 12).take 6, ip := (r.body.drop 20).take 16, nextHop := (r.body.drop 36).take 6 } }).yes [] :=
  if_neg (by rw [hheld]; exact Bool.false_ne_true)

variable (hone : 1 ≤ rf r 2 2) (hmany : rf r 2 2 ≤ 64)
include hone hmany

theorem ethPeer_of_free : a.ethPeer r i = ((if (a.port i).isEth then a.linksDown i .down else a).modPort i fun q => { q with
    sessions := (List.range (rf r 2 2)).map fun k => (k, {
      state := if (a.port i).isEth && (a.port i).isUp then .up else .down, devId := BitVec.ofNat 32 (rf r (8 + 24 * k) 4),
      ip := (r.body.drop (12 + 24 * k)).take 16 }) }).yes [] := by
  have hargs : ¬(decide (rf r 2 2 = 0) || decide (64 < rf r 2 2)) = true := by
    rw [decide_eq_false (by omega), decide_eq_false (by omega)]; exact Bool.false_ne_true
  exact (if_neg hargs).trans (if_neg (by rw [hheld]; exact Bool.false_ne_true))

end Ethernet

/-! The commands of a link: ADMIT, PORT_READ, REMOVE and PORT_CAPS (R306, R313, R316, R322). -/

section Link
variable {x : Session} (hx : a.linkNamed r i = some x)
include hx

theorem admitCommand_of_down (hdown : (a.link i x).state = .down) : a.admitCommand r i = a.no notReady := by
  rw [State.admitCommand, hx]
  exact if_pos (by rw [decide_eq_true hdown, Bool.or_true])

theorem admitCommand_of_ready (hstate : (a.link i x).state ≠ .down) (hfree : (a.link i x).adm = none)
    (hmanifest : (a.port i).isFlat = true ∨ ∃ p, (a.port i).part = some p ∧ (a.part p).manifest ≠ none) :
    a.admitCommand r i = ((a.admBegin i x).await 0x0706 r (a.portPart i) (linkKey i x), none) := by
  have hready : ¬((!((a.port i).part.bind fun p => (a.part p).manifest).isSome && !(a.port i).isFlat) || decide ((a.link i x).state = .down)) = true := by
    rw [decide_eq_false hstate]
    rcases hmanifest with h | ⟨p, hp, h⟩
    · simp [h]
    · simp [hp, h]
  rw [State.admitCommand, hx]
  exact (if_neg hready).trans (if_neg (by rw [hfree]; exact Bool.false_ne_true))

theorem portRead_of_link : a.portRead r i = a.yes (leBytes 1 (linkStateCode (a.link i x).state) ++
    (a.port i).laneBytes ++ leBytes 6 (a.link i x).reason.toNat ++ leBytes 8 (((a.link i x).partner.map fun h => h.device.toNat).getD 0) ++
    leBytes 4 (a.link i x).latchNs ++ leBytes 4 (unsignedOf 32 (a.link i x).offsetNs) ++ leBytes 4 (a.link i x).replays.toNat ++
    leBytes 4 (a.link i x).resets.toNat ++ leBytes 4 (a.link i x).refusals.toNat ++ leBytes 4 (a.link i x).protocol.toNat ++
    leBytes 4 (a.link i x).lateHb.toNat) := by
  rw [State.portRead, hx]

theorem linkChange_of_unassigned (hport : (a.port i).part = none) (hstage : bitAt r.flags.toNat 0 = false) (op : Nat) :
    a.linkChange op r i = (a.applyChange 0 0 { opcode := BitVec.ofNat 16 op, req := r }).yes [] := by
  simp only [State.linkChange, hx, hport, hstage, Bool.false_eq_true, if_false]

end Link

section Changes
variable (hport : portNamed r.body = some i)
include hport

theorem named_port_index : (⟨rf r 0 1 % 16, Nat.mod_lt _ (by decide)⟩ : PortId) = i := by
  unfold portNamed at hport
  obtain ⟨hlt, hi⟩ := Option.dite_none_right_eq_some.1 hport
  cases hi
  exact Fin.ext (Nat.mod_eq_of_lt hlt)

theorem applyChange_remove : a.applyChange 0 0 { opcode := BitVec.ofNat 16 0x0707, req := r } = a.removeLink i (sessByte (rf r 1 1)) := by
  rw [← named_port_index hport]
  rfl

theorem applyChange_caps : a.applyChange 0 0 { opcode := BitVec.ofNat 16 0x0708, req := r } =
    a.modLink i (sessByte (rf r 1 1)) fun l => { l with caps := (List.range 8).map fun k => BitVec.ofNat 32 (rf r (4 + 4 * k) 4) } := by
  rw [← named_port_index hport]
  rfl

end Changes

/-- Settles O52 (R283–R322): each command of a port or of one of its links, with its conditions met. -/
theorem portCommands : Obligations.PortCommands := by
  refine fun r s a i ha hport => ⟨fun u htakes hmode hwidth hheld hwaiters hu => ⟨fun hoff => ?off, fun hon => ?retrained⟩,
    fun htakes hmode hwidth hheld => exec_no_port rfl htakes ha hport (portMode_of_held hmode hwidth hheld),
    fun htakes hall hidle => exec_yes rfl htakes ha (portAssign_of_free hport hall hidle),
    fun p htakes hall hnamed hown hactive => exec_yes rfl htakes ha (portAssign_of_partition hport hall hnamed hown hactive),
    fun htakes hheld => exec_yes_port rfl htakes ha hport (ethConfig_of_free hheld),
    fun htakes hone hmany hheld heth => ?peers_kept, fun htakes hone hmany hheld heth hup => ?peers_up,
    fun x hx => ⟨fun htakes hstate hfree hmanifest => exec_waits_port rfl htakes ha hport (admitCommand_of_ready hx hstate hfree hmanifest),
      fun htakes hdown => exec_no_port rfl htakes ha hport (admitCommand_of_down hx hdown),
      fun htakes => ⟨_, rfl, exec_yes_port rfl htakes ha hport (portRead_of_link hx)⟩,
      fun htakes hnone hstage => ?remove, fun htakes hnone hstage => ?caps⟩⟩
  case off => exact exec_yes_port rfl htakes ha hport ((portMode_of_free hmode hwidth hheld hwaiters hu).trans (if_pos hoff))
  case retrained => exact exec_waits_port rfl htakes ha hport ((portMode_of_free hmode hwidth hheld hwaiters hu).trans (if_neg hon))
  case peers_kept =>
    have hrun := ethPeer_of_free (r := r) hheld hone hmany
    rw [heth] at hrun
    exact exec_yes_port rfl htakes ha hport hrun
  case peers_up =>
    have hrun := ethPeer_of_free (r := r) hheld hone hmany
    rw [heth, hup] at hrun
    exact exec_yes_port rfl htakes ha hport hrun
  case remove =>
    refine exec_yes_port rfl htakes ha hport (runp := State.removeCommand) ?_
    exact (linkChange_of_unassigned hx hnone hstage 0x0707).trans (congrArg (State.yes · []) (applyChange_remove hport))
  case caps =>
    refine exec_yes_port rfl htakes ha hport (runp := State.capsCommand) ?_
    exact (linkChange_of_unassigned hx hnone hstage 0x0708).trans (congrArg (State.yes · []) (applyChange_caps hport))

end Sys2Proof.Proofs.PortCommands
end

section
/-!
PROOFS. The commands that read the logs, the maps, the counters and the records (13: R327–R361; 14: R390; 15: R414), and the settling of O53.
-/

namespace Sys2Proof.Proofs.HealthCommands
open Sys2Proof.Machine Sys2Proof.Proofs.Answers

variable {a : State} {r : Req} {p : PartId}

/-! FAULT_LOG (R361). -/

/-- The number FAULT_LOG says to go on from: past the last record given, where it gave as many as it may. -/
def nextFault (first head : Nat) (seen : List (Nat × FaultRec)) : Nat := ((seen.drop 30).head?.map fun x => x.1 + 1).getD (max first head)

theorem nextFault_of_few {first head : Nat} {seen : List (Nat × FaultRec)} (h : seen.length < 31) : nextFault first head seen = max first head := by
  rw [nextFault, List.drop_eq_nil_of_le (by omega)]
  rfl

theorem faultLogRead_eq {seen : List (Nat × FaultRec)} (hseen : seen = (a.faultLog.filter fun x => rf r 4 4 ≤ x.1 && a.seesFault r.fn x.1 x.2).take 31) :
    a.faultLogRead r = a.yes (leBytes 4 a.faultHead ++ leBytes 4 seen.length ++ leBytes 8 (nextFault (rf r 4 4) a.faultHead seen) ++
      seen.flatMap fun x => x.2.bytes) := by
  simp only [State.faultLogRead, ← hseen, nextFault]
  cases seen.drop 30 <;> rfl

/-! MAP_READ (R59, R334). -/

theorem mapRead_of_rows (hmap : rf r 1 1 ≤ 1) (hnone : rf r 4 2 = 0) : a.mapRead r = a.yes a.rowBytes := by
  have hargs : (decide (1 < rf r 1 1) || decide (956 < rf r 4 2)) = false := by
    rw [decide_eq_false (by omega), hnone]; rfl
  exact (if_neg (by rw [hargs]; exact Bool.false_ne_true)).trans (if_pos hnone)

section Entries
variable (hmap : rf r 1 1 ≤ 1) (hsome : rf r 4 2 ≠ 0) (hmany : rf r 4 2 ≤ 956) (hnamed : a.named r.body 0 = some p)
include hmap hsome hmany hnamed

theorem mapRead_of_entries {entry : Nat → Nat} (hentry : entry = fun k => if rf r 1 1 = 0 then a.activeEntry k else ((kget k a.slowPlan).getD 0).toNat) :
    a.mapRead r = if !(a.owns r.fn p || decide (a.adminFn = r.fn)) then a.no denied
      else if a.member.gx * a.member.gy < rf r 2 2 + rf r 4 2 then a.bad
      else a.yes (a.rowBytes ++ (List.range (rf r 4 2)).flatMap fun i =>
        leBytes 2 (if (a.nsOfPart p).contains (rf r 2 2 + i) then entry (a.keyOfN p (rf r 2 2 + i)) else 0)) := by
  have hargs : (decide (1 < rf r 1 1) || decide (956 < rf r 4 2)) = false := by
    rw [decide_eq_false (by omega), decide_eq_false (by omega)]; rfl
  subst hentry
  simp only [State.mapRead, hargs, if_neg hsome, hnamed, Bool.false_eq_true, if_false]

end Entries

/-! COUNTERS (R120, R390, R414). -/

section Counters
variable {t : TileId}

/-- COUNTERS names the tile t, and the function may read it: physically by the administrator, or as a position of a partition. -/
def CountersNames (a : State) (r : Req) (t : TileId) : Prop :=
  (bitAt (rf r 1 1) 1 = true ∧ a.adminFn = r.fn ∧ a.tileNamed (rf r 4 1) (rf r 5 1) (rf r 6 1) = some t) ∨
    (bitAt (rf r 1 1) 1 = false ∧ ∃ p, a.named r.body 0 = some p ∧ a.position p (rf r 2 2) = some t ∧ (a.owns r.fn p = true ∨ a.adminFn = r.fn))

theorem countersRead_of_named (h : CountersNames a r t) : a.countersRead r =
    (if bitAt (rf r 1 1) 0 then a.modTile t fun v => { v with counters := {} } else a).yes
      (padTo 64 (a.tile t).counters.bytes ++ leBytes 4 (wardWord (a.tile t).ward (a.heldKey t).isSome) ++ leBytes 4 (a.tile t).load.status.toNat) := by
  rcases h with ⟨hphysical, hadmin, ht⟩ | ⟨hlogical, p, hnamed, ht, hright⟩
  · simp only [State.countersRead, hphysical, hadmin, ht, ne_eq, not_true_eq_false, decide_false, Bool.false_and, Bool.false_eq_true, if_false,
      if_true]
  · have hallowed : ¬(decide (a.adminFn ≠ r.fn) && (false || (true && !a.owns r.fn p))) = true := by
      rcases hright with h | h
      · rw [h]; simp
      · rw [h]; simp
    simp only [State.countersRead, hlogical, hnamed, ht, Option.map_some, Option.getD_some, Option.isSome_some, if_neg hallowed,
      Option.bind_some, Bool.false_eq_true, if_false]

end Counters

/-! RECORD_READ (R327–R342). -/

/-- The object RECORD_READ names by its number. -/
def recordObject (a : State) : Nat → Bytes
  | 1 => a.fuseBytes
  | 2 => a.defectBytes
  | 3 => a.boot.log.flatMap StartRec.bytes
  | 4 => a.boot.report
  | _ => a.testResults.flatMap BistRecord.bytes

theorem recordRead_of_allowed (hlo : 1 ≤ rf r 8 2) (hhi : rf r 8 2 ≤ 2032) (ho : 1 ≤ rf r 0 1 ∧ rf r 0 1 ≤ 5)
    (hadmin : rf r 0 1 ≤ 2 → a.adminFn = r.fn) :
    a.recordRead r = a.yes (leBytes 8 (recordObject a (rf r 0 1)).length ++ ((recordObject a (rf r 0 1)).drop (rf r 4 4)).take (rf r 8 2)) := by
  have hargs : ¬(decide (rf r 0 1 = 0) || decide (5 < rf r 0 1) || decide (rf r 8 2 = 0) || decide (2032 < rf r 8 2)) = true := by
    rw [decide_eq_false (by omega), decide_eq_false (by omega), decide_eq_false (by omega), decide_eq_false (by omega)]
    exact Bool.false_ne_true
  have hright : ¬(decide (rf r 0 1 ≤ 2) && decide (a.adminFn ≠ r.fn)) = true := by simpa using hadmin
  exact (if_neg hargs).trans (if_neg hright)

theorem recordRead_of_object {obj : Bytes} (hlo : 1 ≤ rf r 8 2) (hhi : rf r 8 2 ≤ 2032)
    (h : (rf r 0 1 = 1 ∧ a.adminFn = r.fn ∧ obj = a.fuseBytes) ∨ (rf r 0 1 = 2 ∧ a.adminFn = r.fn ∧ obj = a.defectBytes) ∨
      (rf r 0 1 = 3 ∧ obj = a.boot.log.flatMap StartRec.bytes) ∨ (rf r 0 1 = 4 ∧ obj = a.boot.report) ∨
      (rf r 0 1 = 5 ∧ obj = a.testResults.flatMap BistRecord.bytes)) :
    a.recordRead r = a.yes (leBytes 8 obj.length ++ (obj.drop (rf r 4 4)).take (rf r 8 2)) := by
  have hobj : obj = recordObject a (rf r 0 1) := by
    rcases h with ⟨ho, -, h⟩ | ⟨ho, -, h⟩ | ⟨ho, h⟩ | ⟨ho, h⟩ | ⟨ho, h⟩ <;> rw [ho, h] <;> rfl
  have ho : 1 ≤ rf r 0 1 ∧ rf r 0 1 ≤ 5 := by omega
  have hadmin : rf r 0 1 ≤ 2 → a.adminFn = r.fn := by
    intro hsmall
    rcases h with ⟨-, h, -⟩ | ⟨-, h, -⟩ | ⟨h, -⟩ | ⟨h, -⟩ | ⟨h, -⟩
    · exact h
    · exact h
    all_goals omega
  rw [hobj]
  exact recordRead_of_allowed hlo hhi ho hadmin

/-- Settles O53 (R59, R120, R271–R390, R414): what each reading command answers, and to whom. -/
theorem healthReadCommands : Obligations.HealthReadCommands := by
  refine ⟨fun r s a ha => ⟨fun seen htakes hseen => ⟨_, exec_yes rfl htakes ha (faultLogRead_eq hseen), nextFault_of_few⟩,
      fun p htakes hnamed => ⟨_, rfl, exec_yes_part rfl htakes ha hnamed rfl⟩,
        fun p htakes hnamed => ⟨_, rfl, exec_yes_part rfl htakes ha hnamed rfl⟩,
      fun htakes hmap hnone => exec_yes rfl htakes ha (mapRead_of_rows hmap hnone),
      fun p entry htakes hmap hsome hmany hnamed hentry => ⟨fun hright hgrid => ?entries, fun howner hadmin => ?denied⟩,
      fun htakes => exec_yes rfl htakes ha rfl⟩,
    fun r s a t v ha htakes hv hnames => ⟨fun hkeep => ?kept, fun hclear => ?cleared⟩,
    fun r s a obj ha htakes hlo hhi hobj => exec_yes rfl htakes ha (recordRead_of_object hlo hhi hobj)⟩
  case entries =>
    have hmay : ¬(!(a.owns r.fn p || decide (a.adminFn = r.fn))) = true := by rcases hright with h | h <;> simp [h]
    exact exec_yes rfl htakes ha ((mapRead_of_entries hmap hsome hmany hnamed hentry).trans ((if_neg hmay).trans (if_neg (Nat.not_lt.2 hgrid))))
  case denied =>
    exact exec_no rfl htakes ha ((mapRead_of_entries hmap hsome hmany hnamed hentry).trans (if_pos (by simp [howner, hadmin])))
  case kept =>
    subst hv
    have hrun := countersRead_of_named hnames
    rw [if_neg (by rw [hkeep]; exact Bool.false_ne_true)] at hrun
    exact exec_yes rfl htakes ha hrun
  case cleared =>
    subst hv
    have hrun := countersRead_of_named hnames
    rw [if_pos hclear] at hrun
    exact exec_yes rfl htakes ha hrun

end Sys2Proof.Proofs.HealthCommands
end

section
/-!
PROOFS. The commands that test, fence, clear and reset (13: R331–R371; 14: R381, R400; 16: R437), and the settling of O54.
-/

namespace Sys2Proof.Proofs.ServiceCommands
open Sys2Proof.Machine Sys2Proof.Proofs.Answers

variable {a : State} {r : Req} {p : PartId} {t : TileId}

/-! TEST (R344). -/

section Test

theorem testCommand_of_tile (hphysical : bitAt (rf r 1 1) 0 = true) (ht : a.tileNamed (rf r 4 1) (rf r 5 1) (rf r 6 1) = some t)
    (howns : a.ownsTile r.fn t = true) (hn : a.nOf t = none) : a.testCommand r = a.placeTest t 0xFFFF := by
  simp only [State.testCommand, hphysical, if_true, ht, howns, hn, Bool.not_true, Bool.false_eq_true, if_false, Option.isSome_none]

theorem testCommand_of_position (hlogical : bitAt (rf r 1 1) 0 = false) (hnamed : a.named r.body 0 = some p) (howns : a.owns r.fn p = true)
    (ht : a.position p (rf r 2 2) = some t) : a.testCommand r = a.placeTest t (rf r 2 2) := by
  simp only [State.testCommand, hlogical, hnamed, howns, ht, Bool.not_true, Bool.false_eq_true, if_false]

theorem placeTest_of_testing (htest : (a.tile t).ward.test = true) (n : Nat) : a.placeTest t n = a.no busy := if_pos htest

variable (htest : (a.tile t).ward.test = false)
include htest

theorem placeTest_of_spare (hn : a.nOf t = none) (hfree : a.heldKey t = none ∨ ∃ p, a.partOf t = some p) (n : Nat) :
    a.placeTest t n = (({ a with testResults := [] } : State).modTile t Tile.startTest).yes [0] := by
  have hidle : a.partOf t = none → (a.heldKey t).isSome = false := by
    intro hpart
    rcases hfree with h | ⟨p, h⟩
    · rw [h]; rfl
    · rw [hpart] at h; cases h
  simp only [State.placeTest, htest, hn, Option.isNone_none, Bool.false_eq_true, if_false, if_true]
  cases hpart : a.partOf t with
  | none => exact if_neg (by rw [hidle hpart]; exact Bool.false_ne_true)
  | some p => rfl

theorem placeTest_of_stopped (hpart : a.partOf t = some p) (hn : a.nOf t ≠ none) (hidle : (a.part p).running = false) (n : Nat) :
    a.placeTest t n = (({ a with testResults := [] } : State).fenceSoon t 4).yes [0] := by
  have hheld : (a.nOf t).isNone = false := by simpa [Option.isSome_iff_ne_none] using hn
  simp only [State.placeTest, htest, hpart, hheld, hidle, Bool.not_false, Bool.false_eq_true, if_false, if_true]

end Test

/-! FENCE (R336, R437). -/

section Fence

/-- The search for a number among the indices below n finds the index of that number. -/
theorem find_index {n k : Nat} {i : Fin n} (h : k = i.val) : ((List.finRange n).find? fun j => j.val = k) = some i := by
  cases hfind : (List.finRange n).find? fun j => j.val = k with
  | none => exact absurd (decide_eq_true h.symm) (List.find?_eq_none.1 hfind i (List.mem_finRange i))
  | some j =>
    have hj : decide (j.val = k) = true := List.find?_some (p := fun j : Fin n => decide (j.val = k)) hfind
    exact congrArg some (Fin.ext ((of_decide_eq_true hj).trans h))

theorem fenceCommand_of_reserved (h : bitsOf (rf r 8 8) 44 18 ≠ 0) : a.fenceCommand r = a.no badArg := if_pos h

variable (hloc : bitsOf (rf r 8 8) 44 18 = 0)
include hloc

theorem fenceCommand_of_tile (hkind : rf r 0 1 = 1) (ht : a.tileNamed (rf r 4 1) (rf r 5 1) (rf r 6 1) = some t) :
    a.fenceCommand r = a.fenceTileCmd r t := by
  simp only [State.fenceCommand, hloc, hkind, ht, ne_eq, not_true_eq_false, if_false]

theorem fenceCommand_of_lane {i : PortId} {l : LaneId} (hkind : rf r 0 1 = 2) (hi : rf r 4 1 = i.val) (hl : rf r 5 1 = l.val) :
    a.fenceCommand r = (a.laneFence i l 0 4).yes [] := by
  simp only [State.fenceCommand, hloc, hkind, ne_eq, not_true_eq_false, if_false, find_index hi, find_index hl]

theorem fenceCommand_of_row {w : U64} (hkind : rf r 0 1 = 3) (hw : w = BitVec.ofNat 64 (rf r 8 8)) (hrow : a.rowWord w.toNat = true) :
    a.fenceCommand r = ((a.markRow w 0).logDefect { kind := 4, source := 4, wher := w }).yes [] := by
  subst hw
  simp only [State.fenceCommand, hloc, hkind, ne_eq, not_true_eq_false, if_false, hrow, if_true]

end Fence

theorem fenceTileCmd_of_free (hpart : a.partOf t = none) : a.fenceTileCmd r t = ((a.tileDefect t 4 0 0 0).fenceIdle t false).yes [] := by
  simp only [State.fenceTileCmd, hpart]

theorem fenceTileCmd_of_running (hpart : a.partOf t = some p) (hn : a.nOf t ≠ none) (hrun : (a.part p).running = true) :
    a.fenceTileCmd r t = a.no busy := by
  have hheld : (a.nOf t).isSome = true := Option.isSome_iff_ne_none.2 hn
  simp only [State.fenceTileCmd, hpart, hheld, hrun, Bool.and_self, if_true]

/-! CLEAR_DEFECT (R331). -/

section Defects

theorem clearDefect_of_active {d : Defect} (h : (a.defects.find? fun d => d.seq.toNat = rf r 4 4 && a.defectActive d) = some d) :
    a.clearDefect r = if d.kind = 6 then a.no denied else (a.logDefect { kind := 7, source := 4, wher := d.wher, detail := d.seq }).yes [] := by
  rw [State.clearDefect, h]

theorem clearDefect_of_unknown (h : ∀ d ∈ a.defects, d.seq.toNat ≠ rf r 4 4) : a.clearDefect r = a.no badArg := by
  have hnone : (a.defects.find? fun d => d.seq.toNat = rf r 4 4 && a.defectActive d) = none :=
    List.find?_eq_none.2 fun d hd => by rw [decide_eq_false (h d hd)]; exact Bool.false_ne_true
  rw [State.clearDefect, hnone]
  rfl

end Defects

/-! RESET, COLD_START and START_CLEAR (R366, R371, R381, R400). -/

section Reset

theorem resetCommand_of_tile (hkind : rf r 0 1 = 3) (ht : a.resetTile r = some t) (hpart : a.partOf t = some p) : a.resetCommand r =
    if a.owns r.fn p then ((a.modTile t fun v => { v with resetDue := max 1 v.resetDue }).await 0x080B r p (tileResetKey t)).later else a.no denied := by
  simp only [State.resetCommand, hkind, ht, hpart]

theorem resetCommand_of_partition (hkind : rf r 0 1 = 4) (hnamed : a.named r.body 1 = some p) (howns : a.owns r.fn p = true) :
    a.resetCommand r = ((a.modPart p fun q => { q with resetDue := true }).await 0x080B r p (partResetKey p), none) := by
  simp only [State.resetCommand, hkind, hnamed, howns, if_true]
  rfl

theorem resetCommand_of_device (hkind : rf r 0 1 = 5) (hadmin : a.adminFn = r.fn) :
    a.resetCommand r = (({ a with boot := { a.boot with resetDue := true } } : State).await 0x080B r 0 deviceResetKey, none) := by
  simp only [State.resetCommand, hkind, hadmin, if_true]
  rfl

theorem resetCommand_of_cycle (hkind : rf r 0 1 = 6) (hadmin : a.adminFn = r.fn) :
    a.resetCommand r = ({ a with power := { a.power with cycleDue := true } } : State).yes [] := by
  simp only [State.resetCommand, hkind, hadmin, if_true]

theorem resetCommand_of_other (hkind : rf r 0 1 = 5 ∨ rf r 0 1 = 6) (hadmin : a.adminFn ≠ r.fn) : a.resetCommand r = a.no denied := by
  rcases hkind with h | h <;> simp only [State.resetCommand, h, hadmin, if_false]

theorem coldStart_of_flag (h : rf r 0 1 ≤ 1) : a.coldStart r = ({ a with boot := { a.boot with cold := decide (rf r 0 1 = 1) } } : State).yes [] :=
  if_neg (Nat.not_lt.2 h)

end Reset

/-- Settles O54 (R331–R371, R381, R400, R437): each command with its conditions met, and who is denied. -/
theorem testFenceDefectAndResetCommands : Obligations.TestFenceDefectAndResetCommands := by
  refine ⟨fun r s a t ha => ⟨fun htakes hphysical ht howns hn => ⟨fun htest => ?testing, fun htest hfree => ⟨_, rfl, ?spare⟩⟩,
      fun p htakes hlogical hnamed howns ht hpart hn hidle htest => ⟨_, rfl, ?stopped⟩,
      fun htakes hkind hloc ht hpart => exec_yes rfl htakes ha ((fenceCommand_of_tile hloc hkind ht).trans (fenceTileCmd_of_free hpart)),
      fun p htakes hkind hloc ht hpart hn hrun => exec_no rfl htakes ha ((fenceCommand_of_tile hloc hkind ht).trans (fenceTileCmd_of_running hpart hn hrun)),
      fun p htakes hkind ht hpart => ⟨fun howns => ?reset, fun howns => ?foreign⟩⟩,
    fun r s a ha => ⟨fun i l htakes hkind hloc hi hl => exec_yes rfl htakes ha (fenceCommand_of_lane hloc hkind hi hl),
      fun w htakes hkind hloc hw hrow => exec_yes rfl htakes ha (fenceCommand_of_row hloc hkind hw hrow),
      fun htakes h => exec_no rfl htakes ha (fenceCommand_of_reserved h), fun d htakes hd => ⟨fun hkind => ?clear, fun hkind => ?seam⟩,
      fun htakes h => exec_no rfl htakes ha (clearDefect_of_unknown h),
      fun p htakes hkind hnamed howns => exec_waits rfl htakes ha (resetCommand_of_partition hkind hnamed howns),
      fun htakes hkind hadmin => ⟨_, rfl, exec_waits rfl htakes ha (resetCommand_of_device hkind hadmin)⟩,
      fun htakes hkind hadmin => ⟨_, rfl, exec_yes rfl htakes ha (resetCommand_of_cycle hkind hadmin)⟩,
      fun htakes hkind hadmin => exec_no rfl htakes ha (resetCommand_of_other hkind hadmin),
      fun htakes h => ⟨_, rfl, exec_yes rfl htakes ha (coldStart_of_flag h)⟩, fun htakes => ⟨_, rfl, exec_yes rfl htakes ha rfl⟩⟩⟩
  case testing => exact exec_no rfl htakes ha ((testCommand_of_tile hphysical ht howns hn).trans (placeTest_of_testing htest _))
  case spare => exact exec_yes rfl htakes ha ((testCommand_of_tile hphysical ht howns hn).trans (placeTest_of_spare htest hn hfree _))
  case stopped =>
    exact exec_yes rfl htakes ha ((testCommand_of_position hlogical hnamed howns ht).trans (placeTest_of_stopped htest hpart hn hidle _))
  case reset => exact exec_waits rfl htakes ha ((resetCommand_of_tile hkind ht hpart).trans (if_pos howns))
  case foreign =>
    exact exec_no rfl htakes ha ((resetCommand_of_tile hkind ht hpart).trans (if_neg (by rw [howns]; exact Bool.false_ne_true)))
  case clear => exact exec_yes rfl htakes ha ((clearDefect_of_active hd).trans (if_neg hkind))
  case seam => exact exec_no rfl htakes ha ((clearDefect_of_active hd).trans (if_pos hkind))

end Sys2Proof.Proofs.ServiceCommands
end

section
/-!
PROOFS. The commands of power, firmware, security and services (11: R305; 15: R412, R440–R442; 17: R446–R458; 18: R463–R468), and the settling of
O55.
-/

namespace Sys2Proof.Proofs.ModuleCommands
open Sys2Proof.Machine Sys2Proof.Proofs.Answers

variable {a : State} {r : Req} {p : PartId}

/-! POWER_STATE of the module (R446, R448). -/

section ModulePower
variable (hpart : rf r 0 1 = 0xFF)
include hpart

theorem powerState_of_module : a.powerState r = a.modulePower r := if_pos hpart

theorem powerState_of_other (hadmin : a.adminFn ≠ r.fn) : a.powerState r = a.no denied := (powerState_of_module hpart).trans (if_pos hadmin)

variable (hadmin : a.adminFn = r.fn) (hstage : bitAt r.flags.toNat 0 = false)
include hadmin hstage

section Idle
variable (hcode : rf r 1 1 = 3 ∨ rf r 1 1 = 4) (hmask : rf r 2 2 = 0)
include hcode hmask

theorem powerState_of_idle_request : a.powerState r =
    if allParts.any fun p => (a.part p).present && (a.part p).active then a.no busy
    else if a.power.modState = rf r 1 1 then a.yes [] else if a.power.modState = 4 then a.no notReady else (a.enterIdle (rf r 1 1)).yes [] := by
  have hsmall : ¬4 < rf r 1 1 := by omega
  have hidle : ¬rf r 1 1 ≤ 2 := by omega
  rw [powerState_of_module hpart]
  simp only [State.modulePower, hadmin, hstage, hmask, ne_eq, not_true_eq_false, if_false, if_neg hsmall, if_neg hidle, Bool.false_eq_true]

theorem powerState_of_active (hactive : ∃ p, (a.part p).present = true ∧ (a.part p).active = true) : a.powerState r = a.no busy := by
  obtain ⟨p, hpresent, hactive⟩ := hactive
  have hany : (allParts.any fun p => (a.part p).present && (a.part p).active) = true :=
    List.any_eq_true.2 ⟨p, List.mem_finRange p, by rw [hpresent, hactive]; rfl⟩
  rw [powerState_of_idle_request hpart hadmin hstage hcode hmask, if_pos hany]

theorem powerState_of_inactive (hinactive : ∀ p, (a.part p).present = true → (a.part p).active = false) (hother : a.power.modState ≠ rf r 1 1)
    (hawake : a.power.modState ≠ 4) : a.powerState r = (a.enterIdle (rf r 1 1)).yes [] := by
  have hnone : ¬(allParts.any fun p => (a.part p).present && (a.part p).active) = true := by
    rw [List.any_eq_true]
    rintro ⟨p, -, hp⟩
    obtain ⟨hpresent, hactive⟩ := Bool.and_eq_true_iff.1 hp
    rw [hinactive p hpresent] at hactive
    exact absurd hactive Bool.false_ne_true
  rw [powerState_of_idle_request hpart hadmin hstage hcode hmask, if_neg hnone, if_neg hother, if_neg hawake]

end Idle

section Awake
variable (hcode : rf r 1 1 ≤ 2)
include hcode

theorem powerState_of_awake_request : a.powerState r = if a.power.modState = 0 then a.spareHds r else (a.leaveIdle r (rf r 1 1), none) := by
  have hsmall : ¬4 < rf r 1 1 := by omega
  rw [powerState_of_module hpart]
  simp only [State.modulePower, hadmin, hstage, ne_eq, not_true_eq_false, if_false, if_neg hsmall, if_pos hcode, Bool.false_eq_true]
  rfl

end Awake
end ModulePower

theorem spareHds_of_free (hsome : maskBits 16 (rf r 2 2) ≠ []) (hfree : ∀ hd ∈ maskBits 16 (rf r 2 2), hd < a.member.halfDies ∧
    a.retired.getLsbD hd = false ∧ ∀ p, (a.part p).present = true → (a.part p).hasHd hd = false) :
    a.spareHds r = if (a.spareVerify (rf r 1 1) (maskBits 16 (rf r 2 2))).2 then
      ((a.spareVerify (rf r 1 1) (maskBits 16 (rf r 2 2))).1.hdPower (rf r 1 1) (rf r 2 2)).yes []
      else (a.spareVerify (rf r 1 1) (maskBits 16 (rf r 2 2))).1.no stageAborted := by
  have hargs : ¬((maskBits 16 (rf r 2 2)).isEmpty || (maskBits 16 (rf r 2 2)).any (fun hd => a.member.halfDies ≤ hd)) = true := by
    simp only [Bool.or_eq_true, List.isEmpty_iff, List.any_eq_true, decide_eq_true_eq, not_or, not_exists, not_and]
    exact ⟨hsome, fun hd hhd => Nat.not_le.2 (hfree hd hhd).1⟩
  have howned : ¬((maskBits 16 (rf r 2 2)).any fun hd => allParts.any fun p => (a.part p).present && (a.part p).hasHd hd) = true := by
    simp only [List.any_eq_true, Bool.and_eq_true]
    rintro ⟨hd, hhd, p, -, hpresent, hhas⟩
    rw [(hfree hd hhd).2.2 p hpresent] at hhas
    exact absurd hhas Bool.false_ne_true
  have hretired : ¬((maskBits 16 (rf r 2 2)).any fun hd => a.retired.getLsbD hd) = true := by
    rw [List.any_eq_true]
    rintro ⟨hd, hhd, hbit⟩
    rw [(hfree hd hhd).2.1] at hbit
    exact absurd hbit Bool.false_ne_true
  exact (if_neg hargs).trans ((if_neg howned).trans (if_neg hretired))

/-! ENERGY_READ (R458). -/

theorem energyRead_of_allowed {log es : List EnergyRec} (h : (rf r 0 1 = 0xFF ∧ a.adminFn = r.fn ∧ log = a.deviceEnergy) ∨
      (rf r 0 1 ≠ 0xFF ∧ ∃ p, a.named r.body 0 = some p ∧ (a.owns r.fn p = true ∨ a.adminFn = r.fn) ∧ log = (a.part p).energy))
    (hes : es = (log.filter fun e => rf r 8 8 ≤ e.beat.toNat).take 63) :
    a.energyRead r = a.yes (leBytes 8 es.length ++ es.flatMap EnergyRec.bytes) := by
  subst hes
  rcases h with ⟨hdevice, hadmin, rfl⟩ | ⟨hpart, p, hnamed, hright, rfl⟩
  · exact (if_pos hdevice).trans (if_pos hadmin)
  · have hmay : (a.owns r.fn p || decide (a.adminFn = r.fn)) = true := by rcases hright with h | h <;> simp [h]
    simp only [State.energyRead, if_neg hpart, hnamed, hmay, if_true]

/-! Firmware (R463–R465). -/

section Firmware

theorem fwWrite_of_allowed (halign : rf r 4 4 % 16 = 0) (hroom : rf r 4 4 + (r.body.drop 8).length ≤ 67108864) {f : FwSlot}
    (hf : f = { a.slot (1 - a.boot.slot) with
      factory := false, valid := false, data := cellsPut (some 0) (a.slot (1 - a.boot.slot)).data (rf r 4 4) (r.body.drop 8) }) :
    a.fwWrite r = ({ a with boot := { a.boot.setSlot (1 - a.boot.slot) f with active := a.boot.slot } } : State).yes [] := by
  have hargs : ¬(decide (rf r 4 4 % 16 ≠ 0) || decide (67108864 < rf r 4 4 + (r.body.drop 8).length)) = true := by
    rw [decide_eq_false (Nat.not_lt.2 hroom), halign]
    exact Bool.false_ne_true
  subst hf
  exact if_neg hargs

theorem fwCommit_of_verified (h : a.fwCheck (a.slot (1 - a.boot.slot)) (rf r 0 4) = none) : a.fwCommit r =
    ({ a with boot := { a.boot.setSlot (1 - a.boot.slot) { a.slot (1 - a.boot.slot) with valid := true } with
      active := 1 - a.boot.slot, strikes := 0 } } : State).yes [] := by
  simp only [State.fwCommit, h]

theorem fwCommit_of_refused {st : Nat} (h : a.fwCheck (a.slot (1 - a.boot.slot)) (rf r 0 4) = some st) : a.fwCommit r = a.no st := by
  simp only [State.fwCommit, h]

end Firmware

/-! SPDM, ADMIN_SET and TELEMETRY (R412, R468). -/

section Security

theorem spdmCommand_of_unsigned (hunsigned : Config.spdmSigned r.body = false) {u : State} {answer : Bytes}
    (hreply : a.spdmReply (.host r.fn) r.body = (u, answer)) : a.spdmCommand r = u.yes answer := by
  simp only [State.spdmCommand, hunsigned, hreply, Bool.false_eq_true, if_false]

theorem spdmCommand_of_signed (hsigned : Config.spdmSigned r.body = true) : a.spdmCommand r =
    if a.sec.debug then a.yes spdmError else ((a.await 0x0A04 r 0 0).sign { transport := .host r.fn, req := some r, msg := r.body }).later :=
  if_pos hsigned

theorem adminSet_of_function {f : FnId} (hf : rf r 0 1 = f.val) : a.adminSet r = ({ a with adminNext := f } : State).yes [] := by
  rw [State.adminSet, ServiceCommands.find_index hf]

theorem telemetryRead_of_group (h : rf r 0 1 ≤ 3) : a.telemetryRead r = a.yes (takeWhole 2040 (a.telemetry r.fn (rf r 0 1))).flatten :=
  if_neg (Nat.not_lt.2 h)

end Security

/-! SVC_BIND and SVC_STATS (R305). -/

section Services

theorem svcBind_of_allowed {i : PortId} {b : SvcBinding} {n : Nat} (hidle : (a.part p).running = false) (hi : rf r 1 1 = i.val)
    (hb : b = { part := p, port := i, udp := if rf r 2 2 = 0 then 50001 else BitVec.ofNat 16 (rf r 2 2), inChan := rf r 4 4,
                outChan := rf r 8 4, body := r.body })
    (hgood : a.bindBad p b = false) (hport : (a.port i).part = some p) (heth : (a.port i).isEth = true) (hfree : a.freeBinding = some n) :
    a.svcBind r p = (({ a with bindings := kput n b a.bindings } : State).partWrite p (b.f 48 8) (leBytes 8 n ++ (r.body.drop 32).take 56)).yes
      (leBytes 2 n) := by
  have hindex : (⟨rf r 1 1 % 16, Nat.mod_lt _ (by decide)⟩ : PortId) = i := Fin.ext ((Nat.mod_eq_of_lt (hi ▸ i.isLt)).trans hi)
  simp only [State.svcBind, hindex, ← hb, hidle, hgood, hport, heth, hfree, ne_eq, not_true_eq_false, decide_false, Bool.not_true, Bool.or_self,
    Bool.false_eq_true, if_false]

theorem svcStats_of_bound {b : SvcBinding} (hb : a.bindingOf p (rf r 2 2) = some b) : a.svcStats r p = a.yes (leBytes 8 b.requests.toNat ++
    leBytes 8 b.replies.toNat ++ b.refuse.flatMap (fun c => leBytes 4 c.toNat) ++ leBytes 4 b.spillPeak.toNat) := by
  rw [State.svcStats, hb]

end Services

/-- Settles O55 (R305, R412, R440–R448, R458–R468): each command with its conditions met, and who is denied. -/
theorem powerFirmwareSecurityAndServiceCommands : Obligations.PowerFirmwareSecurityAndServiceCommands := by
  refine ⟨fun r s a ha => ⟨fun code htakes hpart hadmin hcode hstage => ?power,
      fun htakes hpart hadmin => exec_no rfl htakes ha (powerState_of_other hpart hadmin),
      fun log es htakes hlog hes => exec_yes rfl htakes ha (energyRead_of_allowed hlog hes),
      fun htakes halign hroom => ⟨_, _, rfl, rfl, exec_yes rfl htakes ha (fwWrite_of_allowed halign hroom rfl)⟩,
      fun htakes h => ⟨_, rfl, exec_yes rfl htakes ha (fwCommit_of_verified h)⟩, fun st htakes h => exec_no rfl htakes ha (fwCommit_of_refused h),
      fun htakes => exec_yes rfl htakes ha rfl,
      fun u answer htakes hunsigned hreply => exec_yes rfl htakes ha (spdmCommand_of_unsigned hunsigned hreply),
      fun htakes hsigned hdebug => ?signed, fun htakes hsigned hdebug => ?locked_out,
      fun f htakes hf => ⟨_, rfl, exec_yes rfl htakes ha (adminSet_of_function hf)⟩,
      fun htakes h => exec_yes rfl htakes ha (telemetryRead_of_group h)⟩,
    fun r s a p ha hnamed => ⟨fun i b n htakes hidle hi hb hgood hport heth hfree =>
        ⟨_, rfl, exec_yes_part rfl htakes ha hnamed (svcBind_of_allowed hidle hi hb hgood hport heth hfree)⟩,
      fun b htakes hb => exec_yes_part rfl htakes ha hnamed (svcStats_of_bound hb)⟩⟩
  case power =>
    subst hcode
    refine ⟨fun hidle hmask hinactive hother hawake => ?_, fun hidle hmask hactive => ?_, fun hsmall hstate => ?_,
      fun hsmall hstate hsome hfree u hu => ?_⟩
    · exact exec_yes rfl htakes ha (powerState_of_inactive hpart hadmin hstage hidle hmask hinactive hother hawake)
    · exact exec_no rfl htakes ha (powerState_of_active hpart hadmin hstage hidle hmask hactive)
    · exact exec_waits rfl htakes ha ((powerState_of_awake_request hpart hadmin hstage hsmall).trans (if_neg hstate))
    · have hrun := (powerState_of_awake_request hpart hadmin hstage hsmall).trans ((if_pos hstate).trans (spareHds_of_free hsome hfree))
      subst hu
      refine ⟨fun hok => exec_yes rfl htakes ha (hrun.trans (if_pos hok)), fun hbad => ?_⟩
      exact exec_no (st := stageAborted) rfl htakes ha (hrun.trans (if_neg (by rw [hbad]; exact Bool.false_ne_true)))
  case signed =>
    exact exec_waits rfl htakes ha ((spdmCommand_of_signed hsigned).trans (if_neg (by rw [hdebug]; exact Bool.false_ne_true)))
  case locked_out => exact exec_yes rfl htakes ha ((spdmCommand_of_signed hsigned).trans (if_pos hdebug))

end Sys2Proof.Proofs.ModuleCommands
end

section
/-!
PROOFS. The votes of an apply and its vote deadline (15: R429, R430; 2: R63).
-/

namespace Sys2Proof.Proofs.ApplyVotes
open Sys2Proof.Machine

/-! A partition that awaits one apply, of its pending set or sent without STAGE, and what `put` makes of its change. -/

/-- The first apply of the partition is a: the pending set's, or the one sent without STAGE; `put` puts another in its place. -/
def HoldsApply (q : Part) (a : Apply) (put : Part → Apply → Part) : Prop :=
  put = (fun q b => { q with apply := some b }) ∧ q.apply = some a ∨ put = (fun q b => { q with direct := [b] }) ∧ q.apply = none ∧ q.direct = [a]

section Holds
variable {q x : Part} {a : Apply} {put : Part → Apply → Part}

theorem HoldsApply.congr (h : HoldsApply q a put) (happly : x.apply = q.apply) (hdirect : x.direct = q.direct) : HoldsApply x a put := by
  rw [HoldsApply, happly, hdirect]
  exact h

theorem HoldsApply.find (h : HoldsApply q a put) {which : Apply → Bool} (hwhich : which a = true) : q.applies.find? which = some a := by
  rcases h with ⟨-, happly⟩ | ⟨-, happly, hdirect⟩
  · simp [Part.applies, happly, hwhich]
  · simp [Part.applies, happly, hdirect, hwhich]

theorem HoldsApply.modApply (h : HoldsApply q a put) {which : Apply → Bool} (hwhich : which a = true) (f : Apply → Apply) :
    q.modApply which f = put q (f a) := by
  rcases h with ⟨rfl, happly⟩ | ⟨rfl, happly, hdirect⟩
  · simp [Part.modApply, happly, hwhich]
  · simp [Part.modApply, happly, hdirect, Part.modApply.go, hwhich]

end Holds

/-! One vote (R429, R63). -/

/-- The apply awaits the vote of the unit, and its deadline has not passed. -/
def awaitsVote (s : State) (p : PartId) (u : UnitName) : Apply → Bool := fun a =>
  a.outcome.isNone && a.refused.isNone && a.units.contains u && !a.votes.contains u && decide (s.jobTime p ≤ (s.part p).applyAt a - 1000)

section Vote
variable {s v : State} {p : PartId} {u : UnitName} {m : U16} {a : Apply} {ready : Bool}

theorem awaitsVote_of (hout : a.outcome = none) (href : a.refused = none) (hunit : u ∈ a.units) (hvote : u ∉ a.votes)
    (htime : s.jobTime p ≤ (s.part p).applyAt a - 1000) : awaitsVote s p u a = true := by
  simp [awaitsVote, hout, href, hunit, hvote, htime]

theorem not_awaitsVote_of (h : a.outcome ≠ none ∨ a.refused ≠ none ∨ u ∉ a.units ∨ u ∈ a.votes ∨ (s.part p).applyAt a - 1000 < s.jobTime p) :
    ¬awaitsVote s p u a = true := by
  simp only [awaitsVote, Bool.and_eq_true, Option.isNone_iff_eq_none, List.contains_iff_mem, Bool.not_eq_true', decide_eq_true_eq]
  rintro ⟨⟨⟨⟨hout, href⟩, hunit⟩, hvote⟩, htime⟩
  have hvote' : u ∉ a.votes := fun hmem => absurd (List.contains_iff_mem.2 hmem) (by rw [hvote]; exact Bool.false_ne_true)
  rcases h with h | h | h | h | h
  · exact h hout
  · exact h href
  · exact h hunit
  · exact hvote' h
  · omega

theorem stageVote_of_unawaited (h : (s.part p).applies.find? (awaitsVote s p u) = none) : s.stageVote p u ready m =
    (s.mapVote p u).elim s fun b => if ready then s else s.modPart p fun q => { q with mapRefused := some b } := by
  unfold awaitsVote at h
  simp only [State.stageVote, h]
  cases s.mapVote p u <;> rfl

theorem seamVerify_of_good (h : (∀ id, u ≠ .seam id) ∧ v = s ∨
      ∃ id, u = .seam id ∧ 500 ≤ m.toNat ∧ v = s.modSeam id.toNat fun x => { x with marginPs := m }) : s.seamVerify p u m = (v, true) := by
  rcases h with ⟨hother, rfl⟩ | ⟨id, rfl, hmargin, rfl⟩
  · cases u with
    | seam id => exact absurd rfl (hother id)
    | _ => rfl
  · exact if_pos hmargin

theorem seamVerify_of_short {id : U16} (hm : m.toNat < 500) : s.seamVerify p (.seam id) m =
    (((s.modSeam id.toNat fun x => { x with marginPs := m }).modSeam id.toNat fun x => { x with verifyFailed := true }).unitFault (some p)
      { cls := 0x11, unit := 1, addr := id.toNat, bit := m.toNat, clears := false }, false) := if_neg (Nat.not_le.2 hm)

theorem part_unitFault (s : State) (p : PartId) (x : FaultArgs) :
    (s.unitFault (some p) x).part p = { s.part p with faults := (s.part p).faults + 1 } := by
  rw [State.unitFault, State.countFault, State.part_modPart, StepLatch.part_toInbox]

variable {put : Part → Apply → Part} (hs : HoldsApply (s.part p) a put) (hwaits : awaitsVote s p u a = true) (hv : HoldsApply (v.part p) a put)
include hs hwaits hv

theorem stageVote_of_refusal {good : Bool} (hverify : s.seamVerify p u m = (v, good)) (hno : (ready && good) = false) :
    s.stageVote p u ready m = v.setPart p (put (v.part p) { a with refused := some u }) := by
  have hfind := hs.find hwaits
  have hmod := hv.modApply hwaits fun a => { a with refused := some u }
  unfold awaitsVote at hfind hmod
  simp only [State.stageVote, hfind, hverify, hno, Bool.false_eq_true, if_false, State.modPart, hmod]

theorem stageVote_of_ready (hverify : s.seamVerify p u m = (v, true)) {b : Apply} (hb : b = { a with votes := a.votes ++ [u] }) :
    s.stageVote p u true m = if a.hold && b.allVoted && !a.held then (v.setPart p (put (v.part p) { b with held := true })).answerApply a 0
      else v.setPart p (put (v.part p) b) := by
  have hfind := hs.find hwaits
  have hmod := fun x : Apply => hv.modApply hwaits fun _ => x
  unfold awaitsVote at hfind hmod
  subst hb
  simp only [State.stageVote, hfind, hverify, Bool.and_self, if_true, State.modPart, hmod]
  cases a.hold && ({ a with votes := a.votes ++ [u] } : Apply).allVoted && !a.held with
  | false => simp only [Bool.or_false, Bool.false_eq_true, if_false]
  | true => simp only [Bool.or_true, if_true]; rfl

end Vote

/-! The vote deadline (R429, R430). -/

section Deadline
variable {s v u : State} {p : PartId} {a : Apply}

/-- The partition awaits the apply a alone. -/
def AwaitsOnly (q : Part) (a : Apply) : Prop := q.apply = some a ∧ q.direct = [] ∧ a.direct = false ∨ q.apply = none ∧ q.direct = [a] ∧ a.direct = true

theorem AwaitsOnly.applies {q : Part} (h : AwaitsOnly q a) : q.applies = [a] := by
  rcases h with ⟨happly, hdirect, -⟩ | ⟨happly, hdirect, -⟩ <;> simp [Part.applies, happly, hdirect]

theorem AwaitsOnly.fixed {q : Part} (h : AwaitsOnly q a) (pend : List Change) (f : Apply → Apply) :
    ({ q with pending := pend } : Part).modApply (fun b => decide (b = a)) f =
      { q with pending := pend, apply := if a.direct then none else some (f a), direct := if a.direct then [f a] else [] } := by
  rcases h with ⟨happly, hdirect, hform⟩ | ⟨happly, hdirect, hform⟩
  · simp [Part.modApply, happly, hdirect, hform]
  · simp [Part.modApply, happly, hdirect, hform, Part.modApply.go]

theorem AwaitsOnly.dropped {q : Part} (h : AwaitsOnly q a) (pend : List Change) :
    ({ q with pending := pend, apply := if a.direct then q.apply else none, direct := if a.direct then q.direct.erase a else q.direct } : Part) =
      { q with pending := pend, apply := none, direct := [] } := by
  rcases h with ⟨happly, hdirect, hform⟩ | ⟨happly, hdirect, hform⟩
  · simp [hdirect, hform]
  · simp [happly, hdirect, hform]

theorem AwaitsOnly.congr {q x : Part} (h : AwaitsOnly q a) (happly : x.apply = q.apply) (hdirect : x.direct = q.direct) : AwaitsOnly x a := by
  rw [AwaitsOnly, happly, hdirect]
  exact h

theorem voteDeadline_of_none (h : ∀ a ∈ (s.part p).applies, a.outcome ≠ none) : exec (.voteDeadline p) s = .next s := by
  have hopen : ((s.part p).applies.filter fun a => a.outcome.isNone) = [] :=
    List.filter_eq_nil_iff.2 fun a ha => by simpa [Option.isNone_iff_eq_none] using h a ha
  show execVoteDeadline p s = _
  simp only [execVoteDeadline, hopen, List.find?_nil]

variable (hout : a.outcome = none) (honly : AwaitsOnly (s.part p) a)
include hout honly

theorem voteDeadline_of_one : exec (.voteDeadline p) s = .next (s.judgeApply p a) := by
  have hopen : ((s.part p).applies.filter fun a => a.outcome.isNone) = [a] := by rw [honly.applies]; simp [hout]
  have hfirst : ([a].find? fun x => [a].all fun b => decide ((s.part p).applyAt x ≤ (s.part p).applyAt b)) = some a := by simp
  show execVoteDeadline p s = _
  simp only [execVoteDeadline, hopen, hfirst]

omit hout in
theorem judgeApply_of_committed (hvoted : a.allVoted = true) (hfits : (s.part p).promoteFits a = true) (hcommit : a.hold = false ∨ a.committed = true)
    (hu : u = s.reachJob p ((s.part p).applyAt a - 999)) : s.judgeApply p a = u.setPart p { s.part p with
      pending := if a.direct then (s.part p).pending else [], apply := if a.direct then none else some { a with outcome := some true }
      direct := if a.direct then [{ a with outcome := some true }] else [] } := by
  have hgo : (a.allVoted && (s.part p).promoteFits a && (!a.hold || a.committed)) = true := by
    rw [hvoted, hfits]
    rcases hcommit with h | h <;> rw [h] <;> simp
  subst hu
  simp only [State.judgeApply, hgo, if_true, State.modPart, StepLatch.part_reachJob]
  rw [honly.fixed]

omit hout in
theorem judgeApply_of_aborted (hu : u = s.reachJob p ((s.part p).applyAt a - 999))
    (h : (a.allVoted = true ∧ (s.part p).promoteFits a = true ∧ a.hold = true ∧ a.committed = false ∧ v = u) ∨
      ((a.allVoted = false ∨ (s.part p).promoteFits a = false) ∧ v = u.unitFault (some p) {
        cls := 0x17, unit := unitCode ((a.refused.or (a.units.find? fun x => !a.votes.contains x)).getD .partitionUnit)
        addr := a.req.tag.toNat + a.opcode.toNat * 65536, clears := false })) {w : State}
    (hw : w = v.setPart p { v.part p with pending := if a.direct then (s.part p).pending else [], apply := none, direct := [] }) :
    s.judgeApply p a = if a.held || a.committed then w else w.answerApply a 7 := by
  subst hw
  rcases h with ⟨hvoted, hfits, hhold, hcommit, rfl⟩ | ⟨hbad, rfl⟩
  · have hgood : (a.allVoted && (s.part p).promoteFits a) = true := by rw [hvoted, hfits]; rfl
    subst hu
    simp only [State.judgeApply, hgood, hhold, hcommit, Bool.not_true, Bool.or_self, Bool.and_false, Bool.false_eq_true, if_false, if_true,
      State.modPart,
      StepLatch.part_reachJob, honly.dropped]
    rfl
  · have hgood : (a.allVoted && (s.part p).promoteFits a) = false := by rcases hbad with h | h <;> simp [h]
    have hkept : AwaitsOnly ((u.unitFault (some p) {
        cls := 0x17, unit := unitCode ((a.refused.or (a.units.find? fun x => !a.votes.contains x)).getD .partitionUnit)
        addr := a.req.tag.toNat + a.opcode.toNat * 65536, clears := false }).part p) a := by
      subst hu
      exact honly.congr (by rw [part_unitFault, StepLatch.part_reachJob]) (by rw [part_unitFault, StepLatch.part_reachJob])
    subst hu
    simp only [State.judgeApply, hgood, Bool.false_and, Bool.false_eq_true, if_false, State.modPart]
    rw [hkept.dropped]
    rfl

end Deadline

end Sys2Proof.Proofs.ApplyVotes
end

section
/-!
PROOFS. The deadline evaluation of a beat and the boundary slot that begins the next (2: R52–R57), and the settling of O8.
-/

namespace Sys2Proof.Proofs.Beats
open Sys2Proof.Machine Sys2Proof.Proofs.ApplyVotes

/-! The deadline evaluation (R56, R57). -/

section Deadline
variable {s u : State} {p : PartId} {t : TileId}

theorem beatDeadline_of_unjudged (hpresent : (s.part p).present = true) (hjudged : (s.part p).judged = false) :
    exec (.beatDeadline p) s = .next (s.deadline p) := congrArg Host.Outcome.next (if_pos (by rw [hpresent, hjudged]; rfl))

variable (hu : u = s.modTile t fun v => v.idleProgress (s.part p).beatInStep)
include hu

theorem tileDeadline_of_idle (h : u.tileLive t = false ∨ (s.part p).mayIssue = false) : State.tileDeadline p s t = u := by
  subst hu
  exact if_pos (by rcases h with h | h <;> simp only [h, Bool.not_false, Bool.true_or, Bool.or_true])

variable (hlive : u.tileLive t = true) (hissue : (s.part p).mayIssue = true) (hstream : (u.tile t).streamCheck (s.part p).beatInStep = none)
  (hover : (u.tile t).overrun = false) (hstalls : (u.tile t).boundStalls = [])
include hlive hissue hstream hover hstalls

theorem tileDeadline_of_waited {x : Int} (hwaited : (u.tile t).bwaited = true) (hstamp : (u.tile t).stamp = some x) :
    State.tileDeadline p s t = if (s.part p).t ((s.part p).beat + 1) < x then u.overran t (x - (s.part p).t ((s.part p).beat + 1)).toNat else u := by
  subst hu
  simp only [State.tileDeadline, hlive, hissue, hstream, hover, hstalls, hwaited, hstamp, Bool.not_true, Bool.or_self, Bool.false_eq_true, if_false,
    List.foldl_nil, Option.isSome_none]
  by_cases hlate : (s.part p).t ((s.part p).beat + 1) < x
  · simp only [if_pos hlate]
  · simp only [if_neg hlate]

theorem tileDeadline_of_unstamped (h : (u.tile t).bwaited = false ∨ (u.tile t).stamp = none) :
    State.tileDeadline p s t = u.overran t 0xFFFFFFFF := by
  subst hu
  rcases h with h | h
  · simp only [State.tileDeadline, hlive, hissue, hstream, hover, hstalls, h, Bool.not_true, Bool.not_false, Bool.or_self, Bool.false_eq_true,
      if_false,
      if_true, List.foldl_nil, Option.isSome_none]
  · simp only [State.tileDeadline, hlive, hissue, hstream, hover, hstalls, h, Bool.not_true, Bool.or_self, Bool.false_eq_true, if_false,
      List.foldl_nil, Option.isSome_none, ite_self]

end Deadline

/-! What the parts of the boundary slot leave as it is. -/

section Frame

theorem modPart_of_same {s : State} {p : PartId} {f : Part → Part} (h : f (s.part p) = s.part p) : s.modPart p f = s := by
  rw [State.modPart, h, State.setPart]
  simp [State.part]

theorem fold_unchanged {α β : Type} {f : State → α → State} (g : State → β)
    (h : ∀ s x, g (f s x) = g s) (xs : List α) : ∀ s, g (xs.foldl f s) = g s := by
  induction xs with
  | nil => exact fun s => rfl
  | cons x xs ih => exact fun s => (ih _).trans (h s x)

theorem part_forTiles (ts : List TileId) (f : TileId → State → Tile → Tile) (s : State) (q : PartId) :
    (s.forTiles ts fun s t => s.modTile t (f t s)).part q = s.part q :=
  fold_unchanged (f := fun s t => s.modTile t (f t s)) (State.part · q) (fun _ _ => rfl) ts s

theorem waiters_forTiles (ts : List TileId) (f : TileId → State → Tile → Tile) (s : State) :
    (s.forTiles ts fun s t => s.modTile t (f t s)).waiters = s.waiters :=
  fold_unchanged (f := fun s t => s.modTile t (f t s)) State.waiters (fun _ _ => rfl) ts s

theorem waiters_reachJob (s : State) (p : PartId) (x : Int) : (s.reachJob p x).waiters = s.waiters := by
  obtain ⟨c, h⟩ := State.reach_eq s (x - (s.part p).offset)
  rw [State.reachJob, h]

theorem part_slotZero (s : State) (p q : PartId) : (s.slotZero p).part q = s.part q := part_forTiles ..

theorem waiters_slotZero (s : State) (p : PartId) : (s.slotZero p).waiters = s.waiters := waiters_forTiles ..

theorem waiters_bookEnergy (s : State) (p : PartId) (q : Part) : (s.bookEnergy p q).waiters = s.waiters := by
  unfold State.bookEnergy
  split <;> rfl

/-- The booking of a beat's energy changes the energy fields of the partition alone. -/
theorem part_bookEnergy (s : State) (p : PartId) (q : Part) : (s.bookEnergy p q).part p = { s.part p with
    energy := ledgerAdd (s.part p).energy (s.energyRec q), energyUj := 0, peakW := 0, bubbles := 0, hardHit := false, headroomHit := false
    dutyHeld := false } := by
  have hbooked := State.part_modPart s p fun x => { x with
    energy := ledgerAdd x.energy (s.energyRec q), energyUj := 0, peakW := 0, bubbles := 0, hardHit := false, headroomHit := false
    dutyHeld := false }
  unfold State.bookEnergy
  split <;> exact hbooked

theorem waiters_cleanBits (s : State) (p : PartId) : (s.cleanBits p).waiters = s.waiters := by
  unfold State.cleanBits
  rw [State.modPart_waiters]
  refine (fold_unchanged State.waiters ?_ _ _).trans ((fold_unchanged State.waiters ?_ _ _).trans (waiters_forTiles ..))
  · exact fun _ _ => rfl
  · exact fun _ _ => rfl

/-- The clean bits of a partition are set: of its own part of the state, its bit alone. -/
theorem part_cleanBits (s : State) (p : PartId) : (s.cleanBits p).part p = { s.part p with unclean := none } := by
  unfold State.cleanBits
  rw [State.part_modPart]
  refine congrArg (fun x : Part => { x with unclean := none })
    ((fold_unchanged (State.part · p) ?_ _ _).trans ((fold_unchanged (State.part · p) ?_ _ _).trans (part_forTiles ..)))
  · exact fun _ _ => rfl
  · exact fun _ _ => rfl

end Frame

/-! The boundary in the middle of a slot with nothing staged (R52). -/

/-- Nothing of the partition waits for a boundary: no apply, fence, repair, map change or descriptor list. -/
structure NothingStaged (q : Part) : Prop where
  apply : q.apply = none
  direct : q.direct = []
  fenceNext : q.fenceNext = []
  repairs : q.repairs = []
  slowDue : q.slowDue = false
  restoreRows : q.restoreRows = []
  dlists : q.dlists.toList.any Option.isSome = false

theorem NothingStaged.applies {q : Part} (h : NothingStaged q) : q.applies = [] := by rw [Part.applies, h.apply, h.direct]; rfl

section MidSlot
variable {s : State} {p : PartId}

theorem latchResults_of_midslot {q : Part} (hjob : q.job = .none ∨ (q.job = .running ∧ q.latch.halt = none ∧ q.beatInStep ≠ q.k ∧ q.abandoning = false)) :
    s.latchResults p q = s := by
  rcases hjob with hjob | ⟨-, hhalt, hk, habandon⟩
  · exact if_pos (by simp [Part.running, hjob])
  · simp [State.latchResults, hhalt, hk, habandon]

theorem serveScans_of_none (h : ∀ w ∈ s.waiters, w.opcode ≠ 0x0408) : s.serveScans p = s := by
  have hnone : (s.waiters.find? fun w => decide (w.opcode = 0x0408) && !w.queued && decide (w.part = p)) = none :=
    List.find?_eq_none.2 fun w hw => by rw [decide_eq_false (h w hw)]; exact Bool.false_ne_true
  simp only [State.serveScans, hnone]

theorem slotBoundary_of_midslot {q : Part} (h : q.beatInStep ≠ 0) : s.slotBoundary p q = s := if_pos h

theorem runLists_of_none (h : (s.part p).dlists.toList.any Option.isSome = false) : s.runLists p = s := if_pos (by rw [h]; rfl)

variable (hq : NothingStaged (s.part p))
include hq

theorem noteInserts_of_nothing (x : Int) : s.noteInserts p x = s := by
  simp only [State.noteInserts, hq.applies, List.filter_nil, List.flatMap_nil, List.foldl_nil]

theorem applyDue_of_nothing (x : Int) : s.applyDue p x = s := by
  simp only [State.applyDue, hq.applies, List.filter_nil, List.foldl_nil]

theorem fenceRepairs_of_nothing : s.fenceRepairs p = s := if_pos (by rw [hq.repairs]; rfl)

theorem switchRepairs_of_nothing : s.switchRepairs p = s := if_pos (by rw [hq.repairs]; rfl)

theorem applySlow_of_nothing : s.applySlow p = s := if_neg (by rw [hq.slowDue, Bool.false_and]; exact Bool.false_ne_true)

theorem restoreIdle_of_nothing : s.restoreIdle p = s := by
  simp only [State.restoreIdle, hq.restoreRows, List.foldl_nil, ite_self]

theorem boundaryFences_of_nothing : s.boundaryFences p = s.modPart p fun x => { x with
    mapRefused := x.mapRefused.filter fun b => decide ((s.part p).beat < b) } := by
  have hcleared : ({ s.part p with fenceNext := [] } : Part) = s.part p := by rw [← hq.fenceNext]
  have hstart : (s.modPart p fun q => { q with fenceNext := [] }) = s := modPart_of_same hcleared
  simp only [State.boundaryFences, hq.fenceNext, List.foldl_nil, hstart, fenceRepairs_of_nothing hq, ite_self, switchRepairs_of_nothing hq,
    applySlow_of_nothing hq, restoreIdle_of_nothing hq]
  rfl

end MidSlot

section Boundary
variable {s : State} {p : PartId}

theorem beatBoundary_of_ready (hready : (s.part p).boundaryReady = true) (bad : List BoundaryEcc) : exec (.beatBoundary p bad) s =
    .next (bad.foldl (fun s b => s.boundaryEcc p b) ((bad.foldl (fun s b => s.boundaryUpset b) s).boundary p)) :=
  congrArg Host.Outcome.next (if_pos hready)

theorem judged_boundary_of_start {a : Apply} (hstart : (s.part p).startDue = some a) : ((s.boundary p).part p).judged = false := by
  unfold State.boundary
  dsimp only
  rw [hstart]
  dsimp only
  rw [State.part_modPart]

/-- The state once the boundary slot of the beat is reached and what ZQ.BSYNC waits for is noted. -/
def slotReached (s : State) (p : PartId) : State :=
  ((s.reachJob p ((s.part p).t ((s.part p).beat + 1) + 8)).slotZero p).forTiles (s.holders p) fun s t => s.modTile t fun v =>
    { v with bsyncGo := decide (v.seq.run = SeqRun.stalled SeqWait.bsync) && v.bwaited && !v.overrun }

theorem part_slotReached (s : State) (p q : PartId) : (slotReached s p).part q = s.part q := by
  rw [slotReached, part_forTiles, part_slotZero, StepLatch.part_reachJob]

theorem waiters_slotReached (s : State) (p : PartId) : (slotReached s p).waiters = s.waiters := by
  rw [slotReached, waiters_forTiles, waiters_slotZero, waiters_reachJob]

/-- The state with the ended beat's energy booked and the next beat counted. -/
def beatCounted (s : State) (p : PartId) : State :=
  ((slotReached s p).bookEnergy p (s.part p)).modPart p fun x => { x with beat := (s.part p).beat + 1, judged := false }

theorem part_beatCounted (s : State) (p : PartId) : (beatCounted s p).part p = { s.part p with
    energy := ledgerAdd (s.part p).energy ((slotReached s p).energyRec (s.part p)), energyUj := 0, peakW := 0, bubbles := 0, hardHit := false
    headroomHit := false, dutyHeld := false, beat := (s.part p).beat + 1, judged := false } := by
  rw [beatCounted, State.part_modPart, part_bookEnergy, part_slotReached]

theorem waiters_beatCounted (s : State) (p : PartId) : (beatCounted s p).waiters = s.waiters := by
  rw [beatCounted, State.modPart_waiters, waiters_bookEnergy, waiters_slotReached]

/-- The state with the clean bits set where no job runs. -/
def bitsSet (s : State) (p : PartId) : State := if (s.part p).job = .none then (beatCounted s p).cleanBits p else beatCounted s p

theorem part_bitsSet (s : State) (p : PartId) : ∃ bit, (bitsSet s p).part p = { (beatCounted s p).part p with unclean := bit } := by
  unfold bitsSet
  split
  · exact ⟨none, part_cleanBits ..⟩
  · exact ⟨_, rfl⟩

theorem waiters_bitsSet (s : State) (p : PartId) : (bitsSet s p).waiters = s.waiters := by
  unfold bitsSet
  split
  · rw [waiters_cleanBits, waiters_beatCounted]
  · exact waiters_beatCounted ..

theorem NothingStaged.bitsSet (h : NothingStaged (s.part p)) : NothingStaged ((bitsSet s p).part p) := by
  obtain ⟨bit, hpart⟩ := part_bitsSet s p
  rw [hpart, part_beatCounted]
  exact ⟨h.apply, h.direct, h.fenceNext, h.repairs, h.slowDue, h.restoreRows, h.dlists⟩

theorem beat_bitsSet (s : State) (p : PartId) : ((bitsSet s p).part p).beat = (s.part p).beat + 1 ∧ ((bitsSet s p).part p).s = (s.part p).s ∧
    ((bitsSet s p).part p).judged = false := by
  obtain ⟨bit, hpart⟩ := part_bitsSet s p
  rw [hpart, part_beatCounted]
  exact ⟨rfl, rfl, rfl⟩

/-- The boundary in the middle of a slot, with nothing staged: the next beat begins, and the map switches refused before it are forgotten. -/
theorem boundary_of_midslot {w : State} (hstart : (s.part p).startDue = none) (hstaged : NothingStaged (s.part p))
    (hwaiters : ∀ w ∈ s.waiters, w.opcode ≠ 0x0408) (hmid : ((s.part p).beat + 1) % (s.part p).s ≠ 0)
    (hjob : (s.part p).job = .none ∨
      ((s.part p).job = .running ∧ (s.part p).latch.halt = none ∧ (s.part p).beatInStep ≠ (s.part p).k ∧ (s.part p).abandoning = false))
    (hw : w = (bitsSet s p).modPart p fun x => { x with mapRefused := x.mapRefused.filter fun b => decide ((s.part p).beat + 1 < b) }) :
    s.boundary p = w.forTiles (w.holders p) fun s t => s.modTile t fun x => x.beatBegins (s.part p).mayIssue := by
  obtain ⟨hbeat, hs, -⟩ := beat_bitsSet s p
  have hnext := hstaged.bitsSet
  have hslot : ((bitsSet s p).part p).beatInStep ≠ 0 := by rw [Part.beatInStep, hbeat, hs]; exact hmid
  have hscans : ∀ w ∈ (bitsSet s p).waiters, w.opcode ≠ 0x0408 := by rw [waiters_bitsSet]; exact hwaiters
  have hlists : (w.part p).dlists.toList.any Option.isSome = false := by
    rw [hw, State.part_modPart]
    exact hnext.dlists
  have hunfolded : s.boundary p =
      let s4 := ((bitsSet s p).noteInserts p ((s.part p).t ((s.part p).beat + 1))).slotBoundary p
        (((bitsSet s p).noteInserts p ((s.part p).t ((s.part p).beat + 1))).part p)
      let s6 := (((s4.serveScans p).applyDue p ((s.part p).t ((s.part p).beat + 1))).boundaryFences p).runLists p
      s6.forTiles (s6.holders p) fun s t => s.modTile t fun v => v.beatBegins (s.part p).mayIssue := by
    have hlatch := latchResults_of_midslot (s := slotReached s p) (p := p) hjob
    unfold slotReached at hlatch
    unfold State.boundary
    dsimp only
    rw [hstart]
    dsimp only
    rw [hlatch]
    rfl
  rw [hunfolded]
  dsimp only
  rw [noteInserts_of_nothing hnext, slotBoundary_of_midslot hslot, serveScans_of_none hscans, applyDue_of_nothing hnext,
    boundaryFences_of_nothing hnext, hbeat, ← hw, runLists_of_none hlists]

end Boundary

/-- Settles O8 (R52–R63, R429, R430): the deadline evaluation, the boundary in the middle of a slot, and an apply by its votes and its deadline. -/
theorem beatEvents : Obligations.BeatEvents := by
  refine ⟨fun p s hpresent hjudged => ⟨_, _, _, rfl, rfl, rfl, beatDeadline_of_unjudged hpresent hjudged⟩,
    fun p s u t hu => ⟨tileDeadline_of_idle hu, fun hlive hissue hstream hover hstalls => ⟨fun x hwaited hstamp hx => ?in_time,
      fun x hwaited hstamp hx => ?late, tileDeadline_of_unstamped hu hlive hissue hstream hover hstalls⟩⟩,
    fun p bad s hready => beatBoundary_of_ready hready bad,
    fun p s q hq hready hstart happly hdirect hfence hrepairs hslow hrestore hlists hwaiters hmid hjob =>
      ⟨slotReached s p, beatCounted s p, _, ?reached, ?counted, rfl, ?midslot⟩,
    fun p s a hready hstart => ⟨_, beatBoundary_of_ready hready [], judged_boundary_of_start hstart⟩,
    fun p s u ready m a put hs hout href hunit hvote htime => ?votes, fun p s u ready m hnone => ⟨fun h => ?unheard, fun b hno hb => ?map_refused⟩,
    fun p s a hout honly => ⟨_, _, rfl, rfl, fun hvoted hfits hcommit => ?committed,
      fun v h => ⟨_, rfl, fun hheld hcommit => ?aborted, fun h' => ?silent⟩⟩,
    fun p s => voteDeadline_of_none⟩
  case in_time => rw [tileDeadline_of_waited hu hlive hissue hstream hover hstalls hwaited hstamp, if_neg (Int.not_lt.2 hx)]
  case late => rw [tileDeadline_of_waited hu hlive hissue hstream hover hstalls hwaited hstamp, if_pos hx]
  case reached => subst hq; rfl
  case counted => subst hq; rfl
  case midslot =>
    subst hq
    obtain ⟨hbeat, -, hjudged⟩ := beat_bitsSet s p
    have hstaged : NothingStaged (s.part p) := ⟨happly, hdirect, hfence, hrepairs, hslow, hrestore, hlists⟩
    refine ⟨?_, ?_, ?_⟩
    · exact (congrArg Part.beat (State.part_modPart ..)).trans hbeat
    · exact (congrArg Part.judged (State.part_modPart ..)).trans hjudged
    · exact (beatBoundary_of_ready hready []).trans (congrArg _ (boundary_of_midslot hstart hstaged hwaiters hmid hjob rfl))
  case votes =>
    have hwaits : awaitsVote s p u a = true := awaitsVote_of hout href hunit hvote htime
    refine ⟨fun v hv => ?_, fun id hid hm => ⟨_, rfl, ?_⟩⟩
    · have hpart : v.part p = s.part p := by rcases hv with ⟨-, rfl⟩ | ⟨id, -, -, rfl⟩ <;> rfl
      have hverify := seamVerify_of_good (p := p) hv
      have hheld : HoldsApply (v.part p) a put := by rw [hpart]; exact hs
      refine ⟨fun hyes b hb => ?_, fun hno => ?_⟩
      · subst hyes
        have hvoted := stageVote_of_ready hs hwaits hheld hverify hb
        rw [hpart] at hvoted
        refine ⟨fun h => congrArg _ (hvoted.trans (if_neg ?_)), fun hhold hall hfresh => congrArg _ (hvoted.trans (if_pos ?_))⟩
        · rcases h with h | h | h <;> simp [h]
        · rw [hhold, hall, hfresh]; rfl
      · have hrefused := stageVote_of_refusal hs hwaits hheld (ready := ready) hverify (by rw [hno]; rfl)
        rw [hpart] at hrefused
        exact congrArg _ hrefused
    · subst hid
      refine congrArg _ (stageVote_of_refusal hs hwaits ?_ (seamVerify_of_short hm) (Bool.and_false _))
      exact HoldsApply.congr hs (by rw [part_unitFault]; rfl) (by rw [part_unitFault]; rfl)
  case unheard =>
    have hfind : (s.part p).applies.find? (awaitsVote s p u) = none := List.find?_eq_none.2 fun a ha => not_awaitsVote_of (hnone a ha)
    refine congrArg _ ((stageVote_of_unawaited hfind).trans ?_)
    rcases h with h | h
    · rw [h]
      cases s.mapVote p u <;> rfl
    · rw [h]; rfl
  case map_refused =>
    have hfind : (s.part p).applies.find? (awaitsVote s p u) = none := List.find?_eq_none.2 fun a ha => not_awaitsVote_of (hnone a ha)
    refine congrArg _ ((stageVote_of_unawaited hfind).trans ?_)
    rw [hb, hno]
    rfl
  case committed => exact (voteDeadline_of_one hout honly).trans (congrArg _ (judgeApply_of_committed honly hvoted hfits hcommit rfl))
  case aborted =>
    refine (voteDeadline_of_one hout honly).trans (congrArg _ ((judgeApply_of_aborted honly rfl h rfl).trans (if_neg ?_)))
    rw [hheld, hcommit]
    exact Bool.false_ne_true
  case silent =>
    refine (voteDeadline_of_one hout honly).trans (congrArg _ ((judgeApply_of_aborted honly rfl h rfl).trans (if_pos ?_)))
    rcases h' with h' | h' <;> rw [h'] <;> simp

end Sys2Proof.Proofs.Beats
end
